-- ==== Sys2Proof/Word.lean ====
section
/-!
DEFINITION. The word types of the ZE88: the byte (R4), the 32-bit parcel (R56) and the 64-bit register (R193).
-/
namespace Sys2Proof

/-- One byte of memory. -/
abbrev Byte := BitVec 8

/-- One 32-bit instruction parcel (R56). -/
abbrev Parcel := BitVec 32

/-- The 64-bit value of a g register or CSR (R193). -/
abbrev Word := BitVec 64

end Sys2Proof
end

