-- ==== Sys2Proof/Machine/SMap.lean ====
section
/-!
DEFINITION. Sparse maps from numbers, as lists of pairs in one canonical form: keys strictly rising.
`SMap.get` and `SMap.set` read and write with a default, which no entry of a canonical map equals; `SMap.find` and
`SMap.put` keep whatever was put. Memory is such a map of bytes, so its entries are cells (Host.Cell).
-/
namespace Sys2Proof.Machine

/-- A sparse map: pairs of a key and a value. -/
abbrev SMap (α : Type) := List (Nat × α)

/-- The value at a key, if the map lists one. -/
def SMap.find {α : Type} (k : Nat) : SMap α → Option α
  | [] => none
  | (j, v) :: r => if j = k then some v else SMap.find k r

/-- The map without any entry at a key. -/
def SMap.del {α : Type} (k : Nat) : SMap α → SMap α
  | [] => []
  | (j, v) :: r => if j = k then SMap.del k r else (j, v) :: SMap.del k r

/-- Insert an entry before the first greater key. -/
def SMap.ins {α : Type} (k : Nat) (v : α) : SMap α → SMap α
  | [] => [(k, v)]
  | (j, w) :: r => if k < j then (k, v) :: (j, w) :: r else (j, w) :: SMap.ins k v r

/-- The map with the value at a key replaced. -/
def SMap.put {α : Type} (k : Nat) (v : α) (m : SMap α) : SMap α := SMap.ins k v (SMap.del k m)

/-- The value at a key, `d` where the map lists none. -/
def SMap.get {α : Type} (d : α) (m : SMap α) (k : Nat) : α := (SMap.find k m).getD d

/-- Write a value; the default leaves no entry. -/
def SMap.set {α : Type} [DecidableEq α] (d : α) (m : SMap α) (k : Nat) (v : α) : SMap α :=
  if v = d then SMap.del k m else SMap.put k v m

/-- Every key of the map exceeds `k`. -/
def SMap.above {α : Type} (k : Nat) (m : SMap α) : Bool := m.all (fun e => k < e.1)

/-- Keys rise strictly. -/
def SMap.sorted {α : Type} : SMap α → Bool
  | [] => true
  | (k, _) :: r => SMap.above k r && SMap.sorted r

/-- The canonical form: keys rise strictly and no entry holds the default. -/
def SMap.wf {α : Type} [DecidableEq α] (d : α) (m : SMap α) : Bool :=
  SMap.sorted m && m.all (fun e => e.2 ≠ d)

/-- Change the value at a key the map lists. -/
def SMap.upd {α : Type} (k : Nat) (f : α → α) (m : SMap α) : SMap α :=
  match SMap.find k m with
  | some v => SMap.put k (f v) m
  | none => m

end Sys2Proof.Machine
end

