-- ==== Sys2Proof/Syntax.lean ====
section
/-!
DEFINITION. Syntax of the ZE88: the fields of the instruction formats (R58, R59) and the one inductive of all steps.
The constructors with fields, and NOP to TINV_ALL without, are the instructions a strand issues, with what their
encodings leave free. The others are the steps the other agents take (spec/opcode_table.json). Which strand, task,
queue, message or die acts in a step, and what the world outside the machine answered, is a `Sel`, which State holds.
-/
namespace Sys2Proof

/-- A 6-bit register field naming g0 to g63 (R62). -/
abbrev Reg := BitVec 6

/-- The fields of format V3 after OP and FN (R58). -/
structure V3 where
  vd : BitVec 9 := 0
  va : BitVec 9 := 0
  vb : BitVec 9 := 0
  m : BitVec 4 := 0
  et : BitVec 4 := 0
  z : Bool := false
  x : Bool := false
  rm : BitVec 3 := 0
  sat : Bool := false
  ft : Bool := false
deriving DecidableEq, Repr, Inhabited

/-- The fields of format VM (R58); FN is a zero field of every VM instruction. -/
structure VM where
  vd : BitVec 9 := 0
  a : Reg := 0
  oc : BitVec 4 := 0
  m : BitVec 4 := 0
  et : BitVec 4 := 0
  b : Reg := 0
  disp : BitVec 17 := 0
deriving DecidableEq, Repr, Inhabited

/-- The fields of format VW after OP and FN (R58). -/
structure VW where
  v : V3 := {}
  stepb : BitVec 8 := 0
  count : BitVec 12 := 0
  stepd : BitVec 8 := 0
  stepa : BitVec 8 := 0
deriving DecidableEq, Repr, Inhabited

/-- The fields of format EC after OP and FN (R58): an engine command. -/
structure EC where
  ws : BitVec 8 := 0
  wt : BitVec 8 := 0
  ss : BitVec 8 := 0
  si : BitVec 4 := 0
  e : BitVec 2 := 0
  a : Reg := 0
  b : Reg := 0
  c : Reg := 0
deriving DecidableEq, Repr, Inhabited

/-- The fields of format EX (R58): a collective command. -/
structure EX where
  slot : BitVec 10 := 0
  ws : BitVec 8 := 0
  wt : BitVec 8 := 0
  ss : BitVec 8 := 0
  si : BitVec 4 := 0
  a : Reg := 0
  b : Reg := 0
  c : Reg := 0
deriving DecidableEq, Repr, Inhabited

/-- The fields of format SR64 after OP and FN (R58): a ranked or exact-window atomic. -/
structure SR64 where
  sz : Bool := false
  nr : Bool := false
  d : Reg := 0
  a : Reg := 0
  b : Reg := 0
  k : Reg := 0
  n : Reg := 0
  anch : BitVec 8 := 0
deriving DecidableEq, Repr, Inhabited

/-- The fields of format MC (R58): one shadow-table write. -/
structure MC where
  e : BitVec 2 := 0
  lv : BitVec 3 := 0
  fld : BitVec 4 := 0
  a : Reg := 0
  lit : BitVec 32 := 0
deriving DecidableEq, Repr, Inhabited

/-- Why a fetched word is no instruction: the fates of R70 steps 1 to 7. -/
inductive Fate where
  /-- Step 1: a parcel faults in translation (R57); `miss` is XLATE_MISS, else XLATE_PERM. -/
  | fetchFault (miss stage : Bool) (addr : BitVec 64)
  /-- Step 2: LEN = 0b11. -/
  | illegalLength (parcel : BitVec 32)
  /-- Step 3: the first parcel is zero. -/
  | zeroWord
  /-- Steps 4 and 6. -/
  | illegalOpcode (parcel : BitVec 32)
  /-- Step 5. -/
  | privilege (parcel : BitVec 32)
  /-- Step 7. -/
  | reservedField (parcel : BitVec 32)
deriving DecidableEq, Repr, Inhabited

/-- What the guard core finds at a comparison (R394, R395). -/
inductive GuardOutcome where
  | agree
  | mismatch
deriving DecidableEq, Repr, Inhabited

/-- What a hop finds when a flit arrives (R366 to R368). -/
inductive HopOutcome where
  /-- The CRC is good and the flit moves on, or is accepted. -/
  | good
  /-- The CRC is bad and the flit is sent again; the sixteenth failure drops it. -/
  | crcBad
  /-- The destination has no room, refuses the slot and reserves a buffer. -/
  | refuse
deriving DecidableEq, Repr, Inhabited

/-- The requests of the attestation interface (R446). -/
inductive SpdmKind where
  | certificate
  | challenge
  | measurements
deriving DecidableEq, Repr, Inhabited

/-- What the patrol scrub found (R172, R442). -/
inductive ScrubFinding where
  | hbmCorrected (die channel : Nat)
  | hbmUncorrectable (addr : Nat)
  | sramCorrected (die core : Nat)
deriving DecidableEq, Repr, Inhabited

/-- Who acts in a step, and what the world outside the machine contributes to it. -/
structure Sel where
  /-- key of the task in State -/
  task : Nat := 0
  /-- strand 0 to 7 of the task -/
  strand : Nat := 0
  /-- engine queue 0 to 8, or a host queue -/
  queue : Nat := 0
  /-- identity of a message in flight -/
  msg : Nat := 0
  /-- a second message, that a request merges with -/
  merge : Option Nat := none
  /-- compute die, 8 × module + d -/
  die : Nat := 0
  /-- physical core, launch key or packet number, as the step says -/
  item : Nat := 0
  /-- units of progress an engine makes in the step -/
  count : Nat := 0
  /-- virtual function -/
  fn : Nat := 0
  /-- register offset or host address -/
  addr : Nat := 0
  /-- bytes of a host access -/
  size : Nat := 0
  /-- the value a host or debugger writes -/
  val : BitVec 64 := 0
  /-- a host access writes; a test passes -/
  flag : Bool := false
  /-- own-scratchpad accesses of the step are left in flight instead of performing at once -/
  lazy : Bool := false
  hop : HopOutcome := .good
  guard : GuardOutcome := .agree
  spdm : SpdmKind := .certificate
  scrub : ScrubFinding := .sramCorrected 0 0
  nonce : BitVec 256 := 0
  /-- strands that timing keeps from issuing in the cycle, bit k for strand k -/
  busy : Nat := 0
  /-- what parcel n of a fetch reads: octal digit n, 0 the present value, v an old one (R57) -/
  stale : Nat := 0
deriving DecidableEq, Repr, Inhabited

/-- Every step of the machine (spec/opcode_table.json), one constructor per row. -/
inductive Instr where
  /-- R180: Ends a handler or heritage routine, restores the strand, re-executes or skips the trapped instruction or command, and lifts the freeze. -/
  | tret (skip : Bool)
  /-- R201: g[D] gets the 64-bit wrapping sum of g[A] and g[B]. -/
  | add (d a b : Reg)
  /-- R201: g[D] gets the 64-bit wrapping difference g[A] - g[B]. -/
  | sub (d a b : Reg)
  /-- R201: g[D] gets g[A] AND g[B]. -/
  | and (d a b : Reg)
  /-- R201: g[D] gets g[A] OR g[B]. -/
  | or (d a b : Reg)
  /-- R201: g[D] gets g[A] XOR g[B]. -/
  | xor (d a b : Reg)
  /-- R201: g[D] gets g[A] AND NOT g[B]. -/
  | andn (d a b : Reg)
  /-- R201: g[D] gets g[A] shifted left by g[B][5:0]. -/
  | sll (d a b : Reg)
  /-- R201: g[D] gets g[A] shifted right logically by g[B][5:0]. -/
  | srl (d a b : Reg)
  /-- R201: g[D] gets g[A] shifted right arithmetically by g[B][5:0]. -/
  | sra (d a b : Reg)
  /-- R201: g[D] gets g[A] rotated right by g[B][5:0]. -/
  | ror (d a b : Reg)
  /-- R201: g[D] gets the signed smaller of g[A] and g[B]. -/
  | min (d a b : Reg)
  /-- R201: g[D] gets the signed larger of g[A] and g[B]. -/
  | max (d a b : Reg)
  /-- R201: g[D] gets the unsigned smaller of g[A] and g[B]. -/
  | minu (d a b : Reg)
  /-- R201: g[D] gets the unsigned larger of g[A] and g[B]. -/
  | maxu (d a b : Reg)
  /-- R201: g[D] gets (g[A] << 1) + g[B], wrapping. -/
  | addsc1 (d a b : Reg)
  /-- R201: g[D] gets (g[A] << 2) + g[B], wrapping. -/
  | addsc2 (d a b : Reg)
  /-- R201: g[D] gets (g[A] << 3) + g[B], wrapping. -/
  | addsc3 (d a b : Reg)
  /-- R201: g[D] gets (g[A] << 4) + g[B], wrapping. -/
  | addsc4 (d a b : Reg)
  /-- R202: g[D] gets the low 64 bits of g[A] × g[B]. -/
  | mul (d a b : Reg)
  /-- R202: g[D] gets the high 64 bits of the signed 128-bit product. -/
  | mulh (d a b : Reg)
  /-- R202: g[D] gets the high 64 bits of the unsigned 128-bit product. -/
  | mulhu (d a b : Reg)
  /-- R202: g[D] gets the signed quotient, with the non-trapping special cases of R24. -/
  | div (d a b : Reg)
  /-- R202: g[D] gets the unsigned quotient; division by zero gives all ones. -/
  | divu (d a b : Reg)
  /-- R202: g[D] gets the signed remainder. -/
  | rem (d a b : Reg)
  /-- R202: g[D] gets the unsigned remainder. -/
  | remu (d a b : Reg)
  /-- R203: g[D] gets the number of leading zero bits of g[A]. -/
  | clz (d a : Reg)
  /-- R203: g[D] gets the number of trailing zero bits of g[A]. -/
  | ctz (d a : Reg)
  /-- R203: g[D] gets the number of set bits of g[A]. -/
  | popc (d a : Reg)
  /-- R203: g[D] gets g[A] sign-extended from 8 bits. -/
  | sextB (d a : Reg)
  /-- R203: g[D] gets g[A] sign-extended from 16 bits. -/
  | sextH (d a : Reg)
  /-- R203: g[D] gets g[A] sign-extended from 32 bits. -/
  | sextW (d a : Reg)
  /-- R203: g[D] gets g[A] zero-extended from 8 bits. -/
  | zextB (d a : Reg)
  /-- R203: g[D] gets g[A] zero-extended from 16 bits. -/
  | zextH (d a : Reg)
  /-- R203: g[D] gets g[A] zero-extended from 32 bits. -/
  | zextW (d a : Reg)
  /-- R204: g[D] gets g[A] plus the sign-extended immediate. -/
  | addi (d a : Reg) (imm : BitVec 12)
  /-- R204: g[D] gets g[A] AND the sign-extended immediate. -/
  | andi (d a : Reg) (imm : BitVec 12)
  /-- R204: g[D] gets g[A] OR the sign-extended immediate. -/
  | ori (d a : Reg) (imm : BitVec 12)
  /-- R204: g[D] gets g[A] XOR the sign-extended immediate. -/
  | xori (d a : Reg) (imm : BitVec 12)
  /-- R205: g[D] gets g[A] shifted left by the immediate amount. -/
  | slli (d a : Reg) (amt : BitVec 6)
  /-- R205: g[D] gets g[A] shifted right logically by the immediate amount. -/
  | srli (d a : Reg) (amt : BitVec 6)
  /-- R205: g[D] gets g[A] shifted right arithmetically by the immediate amount. -/
  | srai (d a : Reg) (amt : BitVec 6)
  /-- R207: Sets predicate p[D[3:0]] when g[A] equals g[B]. -/
  | cmpEq (p : BitVec 4) (a b : Reg)
  /-- R207: Sets the predicate when g[A] differs from g[B]. -/
  | cmpNe (p : BitVec 4) (a b : Reg)
  /-- R207: Sets the predicate when g[A] < g[B] signed. -/
  | cmpLt (p : BitVec 4) (a b : Reg)
  /-- R207: Sets the predicate when g[A] >= g[B] signed. -/
  | cmpGe (p : BitVec 4) (a b : Reg)
  /-- R207: Sets the predicate when g[A] < g[B] unsigned. -/
  | cmpLtu (p : BitVec 4) (a b : Reg)
  /-- R207: Sets the predicate when g[A] >= g[B] unsigned. -/
  | cmpGeu (p : BitVec 4) (a b : Reg)
  /-- R208: Sets the predicate when g[A] equals the sign-extended immediate. -/
  | cmpiEq (p : BitVec 4) (a : Reg) (imm : BitVec 12)
  /-- R208: Sets the predicate when g[A] differs from the immediate. -/
  | cmpiNe (p : BitVec 4) (a : Reg) (imm : BitVec 12)
  /-- R208: Sets the predicate when g[A] < the immediate, signed. -/
  | cmpiLt (p : BitVec 4) (a : Reg) (imm : BitVec 12)
  /-- R208: Sets the predicate when g[A] < the sign-extended immediate, unsigned. -/
  | cmpiLtu (p : BitVec 4) (a : Reg) (imm : BitVec 12)
  /-- R209: p[D] gets p[A] AND p[B]. -/
  | pand (d a b : BitVec 4)
  /-- R209: p[D] gets p[A] OR p[B]. -/
  | por (d a b : BitVec 4)
  /-- R209: p[D] gets p[A] XOR p[B]. -/
  | pxor (d a b : BitVec 4)
  /-- R209: p[D] gets p[A] AND NOT p[B]. -/
  | pandn (d a b : BitVec 4)
  /-- R210: g[D] gets g[A] or g[B] as the named predicate selects. -/
  | sel (p : BitVec 4) (d a b : Reg)
  /-- R211: Branches by the word displacement when p[P] XOR NEG is 1. -/
  | b (p : BitVec 4) (neg : Bool) (disp : BitVec 19)
  /-- R212: Writes the return address to g[D] and jumps by the displacement. -/
  | bl (d : Reg) (disp : BitVec 18)
  /-- R213: Jumps to g[A] plus the immediate and writes the return address to g[D]. -/
  | jalr (d a : Reg) (imm : BitVec 12)
  /-- R214: Starts a counted loop on a loop counter, or skips the body when the count is zero. -/
  | loops (n : BitVec 2) (a : Reg) (imm : BitVec 12)
  /-- R222: Traps with the recorded cause when g[A] is poisoned. -/
  | chk (a : Reg)
  /-- R223: Starts a new strand of the task at g[A] with g1 = g[B], or returns -1 when no slot is free. -/
  | sfork (d a b : Reg)
  /-- R230: Compares the word at g[A] with g[D] and, if equal, writes g[B]; returns the old value. -/
  | cas (sz : Bool) (d a b : Reg)
  /-- R219: Loads a sign-extended byte. -/
  | ldb (d a : Reg) (oc : BitVec 4) (disp : BitVec 8)
  /-- R219: Loads a sign-extended halfword. -/
  | ldh (d a : Reg) (oc : BitVec 4) (disp : BitVec 8)
  /-- R219: Loads a sign-extended word. -/
  | ldw (d a : Reg) (oc : BitVec 4) (disp : BitVec 8)
  /-- R219: Loads a doubleword. -/
  | ldd (d a : Reg) (oc : BitVec 4) (disp : BitVec 8)
  /-- R219: Loads a zero-extended byte. -/
  | ldbu (d a : Reg) (oc : BitVec 4) (disp : BitVec 8)
  /-- R219: Loads a zero-extended halfword. -/
  | ldhu (d a : Reg) (oc : BitVec 4) (disp : BitVec 8)
  /-- R219: Loads a zero-extended word. -/
  | ldwu (d a : Reg) (oc : BitVec 4) (disp : BitVec 8)
  /-- R221: Speculative doubleword load that writes poison instead of taking deferrable faults. -/
  | lds (d a : Reg) (oc : BitVec 4) (disp : BitVec 8)
  /-- R219: Stores the low byte of g[D]. -/
  | stb (d a : Reg) (oc : BitVec 4) (disp : BitVec 8)
  /-- R219: Stores the low halfword of g[D]. -/
  | sth (d a : Reg) (oc : BitVec 4) (disp : BitVec 8)
  /-- R219: Stores the low word of g[D]. -/
  | stw (d a : Reg) (oc : BitVec 4) (disp : BitVec 8)
  /-- R219: Stores the doubleword g[D]. -/
  | std (d a : Reg) (oc : BitVec 4) (disp : BitVec 8)
  /-- R225: Waits for the word to be full, loads it and sets it empty. -/
  | ldfe (d a : Reg) (disp : BitVec 8)
  /-- R225: Waits for the word to be full, loads it and leaves it full. -/
  | ldff (d a : Reg) (disp : BitVec 8)
  /-- R225: Waits for the word to be empty, stores g[D] and sets it full. -/
  | stef (d a : Reg) (disp : BitVec 8)
  /-- R225: Stores g[D] and sets the word full without waiting. -/
  | stfl (d a : Reg) (disp : BitVec 8)
  /-- R226: Sets the full/empty bit of the word at g[A] empty. -/
  | sete (a : Reg)
  /-- R226: Sets the full/empty bit of the word at g[A] full. -/
  | setf (a : Reg)
  /-- R226: Returns the full/empty bit of the word at g[A]. -/
  | feq (d a : Reg)
  /-- R228: Atomic add at g[A], returning the old value. -/
  | amoAdd (sz : Bool) (d a b : Reg)
  /-- R228: Atomic AND, returning the old value. -/
  | amoAnd (sz : Bool) (d a b : Reg)
  /-- R228: Atomic OR, returning the old value. -/
  | amoOr (sz : Bool) (d a b : Reg)
  /-- R228: Atomic XOR, returning the old value. -/
  | amoXor (sz : Bool) (d a b : Reg)
  /-- R228: Atomic signed minimum, returning the old value. -/
  | amoMin (sz : Bool) (d a b : Reg)
  /-- R228: Atomic signed maximum, returning the old value. -/
  | amoMax (sz : Bool) (d a b : Reg)
  /-- R228: Atomic unsigned minimum, returning the old value. -/
  | amoMinu (sz : Bool) (d a b : Reg)
  /-- R228: Atomic unsigned maximum, returning the old value. -/
  | amoMaxu (sz : Bool) (d a b : Reg)
  /-- R228: Atomic swap, returning the old value. -/
  | amoSwap (sz : Bool) (d a b : Reg)
  /-- R228: Atomic FP32 add rounded to nearest even, returning the old value. -/
  | amoFadd32 (d a b : Reg)
  /-- R228: Atomic FP32 totalOrder minimum, returning the old value. -/
  | amoFmin32 (d a b : Reg)
  /-- R228: Atomic FP32 totalOrder maximum, returning the old value. -/
  | amoFmax32 (d a b : Reg)
  /-- R228: No-return atomic add. -/
  | redAdd (sz : Bool) (a b : Reg)
  /-- R228: No-return atomic AND. -/
  | redAnd (sz : Bool) (a b : Reg)
  /-- R228: No-return atomic OR. -/
  | redOr (sz : Bool) (a b : Reg)
  /-- R228: No-return atomic XOR. -/
  | redXor (sz : Bool) (a b : Reg)
  /-- R228: No-return atomic signed minimum. -/
  | redMin (sz : Bool) (a b : Reg)
  /-- R228: No-return atomic signed maximum. -/
  | redMax (sz : Bool) (a b : Reg)
  /-- R228: No-return atomic unsigned minimum. -/
  | redMinu (sz : Bool) (a b : Reg)
  /-- R228: No-return atomic unsigned maximum. -/
  | redMaxu (sz : Bool) (a b : Reg)
  /-- R228: No-return atomic swap. -/
  | redSwap (sz : Bool) (a b : Reg)
  /-- R228: No-return atomic FP32 add. -/
  | redFadd32 (a b : Reg)
  /-- R228: No-return atomic FP32 totalOrder minimum. -/
  | redFmin32 (a b : Reg)
  /-- R228: No-return atomic FP32 totalOrder maximum. -/
  | redFmax32 (a b : Reg)
  /-- R234: Orders the strand's covered accesses by class mask and scope, and optionally its pushed engine commands. -/
  | fence (mask : BitVec 16) (scope : BitVec 3) (eng : Bool)
  /-- R236: Arrives at the next barrier of the team shape and waits for it to complete. -/
  | bar (a : Reg)
  /-- R236: Arrives at the barrier of the shape and retires at once, leaving an open arrival. -/
  | bara (a : Reg)
  /-- R236: Waits for the barrier of the open arrival to complete and closes it. -/
  | barw (a : Reg)
  /-- R238: Waits until the semaphore count reaches g[A], subtracts it and returns the prior word. -/
  | swait (d a : Reg) (idx : BitVec 8)
  /-- R238: Adds g[A] to a semaphore of the task, setting E when requested. -/
  | ssig (a : Reg) (idx : BitVec 8)
  /-- R238: Sends a signal to the semaphore word addressed by g[D] in the own or a peer window. -/
  | ssigRemote (d a : Reg)
  /-- R238: Returns the semaphore word and marks a set E as observed. -/
  | srd (d : Reg) (idx : BitVec 8)
  /-- R238: Returns the semaphore word, clears E and marks it observed. -/
  | srdc (d : Reg) (idx : BitVec 8)
  /-- R238: Writes the semaphore word from g[A] and returns the old word. -/
  | sset (d a : Reg) (idx : BitVec 8)
  /-- R240: Takes one element from output FIFO f0 or f1 into g[D], waiting while it is empty. -/
  | pop (d : Reg) (f : BitVec 1)
  /-- R199: Reads a CSR into g[D]. -/
  | csrr (d : Reg) (csr : BitVec 10)
  /-- R199: Writes g[A] to a CSR and returns the old value. -/
  | csrw (d a : Reg) (csr : BitVec 10)
  /-- R199: Sets the bits of g[A] in the RW fields of a CSR and returns the old value. -/
  | csrs (d a : Reg) (csr : BitVec 10)
  /-- R199: Clears the bits of g[A] in the RW fields of a CSR and returns the old value. -/
  | csrc (d a : Reg) (csr : BitVec 10)
  /-- R241: Takes a TRAP_SW trap with the code in TVAL. -/
  | trap (code : BitVec 16)
  /-- R244: Reads a launch parameter block at g[A] and enqueues a child launch. -/
  | launch (a : Reg)
  /-- R245: Invalidates VF-stage translation entries of one page of one function. -/
  | tinvPage (a b : Reg)
  /-- R245: Invalidates every translation entry of one function, both stages. -/
  | tinvFunction (b : Reg)
  /-- R407: Writes a mark record with the value g[A] to the die's order log. -/
  | logm (a : Reg)
  /-- R402: Reads a monitor descriptor and installs the monitor pending at its home ports. -/
  | monset (mon : BitVec 3) (a : Reg)
  /-- R402: Loads the reference total and digest for the monitor's next check. -/
  | monref (mon : BitVec 3) (a : Reg)
  /-- R402: Writes the monitor's record as of its last check. -/
  | monrd (mon : BitVec 3) (a : Reg)
  /-- R402: Disarms the monitor at the close of the current phase. -/
  | monclr (mon : BitVec 3)
  /-- R268: Element-wise addition of VA and VB. -/
  | vadd (f : V3)
  /-- R268: Element-wise subtraction. -/
  | vsub (f : V3)
  /-- R268: Element-wise multiplication. -/
  | vmul (f : V3)
  /-- R268: Element-wise fused multiply-add into VD. -/
  | vfma (f : V3)
  /-- R268: Element-wise fused d - a × b. -/
  | vfms (f : V3)
  /-- R268: Element-wise minimum. -/
  | vmin (f : V3)
  /-- R268: Element-wise maximum. -/
  | vmax (f : V3)
  /-- R268: Element-wise absolute value. -/
  | vabs (f : V3)
  /-- R268: Element-wise negation. -/
  | vneg (f : V3)
  /-- R269: Multiplies each element by 2^g[VB]. -/
  | vscale (f : V3)
  /-- R270: Accumulates four-byte dot products into INT32 elements. -/
  | vdot4 (f : V3)
  /-- R271: Accumulates ternary-weighted activation sums per row into INT32. -/
  | vtacc (f : V3)
  /-- R272: Element-wise bitwise AND. -/
  | vand (f : V3)
  /-- R272: Element-wise bitwise OR. -/
  | vor (f : V3)
  /-- R272: Element-wise bitwise XOR. -/
  | vxor (f : V3)
  /-- R272: Element-wise left shift. -/
  | vsll (f : V3)
  /-- R272: Element-wise logical right shift. -/
  | vsrl (f : V3)
  /-- R272: Element-wise arithmetic right shift. -/
  | vsra (f : V3)
  /-- R273: Writes a mask of elements where VA equals VB. -/
  | vcmpEq (f : V3)
  /-- R273: Writes a mask of elements where VA differs from VB. -/
  | vcmpNe (f : V3)
  /-- R273: Writes a mask of elements where VA < VB. -/
  | vcmpLt (f : V3)
  /-- R273: Writes a mask of elements where VA <= VB. -/
  | vcmpLe (f : V3)
  /-- R273: Writes a mask of elements where VA > VB. -/
  | vcmpGt (f : V3)
  /-- R273: Writes a mask of elements where VA >= VB. -/
  | vcmpGe (f : V3)
  /-- R273: Writes a mask of elements where VA or VB is NaN. -/
  | vcmpUnord (f : V3)
  /-- R274: Selects each element from VA or VB by the mask. -/
  | vsel (f : V3)
  /-- R275: Converts each element from the source type to the destination type. -/
  | vcvt (src : BitVec 4) (f : V3)
  /-- R276: Element-wise reciprocal, rounded once. -/
  | vrcp (f : V3)
  /-- R276: Element-wise reciprocal square root. -/
  | vrsq (f : V3)
  /-- R276: Element-wise square root. -/
  | vsqrt (f : V3)
  /-- R276: Element-wise base-2 exponential. -/
  | vexp2 (f : V3)
  /-- R276: Element-wise base-2 logarithm. -/
  | vlog2 (f : V3)
  /-- R277: Pairwise-tree sum over rows, columns or the whole shape. -/
  | vredSum (dir : BitVec 2) (f : V3)
  /-- R277: Pairwise-tree maximum reduction. -/
  | vredMax (dir : BitVec 2) (f : V3)
  /-- R277: Pairwise-tree minimum reduction. -/
  | vredMin (dir : BitVec 2) (f : V3)
  /-- R277: Exact exact-window sum reduction into XW containers. -/
  | vredSumx (dir : BitVec 2) (f : V3)
  /-- R278: Permutes elements by a 16-bit index vector. -/
  | vperm (f : V3)
  /-- R278: Rotates each row by a g-register amount. -/
  | vrot (f : V3)
  /-- R278: Shifts elements across the flat numbering by a g-register offset. -/
  | vxl (f : V3)
  /-- R278: Broadcasts one element, chosen by a g register, to every element. -/
  | vbcast (f : V3)
  /-- R279: Inclusive prefix sum along each row. -/
  | vscan (f : V3)
  /-- R280: Compacts active elements to the front and returns their count. -/
  | vpack (f : V3)
  /-- R280: Spreads leading elements into active positions and returns the count. -/
  | vexpand (f : V3)
  /-- R281: Keeps the K largest-magnitude elements of each group with their indices. -/
  | vsparse (g8 kBig : Bool) (f : V3)
  /-- R282: Decodes TRIT bytes into INT8 digits and flags illegal codes in a mask. -/
  | vunpk3 (f : V3)
  /-- R283: Quantises elements into PSB or MXFP4 blocks. -/
  | vqb (f : V3)
  /-- R283: Decodes blocks into float elements. -/
  | vdqb (f : V3)
  /-- R284: Loads a vector register from memory. -/
  | vld (f : VM)
  /-- R284: Stores a vector register to memory. -/
  | vst (f : VM)
  /-- R284: Loads rows at a byte stride. -/
  | vlds (f : VM)
  /-- R284: Stores rows at a byte stride. -/
  | vsts (f : VM)
  /-- R285: Gathers elements by an INT32 index register. -/
  | vgath (f : VM)
  /-- R285: Scatters elements by an INT32 index register. -/
  | vscat (f : VM)
  /-- R287: Copies active elements of VA to VD. -/
  | vmov (f : V3)
  /-- R287: Moves one vector element into a g register. -/
  | vmvs (f : V3)
  /-- R287: Writes a g register value into one vector element. -/
  | vmvg (f : V3)
  /-- R288: Writes VSH from a g register at retirement and returns the old shape. -/
  | vshape (f : V3)
  /-- R289: Mask AND. -/
  | mlogAnd (f : V3)
  /-- R289: Mask OR. -/
  | mlogOr (f : V3)
  /-- R289: Mask XOR. -/
  | mlogXor (f : V3)
  /-- R289: Mask AND NOT. -/
  | mlogAndn (f : V3)
  /-- R289: Counts set mask bits below N into a g register. -/
  | mpopc (f : V3)
  /-- R289: Returns the lowest set mask bit below N, or all ones. -/
  | mfirst (f : V3)
  /-- R290: Writes a format-table entry from a g register at retirement. -/
  | ftld (f : V3)
  /-- R291: Moves n elements from an output FIFO into a vector register. -/
  | popv (f : V3)
  /-- R293: Writes one level of a nest register in VE queue order. -/
  | vnset (f : V3)
  /-- R294: Arms a nest for the strand's next instruction. -/
  | vnx (nest : BitVec 3) (f : V3)
  /-- R323: Waits for a slot to be EMPTY and moves it to FILLING. -/
  | mclaim (f : EC)
  /-- R323: Releases a slot as the MREL row of the slot state table gives. -/
  | mrel (f : EC)
  /-- R324: Writes a 64-byte snapshot of slot and bank states to the scratchpad. -/
  | mstat (f : EC)
  /-- R326: Runs the whole shadow loop nest of tile steps and drains. -/
  | mgo (fn : BitVec 6) (f : EC)
  /-- R325: Performs one tile step acc += slot A × slot B. -/
  | mtile (fn : BitVec 6) (f : EC)
  /-- R327: Sets every element of a bank to +0 and clears BTAINT. -/
  | mzero (f : EC)
  /-- R328: Writes a bank's elements to the own scratchpad in the output type. -/
  | mdrain (fn : BitVec 6) (f : EC)
  /-- R329: Loads a bank from the own scratchpad. -/
  | mldacc (fn : BitVec 6) (f : EC)
  /-- R330: Gathers a CSR-form sparse B operand into a slot and runs one tile step. -/
  | mspgo (fn : BitVec 6) (f : EC)
  /-- R342: Copies g[C] bytes from g[B] to g[A], with an optional notify. -/
  | cpy (notify : Bool) (f : EC)
  /-- R343: Copies rows of bytes at source and destination pitches. -/
  | cpy2d (notify : Bool) (f : EC)
  /-- R344: Plain fill of a FILLING slot from memory, making it READY. -/
  | cpyslot (f : EC)
  /-- R344: Claims an EMPTY slot and fills it. -/
  | cpyslotClaim (f : EC)
  /-- R344: In heritage state, copies a slot's bytes to the heritage working region. -/
  | cpyslotOut (f : EC)
  /-- R345: Fills a byte range with the repeating pattern in g[B]. -/
  | fill (f : EC)
  /-- R346: Completes when earlier writes within its scope have performed, reaching host memory at system scope. -/
  | flush (scope : BitVec 3) (f : EC)
  /-- R348: Copies one table row per index into local rows. -/
  | grow (et : BitVec 4) (f : EC)
  /-- R349: Sums bags of table rows in FP32 and writes one row per bag. -/
  | gbag (et : BitVec 4) (rm : BitVec 2) (f : EC)
  /-- R350: Adds local rows into indexed table rows at their home. -/
  | gscat (et : BitVec 4) (f : EC)
  /-- R379: Sets the collective window base WBASE. -/
  | xstep (f : EX)
  /-- R379: Copies bytes from the own scratchpad to a window at the slot time. -/
  | xsend (f : EX)
  /-- R379: Copies bytes from a window into the own scratchpad at the slot time. -/
  | xrecv (f : EX)
  /-- R380: Combines a received block with the local partial and forwards or stores the result. -/
  | xred (f : EX)
  /-- R231: Ranked atomic add contribution to a round of N. -/
  | amorAdd (f : SR64)
  /-- R231: Ranked atomic AND contribution. -/
  | amorAnd (f : SR64)
  /-- R231: Ranked atomic OR contribution. -/
  | amorOr (f : SR64)
  /-- R231: Ranked atomic XOR contribution. -/
  | amorXor (f : SR64)
  /-- R231: Ranked atomic signed minimum contribution. -/
  | amorMin (f : SR64)
  /-- R231: Ranked atomic signed maximum contribution. -/
  | amorMax (f : SR64)
  /-- R231: Ranked atomic unsigned minimum contribution. -/
  | amorMinu (f : SR64)
  /-- R231: Ranked atomic unsigned maximum contribution. -/
  | amorMaxu (f : SR64)
  /-- R231: Ranked atomic swap contribution. -/
  | amorSwap (f : SR64)
  /-- R231: Ranked FP32 add contribution, applied in rank order. -/
  | amorFadd32 (f : SR64)
  /-- R231: Ranked FP32 totalOrder minimum contribution. -/
  | amorFmin32 (f : SR64)
  /-- R231: Ranked FP32 totalOrder maximum contribution. -/
  | amorFmax32 (f : SR64)
  /-- R233: Adds J × 2^ANCH exactly into a 128-bit XW word, saturating. -/
  | amox (f : SR64)
  /-- R206: g[D] gets the sign-extended 32-bit literal. -/
  | li (d : Reg) (lit : BitVec 32)
  /-- R206: Writes the literal to bits 63:32 of g[D], keeping bits 31:0. -/
  | lih (d : Reg) (lit : BitVec 32)
  /-- R206: g[D] gets g[A] plus the sign-extended literal. -/
  | addil (d a : Reg) (lit : BitVec 32)
  /-- R220: Doubleword load with a 32-bit byte displacement. -/
  | lddl (d a : Reg) (oc : BitVec 4) (lit : BitVec 32)
  /-- R220: Doubleword store with a 32-bit byte displacement. -/
  | stdl (d a : Reg) (oc : BitVec 4) (lit : BitVec 32)
  /-- R292: Writes the literal to every active element. -/
  | vbcastl (f : V3) (lit : BitVec 32)
  /-- R295: Runs a ZE40-form sweep of an arithmetic operation over byte windows. -/
  | vsweep (fn : BitVec 6) (f : VW)
  /-- R331: Writes one field of one level of a shadow loop-nest table. -/
  | mcfg (f : MC)
  /-- R70: A strand reaches a word whose fate by R70 steps 1–7 is a trap: a fetch fault, LEN 0b11, the zero word, a reserved opcode or FN value, or a nonzero zero field. -/
  | encodingNotInstruction (fate : Fate)
  /-- R200: Does nothing. -/
  | nop
  /-- R241: Takes a BREAK trap. -/
  | brk
  /-- R200: Retires and passes the strand over until the other ready strands have each issued once. -/
  | yield
  /-- R200: Waits for the strand's remote accesses to be acknowledged, clears its loops and ends the strand. -/
  | sexit
  /-- R243: Stops the strand from issuing until a signal, FIFO push, scratchpad change, engine completion or 10 µs. -/
  | idle
  /-- R235: Acts as a system fence with all classes and engines, and also waits for vector instructions and remote acknowledgements. -/
  | drain
  /-- R245: Invalidates every translation entry of every function. -/
  | tinvAll
  /-- R6: A strand stopped under WAIT_UNTIL resumes once its condition holds. -/
  | waitUntilMet
  /-- R243: An idle strand resumes after 10 µs with no other wake-up event. -/
  | idleTimeout
  /-- R265: The vector engine starts the head instruction after its source penalty and computes its results and flags. -/
  | veExecute
  /-- R286: A remote vector load or store completes when its last reply or acknowledgement arrives. -/
  | vectorMemoryComplete
  /-- R320: A matrix command at its queue head passes slot, bank, semaphore and slot-state waits and starts. -/
  | matrixCommandStart
  /-- R308: One tile-step or drain action of an MGO runs. -/
  | mgoAction
  /-- R320: A matrix command completes, updates slot states and signals. -/
  | matrixCommandComplete
  /-- R340: A copy or gather command at its queue head checks notify, takes WT, checks operands and runs. -/
  | copyGatherCommandStart
  /-- R351: A gather unit's writes perform and, with FIFO set, an f0 element is pushed. -/
  | gatherUnit
  /-- R340: A copy or gather command completes, sends its notify and signal, and a slot fill becomes READY. -/
  | copyGatherCommandComplete
  /-- R377: An XE command at its queue head takes WT and checks its operands. -/
  | xeCommandStart
  /-- R378: A transmitting XE command starts at its slot time or the next window boundary. -/
  | xeTransmissionStart
  /-- R377: An XE command completes, sends its remote and local signals and f1 element. -/
  | xeCommandComplete
  /-- R366: A read request arrives at its home and performs. -/
  | requestRead
  /-- R366: A write request arrives at its home and performs. -/
  | requestWrite
  /-- R134: An atomic request arrives at a switch or its home and performs in the write queue. -/
  | requestAtomic
  /-- R232: An AMOR contribution arrives at the home and is recorded in the open round. -/
  | amorContribution
  /-- R65: A remote semaphore signal arrives and adds its increment. -/
  | semaphoreSignal
  /-- R114: A remote full/empty operation arrives and is queued or served at its word. -/
  | fullEmptyRequest
  /-- R369: A request forwarded to the unit now holding its home arrives. -/
  | forwardedRequest
  /-- R123: A data reply arrives and the waiting strand or engine resumes. -/
  | dataResponse
  /-- R123: An acknowledgement arrives and frees the reply buffer, reporting any fault. -/
  | acknowledgement
  /-- R125: A redirect naming the new home arrives and the requester reissues. -/
  | redirect
  /-- R368: A fault-status response arrives after link failure. -/
  | faultStatus
  /-- R379: Collective data arrives and is sunk into the destination scratchpad. -/
  | collectiveData
  /-- R368: A hop receives a flit and checks its CRC. -/
  | flitHop
  /-- R189: A free walker takes a pending walk by function round-robin and completes it. -/
  | translationWalk
  /-- R426: The command processor takes a LAUNCH packet and the signal box accepts or rejects it. -/
  | packetLaunch
  /-- R159: A free physical core takes the next task by level, queue round-robin, launch and position. -/
  | placement
  /-- R158: A waiting queue's ageing time expires and it rises one level. -/
  | ageing
  /-- R162: A running task's quantum ends while an equal or higher READY task waits. -/
  | quantumExpiry
  /-- R162: Every live strand has waited BLOCKT while a READY task waits. -/
  | blockedTimeout
  /-- R163: A task is switched out once its outstanding accesses and started commands finish, and its state saved. -/
  | preEmption
  /-- R163: A saved task's state is restored on a physical core and issuing resumes. -/
  | switchIn
  /-- R200: With no live strand, the task ends once every command it pushed has completed. -/
  | taskEnd
  /-- R152: A team barrier completes when every member has arrived. -/
  | teamBarrierCompletion
  /-- R154: A launch-team barrier closes the phase through its delivery, check, increment and release steps. -/
  | phaseClose
  /-- R145: After final checks the DONE word is decremented and the status written. -/
  | launchCompletion
  /-- R185: A counted wait reaches the stall time-out and the task traps with a hang record. -/
  | hang
  /-- R178: The driver's resume command replays a PARKED task. -/
  | parkResume
  /-- R178: The driver's kill command ends a PARKED task. -/
  | parkKill
  /-- R394: After 64 instructions without a side effect the guard compares the strand's written state. -/
  | forcedSyncPoint
  /-- R420: A host write to NOTIFYq makes packets eligible, is ignored, or stops the queue. -/
  | notify
  /-- R428: A WAITSIG packet waits for its signal word and then finishes or stops the queue. -/
  | packetWaitsig
  /-- R429: A SIGNAL packet stores or adds to a word once earlier packets complete. -/
  | packetSignal
  /-- R427: A COPY packet moves bytes in the function's address space. -/
  | packetCopy
  /-- R430: Work of a LAUNCH or COPY packet completes with flush, DONE update, QSTAT and interrupt. -/
  | packetCompletion
  /-- R417: Setting EN resets the indices and clears STOPPED. -/
  | queueEnable
  /-- R417: Clearing EN stops fetching; accepted packets run on. -/
  | queueDisable
  /-- R418: RESUME clears STOPPED and retries the packet at QRDIX. -/
  | queueResume
  /-- R418: RESUME with SKIP passes over the stopped packet and continues. -/
  | queueResumeSkip
  /-- R421: A host access through BAR 2 reaches an owned window granule. -/
  | hostWindowAccess
  /-- R423: A host access through BAR 4 is translated into the function's memory or refused. -/
  | hostApertureAccess
  /-- R414: A host write to a register without behaviour of its own updates its fields. -/
  | hostRegisterWrite
  /-- R434: A function-level reset kills the function's launches and clears its queues. -/
  | functionReset
  /-- R441: Writing the key to RESETCMD starts a warm reset. -/
  | resetcmd
  /-- R443: A warm reset quiesces, resets dies, restores state and completes touched launches with RESET. -/
  | warmReset
  /-- R444: The boot stage verifies the firmware banks and starts the module or recovery loader. -/
  | powerOn
  /-- R445: FWCMD 1 reads, verifies and writes an image to the inactive bank. -/
  | fwStage
  /-- R445: Staging finishes and FWSTAT reports its result. -/
  | fwStageComplete
  /-- R445: FWCMD 2 makes the staged bank active at the next reset. -/
  | fwActivate
  /-- R433: Every 10 ms a PTM dialog runs and PTMSC and PTMHOST are written. -/
  | ptmDialog
  /-- R446: An SPDM certificate, challenge or measurement request is answered. -/
  | spdmRequest
  /-- R440: A core is tested at reduced margin every MTPERIOD hours. -/
  | marginTest
  /-- R439: After copying to a spare the memory controller switches a pseudo-channel, or migrates its pages. -/
  | channelSubstitution
  /-- R447: Power above PCAP or a die above 105 °C lowers the arithmetic clock in 25 MHz steps. -/
  | clockThrottle
  /-- R104: A PCI Express completion carrying host-memory data, for a device load or a command processor read, arrives at the junction die's host-link port. -/
  | hostLinkCompletion
  /-- R171: An external debugger writes DBGCTL through the signal box's debug path, entering or leaving step mode. -/
  | debugPathWrite
  /-- R172: Patrol scrub on its own finds an error in protected memory and records it in the wear and service counters. -/
  | patrolScrub
  /-- R447: As power and temperature margin returns, the management controller raises the arithmetic clock again in 25 MHz steps. -/
  | arithmeticClockRaise
deriving DecidableEq, Repr, Inhabited

end Sys2Proof
end

