-- ==== Sys2Proof/Machine/State.lean ====
section
/-!
DEFINITION. The state of the machine as plain data, and the state right after reset.
Names follow the rules of spec/ cited at each field. A task, a strand, a launch, a message in flight and a host queue
are records in sparse maps; dies are numbered 8 × module + d, junction dies 2 × module (JA) and 2 × module + 1 (JB).
-/
namespace Sys2Proof.Machine

/-! ### Homes, accesses and messages -/

/-- The one place where an address lives (R104). -/
inductive Home where
  /-- scratchpad, full/empty bits and semaphores of a task, wherever it is held -/
  | spad (task : Nat)
  /-- buffer and HBM of a compute die -/
  | hbm (die : Nat)
  /-- host-link port of a junction die -/
  | host (jn : Nat)
  /-- window SRAM of a junction die -/
  | window (jn : Nat)
deriving DecidableEq, Repr, Inhabited

/-- The operations of the AMO family (R228), by FN. -/
inductive AtomFn where
  | add | and | or | xor | min | max | minu | maxu | swap | fadd32 | fmin32 | fmax32
deriving DecidableEq, Repr, Inhabited

/-- The full/empty operations (R113). -/
inductive FeOp where
  | ldfe | ldff | stef | stfl | sete | setf | feq
deriving DecidableEq, Repr, Inhabited

/-- Who made an access, as the conflict rule, the monitors and the logs see it (R126, R399, R405). -/
structure Party where
  task : Nat := 0
  strand : Nat := 0
  /-- engine queue of the command that makes the access; none for the strand itself -/
  queue : Option Nat := none
  pc : Word := 0
  /-- made in heritage state to the working region: leaves no stamp (R191) -/
  quiet : Bool := false
deriving DecidableEq, Repr, Inhabited

/-- What an access does at its home. -/
inductive AccOp where
  | load
  /-- store of bytes in ascending address order, with byte enables -/
  | store (bytes : List (Option Byte))
  /-- AMO and RED (R228) -/
  | atomic (fn : AtomFn) (v : Nat)
  /-- CAS (R230) -/
  | cas (cmp new : Nat)
  /-- AMOX (R233) -/
  | amox (anch : BitVec 8) (j : Int)
  /-- one AMOR contribution, or a merged range of ranks (R231, R375) -/
  | amor (fn : AtomFn) (n lo hi v : Nat)
  | fe (op : FeOp) (v : Nat)
  /-- remote semaphore signal (R238, R342) -/
  | signal (inc : Nat) (e : Bool)
  /-- element adds of a GSCAT row: type code and the element values (R350) -/
  | rowAdd (et : Nat) (vals : List Nat)
  /-- collective data (R382) -/
  | coll (bytes : List (Option Byte))
  /-- XRED's read of its received block (R387) -/
  | collRead
deriving DecidableEq, Repr, Inhabited

/-- One access on its way to, or at, its home. -/
structure Acc where
  who : Party := {}
  home : Home := .spad 0
  /-- address within the home: scratchpad offset, physical address or window offset -/
  addr : Nat := 0
  /-- virtual address, for TVAL, monitors and logs -/
  va : Word := 0
  size : Nat := 8
  /-- ordering class (R106) -/
  cls : Nat := 15
  /-- no value is returned (NR) -/
  nr : Bool := false
  op : AccOp := .load
  /-- page attributes of the translation: TSO, LOG, owner tag (R188); 0 where none applies -/
  tso : Bool := false
  log : Bool := false
  detTag : Nat := 0
  /-- the launch may fetch from the page (R57) -/
  exec : Bool := false
  /-- parties of the further requests this one carries after merging (R134, R373) -/
  members : List Party := []
deriving DecidableEq, Repr, Inhabited

/-- What a trap carries (R172, R174, R176). -/
structure Trap where
  cause : Nat := 0
  tval : Word := 0
  chk : Bool := false
  stage : Bool := false
  res : Bool := false
  cstamp : BitVec 24 := 0
deriving DecidableEq, Repr, Inhabited

/-- What a home answers (R365). -/
inductive Reply where
  /-- a value returned -/
  | data (v : Nat)
  /-- performed; AMOX reports saturation (R233) -/
  | ack (ovf : Bool)
  /-- performed with a value, and AMOX saturated -/
  | dataOvf (v : Nat)
  | redirect (home : Home)
  | fault (t : Trap)
deriving DecidableEq, Repr, Inhabited

/-- Who waits for a reply: a requester, or the coupling-buffer entry of a switch (R373). -/
inductive Requester where
  | acc (who : Party) (id : Nat)
  | entry (id : Nat)
  /-- the members of a merged no-return request (R374) -/
  | list (ids : List (Party × Nat))
deriving DecidableEq, Repr, Inhabited

/-- A message travelling as flits (R365), or waiting in a home's input buffer. -/
structure Msg where
  /-- 0 request, 1 forwarded request, 2 response or collective data, 3 a load that waits for its PCI Express completion at
  the host-link port -/
  chan : Nat := 0
  srcStation : Nat := 0
  dstStation : Nat := 0
  /-- station it stands at, 10 × module + station (R10, R371) -/
  at_ : Nat := 0
  /-- still in the die request crossbar of its source (R372) -/
  xbar : Bool := false
  /-- place in the order in which messages left their crossbar or home (R124) -/
  entered : Nat := 0
  /-- ring slot that carries the flit, while it is on a ring (R364) -/
  slot : Option Nat := none
  /-- number of the flit that takes the next hop; flits in the message, minus 1 (R365) -/
  seq : Nat := 0
  nfl : Nat := 0
  /-- failed sends at the present hop (R368) -/
  fails : Nat := 0
  /-- stations that have refused it, each at most once, with the place of the refusal among all (R367) -/
  refusedAt : List (Nat × Nat) := []
  forwarded : Bool := false
  /-- holds a forward-pending entry of its station (R369) -/
  pendingFwd : Bool := false
  /-- delivered, and held at its home by a replay (R408) -/
  held : Bool := false
  /-- physical core a scratchpad request names; none for a context area (R369) -/
  core : Option Nat := none
  fn : Nat := 0
  /-- issue stamp and source number (R134) -/
  stamp : Word := 0
  source : Nat := 0
  req : Requester := .acc {} 0
  /-- a request's access; a response keeps the access it answers -/
  acc : Acc := {}
  reply : Option Reply := none
deriving DecidableEq, Repr, Inhabited

/-- A coupling-buffer entry of a switch (R372, R373). -/
structure Coupling where
  /-- switch that holds the entry: 2 × station, + 1 for the die request crossbar -/
  switch : Nat
  first : Requester
  second : Requester
  firstNr : Bool
  secondNr : Bool
  fn : AtomFn
  amox : Bool
  width : Nat
  v1 : Nat
  firstStation : Nat
  secondStation : Nat
deriving DecidableEq, Repr, Inhabited

/-- A full/empty operation waiting at its word (R114). -/
structure FeWaiter where
  acc : Acc
  /-- identity of a remote request; none for a strand of the task itself -/
  req : Option (Requester × Nat) := none
  /-- what the home answered a strand of the task itself whose turn has come, until the strand takes it -/
  granted : Option Reply := none
deriving DecidableEq, Repr, Inhabited

/-- A contribution recorded in a round: its ranks and combined operand, and who waits for its answer. -/
structure RoundPart where
  lo : Nat
  hi : Nat
  v : Nat
  req : Requester
  station : Nat
  acc : Acc
deriving DecidableEq, Repr, Inhabited

/-- An open AMOR round at its home (R232); its parts stand in rank order. -/
structure Round where
  acc : Acc
  fn : AtomFn
  n : Nat
  parts : List RoundPart := []
deriving DecidableEq, Repr, Inhabited

/-! ### Strands -/

/-- A counted loop on one counter (R214 to R217). -/
structure LoopState where
  value : Word := 0
  act : Bool := false
  own : Nat := 0
  depth : Nat := 0
  start : Word := 0
  stop : Word := 0
  count : Word := 0
deriving DecidableEq, Repr, Inhabited

/-- A FENCE whose covered earlier accesses have not all performed (R109, R234). -/
structure FenceRec where
  mask : BitVec 16
  scope : Nat
  /-- outstanding accesses and vector-queue entries (by serial) that must perform first -/
  outs : List Nat
  entries : List Nat
deriving DecidableEq, Repr, Inhabited

/-- One entry of the alias window (R112). -/
structure AliasEntry where
  /-- byte ranges: first byte and length -/
  ranges : List (Nat × Nat)
  cls : Nat
  writes : Bool
  /-- class masks of the fences since -/
  fences : List (BitVec 16) := []
deriving DecidableEq, Repr, Inhabited

/-- Why a strand does not issue; `kind` and `object` are those of the hang record (R185), kind 0 where it lists none. -/
structure Wait where
  kind : Nat := 0
  object : Nat := 0
  /-- amount of a SWAIT, or state awaited of a full/empty word -/
  amount : Nat := 0
  since : Word := 0
deriving DecidableEq, Repr, Inhabited

/-- Where a reply's value goes. -/
structure Dest where
  reg : Nat := 0
  /-- bits of the value kept -/
  width : Nat := 64
  signed : Bool := false
  /-- AMOX: register of the upper half -/
  hi : Option Nat := none
  /-- LDS: a deferrable fault becomes poison (R221) -/
  defers : Bool := false
deriving DecidableEq, Repr, Inhabited

/-- An access of the strand that has issued and not completed (R107, R122, R123). -/
structure Outstanding where
  id : Nat
  acc : Acc
  dest : Option Dest := none
  /-- the strand is parked in the siding until the reply arrives -/
  parks : Bool := false
  /-- pc and parcels of the instruction, for a fault reported later (R123) -/
  pc : Word := 0
  ilen : Nat := 1
  /-- holds one of the 64 reply buffers -/
  buffer : Bool := true
  /-- accepted by its home into a wait without bound (R246) -/
  accepted : Bool := false
  /-- sent again after a redirect and not yet acknowledged (R125) -/
  reissued : Bool := false
  /-- issued by the strand whose registers a handler has saved: the reply goes to the saved state (R246) -/
  forSaved : Bool := false
  /-- issued at -/
  since : Word := 0
deriving DecidableEq, Repr, Inhabited

/-- A fault reported in an acknowledgement, waiting for the strand's next ordering point (R123). -/
structure FaultReport where
  pc : Word
  ilen : Nat
  trap : Trap
deriving DecidableEq, Repr, Inhabited

/-- The register state of a strand that handlers, heritage routines and rollbacks save (R179, R190, R394). -/
structure StrandRegs where
  pc : Word := 0
  /-- g1 to g63 -/
  g : SMap Word := []
  /-- poison cause of each poisoned register (R182) -/
  poison : SMap Nat := []
  preds : BitVec 16 := 0
  hnd : Bool := false
  her : Bool := false
  /-- g registers that hold an uncorrectable error, here and in the guard core's register file (R172, R392) -/
  bad : List Nat := []
  guardBad : List Nat := []
  /-- the trap that the answer to the parked instruction brought while the strand could not take it: the strand takes it
  next (R175, R233, R246) -/
  struck : Option FaultReport := none
deriving DecidableEq, Repr, Inhabited

/-- Arming of the next vector instruction: by VNX, or of a VSWEEP that trapped and goes on (R294, R295). -/
structure Arming where
  /-- nest register; none for a sweep -/
  nest : Option Nat := none
  /-- iterations performed before a trap -/
  resume : Nat := 0
deriving DecidableEq, Repr, Inhabited

/-- An open barrier arrival of a strand (R152, R236). -/
structure Arrival where
  shape : Nat
  /-- the barrier of the shape arrived at -/
  index : Nat
  /-- made by BARA -/
  open_ : Bool
  /-- a BAR that waits no longer, as its strand has gone on past it (R154, R180) -/
  left : Bool := false
  /-- pc of the BAR or BARA -/
  pc : Word := 0
deriving DecidableEq, Repr, Inhabited

/-- What a strand's last synchronising point and its undo log hold (R260, R394). -/
structure SyncPoint where
  regs : StrandRegs := {}
  seq : BitVec 32 := 0
  /-- old values of task-level state the strand wrote since, latest first: kind (0 CSR, 1 format table, 2 and 3 shadow
  tables, 4 and 5 a flag register at the start of the phase and of the strand itself), number, old value -/
  undo : List (Nat × Nat × Nat) := []
  /-- loop counters as the strand found them -/
  loops : SMap LoopState := []
  arming : Option Arming := none
  /-- registers that waited for a value then, which they take here too when it comes -/
  notReady : List Nat := []
  /-- accesses that had issued then, and the alias window -/
  outs : List Nat := []
  alias_ : List AliasEntry := []
deriving DecidableEq, Repr, Inhabited

/-! ### Engine queues -/

/-- The operands a command captured when it was pushed (R259, R305, R320, R340, R377). -/
structure Captured where
  /-- g values of A, B, C, C + 1, C + 2, or of the g operands of a vector instruction -/
  a : Word := 0
  b : Word := 0
  c : Word := 0
  c1 : Word := 0
  c2 : Word := 0
  vsh : Word := 0
  vctl : Word := 0
  /-- format-table entry, where the command takes its format from it (R54) -/
  ft : Option Word := none
  anchor : BitVec 8 := 0
  srseed : Word := 0
  phase : Word := 0
  seq : BitVec 32 := 0
  nest : Option Nat := none
  /-- shadow table: key 16 × level + field (R305) -/
  table : SMap (BitVec 32) := []
  /-- gather descriptor, as a number (R347) -/
  desc : Nat := 0
  steered : Bool := false
  her : Bool := false
  /-- the strand before a vector push, restored when it traps (R260) -/
  before : Option SyncPoint := none
  /-- accesses of the strand that perform before this vector memory access (R107, R109, R110) -/
  after : List Nat := []
deriving DecidableEq, Repr, Inhabited

/-- Ranges of a footprint (R361): `rows` of `len` bytes from `base`, each `pitch` bytes above the one before. -/
structure Foot where
  base : Nat := 0
  len : Nat := 0
  pitch : Nat := 0
  rows : Nat := 1
  write : Bool := false
deriving DecidableEq, Repr, Inhabited

/-- One piece of a vector access: lowest element, address, byte offset in the register, bytes. -/
structure VPiece where
  e : Nat
  va : Word
  off : Nat
  size : Nat
deriving DecidableEq, Repr, Inhabited

/-- One engine-queue entry (R15, R163). -/
structure Entry where
  cmd : Instr := .nop
  pc : Word := 0
  strand : Nat := 0
  /-- place in the order of the task's pushes (R301, R303), and index in its queue (R176) -/
  serial : Nat := 0
  index : Nat := 0
  cap : Captured := {}
  /-- the strand that pushed it has ended (R173) -/
  orphaned : Bool := false
  /-- WT has been taken (step 8 of R320 and R340, step 6 of R377) -/
  tookWt : Bool := false
  /-- the wait met E: complete at once (R18) -/
  skip : Bool := false
  started : Bool := false
  /-- RESUME: progress in the units of the command -/
  progress : Nat := 0
  /-- accesses sent to other homes and not yet answered -/
  pending : List Nat := []
  /-- a started vector memory access: the homes it reaches, those with a redirected request sent again, whether it touches
  TSO pages, and the words on TSO pages still to be sent (R120, R125, R136, R263) -/
  homes : List Home := []
  reissued : List (Nat × Home) := []
  tso : Bool := false
  rest : List Acc := []
  /-- pieces of a started vector load, the own peer window folded (R284, R285) -/
  pieces : List VPiece := []
  /-- bytes received from other homes: offset and byte; of a gather command on TSO pages, the table rows it has read -/
  inbox : SMap Byte := []
  /-- index positions of a GSCAT on TSO pages, in the order of their rows' addresses (R136) -/
  order : List Nat := []
  /-- an error of R315, R354, R355 or R383 was met -/
  err : Bool := false
  /-- a unit's error (R351) -/
  unitErr : Bool := false
  /-- every write has performed; only signals remain -/
  finished : Bool := false
  /-- completion held by an enabled flag trap (R313) -/
  held : Bool := false
  /-- reply of the notify outstanding -/
  notify : Option Nat := none
  notified : Bool := false
  /-- flags raised and the lowest element that raised INVALID and XW_OVF -/
  flags : Nat := 0
  firstInvalid : Option Nat := none
  firstXw : Option Nat := none
  /-- the wait of the head (R185) -/
  wait : Option Wait := none
  walkFault : Option (Nat × Trap) := none
  lastReplay : Option Nat := none
  /-- secondary fault kept for R181 -/
  fault : Option Trap := none
  /-- GBAG: running sums of the present bag; MSPGO and XE: working bytes -/
  work : SMap Nat := []
  /-- station-clock start time of a transmission (R378) -/
  slotTime : Option Nat := none
  late : Bool := false
  /-- slots this command has taken as reader: slot and release (R300) -/
  uses : List (Nat × Bool) := []
  /-- footprint of a copy or gather command (R361) -/
  footprint : List Foot := []
  /-- the order a copy took at its start (R342): 0 ascending, 1 descending, 2 by pieces; plus 4 for rows in falling order -/
  copyOrder : Option Nat := none
  /-- a heritage routine that works in the slots and the bank of its command, and its next step (R336) -/
  staged : Bool := false
  step : Nat := 0
deriving DecidableEq, Repr, Inhabited

/-! ### A strand -/

/-- What a strand that SFORK started waits for before its first access: the issuer, its accesses and its vector entries then
(R223). -/
structure ForkAfter where
  issuer : Nat
  outs : List Nat
  entries : List Nat
deriving DecidableEq, Repr, Inhabited

structure Strand where
  /-- the slot is occupied; a strand has run in it since the last launch barrier (R224) -/
  live : Bool := false
  used : Bool := false
  r : StrandRegs := {}
  seq : BitVec 32 := 0
  alias_ : List AliasEntry := []
  /-- g registers whose value an engine or a deferred load has yet to write (R259) -/
  notReady : List Nat := []
  wait : Option Wait := none
  /-- the wait the strand last left, so that one that goes on keeps its beginning (R185) -/
  lastWait : Option Wait := none
  outs : List Outstanding := []
  fences : List FenceRec := []
  /-- FENCEs of system scope with MASK 0xFFFF issued, DRAINs and barrier arrivals among them (R57) -/
  sysFences : Nat := 0
  reports : List FaultReport := []
  /-- IDLE since (R243) -/
  idle : Option Word := none
  /-- strands that issue before this one after a YIELD (R200) -/
  passOver : List Nat := []
  arming : Option Arming := none
  arrivals : List Arrival := []
  /-- saved by FORWARD or a heritage entry (R179, R190) -/
  saved : Option StrandRegs := none
  /-- the slot's strand had ended when a handler took the slot (R179) -/
  savedEnded : Bool := false
  /-- the command whose heritage routine the strand runs (R190, R336) -/
  routine : Option Entry := none
  /-- registers not ready when the state was saved -/
  savedNotReady : List Nat := []
  /-- arming when the state was saved -/
  savedArming : Option Arming := none
  sync : SyncPoint := {}
  sinceSync : Nat := 0
  /-- register writes logged while a vector instruction is short of its fault point (R260) -/
  undoUsed : Nat := 0
  /-- an instruction has retired in step mode and the STEP trap is due (R171) -/
  stepDue : Bool := false
  /-- pc and parcels of the instruction that retired last, whose commands a stop waits for (R171) -/
  stepPc : Word := 0
  stepLen : Nat := 1
  /-- a mismatch has been rolled back since the last synchronising point (R395) -/
  replaying : Bool := false
  /-- what the guard core's register file holds of the strand, as far as the guard has run (R392) -/
  guard : StrandRegs := {}
  after : Option ForkAfter := none
  /-- cause and TPC of the last REPLAY (R179) -/
  lastReplay : Option (Nat × Word) := none
  /-- result of a translation walk that faulted, for the page it served (R189) -/
  walkFault : Option (Nat × Trap) := none
  /-- a phase-closing trap was delivered and the strand has not resumed issuing (R154) -/
  closing : Bool := false
  /-- semaphore flags raised by the strand's own commands since the phase began (R198): VSTAT, MESTAT0, MESTAT1,
  GECC, XLATE -/
  ownFlags : SMap Nat := []
deriving DecidableEq, Repr, Inhabited

/-! ### Matrix memories -/

/-- An operand slot (R300). -/
structure Slot where
  /-- 0 EMPTY, 1 FILLING, 2 READY, 3 DRAINING -/
  state : Nat := 0
  fb : Bool := false
  rc : Nat := 0
  taint : Bool := false
  bytes : SMap Byte := []
deriving DecidableEq, Repr, Inhabited

/-- An accumulator bank (R302). -/
structure Bank where
  /-- element (i, j) at key 128 i + j -/
  acc : SMap (BitVec 80) := []
  taint : Bool := false
deriving DecidableEq, Repr, Inhabited

/-- A semaphore word and its hidden observed bit (R65, R184). -/
structure Sem where
  count : Nat := 0
  e : Bool := false
  obs : Bool := false
deriving DecidableEq, Repr, Inhabited

/-- Stamp of a sector (R127) and, in a scratchpad, its kind and roles (R129, R387). -/
structure Stamp where
  /-- bits 23:0 of R127 -/
  bits : BitVec 24 := 0
  /-- 0 unclassified, 1 ordinary, 2 synchronising, 3 collective -/
  kind : Nat := 0
  /-- collective: writing party (1 + number), read already, consuming core (1 + number) -/
  writer : Nat := 0
  read : Bool := false
  consumer : Nat := 0
deriving DecidableEq, Repr, Inhabited

/-- A register record of R264. -/
structure RegRecord where
  readers : List Nat := []
  writer : Option Nat := none
deriving DecidableEq, Repr, Inhabited

/-! ### Tasks -/

/-- Trap CSRs of a task and the views of a heritage routine (R174, R190). -/
structure TrapRegs where
  tcause : Word := 0
  tpc : Word := 0
  tstatus : Word := 0
  trec : Word := 0
  tval : Word := 0
  tvec : Word := 0
  hcmd0 : Word := 0
  hcmd1 : Word := 0
  hcmd2 : Word := 0
  hopa : Word := 0
  hopb : Word := 0
  hopc : Word := 0
deriving DecidableEq, Repr, Inhabited

/-- Vector state of a task (R249 to R257) and the CSRs of R195 beside it. -/
structure VecState where
  v : SMap (BitVec 8192) := []
  m : SMap (BitVec 1024) := []
  n : SMap (BitVec 256) := []
  ft : SMap Word := []
  vsh : Word := 0x4010
  vctl : Word := 0
  vstat : Word := 0
  ftsel : Word := 0
  srseed : Word := 0
  xwanchor : Word := 0
  /-- registers with an uncorrectable error (R261): v n as n, m n as 0x200 + n, n n as 0x210 + n, each with the bytes of a
  vector register, or the bits of another, that nothing has written since -/
  bad : SMap Nat := []
deriving DecidableEq, Repr, Inhabited

/-- Matrix, copy, gather and collective state of a task. -/
structure EngState where
  slots : SMap Slot := []
  banks : SMap Bank := []
  /-- shadow tables of ME0 and ME1: key 16 × level + field -/
  table0 : SMap (BitVec 32) := []
  table1 : SMap (BitVec 32) := []
  mesteer : Word := 0
  mestat0 : Word := 0
  mestat1 : Word := 0
  glod : Word := 0
  /-- what the last 64 units of the gather engine wrote, latest first: first byte and length (R352, R353) -/
  geWrites : List (Nat × Nat) := []
  gecc : Word := 0
  xlate : Word := 0
  wbase : Word := 0
  xcount : BitVec 32 := 0
  fifo0 : List Word := []
  fifo1 : List Word := []
deriving DecidableEq, Repr, Inhabited

/-- Per-phase records of a DET launch kept with the task (R129, R198, R239, R240, R264, R290, R317, R331, R402). -/
structure PhaseRecords where
  stamps : SMap Stamp := []
  /-- producing and consuming core of a synchronising word, each 1 + number -/
  producers : SMap Nat := []
  consumers : SMap Nat := []
  /-- CSR number: holder strand and whether it has written (R198) -/
  csrHolder : SMap (Nat × Bool) := []
  /-- format-table entry: holder and written (R290) -/
  ftHolder : SMap (Nat × Bool) := []
  /-- shadow table: holder and written (R331) -/
  tableHolder : SMap (Nat × Bool) := []
  /-- semaphore: the waiting party, strand s as s, queue q as 16 + q (R239) -/
  semWaiter : SMap Nat := []
  fifoHolder : SMap Nat := []
  slotOwner : SMap Nat := []
  bankOwner : SMap Nat := []
  /-- claims on a slot: 0 matrix, 1 to 4 CE channel, 5 GE (R317) -/
  claims : SMap Nat := []
  regs : SMap RegRecord := []
  /-- VSTAT, MESTAT0, MESTAT1, GECC and XLATE flags at the start of the phase (R198) -/
  flags0 : SMap Nat := []
deriving DecidableEq, Repr, Inhabited

/-- Where a task stands (R160). -/
inductive TaskPhase where
  /-- accepted and never placed, or switched out without waiting on its save -/
  | ready
  | running (core : Nat)
  | saved
  | parked
deriving DecidableEq, Repr, Inhabited

/-- The freeze of a trapped task (R175). -/
structure Freeze where
  strand : Nat
  /-- queue of an engine-origin primary trap -/
  queue : Option Nat
  stamp : Word
deriving DecidableEq, Repr, Inhabited

/-- A trap whose action waits for room in the scheduler log (R169). -/
structure HeldAction where
  strand : Nat
  queue : Option Nat
  trap : Trap
  tpc : Word
  action : Nat
deriving DecidableEq, Repr, Inhabited

/-- An entry of the load-value queue: a value on its way to the guard, for a strand (R392). -/
structure LvqEntry where
  strand : Nat
  value : Word
  /-- an uncorrectable error has struck it (R172) -/
  bad : Bool := false
deriving DecidableEq, Repr, Inhabited

structure Task where
  launch : Nat := 0
  /-- remap-table die and entry (R160) -/
  die : Nat := 0
  entry : Nat := 0
  lx : Nat := 0
  ly : Nat := 0
  place : TaskPhase := .ready
  /-- placed at least once: SPSIZE is fixed (R148) -/
  placed : Bool := false
  spsize : Nat := 0
  strands : SMap Strand := []
  trap : TrapRegs := {}
  loops : SMap LoopState := []
  vec : VecState := {}
  eng : EngState := {}
  sems : SMap Sem := []
  /-- scratchpad bytes; unlisted bytes read 0 (R147) -/
  spad : SMap Byte := []
  /-- heritage working region (R191) -/
  heritage : SMap Byte := []
  /-- full words; unlisted words are empty (R113) -/
  full : List Nat := []
  feWaiters : List FeWaiter := []
  queues : SMap (List Entry) := []
  serial : Nat := 0
  /-- entries ever pushed to each queue, for HEAD of the record (R176) -/
  pushed : SMap Nat := []
  monctl : Word := 0
  dbgctl : Word := 0
  recs : PhaseRecords := {}
  freeze : Option Freeze := none
  /-- the action of a primary trap taken during a switch-out or awaiting switch-in (R163, R178) -/
  pendingResume : Option Freeze := none
  /-- barriers of a shape at which the task has arrived (R152) -/
  arrived : SMap Nat := []
  ended : Bool := false
  killed : Bool := false
  quantum : Word := 0
  /-- strand that issued last, for the round robin of R13 -/
  lastIssued : Nat := 7
  /-- physical base of the context area, and what it holds beyond the fields above: the heritage save area (R190) and the
  trap record of a function without RECBASE (R177) -/
  ctxBase : Nat := 0
  context : SMap Byte := []
  /-- a switch-out is in progress: reason of R168 -/
  leaving : Option Nat := none
  /-- parked since, for R185 -/
  parkedSince : Option Word := none
  /-- uncorrectable words of the scratchpad -/
  badWords : List Nat := []
  heldAction : Option HeldAction := none
  /-- the load-value queue of the core, 256 entries, oldest first (R392) -/
  lvq : List LvqEntry := []
deriving DecidableEq, Repr, Inhabited

/-! ### Launches, functions and dies -/

/-- A monitor of a launch (R397 to R403). -/
structure Monitor where
  base : Word := 0
  limit : Word := 0
  rec_ : Nat := 1
  off : Nat := 0
  fmt : Nat := 0
  net : Bool := false
  carry : Bool := false
  anch : BitVec 8 := 0
  bound : Nat := 0
  armed : Bool := false
  pending : Bool := false
  clearing : Bool := false
  party : Nat × Nat := (0, 0)
  ref : Int := 0
  rdig : Word := 0
  dchk : Bool := false
  /-- port partials: die, total, digest, NONFINITE, XW_OVF -/
  parts : SMap (Int × Nat × Bool × Bool) := []
  /-- pages of the range: page number of the virtual address and physical base -/
  pages : List (Nat × Nat) := []
  /-- the function's mappings of those physical pages when the monitor was set, in the same form (R399) -/
  maps : List (Nat × Nat) := []
  snapTotal : Int := 0
  snapDigest : Word := 0
  nonfinite : Bool := false
  xwOvf : Bool := false
  drift : Bool := false
  cphase : Word := 0
  holder : Option (Nat × Nat) := none
  /-- checked already at the end of the present phase (R401) -/
  reported : Bool := false
  /-- the trap of that check that its task could not yet take (R154) -/
  due : Option Nat := none
deriving DecidableEq, Repr, Inhabited

/-- A launch's life (R143 to R145, R154, R155). -/
inductive LaunchPhase where
  /-- in its queue, not yet judged or not yet accepted -/
  | waiting
  | accepted
  /-- complete; kept until its status is written -/
  | done (status : Nat)
deriving DecidableEq, Repr, Inhabited

structure Launch where
  fn : Nat := 0
  /-- queue number it takes its turn in (R157) -/
  queue : Nat := 0
  /-- place in the order of acceptance -/
  serial : Nat := 0
  width : Nat := 0
  height : Nat := 0
  ox : Nat := 0
  oy : Nat := 0
  det : Bool := false
  log : Bool := false
  prio : Nat := 0
  sup : Bool := false
  code : Word := 0
  args : Word := 0
  done : Word := 0
  /-- raw extent and resource words, for the checks of R143 -/
  extent : Word := 0
  resources : Word := 0
  tail : Word := 0
  strands : Nat := 1
  spadkb : Nat := 0
  vregs : Nat := 0
  actions : Word := 0
  launchId : BitVec 32 := 0
  phase : Word := 0
  ownerTag : Nat := 0
  /-- physical pages a DET launch may write, at its acceptance (R132) -/
  pages : List Nat := []
  phaseOf : LaunchPhase := .waiting
  /-- arrived by LAUNCH: the status word stands at DONE + 8; else the host packet number -/
  byLaunch : Bool := false
  packet : Nat := 0
  failed : Bool := false
  dataErr : Bool := false
  monitors : SMap Monitor := []
  /-- completed team barriers: key ((shape × 64 + y) × 64 + x), number completed (R152) -/
  barriers : SMap Nat := []
deriving DecidableEq, Repr, Inhabited

/-- A cached translation (R188, R189). -/
structure TlbEntry where
  fn : Nat := 0
  /-- 128 KiB virtual page -/
  page : Nat := 0
  /-- physical address of that page -/
  pa : Nat := 0
  /-- VF-stage R, W, X, DETW -/
  vr : Bool := false
  vw : Bool := false
  vx : Bool := false
  vd : Bool := false
  /-- host-stage R, W, X, DETW -/
  hr : Bool := false
  hw : Bool := false
  hx : Bool := false
  hd : Bool := false
  user : Bool := false
  tso : Bool := false
  log : Bool := false
  tag : Nat := 0
deriving DecidableEq, Repr, Inhabited

/-- Who waits for a walk. -/
inductive Walker where
  | strand (task strand : Nat)
  | queue (task queue : Nat)
deriving DecidableEq, Repr, Inhabited

/-- A pending walk of a die (R189). -/
structure Walk where
  fn : Nat
  page : Nat
  stamp : Word
  source : Nat
  waiters : List Walker
deriving DecidableEq, Repr, Inhabited

/-- A signal box's queue as it waits (R157 to R159). -/
structure QueueLevel where
  level : Nat := 0
  since : Word := 0
deriving DecidableEq, Repr, Inhabited

/-- A physical core (R19, R20, R437 to R442). -/
structure Core where
  me0 : Nat := 0
  me1 : Nat := 0
  /-- scratchpad banks retired without a spare, spare banks left, and the stage of each bank that has left stage 0 -/
  retiredBanks : Nat := 0
  spareBanks : Nat := 2
  banks : SMap Nat := []
  inService : Bool := true
  retired : Bool := false
  suspect : Bool := false
  /-- corrected guard mismatches, CSTAT.CORR -/
  corrected : Nat := 0
  /-- margin tests failed, and when the last began (R440) -/
  failedTests : Nat := 0
  tested : Word := 0
deriving DecidableEq, Repr, Inhabited

/-- The order-log registers of one function on one die (R404). -/
structure OrderLog where
  base : Word := 0
  limit : Word := 0
  wp : Word := 0
  replay : Bool := false
  full : Bool := false
  rp : Word := 0
  /-- records consumed in replay above LOGRP (R408) -/
  consumed : List Nat := []
deriving DecidableEq, Repr, Inhabited

structure Die where
  cores : SMap Core := []
  age : SMap Nat := []
  sliceq : Nat := 50
  blockt : Nat := 4
  slogbase : Word := 0
  sloglimit : Word := 0
  slogwp : Word := 0
  vfmax : SMap Nat := []
  hangto : Nat := 100
  pointers : SMap Nat := []
  levels : SMap QueueLevel := []
  /-- remap entry number to task key (R160) -/
  remap : SMap Nat := []
  dieTlb : List TlbEntry := []
  coreTlb : SMap (List TlbEntry) := []
  walks : List Walk := []
  lastServed : Nat := 0
  logs : SMap OrderLog := []
deriving DecidableEq, Repr, Inhabited

/-- A COPY packet that has started and not completed (R427). -/
structure HostCopy where
  dst : Word := 0
  src : Word := 0
  done : Word := 0
  len : Nat := 0
  /-- the order the copy took at its start (R342), as for `Entry.copyOrder` -/
  order : Nat := 0
  /-- bytes moved, in access order -/
  progress : Nat := 0
  /-- ended by a translation fault -/
  ended : Bool := false
  /-- completes with FAILED -/
  failed : Bool := false
deriving DecidableEq, Repr, Inhabited

/-- A host queue's registers (R417) and the work its packets have started. -/
structure HostQueue where
  qbase : Word := 0
  qsize : Nat := 4
  /-- EN, IEN and VEC -/
  qctl : Word := 0
  rdix : Nat := 0
  wrix : Nat := 0
  /-- QSTAT but STOPPED -/
  qstat : Word := 0
  stopped : Bool := false
  /-- how often EN has gone to 1: it tells the works of packets with one index apart -/
  epoch : Nat := 0
  /-- launch of the LAUNCH packet at QRDIX, not yet accepted or rejected -/
  busy : Option Nat := none
  /-- work that has not completed, by 2^32 × epoch + packet index: its launch, or its copy -/
  launches : SMap Nat := []
  copies : SMap HostCopy := []
deriving DecidableEq, Repr, Inhabited

/-- Registers of a function (R415, R422, R188, R441). -/
structure Function where
  vfroot : Word := 0
  hostroot : Word := 0
  fcfg : Word := 0x70
  fevent : Word := 0
  fevctl : Word := 0
  recbase : Word := 0
  apbase : Word := 0
  ptmctl : Word := 0
  ptmsc : Word := 0
  ptmhost : Word := 0
  launchCount : BitVec 32 := 0
  apdeny : Word := 0
deriving DecidableEq, Repr, Inhabited

/-- A physical region and the home behind it (R104). -/
structure Region where
  base : Nat
  size : Nat
  home : Home
deriving DecidableEq, Repr, Inhabited

/-- A store of a launch to an instruction parcel: what the parcel held before it, which a fetch of the launch may still read
until a system fence of the storing strand has made the store visible (R57). -/
structure OldParcel where
  launch : Nat
  task : Nat
  strand : Nat
  /-- physical address of the parcel -/
  pa : Nat
  old : Nat
  /-- the parcel after the store, and its bytes that the store wrote -/
  new : Nat := 0
  wrote : List Nat := []
  /-- system fences the strand had issued before the store -/
  after : Nat := 0
  /-- a fence of the strand has made the store visible, and the strand has ended since -/
  done : Bool := false
deriving DecidableEq, Repr, Inhabited

/-- Page phase table entry of a 128 KiB HBM page (R131). -/
structure PagePhase where
  gen : Nat := 0
  /-- a sweep of the page runs -/
  sweep : Bool := false
  lphase : Nat := 0
  owner : Nat := 0
deriving DecidableEq, Repr, Inhabited

/-- One move that some agent makes next. -/
inductive Pick where
  /-- a strand of a running task issues its next instruction -/
  | issue (sel : Sel)
  /-- another agent's step -/
  | event (i : Instr) (sel : Sel)
  /-- time passes, in ns -/
  | tick (ns : Nat)
  /-- a translation cache drops an entry: die, core (36 for the die's cache), place (R189) -/
  | evict (die core place : Nat)
  /-- the host stores a byte to its own memory -/
  | hostStore (addr : Nat) (b : Byte)
  /-- an uncorrectable error strikes a physical word (R172) -/
  | bitError (addr : Nat)
  /-- an uncorrectable error strikes a task's memory: a scratchpad word below 2^24, byte 32768 n + o of slot n from 2^24,
  element e of bank b at 2^25 + 16384 b + e (R172, R315) -/
  | spadError (task addr : Nat)
  /-- an uncorrectable error strikes a register: g n of strand k at 64 k + n, vector register n at 512 + n, mask n at 1024 + n,
  nest register n at 1040 + n (R172, R261) -/
  | regError (task reg : Nat)
  /-- an uncorrectable error strikes register n of strand k in the guard core's register file, at 64 k + n (R172, R392) -/
  | guardError (task reg : Nat)
  /-- an uncorrectable error strikes an entry of a task's load-value queue (R172, R392) -/
  | lvqError (task place : Nat)
  /-- the guard core catches up with a strand (R392) -/
  | guardRun (task strand : Nat)
  /-- a parity failure in the control of an engine (R172) -/
  | parityError (task queue : Nat)
  /-- a debug watchpoint on an address meets a strand (R172) -/
  | watchpoint (task strand : Nat) (addr : Word)
deriving DecidableEq, Repr, Inhabited

/-- Service state of the module (R437 to R447). -/
structure Service where
  mtperiod : Word := 24
  rcause : Word := 0
  suspbase : Word := 0
  susplen : Word := 0
  fwaddr : Word := 0
  fwlen : Word := 0
  fwstat : Word := 0
  pcap : Word := 3600
  /-- arithmetic clock, MHz (R8, R447) -/
  clockMhz : Nat := 1200
  /-- ladder stage of a pseudo-channel: die × 128 + stack × 64 + channel -/
  channels : SMap Nat := []
  /-- retired lanes of the hop that leaves a station, by direction: 2 × station, + 1 for CCW -/
  lanes : SMap Nat := []
  /-- errors the patrol scrub found: HBM corrected by die × 128 + channel, SRAM corrected by 2^16 + die × 64 + core,
  uncorrectable at 2^17 -/
  scrubs : SMap Nat := []
  /-- forecasts of the gauges that a test has updated, by offset in the service block (R442) -/
  forecasts : SMap (BitVec 48) := []
  /-- flash images written since manufacture, banks without a valid image, the active bank (R444) -/
  flash : SMap (List Byte) := []
  invalidBanks : List Nat := []
  bank : Nat := 0
  /-- image being staged; the staged bank becomes active at the next reset (R445) -/
  staging : Option (List Byte) := none
  activate : Bool := false
  /-- a warm reset is under way; launches it touches (R443) -/
  resetting : Bool := false
  touched : List Nat := []
  /-- the recovery loader runs (R444) -/
  recovery : Bool := false
deriving DecidableEq, Repr, Inhabited

/-- The whole machine. -/
structure State where
  /-- who acts in the step in progress -/
  sel : Sel := {}
  /-- moves to be made next, first first -/
  agenda : List Pick := []
  /-- draws made from the free values -/
  draw : Nat := 0
  /-- station clock, ns (R8) -/
  clock : Word := 0
  /-- HBM and host memory by physical address, as device agents read it -/
  mem : SMap Byte := []
  /-- device stores to host memory that have not reached the host: function, address, byte, oldest first (R137) -/
  toHost : List (Nat × Nat × Byte) := []
  /-- what the host itself reads where it differs -/
  hostView : SMap Byte := []
  /-- window SRAM by window offset (R421) -/
  win : SMap Byte := []
  physMap : List Region := []
  tasks : SMap Task := []
  nextTask : Nat := 1
  launches : SMap Launch := []
  nextLaunch : Nat := 1
  dies : SMap Die := []
  functions : SMap Function := []
  queues : SMap HostQueue := []
  /-- module queue number that the command processor of each link served last (R425) -/
  served : SMap Nat := []
  /-- owner of each window granule, 0 none (R421) -/
  wown : SMap Nat := []
  qmap : SMap Nat := []
  net : SMap Msg := []
  nextMsg : Nat := 1
  /-- messages that have left their crossbar or home, and refusals (R124, R367) -/
  entered : Nat := 0
  couplings : SMap Coupling := []
  rounds : SMap Round := []
  /-- locations whose AMOR round has completed in a phase: launch and address (R232) -/
  roundsDone : List (Nat × Nat) := []
  /-- stamps of HBM and window sectors, by physical sector (R127) -/
  stamps : SMap (BitVec 24) := []
  pagePhase : SMap PagePhase := []
  badWords : List Nat := []
  /-- what fetches may still read of overwritten code (R57) -/
  oldCode : List OldParcel := []
  /-- interrupt messages sent to the host: function and vector (R431) -/
  msix : List (Nat × Nat) := []
  /-- answers to attestation requests: function and bytes (R446) -/
  doe : List (Nat × List Byte) := []
  service : Service := {}
deriving DecidableEq, Repr, Inhabited

/-! ### The machine right after reset -/

/-- Bytes of the HBM of one die: two stacks of 75 GB (R12), in whole 128 KiB pages. -/
def hbmBytes : Nat := 1144409 * 131072

/-- The physical map of log entry 4: the HBM of die d from d × 2^40, host memory of JA and JB from 2^46 and 3 × 2^45. -/
def physMapReset : List Region :=
  (List.range 8).map (fun d => { base := d * 2 ^ 40, size := hbmBytes, home := .hbm d })
    ++ [{ base := 2 ^ 46, size := 2 ^ 45, home := .host 0 }, { base := 3 * 2 ^ 45, size := 2 ^ 45, home := .host 1 }]

/-- A die after reset: 32 cores in service and 4 spares (R13), every register of R167 at its reset value. -/
def Die.reset : Die :=
  { cores := (List.range 36).map (fun c => (c, { inService := decide (c < 32) })),
    age := (List.range 7).map (fun n => (n, 1000)) }

/-- The machine right after reset: eight dies, no launch, no task, memory with nothing listed (log entries 2 to 7). -/
def State.reset : State :=
  { dies := (List.range 8).map (fun d => (d, Die.reset)), physMap := physMapReset }

/-! ### The reasons a step can stop -/

/-- Faults of the machine: no rule of the spec stops the module, so no step raises one. -/
inductive Fault where
  /-- Raised by no step: every fault of a program is a trap with an effect (R172). Safe. -/
  | none
deriving DecidableEq, Repr

/-- Refusals of the model. -/
inductive Refusal where
  /-- Answered by an arm of the dispatcher whose instruction has no meaning yet. Safe. -/
  | notModelled (mnemonic : String)
deriving DecidableEq, Repr

end Sys2Proof.Machine
end

