-- ==== Sys2Proof/Config.lean ====
section
/-!
DEFINITION. What the spec leaves to the run or to an implementation: free values. None has a body, so no proof can see
what it is; `State.draw` counts the values taken.
-/
namespace Sys2Proof

/-- Who moves next when no agenda says it: timing, which the spec does not fix (log entry 2). -/
opaque Config.nextPick : Nat → Machine.Pick

/-- A value the spec does not give, the n-th one drawn (log entry 21). -/
opaque Config.freeWord : Nat → Word

/-- SHA3-256 of bytes, which the spec names and does not define (log entry 22). -/
opaque Config.sha3 : List Byte → BitVec 256

/-- Does a signature verify for an image? The algorithm is named and not defined (log entry 22). -/
opaque Config.signatureOk : List Byte → Bool

/-- The signed answer to an attestation request: kind, nonce, measurements (log entry 22). -/
opaque Config.attest : Nat → BitVec 256 → List Byte → List Byte

/-- The image a flash bank holds from manufacture, the security version in an image's header, and the fused minimum
version (log entry 7). -/
opaque Config.factoryImage : Nat → List Byte

opaque Config.imageVersion : List Byte → Nat

opaque Config.fusedVersion : Nat

/-- The heritage area that an image loads (R443, R446, log entry 7). -/
opaque Config.heritageArea : List Byte → List Byte

/-- A forecast of a wear gauge, HNEXT and HEOL, that the n-th draw brings (R442, log entry 103). -/
opaque Config.forecast : Nat → BitVec 48

/-- The parts of a task's context area whose form R161 does not give: the header with the states of the slots, 1 KiB of a
strand, 32 bytes of a queue entry, the queue counts, and the stamps, roles and ownership (log entry 123). -/
opaque Config.contextHeader : Machine.Task → Machine.Launch → Nat → Byte

opaque Config.contextStrand : Machine.Strand → Nat → Byte

opaque Config.contextEntry : Machine.Entry → Nat → Byte

opaque Config.contextCounts : List Nat → Nat → Byte

opaque Config.contextRecords : Machine.PhaseRecords → Nat → Byte

/-- ARG of the scheduler record of a switch-out that R168 gives no code for: 4 REPLAY, 5 a change of cores (log entry 122). -/
opaque Config.switchReason : Nat → Nat

/-- The lane a station sends a (destination, class) pair on, which the spec does not compute (R365, log entry 105). -/
opaque Config.ringLane : Nat → Nat → Nat

/-- Where in the heritage area firmware puts the routine of an opcode, LEN + 4 × OP of a first parcel, and a class, a bitmap
of R19 (R190, log entry 23). -/
opaque Config.heritageEntry : Nat → Nat → Word

end Sys2Proof
end

