-- ==== Sys2Proof/Decode.lean ====
section
/-!
DEFINITION. Decoding of instruction words and the encoder (R56 to R73).
A word is a number whose bit 0 is the least significant bit of the first parcel; later parcels count on from bit 32.
Decoding is total on any number: it answers an instruction or the fate R70 gives the word.
-/
namespace Sys2Proof

/-- The field of `n` bits from bit `lo` upward. -/
def fld (w lo n : Nat) : BitVec n := BitVec.ofNat n (w / 2 ^ lo)

/-- The number a list of bytes holds, little-endian (R4). -/
def leNat : List Byte → Nat
  | [] => 0
  | b :: bs => b.toNat + 256 * leNat bs

/-- One bit of a word. -/
def bit (w lo : Nat) : Bool := (w / 2 ^ lo) % 2 == 1

/-! ### What a field may hold (R60 to R64, R69; steps 6 and 7 of R70) -/

/-- What the checks of R70 depend on beside the word: the privilege state and the task's VREGS (R142). -/
structure DecodeCtx where
  sup : Bool
  vregs : Nat
deriving DecidableEq, Repr, Inhabited

/-- Privileged state with every vector register: accepts whatever some task may run. -/
def DecodeCtx.permissive : DecodeCtx := { sup := true, vregs := 384 }

/-- Types I of R266: INT8, UINT8, INT16, INT32. -/
def etI (t : Nat) : Bool := t ≤ 3

/-- Types F of R266: E4M3, E5M2, FP16, BF16, FP32. -/
def etF (t : Nat) : Bool := 4 ≤ t && t ≤ 8

/-- Types S of R266: codes 0 to 9. -/
def etS (t : Nat) : Bool := t ≤ 9

/-- Types B of R266: PSB7, PSB4, PSB2, MXFP4. -/
def etB (t : Nat) : Bool := 10 ≤ t && t ≤ 13

/-- The CSR numbers that R195 and the chapters it points to assign. -/
def csrExists (n : Nat) : Bool :=
  n ≤ 0x11 || (0x20 ≤ n && n ≤ 0x2C) || (0x40 ≤ n && n ≤ 0x45) || (0x60 ≤ n && n ≤ 0x64)
    || (0x80 ≤ n && n ≤ 0x82) || (0xA0 ≤ n && n ≤ 0xA2) || n == 0xC0 || (0xE0 ≤ n && n ≤ 0xE4)
    || (0x100 ≤ n && n ≤ 0x103) || n == 0x1C0 || n == 0x1C1

/-- How an instruction of format V3, VL or VW reads its fields. -/
structure VUse where
  /-- the V3 fields -/
  f : V3
  /-- vector registers the instruction names (R62, R142) -/
  regs : List Nat
  /-- element types ET, or VET under FT = 1, may hold (R266); none where ET is a zero field -/
  types : Option (Nat → Bool)
  /-- VD, VA and VB hold nothing above their read bits, or are zero fields (R61) -/
  fields : Bool
  /-- Z, X, RM, SAT, FT and M may be nonzero -/
  z : Bool := true
  x : Bool := false
  rm : Bool := true
  sat : Bool := true
  ft : Bool := true
  m : Bool := true

/-- VD, VA and VB all name vector registers. -/
def VUse.ternary (f : V3) (types : Nat → Bool) : VUse :=
  { f, regs := [f.vd.toNat, f.va.toNat, f.vb.toNat], types := some types, fields := true }

/-- VD and VA name vector registers and VB is a zero field. -/
def VUse.binary (f : V3) (types : Nat → Bool) : VUse :=
  { f, regs := [f.vd.toNat, f.va.toNat], types := some types, fields := f.vb == 0 }

/-- VD and VA name vector registers and VB[5:0] a g register. -/
def VUse.withG (f : V3) (types : Nat → Bool) : VUse :=
  { f, regs := [f.vd.toNat, f.va.toNat], types := some types, fields := f.vb.toNat < 64 }

/-- VD, VA and VB name masks or g registers below the given bounds, and ET fixes N only (R289). -/
def VUse.masks (f : V3) (bd ba bb : Nat) : VUse :=
  { f, regs := [], types := some (fun t => etS t || etB t), z := false, rm := false, sat := false, m := false,
    fields := f.vd.toNat < bd && f.va.toNat < ba && f.vb.toNat < bb }

/-- No type, no predicate and no modifier: VSHAPE, VNSET, VNX, FTLD, POPV. -/
def VUse.bare (f : V3) (bd ba bb : Nat) (regs : List Nat) : VUse :=
  { f, regs, types := none, z := false, rm := false, sat := false, ft := false, m := false,
    fields := f.vd.toNat < bd && f.va.toNat < ba && f.vb.toNat < bb }

/-- The use each vector instruction makes of its fields (R265 to R295). -/
def vuse : Instr → Option VUse
  | .vadd f | .vsub f | .vmul f | .vfma f | .vfms f => some (.ternary f etS)
  | .vmin f | .vmax f => some { VUse.ternary f etS with rm := false, sat := false }
  | .vabs f | .vneg f => some { VUse.binary f etS with rm := false }
  | .vscale f => some (.withG f (fun t => etF t || t == 9))
  | .vdot4 f => some { VUse.ternary f (fun t => t ≤ 1) with rm := false }
  | .vtacc f => some { VUse.ternary f (fun t => t == 0 || t == 2) with rm := false }
  | .vand f | .vor f | .vxor f => some { VUse.ternary f etS with rm := false, sat := false }
  | .vsll f | .vsrl f | .vsra f => some { VUse.ternary f etI with rm := false, sat := false }
  | .vcmpEq f | .vcmpNe f | .vcmpLt f | .vcmpLe f | .vcmpGt f | .vcmpGe f =>
    some { VUse.ternary f etS with
      regs := [f.va.toNat, f.vb.toNat], fields := f.vd.toNat < 16, rm := false, sat := false }
  | .vcmpUnord f =>
    some { VUse.ternary f (fun t => etF t || t == 9) with
      regs := [f.va.toNat, f.vb.toNat], fields := f.vd.toNat < 16, rm := false, sat := false }
  | .vsel f => some { VUse.ternary f etS with z := false, rm := false, sat := false }
  | .vcvt _ f => some (.binary f etS)
  | .vrcp f | .vrsq f | .vsqrt f | .vexp2 f | .vlog2 f => some (.binary f etF)
  | .vredSum _ f => some { VUse.binary f etS with z := false }
  | .vredMax _ f | .vredMin _ f | .vredSumx _ f => some { VUse.binary f etS with z := false, rm := false, sat := false }
  | .vperm f => some { VUse.ternary f etS with x := true, rm := false, sat := false }
  | .vrot f | .vxl f | .vbcast f => some { VUse.withG f etS with x := true, rm := false, sat := false }
  | .vscan f => some (.binary f etS)
  | .vpack f | .vexpand f => some { VUse.withG f etS with z := false, rm := false, sat := false }
  | .vsparse _ _ f =>
    some { VUse.binary f (fun t => etF t || t == 0 || t == 2 || t == 3) with
      regs := [f.vd.toNat, f.vd.toNat + 1, f.va.toNat], z := false, rm := false, sat := false }
  | .vunpk3 f =>
    some { VUse.binary f (fun t => t == 14) with fields := f.vb.toNat < 16, rm := false, sat := false, ft := false }
  | .vqb f => some { VUse.binary f etB with fields := f.vb.toNat < 16, z := false, sat := false }
  | .vdqb f => some { VUse.binary f etF with fields := f.vb.toNat < 16, z := false }
  | .vmov f => some { VUse.binary f etS with x := true, rm := false, sat := false }
  | .vmvs f =>
    some { VUse.withG f (fun t => etI t || etF t) with
      regs := [f.va.toNat], fields := f.vd.toNat < 64 && f.vb.toNat < 64, z := false, rm := false, sat := false }
  | .vmvg f =>
    some { VUse.withG f (fun t => etI t || etF t) with
      regs := [f.vd.toNat], fields := f.va.toNat < 64 && f.vb.toNat < 64, z := false, rm := false, sat := false }
  | .vshape f => some (.bare f 64 64 1 [])
  | .mlogAnd f | .mlogOr f | .mlogXor f | .mlogAndn f => some (.masks f 16 16 16)
  | .mpopc f | .mfirst f => some (.masks f 64 16 1)
  | .ftld f => some (.bare f 16 64 1 [])
  | .popv f => some (.bare f 512 2 64 [f.vd.toNat])
  | .vnset f => some (.bare f 8 64 64 [])
  | .vnx _ f => some (.bare f 1 1 1 [])
  | .vbcastl f _ =>
    some { VUse.binary f (fun t => etI t || etF t) with
      regs := [f.vd.toNat], fields := f.va == 0 && f.vb == 0, rm := false, sat := false }
  | .vsweep fn f =>
    if fn.toNat ≤ 4 then some (.ternary f.v etS)
    else if fn.toNat ≤ 6 then some { VUse.ternary f.v etS with rm := false, sat := false }
    else some { VUse.binary f.v etS with fields := f.v.vb == 0 && f.stepb == 0, rm := false }
  | _ => none

/-- Step 6 of R70 for the V3 fields: register numbers, type code, rounding mode. -/
def VUse.legal (u : VUse) (vregs : Nat) : Bool :=
  u.regs.all (· < vregs)
    && (u.f.ft && u.ft || (match u.types with | some t => t u.f.et.toNat | none => true))
    && (u.f.ft && u.ft || !u.rm || u.f.rm.toNat ≤ 5)

/-- Step 7 of R70 for the V3 fields: a field the instruction does not use is a zero field (R61, log entry 13). -/
def VUse.zeroOk (u : VUse) : Bool :=
  let f := u.f
  u.fields && (u.z || !f.z) && (u.x || !f.x) && (u.rm || f.rm == 0) && (u.sat || !f.sat) && (u.ft || !f.ft)
    && (u.m || f.m == 0) && (u.types.isSome || f.et == 0)
    && (!(f.ft && u.ft) || (f.et == 0 && f.rm == 0 && !f.sat))

/-- The bank of an EC command belongs to the engine E names (R302). -/
def bankOk (f : EC) : Bool := f.e.toNat == 2 || (f.c.toNat % 4) / 2 == f.e.toNat

/-- MF of MTILE, MGO and MSPGO (R64), `block` telling whether the codes 5 to 8 are accepted. -/
def mfOk (fn : BitVec 6) (f : EC) (block : Bool) : Bool :=
  let mf := fn.toNat % 16
  (mf ≤ 4 || (block && mf ≤ 8) || mf == 15)
    && (!(fn.getLsbD 5) || ((mf == 8 || mf == 15) && f.a.toNat != 31 && f.b.toNat != 31))
    && (!(fn.getLsbD 4) || mf == 15 || f.c.toNat % 2 == 0)

/-- Step 6 of R70: every field value the instruction accepts. -/
def legal (c : DecodeCtx) (i : Instr) : Bool :=
  (match vuse i with | some u => u.legal c.vregs | none => true) &&
  match i with
  | .loops _ _ imm => imm != 0
  | .fence _ scope _ => scope.toNat ≤ 5
  | .csrr _ n | .csrw _ _ n | .csrs _ _ n | .csrc _ _ n => csrExists n.toNat
  | .vcvt src _ => etS src.toNat
  | .vredSum d _ | .vredMax d _ | .vredMin d _ | .vredSumx d _ => d != 3
  | .vqb f => f.vb.toNat % 16 == 7 || f.vb.toNat % 16 == 8
  | .vdqb f => etB (f.vb.toNat % 16)
  | .vsweep fn _ => fn.toNat ≤ 8
  | .vld f | .vst f | .vlds f | .vsts f => f.vd.toNat < c.vregs && (etS f.et.toNat || etB f.et.toNat)
  | .vgath f | .vscat f => f.vd.toNat < c.vregs && f.disp.toNat % 512 < c.vregs && etS f.et.toNat
  | .mclaim f | .mrel f | .mstat f => f.e != 3
  | .mzero f => f.e != 3 && bankOk f
  | .mgo fn f | .mtile fn f => f.e != 3 && bankOk f && mfOk fn f true
  | .mspgo fn f => f.e != 3 && bankOk f && mfOk fn f false
  | .mdrain fn f =>
    f.e != 3 && bankOk f && (let t := fn.toNat % 16; (3 ≤ t && t ≤ 9) || t == 15)
  | .mldacc fn f =>
    f.e != 3 && bankOk f && (let t := fn.toNat % 16; t == 3 || t == 8 || t == 9 || t == 15)
  | .cpy n f => f.c.toNat + n.toNat ≤ 63
  | .cpy2d n f => f.c.toNat + 1 + n.toNat ≤ 63
  | .xred f => f.c != 63
  | .flush scope _ => scope.toNat ≤ 5
  | .grow et f => f.e == 0 && (etS et.toNat || etB et.toNat)
  | .gbag et _ f => f.e == 0 && (etF et.toNat || etB et.toNat)
  | .gscat et f => f.e == 0 && (et == 3 || et == 6 || et == 7 || et == 8)
  | .amorFadd32 f | .amorFmin32 f | .amorFmax32 f => !f.sz
  | .amox f => f.sz
  | .mcfg f => f.e != 3 && f.lv.toNat ≤ 5 && f.fld.toNat ≤ 13 && (f.fld.toNat ≤ 7 || f.lv == 0)
  | _ => true

/-- Step 7 of R70: every zero field and zero bit the encoding itself can express (R61). -/
def zeroOk (i : Instr) : Bool :=
  (match vuse i with | some u => u.zeroOk | none => true) &&
  match i with
  | .ssigRemote d _ => d != 0
  | .vld f | .vst f => f.b == 0
  | .vgath f | .vscat f => f.b == 0 && f.disp.toNat < 512
  | .mclaim f | .mrel f => f.a.toNat < 32 && f.b == 0 && f.c == 0
  | .mstat f => f.b == 0 && f.c == 0
  | .mzero f => f.a == 0 && f.b == 0 && f.c.toNat < 4
  | .mgo fn f => f.a == 0 && f.b == 0 && f.c.toNat < 4 && !(fn.toNat % 16 == 15 && fn.getLsbD 4)
  | .mtile fn f =>
    f.a.toNat < 32 && f.b.toNat < 32 && f.c.toNat < 16 && !(fn.toNat % 16 == 15 && fn.getLsbD 4)
  | .mspgo fn f =>
    f.a.toNat < 32 && f.b.toNat < 32 && f.c.toNat < 8 && !(fn.toNat % 16 == 15 && fn.getLsbD 4)
  | .mdrain fn f => f.c.toNat < 4 && !(fn.toNat % 16 == 15 && fn.getLsbD 5)
  | .mldacc fn f => f.c.toNat < 4 && fn.toNat < 16
  | .cpyslot f | .cpyslotClaim f | .cpyslotOut f => f.a.toNat < 32
  | .flush _ f => f.a == 0 && f.b == 0 && f.c == 0
  | .grow _ f | .gbag _ _ f | .gscat _ f => f.c == 0
  | .xstep f => f.slot == 0 && f.b == 0 && f.c == 0
  | .amorAdd f | .amorAnd f | .amorOr f | .amorXor f | .amorMin f | .amorMax f | .amorMinu f | .amorMaxu f
  | .amorSwap f | .amorFadd32 f | .amorFmin32 f | .amorFmax32 f => f.anch == 0 && (!f.nr || f.d == 0)
  | .amox f => f.n == 0 && (!f.nr || (f.d == 0 && f.k == 0))
  | _ => true

/-! ### The formats as numbers (R58) -/

/-- Format S3. -/
def packS3 (op fn d a b : Nat) : Nat := 4 * op + 2 ^ 8 * d + 2 ^ 14 * a + 2 ^ 20 * b + 2 ^ 26 * fn

/-- Format SI. -/
def packSI (op d a imm : Nat) : Nat := 4 * op + 2 ^ 8 * d + 2 ^ 14 * a + 2 ^ 20 * imm

/-- Format SB, the branch B (OP 0x0D). -/
def packSB (p neg disp : Nat) : Nat := 4 * 0x0D + 2 ^ 8 * p + 2 ^ 12 * neg + 2 ^ 13 * disp

/-- Format SL, the branch BL (OP 0x0E). -/
def packSL (d disp : Nat) : Nat := 4 * 0x0E + 2 ^ 8 * d + 2 ^ 14 * disp

/-- Format SM. -/
def packSM (op d a oc disp : Nat) : Nat := 4 * op + 2 ^ 8 * d + 2 ^ 14 * a + 2 ^ 20 * oc + 2 ^ 24 * disp

/-- Format SA. -/
def packSA (op fn sz nr d a b : Nat) : Nat :=
  4 * op + 2 ^ 8 * d + 2 ^ 14 * a + 2 ^ 20 * b + 2 ^ 26 * fn + 2 ^ 30 * sz + 2 ^ 31 * nr

/-- Format SS, the semaphore instructions (OP 0x28). -/
def packSS (fn d a idx : Nat) : Nat := 4 * 0x28 + 2 ^ 8 * d + 2 ^ 14 * a + 2 ^ 20 * idx + 2 ^ 28 * fn

/-- Format SC, the CSR instructions (OP 0x2A). -/
def packSC (fn d a csr : Nat) : Nat := 4 * 0x2A + 2 ^ 8 * d + 2 ^ 14 * a + 2 ^ 20 * fn + 2 ^ 22 * csr

/-- Format SF, FENCE (OP 0x26). -/
def packSF (mask scope eng : Nat) : Nat := 4 * 0x26 + 2 ^ 8 * mask + 2 ^ 24 * scope + 2 ^ 27 * eng

/-- Format ST, TRAP (OP 0x2B). -/
def packST (code : Nat) : Nat := 4 * 0x2B + 2 ^ 16 * code

/-- Format V3, or bits 63:0 of VL, with LEN `len`. -/
def packV3 (len op fn : Nat) (f : V3) : Nat :=
  len + 4 * op + 2 ^ 8 * fn + 2 ^ 14 * f.vd.toNat + 2 ^ 23 * f.va.toNat + 2 ^ 32 * f.vb.toNat
    + 2 ^ 41 * f.m.toNat + 2 ^ 45 * f.et.toNat + 2 ^ 49 * f.z.toNat + 2 ^ 50 * f.x.toNat
    + 2 ^ 51 * f.rm.toNat + 2 ^ 54 * f.sat.toNat + 2 ^ 55 * f.ft.toNat

/-- Format VM. -/
def packVM (op : Nat) (f : VM) : Nat :=
  1 + 4 * op + 2 ^ 14 * f.vd.toNat + 2 ^ 23 * f.a.toNat + 2 ^ 29 * f.oc.toNat + 2 ^ 33 * f.m.toNat
    + 2 ^ 37 * f.et.toNat + 2 ^ 41 * f.b.toNat + 2 ^ 47 * f.disp.toNat

/-- Format VW, VSWEEP (96-bit OP 0x07). -/
def packVW (fn : Nat) (f : VW) : Nat :=
  packV3 2 0x07 fn f.v + 2 ^ 56 * f.stepb.toNat + 2 ^ 64 * f.count.toNat + 2 ^ 76 * f.stepd.toNat
    + 2 ^ 84 * f.stepa.toNat

/-- Format EC. -/
def packEC (op fn : Nat) (f : EC) : Nat :=
  1 + 4 * op + 2 ^ 8 * fn + 2 ^ 14 * f.ws.toNat + 2 ^ 22 * f.wt.toNat + 2 ^ 30 * f.ss.toNat
    + 2 ^ 38 * f.si.toNat + 2 ^ 42 * f.e.toNat + 2 ^ 44 * f.a.toNat + 2 ^ 50 * f.b.toNat + 2 ^ 56 * f.c.toNat

/-- Format EX. -/
def packEX (op : Nat) (f : EX) : Nat :=
  1 + 4 * op + 2 ^ 8 * f.slot.toNat + 2 ^ 18 * f.ws.toNat + 2 ^ 26 * f.wt.toNat + 2 ^ 34 * f.ss.toNat
    + 2 ^ 42 * f.si.toNat + 2 ^ 46 * f.a.toNat + 2 ^ 52 * f.b.toNat + 2 ^ 58 * f.c.toNat

/-- Format SR64. -/
def packSR64 (op fn : Nat) (f : SR64) : Nat :=
  1 + 4 * op + 2 ^ 8 * fn + 2 ^ 12 * f.sz.toNat + 2 ^ 13 * f.nr.toNat + 2 ^ 14 * f.d.toNat
    + 2 ^ 20 * f.a.toNat + 2 ^ 26 * f.b.toNat + 2 ^ 32 * f.k.toNat + 2 ^ 38 * f.n.toNat + 2 ^ 44 * f.anch.toNat

/-- Format LH. -/
def packLH (op d a oc lit : Nat) : Nat :=
  2 + 4 * op + 2 ^ 8 * d + 2 ^ 14 * a + 2 ^ 20 * oc + 2 ^ 64 * lit

/-- Format MC, MCFG (96-bit OP 0x08). -/
def packMC (f : MC) : Nat :=
  2 + 4 * 0x08 + 2 ^ 8 * f.e.toNat + 2 ^ 10 * f.lv.toNat + 2 ^ 13 * f.fld.toNat + 2 ^ 17 * f.a.toNat
    + 2 ^ 64 * f.lit.toNat

/-! ### Reading the fields back (R58) -/

/-- The fields of a V3, VL or VW word. -/
def unpackV3 (w : Nat) : V3 where
  vd := fld w 14 9
  va := fld w 23 9
  vb := fld w 32 9
  m := fld w 41 4
  et := fld w 45 4
  z := bit w 49
  x := bit w 50
  rm := fld w 51 3
  sat := bit w 54
  ft := bit w 55

/-- The fields of a VM word. -/
def unpackVM (w : Nat) : VM where
  vd := fld w 14 9
  a := fld w 23 6
  oc := fld w 29 4
  m := fld w 33 4
  et := fld w 37 4
  b := fld w 41 6
  disp := fld w 47 17

/-- The fields of a VW word. -/
def unpackVW (w : Nat) : VW where
  v := unpackV3 w
  stepb := fld w 56 8
  count := fld w 64 12
  stepd := fld w 76 8
  stepa := fld w 84 8

/-- The fields of an EC word. -/
def unpackEC (w : Nat) : EC where
  ws := fld w 14 8
  wt := fld w 22 8
  ss := fld w 30 8
  si := fld w 38 4
  e := fld w 42 2
  a := fld w 44 6
  b := fld w 50 6
  c := fld w 56 6

/-- The fields of an EX word. -/
def unpackEX (w : Nat) : EX where
  slot := fld w 8 10
  ws := fld w 18 8
  wt := fld w 26 8
  ss := fld w 34 8
  si := fld w 42 4
  a := fld w 46 6
  b := fld w 52 6
  c := fld w 58 6

/-- The fields of an SR64 word. -/
def unpackSR64 (w : Nat) : SR64 where
  sz := bit w 12
  nr := bit w 13
  d := fld w 14 6
  a := fld w 20 6
  b := fld w 26 6
  k := fld w 32 6
  n := fld w 38 6
  anch := fld w 44 8

/-- The fields of an MC word. -/
def unpackMC (w : Nat) : MC where
  e := fld w 8 2
  lv := fld w 10 3
  fld := Sys2Proof.fld w 13 4
  a := Sys2Proof.fld w 17 6
  lit := Sys2Proof.fld w 64 32

/-! ### The grouped opcodes (R69) -/

def decSys (fn : Nat) (a : Reg) : Option Instr :=
  match fn with
    | 1 => some .nop
    | 2 => some .brk
    | 3 => some .yield
    | 4 => some .sexit
    | 5 => if a.toNat < 2 then some (.tret (a.toNat == 1)) else none
    | 6 => some .idle
    | 7 => some .drain
    | _ => none

def decAlu (fn : Nat) (d a b : Reg) : Option Instr :=
  match fn with
    | 0 => some (.add d a b)
    | 1 => some (.sub d a b)
    | 2 => some (.and d a b)
    | 3 => some (.or d a b)
    | 4 => some (.xor d a b)
    | 5 => some (.andn d a b)
    | 6 => some (.sll d a b)
    | 7 => some (.srl d a b)
    | 8 => some (.sra d a b)
    | 9 => some (.ror d a b)
    | 10 => some (.min d a b)
    | 11 => some (.max d a b)
    | 12 => some (.minu d a b)
    | 13 => some (.maxu d a b)
    | 14 => some (.addsc1 d a b)
    | 15 => some (.addsc2 d a b)
    | 16 => some (.addsc3 d a b)
    | 17 => some (.addsc4 d a b)
    | _ => none

def decMulDiv (fn : Nat) (d a b : Reg) : Option Instr :=
  match fn with
    | 0 => some (.mul d a b)
    | 1 => some (.mulh d a b)
    | 2 => some (.mulhu d a b)
    | 3 => some (.div d a b)
    | 4 => some (.divu d a b)
    | 5 => some (.rem d a b)
    | 6 => some (.remu d a b)
    | _ => none

def decBits (fn : Nat) (d a : Reg) : Option Instr :=
  match fn with
    | 0 => some (.clz d a)
    | 1 => some (.ctz d a)
    | 2 => some (.popc d a)
    | 3 => some (.sextB d a)
    | 4 => some (.sextH d a)
    | 5 => some (.sextW d a)
    | 6 => some (.zextB d a)
    | 7 => some (.zextH d a)
    | 8 => some (.zextW d a)
    | _ => none

def decShi (kind : Nat) (d a : Reg) (amt : BitVec 6) : Option Instr :=
  match kind with
    | 0 => some (.slli d a amt)
    | 1 => some (.srli d a amt)
    | 2 => some (.srai d a amt)
    | _ => none

def decCmp (fn : Nat) (p : BitVec 4) (a b : Reg) : Option Instr :=
  match fn with
    | 0 => some (.cmpEq p a b)
    | 1 => some (.cmpNe p a b)
    | 2 => some (.cmpLt p a b)
    | 3 => some (.cmpGe p a b)
    | 4 => some (.cmpLtu p a b)
    | 5 => some (.cmpGeu p a b)
    | _ => none

def decCmpi (cond : Nat) (p : BitVec 4) (a : Reg) (imm : BitVec 12) : Option Instr :=
  match cond with
    | 0 => some (.cmpiEq p a imm)
    | 1 => some (.cmpiNe p a imm)
    | 2 => some (.cmpiLt p a imm)
    | 3 => some (.cmpiLtu p a imm)
    | _ => none

def decPlog (fn : Nat) (d a b : BitVec 4) : Option Instr :=
  match fn with
    | 0 => some (.pand d a b)
    | 1 => some (.por d a b)
    | 2 => some (.pxor d a b)
    | 3 => some (.pandn d a b)
    | _ => none

def decFeop (fn : Nat) (d a : Reg) : Option Instr :=
  match fn with
    | 0 => some (.sete a)
    | 1 => some (.setf a)
    | 2 => some (.feq d a)
    | _ => none

/-- AMO and RED (R227): NR selects; the FP32 operations refuse SZ = 1 (R69). -/
def decAmo (fn : Nat) (sz nr : Bool) (d a b : Reg) : Option Instr :=
  match nr, fn, sz with
    | false, 0, _ => some (.amoAdd sz d a b)
    | false, 1, _ => some (.amoAnd sz d a b)
    | false, 2, _ => some (.amoOr sz d a b)
    | false, 3, _ => some (.amoXor sz d a b)
    | false, 4, _ => some (.amoMin sz d a b)
    | false, 5, _ => some (.amoMax sz d a b)
    | false, 6, _ => some (.amoMinu sz d a b)
    | false, 7, _ => some (.amoMaxu sz d a b)
    | false, 8, _ => some (.amoSwap sz d a b)
    | false, 9, false => some (.amoFadd32 d a b)
    | false, 10, false => some (.amoFmin32 d a b)
    | false, 11, false => some (.amoFmax32 d a b)
    | true, 0, _ => some (.redAdd sz a b)
    | true, 1, _ => some (.redAnd sz a b)
    | true, 2, _ => some (.redOr sz a b)
    | true, 3, _ => some (.redXor sz a b)
    | true, 4, _ => some (.redMin sz a b)
    | true, 5, _ => some (.redMax sz a b)
    | true, 6, _ => some (.redMinu sz a b)
    | true, 7, _ => some (.redMaxu sz a b)
    | true, 8, _ => some (.redSwap sz a b)
    | true, 9, false => some (.redFadd32 a b)
    | true, 10, false => some (.redFmin32 a b)
    | true, 11, false => some (.redFmax32 a b)
    | _, _, _ => none

def decBar (fn : Nat) (a : Reg) : Option Instr :=
  match fn with
    | 0 => some (.bar a)
    | 1 => some (.bara a)
    | 2 => some (.barw a)
    | _ => none

def decSem (fn : Nat) (d a : Reg) (idx : BitVec 8) : Option Instr :=
  match fn with
    | 0 => some (.swait d a idx)
    | 1 => if d = 0 then some (.ssig a idx) else some (.ssigRemote d a)
    | 2 => some (.srd d idx)
    | 3 => some (.srdc d idx)
    | 4 => some (.sset d a idx)
    | _ => none

def decCsr (fn : Nat) (d a : Reg) (csr : BitVec 10) : Option Instr :=
  match fn with
    | 0 => some (.csrr d csr)
    | 1 => some (.csrw d a csr)
    | 2 => some (.csrs d a csr)
    | 3 => some (.csrc d a csr)
    | _ => none

def decTinv (fn : Nat) (a b : Reg) : Option Instr :=
  match fn with
    | 0 => some (.tinvPage a b)
    | 1 => some (.tinvFunction b)
    | 2 => some .tinvAll
    | _ => none

def decMon (fn : Nat) (mon : BitVec 3) (a : Reg) : Option Instr :=
  match fn with
    | 0 => some (.monset mon a)
    | 1 => some (.monref mon a)
    | 2 => some (.monrd mon a)
    | 3 => some (.monclr mon)
    | _ => none

/-- The 32-bit map (R66) with its FN lists: steps 4 and 6 of R70 as far as OP and FN decide them. -/
def decode32 (w : Nat) : Option Instr :=
  let d : Reg := fld w 8 6
  let a : Reg := fld w 14 6
  let b : Reg := fld w 20 6
  let fn := w / 2 ^ 26 % 64
  let imm : BitVec 12 := fld w 20 12
  let oc : BitVec 4 := fld w 20 4
  let disp : BitVec 8 := fld w 24 8
  match w / 4 % 64 with
  | 0x00 => decSys fn a
  | 0x01 => decAlu fn d a b
  | 0x02 => decMulDiv fn d a b
  | 0x03 => decBits fn d a
  | 0x04 => some (.addi d a imm)
  | 0x05 => some (.andi d a imm)
  | 0x06 => some (.ori d a imm)
  | 0x07 => some (.xori d a imm)
  | 0x08 => decShi (w / 2 ^ 26 % 4) d a (fld w 20 6)
  | 0x09 => decCmp fn (fld w 8 4) a b
  | 0x0A => decCmpi (w / 2 ^ 12 % 4) (fld w 8 4) a imm
  | 0x0B => decPlog fn (fld w 8 4) (fld w 14 4) (fld w 20 4)
  | 0x0C => some (.sel (fld w 26 4) d a b)
  | 0x0D => some (.b (fld w 8 4) (bit w 12) (fld w 13 19))
  | 0x0E => some (.bl d (fld w 14 18))
  | 0x0F => some (.jalr d a imm)
  | 0x10 => some (.loops (fld w 8 2) a imm)
  | 0x11 => some (.chk a)
  | 0x12 => some (.sfork d a b)
  | 0x13 => some (.cas (bit w 30) d a b)
  | 0x14 => some (.ldb d a oc disp)
  | 0x15 => some (.ldh d a oc disp)
  | 0x16 => some (.ldw d a oc disp)
  | 0x17 => some (.ldd d a oc disp)
  | 0x18 => some (.ldbu d a oc disp)
  | 0x19 => some (.ldhu d a oc disp)
  | 0x1A => some (.ldwu d a oc disp)
  | 0x1B => some (.lds d a oc disp)
  | 0x1C => some (.stb d a oc disp)
  | 0x1D => some (.sth d a oc disp)
  | 0x1E => some (.stw d a oc disp)
  | 0x1F => some (.std d a oc disp)
  | 0x20 => if oc = 15 then some (.ldfe d a disp) else none
  | 0x21 => if oc = 15 then some (.ldff d a disp) else none
  | 0x22 => if oc = 15 then some (.stef d a disp) else none
  | 0x23 => if oc = 15 then some (.stfl d a disp) else none
  | 0x24 => decFeop fn d a
  | 0x25 => decAmo (w / 2 ^ 26 % 16) (bit w 30) (bit w 31) d a b
  | 0x26 => some (.fence (fld w 8 16) (fld w 24 3) (bit w 27))
  | 0x27 => decBar fn a
  | 0x28 => decSem (w / 2 ^ 28 % 16) d a (fld w 20 8)
  | 0x29 => if fn < 2 then some (.pop d (fld w 26 1)) else none
  | 0x2A => decCsr (w / 2 ^ 20 % 4) d a (fld w 22 10)
  | 0x2B => some (.trap (fld w 16 16))
  | 0x2C => some (.launch a)
  | 0x2D => decTinv (w / 2 ^ 26 % 4) a b
  | 0x2E => some (.logm a)
  | 0x2F => decMon (w / 2 ^ 26 % 8) (fld w 29 3) a
  | _ => none

def decVarith (fn : Nat) (f : V3) : Option Instr :=
  match fn with
    | 0 => some (.vadd f)
    | 1 => some (.vsub f)
    | 2 => some (.vmul f)
    | 3 => some (.vfma f)
    | 4 => some (.vfms f)
    | 5 => some (.vmin f)
    | 6 => some (.vmax f)
    | 7 => some (.vabs f)
    | 8 => some (.vneg f)
    | 9 => some (.vscale f)
    | 10 => some (.vdot4 f)
    | 11 => some (.vtacc f)
    | _ => none

def decVlogic (fn : Nat) (f : V3) : Option Instr :=
  match fn with
    | 0 => some (.vand f)
    | 1 => some (.vor f)
    | 2 => some (.vxor f)
    | 3 => some (.vsll f)
    | 4 => some (.vsrl f)
    | 5 => some (.vsra f)
    | _ => none

def decVcmp (fn : Nat) (f : V3) : Option Instr :=
  match fn with
    | 0 => some (.vcmpEq f)
    | 1 => some (.vcmpNe f)
    | 2 => some (.vcmpLt f)
    | 3 => some (.vcmpLe f)
    | 4 => some (.vcmpGt f)
    | 5 => some (.vcmpGe f)
    | 6 => some (.vcmpUnord f)
    | _ => none

def decVfunc (fn : Nat) (f : V3) : Option Instr :=
  match fn with
    | 0 => some (.vrcp f)
    | 1 => some (.vrsq f)
    | 2 => some (.vsqrt f)
    | 3 => some (.vexp2 f)
    | 4 => some (.vlog2 f)
    | _ => none

def decVxlane (fn : Nat) (f : V3) : Option Instr :=
  match fn with
    | 0 => some (.vperm f)
    | 1 => some (.vrot f)
    | 2 => some (.vxl f)
    | 3 => some (.vbcast f)
    | 4 => some (.vscan f)
    | _ => none

def decVblk (fn : Nat) (f : V3) : Option Instr :=
  match fn with
    | 0 => some (.vqb f)
    | 1 => some (.vdqb f)
    | _ => none

def decVmove (fn : Nat) (f : V3) : Option Instr :=
  match fn with
    | 0 => some (.vmov f)
    | 1 => some (.vmvs f)
    | 2 => some (.vmvg f)
    | _ => none

def decMask (fn : Nat) (f : V3) : Option Instr :=
  match fn with
    | 0 => some (.mlogAnd f)
    | 1 => some (.mlogOr f)
    | 2 => some (.mlogXor f)
    | 3 => some (.mlogAndn f)
    | 4 => some (.mpopc f)
    | 5 => some (.mfirst f)
    | _ => none

def decVred (op : Nat) (dir : BitVec 2) (f : V3) : Option Instr :=
  match op with
    | 0 => some (.vredSum dir f)
    | 1 => some (.vredMax dir f)
    | 2 => some (.vredMin dir f)
    | 3 => some (.vredSumx dir f)
    | _ => none

def decVcomp (w fn : Nat) (f : V3) : Option Instr :=
  match fn with
    | 0 => some (.vpack f)
    | 1 => some (.vexpand f)
    | 2 => some (.vsparse (bit w 10) (bit w 11) f)
    | _ => none

def decCpyslot (fn : Nat) (f : EC) : Option Instr :=
  match fn with
    | 0 => some (.cpyslot f)
    | 1 => some (.cpyslotClaim f)
    | 2 => some (.cpyslotOut f)
    | _ => none

def decAmor (fn : Nat) (f : SR64) : Option Instr :=
  match fn with
    | 0 => some (.amorAdd f)
    | 1 => some (.amorAnd f)
    | 2 => some (.amorOr f)
    | 3 => some (.amorXor f)
    | 4 => some (.amorMin f)
    | 5 => some (.amorMax f)
    | 6 => some (.amorMinu f)
    | 7 => some (.amorMaxu f)
    | 8 => some (.amorSwap f)
    | 9 => some (.amorFadd32 f)
    | 10 => some (.amorFmin32 f)
    | 11 => some (.amorFmax32 f)
    | _ => none

/-- The 64-bit map (R67) with its FN lists. -/
def decode64 (w : Nat) : Option Instr :=
  let v := unpackV3 w
  let vm := unpackVM w
  let ec := unpackEC w
  let ex := unpackEX w
  let fn := w / 2 ^ 8 % 64
  match w / 4 % 64 with
  | 0x01 => decVarith fn v
  | 0x02 => decVlogic fn v
  | 0x03 => decVcmp fn v
  | 0x04 => some (.vsel v)
  | 0x05 => some (.vcvt (fld w 8 4) v)
  | 0x06 => decVfunc fn v
  | 0x07 => decVred (w / 2 ^ 8 % 4) (fld w 10 2) v
  | 0x08 => decVxlane fn v
  | 0x09 => decVcomp w (w / 2 ^ 8 % 4) v
  | 0x0A => some (.vunpk3 v)
  | 0x0B => decVblk fn v
  | 0x0C => some (.vld vm)
  | 0x0D => some (.vst vm)
  | 0x0E => some (.vlds vm)
  | 0x0F => some (.vsts vm)
  | 0x10 => some (.vgath vm)
  | 0x11 => some (.vscat vm)
  | 0x12 => decVmove fn v
  | 0x13 => some (.vshape v)
  | 0x14 => some (.vnset v)
  | 0x15 => some (.vnx (fld w 8 3) v)
  | 0x16 => decMask fn v
  | 0x17 => some (.ftld v)
  | 0x18 => some (.popv v)
  | 0x20 => some (.mclaim ec)
  | 0x21 => some (.mrel ec)
  | 0x22 => some (.mstat ec)
  | 0x23 => some (.mgo (fld w 8 6) ec)
  | 0x24 => some (.mtile (fld w 8 6) ec)
  | 0x25 => some (.mzero ec)
  | 0x26 => some (.mdrain (fld w 8 6) ec)
  | 0x27 => some (.mldacc (fld w 8 6) ec)
  | 0x28 => some (.mspgo (fld w 8 6) ec)
  | 0x30 => some (.cpy (bit w 8) ec)
  | 0x31 => some (.cpy2d (bit w 8) ec)
  | 0x32 => decCpyslot (w / 2 ^ 8 % 4) ec
  | 0x33 => some (.fill ec)
  | 0x34 => some (.flush (fld w 8 3) ec)
  | 0x35 => some (.grow (fld w 8 4) ec)
  | 0x36 => some (.gbag (fld w 8 4) (fld w 12 2) ec)
  | 0x37 => some (.gscat (fld w 8 4) ec)
  | 0x38 => some (.xstep ex)
  | 0x39 => some (.xsend ex)
  | 0x3A => some (.xrecv ex)
  | 0x3B => some (.xred ex)
  | 0x3C => decAmor (w / 2 ^ 8 % 16) (unpackSR64 w)
  | 0x3D => if w / 2 ^ 8 % 16 = 0 then some (.amox (unpackSR64 w)) else none
  | _ => none

/-- The 96-bit map (R68). -/
def decode96 (w : Nat) : Option Instr :=
  let d : Reg := fld w 8 6
  let a : Reg := fld w 14 6
  let oc : BitVec 4 := fld w 20 4
  let lit : BitVec 32 := fld w 64 32
  match w / 4 % 64 with
  | 0x01 => some (.li d lit)
  | 0x02 => some (.lih d lit)
  | 0x03 => some (.addil d a lit)
  | 0x04 => some (.lddl d a oc lit)
  | 0x05 => some (.stdl d a oc lit)
  | 0x06 => some (.vbcastl (unpackV3 w) lit)
  | 0x07 => some (.vsweep (fld w 8 6) (unpackVW w))
  | 0x08 => some (.mcfg (unpackMC w))
  | _ => none

/-- The instruction OP and FN name, by the length in LEN (R56). -/
def decodeRaw (w : Nat) : Option Instr :=
  match w % 4 with
  | 0 => decode32 w
  | 1 => decode64 w
  | 2 => decode96 w
  | _ => none

/-- Number of parcels the first parcel announces (R56); LEN = 0b11 fetches no further parcel. -/
def parcelCount (first : Nat) : Nat := if first % 4 = 3 then 1 else first % 4 + 1

/-- What a fetched word is. -/
inductive Decoded where
  | instr (i : Instr)
  | fate (f : Fate)
deriving DecidableEq, Repr, Inhabited

/-- The encoding of an instruction as a number (R58); steps of other agents have no words and answer 0. -/
def encode : Instr → Nat
  | .nop => packS3 0x00 1 0 0 0
  | .brk => packS3 0x00 2 0 0 0
  | .yield => packS3 0x00 3 0 0 0
  | .sexit => packS3 0x00 4 0 0 0
  | .tret skip => packS3 0x00 5 0 skip.toNat 0
  | .idle => packS3 0x00 6 0 0 0
  | .drain => packS3 0x00 7 0 0 0
  | .add d a b => packS3 0x01 0 d.toNat a.toNat b.toNat
  | .sub d a b => packS3 0x01 1 d.toNat a.toNat b.toNat
  | .and d a b => packS3 0x01 2 d.toNat a.toNat b.toNat
  | .or d a b => packS3 0x01 3 d.toNat a.toNat b.toNat
  | .xor d a b => packS3 0x01 4 d.toNat a.toNat b.toNat
  | .andn d a b => packS3 0x01 5 d.toNat a.toNat b.toNat
  | .sll d a b => packS3 0x01 6 d.toNat a.toNat b.toNat
  | .srl d a b => packS3 0x01 7 d.toNat a.toNat b.toNat
  | .sra d a b => packS3 0x01 8 d.toNat a.toNat b.toNat
  | .ror d a b => packS3 0x01 9 d.toNat a.toNat b.toNat
  | .min d a b => packS3 0x01 10 d.toNat a.toNat b.toNat
  | .max d a b => packS3 0x01 11 d.toNat a.toNat b.toNat
  | .minu d a b => packS3 0x01 12 d.toNat a.toNat b.toNat
  | .maxu d a b => packS3 0x01 13 d.toNat a.toNat b.toNat
  | .addsc1 d a b => packS3 0x01 14 d.toNat a.toNat b.toNat
  | .addsc2 d a b => packS3 0x01 15 d.toNat a.toNat b.toNat
  | .addsc3 d a b => packS3 0x01 16 d.toNat a.toNat b.toNat
  | .addsc4 d a b => packS3 0x01 17 d.toNat a.toNat b.toNat
  | .mul d a b => packS3 0x02 0 d.toNat a.toNat b.toNat
  | .mulh d a b => packS3 0x02 1 d.toNat a.toNat b.toNat
  | .mulhu d a b => packS3 0x02 2 d.toNat a.toNat b.toNat
  | .div d a b => packS3 0x02 3 d.toNat a.toNat b.toNat
  | .divu d a b => packS3 0x02 4 d.toNat a.toNat b.toNat
  | .rem d a b => packS3 0x02 5 d.toNat a.toNat b.toNat
  | .remu d a b => packS3 0x02 6 d.toNat a.toNat b.toNat
  | .clz d a => packS3 0x03 0 d.toNat a.toNat 0
  | .ctz d a => packS3 0x03 1 d.toNat a.toNat 0
  | .popc d a => packS3 0x03 2 d.toNat a.toNat 0
  | .sextB d a => packS3 0x03 3 d.toNat a.toNat 0
  | .sextH d a => packS3 0x03 4 d.toNat a.toNat 0
  | .sextW d a => packS3 0x03 5 d.toNat a.toNat 0
  | .zextB d a => packS3 0x03 6 d.toNat a.toNat 0
  | .zextH d a => packS3 0x03 7 d.toNat a.toNat 0
  | .zextW d a => packS3 0x03 8 d.toNat a.toNat 0
  | .addi d a imm => packSI 0x04 d.toNat a.toNat imm.toNat
  | .andi d a imm => packSI 0x05 d.toNat a.toNat imm.toNat
  | .ori d a imm => packSI 0x06 d.toNat a.toNat imm.toNat
  | .xori d a imm => packSI 0x07 d.toNat a.toNat imm.toNat
  | .slli d a amt => packSI 0x08 d.toNat a.toNat (0 + amt.toNat)
  | .srli d a amt => packSI 0x08 d.toNat a.toNat (64 + amt.toNat)
  | .srai d a amt => packSI 0x08 d.toNat a.toNat (128 + amt.toNat)
  | .cmpEq p a b => packS3 0x09 0 p.toNat a.toNat b.toNat
  | .cmpNe p a b => packS3 0x09 1 p.toNat a.toNat b.toNat
  | .cmpLt p a b => packS3 0x09 2 p.toNat a.toNat b.toNat
  | .cmpGe p a b => packS3 0x09 3 p.toNat a.toNat b.toNat
  | .cmpLtu p a b => packS3 0x09 4 p.toNat a.toNat b.toNat
  | .cmpGeu p a b => packS3 0x09 5 p.toNat a.toNat b.toNat
  | .cmpiEq p a imm => packSI 0x0A (0 + p.toNat) a.toNat imm.toNat
  | .cmpiNe p a imm => packSI 0x0A (16 + p.toNat) a.toNat imm.toNat
  | .cmpiLt p a imm => packSI 0x0A (32 + p.toNat) a.toNat imm.toNat
  | .cmpiLtu p a imm => packSI 0x0A (48 + p.toNat) a.toNat imm.toNat
  | .pand d a b => packS3 0x0B 0 d.toNat a.toNat b.toNat
  | .por d a b => packS3 0x0B 1 d.toNat a.toNat b.toNat
  | .pxor d a b => packS3 0x0B 2 d.toNat a.toNat b.toNat
  | .pandn d a b => packS3 0x0B 3 d.toNat a.toNat b.toNat
  | .sel p d a b => packS3 0x0C p.toNat d.toNat a.toNat b.toNat
  | .b p neg disp => packSB p.toNat neg.toNat disp.toNat
  | .bl d disp => packSL d.toNat disp.toNat
  | .jalr d a imm => packSI 0x0F d.toNat a.toNat imm.toNat
  | .loops n a imm => packSI 0x10 n.toNat a.toNat imm.toNat
  | .chk a => packS3 0x11 0 0 a.toNat 0
  | .sfork d a b => packS3 0x12 0 d.toNat a.toNat b.toNat
  | .cas sz d a b => packSA 0x13 0 sz.toNat 0 d.toNat a.toNat b.toNat
  | .ldb d a oc disp => packSM 0x14 d.toNat a.toNat oc.toNat disp.toNat
  | .ldh d a oc disp => packSM 0x15 d.toNat a.toNat oc.toNat disp.toNat
  | .ldw d a oc disp => packSM 0x16 d.toNat a.toNat oc.toNat disp.toNat
  | .ldd d a oc disp => packSM 0x17 d.toNat a.toNat oc.toNat disp.toNat
  | .ldbu d a oc disp => packSM 0x18 d.toNat a.toNat oc.toNat disp.toNat
  | .ldhu d a oc disp => packSM 0x19 d.toNat a.toNat oc.toNat disp.toNat
  | .ldwu d a oc disp => packSM 0x1A d.toNat a.toNat oc.toNat disp.toNat
  | .lds d a oc disp => packSM 0x1B d.toNat a.toNat oc.toNat disp.toNat
  | .stb d a oc disp => packSM 0x1C d.toNat a.toNat oc.toNat disp.toNat
  | .sth d a oc disp => packSM 0x1D d.toNat a.toNat oc.toNat disp.toNat
  | .stw d a oc disp => packSM 0x1E d.toNat a.toNat oc.toNat disp.toNat
  | .std d a oc disp => packSM 0x1F d.toNat a.toNat oc.toNat disp.toNat
  | .ldfe d a disp => packSM 0x20 d.toNat a.toNat 15 disp.toNat
  | .ldff d a disp => packSM 0x21 d.toNat a.toNat 15 disp.toNat
  | .stef d a disp => packSM 0x22 d.toNat a.toNat 15 disp.toNat
  | .stfl d a disp => packSM 0x23 d.toNat a.toNat 15 disp.toNat
  | .sete a => packS3 0x24 0 0 a.toNat 0
  | .setf a => packS3 0x24 1 0 a.toNat 0
  | .feq d a => packS3 0x24 2 d.toNat a.toNat 0
  | .amoAdd sz d a b => packSA 0x25 0 sz.toNat 0 d.toNat a.toNat b.toNat
  | .amoAnd sz d a b => packSA 0x25 1 sz.toNat 0 d.toNat a.toNat b.toNat
  | .amoOr sz d a b => packSA 0x25 2 sz.toNat 0 d.toNat a.toNat b.toNat
  | .amoXor sz d a b => packSA 0x25 3 sz.toNat 0 d.toNat a.toNat b.toNat
  | .amoMin sz d a b => packSA 0x25 4 sz.toNat 0 d.toNat a.toNat b.toNat
  | .amoMax sz d a b => packSA 0x25 5 sz.toNat 0 d.toNat a.toNat b.toNat
  | .amoMinu sz d a b => packSA 0x25 6 sz.toNat 0 d.toNat a.toNat b.toNat
  | .amoMaxu sz d a b => packSA 0x25 7 sz.toNat 0 d.toNat a.toNat b.toNat
  | .amoSwap sz d a b => packSA 0x25 8 sz.toNat 0 d.toNat a.toNat b.toNat
  | .amoFadd32 d a b => packSA 0x25 9 0 0 d.toNat a.toNat b.toNat
  | .amoFmin32 d a b => packSA 0x25 10 0 0 d.toNat a.toNat b.toNat
  | .amoFmax32 d a b => packSA 0x25 11 0 0 d.toNat a.toNat b.toNat
  | .redAdd sz a b => packSA 0x25 0 sz.toNat 1 0 a.toNat b.toNat
  | .redAnd sz a b => packSA 0x25 1 sz.toNat 1 0 a.toNat b.toNat
  | .redOr sz a b => packSA 0x25 2 sz.toNat 1 0 a.toNat b.toNat
  | .redXor sz a b => packSA 0x25 3 sz.toNat 1 0 a.toNat b.toNat
  | .redMin sz a b => packSA 0x25 4 sz.toNat 1 0 a.toNat b.toNat
  | .redMax sz a b => packSA 0x25 5 sz.toNat 1 0 a.toNat b.toNat
  | .redMinu sz a b => packSA 0x25 6 sz.toNat 1 0 a.toNat b.toNat
  | .redMaxu sz a b => packSA 0x25 7 sz.toNat 1 0 a.toNat b.toNat
  | .redSwap sz a b => packSA 0x25 8 sz.toNat 1 0 a.toNat b.toNat
  | .redFadd32 a b => packSA 0x25 9 0 1 0 a.toNat b.toNat
  | .redFmin32 a b => packSA 0x25 10 0 1 0 a.toNat b.toNat
  | .redFmax32 a b => packSA 0x25 11 0 1 0 a.toNat b.toNat
  | .fence mask scope eng => packSF mask.toNat scope.toNat eng.toNat
  | .bar a => packS3 0x27 0 0 a.toNat 0
  | .bara a => packS3 0x27 1 0 a.toNat 0
  | .barw a => packS3 0x27 2 0 a.toNat 0
  | .swait d a idx => packSS 0 d.toNat a.toNat idx.toNat
  | .ssig a idx => packSS 1 0 a.toNat idx.toNat
  | .ssigRemote d a => packSS 1 d.toNat a.toNat 0
  | .srd d idx => packSS 2 d.toNat 0 idx.toNat
  | .srdc d idx => packSS 3 d.toNat 0 idx.toNat
  | .sset d a idx => packSS 4 d.toNat a.toNat idx.toNat
  | .pop d f => packS3 0x29 f.toNat d.toNat 0 0
  | .csrr d csr => packSC 0 d.toNat 0 csr.toNat
  | .csrw d a csr => packSC 1 d.toNat a.toNat csr.toNat
  | .csrs d a csr => packSC 2 d.toNat a.toNat csr.toNat
  | .csrc d a csr => packSC 3 d.toNat a.toNat csr.toNat
  | .trap code => packST code.toNat
  | .launch a => packS3 0x2C 0 0 a.toNat 0
  | .tinvPage a b => packS3 0x2D 0 0 a.toNat b.toNat
  | .tinvFunction b => packS3 0x2D 1 0 0 b.toNat
  | .tinvAll => packS3 0x2D 2 0 0 0
  | .logm a => packS3 0x2E 0 0 a.toNat 0
  | .monset mon a => packS3 0x2F (0 + 8 * mon.toNat) 0 a.toNat 0
  | .monref mon a => packS3 0x2F (1 + 8 * mon.toNat) 0 a.toNat 0
  | .monrd mon a => packS3 0x2F (2 + 8 * mon.toNat) 0 a.toNat 0
  | .monclr mon => packS3 0x2F (3 + 8 * mon.toNat) 0 0 0
  | .vadd f => packV3 1 0x01 0 f
  | .vsub f => packV3 1 0x01 1 f
  | .vmul f => packV3 1 0x01 2 f
  | .vfma f => packV3 1 0x01 3 f
  | .vfms f => packV3 1 0x01 4 f
  | .vmin f => packV3 1 0x01 5 f
  | .vmax f => packV3 1 0x01 6 f
  | .vabs f => packV3 1 0x01 7 f
  | .vneg f => packV3 1 0x01 8 f
  | .vscale f => packV3 1 0x01 9 f
  | .vdot4 f => packV3 1 0x01 10 f
  | .vtacc f => packV3 1 0x01 11 f
  | .vand f => packV3 1 0x02 0 f
  | .vor f => packV3 1 0x02 1 f
  | .vxor f => packV3 1 0x02 2 f
  | .vsll f => packV3 1 0x02 3 f
  | .vsrl f => packV3 1 0x02 4 f
  | .vsra f => packV3 1 0x02 5 f
  | .vcmpEq f => packV3 1 0x03 0 f
  | .vcmpNe f => packV3 1 0x03 1 f
  | .vcmpLt f => packV3 1 0x03 2 f
  | .vcmpLe f => packV3 1 0x03 3 f
  | .vcmpGt f => packV3 1 0x03 4 f
  | .vcmpGe f => packV3 1 0x03 5 f
  | .vcmpUnord f => packV3 1 0x03 6 f
  | .vsel f => packV3 1 0x04 0 f
  | .vcvt src f => packV3 1 0x05 src.toNat f
  | .vrcp f => packV3 1 0x06 0 f
  | .vrsq f => packV3 1 0x06 1 f
  | .vsqrt f => packV3 1 0x06 2 f
  | .vexp2 f => packV3 1 0x06 3 f
  | .vlog2 f => packV3 1 0x06 4 f
  | .vredSum dir f => packV3 1 0x07 (0 + 4 * dir.toNat) f
  | .vredMax dir f => packV3 1 0x07 (1 + 4 * dir.toNat) f
  | .vredMin dir f => packV3 1 0x07 (2 + 4 * dir.toNat) f
  | .vredSumx dir f => packV3 1 0x07 (3 + 4 * dir.toNat) f
  | .vperm f => packV3 1 0x08 0 f
  | .vrot f => packV3 1 0x08 1 f
  | .vxl f => packV3 1 0x08 2 f
  | .vbcast f => packV3 1 0x08 3 f
  | .vscan f => packV3 1 0x08 4 f
  | .vpack f => packV3 1 0x09 0 f
  | .vexpand f => packV3 1 0x09 1 f
  | .vsparse g8 kBig f => packV3 1 0x09 (2 + 4 * g8.toNat + 8 * kBig.toNat) f
  | .vunpk3 f => packV3 1 0x0A 0 f
  | .vqb f => packV3 1 0x0B 0 f
  | .vdqb f => packV3 1 0x0B 1 f
  | .vld f => packVM 0x0C f
  | .vst f => packVM 0x0D f
  | .vlds f => packVM 0x0E f
  | .vsts f => packVM 0x0F f
  | .vgath f => packVM 0x10 f
  | .vscat f => packVM 0x11 f
  | .vmov f => packV3 1 0x12 0 f
  | .vmvs f => packV3 1 0x12 1 f
  | .vmvg f => packV3 1 0x12 2 f
  | .vshape f => packV3 1 0x13 0 f
  | .mlogAnd f => packV3 1 0x16 0 f
  | .mlogOr f => packV3 1 0x16 1 f
  | .mlogXor f => packV3 1 0x16 2 f
  | .mlogAndn f => packV3 1 0x16 3 f
  | .mpopc f => packV3 1 0x16 4 f
  | .mfirst f => packV3 1 0x16 5 f
  | .ftld f => packV3 1 0x17 0 f
  | .popv f => packV3 1 0x18 0 f
  | .vnset f => packV3 1 0x14 0 f
  | .vnx nest f => packV3 1 0x15 nest.toNat f
  | .mclaim f => packEC 0x20 0 f
  | .mrel f => packEC 0x21 0 f
  | .mstat f => packEC 0x22 0 f
  | .mgo fn f => packEC 0x23 fn.toNat f
  | .mtile fn f => packEC 0x24 fn.toNat f
  | .mzero f => packEC 0x25 0 f
  | .mdrain fn f => packEC 0x26 fn.toNat f
  | .mldacc fn f => packEC 0x27 fn.toNat f
  | .mspgo fn f => packEC 0x28 fn.toNat f
  | .cpy notify f => packEC 0x30 notify.toNat f
  | .cpy2d notify f => packEC 0x31 notify.toNat f
  | .cpyslot f => packEC 0x32 0 f
  | .cpyslotClaim f => packEC 0x32 1 f
  | .cpyslotOut f => packEC 0x32 2 f
  | .fill f => packEC 0x33 0 f
  | .flush scope f => packEC 0x34 scope.toNat f
  | .grow et f => packEC 0x35 et.toNat f
  | .gbag et rm f => packEC 0x36 (et.toNat + 16 * rm.toNat) f
  | .gscat et f => packEC 0x37 et.toNat f
  | .xstep f => packEX 0x38 f
  | .xsend f => packEX 0x39 f
  | .xrecv f => packEX 0x3A f
  | .xred f => packEX 0x3B f
  | .amorAdd f => packSR64 0x3C 0 f
  | .amorAnd f => packSR64 0x3C 1 f
  | .amorOr f => packSR64 0x3C 2 f
  | .amorXor f => packSR64 0x3C 3 f
  | .amorMin f => packSR64 0x3C 4 f
  | .amorMax f => packSR64 0x3C 5 f
  | .amorMinu f => packSR64 0x3C 6 f
  | .amorMaxu f => packSR64 0x3C 7 f
  | .amorSwap f => packSR64 0x3C 8 f
  | .amorFadd32 f => packSR64 0x3C 9 f
  | .amorFmin32 f => packSR64 0x3C 10 f
  | .amorFmax32 f => packSR64 0x3C 11 f
  | .amox f => packSR64 0x3D 0 f
  | .li d lit => packLH 0x01 d.toNat 0 0 lit.toNat
  | .lih d lit => packLH 0x02 d.toNat 0 0 lit.toNat
  | .addil d a lit => packLH 0x03 d.toNat a.toNat 0 lit.toNat
  | .lddl d a oc lit => packLH 0x04 d.toNat a.toNat oc.toNat lit.toNat
  | .stdl d a oc lit => packLH 0x05 d.toNat a.toNat oc.toNat lit.toNat
  | .vbcastl f lit => packV3 2 0x06 0 f + 2 ^ 64 * lit.toNat
  | .vsweep fn f => packVW fn.toNat f
  | .mcfg f => packMC f
  | .waitUntilMet | .idleTimeout | .veExecute | .vectorMemoryComplete | .matrixCommandStart | .mgoAction
  | .matrixCommandComplete | .copyGatherCommandStart | .gatherUnit | .copyGatherCommandComplete
  | .xeCommandStart | .xeTransmissionStart | .xeCommandComplete | .requestRead | .requestWrite
  | .requestAtomic | .amorContribution | .semaphoreSignal | .fullEmptyRequest | .forwardedRequest
  | .dataResponse | .acknowledgement | .redirect | .faultStatus | .collectiveData | .flitHop
  | .translationWalk | .packetLaunch | .placement | .ageing | .quantumExpiry | .blockedTimeout | .preEmption
  | .switchIn | .taskEnd | .teamBarrierCompletion | .phaseClose | .launchCompletion | .hang | .parkResume
  | .parkKill | .forcedSyncPoint | .notify | .packetWaitsig | .packetSignal | .packetCopy | .packetCompletion
  | .queueEnable | .queueDisable | .queueResume | .queueResumeSkip | .hostWindowAccess | .hostApertureAccess
  | .hostRegisterWrite | .functionReset | .resetcmd | .warmReset | .powerOn | .fwStage | .fwStageComplete
  | .fwActivate | .ptmDialog | .spdmRequest | .marginTest | .channelSubstitution | .clockThrottle
  | .encodingNotInstruction _ | .hostLinkCompletion | .debugPathWrite | .patrolScrub | .arithmeticClockRaise => 0

/-- Length of an instruction in parcels (R56); steps of other agents have none and answer 1. -/
def parcels : Instr → Nat
  | .nop => 1
  | .brk => 1
  | .yield => 1
  | .sexit => 1
  | .tret .. => 1
  | .idle => 1
  | .drain => 1
  | .add .. => 1
  | .sub .. => 1
  | .and .. => 1
  | .or .. => 1
  | .xor .. => 1
  | .andn .. => 1
  | .sll .. => 1
  | .srl .. => 1
  | .sra .. => 1
  | .ror .. => 1
  | .min .. => 1
  | .max .. => 1
  | .minu .. => 1
  | .maxu .. => 1
  | .addsc1 .. => 1
  | .addsc2 .. => 1
  | .addsc3 .. => 1
  | .addsc4 .. => 1
  | .mul .. => 1
  | .mulh .. => 1
  | .mulhu .. => 1
  | .div .. => 1
  | .divu .. => 1
  | .rem .. => 1
  | .remu .. => 1
  | .clz .. => 1
  | .ctz .. => 1
  | .popc .. => 1
  | .sextB .. => 1
  | .sextH .. => 1
  | .sextW .. => 1
  | .zextB .. => 1
  | .zextH .. => 1
  | .zextW .. => 1
  | .addi .. => 1
  | .andi .. => 1
  | .ori .. => 1
  | .xori .. => 1
  | .slli .. => 1
  | .srli .. => 1
  | .srai .. => 1
  | .cmpEq .. => 1
  | .cmpNe .. => 1
  | .cmpLt .. => 1
  | .cmpGe .. => 1
  | .cmpLtu .. => 1
  | .cmpGeu .. => 1
  | .cmpiEq .. => 1
  | .cmpiNe .. => 1
  | .cmpiLt .. => 1
  | .cmpiLtu .. => 1
  | .pand .. => 1
  | .por .. => 1
  | .pxor .. => 1
  | .pandn .. => 1
  | .sel .. => 1
  | .b .. => 1
  | .bl .. => 1
  | .jalr .. => 1
  | .loops .. => 1
  | .chk .. => 1
  | .sfork .. => 1
  | .cas .. => 1
  | .ldb .. => 1
  | .ldh .. => 1
  | .ldw .. => 1
  | .ldd .. => 1
  | .ldbu .. => 1
  | .ldhu .. => 1
  | .ldwu .. => 1
  | .lds .. => 1
  | .stb .. => 1
  | .sth .. => 1
  | .stw .. => 1
  | .std .. => 1
  | .ldfe .. => 1
  | .ldff .. => 1
  | .stef .. => 1
  | .stfl .. => 1
  | .sete .. => 1
  | .setf .. => 1
  | .feq .. => 1
  | .amoAdd .. => 1
  | .amoAnd .. => 1
  | .amoOr .. => 1
  | .amoXor .. => 1
  | .amoMin .. => 1
  | .amoMax .. => 1
  | .amoMinu .. => 1
  | .amoMaxu .. => 1
  | .amoSwap .. => 1
  | .amoFadd32 .. => 1
  | .amoFmin32 .. => 1
  | .amoFmax32 .. => 1
  | .redAdd .. => 1
  | .redAnd .. => 1
  | .redOr .. => 1
  | .redXor .. => 1
  | .redMin .. => 1
  | .redMax .. => 1
  | .redMinu .. => 1
  | .redMaxu .. => 1
  | .redSwap .. => 1
  | .redFadd32 .. => 1
  | .redFmin32 .. => 1
  | .redFmax32 .. => 1
  | .fence .. => 1
  | .bar .. => 1
  | .bara .. => 1
  | .barw .. => 1
  | .swait .. => 1
  | .ssig .. => 1
  | .ssigRemote .. => 1
  | .srd .. => 1
  | .srdc .. => 1
  | .sset .. => 1
  | .pop .. => 1
  | .csrr .. => 1
  | .csrw .. => 1
  | .csrs .. => 1
  | .csrc .. => 1
  | .trap .. => 1
  | .launch .. => 1
  | .tinvPage .. => 1
  | .tinvFunction .. => 1
  | .tinvAll => 1
  | .logm .. => 1
  | .monset .. => 1
  | .monref .. => 1
  | .monrd .. => 1
  | .monclr .. => 1
  | .vadd .. => 2
  | .vsub .. => 2
  | .vmul .. => 2
  | .vfma .. => 2
  | .vfms .. => 2
  | .vmin .. => 2
  | .vmax .. => 2
  | .vabs .. => 2
  | .vneg .. => 2
  | .vscale .. => 2
  | .vdot4 .. => 2
  | .vtacc .. => 2
  | .vand .. => 2
  | .vor .. => 2
  | .vxor .. => 2
  | .vsll .. => 2
  | .vsrl .. => 2
  | .vsra .. => 2
  | .vcmpEq .. => 2
  | .vcmpNe .. => 2
  | .vcmpLt .. => 2
  | .vcmpLe .. => 2
  | .vcmpGt .. => 2
  | .vcmpGe .. => 2
  | .vcmpUnord .. => 2
  | .vsel .. => 2
  | .vcvt .. => 2
  | .vrcp .. => 2
  | .vrsq .. => 2
  | .vsqrt .. => 2
  | .vexp2 .. => 2
  | .vlog2 .. => 2
  | .vredSum .. => 2
  | .vredMax .. => 2
  | .vredMin .. => 2
  | .vredSumx .. => 2
  | .vperm .. => 2
  | .vrot .. => 2
  | .vxl .. => 2
  | .vbcast .. => 2
  | .vscan .. => 2
  | .vpack .. => 2
  | .vexpand .. => 2
  | .vsparse .. => 2
  | .vunpk3 .. => 2
  | .vqb .. => 2
  | .vdqb .. => 2
  | .vld .. => 2
  | .vst .. => 2
  | .vlds .. => 2
  | .vsts .. => 2
  | .vgath .. => 2
  | .vscat .. => 2
  | .vmov .. => 2
  | .vmvs .. => 2
  | .vmvg .. => 2
  | .vshape .. => 2
  | .mlogAnd .. => 2
  | .mlogOr .. => 2
  | .mlogXor .. => 2
  | .mlogAndn .. => 2
  | .mpopc .. => 2
  | .mfirst .. => 2
  | .ftld .. => 2
  | .popv .. => 2
  | .vnset .. => 2
  | .vnx .. => 2
  | .mclaim .. => 2
  | .mrel .. => 2
  | .mstat .. => 2
  | .mgo .. => 2
  | .mtile .. => 2
  | .mzero .. => 2
  | .mdrain .. => 2
  | .mldacc .. => 2
  | .mspgo .. => 2
  | .cpy .. => 2
  | .cpy2d .. => 2
  | .cpyslot .. => 2
  | .cpyslotClaim .. => 2
  | .cpyslotOut .. => 2
  | .fill .. => 2
  | .flush .. => 2
  | .grow .. => 2
  | .gbag .. => 2
  | .gscat .. => 2
  | .xstep .. => 2
  | .xsend .. => 2
  | .xrecv .. => 2
  | .xred .. => 2
  | .amorAdd .. => 2
  | .amorAnd .. => 2
  | .amorOr .. => 2
  | .amorXor .. => 2
  | .amorMin .. => 2
  | .amorMax .. => 2
  | .amorMinu .. => 2
  | .amorMaxu .. => 2
  | .amorSwap .. => 2
  | .amorFadd32 .. => 2
  | .amorFmin32 .. => 2
  | .amorFmax32 .. => 2
  | .amox .. => 2
  | .li .. => 3
  | .lih .. => 3
  | .addil .. => 3
  | .lddl .. => 3
  | .stdl .. => 3
  | .vbcastl .. => 3
  | .vsweep .. => 3
  | .mcfg .. => 3
  | .waitUntilMet => 1
  | .idleTimeout => 1
  | .veExecute => 1
  | .vectorMemoryComplete => 1
  | .matrixCommandStart => 1
  | .mgoAction => 1
  | .matrixCommandComplete => 1
  | .copyGatherCommandStart => 1
  | .gatherUnit => 1
  | .copyGatherCommandComplete => 1
  | .xeCommandStart => 1
  | .xeTransmissionStart => 1
  | .xeCommandComplete => 1
  | .requestRead => 1
  | .requestWrite => 1
  | .requestAtomic => 1
  | .amorContribution => 1
  | .semaphoreSignal => 1
  | .fullEmptyRequest => 1
  | .forwardedRequest => 1
  | .dataResponse => 1
  | .acknowledgement => 1
  | .redirect => 1
  | .faultStatus => 1
  | .collectiveData => 1
  | .flitHop => 1
  | .translationWalk => 1
  | .packetLaunch => 1
  | .placement => 1
  | .ageing => 1
  | .quantumExpiry => 1
  | .blockedTimeout => 1
  | .preEmption => 1
  | .switchIn => 1
  | .taskEnd => 1
  | .teamBarrierCompletion => 1
  | .phaseClose => 1
  | .launchCompletion => 1
  | .hang => 1
  | .parkResume => 1
  | .parkKill => 1
  | .forcedSyncPoint => 1
  | .notify => 1
  | .packetWaitsig => 1
  | .packetSignal => 1
  | .packetCopy => 1
  | .packetCompletion => 1
  | .queueEnable => 1
  | .queueDisable => 1
  | .queueResume => 1
  | .queueResumeSkip => 1
  | .hostWindowAccess => 1
  | .hostApertureAccess => 1
  | .hostRegisterWrite => 1
  | .functionReset => 1
  | .resetcmd => 1
  | .warmReset => 1
  | .powerOn => 1
  | .fwStage => 1
  | .fwStageComplete => 1
  | .fwActivate => 1
  | .ptmDialog => 1
  | .spdmRequest => 1
  | .marginTest => 1
  | .channelSubstitution => 1
  | .clockThrottle => 1
  | .encodingNotInstruction .. => 1
  | .hostLinkCompletion => 1
  | .debugPathWrite => 1
  | .patrolScrub => 1
  | .arithmeticClockRaise => 1

/-- The first parcel of an instruction, which TVAL receives for the fates of R70 (R71). -/
def firstParcel (i : Instr) : BitVec 32 := BitVec.ofNat 32 (encode i)

/-- A word whose OP is TINV's, or that names a CSR at 0x0E0 or above (R71 and step 5 of R70). -/
def isPrivileged (w : Nat) : Bool :=
  w % 4 == 0 && (w / 4 % 64 == 0x2D || (w / 4 % 64 == 0x2A && 0x0E0 ≤ w / 2 ^ 22 % 1024))

/-- The word's opcode is assigned in the map of its length (step 4 of R70, R66 to R68). -/
def opAssigned (w : Nat) : Bool :=
  let op := w / 4 % 64
  match w % 4 with
  | 0 => op ≤ 0x2F && !(op == 0 && w / 2 ^ 26 % 64 == 0)
  | 1 => (1 ≤ op && op ≤ 0x18) || (0x20 ≤ op && op ≤ 0x28) || (0x30 ≤ op && op ≤ 0x3D)
  | 2 => 1 ≤ op && op ≤ 8
  | _ => false

/-- Steps 2 to 7 of R70 on a whole fetched word, first fate first. -/
def decode (c : DecodeCtx) (w : Nat) : Decoded :=
  let first : BitVec 32 := BitVec.ofNat 32 w
  if w % 4 = 3 then .fate (.illegalLength first)
  else if first = 0 then .fate .zeroWord
  else if !opAssigned w then .fate (.illegalOpcode first)
  else if isPrivileged w && !c.sup then .fate (.privilege first)
  else
    match decodeRaw w with
    | none => .fate (.illegalOpcode first)
    | some i =>
      if !legal c i then .fate (.illegalOpcode first)
      else if encode i ≠ w || !zeroOk i then .fate (.reservedField first)
      else .instr i

/-- The decoder on a list of bytes, little-endian (R4, R56): the instruction or fate, and the bytes that follow. -/
def decodeBytes (c : DecodeCtx) (bs : List Byte) : Decoded × List Byte :=
  let first := leNat (bs.take 4)
  let n := 4 * parcelCount first
  (decode c (leNat (bs.take n)), bs.drop n)

/-- The little-endian bytes of a word of `n` bytes (R4). -/
def wordBytes (w : Nat) : Nat → List Byte
  | 0 => []
  | n + 1 => BitVec.ofNat 8 w :: wordBytes (w / 256) n

/-- The instruction the decoder reads from a table word of `nbits` bits, bits above `nbits` zero, in the permissive
context: privileged state and 384 vector registers. -/
def decodeTableWord (nbits w : Nat) : Option Instr :=
  match (decodeBytes DecodeCtx.permissive (wordBytes (w % 2 ^ nbits) 12)).1 with
  | .instr i => some i
  | .fate _ => none

end Sys2Proof
end

