-- ==== Sys2Proof/Machine/Bits.lean ====
section
/-!
DEFINITION. Bit fields, extensions, byte order and the mixing function (R4, R6, R38).
-/
namespace Sys2Proof.Machine

/-- SEXT(x, w) of R6 on a 64-bit word. -/
def sextW (x : Word) (w : Nat) : Word := (x.setWidth w).signExtend 64

/-- ZEXT(x, w) of R6 on a 64-bit word. -/
def zextW (x : Word) (w : Nat) : Word := (x.setWidth w).setWidth 64

/-- The signed value of the low `w` bits of a number. -/
def sintOf (w x : Nat) : Int :=
  let y := x % 2 ^ w
  if y < 2 ^ (w - 1) then (y : Int) else (y : Int) - 2 ^ w

/-- The low `w` bits of an exact integer, as a number. -/
def wrapNat (w : Nat) (x : Int) : Nat := (x % (2 ^ w : Nat)).toNat

/-- An exact integer stored to a 64-bit register. -/
def wordOfInt (x : Int) : Word := BitVec.ofNat 64 (wrapNat 64 x)

/-- Bits hi:lo of a number. -/
def bitsOf (x lo n : Nat) : Nat := x / 2 ^ lo % 2 ^ n

/-- Bit i of a number. -/
def bitOf (x i : Nat) : Bool := x / 2 ^ i % 2 == 1

/-- The `n` bytes of a number, little-endian (R4). -/
def bytesOf (x : Nat) (n : Nat) : List Byte := wordBytes x n

/-- 1 for true. -/
def b2n (b : Bool) : Nat := if b then 1 else 0

/-- 64-bit word of a number. -/
def w64 (n : Nat) : Word := BitVec.ofNat 64 n

/-- MIX64 of R6. -/
def mix64 (x : Word) : Word :=
  let x := x ^^^ (x >>> 31)
  let x := x * 0x9E3779B97F4A7C15#64
  let x := x ^^^ (x >>> 29)
  let x := x * 0xBF58476D1CE4E5B9#64
  x ^^^ (x >>> 32)

/-- MIX64 of (x[62:0] << 1) | 1, the form of R38 and R398. -/
def mixOdd (x : Word) : Word := mix64 ((x <<< 1) ||| 1)

end Sys2Proof.Machine
end

