-- ==== Sys2Proof/Machine/Numbers.lean ====
section
/-!
DEFINITION. Number formats, exact values, ROUND, stochastic rounding, exact windows and special functions (R23 to R42).
An exact value is a fraction times a power of two with a sign, an infinity or a NaN. Sticky flags are a number whose bits
are those of VSTAT (R257): 1 INVALID, 2 DIVZERO, 4 OVERFLOW, 8 UNDERFLOW, 16 INEXACT, 32 XW_OVF.
-/
namespace Sys2Proof.Machine

/-- A value of R26, or an exact result: (−1)^neg × n / d × 2^e. -/
inductive Ex where
  | nan
  | inf (neg : Bool)
  | num (neg : Bool) (n d : Nat) (e : Int)
deriving DecidableEq, Repr, Inhabited

/-- A value and the sticky flags its computation sets. -/
abbrev Flagged (α : Type) := α × Nat

def fInvalid : Nat := 1
def fDivzero : Nat := 2
def fOverflow : Nat := 4
def fUnderflow : Nat := 8
def fInexact : Nat := 16
def fXwOvf : Nat := 32

/-- Union of two sets of flags. -/
def flagsOr (a b : Nat) : Nat := a ||| b

/-! ### Formats (R25, R31) -/

/-- A binary floating-point format: `F` fraction bits, `eb` exponent bits, and how its top exponent reads:
0 infinities and NaNs, 1 E4M3, 2 E2M1. -/
structure Fmt where
  F : Nat
  eb : Nat
  bias : Nat
  top : Nat
deriving DecidableEq, Repr, Inhabited

def fmtFP32 : Fmt := { F := 23, eb := 8, bias := 127, top := 0 }
def fmtFP16 : Fmt := { F := 10, eb := 5, bias := 15, top := 0 }
def fmtBF16 : Fmt := { F := 7, eb := 8, bias := 127, top := 0 }
def fmtE5M2 : Fmt := { F := 2, eb := 5, bias := 15, top := 0 }
def fmtE4M3 : Fmt := { F := 3, eb := 4, bias := 7, top := 1 }
def fmtE2M1 : Fmt := { F := 1, eb := 2, bias := 1, top := 2 }
def fmtA80 : Fmt := { F := 68, eb := 11, bias := 1023, top := 0 }

/-- Width of an element without its sign bit. -/
def Fmt.mag (f : Fmt) : Nat := f.F + f.eb

/-- Magnitude bits of the largest finite value. -/
def Fmt.maxCode (f : Fmt) : Nat :=
  if f.top = 0 then (2 ^ f.eb - 1) * 2 ^ f.F - 1 else if f.top = 1 then 2 ^ f.mag - 2 else 2 ^ f.mag - 1

/-- The canonical NaN of a format (R25, R31). -/
def Fmt.nan (f : Fmt) : Nat :=
  if f.top = 0 then (2 ^ f.eb - 1) * 2 ^ f.F + 2 ^ (f.F - 1) else 2 ^ f.mag - 1

/-- Put a sign above magnitude bits. -/
def Fmt.signed (f : Fmt) (neg : Bool) (m : Nat) : Nat := m + if neg then 2 ^ f.mag else 0

/-- The value of a pattern (R26). -/
def Fmt.decode (f : Fmt) (x : Nat) : Ex :=
  let neg := bitOf x f.mag
  let fr := bitsOf x 0 f.F
  let e := bitsOf x f.F f.eb
  if f.top = 0 ∧ e = 2 ^ f.eb - 1 then (if fr = 0 then .inf neg else .nan)
  else if f.top = 1 ∧ x % 2 ^ f.mag = 2 ^ f.mag - 1 then .nan
  else if e = 0 then .num neg fr 1 (1 - (f.bias : Int) - f.F)
  else .num neg (2 ^ f.F + fr) 1 ((e : Int) - f.bias - f.F)

/-! ### Exact arithmetic -/

/-- 2^k for a signed k, as a fraction's numerator and denominator. -/
def pow2Num (k : Int) : Nat := if 0 ≤ k then 2 ^ k.toNat else 1

def pow2Den (k : Int) : Nat := if 0 ≤ k then 1 else 2 ^ (-k).toNat

/-- floor(log2(n / d × 2^e)) for a positive fraction. -/
def floorLog2 (n d : Nat) (e : Int) : Int :=
  let k : Int := (Nat.log2 n : Int) - Nat.log2 d
  let k := if n * pow2Den k < d * pow2Num k then k - 1 else k
  k + e

/-- Is n₁/d₁ × 2^e₁ below n₂/d₂ × 2^e₂? -/
def magLt (n1 d1 : Nat) (e1 : Int) (n2 d2 : Nat) (e2 : Int) : Bool :=
  n1 * d2 * pow2Num (e1 - e2) < n2 * d1 * pow2Den (e1 - e2)

/-- A signed magnitude. -/
def sgn (neg : Bool) (n : Nat) : Int := if neg then -(n : Int) else n

/-- The exact value of an integer, +0 for 0. -/
def Ex.ofInt (i : Int) : Ex := .num (decide (i < 0)) i.natAbs 1 0

/-- The exact value i × 2^a. -/
def Ex.ofScaled (i : Int) (a : Int) : Ex := .num (decide (i < 0)) i.natAbs 1 a

def Ex.isNan : Ex → Bool
  | .nan => true
  | .inf _ => false
  | .num _ _ _ _ => false

def Ex.isInf : Ex → Bool
  | .inf _ => true
  | .nan => false
  | .num _ _ _ _ => false

def Ex.isZero : Ex → Bool
  | .num _ n _ _ => n == 0
  | .nan => false
  | .inf _ => false

/-- The sign of a value, false for a NaN. -/
def Ex.sign : Ex → Bool
  | .num s _ _ _ => s
  | .inf s => s
  | .nan => false

def Ex.neg : Ex → Ex
  | .nan => .nan
  | .inf s => .inf (!s)
  | .num s n d e => .num (!s) n d e

def Ex.abs : Ex → Ex
  | .nan => .nan
  | .inf _ => .inf false
  | .num _ n d e => .num false n d e

/-- Exact sum, with the zero rule of R35 under rounding mode `rm`; ∞ − ∞ is a NaN and INVALID. -/
def Ex.add (rm : Nat) : Ex → Ex → Flagged Ex
  | .nan, _ => (.nan, 0)
  | _, .nan => (.nan, 0)
  | .inf s, .inf t => if s == t then (.inf s, 0) else (.nan, fInvalid)
  | .inf s, .num _ _ _ _ => (.inf s, 0)
  | .num _ _ _ _, .inf t => (.inf t, 0)
  | .num s n d e, .num t m c k =>
    let b := min e k
    let i := sgn s (n * 2 ^ (e - b).toNat * c) + sgn t (m * 2 ^ (k - b).toNat * d)
    if i = 0 then (.num ((s && t && n == 0 && m == 0) || rm == 2) 0 1 0, 0)
    else (.num (decide (i < 0)) i.natAbs (d * c) b, 0)

/-- Exact product; 0 × ∞ is a NaN and INVALID. -/
def Ex.mul : Ex → Ex → Flagged Ex
  | .nan, _ => (.nan, 0)
  | _, .nan => (.nan, 0)
  | .inf s, .inf t => (.inf (s != t), 0)
  | .inf s, .num t n _ _ => if n = 0 then (.nan, fInvalid) else (.inf (s != t), 0)
  | .num s n _ _, .inf t => if n = 0 then (.nan, fInvalid) else (.inf (s != t), 0)
  | .num s n d e, .num t m c k => (.num (s != t) (n * m) (d * c) (e + k), 0)

/-- Order of two values that are no NaNs, with −0 equal to +0. -/
def Ex.lt : Ex → Ex → Bool
  | .nan, _ => false
  | _, .nan => false
  | .inf s, .inf t => s && !t
  | .inf s, .num _ _ _ _ => s
  | .num _ _ _ _, .inf t => !t
  | .num s n d e, .num t m c k =>
    if n = 0 ∧ m = 0 then false
    else if s && (n != 0) && !(t && m != 0) then true
    else if (!s || n == 0) && t && m != 0 then false
    else if s && t && n != 0 && m != 0 then magLt m c k n d e
    else magLt n d e m c k

/-! ### Rounding (R34 to R38) -/

/-- Does the magnitude round up? `r` of `den` is the discarded part of a unit, `odd` the parity of the kept part, `u`
the stochastic number of R38. -/
def roundsUp (rm : Nat) (neg odd : Bool) (r den u : Nat) : Bool :=
  if r = 0 then false
  else match rm with
    | 0 => den < 2 * r || (den == 2 * r && odd)
    | 1 => false
    | 2 => neg
    | 3 => !neg
    | 4 => den ≤ 2 * r
    | _ => 2 ^ 32 ≤ r * 2 ^ 32 / den + u

/-- Round a positive fraction to a multiple of 2^t: the multiple and whether it is inexact. -/
def roundAt (rm : Nat) (neg : Bool) (u n d : Nat) (e t : Int) : Nat × Bool :=
  let num := n * pow2Num (e - t)
  let den := d * pow2Den (e - t)
  let q := num / den
  let r := num % den
  (if roundsUp rm neg (q % 2 == 1) r den u then q + 1 else q, r != 0)

/-- Does an overflow of R35 give the largest finite value rather than an infinity or NaN? -/
def overflowFinite (rm : Nat) (sat neg : Bool) : Bool :=
  sat || rm == 1 || (rm == 2 && !neg) || (rm == 3 && neg)

/-- ROUND(x, f, rm) of R35, with the instruction's SAT and stochastic number. -/
def roundTo (f : Fmt) (rm : Nat) (sat : Bool) (u : Nat) : Ex → Flagged Nat
  | .nan => (f.nan, 0)
  | .inf s =>
    if f.top = 0 then (f.signed s ((2 ^ f.eb - 1) * 2 ^ f.F), 0)
    else if sat then (f.signed s f.maxCode, fOverflow + fInexact) else (f.nan, fInvalid)
  | .num s n d e =>
    if n = 0 then (f.signed s 0, 0)
    else
      let top := floorLog2 n d e
      let low : Int := 1 - (f.bias : Int)
      let t := max top low - f.F
      let (q, inexact) := roundAt rm s u n d e t
      let code := if q < 2 ^ f.F then q else (t + f.F + f.bias).toNat * 2 ^ f.F + (q - 2 ^ f.F)
      if f.maxCode < code then
        let m := if overflowFinite rm sat s then f.signed s f.maxCode
          else if f.top = 0 then f.signed s ((2 ^ f.eb - 1) * 2 ^ f.F) else f.nan
        (m, fOverflow + fInexact)
      else
        (f.signed s code,
          (if inexact then fInexact else 0) + (if inexact && decide (top < low) then fUnderflow else 0))

/-- Round a finite value to an integer by rm. -/
def roundInt (rm : Nat) (u : Nat) (s : Bool) (n d : Nat) (e : Int) : Int × Bool :=
  if n = 0 then (0, false)
  else
    let (q, x) := roundAt rm s u n d e 0
    (sgn s q, x)

/-- Float to integer (R37): round, clamp to [lo, hi]. -/
def toIntClamp (rm u : Nat) (lo hi : Int) : Ex → Flagged Int
  | .nan => (0, fInvalid)
  | .inf s => (if s then lo else hi, fInvalid)
  | .num s n d e =>
    let (i, x) := roundInt rm u s n d e
    if i < lo then (lo, fInvalid) else if hi < i then (hi, fInvalid) else (i, if x then fInexact else 0)

/-- The number U of R38. -/
def stochastic (srseed phase : Word) (lcore strand : Nat) (seq : BitVec 32) (elem : Nat) : Nat :=
  let a := mixOdd srseed
  let k := w64 ((phase.toNat % 2 ^ 32) * 2 ^ 32 + (lcore % 2 ^ 12) * 2 ^ 16 + (strand % 8) * 2 ^ 8)
  let b := mixOdd (a ^^^ k)
  let j := w64 (seq.toNat * 2 ^ 32 + elem % 2 ^ 16)
  (mixOdd (b ^^^ j)).toNat / 2 ^ 32

/-! ### The exact window (R32, R33) -/

def xwMax : Int := 2 ^ 127 - 1
def xwMin : Int := -(2 ^ 127)

/-- Saturate to the 128-bit range (R33). -/
def xwSat (i : Int) : Flagged Int :=
  if i < xwMin then (xwMin, fXwOvf) else if xwMax < i then (xwMax, fXwOvf) else (i, 0)

/-- Conversion of an exact value to XW at anchor `a`. -/
def toXw (a : Int) : Ex → Flagged Int
  | .nan => (0, fInvalid)
  | .inf _ => (0, fInvalid)
  | .num s n d e =>
    let (i, x) := roundInt 0 0 s n d (e - a)
    let (j, o) := xwSat i
    (j, o ||| if x || j != i then fInexact else 0)

/-- Anchor field read as a signed number. -/
def anchorOf (x : BitVec 8) : Int := x.toInt

/-! ### Elements by type code (R63) -/

/-- The float format of a type code. -/
def fmtOf (et : Nat) : Option Fmt :=
  match et with
  | 4 => some fmtE4M3
  | 5 => some fmtE5M2
  | 6 => some fmtFP16
  | 7 => some fmtBF16
  | 8 => some fmtFP32
  | 9 => some fmtA80
  | _ => none

/-- Bytes of an element of a type that has no blocks; an A80 element sits in a 16-byte container (R31). -/
def typeBytes (et : Nat) : Nat :=
  match et with
  | 0 => 1
  | 1 => 1
  | 2 => 2
  | 3 => 4
  | 4 => 1
  | 5 => 1
  | 6 => 2
  | 7 => 2
  | 8 => 4
  | 9 => 16
  | _ => 1

/-- Range of an integer type. -/
def intLo (et : Nat) : Int :=
  match et with
  | 0 => -128
  | 1 => 0
  | 2 => -32768
  | _ => -(2 ^ 31)

def intHi (et : Nat) : Int :=
  match et with
  | 0 => 127
  | 1 => 255
  | 2 => 32767
  | _ => 2 ^ 31 - 1

/-- The integer an element of an integer type holds. -/
def intOf (et : Nat) (x : Nat) : Int := if et = 1 then (x % 256 : Nat) else sintOf (8 * typeBytes et) x

/-- The exact value of an element (R26, R37). -/
def exOf (et : Nat) (x : Nat) : Ex :=
  match fmtOf et with
  | some f => f.decode x
  | none => .ofInt (intOf et x)

/-- Integer result: wrapped, or clamped under SAT (R23). -/
def intResult (et : Nat) (sat : Bool) (i : Int) : Nat :=
  wrapNat (8 * typeBytes et) (if sat then max (intLo et) (min (intHi et) i) else i)

/-- An exact value written to an element type: ROUND for floats, R37 for integers. -/
def exTo (et rm : Nat) (sat : Bool) (u : Nat) (x : Ex) : Flagged Nat :=
  match fmtOf et with
  | some f => roundTo f rm sat u x
  | none =>
    let (i, fl) := toIntClamp rm u (intLo et) (intHi et) x
    (wrapNat (8 * typeBytes et) i, fl)

/-- RNE69 of R6 and R35. -/
def rne69 (x : Ex) : Flagged Nat := roundTo fmtA80 0 false 0 x

/-- FP32 sum under RNE, as R228, R50 and R51 use it. -/
def fadd32 (a b : Nat) : Flagged Nat :=
  let (x, fl) := Ex.add 0 (fmtFP32.decode a) (fmtFP32.decode b)
  let (r, g) := roundTo fmtFP32 0 false 0 x
  (r, fl ||| g)

/-- Rank of an FP32 pattern in IEEE 754 totalOrder (R228). -/
def totalRank (x : Nat) : Int := if bitOf x 31 then -(x % 2 ^ 31 : Nat) - 1 else (x % 2 ^ 31 : Nat)

/-! ### Block formats (R28 to R30, R39 to R41) -/

/-- Bits of a PSB element: 7, 4 or 2. -/
def psbBits (et : Nat) : Nat := if et = 10 then 7 else if et = 11 then 4 else 2

/-- Elements and bytes of a block. -/
def blockElems (et : Nat) : Nat := if et = 13 then 32 else 16

def blockBytes (et : Nat) : Nat := if et = 13 then 17 else 2 + 2 * psbBits et

/-- Element i of a block given as a number (R28, R29). -/
def blockElem (et : Nat) (blk i : Nat) : Ex :=
  let scale := bitsOf blk 0 8
  if scale = 255 then .nan
  else if et = 13 then
    match fmtE2M1.decode (bitsOf blk (8 + 4 * i) 4) with
    | .num s n d e => .num s n d (e + scale - 127)
    | .nan => .nan
    | .inf s => .inf s
  else
    let m := psbBits et
    let x := bitsOf blk (16 + m * i) m
    let mu : Int := b2n (bitOf blk (8 + i / 2))
    .num (bitOf x (m - 1)) (bitsOf x 0 (m - 1)) 1 ((scale : Int) - 127 - mu - ((m - 2 : Nat) : Int))

/-- Largest finite magnitude of a list, as fraction and exponent. -/
def largestMag : List Ex → Nat × Nat × Int
  | [] => (0, 1, 0)
  | .num _ n d e :: r =>
    let (m, c, k) := largestMag r
    if magLt m c k n d e then (n, d, e) else (m, c, k)
  | .nan :: r => largestMag r
  | .inf _ :: r => largestMag r

/-- One PSB element of R39: s and mag, and flags. `unit` is E − 127 − μ. -/
def psbElem (rm u m : Nat) (unit : Int) : Ex → Flagged Nat
  | .nan => (0, 0)
  | .inf s => ((b2n s) * 2 ^ (m - 1) + (2 ^ (m - 1) - 1), fOverflow + fInexact)
  | .num s n d e =>
    let top := 2 ^ (m - 1) - 1
    let sb := b2n s * 2 ^ (m - 1)
    if n != 0 && !magLt n d e 1 1 (unit + 1) then (sb + top, fOverflow + fInexact)
    else
      let (q, x) := roundInt rm u s n d (e - unit + ((m - 2 : Nat) : Int))
      (sb + min q.natAbs top, if x || top < q.natAbs then fInexact else 0)

/-- Sum of numbers weighted by rising powers of 2^w. -/
def packBits (w : Nat) : List Nat → Nat
  | [] => 0
  | x :: r => x + 2 ^ w * packBits w r

/-- PSB quantisation of 16 values (R39); `u i` is the stochastic number of element i. -/
def psbBlock (et rm : Nat) (u : Nat → Nat) (xs : List Ex) : Flagged Nat :=
  if xs.any Ex.isNan then (255, 0)
  else
    let m := psbBits et
    let (n, d, e) := largestMag xs
    let scale : Int := if n = 0 then 0 else min 254 (max 0 (floorLog2 n d e + 127))
    let mu := (List.range 8).map (fun h =>
      let pair := [xs.getD (2 * h) (.ofInt 0), xs.getD (2 * h + 1) (.ofInt 0)]
      let (pn, pd, pe) := if pair.any Ex.isInf then (n, d, e) else largestMag pair
      pn != 0 && magLt pn pd pe 1 1 (scale - 127))
    let els := xs.zipIdx.map (fun (x, i) =>
      psbElem rm (u i) m (scale - 127 - (b2n (mu.getD (i / 2) false) : Int)) x)
    (scale.toNat + 2 ^ 8 * packBits 1 (mu.map b2n) + 2 ^ 16 * packBits m (els.map (·.1)),
      els.foldl (fun a x => a ||| x.2) 0)

/-- MXFP4 quantisation of 32 values (R40). -/
def mxBlock (rm : Nat) (u : Nat → Nat) (xs : List Ex) : Flagged Nat :=
  if xs.any Ex.isNan then (255, 0)
  else
    let (n, d, e) := largestMag xs
    let scale : Int := if n = 0 then 0 else max (-127) (min 127 (floorLog2 n d e - 2)) + 127
    let els := xs.zipIdx.map (fun (x, i) =>
      match x with
      | .nan => (0, 0)
      | .inf s => (fmtE2M1.signed s 7, fOverflow + fInexact)
      | .num s n d e =>
        let (q, fl) := roundTo fmtE2M1 rm true (u i) (.num s n d (e - (scale - 127)))
        (q, if fl &&& fOverflow ≠ 0 then fInexact else fl))
    (scale.toNat + 2 ^ 8 * packBits 4 (els.map (·.1)), els.foldl (fun a x => a ||| x.2) 0)

/-- A block of either kind. -/
def quantBlock (et rm : Nat) (u : Nat → Nat) (xs : List Ex) : Flagged Nat :=
  if et = 13 then mxBlock rm u xs else psbBlock et rm u xs

/-- The five digits of a TRIT byte (R30); none for an illegal code. -/
def tritDigits (b : Nat) : Option (List Int) :=
  if 243 ≤ b then none else some ((List.range 5).map (fun i => ((b / 3 ^ i % 3 : Nat) : Int) - 1))

/-! ### Special functions (R42) -/

/-- Fixed-point working precision of the transcendental functions. -/
def fxBits : Nat := 320

/-- ln 2 × 2^fxBits, from Σ 1 / (k 2^k). -/
def ln2Fx : Nat := (List.range 340).foldl (fun a k => a + 2 ^ fxBits / ((k + 1) * 2 ^ (k + 1))) 0

/-- exp(y / 2^fxBits) × 2^fxBits for 0 ≤ y < 2^fxBits, by its series. -/
def expFx (y : Nat) : Nat :=
  ((List.range 90).foldl (fun (p : Nat × Nat) k =>
    let term := p.2 * y / 2 ^ fxBits / (k + 1)
    (p.1 + term, term)) (2 ^ fxBits, 2 ^ fxBits)).1

/-- ln(1 + x) series by atanh: ln((1 + z) / (1 − z)) × 2^fxBits for z = zn / 2^fxBits. -/
def lnFx (z : Nat) : Nat :=
  let z2 := z * z / 2 ^ fxBits
  2 * ((List.range 110).foldl (fun (p : Nat × Nat) k =>
    (p.1 + p.2 / (2 * k + 1), p.2 * z2 / 2 ^ fxBits)) (0, z)).1

/-- A truncated fixed-point result with a sticky bit below it, so that it rounds as the exact value does. -/
def stickyFx (neg : Bool) (q : Nat) (bits : Nat) : Ex := .num neg (2 * q + 1) 1 (-((bits + 1 : Nat) : Int))

/-- Integer square root with a sticky bit: √(n/d × 2^e) to `fxBits` bits or more. -/
def sqrtEx (n d : Nat) (e : Int) : Ex :=
  let e2 := if e % 2 = 0 then e else e - 1
  let n2 := if e % 2 = 0 then n else 2 * n
  let x := n2 * 2 ^ (2 * fxBits) / d
  let r := Nat.sqrt x
  let exact := r * r == x && n2 * 2 ^ (2 * fxBits) % d == 0
  if exact then .num false r 1 (e2 / 2 - fxBits) else .num false (2 * r + 1) 1 (e2 / 2 - fxBits - 1)

/-- 1/√x. -/
def rsqrtEx (n d : Nat) (e : Int) : Ex := sqrtEx d n (-e)

/-- 2^x of a finite value. Beyond ±20000 the power overflows or underflows every format alike. -/
def exp2Ex (s : Bool) (n d : Nat) (e : Int) : Ex :=
  if n = 0 then .num false 1 1 0
  else if 15 ≤ floorLog2 n d e then .num false 3 1 (if s then -40000 else 40000)
  else
    let num : Int := sgn s (n * pow2Num e)
    let den := d * pow2Den e
    let i := num / (den : Int)
    let r := (num - i * den).toNat
    if r = 0 then .num false 1 1 i
    else
      let f := r * ln2Fx / den
      match stickyFx false (expFx f / 2 ^ 40) (fxBits - 40) with
      | .num sg m c k => .num sg m c (k + i)
      | .nan => .nan
      | .inf sg => .inf sg

/-- log2 of a positive value. -/
def log2Ex (n d : Nat) (e : Int) : Ex :=
  let i := floorLog2 n d e
  let k := e - i
  let mn := n * pow2Num k
  let md := d * pow2Den k
  if mn = md then .ofInt i
  else
    let l := lnFx ((mn - md) * 2 ^ fxBits / (mn + md)) * 2 ^ fxBits / ln2Fx
    let v : Int := i * 2 ^ (fxBits - 40) + (l / 2 ^ 40 : Nat)
    if v < 0 then stickyFx true ((-v).toNat - 1) (fxBits - 40) else stickyFx false v.toNat (fxBits - 40)

/-- The functions of VFUNC by FN (R276): 0 VRCP, 1 VRSQ, 2 VSQRT, 3 VEXP2, 4 VLOG2, with the operands of R42. -/
def specialFn (fn : Nat) : Ex → Flagged Ex
  | .nan => (.nan, 0)
  | .inf s =>
    match fn with
    | 0 => (.num s 0 1 0, 0)
    | 1 => if s then (.nan, fInvalid) else (.num false 0 1 0, 0)
    | 2 => if s then (.nan, fInvalid) else (.inf false, 0)
    | 3 => if s then (.num false 0 1 0, 0) else (.inf false, 0)
    | _ => if s then (.nan, fInvalid) else (.inf false, 0)
  | .num s n d e =>
    match fn with
    | 0 => if n = 0 then (.inf s, fDivzero) else (.num s d n (-e), 0)
    | 1 => if n = 0 then (.inf s, fDivzero) else if s then (.nan, fInvalid) else (rsqrtEx n d e, 0)
    | 2 => if n = 0 then (.num s 0 1 0, 0) else if s then (.nan, fInvalid) else (sqrtEx n d e, 0)
    | 3 => (exp2Ex s n d e, 0)
    | _ => if n = 0 then (.inf true, fDivzero) else if s then (.nan, fInvalid) else (log2Ex n d e, 0)

end Sys2Proof.Machine
end

