-- ==== Sys2Proof/Machine/Base.lean ====
section
/-!
DEFINITION. Reading and changing the records of State, and the monad in which a strand's instruction runs: a state
with an early stop, which is a trap, a wait (R6), a walk to wait for (R189) or a faulted store to report (R123).
A stop discards every change the instruction has made so far.
-/
namespace Sys2Proof.Machine

/-! ### Records -/

def State.task (s : State) (t : Nat) : Task := (SMap.find t s.tasks).getD {}

def State.hasTask (s : State) (t : Nat) : Bool := (SMap.find t s.tasks).isSome

def State.modTask (s : State) (t : Nat) (f : Task → Task) : State := { s with tasks := SMap.upd t f s.tasks }

def Task.strand (t : Task) (k : Nat) : Strand := (SMap.find k t.strands).getD {}

def Task.modStrand (t : Task) (k : Nat) (f : Strand → Strand) : Task :=
  { t with strands := SMap.put k (f (t.strand k)) t.strands }

def State.strand (s : State) (t k : Nat) : Strand := (s.task t).strand k

def State.modStrand (s : State) (t k : Nat) (f : Strand → Strand) : State :=
  s.modTask t (fun x => x.modStrand k f)

def State.launch (s : State) (l : Nat) : Launch := (SMap.find l s.launches).getD {}

def State.modLaunch (s : State) (l : Nat) (f : Launch → Launch) : State :=
  { s with launches := SMap.upd l f s.launches }

def State.launchOf (s : State) (t : Nat) : Launch := s.launch (s.task t).launch

def State.die (s : State) (d : Nat) : Die := (SMap.find d s.dies).getD {}

def State.modDie (s : State) (d : Nat) (f : Die → Die) : State := { s with dies := SMap.put d (f (s.die d)) s.dies }

def State.function (s : State) (f : Nat) : Function := (SMap.find f s.functions).getD {}

def State.modFunction (s : State) (n : Nat) (f : Function → Function) : State :=
  { s with functions := SMap.put n (f (s.function n)) s.functions }

/-- POD of FCFG: the function's grid is the pod grid (R150, R422). -/
def Function.podPartition (f : Function) : Bool := f.fcfg.getLsbD 0

def Die.core (d : Die) (c : Nat) : Core := (SMap.find c d.cores).getD {}

def Die.modCore (d : Die) (c : Nat) (f : Core → Core) : Die := { d with cores := SMap.put c (f (d.core c)) d.cores }

/-- The physical core that holds a task, if one does (R160). -/
def Task.core? (t : Task) : Option Nat :=
  match t.place with
  | .running c => some c
  | .ready => none
  | .saved => none
  | .parked => none

/-- A task's queue of an engine (R15). -/
def Task.queue (t : Task) (q : Nat) : List Entry := (SMap.find q t.queues).getD []

def Task.setQueue (t : Task) (q : Nat) (l : List Entry) : Task := { t with queues := SMap.put q l t.queues }

/-- Entries of a queue (R15). -/
def queueSize (q : Nat) : Nat := if q = 0 then 32 else 64

/-- Change the head of a queue; number 16 + k stands for the command whose heritage routine strand k runs (R190). -/
def Task.modHead (t : Task) (q : Nat) (f : Entry → Entry) : Task :=
  if 16 ≤ q then t.modStrand (q - 16) (fun x => { x with routine := x.routine.map f })
  else
    match t.queue q with
    | [] => t
    | e :: r => t.setQueue q (f e :: r)

/-- Logical core number of a task: LY × 64 + LX (R127). -/
def Task.lcore (t : Task) : Nat := t.ly * 64 + t.lx

/-- Loop counter n (R214). -/
def Task.loop (t : Task) (n : Nat) : LoopState := (SMap.find n t.loops).getD {}

def Task.setLoop (t : Task) (n : Nat) (l : LoopState) : Task := { t with loops := SMap.put n l t.loops }

def Task.sem (t : Task) (n : Nat) : Sem := (SMap.find n t.sems).getD {}

def Task.setSem (t : Task) (n : Nat) (x : Sem) : Task := { t with sems := SMap.put n x t.sems }

def Task.slot (t : Task) (n : Nat) : Slot := (SMap.find n t.eng.slots).getD {}

def Task.setSlot (t : Task) (n : Nat) (x : Slot) : Task :=
  { t with eng := { t.eng with slots := SMap.put n x t.eng.slots } }

def Task.bank (t : Task) (n : Nat) : Bank := (SMap.find n t.eng.banks).getD {}

def Task.setBank (t : Task) (n : Nat) (x : Bank) : Task :=
  { t with eng := { t.eng with banks := SMap.put n x t.eng.banks } }

/-- The module of a die and its position in it (R10). -/
def moduleOf (die : Nat) : Nat := die / 8

/-! ### g registers, predicates and STATUS (R62, R174, R182, R193) -/

/-- g[n]: g0 reads 0. -/
def StrandRegs.gr (r : StrandRegs) (n : Nat) : Word := if n = 0 then 0 else SMap.get 0 r.g n

/-- Write g[n] with clean poison; a write to g0 is discarded. -/
def StrandRegs.setG (r : StrandRegs) (n : Nat) (v : Word) : StrandRegs :=
  if n = 0 then r
  else { r with g := SMap.set 0 r.g n v, poison := SMap.set 0 r.poison n 0, bad := r.bad.filter (· != n),
                guardBad := r.guardBad.filter (· != n) }

/-- Write g[n] poisoned with a cause. -/
def StrandRegs.setPoison (r : StrandRegs) (n : Nat) (v : Word) (cause : Nat) : StrandRegs :=
  if n = 0 then r
  else { r with g := SMap.set 0 r.g n v, poison := SMap.set 0 r.poison n cause, bad := r.bad.filter (· != n),
                guardBad := r.guardBad.filter (· != n) }

/-- Poison cause of g[n], 0 when clean. -/
def StrandRegs.poisonOf (r : StrandRegs) (n : Nat) : Nat := if n = 0 then 0 else SMap.get 0 r.poison n

/-- p[n]: p0 reads true. -/
def StrandRegs.pred (r : StrandRegs) (n : Nat) : Bool := n == 0 || r.preds.getLsbD n

/-- Write p[n]; a write to p0 is discarded. -/
def StrandRegs.setPred (r : StrandRegs) (n : Nat) (b : Bool) : StrandRegs :=
  if n = 0 then r
  else { r with preds := if b then r.preds ||| (1#16 <<< n) else r.preds &&& ~~~(1#16 <<< n) }

/-- STATUS of a strand in a launch (R174). -/
def statusWord (r : StrandRegs) (l : Launch) : Word :=
  w64 (b2n r.hnd + 2 * b2n r.her + 4 * b2n l.det + 8 * b2n l.log + 16 * b2n l.sup)

/-! ### The monad of a strand's instruction -/

/-- Why an instruction stops before it retires. -/
inductive Stop where
  | trap (t : Trap)
  | wait (w : Wait)
  /-- a page whose walk is pending (R189) -/
  | walk (fn page : Nat)
  /-- a faulted store is due (R123) -/
  | report (r : FaultReport)
  /-- the order log has no room for the record of an access (R406) -/
  | logFull (a : Acc)
deriving DecidableEq, Repr

/-- An instruction of the strand `State.sel` names. -/
abbrev M (α : Type) := StateT State (Except Stop) α

def getS : M State := fun s => .ok (s, s)

def setS (s : State) : M Unit := fun _ => .ok ((), s)

def modS (f : State → State) : M Unit := fun s => .ok ((), f s)

def stop {α : Type} (x : Stop) : M α := fun _ => .error x

/-- TRAP(c, v) of R6. -/
def trapM {α : Type} (cause : Nat) (tval : Word) : M α := stop (.trap { cause, tval })

/-- A trap whose TVAL holds a designator (TCAUSE.RES, R174). -/
def trapRes {α : Type} (cause : Nat) (tval : Nat) (cstamp : BitVec 24 := 0) : M α :=
  stop (.trap { cause, tval := w64 tval, res := true, cstamp })

/-- WAIT_UNTIL of R6, with the kind and object of the hang record (R185). -/
def waitM {α : Type} (kind object : Nat) (amount : Nat := 0) : M α := stop (.wait { kind, object, amount })

def curTask : M Task := fun s => .ok (s.task s.sel.task, s)

def curStrand : M Strand := fun s => .ok (s.strand s.sel.task s.sel.strand, s)

def curLaunch : M Launch := fun s => .ok (s.launchOf s.sel.task, s)

def modCurTask (f : Task → Task) : M Unit := modS (fun s => s.modTask s.sel.task f)

def modCur (f : Strand → Strand) : M Unit := modS (fun s => s.modStrand s.sel.task s.sel.strand f)

def modRegs (f : StrandRegs → StrandRegs) : M Unit := modCur (fun x => { x with r := f x.r })

/-- Wait until no engine or deferred load has yet to write the register (R259). -/
def needReady (r : Reg) : M Unit := do
  let st ← curStrand
  if r.toNat ∈ st.notReady then waitM 0 r.toNat else pure ()

/-- A register that holds an uncorrectable error, in either core of the pair, traps ECC_UNCORRECTABLE when it is read (R172,
R392). -/
def needGood (r : Reg) : M Unit := do
  let st ← curStrand
  if r.toNat ∈ st.r.bad ∨ r.toNat ∈ st.r.guardBad then trapM 19 0 else pure ()

/-- g[r], waiting until it is ready. -/
def rd (r : Reg) : M Word := do
  needReady r
  needGood r
  let st ← curStrand
  pure (st.r.gr r.toNat)

/-- A g operand that leaves the register file: poison escapes (R183). -/
def rdOut (r : Reg) : M Word := do
  needReady r
  needGood r
  let st ← curStrand
  if st.r.poisonOf r.toNat ≠ 0 then trapM 11 (w64 r.toNat) else pure (st.r.gr r.toNat)

/-- g[r] ← v with clean poison. -/
def wr (r : Reg) (v : Word) : M Unit := do
  needReady r
  modRegs (fun x => x.setG r.toNat v)

/-- A result of the ALU, MULDIV, BITS, shift, immediate or SEL groups: the first poisoned source in the order given
passes its value and cause on (R182). -/
def wrResult (d : Reg) (srcs : List Reg) (v : Word) : M Unit := do
  needReady d
  modRegs (fun x =>
    match srcs.find? (fun r => x.poisonOf r.toNat ≠ 0) with
    | some r => x.setPoison d.toNat (x.gr r.toNat) (x.poisonOf r.toNat)
    | none => x.setG d.toNat v)

end Sys2Proof.Machine
end

