-- ==== Sys2Proof/Machine/Memory.lean ====
section
/-!
DEFINITION. Memory as bytes, the homes behind physical addresses, and the two-stage walk (R104, R137, R187, R188).
-/
namespace Sys2Proof.Machine

/-! ### Bytes -/

/-- What an unlisted byte of memory reads as: 0 (log entry 3 for HBM, host memory and window; R147 for a scratchpad). -/
def memDefault : Byte := 0

/-- Memory in canonical form: addresses strictly rising, no entry equal to what an unlisted address reads as. -/
def Memory.wf (m : SMap Byte) : Bool := SMap.wf memDefault m

/-- One byte of a memory. -/
def readByte (m : SMap Byte) (a : Nat) : Byte := SMap.get memDefault m a

/-- Write one byte. -/
def writeByte (m : SMap Byte) (a : Nat) (b : Byte) : SMap Byte := SMap.set memDefault m a b

/-- `n` bytes from `a`, as a little-endian number (R4). -/
def readNat (m : SMap Byte) (a : Nat) : Nat → Nat
  | 0 => 0
  | n + 1 => (readByte m a).toNat + 256 * readNat m (a + 1) n

/-- The `n` bytes from `a`. -/
def readBytes (m : SMap Byte) (a : Nat) : Nat → List Byte
  | 0 => []
  | n + 1 => readByte m a :: readBytes m (a + 1) n

/-- Write bytes from `a` upward. -/
def writeBytes (m : SMap Byte) (a : Nat) : List Byte → SMap Byte
  | [] => m
  | b :: bs => writeBytes (writeByte m a b) (a + 1) bs

/-- Write the enabled bytes from `a` upward (R105, R342). -/
def writeEnabled (m : SMap Byte) (a : Nat) : List (Option Byte) → SMap Byte
  | [] => m
  | none :: bs => writeEnabled m (a + 1) bs
  | some b :: bs => writeEnabled (writeByte m a b) (a + 1) bs

/-! ### Homes of physical addresses -/

/-- The region of the physical map that holds an address (log entry 4). -/
def regionOf (s : State) (pa : Nat) : Option Region :=
  s.physMap.find? (fun r => r.base ≤ pa && pa < r.base + r.size)

/-- The home of a physical address as the map has it. -/
def homeOfPa (s : State) (pa : Nat) : Option Home := (regionOf s pa).map (·.home)

/-- The physical address lies in host memory. -/
def isHostPa (s : State) (pa : Nat) : Bool :=
  match homeOfPa s pa with
  | some (.host _) => true
  | some _ => false
  | none => false

/-- The host goes on seeing the bytes as they were. -/
def keepView (s : State) (pa : Nat) (bs : List (Option Byte)) : SMap Byte :=
  bs.zipIdx.foldl (fun m (b, i) =>
    if b.isSome && (SMap.find (pa + i) m).isNone then SMap.put (pa + i) (readByte s.mem (pa + i)) m else m) s.hostView

/-- A device write of enabled bytes to physical memory by a function; bytes of host memory also set out for the host,
which does not see them yet (R137). -/
def writePa (s : State) (fn pa : Nat) (bs : List (Option Byte)) : State :=
  let s' := { s with mem := writeEnabled s.mem pa bs }
  if isHostPa s pa then
    { s' with hostView := keepView s pa bs,
              toHost := s.toHost ++ (bs.zipIdx.filterMap (fun (b, i) => b.map (fun x => (fn, pa + i, x)))) }
  else s'

/-- Every write of a function to host memory reaches the host (R137). -/
def drainHost (s : State) (fn : Nat) : State :=
  let out := s.toHost.filter (fun e => e.1 == fn)
  let rest := s.toHost.filter (fun e => e.1 != fn)
  { s with toHost := rest,
           hostView := out.foldl (fun m (_, a, b) =>
             if rest.any (fun e => e.2.1 == a) then SMap.put a b m else SMap.del a m) s.hostView }

/-- The link of a function: JA (0) or JB (1) (R412). -/
def linkOfFn (fn : Nat) : Nat := if fn = 1 ∨ 129 ≤ fn then 1 else 0

/-- The home of a physical address for a function (R104): host memory is reached through the junction die of the function's
own link, whichever link's memory it is (R412). -/
def homeFor (s : State) (fn pa : Nat) : Option Home :=
  match homeOfPa s pa with
  | some (.host j) => some (.host (2 * (j / 2) + linkOfFn fn))
  | h => h

/-- Every device write on a link reaches the host. -/
def drainLink (s : State) (link : Nat) : State :=
  ((s.toHost.map (·.1)).dedup.filter (fun f => linkOfFn f == link)).foldl drainHost s

/-- An MSI-X message of a function: the host receives it after every earlier device write on the link (R431). -/
def sendMsix (s : State) (fn vec : Nat) : State :=
  let s1 := drainLink s (linkOfFn fn)
  { s1 with msix := s1.msix ++ [(fn, vec)] }

/-- What the host reads of a byte of its own memory: its view where it differs, else the device's. -/
def hostRead (s : State) (pa : Nat) : Byte :=
  match SMap.find pa s.hostView with
  | some b => b
  | none => readByte s.mem pa

/-! ### Translation (R187, R188) -/

/-- A failed walk or a denied access: XLATE_MISS (7) or XLATE_PERM (8), and the stage (1 host). -/
structure WalkFault where
  cause : Nat
  stage : Bool
deriving DecidableEq, Repr, Inhabited

/-- A leaf a stage reached: base address of its page and the entry. -/
structure Leaf where
  base : Nat
  /-- log2 of the page size: 17, 27 or 37 -/
  log2 : Nat
  entry : Nat
deriving DecidableEq, Repr, Inhabited

/-- Page size of a leaf at a level (R187). -/
def leafLog2 (level : Nat) : Nat := 17 + 10 * level

/-- One stage of a walk from a table at `table`, at `level` down to 0; `rd` reads an entry of a table. Every valid entry of
level 0 is a leaf, whatever its LEAF (R187). -/
def walkStage (host : Bool) (rd : Nat → Except WalkFault Nat) (va : Nat) : Nat → Nat → Except WalkFault Leaf
  | level, table => do
    let idx := bitsOf va (leafLog2 level) 10
    let e ← rd (table + 8 * idx)
    if !bitOf e 0 then throw { cause := 7, stage := host }
    let leaf := bitOf e 1 || level == 0
    let bad := bitsOf e 9 4 ≠ 0 || (host && bitsOf e 48 16 ≠ 0) || (level == 3 && leaf)
      || (leaf && bitsOf e 13 35 * 2 ^ 13 % 2 ^ leafLog2 level ≠ 0)
    if bad then throw { cause := 8, stage := host }
    let here : Leaf := { base := bitsOf e 13 35 * 2 ^ 13, log2 := leafLog2 level, entry := e }
    if leaf then pure here
    else
      match level with
      | 0 => pure here
      | l + 1 => walkStage host rd va l (bitsOf e 13 35 * 2 ^ 13)

/-- The host stage: intermediate to physical. -/
def walkHost (s : State) (fn ia : Nat) : Except WalkFault Leaf :=
  walkStage true (fun a => .ok (readNat s.mem a 8)) ia 3 (s.function fn).hostroot.toNat

/-- The physical address of an intermediate address. -/
def hostPa (s : State) (fn ia : Nat) : Except WalkFault Nat := do
  let l ← walkHost s fn ia
  pure (l.base + ia % 2 ^ l.log2)

/-- The whole walk of one 128 KiB page (R188): both leaves, as a cache entry. -/
def walk (s : State) (fn page : Nat) : Except WalkFault TlbEntry := do
  let va := page * 2 ^ 17
  let v ← walkStage false (fun a => do let pa ← hostPa s fn a; pure (readNat s.mem pa 8)) va 3
    (s.function fn).vfroot.toNat
  let ia := v.base + va % 2 ^ v.log2
  let h ← walkHost s fn ia
  let pa := h.base + ia % 2 ^ h.log2
  let b := fun (e i : Nat) => bitOf e i
  pure { fn, page, pa, vr := b v.entry 2, vw := b v.entry 3, vx := b v.entry 4, vd := b v.entry 7,
         hr := b h.entry 2, hw := b h.entry 3, hx := b h.entry 4, hd := b h.entry 7, user := b v.entry 8,
         tso := b v.entry 5 || b h.entry 5, log := b v.entry 6 || b h.entry 6, tag := bitsOf v.entry 48 16 }

/-- An address is canonical when bits 63:57 equal bit 56 (R102). -/
def canonical (va : Word) : Bool := va == sextW va 57

/-- A canonical address of translated global memory (R102). -/
def isGlobal (va : Word) : Bool := canonical va && 0x0000100000000000 ≤ va.toNat

/-- The 128 KiB page of a virtual address. -/
def pageOf (va : Word) : Nat := va.toNat % 2 ^ 57 / 2 ^ 17

/-- What an access needs of its leaf (R188). -/
inductive Need where
  | read | write | readWrite | fetch
deriving DecidableEq, Repr, Inhabited

/-- The leaf's denial of an access, if it denies: U for user state, then R, W or X of each stage. -/
def denied (e : TlbEntry) (n : Need) (sup : Bool) : Option WalkFault :=
  let v := match n with
    | .read => e.vr
    | .write => e.vw
    | .readWrite => e.vr && e.vw
    | .fetch => e.vx
  let h := match n with
    | .read => e.hr
    | .write => e.hw
    | .readWrite => e.hr && e.hw
    | .fetch => e.hx
  if !v || (!sup && !e.user) then some { cause := 8, stage := false }
  else if !h then some { cause := 8, stage := true }
  else none

/-- A walk made outside the cores, by a signal box, a command processor or the host aperture: the tables as they
stand, with the rights the access needs. `sup` ignores U. -/
def directPa (s : State) (fn : Nat) (va : Word) (n : Need) (sup : Bool) : Except WalkFault Nat := do
  if !isGlobal va then throw { cause := 8, stage := false }
  let e ← walk s fn (pageOf va)
  match denied e n sup with
  | some f => throw f
  | none => pure (e.pa + va.toNat % 2 ^ 17)

/-- Read `n` bytes of a function's memory by direct walks; a range may cross pages. -/
def directRead (s : State) (fn : Nat) (va : Word) (sup : Bool) : Nat → Except WalkFault (List Byte)
  | 0 => .ok []
  | n + 1 => do
    let pa ← directPa s fn va .read sup
    let r ← directRead s fn (va + 1) sup n
    pure (readByte s.mem pa :: r)

/-- Write bytes to a function's memory by direct walks. -/
def directWrite (s : State) (fn : Nat) (va : Word) (sup : Bool) : List Byte → Except WalkFault State
  | [] => .ok s
  | b :: bs => do
    let pa ← directPa s fn va .write sup
    directWrite (writePa s fn pa [some b]) fn (va + 1) sup bs

/-! ### Pages of a function (R132, R187) -/

/-- VF-stage leaves of a function: virtual base, log2 size, physical address of the entry, the entry. Every valid entry of
level 0 is one (R187). -/
def vfLeaves (s : State) (fn : Nat) : Nat → Nat → Nat → List (Nat × Nat × Nat × Nat)
  | level, table, base =>
    (List.range 1024).flatMap (fun i =>
      match hostPa s fn (table + 8 * i) with
      | .error _ => []
      | .ok pa =>
        let e := readNat s.mem pa 8
        let va := base + i * 2 ^ leafLog2 level
        if !bitOf e 0 then []
        else if bitOf e 1 || level == 0 then [(va, leafLog2 level, pa, e)]
        else
          match level with
          | 0 => []
          | n + 1 => vfLeaves s fn n (bitsOf e 13 35 * 2 ^ 13) va)

/-- The function's mapped 128 KiB pages: page number, translation, and the physical address of the VF-stage entry. -/
def mappedPages (s : State) (fn : Nat) : List (Nat × TlbEntry × Nat) :=
  (vfLeaves s fn 3 (s.function fn).vfroot.toNat 0).flatMap (fun (va, log2, epa, _) =>
    (List.range (2 ^ (log2 - 17))).filterMap (fun i =>
      match walk s fn (va / 2 ^ 17 + i) with
      | .ok e => some (va / 2 ^ 17 + i, e, epa)
      | .error _ => none))

/-- Physical pages a DET launch of the function may write (R132), each with its VF-stage entry's address. -/
def detPages (s : State) (fn : Nat) : List (Nat × Nat) :=
  (mappedPages s fn).filterMap (fun (_, e, epa) =>
    if e.vw && e.hw && e.vd && e.hd then some (e.pa / 2 ^ 17, epa) else none)

/-- The function's mappings of some physical pages: virtual page number and physical base. -/
def mapsOf (s : State) (fn : Nat) (bases : List Nat) : List (Nat × Nat) :=
  (mappedPages s fn).filterMap (fun (p, e, _) => if bases.contains e.pa then some (p, e.pa) else none)

end Sys2Proof.Machine
end

