-- ==== Sys2Proof/Machine/Stamps.lean ====
section
/-!
DEFINITION. The conflict rule of deterministic launches: sector stamps, sector kinds, word producers and consumers, and
page generations (R126 to R133, R387).
-/
namespace Sys2Proof.Machine

/-- LCORE and STRAND of a party, as bits 14:0 of a stamp (R127). -/
def partyBits (s : State) (p : Party) : Nat := (s.task p.task).lcore % 2 ^ 12 + 2 ^ 12 * (p.strand % 8)

/-- State and owner of a stamp. -/
def stampState (b : BitVec 24) : Nat := bitsOf b.toNat 15 2

def stampOwner (b : BitVec 24) : Nat := bitsOf b.toNat 0 15

def stampGen (b : BitVec 24) : Nat := bitsOf b.toNat 17 7

/-- A stamp from its fields. -/
def mkStamp (state owner gen : Nat) : BitVec 24 := BitVec.ofNat 24 (owner + 2 ^ 15 * state + 2 ^ 17 * gen)

/-- How an access counts for the stamp of its sector. -/
inductive StampUse where
  | read
  | write
  /-- combining atomic with its key (R130) -/
  | combine (key : Nat)
  | single
deriving DecidableEq, Repr, Inhabited

/-- FN of an operation of the AMO family (R228). -/
def AtomFn.code : AtomFn → Nat
  | .add => 0 | .and => 1 | .or => 2 | .xor => 3 | .min => 4 | .max => 5 | .minu => 6 | .maxu => 7 | .swap => 8
  | .fadd32 => 9 | .fmin32 => 10 | .fmax32 => 11

/-- Key of a combining sector (R127). -/
def combineKey (kind fn sz : Nat) : Nat := 0x4000 + 2 ^ 8 * kind + 2 * fn + sz

/-- The use an access makes of a stamp (R128, R130). -/
def stampUse (a : Acc) : StampUse :=
  match a.op with
  | .load => .read
  | .collRead => .read
  | .store _ => .write
  | .coll _ => .write
  | .rowAdd _ _ => .write
  | .signal _ _ => .read
  | .fe _ _ => .read
  | .atomic fn _ =>
    if a.nr && fn != .swap && fn != .fadd32 then .combine (combineKey 1 fn.code (b2n (a.size == 8))) else .single
  | .cas _ _ => .single
  | .amor fn _ _ _ _ => .combine (combineKey 2 fn.code (b2n (a.size == 8)))
  | .amox _ _ => if a.nr then .combine (combineKey 3 0 1) else .single

/-- The stamp an access of party `p` leaves (R128, R130): new state and owner, or none for a breach. -/
def stampNext (st own p : Nat) : StampUse → Option (Nat × Nat)
  | .read =>
    match st with
    | 0 => some (1, p)
    | 1 => if own = p then some (1, p) else some (2, 0)
    | 2 => if own = 0 then some (2, 0) else none
    | _ => if own = p then some (3, p) else none
  | .write =>
    match st with
    | 0 => some (3, p)
    | 2 => none
    | _ => if own = p then some (3, p) else none
  | .combine key =>
    match st with
    | 0 => some (2, key)
    | 2 => if own = key then some (2, key) else none
    | _ => if own = p then some (3, p) else none
  | .single =>
    match st with
    | 0 => some (3, p)
    | 2 => none
    | _ => if own = p then some (3, p) else none

/-- The trap of a breach: DET_ILLEGAL for a non-combining atomic, else PHASE_CONFLICT with the stamp before. -/
def breach (a : Acc) (before : BitVec 24) : Trap :=
  match stampUse a with
  | .single => { cause := 14, tval := a.va }
  | _ => { cause := 13, tval := a.va &&& ~~~63#64, cstamp := before }

/-- Update the stamp of one sector for every party the access carries. -/
def stampAll (a : Acc) (parties : List Nat) (b : BitVec 24) (gen : Nat) : Except Trap (BitVec 24) :=
  parties.foldlM (fun b p =>
    match stampNext (stampState b) (stampOwner b) p (stampUse a) with
    | some (st, own) => .ok (mkStamp st own gen)
    | none => .error (breach a b)) b

/-- Kind an access gives an untouched scratchpad sector (R129, R387): 1 ordinary, 2 synchronising, 3 collective. -/
def sectorKind (a : Acc) : Nat :=
  match a.op with
  | .fe _ _ => 2
  | .load => if a.cls = 15 then 2 else 1
  | .store _ => if a.cls = 15 then 2 else 1
  | .coll _ => 3
  | .collRead => 3
  | .atomic _ _ => 1
  | .cas _ _ => 1
  | .amox _ _ => 1
  | .amor _ _ _ _ _ => 1
  | .signal _ _ => 1
  | .rowAdd _ _ => 1

/-- A synchronising access produces (writes) its word, else consumes it (R129). -/
def produces (a : Acc) : Bool :=
  match a.op with
  | .store _ => true
  | .fe op _ => op == .stef || op == .stfl || op == .sete || op == .setf
  | _ => false

/-- Record producer or consumer core of a word (R129). -/
def syncWord (a : Acc) (core : Nat) (t : Task) (sector : Nat) (st : Stamp) : Except Trap Task :=
  let w := a.addr / 8
  let m := if produces a then t.recs.producers else t.recs.consumers
  let v := SMap.get 0 m w
  if v ≠ 0 ∧ v ≠ core + 1 then .error { cause := 13, tval := a.va &&& ~~~63#64, cstamp := st.bits }
  else
    let m' := SMap.set 0 m w (core + 1)
    let r := { t.recs with stamps := SMap.put sector { st with kind := 2 } t.recs.stamps }
    .ok { t with recs := if produces a then { r with producers := m' } else { r with consumers := m' } }

/-- Write the stamp record of a scratchpad sector. -/
def Task.putStamp (t : Task) (sector : Nat) (st : Stamp) : Task :=
  { t with recs := { t.recs with stamps := SMap.put sector st t.recs.stamps } }

/-- STAMP_CHECK of an access at a scratchpad (R128 to R130, R387). -/
def spadStamp (s : State) (a : Acc) (t : Task) : Except Trap Task :=
  let sector := a.addr / 64
  let st := (SMap.find sector t.recs.stamps).getD {}
  let k := sectorKind a
  let conflict : Trap := { cause := 13, tval := a.va &&& ~~~63#64, cstamp := st.bits }
  let parties := (a.who :: a.members).map (partyBits s)
  let core := (s.task a.who.task).lcore
  if k = 3 then
    match a.op with
    | .collRead =>
      if st.kind ≠ 3 ∨ st.writer = 0 ∨ (st.consumer ≠ 0 ∧ st.consumer ≠ core + 1) then .error conflict
      else .ok (t.putStamp sector { st with read := true, consumer := core + 1 })
    | _ =>
      let p := partyBits s a.who + 1
      if (st.kind ≠ 0 ∧ st.kind ≠ 3) ∨ st.read ∨ (st.writer ≠ 0 ∧ st.writer ≠ p) then .error conflict
      else .ok (t.putStamp sector { st with kind := 3, writer := p })
  else if st.kind ≠ 0 ∧ st.kind ≠ k then .error conflict
  else if k = 2 then syncWord a core t sector st
  else
    match stampAll a parties st.bits 0 with
    | .ok b => .ok (t.putStamp sector { st with bits := b, kind := 1 })
    | .error e => .error e

/-- The 8-byte entry of the page phase table, as privileged software reads it (R131). -/
def PagePhase.word (p : PagePhase) : Word := w64 (p.gen % 128 + 2 ^ 7 * b2n p.sweep + 2 ^ 8 * (p.lphase % 2 ^ 32) + 2 ^ 40 * (p.owner % 2 ^ 16))

/-- A sweep of a page: every stamp of the half its generation has entered goes to state 0; SWEEP is set while it runs, and
no access to the page performs before its end (R131). -/
def sweepPage (s : State) (page : Nat) : State :=
  let p := (SMap.find page s.pagePhase).getD {}
  { s with stamps := s.stamps.filter (fun e => !(e.1 / 2 ^ 11 == page && stampGen e.2 / 64 == p.gen / 64)),
           pagePhase := SMap.put page { p with sweep := false } s.pagePhase }

/-- The page phase table before an access of a DET launch to a page with its tag: the generation moves when tag or
phase differ, and at 0 and 64 the stamps of the half entered are swept (R131). -/
def touchPage (s : State) (pa tag phase : Nat) : State :=
  let page := pa / 2 ^ 17
  let p := (SMap.find page s.pagePhase).getD {}
  if p.owner = tag ∧ p.lphase = phase then s
  else
    let gen := (p.gen + 1) % 128
    let s1 := { s with pagePhase := SMap.put page { gen, sweep := decide (gen % 64 = 0), lphase := phase, owner := tag } s.pagePhase }
    if gen % 64 = 0 then sweepPage s1 page else s1

/-- STAMP_CHECK of an access at an HBM home. -/
def hbmStamp (s : State) (a : Acc) : Except Trap State :=
  let l := s.launchOf a.who.task
  let s := touchPage s a.addr a.detTag (l.phase.toNat % 2 ^ 32)
  let gen := ((SMap.find (a.addr / 2 ^ 17) s.pagePhase).getD {}).gen
  let sector := a.addr / 64
  let b := SMap.get 0 s.stamps sector
  let b := if stampState b ≠ 0 ∧ stampGen b = gen then b else mkStamp 0 0 gen
  match stampAll a ((a.who :: a.members).map (partyBits s)) b gen with
  | .ok b' => .ok { s with stamps := SMap.set 0 s.stamps sector b' }
  | .error e => .error e

/-- An address of the semaphore block (R102). -/
def isSemAddr (off : Nat) : Bool := 0x700000 ≤ off && off < 0x700400

/-- The access is to the heritage working region (R191). -/
def isHeritage (off : Nat) : Bool := 0x600000 ≤ off && off < 0x700000

/-- STAMP_CHECK of one sector: nothing in a free launch, for a quiet access, for a semaphore word, outside scratchpads and
pages that carry the launch's owner tag. -/
def stampSector (s : State) (a : Acc) : Except Trap State :=
  if !(s.launchOf a.who.task).det || a.who.quiet then .ok s
  else
    match a.home with
    | .spad t =>
      if isSemAddr a.addr || isHeritage a.addr then .ok s
      else
        match spadStamp s a (s.task t) with
        | .ok t' => .ok (s.modTask t (fun _ => t'))
        | .error e => .error e
    | .hbm _ => if a.detTag = 0 then .ok s else hbmStamp s a
    | .host _ => .ok s
    | .window _ => .ok s

/-- Bytes an access touches: those of its elements for the adds of a row (R350), else its size. -/
def Acc.span (a : Acc) : Nat :=
  match a.op with
  | .rowAdd et vals => typeBytes et * vals.length
  | _ => a.size

/-- The rest of an access from the sector after its first byte's on. -/
def nextSector (a : Acc) : Acc := { a with addr := a.addr / 64 * 64 + 64, va := (a.va &&& ~~~63#64) + 64 }

/-- STAMP_CHECK of the `n` sectors from an access's first byte on. -/
def stampSectors : Nat → State → Acc → Except Trap State
  | 0, s, _ => .ok s
  | n + 1, s, a =>
    match stampSector s a with
    | .error e => .error e
    | .ok s' => stampSectors n s' (nextSector a)

/-- STAMP_CHECK (R6): an access counts once for each 64-byte sector it touches (R126). -/
def stampCheck (s : State) (a : Acc) : Except Trap State :=
  stampSectors ((a.addr % 64 + max 1 a.span + 63) / 64) s a

end Sys2Proof.Machine
end

