-- ==== Sys2Proof/Machine/Watch.lean ====
section
/-!
DEFINITION. What a home keeps of the accesses it performs: monitor partials (R397 to R399) and order-log records
(R404 to R408). Records of the scheduler log are written here too (R168, R169).
-/
namespace Sys2Proof.Machine

/-! ### Stations and source numbers (R10, R11, R448) -/

/-- Absolute station of a compute die: 10 × module + station (R10). -/
def dieStation (die : Nat) : Nat := 10 * (die / 8) + (if die % 8 < 4 then die % 8 else die % 8 + 1)

/-- Absolute station of a junction die: JA at 4, JB at 9. -/
def jnStation (jn : Nat) : Nat := 10 * (jn / 2) + (if jn % 2 = 0 then 4 else 9)

/-- Die of a home, if it lies on a compute die. -/
def homeDie (s : State) : Home → Option Nat
  | .spad t => some (s.task t).die
  | .hbm d => some d
  | .host _ => none
  | .window _ => none

/-- Station of a home. -/
def homeStation (s : State) : Home → Nat
  | .spad t => dieStation (s.task t).die
  | .hbm d => dieStation d
  | .host j => jnStation j
  | .window j => jnStation j

/-- Unit number of a home (R448): the physical core of a scratchpad, 0x40 for HBM and for a context area. -/
def homeUnit (s : State) : Home → Nat
  | .spad t => ((s.task t).core?).getD 0x40
  | .hbm _ => 0x40
  | .host _ => 0xC1
  | .window _ => 0xC2

/-- A source number: module, station, unit (R168). -/
def sourceNo (station unit : Nat) : Nat := 2 ^ 12 * (station / 10) + 2 ^ 8 * (station % 10) + unit

/-- Source number of a home. -/
def homeSource (s : State) (h : Home) : Nat := sourceNo (homeStation s h) (homeUnit s h)

/-- Source number of the physical core that holds a task. -/
def taskSource (s : State) (t : Nat) : Nat :=
  sourceNo (dieStation (s.task t).die) (((s.task t).core?).getD 0x40)

/-- Hops of one ring of `n` stations, clockwise when the counts tie (R11). -/
def ringHops (n a b : Nat) : Nat := min ((b + n - a) % n) ((a + n - b) % n)

/-- Does the shorter way run clockwise? -/
def ringCw (n a b : Nat) : Bool := (b + n - a) % n ≤ (a + n - b) % n

/-- Hops between two absolute stations of a pod of `mods` modules (R11, R371). -/
def hopsBetween (mods a b : Nat) : Nat :=
  if a / 10 = b / 10 then ringHops 10 (a % 10) (b % 10)
  else
    let j := if ringCw mods (a / 10) (b / 10) then 4 else 9
    ringHops 10 (a % 10) j + ringHops mods (a / 10) (b / 10) + ringHops 10 j (b % 10)

/-- One hop: the station it reaches, the ring (the module for a package ring, 16 and 17 for the CW and the CCW rack ring)
and its direction. -/
structure Hop where
  next : Nat
  ring : Nat
  ccw : Bool
deriving DecidableEq, Repr, Inhabited

/-- The hop from one station of a package ring towards another (R11). -/
def packageHop (a b : Nat) : Hop :=
  if ringCw 10 (a % 10) (b % 10) then { next := 10 * (a / 10) + (a % 10 + 1) % 10, ring := a / 10, ccw := false }
  else { next := 10 * (a / 10) + (a % 10 + 9) % 10, ring := a / 10, ccw := true }

/-- The next hop from a station to a destination in a pod of `mods` modules: by the package ring, to the junction die of
the rack direction, or along the rack ring (R11, R371). -/
def nextHop (mods a b : Nat) : Hop :=
  if a / 10 = b / 10 then packageHop a b
  else if ringCw mods (a / 10) (b / 10) then
    if a % 10 = 4 then { next := 10 * ((a / 10 + 1) % mods) + 4, ring := 16, ccw := false }
    else packageHop a (10 * (a / 10) + 4)
  else if a % 10 = 9 then { next := 10 * ((a / 10 + mods - 1) % mods) + 9, ring := 17, ccw := true }
  else packageHop a (10 * (a / 10) + 9)

/-- The hop ends a ring: at the destination, or where the message changes rings (R371). -/
def endsRing (mods : Nat) (h : Hop) (b : Nat) : Bool := h.next == b || (nextHop mods h.next b).ring != h.ring

/-- The station a message reaches after some hops. -/
def routeAt (mods : Nat) : Nat → Nat → Nat → Nat
  | 0, a, _ => a
  | n + 1, a, b => if a = b then a else routeAt mods n (nextHop mods a b).next b

/-- A lane of the hop that leaves a station towards another is retired (R368). -/
def retireLane (s : State) (mods a b : Nat) : State :=
  let lane := 2 * a + b2n (nextHop mods a b).ccw
  { s with service := { s.service with lanes := SMap.put lane (SMap.get 0 s.service.lanes lane + 1) s.service.lanes } }

/-! ### Monitors -/

/-- Bytes of a field of a monitor format (R397). -/
def monBytes (fmt : Nat) : Nat :=
  match fmt with
  | 0 => 4 | 1 => 2 | 2 => 2 | 3 => 4 | 4 => 1 | _ => 16

/-- Element type code of a monitor format. -/
def monType (fmt : Nat) : Nat :=
  match fmt with
  | 0 => 8 | 1 => 7 | 2 => 6 | 3 => 3 | 4 => 0 | _ => 9

/-- Raw bits of a field, zero-extended to 80 bits (R398). -/
def monRaw (fmt x : Nat) : Nat := if fmt = 5 then x % 2 ^ 80 else x

/-- Contribution c(v). -/
def monContribution (m : Monitor) (x : Nat) : Int :=
  (toXw (anchorOf m.anch) (exOf (monType m.fmt) (monRaw m.fmt x))).1

/-- The value is a NaN or an infinity. -/
def monNonfinite (m : Monitor) (x : Nat) : Bool :=
  let v := exOf (monType m.fmt) (monRaw m.fmt x)
  v.isNan || v.isInf

/-- Element digest D(q, v) of R398. -/
def monDigest (m : Monitor) (q x : Nat) : Word :=
  let b := monRaw m.fmt x
  let d1 := mixOdd (w64 q)
  let d2 := mixOdd (d1 ^^^ w64 (b % 2 ^ 63))
  mixOdd (d2 ^^^ w64 (b / 2 ^ 63))

/-- Elements of a monitor that the bytes written at some offsets from an address touch: offset q and physical address, each
once (R397); only through a mapping that stood when the monitor was set (R399). -/
def monElems (m : Monitor) (va : Word) (pa : Nat) (written : List Nat) : List (Nat × Nat) :=
  let base := m.base.toNat % 2 ^ 57
  let limit := base + (m.limit - m.base).toNat
  (written.filterMap (fun k =>
    match m.pages.find? (fun e => e.2 ≤ pa + k && pa + k < e.2 + 2 ^ 17) with
    | none => none
    | some (page, pbase) =>
      let at_ := page * 2 ^ 17 + (pa + k - pbase)
      if at_ < base || !m.maps.contains (pageOf (va + w64 k), pbase) then none
      else
        let i := (at_ - base) / m.rec_
        let q := i * m.rec_ + m.off
        let e := base + q
        if e ≤ at_ ∧ at_ < e + monBytes m.fmt ∧ e + monBytes m.fmt ≤ limit then some (q, pa + k - (at_ - e)) else none)).dedup

/-- One element's event at a port: the partial after it. XW_OVF is set when the total saturates (R399). -/
def monEvent (m : Monitor) (net : Bool) (q old new : Nat) (p : Int × Nat × Bool × Bool) : Int × Nat × Bool × Bool :=
  let cn := monContribution m new
  let (t, ov) := xwSat (if net then p.1 + cn - monContribution m old else p.1 + cn)
  let dn := (monDigest m q new).toNat
  let dold := (monDigest m q old).toNat
  let g := if net then p.2.1 + dn + 2 ^ 64 - dold else p.2.1 + dn
  (t, g % 2 ^ 64, p.2.2.1 || monNonfinite m new, p.2.2.2 || ov != 0)

/-- Count a write of the bytes at some offsets from an address of a die's HBM; `net` for atomics (R399). -/
def monWrite (old new : State) (die launch : Nat) (va : Word) (pa : Nat) (written : List Nat) (net : Bool) : State :=
  new.modLaunch launch (fun l => { l with monitors := l.monitors.map (fun (k, m) =>
    if m.armed then
      let els := monElems m va pa written
      if els.isEmpty then (k, m)
      else
        let p := (SMap.find die m.parts).getD (0, 0, false, false)
        let p' := els.foldl (fun p e => monEvent m (net || m.net) e.1 (readNat old.mem e.2 (monBytes m.fmt))
          (readNat new.mem e.2 (monBytes m.fmt)) p) p
        (k, { m with parts := SMap.put die p' m.parts })
    else (k, m)) })

/-! ### Events to the host (R416, R431) -/

/-- Set an FEVENT bit; a bit that rises sends the function's vector when IEN is set. -/
def raiseEvent (s : State) (fn bit : Nat) : State :=
  let f := s.function fn
  if f.fevent.getLsbD bit then s
  else
    let s' := s.modFunction fn (fun f => { f with fevent := f.fevent ||| (1#64 <<< bit) })
    if f.fevctl.getLsbD 0 then sendMsix s' fn (bitsOf f.fevctl.toNat 1 6) else s'

/-! ### Order logs -/

/-- The order-log registers of a function on a die (R404). -/
def orderLog (s : State) (die fn : Nat) : OrderLog := (SMap.find fn (s.die die).logs).getD {}

def modOrderLog (s : State) (die fn : Nat) (f : OrderLog → OrderLog) : State :=
  s.modDie die (fun d => { d with logs := SMap.put fn (f (orderLog s die fn)) d.logs })

/-- KIND, FN and SZ of an event that needs a record (R405); none for an access that needs none. -/
def logKind (a : Acc) : Option (Nat × Nat × Nat) :=
  match a.op with
  | .atomic fn _ => some (1, fn.code, b2n (a.size == 8))
  | .cas _ _ => some (1, 0, b2n (a.size == 8))
  | .amox _ _ => some (1, 0, 1)
  | .amor fn _ _ _ _ => some (2, fn.code, b2n (a.size == 8))
  | .fe op _ =>
    some (3, (match op with
      | .ldfe => 0 | .ldff => 1 | .stef => 2 | .stfl => 3 | .sete => 0 | .setf => 1 | .feq => 2), 1)
  | .load => if a.log then some (4, 0, b2n (a.size == 8)) else none
  | .collRead => none
  | .store _ => if a.log then some (5, 0, b2n (a.size == 8)) else none
  | .coll _ => none
  | .rowAdd _ _ => if a.log then some (5, 0, 0) else none
  | .signal _ _ => none

/-- Does the access need a record at its home? Only in a free launch with LOG set. -/
def needsRecord (s : State) (a : Acc) : Bool :=
  let l := s.launchOf a.who.task
  l.log && !l.det && !a.who.quiet && (logKind a).isSome && (homeDie s a.home).isSome

/-- A record's bits (R405). -/
def orderRecord (s : State) (a : Acc) (p : Party) (kind fn sz : Nat) (round : Bool) : Nat :=
  let l := s.launchOf p.task
  s.clock.toNat + 2 ^ 64 * homeSource s a.home + 2 ^ 80 * kind + 2 ^ 88 * (l.fn % 256)
    + 2 ^ 96 * l.launchId.toNat + 2 ^ 128 * (if round then 0 else (s.task p.task).lcore % 2 ^ 12)
    + 2 ^ 140 * (if round then 0 else p.strand % 8) + 2 ^ 143 * (if round then 0 else b2n (p.queue.any (· != 0)))
    + 2 ^ 144 * (fn % 16) + 2 ^ 148 * sz + 2 ^ 192 * a.va.toNat

/-- A record finds no room: FULL is set and the log-full interrupt raised (R406, R416). -/
def refuseRecord (s : State) (die fn : Nat) : State :=
  raiseEvent (modOrderLog s die fn (fun g => { g with full := true })) fn 1

/-- Write one 32-byte record at LOGWP: none when there is no room, and FULL is then set (R406). -/
def writeRecord (s : State) (die fn rec_ : Nat) : State × Bool :=
  let g := orderLog s die fn
  if g.limit.toNat < g.wp.toNat + 32 then (refuseRecord s die fn, false)
  else
    match directWrite s fn g.wp true (bytesOf rec_ 32) with
    | .ok s' => (modOrderLog s' die fn (fun g => { g with wp := g.wp + 32 }), true)
    | .error _ => (refuseRecord s die fn, false)

/-- The record at a log address. -/
def recordAt (s : State) (fn : Nat) (va : Word) : Option Nat :=
  match directRead s fn va true 32 with
  | .ok bs => some (leNat bs)
  | .error _ => none

/-- In replay: the address of a home's next record, at or after LOGRP (R408). -/
def nextRecord (s : State) (die fn source : Nat) : Nat → Word → Option (Word × Nat)
  | 0, _ => none
  | n + 1, va =>
    let g := orderLog s die fn
    if g.limit.toNat < va.toNat + 32 then none
    else
      match recordAt s fn va with
      | none => none
      | some r =>
        if bitsOf r 64 16 = source ∧ va.toNat ∉ g.consumed then some (va, r)
        else nextRecord s die fn source n (va + 32)

/-- Consume a record; LOGRP passes every consumed record at its front. -/
def consumeRecord (g : OrderLog) (va : Word) : OrderLog :=
  let c := va.toNat :: g.consumed
  let rec front : Nat → Word → Word
    | 0, rp => rp
    | n + 1, rp => if rp.toNat ∈ c then front n (rp + 32) else rp
  let rp := front c.length g.rp
  { g with rp, consumed := c.filter (fun x => rp.toNat ≤ x) }

/-- Do KIND, LCORE, STRAND, ENG, FN, SZ and ARG of two records match? -/
def recordsMatch (a b : Nat) : Bool := bitsOf a 80 8 == bitsOf b 80 8 && bitsOf a 128 128 == bitsOf b 128 128

/-- What the order log says of an access about to perform. -/
inductive LogAnswer where
  | go (s : State)
  | full
  | hold
deriving Inhabited

/-- Reserve and write, or match and consume, the records of an access: one per party it carries. -/
def logAccess (s : State) (a : Acc) : LogAnswer :=
  if !needsRecord s a then .go s
  else
    match logKind a, homeDie s a.home with
    | some (kind, fn, sz), some die =>
      let vf := (s.launchOf a.who.task).fn
      let round := kind == 2
      (if round then [a.who] else a.who :: a.members).foldl (fun ans p =>
        match ans with
        | .hold => .hold
        | .full => .full
        | .go s =>
          let r := orderRecord s a p kind fn sz round
          let g := orderLog s die vf
          if g.replay then
            match nextRecord s die vf (homeSource s a.home) ((g.limit - g.rp).toNat / 32 + 1) g.rp with
            | none => .hold
            | some (va, want) =>
              if recordsMatch want r then .go (modOrderLog s die vf (fun g => consumeRecord g va)) else .hold
          else
            match writeRecord s die vf r with
            | (s', true) => .go s'
            | (_, false) => .full) (.go s)
    | _, _ => .go s

/-! ### Levels of queues (R157, R158) -/

/-- A task that waits for a core: accepted and never placed, or switched out. -/
def waitsForCore (t : Task) : Bool :=
  !t.ended && !t.killed && (match t.place with
    | .ready => true
    | .saved => true
    | .running _ => false
    | .parked => false)

/-- The die of a grid position for a function (R150). -/
def gridDie (s : State) (fn x y : Nat) (module : Nat) : Option Nat :=
  let pod := (s.function fn).podPartition
  let m := if pod then (y / 16) * 4 + x / 16 else module
  let d := (x % 16) / 4 + 4 * ((y % 16) / 8)
  if (pod || (x < 16 && y < 16)) && (SMap.find (8 * m + d) s.dies).isSome then some (8 * m + d) else none

/-- Positions of a launch, in rising LY × 64 + LX. -/
def positions (l : Launch) : List (Nat × Nat) :=
  (List.range l.height).flatMap (fun y => (List.range l.width).map (fun x => (x, y)))

/-- A launch waits in its queue unaccepted, with a position on the die (R158, R160). -/
def launchWaits (s : State) (die queue : Nat) (l : Launch) : Bool :=
  l.phaseOf == .waiting && l.queue == queue
    && (positions l).any (fun p => gridDie s l.fn (l.ox + p.1) (l.oy + p.2) (moduleOf die) == some die)

/-- The queue is not empty on the die: a task of it waits there for a core, or a launch that falls on the die waits. -/
def queueWaits (s : State) (die queue : Nat) : Bool :=
  s.tasks.any (fun e => e.2.die == die && waitsForCore e.2 && (s.launch e.2.launch).queue == queue)
    || s.launches.any (fun e => launchWaits s die queue e.2)

/-- The earlier of a launch found so far and another. -/
def earlier (b : Option Launch) (l : Launch) : Option Launch :=
  match b with
  | none => some l
  | some x => if l.serial < x.serial then some l else some x

/-- The head launch of a queue on a die, which the spec leaves undefined (DESIGN CHOICE, log entry 138): the earliest
accepted launch with a task that waits there, else the earliest launch that waits unaccepted and falls on the die. -/
def headLaunch (s : State) (die queue : Nat) : Option Launch :=
  (s.tasks.foldl (fun b e =>
    let l := s.launch e.2.launch
    if e.2.die == die && waitsForCore e.2 && l.queue == queue then earlier b l else b) none).orElse (fun _ =>
      s.launches.foldl (fun b e => if launchWaits s die queue e.2 then earlier b e.2 else b) none)

/-- A task has begun to wait for a core: a queue of which nothing waited waits from now (R158). -/
def beginWait (before s : State) (die queue : Nat) : State :=
  if queueWaits before die queue then s
  else s.modDie die (fun d =>
    let l : QueueLevel := { level := ((SMap.find queue d.levels).getD {}).level, since := s.clock }
    { d with levels := SMap.put queue l d.levels })

/-- Highest level the driver lets a function have on a die. -/
def vfLevel (s : State) (die fn : Nat) : Nat := SMap.get 7 (s.die die).vfmax fn

/-- Base level of a launch's queue on a die: the PRIO of its head launch, or of the launch itself where none waits, under
the function's maximum (R157, log entry 138). -/
def baseLevel (s : State) (die : Nat) (l : Launch) : Nat :=
  let h := (headLaunch s die l.queue).getD l
  min h.prio (vfLevel s die h.fn)

/-- Effective level of a queue on a die: its base, or what it has risen to (R158). -/
def effLevel (s : State) (die : Nat) (l : Launch) : Nat :=
  max (baseLevel s die l) ((SMap.find l.queue (s.die die).levels).getD {}).level

/-! ### The scheduler log (R168, R169) -/

/-- May so many scheduler records of a launch be written on a die, or is none needed? -/
def slogRoomFor (s : State) (die launch n : Nat) : Bool :=
  let d := s.die die
  !(s.launch launch).log || decide (d.slogwp.toNat + 32 * n ≤ d.sloglimit.toNat)

/-- May a scheduler record be written, or is none needed? -/
def slogRoom (s : State) (die launch : Nat) : Bool := slogRoomFor s die launch 1

/-- Write a scheduler record of a LOG launch at SLOGWP, a physical address (log entry 12), with a LEVEL. -/
def slogAt (s : State) (die launch level kind lcore pcore arg : Nat) : State :=
  let l := s.launch launch
  let d := s.die die
  if l.log && decide (d.slogwp.toNat + 32 ≤ d.sloglimit.toNat) then
    let r := s.clock.toNat + 2 ^ 64 * sourceNo (dieStation die) 0xF0 + 2 ^ 80 * kind + 2 ^ 88 * (l.fn % 256)
      + 2 ^ 96 * l.launchId.toNat + 2 ^ 128 * (lcore % 2 ^ 12) + 2 ^ 140 * (pcore % 64) + 2 ^ 146 * (level % 8)
      + 2 ^ 152 * (l.queue % 2 ^ 12) + 2 ^ 192 * arg
    let s' := writePa s l.fn d.slogwp.toNat ((bytesOf r 32).map some)
    s'.modDie die (fun d => { d with slogwp := d.slogwp + 32 })
  else s

/-- Write a scheduler record whose LEVEL is the effective level of the launch's queue on the die. -/
def slog (s : State) (die launch kind lcore pcore arg : Nat) : State :=
  slogAt s die launch (effLevel s die (s.launch launch)) kind lcore pcore arg

/-- A decision about a launch that a record of the scheduler log goes with: without room for so many it is held, and the
log-full interrupt is raised (R169). -/
def logged (s : State) (die launch n : Nat) (f : State → State) : State :=
  if slogRoomFor s die launch n then f s else raiseEvent s (s.launch launch).fn 0

end Sys2Proof.Machine
end

