-- ==== Sys2Proof/Machine/Homes.lean ====
section
/-!
DEFINITION. Accesses performing at their home as one event: loads, stores, atomics, semaphore signals, full/empty
operations and AMOR rounds (R65, R104, R105, R113, R114, R121, R134, R135, R228 to R233).
-/
namespace Sys2Proof.Machine

/-! ### Bytes of a home -/

/-- Bytes at an address of a home. -/
def homeRead (s : State) (h : Home) (addr n : Nat) : Nat :=
  match h with
  | .spad t => if isHeritage addr then readNat (s.task t).heritage (addr - 0x600000) n else readNat (s.task t).spad addr n
  | .hbm _ => readNat s.mem addr n
  | .host _ => readNat s.mem addr n
  | .window _ => readNat s.win addr n

/-- A store at the own scratchpad, a signal or a full/empty change ends every IDLE of the task (R243). -/
def Task.wake (t : Task) : Task := { t with strands := t.strands.map (fun (k, x) => (k, { x with idle := none })) }

/-- Write enabled bytes at an address of a home, for a function. -/
def homeWrite (s : State) (fn : Nat) (h : Home) (addr : Nat) (bs : List (Option Byte)) : State :=
  match h with
  | .spad t =>
    s.modTask t (fun x =>
      if isHeritage addr then { x with heritage := writeEnabled x.heritage (addr - 0x600000) bs }
      else Task.wake { x with spad := writeEnabled x.spad addr bs })
  | .hbm _ => writePa s fn addr bs
  | .host _ => writePa s fn addr bs
  | .window _ => { s with win := writeEnabled s.win addr bs }

/-- A number as enabled bytes. -/
def enabledBytes (v n : Nat) : List (Option Byte) := (bytesOf v n).map some

/-- An uncorrectable word lies under the access (R172, R315, R354). -/
def homeBad (s : State) (h : Home) (addr n : Nat) : Bool :=
  let words := match h with
    | .spad t => (s.task t).badWords
    | .hbm _ => s.badWords
    | .host _ => s.badWords
    | .window _ => []
  words.any (fun w => w < (addr + n + 7) / 8 && addr / 8 ≤ w)

/-- A store of a whole word replaces an uncorrectable one (log entry 18). -/
def clearBad (s : State) (h : Home) (addr n : Nat) : State :=
  let keep := fun (w : Nat) => !(addr ≤ 8 * w && 8 * w + 8 ≤ addr + n)
  match h with
  | .spad t => s.modTask t (fun x => { x with badWords := x.badWords.filter keep })
  | .hbm _ => { s with badWords := s.badWords.filter keep }
  | .host _ => { s with badWords := s.badWords.filter keep }
  | .window _ => s

/-! ### Semaphores (R65, R184, R238) -/

/-- Add a signal: saturate at 0x7FFF_FFFF and set E, E with the signal, OBS cleared by whatever sets E. -/
def Sem.add (x : Sem) (inc : Nat) (e : Bool) : Sem :=
  let ovf := decide (0x7FFFFFFF < x.count + inc)
  let sets := ovf || e
  { count := min (x.count + inc) 0x7FFFFFFF, e := x.e || sets, obs := x.obs && !sets }

/-- The semaphore word (R65). -/
def Sem.word (x : Sem) : Nat := x.count + 2 ^ 31 * b2n x.e

/-- A signal to a semaphore of a task; an increment of 0 without E changes nothing. -/
def signalSem (s : State) (t n inc : Nat) (e : Bool) : State :=
  s.modTask t (fun x => (x.setSem n ((x.sem n).add inc e)).wake)

/-! ### Atomic operations (R228, R230, R233) -/

/-- op(o, v) on w bits. -/
def atomOp (fn : AtomFn) (w o v : Nat) : Nat :=
  match fn with
  | .add => (o + v) % 2 ^ w
  | .and => o &&& v
  | .or => o ||| v
  | .xor => o ^^^ v
  | .min => if sintOf w o ≤ sintOf w v then o else v
  | .max => if sintOf w o ≤ sintOf w v then v else o
  | .minu => min o v
  | .maxu => max o v
  | .swap => v
  | .fadd32 => (fadd32 o v).1
  | .fmin32 => if totalRank o ≤ totalRank v then o else v
  | .fmax32 => if totalRank o ≤ totalRank v then v else o

/-- One element add of a GSCAT row: INT32 wraps, floats round to nearest even (R350). -/
def elemAdd (et o v : Nat) : Nat :=
  match fmtOf et with
  | some f => (roundTo f 0 false 0 (Ex.add 0 (f.decode o) (f.decode v)).1).1
  | none => (o + v) % 2 ^ (8 * typeBytes et)

/-! ### One access at its home -/

/-- What came of an access at its home. -/
inductive Done where
  | ok (s : State) (r : Reply)
  | trap (s : State) (t : Trap)
  /-- held by replay (R408) -/
  | held
deriving Inhabited

/-- Count a performed write at the monitors of its launch (R399). -/
def countWrite (old new : State) (a : Acc) (written : List Nat) (net : Bool) : State :=
  match a.home with
  | .hbm d => if a.who.quiet then new else monWrite old new d (old.task a.who.task).launch a.va a.addr written net
  | .spad _ => new
  | .host _ => new
  | .window _ => new

/-- A store of enabled bytes, counted by the monitors. -/
def doStore (s : State) (a : Acc) (bs : List (Option Byte)) : State :=
  let s1 := homeWrite s (s.launchOf a.who.task).fn a.home a.addr bs
  let s1 := if bs.all Option.isSome then clearBad s1 a.home a.addr bs.length else s1
  countWrite s s1 a ((List.range bs.length).filter (fun i => (bs.getD i none).isSome)) false

/-- An atomic's new value, counted as its change. -/
def doAtomic (s : State) (a : Acc) (n v : Nat) : State :=
  countWrite s (homeWrite s (s.launchOf a.who.task).fn a.home a.addr (enabledBytes v n)) a (List.range n) true

/-- AMOX at its home: old value and new value with saturation (R233). -/
def amoxStep (x : Nat) (j : Int) : Nat × Bool :=
  let (y, f) := xwSat (sintOf 128 x + j)
  (wrapNat 128 y, f != 0)

/-- Element adds over consecutive elements. -/
def doRowAdd (s : State) (a : Acc) (et : Nat) : Nat → List Nat → State
  | _, [] => s
  | i, v :: vs =>
    let n := typeBytes et
    let e := { a with addr := a.addr + i * n, va := a.va + w64 (i * n) }
    doRowAdd (doAtomic s e n (elemAdd et (homeRead s a.home e.addr n) v)) a et (i + 1) vs

/-- The effect of an access at its home, its checks passed: new state and reply. -/
def accEffect (s : State) (a : Acc) : State × Reply :=
  match a.op with
  | .load =>
    match a.home with
    | .spad t =>
      if isSemAddr a.addr then (s, .data ((s.task t).sem ((a.addr - 0x700000) / 4)).word)
      else (s, .data (homeRead s a.home a.addr a.size))
    | .hbm _ => (s, .data (homeRead s a.home a.addr a.size))
    | .host _ => (s, .data (homeRead s a.home a.addr a.size))
    | .window _ => (s, .data (homeRead s a.home a.addr a.size))
  | .collRead => (s, .data (homeRead s a.home a.addr a.size))
  | .store bs => (doStore s a bs, .ack false)
  | .coll bs => (doStore s a bs, .ack false)
  | .atomic fn v =>
    let o := homeRead s a.home a.addr a.size
    (doAtomic s a a.size (atomOp fn (8 * a.size) o v), if a.nr then .ack false else .data o)
  | .cas cmp new =>
    let o := homeRead s a.home a.addr a.size
    (if o = cmp then doAtomic s a a.size new else s, .data o)
  | .amox _ j =>
    let o := homeRead s a.home a.addr 16
    let (y, ovf) := amoxStep o j
    (doAtomic s a 16 y, if a.nr then .ack ovf else if ovf then .dataOvf o else .data o)
  | .signal inc e =>
    match a.home with
    | .spad t => (signalSem s t ((a.addr - 0x700000) / 4) inc e, .ack false)
    | .hbm _ => (s, .ack false)
    | .host _ => (s, .ack false)
    | .window _ => (s, .ack false)
  | .rowAdd et vals => (doRowAdd s a et 0 vals, .ack false)
  | .amor _ _ _ _ _ => (s, .ack false)
  | .fe _ _ => (s, .ack false)

/-- Reads a value, so that an uncorrectable word under it is met. -/
def readsData (a : Acc) : Bool :=
  match a.op with
  | .load => true
  | .collRead => true
  | .atomic _ _ => true
  | .cas _ _ => true
  | .amox _ _ => true
  | .rowAdd _ _ => true
  | .store _ => false
  | .coll _ => false
  | .signal _ _ => false
  | .amor _ _ _ _ _ => true
  | .fe _ _ => false

/-- The order log of the access's home has no room (R406). -/
def logFull (s : State) (a : Acc) : State := refuseRecord s ((homeDie s a.home).getD 0) (s.launchOf a.who.task).fn

/-- The bytes an access that performs writes, as offsets from its first. -/
def Acc.wrote (a : Acc) : List Nat :=
  match a.op with
  | .store bs => (List.range bs.length).filter (fun i => (bs.getD i none).isSome)
  | .coll bs => (List.range bs.length).filter (fun i => (bs.getD i none).isSome)
  | _ => List.range a.span

/-- A store to a page the launch may fetch from leaves what each parcel held, for fetches that race it (R57). One that
changes nothing counts where an earlier store to the parcel may still be unseen. -/
def noteCode (old new : State) (a : Acc) : State :=
  if !a.exec then new
  else
    let parcels := (List.range ((a.addr % 4 + max 1 a.span + 3) / 4)).map (fun i => a.addr / 4 * 4 + 4 * i)
    let noted := parcels.filter (fun pa =>
      readNat old.mem pa 4 != readNat new.mem pa 4 || old.oldCode.any (fun o => o.pa == pa))
    let keep := fun (pa : Nat) => ({ launch := (old.task a.who.task).launch, task := a.who.task, strand := a.who.strand,
                                     pa := pa, old := readNat old.mem pa 4, new := readNat new.mem pa 4,
                                     wrote := (List.range 4).filter (fun i => decide (a.addr ≤ pa + i) && a.wrote.contains (pa + i - a.addr)),
                                     after := (old.strand a.who.task a.who.strand).sysFences } : OldParcel)
    { new with oldCode := new.oldCode ++ noted.map keep }

/-- An access performs at its home as one event: uncorrectable data, the conflict rule, the order log, the effect. -/
def performAt (s : State) (a : Acc) : Done :=
  if readsData a && homeBad s a.home a.addr a.size then .trap s { cause := 19, tval := a.va }
  else
    match stampCheck s a with
    | .error t => .trap s t
    | .ok s1 =>
      match logAccess s1 a with
      | .hold => .held
      | .full => .trap (logFull s a) { cause := 23, tval := a.va }
      | .go s2 =>
        let (s3, r) := accEffect s2 a
        .ok (noteCode s2 s3 a) r

/-! ### Full/empty words (R113, R114) -/

/-- Can the operation proceed on a word that is full or empty? -/
def FeOp.ready (op : FeOp) (full : Bool) : Bool :=
  match op with
  | .ldfe => full
  | .ldff => full
  | .stef => !full
  | .stfl => true
  | .sete => true
  | .setf => true
  | .feq => true

/-- The bit after the operation. -/
def FeOp.after (op : FeOp) (full : Bool) : Bool :=
  match op with
  | .ldfe => false
  | .ldff => true
  | .stef => true
  | .stfl => true
  | .sete => false
  | .setf => true
  | .feq => full

/-- The full/empty bit of a word of a task's scratchpad. -/
def isFull (t : Task) (w : Nat) : Bool := t.full.contains w

/-- Set the full/empty bit; the list of full words stays without repeats and rising. -/
def setFull (t : Task) (w : Nat) (b : Bool) : Task :=
  let l := t.full.filter (· != w)
  { t with full := if b then l.takeWhile (· < w) ++ w :: l.dropWhile (· < w) else l }

/-- The home task of a scratchpad access. -/
def Acc.spadTask (a : Acc) : Nat :=
  match a.home with
  | .spad t => t
  | .hbm _ => 0
  | .host _ => 0
  | .window _ => 0

/-- Test the bit, move the data and set the bit as one event (R113), with its stamp check and record. -/
def feStep (s : State) (a : Acc) (op : FeOp) (v : Nat) : Done :=
  let t := a.spadTask
  let w := a.addr / 8
  if (op == .ldfe || op == .ldff) && homeBad s a.home a.addr 8 then .trap s { cause := 19, tval := a.va }
  else
    match stampCheck s a with
    | .error e => .trap s e
    | .ok s1 =>
      match logAccess s1 a with
      | .hold => .held
      | .full => .trap (logFull s a) { cause := 23, tval := a.va }
      | .go s2 =>
        let full := isFull (s2.task t) w
        let r : Reply := match op with
          | .ldfe => .data (homeRead s2 a.home a.addr 8)
          | .ldff => .data (homeRead s2 a.home a.addr 8)
          | .feq => .data (b2n full)
          | .stef => .ack false
          | .stfl => .ack false
          | .sete => .ack false
          | .setf => .ack false
        let s3 := match op with
          | .stef => homeWrite s2 0 a.home a.addr (enabledBytes v 8)
          | .stfl => homeWrite s2 0 a.home a.addr (enabledBytes v 8)
          | .ldfe => s2
          | .ldff => s2
          | .sete => s2
          | .setf => s2
          | .feq => s2
        let changed := op.after full != full
        .ok (s3.modTask t (fun x => if changed then (setFull x w (op.after full)).wake else x)) r

/-- The waiters of a word that have not had their turn, in arrival order. -/
def waitersOf (t : Task) (w : Nat) : List FeWaiter := t.feWaiters.filter (fun x => x.acc.addr / 8 == w && x.granted.isNone)

/-- Does the freeze of a task let the strand issue? Only its handler does, and not while the trap's action waits for room in
the scheduler log (R169, R175). -/
def freezeLets (t : Task) (k : Nat) : Bool :=
  match t.freeze with
  | none => true
  | some f => f.strand == k && (t.strand k).r.hnd && t.heldAction.isNone

/-- A waiter can be served: a strand of the task itself only while its task runs and a freeze lets the strand issue, which
waits at the operation still (R163, R175). -/
def servable (t : Task) (x : FeWaiter) : Bool :=
  x.req.isSome || (t.core?.isSome && t.leaving.isNone && freezeLets t x.acc.who.strand
    && (t.freeze.isNone || (t.strand x.acc.who.strand).r.pc == x.acc.who.pc))

/-- The operation of a full/empty access. -/
def Acc.feOp (a : Acc) : FeOp × Nat :=
  match a.op with
  | .fe op v => (op, v)
  | _ => (.feq, 0)

/-- The first waiter of a word that can proceed. -/
def firstReady (t : Task) (w : Nat) : Option FeWaiter :=
  (waitersOf t w).find? (fun x => servable t x && x.acc.feOp.1.ready (isFull t w))

/-- A response on its way to a requester at a station. -/
structure Answer where
  req : Requester
  station : Nat
  acc : Acc
  reply : Reply
deriving Inhabited

/-- Serve the waiters of a word one at a time, in arrival order, until none can proceed (R114). Remote ones are answered;
a strand of the task itself finds its answer, or the fault it met, when it issues again. -/
def serveWord (t w : Nat) : Nat → State → List Answer → State × List Answer
  | 0, s, out => (s, out)
  | n + 1, s, out =>
    match firstReady (s.task t) w with
    | none => (s, out)
    | some x =>
      let put := fun (y : State) (l : List FeWaiter) => y.modTask t (fun k => { k with
        feWaiters := k.feWaiters.flatMap (fun z => if z = x then l else [z]) })
      let (op, v) := x.acc.feOp
      match x.req, feStep s x.acc op v with
      | _, .held => (s, out)
      | none, .trap s' e => serveWord t w n (put s' [{ x with granted := some (.fault e) }]) out
      | none, .ok s' r => serveWord t w n (put s' [{ x with granted := some r }]) out
      | some (req, station), .trap s' e =>
        serveWord t w n (put s' []) (out ++ [{ req, station, acc := x.acc, reply := .fault e }])
      | some (req, station), .ok s' r =>
        serveWord t w n (put s' []) (out ++ [{ req, station, acc := x.acc, reply := r }])

/-- Serve a word for as long as waiters remain. -/
def serve (s : State) (t w : Nat) : State × List Answer :=
  serveWord t w ((s.task t).feWaiters.length) s []

/-- Serve every word that has waiters, after some of them have gone. -/
def serveAll (s : State) (t : Nat) : State × List Answer :=
  ((s.task t).feWaiters.map (fun x => x.acc.addr / 8)).dedup.foldl (fun (s, out) w =>
    let (s', l) := serve s t w
    (s', out ++ l)) (s, [])

/-! ### AMOR rounds (R135, R232, R375) -/

/-- A number for a location, the same for one home and address only. -/
def locKey (h : Home) (addr : Nat) : Nat :=
  match h with
  | .spad t => 4 * (t * 2 ^ 24 + addr)
  | .hbm _ => 4 * addr + 1
  | .host _ => 4 * addr + 1
  | .window _ => 4 * addr + 2

/-- Is a rank range disjoint from every recorded one? -/
def rangeFree (r : Round) (lo hi : Nat) : Bool := r.parts.all (fun p => hi < p.lo || p.hi < lo)

/-- Ranks recorded in a round. -/
def ranksIn (r : Round) : Nat := r.parts.foldl (fun n p => n + (p.hi - p.lo + 1)) 0

/-- Insert a part by its lowest rank. -/
def insertPart (p : RoundPart) : List RoundPart → List RoundPart
  | [] => [p]
  | q :: r => if p.lo < q.lo then p :: q :: r else q :: insertPart p r

/-- The answer to a part of a round. -/
def RoundPart.answer (p : RoundPart) (r : Reply) : Answer := { req := p.req, station := p.station, acc := p.acc, reply := r }

/-- Apply a full round in rank order: the final value and the answers. -/
def applyParts (fn : AtomFn) (w : Nat) : Nat → List RoundPart → Nat × List Answer
  | o, [] => (o, [])
  | o, p :: r =>
    let (z, out) := applyParts fn w (atomOp fn w o p.v) r
    (z, p.answer (if p.acc.nr then .ack false else .data o) :: out)

/-- STAMP_CHECK of the parts of a round in rank order, as they perform (R130): the state with the stamps, the parts that
pass, and the faults of those that do not. -/
def stampParts : State → List RoundPart → State × List RoundPart × List Answer
  | s, [] => (s, [], [])
  | s, p :: r =>
    match stampCheck s p.acc with
    | .ok s1 =>
      let (s2, l, out) := stampParts s1 r
      (s2, p :: l, out)
    | .error e =>
      let (s2, l, out) := stampParts s r
      (s2, l, p.answer (.fault e) :: out)

/-- A full round performs as one event, its access `a` that of the last contribution. Contributions that breach the
conflict rule trap and leave the round, which then waits on (log entry 104). A held round (replay) stays full and open. -/
def performRound (s : State) (key : Nat) (r : Round) (a : Acc) : State × List Answer :=
  let (s1, kept, faults) := stampParts s r.parts
  if !faults.isEmpty then
    ({ s with rounds := if kept.isEmpty then SMap.del key s.rounds else SMap.put key { r with parts := kept } s.rounds }, faults)
  else
    match logAccess s1 a with
    | .hold => (s, [])
    | .full =>
      (logFull s a, (r.parts.filter (fun p => p.acc == a)).map (fun p => p.answer (.fault { cause := 23, tval := a.va })))
    | .go s2 =>
      let (z, out) := applyParts r.fn (8 * a.size) (homeRead s2 a.home a.addr a.size) r.parts
      let s3 := noteCode s2 (doAtomic s2 a a.size z) a
      let l := s.launchOf a.who.task
      ({ s3 with
        rounds := SMap.del key s3.rounds,
        roundsDone := if l.det then ((s.task a.who.task).launch, key) :: s3.roundsDone else s3.roundsDone }, out)

/-- A contribution, or a merged range of them, arrives at the home (R232, R375). -/
def contribute (s : State) (a : Acc) (req : Requester) (station : Nat) : State × List Answer :=
  match a.op with
  | .amor fn n lo hi v =>
    let key := locKey a.home a.addr
    let reject : Answer := { req, station, acc := a, reply := .fault { cause := 15, tval := a.va } }
    let r := (SMap.find key s.rounds).getD { acc := a, fn, n, parts := [] }
    if (s.launchOf a.who.task).det && s.roundsDone.contains ((s.task a.who.task).launch, key) then (s, [reject])
    else if r.n ≠ n ∨ r.fn ≠ fn ∨ r.acc.size ≠ a.size ∨ !rangeFree r lo hi ∨ n ≤ hi then (s, [reject])
    else
      let r' := { r with parts := insertPart { lo, hi, v, req, station, acc := a } r.parts }
      if ranksIn r' < n then ({ s with rounds := SMap.put key r' s.rounds }, [])
      else if homeBad s a.home a.addr a.size then
        (s, [{ req, station, acc := a, reply := .fault { cause := 19, tval := a.va } }])
      else performRound s key r' a
  | _ => (s, [])

end Sys2Proof.Machine
end

