-- ==== Sys2Proof/Machine/Access.lean ====
section
/-!
DEFINITION. Where an address leads and when a strand's access may issue: the address map (R102, R103), translation
(R188, R189), the alias window (R112), ordering (R107 to R110, R120, R123, R125, R136), reply buffers (R122), and
requests on their way (R365).
-/
namespace Sys2Proof.Machine

/-! ### Places -/

/-- Where an access goes, with the attributes of its page. -/
structure Place where
  home : Home
  addr : Nat
  tso : Bool := false
  log : Bool := false
  tag : Nat := 0
  exec : Bool := false
  global : Bool := false
deriving DecidableEq, Repr, Inhabited

/-- The task at a position of a launch. -/
def taskAt (s : State) (launch x y : Nat) : Option Nat :=
  (s.tasks.find? (fun e => e.2.launch == launch && e.2.lx == x && e.2.ly == y)).map (·.1)

/-- Offset and task a scratchpad address names: own window or a peer window, the own coordinates folded (R102). -/
def spadTarget (s : State) (t : Nat) (va : Word) : Option (Nat × Nat) :=
  let a := va.toNat
  if a < 0x800000 then some (t, a)
  else if 0x10000000000 ≤ a ∧ a < 0x10800000000 then
    let i := (a - 0x10000000000) / 0x800000
    (taskAt s (s.task t).launch (i % 64) (i / 64)).map (fun p => (p, (a - 0x10000000000) % 0x800000))
  else none

/-- An address with the own peer window folded into the own window. -/
def foldVa (s : State) (t : Nat) (va : Word) : Word :=
  match spadTarget s t va with
  | some (p, off) => if p = t then w64 off else va
  | none => va

/-- The cached translation of a page that the task's core or die holds (R189). -/
def tlbFind (s : State) (t fn page : Nat) : Option TlbEntry :=
  let d := s.die (s.task t).die
  let hit := fun (e : TlbEntry) => e.fn == fn && e.page == page
  let core := match (s.task t).core? with
    | some c => ((SMap.find c d.coreTlb).getD []).find? hit
    | none => none
  match core with
  | some e => some e
  | none => d.dieTlb.find? hit

/-- Translate one page for a task: from a cache, else the result of the requester's own walk, else a walk to wait for. -/
def translate (s : State) (t : Nat) (wf : Option (Nat × Trap)) (va : Word) (need : Need) : Except Stop TlbEntry :=
  let l := s.launchOf t
  let page := pageOf va
  match tlbFind s t l.fn page with
  | some e =>
    match denied e need l.sup with
    | some f => .error (.trap { cause := f.cause, tval := va, stage := f.stage })
    | none => .ok e
  | none =>
    match wf with
    | some (p, tr) => if p = page then .error (.trap { tr with tval := va }) else .error (.walk l.fn page)
    | none => .error (.walk l.fn page)

/-- Where `n` bytes at an address lie for a task; `her` in heritage state, `sem` when the semaphore block may be read
(R102 to R104, R191). The heritage working region is reached through the own window alone: that the own coordinates' peer
window does not lead there is the model's choice (DESIGN CHOICE, log entry 134). -/
def placeOf (s : State) (t : Nat) (her sem : Bool) (wf : Option (Nat × Trap)) (va : Word) (n : Nat) (need : Need) :
    Except Stop Place :=
  let bad : Nat → Except Stop Place := fun c => .error (.trap { cause := c, tval := va })
  if !canonical va then bad 8
  else if isGlobal va then
    match translate s t wf va need with
    | .error e => .error e
    | .ok e =>
      let pa := e.pa + va.toNat % 2 ^ 17
      match homeFor s (s.launchOf t).fn pa with
      | none => .error (.trap { cause := 8, tval := va, stage := true })
      | some h => .ok { home := h, addr := pa, tso := e.tso, log := e.log, tag := e.tag, exec := e.vx && e.hx, global := true }
  else if 0x20000000000 ≤ va.toNat ∧ va.toNat < 0x20001000000 then
    let off := va.toNat - 0x20000000000
    if SMap.get 0 s.wown (off / 65536) = 256 + (s.launchOf t).fn then
      .ok { home := .window (2 * moduleOf (s.task t).die + off / 0x800000), addr := off }
    else bad 8
  else
    match spadTarget s t va with
    | none => bad 9
    | some (p, off) =>
      if off + n ≤ (s.task p).spsize then .ok { home := .spad p, addr := off }
      else if her && p == t && va.toNat < 0x800000 && 0x600000 ≤ off && off + n ≤ 0x700000 then
        .ok { home := .spad p, addr := off }
      else if sem && isSemAddr off then .ok { home := .spad p, addr := off }
      else bad 9

/-! ### Ordering -/

/-- Does a scope contain a home, for a task (R119)? -/
def inScope (s : State) (t scope : Nat) (h : Home) : Bool :=
  let d := (s.task t).die
  let within := fun (e : Nat) =>
    if scope = 2 then e == d
    else if scope = 3 then e / 8 == d / 8
    else if scope = 4 then (s.function (s.launchOf t).fn).podPartition || e / 8 == d / 8
    else scope == 5
  match h with
  | .spad p => if scope ≤ 1 then p == t else within (s.task p).die
  | .hbm e => decide (2 ≤ scope) && within e
  | .host _ => scope == 5
  | .window _ => scope == 5

/-- The access class of a vector entry that accesses memory. -/
def entryClass (e : Entry) : Option Nat :=
  match e.cmd with
  | .vld f => some f.oc.toNat
  | .vst f => some f.oc.toNat
  | .vlds f => some f.oc.toNat
  | .vsts f => some f.oc.toNat
  | .vgath f => some f.oc.toNat
  | .vscat f => some f.oc.toNat
  | _ => none

/-- A POPV (R291). -/
def isPopv (i : Instr) : Bool :=
  match i with
  | .popv _ => true
  | _ => false

/-- A vector load (R284). -/
def isVecLoad (i : Instr) : Bool :=
  match i with
  | .vld _ => true
  | .vlds _ => true
  | .vgath _ => true
  | _ => false

/-- A vector entry has passed its fault point: it has started, and a load has every reply; a POPV has been checked at
the queue head (R260, R286, R291). -/
def Entry.passed (e : Entry) : Bool := if isPopv e.cmd then e.tookWt else e.started && !(isVecLoad e.cmd)

/-- A vector entry of the strand that has not passed its fault point (R260). -/
def shortOfFault (t : Task) (k : Nat) : Bool := (t.queue 0).any (fun e => e.strand == k && !e.passed)

/-- Vector memory entries and POPVs of the strand still in the queue (R263, R291). -/
def vecAccesses (t : Task) (k : Nat) : List Entry :=
  (t.queue 0).filter (fun e => e.strand == k && ((entryClass e).isSome || isPopv e.cmd))

/-- Is the fence still waiting for an access it covers? -/
def fenceOpen (t : Task) (st : Strand) (f : FenceRec) : Bool :=
  st.outs.any (fun o => f.outs.contains o.id) || (t.queue 0).any (fun e => f.entries.contains e.serial)

/-- A FENCE of system scope with MASK 0xFFFF (R57). -/
def isSystemFence (mask : BitVec 16) (scope : Nat) : Bool := mask == 0xFFFF && scope == 5

/-- System fences that a strand has completed; they complete in order. -/
def fencesDone (s : State) (t k : Nat) : Nat :=
  let x := s.strand t k
  x.sysFences - (x.fences.filter (fun g => isSystemFence g.mask g.scope && fenceOpen (s.task t) x g)).length

/-- A system fence of the storing strand has made the store visible to every fetch (R57). -/
def OldParcel.visible (s : State) (o : OldParcel) : Bool := o.done || decide (o.after < fencesDone s o.task o.strand)

/-- A parcel with the bytes that a later store has written to it. -/
def OldParcel.overlay (o : OldParcel) (v : Nat) : Nat :=
  leNat ((List.range 4).map (fun i => BitVec.ofNat 8 ((if o.wrote.contains i then o.new else v) / 2 ^ (8 * i))))

/-- What a fetch of a parcel at a physical address may read besides the present value: what it held before a store of the
launch that is not visible yet, with the bytes that later stores have written and made visible (R57). -/
def oldParcels (s : State) (launch pa : Nat) : List OldParcel → List Nat
  | [] => []
  | o :: r =>
    let here := fun (c : OldParcel) => c.launch == launch && c.pa == pa
    if here o && !(o.visible s) then
      (r.filter (fun c => here c && c.visible s)).foldl (fun v c => c.overlay v) o.old :: oldParcels s launch pa r
    else oldParcels s launch pa r

/-- A load, for total store order (R136); atomics are loads and stores. -/
def Acc.loads (a : Acc) : Bool :=
  match a.op with
  | .store _ => false
  | .signal _ _ => false
  | .coll _ => false
  | .load => true
  | .collRead => true
  | .atomic _ _ => true
  | .cas _ _ => true
  | .amox _ _ => true
  | .amor _ _ _ _ _ => true
  | .fe _ _ => true
  | .rowAdd _ _ => true

def Acc.stores (a : Acc) : Bool :=
  match a.op with
  | .load => false
  | .collRead => false
  | .fe op _ => !(op == .ldff || op == .feq)
  | .store _ => true
  | .signal _ _ => true
  | .coll _ => true
  | .atomic _ _ => true
  | .cas _ _ => true
  | .amox _ _ => true
  | .amor _ _ _ _ _ => true
  | .rowAdd _ _ => true

/-- Translation of a page as it stands: from a cache, else by a walk. -/
def peekPage (s : State) (t page : Nat) : Option TlbEntry :=
  let fn := (s.launchOf t).fn
  match tlbFind s t fn page with
  | some e => some e
  | none =>
    match walk s fn page with
    | .ok e => some e
    | .error _ => none

/-- Pages of global memory a range touches. -/
def spanPages (va : Word) (n : Nat) : List Nat :=
  if n = 0 ∨ !isGlobal va then []
  else (List.range ((va.toNat % 2 ^ 17 + n - 1) / 2 ^ 17 + 1)).map (fun i => pageOf va + i)

/-- A range touches a TSO page. -/
def touchesTso (s : State) (t : Nat) (va : Word) (n : Nat) : Bool :=
  (spanPages va n).any (fun p => (peekPage s t p).any (·.tso))

/-- A started vector access reaches a home of a scope; one that has not started may reach any (R120). -/
def entryInScope (s : State) (t scope : Nat) (e : Entry) : Bool := !e.started || e.homes.any (inScope s t scope)

/-- Two accesses touch a common byte of one home. -/
def Acc.meets (a b : Acc) : Bool :=
  a.home == b.home && decide (a.addr < b.addr + b.span) && decide (b.addr < a.addr + a.span)

/-- Identity of a request of one requester. -/
def Requester.id? (r : Requester) : Option Nat :=
  match r with
  | .acc _ id => some id
  | .entry _ => none
  | .list _ => none

/-- A word of a vector entry that has not performed meets an access: one still to be sent, or under way. -/
def entryMeets (s : State) (e : Entry) (a : Acc) : Bool :=
  e.rest.any (fun b => b.meets a)
    || s.net.any (fun m => m.2.acc.meets a && (match m.2.req.id? with
      | some i => e.pending.contains i
      | none => false))

/-- A started vector access holds a new access of its strand back: class 15 or the same class, a home to which it has a
redirected request under way, or on a TSO page a store, and a load of what the vector access stores (R107, R110, R125,
R136). -/
def entryBlocks (s : State) (e : Entry) (a : Acc) : Bool :=
  a.cls == 15 || entryClass e == some 15 || entryClass e == some a.cls || e.reissued.any (fun r => r.2 == a.home)
    || (e.tso && a.tso && (a.stores || (!isVecLoad e.cmd && entryMeets s e a)))

/-- Must a new access wait for an outstanding one of the same strand? (R107, R110, R123, R125, R136, R406) -/
def mustFollow (s : State) (t : Nat) (o : Outstanding) (a : Acc) (lazy : Bool) : Bool :=
  let own := o.acc.home == .spad t
  o.acc.cls == 15 || a.cls == 15 || needsRecord s o.acc
    || (o.reissued && o.acc.home == a.home)
    || (o.acc.cls == a.cls && (o.acc.home != a.home || (own && !lazy)))
    || (o.acc.tso && a.tso && ((o.acc.loads && (a.loads || a.stores)) || (o.acc.stores && (a.stores || o.acc.meets a))))

/-- The access waits without bound in its home's queue: a full/empty operation or an AMOR contribution there (R223, R246). -/
def waitsAtHome (o : Outstanding) : Bool :=
  o.accepted && (match o.acc.op with
    | .fe _ _ => true
    | .amor _ _ _ _ _ => true
    | .load => false
    | .store _ => false
    | .atomic _ _ => false
    | .cas _ _ => false
    | .amox _ _ => false
    | .signal _ _ => false
    | .rowAdd _ _ => false
    | .coll _ => false
    | .collRead => false)

/-- A request that has still to reach its home, of one of some identities. -/
def stillOut (s : State) (ids : List Nat) : Bool :=
  s.net.any (fun m => m.2.reply.isNone && (match m.2.req.id? with
    | some i => ids.contains i
    | none => false))

/-- An access that the issuer of the strand's SFORK had made has still to perform before the strand's first one (R223); the
issuer may have ended since. -/
def forkHeld (s : State) (t k : Nat) : Bool :=
  match (s.strand t k).after with
  | none => false
  | some f => (s.strand t f.issuer).outs.any (fun o => f.outs.contains o.id && !waitsAtHome o)
      || stillOut s f.outs || ((s.task t).queue 0).any (fun e => f.entries.contains e.serial)

/-- Does the order of the strand's accesses hold this one back? -/
def orderBlocks (s : State) (t k : Nat) (a : Acc) (lazy : Bool) : Bool :=
  let task := s.task t
  let st := task.strand k
  shortOfFault task k || forkHeld s t k
    || st.outs.any (fun o => mustFollow s t o a lazy)
    || (vecAccesses task k).any (fun e => entryBlocks s e a)
    || st.fences.any (fun f => f.mask.getLsbD a.cls && inScope s t f.scope a.home && fenceOpen task st f)

/-- Byte ranges overlap. -/
def rangesOverlap (x y : List (Nat × Nat)) : Bool := x.any (fun p => y.any (fun q => p.1 < q.1 + q.2 && q.1 < p.1 + p.2))

/-- Does an entry of the alias window clash with an access (R112)? -/
def aliasClash (e : AliasEntry) (ranges : List (Nat × Nat)) (cls : Nat) (writes : Bool) : Bool :=
  e.cls != cls && (e.writes || writes) && !(e.fences.any (fun m => m.getLsbD e.cls && m.getLsbD cls))
    && rangesOverlap e.ranges ranges

/-- The alias window's answer to an access: clash, implicit drain to wait for, or the window with it. -/
inductive AliasAnswer where
  | clash
  | drain
  | window (w : List AliasEntry)
deriving DecidableEq, Repr, Inhabited

/-- The alias window of a strand meets an access. `idle` tells that every earlier access has performed. -/
def aliasStep (w : List AliasEntry) (ranges : List (Nat × Nat)) (cls : Nat) (writes idle : Bool) : AliasAnswer :=
  if cls = 15 then .window []
  else if 32 ≤ w.length then if idle then .window [({ ranges := ranges, cls := cls, writes := writes } : AliasEntry)] else .drain
  else if w.any (fun e => aliasClash e ranges cls writes) then .clash
  else .window (w ++ [({ ranges := ranges, cls := cls, writes := writes } : AliasEntry)])

/-- A FENCE passes through the window: MASK 0xFFFF is an ordering point (R112). -/
def aliasFence (w : List AliasEntry) (mask : BitVec 16) : List AliasEntry :=
  if mask = 0xFFFF then [] else w.map (fun e => { e with fences := e.fences ++ [mask] })

/-! ### Footprints of copy and gather commands (R361) -/

/-- The first byte of two overlapping ranges. -/
def overlapAt (x y : Nat × Nat) : Option Nat :=
  let lo := max x.1 y.1
  if lo < min (x.1 + x.2) (y.1 + y.2) then some lo else none

/-- The lowest of some numbers. -/
def leastOf (l : List Nat) : Option Nat :=
  l.foldl (fun b n => match b with
    | some m => some (min m n)
    | none => some n) none

/-- The first byte at which a range meets the rows of a footprint; rows that touch one another are one range. -/
def Foot.hit (f : Foot) (r : Nat × Nat) : Option Nat :=
  if f.rows = 0 then none
  else if f.pitch ≤ f.len then overlapAt (f.base, (f.rows - 1) * f.pitch + f.len) r
  else
    let i := min ((r.1 - f.base) / f.pitch) (f.rows - 1)
    (overlapAt (f.base + i * f.pitch, f.len) r).orElse (fun _ =>
      if i + 1 < f.rows then overlapAt (f.base + (i + 1) * f.pitch, f.len) r else none)

/-- The ranges of a footprint. -/
def Foot.ranges (f : Foot) : List (Nat × Nat) :=
  if f.rows = 0 then []
  else if f.pitch ≤ f.len then [(f.base, (f.rows - 1) * f.pitch + f.len)]
  else (List.range f.rows).map (fun i => (f.base + i * f.pitch, f.len))

/-- The first byte at which ranges of an access meet a footprint among some entries, with a write on either side. -/
def footHit (l : List Entry) (ranges : List (Nat × Nat)) (writes : Bool) : Option Nat :=
  leastOf (l.flatMap (fun e => e.footprint.flatMap (fun f =>
    if f.write || writes then ranges.filterMap f.hit else [])))

/-- Copy and gather commands of a strand that have not completed. -/
def footEntries (t : Task) (k : Nat) : List Entry :=
  (List.range 5).flatMap (fun i => (t.queue (3 + i)).filter (fun e => e.strand == k))

/-- An access of the current strand of a deterministic launch waits while it meets such a footprint. -/
def footGate (va : Word) (n : Nat) (writes : Bool) : M Unit := do
  let l ← curLaunch
  let t ← curTask
  let s ← getS
  if l.det then
    match footHit (footEntries t s.sel.strand) [((foldVa s s.sel.task va).toNat, n)] writes with
    | some b => waitM 11 (b % 2 ^ 48)
    | none => pure ()
  else pure ()

/-! ### Requests -/

/-- Modules of the pod. -/
def podModules (s : State) : Nat := max 1 (s.dies.length / 8)

/-- Bytes of data an access carries to its home. -/
def Acc.payload (a : Acc) : Nat :=
  match a.op with
  | .store bs => bs.length
  | .coll bs => bs.length
  | .rowAdd et vals => typeBytes et * vals.length
  | .load => 0
  | .collRead => 0
  | .atomic _ _ => 16
  | .cas _ _ => 16
  | .amox _ _ => 16
  | .amor _ _ _ _ _ => 16
  | .fe _ _ => 8
  | .signal _ _ => 8

/-- NFL of a message with so many bytes of data: 1 to 16 flits of 64 bytes, minus 1 (R365). -/
def flitsLess (n : Nat) : Nat := min 15 ((n + 63) / 64 - 1)

/-- Put a request on its way: it waits in the die request crossbar of its source (R372). -/
def sendReq (s : State) (a : Acc) (req : Requester) (station source : Nat) : State :=
  let core := match a.home with
    | .spad p => (s.task p).core?
    | .hbm _ => none
    | .host _ => none
    | .window _ => none
  let m : Msg := { chan := 0, srcStation := station, dstStation := homeStation s a.home, at_ := station, xbar := true,
                   nfl := flitsLess a.payload, core, stamp := s.clock, source, req, acc := a,
                   fn := (s.launchOf a.who.task).fn }
  { s with net := SMap.put s.nextMsg m s.net, nextMsg := s.nextMsg + 1 }

/-- Put a message of the response class on its way from its source station, in the order of R124. -/
def sendResponse (s : State) (m : Msg) : State :=
  { s with
    net := SMap.put s.nextMsg { m with chan := 2, at_ := m.srcStation, entered := s.entered } s.net,
    nextMsg := s.nextMsg + 1, entered := s.entered + 1 }

/-- Bytes of data a reply carries. -/
def replyBytes (a : Acc) (r : Reply) : Nat :=
  match r with
  | .data _ => a.size
  | .dataOvf _ => a.size
  | .ack _ => 0
  | .redirect _ => 0
  | .fault _ => 0

/-- Put an answer on its way back from its home (R365). -/
def sendAnswer (s : State) (a : Answer) : State :=
  sendResponse s { srcStation := homeStation s a.acc.home, dstStation := a.station, nfl := flitsLess (replyBytes a.acc a.reply),
                   stamp := s.clock, source := homeSource s a.acc.home, req := a.req, acc := a.acc, reply := some a.reply,
                   fn := (s.launchOf a.acc.who.task).fn }

def sendAnswers (s : State) (l : List Answer) : State := l.foldl sendAnswer s

/-- Reply buffers of a core in use (R122). -/
def buffersUsed (t : Task) : Nat :=
  t.strands.foldl (fun n e => n + (e.2.outs.filter (·.buffer)).length) 0

/-! ### Issuing from a strand -/

/-- What became of an issued access. -/
inductive Issued where
  | done (r : Reply)
  /-- on its way, with its identity -/
  | sent (id : Nat)
deriving DecidableEq, Repr, Inhabited

/-- An open BARA arrival of the strand at the launch team (R237). -/
def launchArrivalOpen (st : Strand) : Bool := st.arrivals.any (fun a => a.shape == 0x80 && a.open_)

/-- What one access of a strand asks for. -/
structure Ask where
  va : Word
  size : Nat
  cls : Nat
  need : Need
  op : AccOp
  nr : Bool := false
  /-- an atomic: host memory faults XLATE_PERM (R229) -/
  atomic : Bool := false
  /-- a load that may read the semaphore block (R103) -/
  sem : Bool := false
  /-- the address must lie in a scratchpad's backed range (R113) -/
  spadOnly : Bool := false
  dest : Option Dest := none
  /-- the strand parks until the answer even without a value, or at the own scratchpad (R225, R231) -/
  parks : Bool := false
  ilen : Nat := 1
  /-- always a request, even to the own scratchpad (AMOR, R231) -/
  remote : Bool := false
deriving Repr, Inhabited

/-- The checks of an address for an agent of the task: map, translation, page rules (R102, R103, R113, R132, R188, R229);
`her` in heritage state, `wf` the result of the agent's own walk. -/
def checkPlaceFor (s : State) (t : Nat) (her : Bool) (wf : Option (Nat × Trap)) (q : Ask) : Except Stop Place :=
  let l := s.launchOf t
  match placeOf s t her q.sem wf q.va q.size q.need with
  | .error e => .error e
  | .ok p =>
    let spad := match p.home with
      | .spad _ => true
      | .hbm _ => false
      | .host _ => false
      | .window _ => false
    let host := match p.home with
      | .host _ => true
      | .hbm _ => false
      | .spad _ => false
      | .window _ => false
    let writes := q.need == .write || q.need == .readWrite
    if q.spadOnly && !spad then .error (.trap { cause := 9, tval := q.va })
    else if q.atomic && host then .error (.trap { cause := 8, tval := q.va })
    else if l.det && writes && p.global && p.tag != l.ownerTag then .error (.trap { cause := 14, tval := q.va })
    else .ok p

/-- The checks of an access of a strand before ordering; none issues between BARA and BARW of the launch team in a
deterministic launch (R237). -/
def checkPlace (s : State) (t k : Nat) (q : Ask) : Except Stop Place :=
  let st := s.strand t k
  if (s.launchOf t).det && launchArrivalOpen st then .error (.trap { cause := 14, tval := 0 })
  else checkPlaceFor s t st.r.her st.walkFault q

/-- The access an ask makes at its place. -/
def mkAcc (s : State) (t k : Nat) (q : Ask) (p : Place) : Acc :=
  let st := s.strand t k
  let l := s.launchOf t
  { who := { task := t, strand := k, pc := st.r.pc, quiet := p.home == .spad t && isHeritage p.addr },
    home := p.home, addr := p.addr, va := foldVa s t q.va, size := q.size, cls := q.cls, nr := q.nr, op := q.op,
    tso := p.tso, log := p.log, detTag := if l.det && p.tag == l.ownerTag then p.tag else 0, exec := p.exec }

/-- Perform an own-scratchpad access now. -/
def performNow (a : Acc) : M Issued := do
  let s ← getS
  match performAt s a with
  | .ok s' r => do setS s'; pure (.done r)
  | .trap _ e => stop (if e.cause = 23 then .logFull a else .trap e)
  | .held => waitM 7 (a.va.toNat % 2 ^ 48)

/-- The strand waits for the answer to an access that needs a record, so that LOG_FULL comes precisely at its instruction
(R406); but an AMOR contribution, which may wait for its round, lets the strand go on (log entry 139). -/
def recordParks (s : State) (a : Acc) : Bool :=
  needsRecord s a && (match a.op with
    | .amor _ _ _ _ _ => false
    | _ => true)

/-- Faulted-store reports of the strand are taken here (R123). -/
def takeReports : M Unit := do
  let st ← curStrand
  match st.reports with
  | r :: _ => stop (.report r)
  | [] => pure ()

/-- Issue an access of the current strand (R219, R229): checks, alias window, faulted stores due at a class-15 access, order,
then perform at the own scratchpad or send it with a reply buffer. -/
def issueAcc (q : Ask) : M Issued := do
  let s ← getS
  let t := s.sel.task
  let k := s.sel.strand
  let st := s.strand t k
  let l := s.launchOf t
  match checkPlace s t k q with
  | .error e => stop e
  | .ok p => do
    let a := mkAcc s t k q p
    footGate q.va q.size a.stores
    let lazy := s.sel.lazy && !l.det
    if l.det && !a.who.quiet then
      match aliasStep st.alias_ [(a.va.toNat, q.size)] q.cls a.stores (st.outs.isEmpty && (vecAccesses (s.task t) k).isEmpty) with
      | .clash => trapM 12 q.va
      | .drain => waitM 7 (a.va.toNat % 2 ^ 48)
      | .window w => modCur (fun x => { x with alias_ := w })
    if q.cls = 15 then takeReports
    if orderBlocks s t k a lazy then waitM 7 (a.va.toNat % 2 ^ 48)
    let own := a.home == .spad t
    if own && !lazy && !q.remote then performNow a
    else if !own && 64 ≤ buffersUsed (s.task t) then waitM 12 0
    else do
      let s ← getS
      let id := s.nextMsg
      setS (sendReq s a (.acc a.who id) (dieStation (s.task t).die) (taskSource s t))
      let o : Outstanding := { id := id, acc := a, dest := q.dest, parks := q.parks || (!own && q.dest.isSome) || recordParks s a,
                               pc := st.r.pc, ilen := q.ilen, buffer := !own, since := s.clock }
      modCur (fun x => { x with outs := x.outs ++ [o] })
      pure (.sent id)

end Sys2Proof.Machine
end

