-- ==== Sys2Proof/Machine/MatrixForms.lean ====
section
/-!
DEFINITION. What a matrix command names: its format (R53, R54, R64, R298), the fields of the shadow table (R305, R306),
its slots and banks (R301 to R303), and the actions of an MGO (R307).
-/
namespace Sys2Proof.Machine

/-! ### Formats (R53, R64, R72, R298) -/

/-- MF, OET, RM, SAT, ANCH and XW of a format-table entry (R53). -/
def ftMf (w : Word) : Nat := bitsOf w.toNat 0 4
def ftOet (w : Word) : Nat := bitsOf w.toNat 8 4
def ftRm (w : Word) : Nat := bitsOf w.toNat 12 3
def ftSat (w : Word) : Bool := bitOf w.toNat 15
def ftAnch (w : Word) : BitVec 8 := BitVec.ofNat 8 (bitsOf w.toNat 16 8)
def ftXw (w : Word) : Bool := bitOf w.toNat 24

/-- MF of MTILE, MGO and MSPGO. -/
def matMf (fn : Nat) (ft : Option Word) : Nat := (ft.map ftMf).getD (fn % 16)

/-- Exact-window mode of MTILE, MGO and MSPGO. -/
def matXw (fn : Nat) (ft : Option Word) : Bool := (ft.map ftXw).getD (bitOf fn 4)

/-- Type code of a matrix format. -/
def mfType (mf : Nat) : Nat :=
  match mf with
  | 0 => 7 | 1 => 6 | 2 => 4 | 3 => 5 | 4 => 0 | 5 => 10 | 6 => 13 | 7 => 11 | _ => 12

/-- A block format: PSB7, MXFP4, PSB4, PSB2. -/
def mfBlock (mf : Nat) : Bool := 5 ≤ mf

/-- Class bit of a format in CAPME: W 1, N 2, Q 4 (R19, R72). -/
def mfClass (mf : Nat) : Nat := if mf ≤ 1 then 1 else if mf ≤ 5 then 2 else 4

/-- Classes a matrix command needs of its array; 0 for a command without a class. -/
def matClass (i : Instr) (ft : Option Word) : Nat :=
  let tile := fun (fn : BitVec 6) => mfClass (matMf fn.toNat ft) + (if matXw fn.toNat ft then 16 else 0)
    + (if fn.getLsbD 5 then 32 else 0)
  match i with
  | .mgo fn _ | .mtile fn _ => tile fn
  | .mspgo fn _ => tile fn + 8
  | _ => 0

/-- Elements summed by one tile step. -/
def mfK (mf : Nat) : Nat := if mf ≤ 1 then 128 else if mf ≤ 5 then 256 else 512

/-- Scale bytes of a block, and of a line (R298). -/
def mfScale (mf : Nat) : Nat := if mf = 6 then 1 else 2
def mfLineScales (mf : Nat) : Nat := if mf = 5 then 32 else if mf = 6 then 16 else 64

/-! ### The shadow table (R305, R306) -/

/-- A field of a level of a table. -/
def tabField (tab : SMap (BitVec 32)) (level field : Nat) : Nat := (SMap.get 0 tab (16 * level + field)).toNat

/-- A field read as signed. -/
def tabSigned (tab : SMap (BitVec 32)) (level field w : Nat) : Int := sintOf w (tabField tab level field)

/-- EXT of a level. -/
def tabExt (tab : SMap (BitVec 32)) (level : Nat) : Nat := tabField tab level 0 % 65536

/-- RBASE, RLEN, AOFF, BOFF, RA and RB of field 8. -/
def tabRing (tab : SMap (BitVec 32)) : Nat × Nat × Nat × Nat × Bool × Bool :=
  let x := tabField tab 0 8
  (bitsOf x 0 5, bitsOf x 5 6, bitsOf x 16 5, bitsOf x 21 5, bitOf x 26, bitOf x 27)

/-- Field 8 keeps its limits; RBASE + RLEN stays below 32 under Q8 (R306, R326). -/
def ringOk (tab : SMap (BitVec 32)) (q8 : Bool) : Bool :=
  let x := tabField tab 0 8
  let (base, len, _) := tabRing tab
  1 ≤ len && base + len ≤ (if q8 then 31 else 32) && bitsOf x 11 5 == 0 && bitsOf x 28 4 == 0

/-- Some level drains. -/
def tabDrains (tab : SMap (BitVec 32)) : Bool := (List.range 6).any (fun l => bitOf (tabField tab l 7) 0)

/-- Bytes of an element drained or loaded (R251, R302): 0 for a type that is none. -/
def oetSize (oet : Nat) : Nat :=
  match oet with
  | 3 => 4 | 4 => 1 | 5 => 1 | 6 => 2 | 7 => 2 | 8 => 4 | 9 => 16 | _ => 0

/-- The first field an MGO uses that R306 refuses: fields 0, 1, 2, 3 and 7 level by level, then 8, 12, 13, 9, 11 and 10
(DESIGN CHOICE: the spec gives no order, log entry 114). -/
def mgoBadField (tab : SMap (BitVec 32)) (mf : Nat) (q8 : Bool) : Option Nat :=
  let bad := fun (l f : Nat) (ok : Bool) => if ok then none else some (tabField tab l f)
  let levels := (List.range 6).findSome? (fun l =>
    (((bad l 0 (tabField tab l 0 < 2 ^ 16)).orElse (fun _ => bad l 1 (tabField tab l 1 < 2 ^ 8))).orElse
      (fun _ => bad l 2 (tabField tab l 2 < 2 ^ 8))).orElse (fun _ =>
        (bad l 3 (tabField tab l 3 < 2)).orElse (fun _ => bad l 7 (tabField tab l 7 < 4))))
  let scales := if mfBlock mf then
      (bad 0 12 (tabField tab 0 12 < 2 ^ 23)).orElse (fun _ => bad 0 13 (tabField tab 0 13 < 2 ^ 23))
    else none
  let o := tabField tab 0 11
  let s := oetSize (o % 16)
  let drains := if tabDrains tab then
      (bad 0 9 (tabField tab 0 9 < 2 ^ 23)).orElse (fun _ =>
        (bad 0 11 (s != 0 && bitsOf o 4 3 ≤ 5 && o < 2 ^ 8)).orElse (fun _ =>
          bad 0 10 (128 * s ≤ tabField tab 0 10 && tabField tab 0 10 < 2 ^ 16 && tabField tab 0 10 % s == 0)))
    else none
  ((levels.orElse (fun _ => bad 0 8 (ringOk tab q8))).orElse (fun _ => scales)).orElse (fun _ => drains)

/-! ### Names (R301 to R303, R317) -/

/-- The slot above one (R325). -/
def slotAbove (n : Nat) : Nat := (n + 1) % 32

/-- The slots of a ring, and under Q8 those above them, whatever else the table holds (R301, R326). -/
def ringSlots (tab : SMap (BitVec 32)) (q8 : Bool) : List Nat :=
  let (base, len, _) := tabRing tab
  let l := ((List.range len).map (· + base)).filter (· < 32)
  if q8 then (l ++ l.map slotAbove).dedup else l

/-- The slots a matrix command names; those of an MGO are its ring. -/
def matSlots (i : Instr) (_ft : Option Word) (tab : SMap (BitVec 32)) : List Nat :=
  match i with
  | .mclaim f | .mrel f => [f.a.toNat % 32]
  | .mtile fn f =>
    let l := [f.a.toNat % 32, f.b.toNat % 32]
    (if fn.getLsbD 5 then l ++ l.map slotAbove else l).dedup
  | .mspgo _ f => [f.a.toNat % 32, f.b.toNat % 32].dedup
  | .mgo fn _ => ringSlots tab (fn.getLsbD 5)
  | _ => []

/-- The slots that a push counts for in a deterministic launch: no ring slot when the table of an MGO is bad (R317). -/
def detSlots (i : Instr) (ft : Option Word) (tab : SMap (BitVec 32)) : List Nat :=
  match i with
  | .mgo fn _ => if (mgoBadField tab (matMf fn.toNat ft) (fn.getLsbD 5)).isSome then [] else matSlots i ft tab
  | i => matSlots i ft tab

/-- A bank, or the pair of an exact-window command. -/
def bankSet (b : Nat) (pair : Bool) : List Nat := if pair then [b / 2 * 2, b / 2 * 2 + 1] else [b]

/-- The banks a matrix command names; an MGO names both of its engine when its nest toggles them. -/
def matBanks (i : Instr) (ft : Option Word) (tab : SMap (BitVec 32)) : List Nat :=
  match i with
  | .mzero f => [f.c.toNat % 4]
  | .mtile fn f | .mspgo fn f => bankSet (f.c.toNat % 4) (matXw fn.toNat ft)
  | .mdrain _ f | .mldacc _ f => bankSet (f.c.toNat % 4) ((ft.map ftXw).getD false)
  | .mgo fn f =>
    bankSet (f.c.toNat % 4) (matXw fn.toNat ft
      || (List.range 6).any (fun l => bitOf (tabField tab l 3) 0 && decide (2 ≤ tabExt tab l)))
  | _ => []

/-- Matrix commands of a task that have not completed: those of queues 1 and 2, and those that heritage routines run
(R311). -/
def matrixCommands (t : Task) : List Entry :=
  t.queue 1 ++ t.queue 2 ++ t.strands.filterMap (fun x => x.2.routine)

/-- Those pushed before a command. -/
def earlierMatrix (t : Task) (e : Entry) : List Entry := (matrixCommands t).filter (fun o => o.serial < e.serial)

/-- A staged routine holds the slots of its command until its end, for it works in them (R311, R336). -/
def stagedSlot (t : Task) (n : Nat) : Bool :=
  t.strands.any (fun x => x.2.routine.any (fun o => o.staged && (matSlots o.cmd o.cap.ft o.cap.table).contains n))

/-- The slot that holds a command back: an earlier command of it has not started (R301), or works in it in stages. -/
def slotHeld (t : Task) (e : Entry) : Option Nat :=
  (matSlots e.cmd e.cap.ft e.cap.table).find? (fun n =>
    (earlierMatrix t e).any (fun o => (!o.started || o.staged) && (matSlots o.cmd o.cap.ft o.cap.table).contains n))

/-- The bank that holds a command back: an earlier command of it has not completed (R303). -/
def bankHeld (t : Task) (e : Entry) : Option Nat :=
  (matBanks e.cmd e.cap.ft e.cap.table).find? (fun b =>
    (earlierMatrix t e).any (fun o => (matBanks o.cmd o.cap.ft o.cap.table).contains b))

/-- What holds a command back at step 7 of R320. -/
def matrixOrder (t : Task) (e : Entry) : Option Wait :=
  match slotHeld t e, bankHeld t e with
  | some n, _ => some { kind := 13, object := n }
  | none, some b => some { kind := 13, object := 0x100 + b }
  | none, none => none

/-! ### Actions of an MGO (R307) -/

/-- Iterations of a nest. -/
def mgoIters (tab : SMap (BitVec 32)) : Nat := (List.range 6).foldl (fun p l => p * tabExt tab l) 1

/-- Iterations of the levels below a level: an iteration of the level ends each time so many steps have run. -/
def levelPeriod (tab : SMap (BitVec 32)) (level : Nat) : Nat := (List.range level).foldl (fun p l => p * tabExt tab l) 1

/-- Actions that precede tile step t: t steps and the drains that ended with them. -/
def actionsBefore (tab : SMap (BitVec 32)) (t : Nat) : Nat :=
  (List.range 6).foldl (fun n l => if bitOf (tabField tab l 7) 0 then n + t / levelPeriod tab l else n) t

/-- Number of actions. -/
def mgoActions (tab : SMap (BitVec 32)) : Nat := actionsBefore tab (mgoIters tab)

/-- The greatest t below `2 ^ bits + base` whose step comes at or before an action. -/
def findStep (tab : SMap (BitVec 32)) (n : Nat) : Nat → Nat → Nat
  | 0, base => base
  | b + 1, base => findStep tab n b (if actionsBefore tab (base + 2 ^ b) ≤ n then base + 2 ^ b else base)

/-- One action. -/
inductive MgoAction where
  /-- tile step: iteration t -/
  | tile (t : Nat)
  /-- drain at the end of an iteration of a level, after step t -/
  | drain (t level : Nat)
deriving DecidableEq, Repr, Inhabited

/-- Levels whose iteration ends with step t and that drain, innermost first. -/
def drainsAfter (tab : SMap (BitVec 32)) (t : Nat) : List Nat :=
  (List.range 6).filter (fun l => bitOf (tabField tab l 7) 0 && (t + 1) % levelPeriod tab l == 0)

/-- Action number n of a nest that is not empty. -/
def mgoAction (tab : SMap (BitVec 32)) (n : Nat) : MgoAction :=
  let t := findStep tab n 97 0
  let sub := n - actionsBefore tab t
  if sub = 0 then .tile t else .drain t ((drainsAfter tab t).getD (sub - 1) 0)

/-- Index of a level in iteration t. -/
def levelIndex (tab : SMap (BitVec 32)) (t level : Nat) : Nat := t / levelPeriod tab level % tabExt tab level

/-- Σ iL × field over the levels. -/
def nestSum (tab : SMap (BitVec 32)) (t field w : Nat) : Int :=
  (List.range 6).foldl (fun n l => n + (levelIndex tab t l : Int) * tabSigned tab l field w) 0

/-- Σ iL × SC over the levels. -/
def nestToggle (tab : SMap (BitVec 32)) (t : Nat) : Nat :=
  (List.range 6).foldl (fun n l => n + levelIndex tab t l * (tabField tab l 3 % 2)) 0 % 2

/-- Slot of the A ring or the B ring in iteration t. -/
def ringSlot (tab : SMap (BitVec 32)) (t off field : Nat) : Nat :=
  let (base, len, _) := tabRing tab
  base + (((off : Int) + nestSum tab t field 8) % (len : Int)).toNat

/-- Slots a and b of iteration t. -/
def mgoSlots (tab : SMap (BitVec 32)) (t : Nat) : Nat × Nat :=
  let (_, _, ao, bo, _) := tabRing tab
  (ringSlot tab t ao 1, ringSlot tab t bo 2)

/-- Bank of iteration t; `c` is the bank C names. -/
def mgoBank (tab : SMap (BitVec 32)) (t c : Nat) : Nat := c / 2 * 2 + (c + nestToggle tab t) % 2

/-- Release of a and of b after iteration t: the next step's slot differs, or none follows. -/
def mgoReleases (tab : SMap (BitVec 32)) (t : Nat) : Bool × Bool :=
  let (_, _, _, _, ra, rb) := tabRing tab
  let last := mgoIters tab ≤ t + 1
  let (a, b) := mgoSlots tab t
  let (a', b') := mgoSlots tab (t + 1)
  (ra && (last || a != a'), rb && (last || b != b'))

/-- Drain base of iteration t. -/
def mgoDrainBase (tab : SMap (BitVec 32)) (t : Nat) : Int := (tabField tab 0 9 : Int) + nestSum tab t 4 32

/-- Scale pointers of iteration t. -/
def mgoScales (tab : SMap (BitVec 32)) (t : Nat) : Int × Int :=
  ((tabField tab 0 12 : Int) + nestSum tab t 5 32, (tabField tab 0 13 : Int) + nestSum tab t 6 32)

end Sys2Proof.Machine
end

