-- ==== Sys2Proof/Machine/Ops.lean ====
section
/-!
DEFINITION. The shared operations of the machine: taking a trap and what follows it (R173 to R181), the heritage path
(R190), the guard pair (R392 to R395), single step (R171), retirement with its loop-back (R215), and the frame in which
every instruction of a strand runs.
-/
namespace Sys2Proof.Machine

/-! ### The composite record (R176, R177) -/

/-- A list of fields, each a value and a width, from bit 0 upward. -/
def packFields : List (Nat × Nat) → Nat
  | [] => 0
  | (v, w) :: r => v % 2 ^ w + 2 ^ w * packFields r

/-- ESTAT of a matrix engine's head (R319): MGO with actions under way, STEER, TAINT, WBANK, WORDER. -/
def matrixEstat (t : Task) (e : Entry) : Nat :=
  let mgo := match e.cmd with
    | .mgo fn _ => e.started && (mgoBadField e.cap.table (matMf fn.toNat e.cap.ft) (fn.getLsbD 5)).isNone
    | _ => false
  let tainted := (matSlots e.cmd e.cap.ft e.cap.table).any (fun n => (t.slot n).taint)
    || (matBanks e.cmd e.cap.ft e.cap.table).any (fun b => (t.bank b).taint)
  let waits := (e.wait.getD {}).kind == 13
  b2n mgo + 2 * b2n e.cap.steered + 4 * b2n tainted + 8 * b2n (waits && (bankHeld t e).isSome)
    + 16 * b2n (waits && (slotHeld t e).isSome)

/-- The head of queue 1 or 2, or a heritage routine, gathers for an MSPGO (R330). -/
def gathers (t : Task) : Bool :=
  ((t.queue 1).take 1 ++ (t.queue 2).take 1 ++ t.strands.filterMap (fun x => x.2.routine)).any (fun e => match e.cmd with
    | .mspgo _ _ => e.started && e.progress == 0
    | _ => false)

/-- ESTAT of an engine: VE bit 0 NEST (R262), ME bits of R316, and what the chapters of the other engines give. -/
def estat (t : Task) (q : Nat) : Nat :=
  match t.queue q with
  | [] => 0
  | e :: _ =>
    if q = 0 then
      (match e.cmd with
        | .vsweep _ _ => b2n e.started
        | _ => b2n (e.started && e.cap.nest.isSome))
    else if q = 1 ∨ q = 2 then matrixEstat t e
    else if q ≤ 6 then b2n (e.copyOrder.getD 0 % 4 == 1) + 2 * b2n e.notify.isSome + 4 * b2n e.err
    else if q = 7 then
      SMap.get 0 e.work 0 % 2 + 2 * b2n ((e.wait.map (·.kind)).getD 0 == 9) + 4 * b2n e.err + 8 * b2n (gathers t)
    else b2n (e.slotTime.isSome && !e.started) + 2 * b2n e.late + 4 * b2n e.err
      + 8 * b2n ((e.wait.map (·.kind)).getD 0 == 9)

/-- One engine part of the record: 48 bytes, of the oldest command of the queue that has not completed, and of the fault of
any of its commands (R176). A command of another queue than the VE's that awaits its resumption keeps its progress. A store
of the VE that only awaits its acknowledgements is not completed, and is the head before the instruction that traps (DESIGN
CHOICE, log entry 140). -/
def enginePart (t : Task) (q : Nat) (late : Bool) : List Byte :=
  match t.queue q with
  | [] => bytesOf (packFields [(0, 16), (SMap.get 0 t.pushed q % queueSize q, 6)]) 48
  | e :: r =>
    let w := encode e.cmd
    let wk := (e.wait.map (·.kind)).getD 0
    let fault := (e :: r).findSome? (·.fault)
    let f := fault.getD {}
    bytesOf (packFields [
      (b2n e.started, 1), (b2n fault.isSome, 1), (b2n (wk == 2), 1), (b2n (wk == 5), 1), (b2n late, 1), (0, 3),
      (estat t q, 8), (e.index % queueSize q, 6), (r.length + 1, 7), (f.cause, 6), (e.strand, 3), (0, 26),
      (e.pc.toNat, 64), (if e.started || e.fault.isSome || q != 0 then e.progress else 0, 64), (w, 64),
      (if parcels e.cmd = 3 then w / 2 ^ 64 else 0, 32), (0, 32), (f.tval.toNat, 64)]) 48

/-- Bits of strands with a property. -/
def strandBits (t : Task) (f : Strand → Bool) : Nat :=
  (List.range 8).foldl (fun n k => n + if f (t.strand k) then 2 ^ k else 0) 0

/-- The 512 bytes of the composite record. -/
def trapRecord (s : State) (t k : Nat) (queue : Option Nat) (tr : Trap) (tpc : Word) (action : Nat) (nested : Bool) :
    List Byte :=
  let task := s.task t
  let l := s.launchOf t
  let header := packFields [
    (s.clock.toNat, 64), (taskSource s t, 16), (tr.cause, 6), (b2n tr.chk, 1), (b2n tr.stage, 1), (queue.getD 15, 4),
    (k, 3), (b2n nested, 1), (action, 2), (b2n tr.res, 1), (0, 29), (tpc.toNat, 64), (tr.tval.toNat, 64),
    (task.lcore, 12), (0, 20), (l.phase.toNat, 32), (l.launchId.toNat, 32),
    (if tr.cause = 13 then tr.cstamp.toNat else 0, 24), (0, 8), (strandBits task (·.live), 8),
    (strandBits task (fun x => x.live && (x.wait.map (·.kind)).getD 0 != 0), 8), (0, 112)]
  bytesOf header 64 ++ (List.range 9).flatMap (fun q => enginePart task q false) ++ bytesOf 0 16

/-- Address of a task's record slot; 0 when RECBASE is 0. -/
def recordSlot (s : State) (t : Nat) : Word :=
  let task := s.task t
  let base := (s.function (s.launchOf t).fn).recbase
  if base = 0 then 0 else base + w64 ((task.die * 1024 + task.entry) * 2048)

/-- Write bytes of a record to the context header and, unless RECBASE is 0, to the task's record slot; what does not
translate there is lost (log entries 24 and 106). -/
def writeSlot (s : State) (t off : Nat) (bs : List Byte) : State :=
  let a := recordSlot s t
  let s1 := s.modTask t (fun x => { x with context := writeBytes x.context (0x800 + off) bs })
  if a = 0 then s1
  else
    match directWrite s1 (s.launchOf t).fn (a + w64 off) true bs with
    | .ok s' => s'
    | .error _ => s1

/-! ### Actions (R178, R179) -/

/-- The launch's action for a cause: its nibble of the table; KILL without a readable table. -/
def tableAction (s : State) (l : Launch) (cause : Nat) : Nat :=
  if l.actions = 0 then 0
  else
    match directRead s l.fn l.actions true 32 with
    | .ok bs => let n := bitsOf (leNat bs) (4 * cause) 4; if n ≤ 3 then n else 0
    | .error _ => 0

/-- A started command that stops between its actions: an MGO (R308), an MSPGO after its gather (R330), a gather command
that waits on a full f0 (R351), an XE command on a full f1 (R383). -/
def Entry.pauses (e : Entry) : Bool :=
  match e.cmd with
  | .mgo _ _ => true
  | .mspgo _ _ => e.progress != 0
  | .grow _ _ | .gbag _ _ _ | .gscat _ _ | .xsend _ | .xrecv _ | .xred _ => (e.wait.map (·.kind)).getD 0 == 9
  | _ => false

/-- Serve the words of a task whose waiters have changed, and send the answers (R114). -/
def serveTask (s : State) (t : Nat) : State :=
  let (s1, l) := serveAll s t
  sendAnswers s1 l

/-- End a task's strands as KILL does: started commands complete, the others are discarded, the launch has failed. -/
def killTask (s : State) (t : Nat) : State :=
  let s1 := s.modTask t (fun x => { x with
    killed := true, freeze := none, pendingResume := none, leaving := none, heldAction := none,
    strands := x.strands.map (fun (k, y) =>
      (k, { y with live := false, wait := none, idle := none, saved := none, arming := none, stepDue := false, routine := none })),
    loops := x.loops.map (fun (n, y) => (n, { y with act := false })),
    feWaiters := x.feWaiters.filter (fun w => w.req.isSome),
    queues := x.queues.map (fun (q, l) => (q, (l.filter (fun e => e.started && !e.pauses)).map (fun e => { e with fault := none }))) })
  s1.modLaunch (s1.task t).launch (fun l => { l with failed := true })

/-- The handler's registers: g1 = TREC, everything else clear (R179). -/
def handlerRegs (tvec trec : Word) : StrandRegs :=
  { pc := tvec, g := SMap.set 0 [] 1 trec, poison := [], preds := 0, hnd := true, her := false }

/-- Take a sync point: what a rollback would restore; the guard has run as far (R393, R394). -/
def Strand.syncNow (x : Strand) (loops : SMap LoopState) : Strand :=
  { x with sync := { regs := x.r, seq := x.seq, undo := [], loops := loops, arming := x.arming, notReady := x.notReady,
                     outs := x.outs.map (·.id), alias_ := x.alias_ },
           guard := x.r, sinceSync := 0 }

/-- The guard core runs as far as the strand, and takes the values that wait for it in the load-value queue but one that an
error has struck (R392). -/
def Task.guardCatch (t : Task) (k : Nat) : Task :=
  { t.modStrand k (fun x => { x with guard := x.r }) with lvq := t.lvq.filter (fun e => e.strand != k || e.bad) }

/-- A sync point of a strand, to which the guard has come (R393, R396). -/
def Task.syncStrand (t : Task) (k : Nat) : Task := (t.guardCatch k).modStrand k (fun x => x.syncNow t.loops)

/-- FORWARD: a handler starts in the trapped strand's slot, at a sync point of its own (R179, R396). -/
def startHandler (s : State) (t k : Nat) : State :=
  let tr := (s.task t).trap
  let s1 := s.modStrand t k (fun x => { x with
    live := true, used := true, savedEnded := !x.live,
    saved := some x.r, savedNotReady := x.notReady, notReady := [], wait := none, idle := none,
    savedArming := x.arming, arming := none,
    outs := x.outs.map (fun o => { o with forSaved := true }),
    r := handlerRegs tr.tvec tr.trec })
  s1.modTask t (fun x => x.syncStrand k)

/-- The action a trap gets: the table's, but for nested traps, GUARD_MISMATCH and a repeated REPLAY. -/
def actionOf (s : State) (t : Nat) (nested repeated : Bool) (tr : Trap) : Nat :=
  if nested then (if tr.cause = 7 ∨ tr.cause = 8 then 2 else 0)
  else if tr.cause = 20 then 0
  else
    let a := tableAction s (s.launchOf t) tr.cause
    if a = 1 ∧ repeated then 0
    else if a = 3 then
      if (s.task t).trap.tvec = 0 then 0
      else if (s.function (s.launchOf t).fn).recbase = 0 then 2 else 3
    else a

/-- TCAUSE of a trap (R174). -/
def tcauseOf (tr : Trap) (queue : Option Nat) (ilen : Nat) : Word :=
  w64 (packFields [(tr.cause, 6), (b2n tr.chk, 1), (b2n tr.stage, 1), (b2n queue.isSome, 1), (queue.getD 0, 4),
    (ilen, 3), (b2n tr.res, 1)])

/-- Was the previous action for the same fault REPLAY? (R179) -/
def isRepeated (s : State) (t k : Nat) (queue : Option Nat) (tr : Trap) (tpc : Word) : Bool :=
  match queue with
  | none => (s.strand t k).lastReplay == some (tr.cause, tpc)
  | some q =>
    match (s.task t).queue q with
    | e :: _ => e.lastReplay == some (tr.cause + 64 * e.progress)
    | [] => false

/-- Remember that the action was REPLAY. -/
def noteReplay (s : State) (t k : Nat) (queue : Option Nat) (tr : Trap) (tpc : Word) : State :=
  match queue with
  | none => s.modStrand t k (fun x => { x with lastReplay := some (tr.cause, tpc) })
  | some q => s.modTask t (fun x => x.modHead q (fun e => { e with lastReplay := some (tr.cause + 64 * e.progress) }))

/-- Carry out an action on a frozen task whose record and trap CSRs are written (R178). A task that has no core is out
already: PARK marks it PARKED and tells the host at once, REPLAY waits for its switch-in (R163). -/
def applyAction (s : State) (t k : Nat) (queue : Option Nat) (tr : Trap) (tpc : Word) (action : Nat) : State :=
  let fz : Freeze := { strand := k, queue, stamp := s.clock }
  match action with
  | 0 => killTask s t
  | 1 =>
    let s1 := noteReplay s t k queue tr tpc
    s1.modTask t (fun x => { x with leaving := if x.core?.isSome then some 4 else none, pendingResume := some fz })
  | 2 =>
    if (s.task t).core?.isSome then s.modTask t (fun x => { x with leaving := some 3, pendingResume := some fz })
    else
      raiseEvent (s.modTask t (fun x => { x with
        place := .parked, parkedSince := some s.clock, leaving := none, pendingResume := some fz })) (s.launchOf t).fn 2
  | _ => startHandler s t k

/-- The signal box decides a trap's action and records it. Without room for the record the decision waits, the task stays
frozen, and the log-full interrupt is raised (R168, R169, R178). -/
def decideAction (s : State) (t : Nat) (h : HeldAction) : State :=
  let x := s.task t
  if slogRoom s x.die x.launch then
    applyAction (slog s x.die x.launch 6 x.lcore (x.core?.getD 0) (h.trap.cause + 2 ^ 8 * h.action))
      t h.strand h.queue h.trap h.tpc h.action
  else raiseEvent (s.modTask t (fun x => { x with heldAction := some h })) (s.launchOf t).fn 0

/-- The driver has made room in a die's scheduler log: actions that waited for it are decided (R169). -/
def resumeActions (s : State) (die : Nat) : State :=
  (s.tasks.filter (fun e => e.2.die == die && e.2.heldAction.isSome)).foldl (fun s e =>
    match (s.task e.1).heldAction with
    | some h => decideAction (s.modTask e.1 (fun x => { x with heldAction := none })) e.1 h
    | none => s) s

/-- TAKING A TRAP: strand `k` of task `t` traps with `tr` at `tpc`; `queue` for an engine-origin trap. The schedule
freezes (R175), the trap CSRs and the record are written (R174, R176, R177), and the action follows (R178, R179). A trap of
handler or heritage state leaves TSTATUS, which the handler's own TRET still needs (log entry 107). A stop that step mode
owed the strand is this one (R171), and the guard stops at the same instruction (R396). -/
def takeTrap (s : State) (t k : Nat) (queue : Option Nat) (tr : Trap) (tpc : Word) (ilen : Nat)
    (extra : List Byte := []) : State :=
  let st := s.strand t k
  let l := s.launchOf t
  let nested := st.r.hnd || st.r.her
  let action := actionOf s t nested (isRepeated s t k queue tr tpc) tr
  let s1 := s.modTask t (fun x => { x with
    freeze := some { strand := k, queue, stamp := s.clock },
    trap := { x.trap with
      tcause := tcauseOf tr queue ilen, tpc, tval := tr.tval,
      tstatus := if nested then x.trap.tstatus else statusWord st.r l, trec := recordSlot s t } })
  let s2 := match queue with
    | none => s1
    | some q => s1.modTask t (fun x => x.modHead q (fun e => { e with fault := some tr }))
  let s3 := writeSlot s2 t 0 (trapRecord s2 t k queue tr tpc action nested ++ extra)
  let s4 := match queue with
    | none => s3.modStrand t k (fun x => { x with
        r := { x.r with pc := if nested then x.r.pc else tpc }, wait := none, lastWait := none, walkFault := none,
        stepDue := false })
    | some q => (s3.modTask t (fun x => x.modHead q (fun e => { e with fault := none }))).modStrand t k (fun x =>
        { x with stepDue := false })
  let s5 := s4.modTask t (fun x => x.guardCatch k)
  let s6 := if tr.cause = 20 then
      s5.modDie (s5.task t).die (fun d => d.modCore ((s5.task t).core?.getD 0) (fun c => { c with suspect := true }))
    else s5
  decideAction s6 t { strand := k, queue, trap := tr, tpc, action }

/-- The strand an engine-origin trap is attributed to: the pushing strand, or the lowest-numbered slot when that has
ended (R173). -/
def faultStrand (t : Task) (e : Entry) : Nat :=
  if !e.orphaned && (t.strand e.strand).live then e.strand else 0

/-- A fault of the head of queue `q`: the primary trap, or a secondary fault kept in the engine's part when the
schedule is frozen already (R175, R181). -/
def engineFault (s : State) (t q : Nat) (tr : Trap) : State :=
  let task := s.task t
  match task.queue q with
  | [] => s
  | e :: _ =>
    if task.killed then s.modTask t (fun x => x.setQueue q ((x.queue q).drop 1))
    else if task.freeze.isSome then
      let s1 := s.modTask t (fun x => x.modHead q (fun e => { e with fault := some tr }))
      writeSlot s1 t (64 + 48 * q) (enginePart (s1.task t) q true)
    else takeTrap s t (faultStrand task e) (some q) tr e.pc (parcels e.cmd)

/-- The first engine queue that holds a secondary fault. -/
def pendingFault (t : Task) : Option (Nat × Entry × Trap) :=
  (List.range 9).findSome? (fun q => (t.queue q).findSome? (fun e => e.fault.map (fun f => (q, e, f))))

/-- No result of an earlier walk is kept: the next access translates again (R178, R189, R245). -/
def Task.dropWalks (t : Task) : Task :=
  { t with
    strands := t.strands.map (fun (k, x) => (k, { x with walkFault := none, routine := x.routine.map (fun e => { e with walkFault := none }) })),
    queues := t.queues.map (fun (q, l) => (q, l.map (fun e => { e with walkFault := none }))) }

/-! ### What a strand's traps and rollbacks restore (R260, R394) -/

/-- A value goes into the load-value queue for the guard (R392). -/
def Task.feed (t : Task) (k : Nat) (v : Word) : Task := { t with lvq := t.lvq ++ [{ strand := k, value := v }] }

/-- A register that a snapshot of the strand waits for takes its value there too. -/
def SyncPoint.deliver (p : SyncPoint) (d : Nat) (f : StrandRegs → StrandRegs) : SyncPoint :=
  if d ∈ p.notReady then { p with regs := f p.regs, notReady := p.notReady.erase d } else p

/-- A value comes to g register d of strand k from an engine or a deferred load: in the strand, in its last sync point, and
in what its vector instructions would restore, wherever the register waits for it (R259, R260, R394); and to the guard
(R392). -/
def Task.deliver (t : Task) (k d : Nat) (f : StrandRegs → StrandRegs) : Task :=
  let t1 := (t.modStrand k (fun x => { x with
    r := f x.r, notReady := x.notReady.erase d, sync := x.sync.deliver d f })).feed k ((f (t.strand k).r).gr d)
  t1.setQueue 0 ((t1.queue 0).map (fun e =>
    if e.strand = k then { e with cap := { e.cap with before := e.cap.before.map (fun p => p.deliver d f) } } else e))

/-- The loops a strand owns, back as they were. -/
def undoLoops (now old : SMap LoopState) (k : Nat) : SMap LoopState :=
  now.map (fun (n, c) => if c.own = k then (n, (SMap.find n old).getD {}) else (n, c))

/-- A vector instruction traps (R260): its strand is as it was before the instruction, its later entries are gone, and
the trap is the strand's at the instruction. A nest or sweep goes on at iteration `k` when it is executed again. -/
def vectorTrap (s : State) (t : Nat) (e : Entry) (tr : Trap) (k : Nat) : State :=
  let sweep := match e.cmd with
    | .vsweep _ _ => true
    | _ => false
  let arm : Option Arming := if e.cap.nest.isSome || sweep then some { nest := e.cap.nest, resume := k } else none
  let s1 := s.modTask t (fun x =>
    let y := x.modStrand e.strand (fun z =>
      match e.cap.before with
      | some p => { z with r := p.regs, seq := p.seq, wait := none, notReady := p.notReady, undoUsed := 0, arming := arm,
                           alias_ := if e.started then p.alias_ else z.alias_ }
      | none => z)
    match e.cap.before with
    | some p => { y with loops := undoLoops y.loops p.loops e.strand }
    | none => y)
  let s2 := s1.modTask t (fun x => x.syncStrand e.strand)
  let s3 := takeTrap (s2.modTask t (fun x => x.setQueue 0 ((x.queue 0).map (fun o =>
      if o.serial = e.serial then { o with started := true, progress := k } else o))))
    t e.strand none tr e.pc (parcels e.cmd)
  s3.modTask t (fun x => x.setQueue 0 ((x.queue 0).filter (fun o => !(o.strand == e.strand && decide (e.serial ≤ o.serial)))))

/-! ### The freeze lifts (R181) -/

/-- The freeze lifts; a secondary fault is then taken at once (R181). -/
def liftFreeze (s : State) (t : Nat) : State :=
  let s1 := s.modTask t (fun x => Task.dropWalks { x with freeze := none, pendingResume := none })
  match pendingFault (s1.task t) with
  | none => s1
  | some (q, e, f) =>
    if q = 0 then vectorTrap s1 t e f 0 else takeTrap s1 t (faultStrand (s1.task t) e) (some q) f e.pc (parcels e.cmd)

/-! ### The heritage path (R190) -/

/-- FN and bank of a matrix command with a class (R72). -/
def classBearing (i : Instr) : Option (Nat × Nat) :=
  match i with
  | .mgo fn f | .mtile fn f | .mspgo fn f => some (fn.toNat, f.c.toNat % 4)
  | _ => none

/-- What the core writes to the first 400 bytes of the heritage region for a matrix command: the shadow table of the
bank's engine, XWANCHOR of an exact-window command, the format-table entry of one that uses it (R332). -/
def heritageBlock (t : Task) (fn bank : Nat) : List Byte :=
  let tab := if bank < 2 then t.eng.table0 else t.eng.table1
  let entry := SMap.get 0 t.vec.ft ((t.loop (bitsOf t.vec.ftsel.toNat 0 2)).value.toNat % 16)
  let ftab := fn % 16 == 15
  (List.range 96).flatMap (fun n => bytesOf (SMap.get 0 tab n).toNat 4)
    ++ bytesOf (if !ftab && bitOf fn 4 then t.vec.xwanchor.toNat else 0) 8
    ++ bytesOf (if ftab then entry.toNat else 0) 8

/-- CAPABILITY: the strand enters the heritage routine of the opcode and class with HER set; nothing freezes. The flags it
uses go to the heritage save area. An MGO counts for SEQ here (R38). -/
def enterHeritage (s : State) (t k : Nat) (i : Instr) : State :=
  let st := s.strand t k
  let w := encode i
  let block := match classBearing i with
    | some (fn, bank) => heritageBlock (s.task t) fn bank
    | none => []
  let counts := match i with
    | .mgo _ _ => !st.r.her
    | _ => false
  let ft := (st.routine.map (·.cap.ft)).getD none
  let s1 := s.modTask t (fun x => { x with
    heritage := writeBytes x.heritage 0 block,
    context := writeBytes x.context 0x9000 (bytesOf x.vec.vstat.toNat 8 ++ bytesOf x.vec.vctl.toNat 8),
    trap := { x.trap with
      tcause := tcauseOf { cause := 16 } none (parcels i), tpc := st.r.pc, tval := (firstParcel i).setWidth 64,
      tstatus := statusWord st.r (s.launchOf t), trec := recordSlot s t,
      hcmd0 := w64 w, hcmd1 := w64 (if parcels i = 3 then w / 2 ^ 64 else 0), hcmd2 := st.r.pc,
      hopa := 0, hopb := 0, hopc := 0 } })
  s1.modStrand t k (fun x => { x with
    saved := some x.r, savedNotReady := x.notReady, wait := none, savedArming := x.arming, arming := none,
    outs := x.outs.map (fun o => { o with forSaved := true }),
    seq := if counts then x.seq + 1 else x.seq,
    r := { x.r with pc := Config.heritageEntry (w % 256) (matClass i ft), her := true } })

/-! ### The guard pair (R393 to R395) -/

/-- Write back the old value of a CSR of the task (R394). -/
def undoTaskCsr (x : Task) (c : Nat) (w : Word) : Task :=
  match c with
  | 0x22 => { x with trap := { x.trap with tpc := w } }
  | 0x23 => { x with trap := { x.trap with tstatus := w } }
  | 0x26 => { x with trap := { x.trap with tvec := w } }
  | 0x40 => { x with vec := { x.vec with vsh := w } }
  | 0x41 => { x with vec := { x.vec with vctl := w } }
  | 0x42 => { x with vec := { x.vec with vstat := w } }
  | 0x43 => { x with vec := { x.vec with ftsel := w } }
  | 0x44 => { x with vec := { x.vec with srseed := w } }
  | 0x45 => { x with vec := { x.vec with xwanchor := w } }
  | 0x60 => x.setLoop 0 { x.loop 0 with value := w }
  | 0x61 => x.setLoop 1 { x.loop 1 with value := w }
  | 0x62 => x.setLoop 2 { x.loop 2 with value := w }
  | 0x63 => x.setLoop 3 { x.loop 3 with value := w }
  | 0x64 => (List.range 4).foldl (fun x n => if w.getLsbD n then x.setLoop n { x.loop n with act := true } else x) x
  | 0x80 => { x with eng := { x.eng with mesteer := w } }
  | 0x81 => { x with eng := { x.eng with mestat0 := w } }
  | 0x82 => { x with eng := { x.eng with mestat1 := w } }
  | 0xA0 => { x with eng := { x.eng with glod := w } }
  | 0xA1 => { x with eng := { x.eng with gecc := w } }
  | 0xA2 => { x with eng := { x.eng with xlate := w } }
  | 0xC0 => { x with monctl := w }
  | 0x1C0 => { x with dbgctl := w }
  | _ => x

/-- Write back the old value of a CSR, of the task, of its function or of its die (R394). -/
def undoCsr (s : State) (t c : Nat) (w : Word) : State :=
  let die := (s.task t).die
  let fn := (s.launchOf t).fn
  match c with
  | 0xE0 => modOrderLog s die fn (fun g => { g with base := w })
  | 0xE1 => modOrderLog s die fn (fun g => { g with limit := w })
  | 0xE2 => modOrderLog s die fn (fun g => { g with wp := w })
  | 0xE3 => modOrderLog s die fn (fun g => { g with replay := w.getLsbD 0, full := w.getLsbD 1 })
  | 0xE4 => modOrderLog s die fn (fun g => { g with rp := w })
  | 0x101 => s.modFunction fn (fun f => { f with vfroot := w })
  | 0x102 => s.modFunction fn (fun f => { f with hostroot := w })
  | 0x1C1 => s.modDie die (fun d => { d with hangto := w.toNat % 65536 })
  | _ => s.modTask t (fun x => undoTaskCsr x c w)

/-- Write back one undone value of strand `k`: kind 0 a CSR, 1 a format-table entry, 2 and 3 the shadow tables, 4 a flag
register at the start of the phase, 5 the strand's own flags, 6 a record consumed in replay. -/
def undoOne (t k : Nat) (s : State) (u : Nat × Nat × Nat) : State :=
  match u with
  | (0, c, v) => undoCsr s t c (w64 v)
  | (1, n, v) => s.modTask t (fun x => { x with vec := { x.vec with ft := SMap.set 0 x.vec.ft n (w64 v) } })
  | (2, n, v) => s.modTask t (fun x => { x with eng := { x.eng with table0 := SMap.set 0 x.eng.table0 n (BitVec.ofNat 32 v) } })
  | (3, n, v) => s.modTask t (fun x => { x with eng := { x.eng with table1 := SMap.set 0 x.eng.table1 n (BitVec.ofNat 32 v) } })
  | (4, n, v) => s.modTask t (fun x => { x with recs := { x.recs with flags0 := SMap.set 0 x.recs.flags0 n v } })
  | (5, n, v) => s.modStrand t k (fun x => { x with ownFlags := SMap.set 0 x.ownFlags n v })
  | (_, n, _) => modOrderLog s (s.task t).die (s.launchOf t).fn (fun g => { g with consumed := n :: g.consumed })

/-- Roll a strand back to its last sync point (R395). Loads that have issued since are forgotten: they issue again, and an
answer to one finds no access. -/
def rollback (s : State) (t k : Nat) : State :=
  let sp := (s.strand t k).sync
  let s1 := (sp.undo.foldl (undoOne t k) s).modTask t (fun y => { y with loops := undoLoops y.loops sp.loops k })
  s1.modStrand t k (fun x => { x with
    r := sp.regs, seq := sp.seq, sinceSync := 0, sync := { sp with undo := [] }, replaying := true, wait := none, idle := none,
    outs := x.outs.filter (fun o => sp.outs.contains o.id || o.dest.isNone), notReady := sp.notReady, alias_ := sp.alias_,
    guard := sp.regs, arming := sp.arming, routine := if sp.regs.her then x.routine else none })

/-- The guard finds a mismatch: roll back once, then GUARD_MISMATCH (R192, R395). -/
def guardMismatch (s : State) (t k : Nat) (pc : Word) (ilen : Nat) : State :=
  if (s.strand t k).replaying then takeTrap s t k none { cause := 20 } pc ilen else rollback s t k

/-- The guard agrees at a sync point: a replay that got this far is a corrected mismatch. -/
def guardAgree (s : State) (t k : Nat) : State :=
  let task := s.task t
  let s1 := if (task.strand k).replaying then
      s.modDie task.die (fun d => d.modCore (task.core?.getD 0) (fun c => { c with corrected := min (c.corrected + 1) 65535 }))
    else s
  (s1.modTask t (fun x => x.syncStrand k)).modStrand t k (fun x => { x with replaying := false })

/-- Side effects that the pair compares before they issue (R247, R393). -/
def sideEffect : Instr → Bool
  | .stb _ _ _ _ | .sth _ _ _ _ | .stw _ _ _ _ | .std _ _ _ _ | .stdl _ _ _ _ => true
  | .ldfe _ _ _ | .ldff _ _ _ | .stef _ _ _ | .stfl _ _ _ | .sete _ | .setf _ | .feq _ _ => true
  | .amoAdd _ _ _ _ | .amoAnd _ _ _ _ | .amoOr _ _ _ _ | .amoXor _ _ _ _ | .amoMin _ _ _ _ | .amoMax _ _ _ _ => true
  | .amoMinu _ _ _ _ | .amoMaxu _ _ _ _ | .amoSwap _ _ _ _ | .amoFadd32 _ _ _ | .amoFmin32 _ _ _ => true
  | .amoFmax32 _ _ _ | .redAdd _ _ _ | .redAnd _ _ _ | .redOr _ _ _ | .redXor _ _ _ | .redMin _ _ _ => true
  | .redMax _ _ _ | .redMinu _ _ _ | .redMaxu _ _ _ | .redSwap _ _ _ | .redFadd32 _ _ | .redFmin32 _ _ => true
  | .redFmax32 _ _ | .cas _ _ _ _ | .amorAdd _ | .amorAnd _ | .amorOr _ | .amorXor _ | .amorMin _ | .amorMax _ => true
  | .amorMinu _ | .amorMaxu _ | .amorSwap _ | .amorFadd32 _ | .amorFmin32 _ | .amorFmax32 _ | .amox _ => true
  | .swait _ _ _ | .ssig _ _ | .ssigRemote _ _ | .srd _ _ | .srdc _ _ | .sset _ _ _ | .pop _ _ => true
  | .bar _ | .bara _ | .barw _ | .launch _ | .tinvPage _ _ | .tinvFunction _ | .tinvAll | .trap _ | .brk => true
  | .tret _ | .sexit | .monset _ _ | .monref _ _ | .monrd _ _ | .monclr _ | .logm _ => true
  | .mclaim _ | .mrel _ | .mstat _ | .mgo _ _ | .mtile _ _ | .mzero _ | .mdrain _ _ | .mldacc _ _ | .mspgo _ _ => true
  | .cpy _ _ | .cpy2d _ _ | .cpyslot _ | .cpyslotClaim _ | .cpyslotOut _ | .fill _ | .flush _ _ | .grow _ _ => true
  | .gbag _ _ _ | .gscat _ _ | .xstep _ | .xsend _ | .xrecv _ | .xred _ => true
  | i => (vuse i).isSome && (match i with | .vshape _ => false | .ftld _ => false | .vnx _ _ => false | _ => true)
      || (match i with
          | .vld _ | .vst _ | .vlds _ | .vsts _ | .vgath _ | .vscat _ => true
          | _ => false)

/-- A vector instruction that enters the VE queue. -/
def vectorPush (i : Instr) : Bool :=
  (match i with
    | .vld _ | .vst _ | .vlds _ | .vsts _ | .vgath _ | .vscat _ => true
    | .vshape _ => false
    | .ftld _ => false
    | .vnx _ _ => false
    | i => (vuse i).isSome)

/-- Instructions a strand may issue while a vector instruction of its own is short of its fault point (R260): effects
in its own g registers, predicates and loop state, and further vector pushes. -/
def runsAhead (i : Instr) : Bool :=
  vectorPush i || (match i with
    | .add _ _ _ | .sub _ _ _ | .and _ _ _ | .or _ _ _ | .xor _ _ _ | .andn _ _ _ | .sll _ _ _ | .srl _ _ _ => true
    | .sra _ _ _ | .ror _ _ _ | .min _ _ _ | .max _ _ _ | .minu _ _ _ | .maxu _ _ _ | .addsc1 _ _ _ => true
    | .addsc2 _ _ _ | .addsc3 _ _ _ | .addsc4 _ _ _ | .mul _ _ _ | .mulh _ _ _ | .mulhu _ _ _ | .div _ _ _ => true
    | .divu _ _ _ | .rem _ _ _ | .remu _ _ _ | .clz _ _ | .ctz _ _ | .popc _ _ | .sextB _ _ | .sextH _ _ => true
    | .sextW _ _ | .zextB _ _ | .zextH _ _ | .zextW _ _ | .addi _ _ _ | .andi _ _ _ | .ori _ _ _ | .xori _ _ _ => true
    | .slli _ _ _ | .srli _ _ _ | .srai _ _ _ | .cmpEq _ _ _ | .cmpNe _ _ _ | .cmpLt _ _ _ | .cmpGe _ _ _ => true
    | .cmpLtu _ _ _ | .cmpGeu _ _ _ | .cmpiEq _ _ _ | .cmpiNe _ _ _ | .cmpiLt _ _ _ | .cmpiLtu _ _ _ => true
    | .pand _ _ _ | .por _ _ _ | .pxor _ _ _ | .pandn _ _ _ | .sel _ _ _ _ | .b _ _ _ | .bl _ _ | .jalr _ _ _ => true
    | .loops _ _ _ | .csrr _ _ | .li _ _ | .lih _ _ | .addil _ _ _ | .nop | .vnx _ _ => true
    | _ => false)

/-! ### When a strand may issue -/

/-- The strand is parked for an answer (R123). -/
def Strand.parked (x : Strand) : Bool := x.outs.any (fun o => o.parks && !o.forSaved)

/-- Live, neither parked, waiting nor idle. -/
def Strand.ready (x : Strand) : Bool := x.live && !x.parked && x.wait.isNone && x.idle.isNone

/-- The load-value queue has room for the values that are under way and those of one more instruction: else the core issues
nothing until the guard has caught up (R392). -/
def lvqRoom (t : Task) : Bool :=
  decide (t.lvq.length + (t.strands.map (fun e => 2 * (e.2.outs.filter (fun o => o.parks && o.dest.isSome)).length
    + e.2.notReady.length + e.2.savedNotReady.length)).sum + 2 ≤ 256)

/-- Everything but the turn lets the strand issue: a launch that a warm reset touches does not go on (R160, R163, R171, R175,
R243, R392, R394, R443). -/
def issuable (s : State) (t k : Nat) : Bool :=
  let x := s.task t
  let st := x.strand k
  s.hasTask t && x.core?.isSome && x.leaving.isNone && freezeLets x k
    && !(s.service.resetting && s.service.touched.contains x.launch)
    && st.live && !st.parked && st.wait.isNone && st.idle.isNone && decide (st.sinceSync < 64) && lvqRoom x
    && (!x.dbgctl.getLsbD 0 || bitsOf x.dbgctl.toNat 2 3 == k)

/-- A YIELD passes the strand over while one of the strands it waits for is still to issue and some other strand is ready
(R200). -/
def passedOver (s : State) (t k : Nat) : Bool :=
  !((s.strand t k).passOver).isEmpty && (List.range 8).any (fun j => j != k && issuable s t j)

/-- The strands of the task in the order of their turns: round-robin after the one that issued last (R13). -/
def turns (t : Task) : List Nat := (List.range 8).map (fun i => (t.lastIssued + 1 + i) % 8)

/-- May the strand issue its next instruction? It may, and it is the next in turn of the strands that are ready, but for
those that timing keeps from issuing in the cycle, which `busy` names (R13). -/
def canIssue (s : State) (t k : Nat) : Bool :=
  issuable s t k && !passedOver s t k
    && (turns (s.task t)).find? (fun j => j == k || (!bitOf s.sel.busy j && issuable s t j && !passedOver s t j)) == some k

/-! ### Fetching (R57) -/

/-- The image in the active flash bank (R443, R444). -/
def activeImage (s : State) : List Byte :=
  (SMap.find s.service.bank s.service.flash).getD (Config.factoryImage s.service.bank)

/-- A parcel of the protected heritage area (R190). -/
def heritageParcel (s : State) (va : Word) : Nat := leNat (((Config.heritageArea (activeImage s)).drop va.toNat).take 4)

/-- The parcel at an address, number `n` of its instruction, for a fetch by a strand: from translated global memory with the
X right, its present value or an old one, as octal digit n of `stale` says; in heritage state from the heritage area. -/
def fetchParcel (s : State) (t k : Nat) (va : Word) (n : Nat := 0) : Except Stop Nat :=
  if (s.strand t k).r.her then .ok (heritageParcel s va)
  else if !isGlobal va then .error (.trap { cause := 8, tval := va })
  else
    match translate s t (s.strand t k).walkFault va .fetch with
    | .error e => .error e
    | .ok e =>
      let pa := e.pa + va.toNat % 2 ^ 17
      if (homeOfPa s pa).isNone then .error (.trap { cause := 8, tval := va, stage := true })
      else if s.badWords.contains (pa / 8) then .error (.trap { cause := 19, tval := va })
      else
        let now := readNat s.mem pa 4
        let v := bitsOf s.sel.stale (3 * n) 3
        .ok (if v = 0 then now else (oldParcels s (s.task t).launch pa s.oldCode).getD (v - 1) now)

/-- Parcels of the instruction at the pc of a strand; 1 where it cannot be fetched (log entry 27). -/
def lengthAt (s : State) (t k : Nat) : Nat :=
  match fetchParcel s t k (s.strand t k).r.pc with
  | .ok p => parcelCount p
  | .error _ => 1

/-! ### Retirement -/

/-- Where a strand goes after an instruction. -/
inductive Next where
  | fall
  | jump (pc : Word)
  /-- to the given address without examining loops, as a LOOPS does -/
  | skip (pc : Word)
  /-- issued, and retires when its answer arrives -/
  | hold
  /-- the strand's state is final as the instruction left it -/
  | done
  /-- the strand waits, and what the instruction has recorded so far stays -/
  | waitNow (w : Wait)
  /-- a trap that comes after the effect (R233) -/
  | trapAfter (t : Trap)
  /-- no engine that may run the command holds its class: CAPABILITY (R309) -/
  | capability
deriving DecidableEq, Repr, Inhabited

/-- The active loop of strand `k` that ends at `a`, deepest first; ties go to the lower counter (log entry 25). -/
def loopAt (t : Task) (k : Nat) (a : Word) : Option Nat :=
  let c := (List.range 4).filter (fun n => let l := t.loop n; l.act && l.own == k && l.stop == a)
  c.foldl (fun best n =>
    match best with
    | none => some n
    | some m => if (t.loop m).depth < (t.loop n).depth then some n else some m) none

/-- R215: the loops that end at the retired instruction, one after the other, until one loops back. -/
def loopBack (t : Task) (k : Nat) (a next : Word) : Nat → Task × Word
  | 0 => (t, next)
  | n + 1 =>
    match loopAt t k a with
    | none => (t, next)
    | some c =>
      let l := t.loop c
      if l.value.toNat + 1 < l.count.toNat then (t.setLoop c { l with value := l.value + 1 }, l.start)
      else loopBack (t.setLoop c { l with act := false }) k a next n

/-- Engine commands that the strand's instruction at a pc pushed and that have not completed; a vector instruction counts
until it completes. -/
def hasCommands (t : Task) (k : Nat) (pc : Word) : Bool :=
  (List.range 9).any (fun q => (t.queue q).any (fun e => e.strand == k && e.pc == pc))

/-- Step mode stops after a retired instruction; with DRAIN once the commands that the instruction pushed are over
(R171). -/
def stepStop (s : State) (t k : Nat) : State :=
  let x := s.task t
  let y := x.strand k
  if x.dbgctl.getLsbD 0 && y.live && x.freeze.isNone then
    if x.dbgctl.getLsbD 1 && hasCommands x k y.stepPc then s.modStrand t k (fun y => { y with stepDue := true })
    else takeTrap (s.modStrand t k (fun y => { y with stepDue := false })) t k none { cause := 30 } y.r.pc (lengthAt s t k)
  else s

/-- The instruction changes a register, predicate or loop counter of the strand itself, which the undo log keeps (R260,
R394). -/
def logsWrite (i : Instr) : Bool :=
  match i with
  | .nop => false
  | .b _ _ _ => false
  | .vnx _ _ => false
  | i => !(vectorPush i)

/-- Retire an instruction of `len` parcels of the strand; `pushes` tells a vector push, which completes later, `logged` a
write that the undo log keeps, `side` a side effect that the guard compares. -/
def retireAs (s : State) (t k len : Nat) (pushes logged side : Bool) (next : Next) : State :=
  let st := s.strand t k
  let pc := st.r.pc
  let fallPc := pc + w64 (4 * len)
  let exempt := st.r.hnd || st.r.her
  let (s1, pc') := match next with
    | .fall =>
      if exempt then (s, fallPc)
      else
        let (x, p) := loopBack (s.task t) k pc fallPc 4
        (s.modTask t (fun _ => x), p)
    | .jump p => (s, p)
    | .skip p => (s, p)
    | .hold => (s, pc)
    | .done => (s, pc)
    | .waitNow _ => (s, pc)
    | .trapAfter _ => (s, pc)
    | .capability => (s, pc)
  let s3 := s1.modStrand t k (fun x => { x with
    r := { x.r with pc := pc' }, wait := none, lastWait := none, walkFault := none, closing := false,
    lastReplay := if !pushes && (x.lastReplay.map (·.2)) == some pc then none else x.lastReplay,
    stepPc := pc, stepLen := len, sinceSync := x.sinceSync + 1,
    undoUsed := if shortOfFault (s1.task t) k && logged then x.undoUsed + 1 else x.undoUsed })
  let s4 := if side then guardAgree s3 t k else s3
  stepStop s4 t k

/-- The registers that take a value from outside the control core, which the guard gets through the load-value queue (R247,
R392). -/
def takesOutside (i : Instr) : List Reg :=
  match i with
  | .ldb d _ _ _ | .ldh d _ _ _ | .ldw d _ _ _ | .ldd d _ _ _ | .ldbu d _ _ _ | .ldhu d _ _ _ | .ldwu d _ _ _ => [d]
  | .lddl d _ _ _ | .lds d _ _ _ | .ldfe d _ _ | .ldff d _ _ | .feq d _ | .pop d _ => [d]
  | .swait d _ _ | .srd d _ | .srdc d _ | .sset d _ _ | .cas _ d _ _ => [d]
  | .amoAdd _ d _ _ | .amoAnd _ d _ _ | .amoOr _ d _ _ | .amoXor _ d _ _ | .amoMin _ d _ _ | .amoMax _ d _ _ => [d]
  | .amoMinu _ d _ _ | .amoMaxu _ d _ _ | .amoSwap _ d _ _ | .amoFadd32 d _ _ | .amoFmin32 d _ _ | .amoFmax32 d _ _ => [d]
  | .amox f => if f.nr then [] else [f.d, f.k]
  | .csrr d c | .csrw d _ c | .csrs d _ c | .csrc d _ c =>
    if c = 0x006 ∨ c = 0x00A ∨ (0x00B ≤ c.toNat ∧ c.toNat ≤ 0x010) ∨ c = 0x100 then [d] else []
  | _ => []

/-- The values an instruction has taken from outside go to the guard, when they have come. -/
def feedGuard (s : State) (t k : Nat) (i : Instr) : State :=
  match takesOutside i with
  | [] => s
  | l => s.modTask t (fun x => l.foldl (fun x d =>
      if d = 0 ∨ d.toNat ∈ (x.strand k).notReady then x else x.feed k ((x.strand k).r.gr d.toNat)) x)

/-- Retire an instruction of the strand. -/
def retire (s : State) (t k : Nat) (i : Instr) (next : Next) : State :=
  retireAs (feedGuard s t k i) t k (parcels i) (vectorPush i) (logsWrite i) (sideEffect i) next

/-- Record why the strand waits; a wait that goes on keeps its beginning (R185). -/
def setWait (s : State) (t k : Nat) (w : Wait) : State :=
  s.modStrand t k (fun x => { x with
    closing := false,
    wait := some { w with since := match x.lastWait with
      | some o => if o.kind = w.kind ∧ o.object = w.object then o.since else s.clock
      | none => s.clock } })

/-- Ask for a walk, coalescing with one of the same page and function (R189). -/
def addWalk (s : State) (die fn page source : Nat) (who : Walker) : State :=
  s.modDie die (fun d =>
    if d.walks.any (fun w => w.fn == fn && w.page == page) then
      { d with walks := d.walks.map (fun w =>
        if w.fn = fn ∧ w.page = page then
          { w with waiters := if w.waiters.contains who then w.waiters else w.waiters ++ [who] } else w) }
    else { d with walks := d.walks ++ [{ fn, page, stamp := s.clock, source, waiters := [who] }] })

/-- What the early stop of an instruction of `len` parcels does to the machine. -/
def applyStop (s : State) (t k len : Nat) : Stop → State
  | .trap tr =>
    if shortOfFault (s.task t) k then setWait s t k { kind := 0 }
    else takeTrap s t k none tr (s.strand t k).r.pc len
  | .wait w => setWait s t k w
  | .walk fn page => addWalk (setWait s t k { kind := 0 }) (s.task t).die fn page (taskSource s t) (.strand t k)
  | .report r =>
    takeTrap (s.modStrand t k (fun x => { x with reports := x.reports.erase r })) t k none r.trap r.pc r.ilen
  | .logFull a => takeTrap (logFull s a) t k none { cause := 23, tval := a.va } (s.strand t k).r.pc len

/-- Bodies a nest may run under (R294). -/
def nestBody (i : Instr) : Bool :=
  match i with
  | .vadd _ | .vsub _ | .vmul _ | .vfma _ | .vfms _ | .vmin _ | .vmax _ | .vabs _ | .vneg _ | .vscale _ => true
  | .vdot4 _ | .vtacc _ | .vand _ | .vor _ | .vxor _ | .vsll _ | .vsrl _ | .vsra _ | .vsel _ | .vcvt _ _ => true
  | .vrcp _ | .vrsq _ | .vsqrt _ | .vexp2 _ | .vlog2 _ => true
  | .vredSum _ _ | .vredMax _ _ | .vredMin _ _ | .vredSumx _ _ | .vmov _ => true
  | _ => false

/-- The strand is armed by VNX and the instruction is no body for a nest: the arming ends there (R294). -/
def armedWrongly (x : Strand) (i : Instr) : Bool :=
  match x.arming with
  | some a => a.nest.isSome && !nestBody i
  | none => false

/-- The instruction's effect is the trap itself, which the pair compares (R247). -/
def trapsAlways (i : Instr) : Bool :=
  match i with
  | .trap _ => true
  | .brk => true
  | _ => false

/-- The strand has its turn (R13), and strands that yielded to it no longer wait for it (R200). -/
def takeTurn (s : State) (t k : Nat) : State :=
  s.modTask t (fun x => { x with
    lastIssued := k, strands := x.strands.map (fun (j, y) => (j, { y with passOver := y.passOver.filter (· != k) })) })

/-- An entry of the load-value queue that an error has struck is next for the guard of the strand. -/
def lvqBad (t : Task) (k : Nat) : Bool := t.lvq.any (fun e => e.strand == k && e.bad)

/-- It is ECC_UNCORRECTABLE in a register file's place (R172, R392). -/
def lvqFault (s : State) (t k len : Nat) : State :=
  takeTrap (s.modTask t (fun x => { x with lvq := x.lvq.filter (fun e => !(e.strand == k && e.bad)) })) t k none
    { cause := 19 } (s.strand t k).r.pc len

/-- A notify write or a remote signal of a command leaves the core when the pair agrees on it, which is a sync point of the
strand that pushed the command; a mismatch lets nothing out (R393, R395). -/
def compareSend (s : State) (t : Nat) (e : Entry) (send : State → State) : State :=
  let k := e.strand
  let live := !e.orphaned && (s.strand t k).live && (s.task t).freeze.isNone
  if s.sel.guard == .mismatch then
    (if live then guardMismatch s t k (s.strand t k).r.pc (lengthAt s t k) else s)
  else if live then guardAgree (send s) t k
  else send s

/-- What a body ended in. -/
def bodyNext (s : State) (t k : Nat) (i : Instr) : Except Stop (Next × State) → State
  | .error x => applyStop (if trapsAlways i then guardAgree s t k else s) t k (parcels i) x
  | .ok (.hold, s') => s'.modStrand t k (fun x => { x with wait := none })
  | .ok (.done, s') => stepStop (s'.modStrand t k (fun x => { x with stepPc := (s.strand t k).r.pc })) t k
  | .ok (.waitNow w, s') => setWait (guardAgree s' t k) t k w
  | .ok (.trapAfter tr, s') => takeTrap (guardAgree s' t k) t k none tr (s'.strand t k).r.pc (parcels i)
  | .ok (.capability, s') => guardAgree (enterHeritage s' t k i) t k
  | .ok (n, s') => retire s' t k i n

/-- The frame of every instruction of a strand: nothing when the strand may not issue; the STEP stop when it is due;
a wait while the strand may not run ahead; the guard's comparison; then the body and what it ended in. -/
def strandNext (i : Instr) (body : M Next) (s : State) : State :=
  let t := s.sel.task
  let k := s.sel.strand
  if !canIssue s t k then s
  else
    let s := takeTurn s t k
    if (s.strand t k).stepDue then stepStop s t k
    else if lvqBad (s.task t) k && !shortOfFault (s.task t) k then lvqFault s t k (parcels i)
    else if shortOfFault (s.task t) k && (!runsAhead i || (logsWrite i && decide (64 ≤ (s.strand t k).undoUsed))) then
      setWait s t k { kind := 0 }
    else if sideEffect i && s.sel.guard == .mismatch then guardMismatch s t k (s.strand t k).r.pc (parcels i)
    else if armedWrongly (s.strand t k) i then
      if shortOfFault (s.task t) k then setWait s t k { kind := 0 }
      else takeTrap (s.modStrand t k (fun x => { x with arming := none })) t k none
        { cause := 1, tval := (firstParcel i).setWidth 64 } (s.strand t k).r.pc (parcels i)
    else
      let s0 := if shortOfFault (s.task t) k then s else s.modStrand t k (fun x => { x with undoUsed := 0 })
      bodyNext s0 t k i (body s0)

/-- An instruction of the strand `State.sel` names, as an outcome. -/
def strandStep (i : Instr) (body : M Next) (s : State) : Host.Outcome State Fault Refusal :=
  .next (strandNext i body s)

/-! ### Pushing commands (R15, R16, R116, R259) -/

/-- Push an entry to queue `q`, its first `done` iterations performed already, with the footprint of a copy or gather
command; a full queue makes the strand wait (hang kind 8). -/
def pushEntry (q : Nat) (i : Instr) (cap : Captured) (done : Nat := 0) (footprint : List Foot := []) :
    M Unit := do
  let x ← curTask
  let st ← curStrand
  let s ← getS
  if (s.launchOf s.sel.task).det && launchArrivalOpen st then trapM 14 0
  if queueSize q ≤ (x.queue q).length then waitM 8 q
  let e : Entry := { cmd := i, pc := st.r.pc, strand := s.sel.strand, serial := x.serial + 1, index := SMap.get 0 x.pushed q, cap, progress := done, footprint }
  modCurTask (fun x => { x.setQueue q (x.queue q ++ [e]) with
    serial := x.serial + 1, pushed := SMap.set 0 x.pushed q (SMap.get 0 x.pushed q + 1) })

/-- Log the old value of a task-level item before a write, for a rollback (R394). -/
def logUndo (kind number old : Nat) : M Unit :=
  modCur (fun x => { x with sync := { x.sync with undo := (kind, number, old) :: x.sync.undo } })

/-! ### Return from a handler or heritage routine (R180) -/

/-- The state TRET restores a strand to; a BAR it has gone on past waits no longer. -/
def restoreStrand (x : Strand) (pc : Word) : Strand :=
  let r := x.saved.getD x.r
  { x with
    live := x.live && !x.savedEnded, savedEnded := false, routine := none,
    r := { r with pc, hnd := false, her := false }, saved := none, notReady := x.savedNotReady, savedNotReady := [],
    arming := x.savedArming, savedArming := none,
    outs := x.outs.map (fun o => { o with forSaved := false }), wait := none, lastWait := none,
    arrivals := x.arrivals.map (fun a => { a with left := a.left || (!a.open_ && a.pc != pc) }) }

/-- The strand takes the trap that the answer to its parked instruction brought (R175, R233, R246). -/
def takeStruck (s : State) (t k : Nat) (r : FaultReport) : State :=
  takeTrap (s.modStrand t k (fun x => { x with r := { x.r with struck := none } })) t k none r.trap r.pc r.ilen

/-- The strand's waits for full/empty words of the task end, but those of the instruction at its pc (R114, R180). -/
def leaveWords (s : State) (t k : Nat) : State :=
  let pc := (s.strand t k).r.pc
  serveTask (s.modTask t (fun x => { x with
    feWaiters := x.feWaiters.filter (fun w => w.req.isSome || w.acc.who.strand != k || w.acc.who.pc == pc) })) t

/-- An engine command the handler skips: complete at once with E on its signal semaphore, if it signals. -/
def skipCommand (e : Entry) : Entry :=
  { e with skip := true, finished := true, pending := [], fault := none, firstInvalid := none, firstXw := none }

end Sys2Proof.Machine
end

