-- ==== Sys2Proof/Machine/Operands.lean ====
section
/-!
DEFINITION. Operand forms of the scalar instructions: immediates, effective addresses, alignment, register operands
(R183, R204 to R206, R211 to R213, R219, R220, R225).
-/
namespace Sys2Proof.Machine

/-- SEXT(IMM12, 12). -/
def immOf (imm : BitVec 12) : Word := imm.signExtend 64

/-- SEXT(LIT, 32). -/
def litOf (lit : BitVec 32) : Word := lit.signExtend 64

/-- Effective address of format SM: g[A] + SEXT(DISP8, 8) × size (R219, R225). -/
def eaSM (base : Word) (disp : BitVec 8) (size : Nat) : Word := base + disp.signExtend 64 * w64 size

/-- Effective address of LDDL and STDL (R220). -/
def eaLH (base : Word) (lit : BitVec 32) : Word := base + litOf lit

/-- Word displacement of a branch (R211, R212). -/
def branchTo (pc : Word) {w : Nat} (disp : BitVec w) : Word := pc + disp.signExtend 64 <<< 2

/-- An address that is not a multiple of its size traps MISALIGNED (R219). -/
def needAligned (ea : Word) (size : Nat) : M Unit := if ea.toNat % size ≠ 0 then trapM 6 ea else pure ()

/-- The pc of the issuing strand. -/
def curPc : M Word := do
  let st ← curStrand
  pure st.r.pc

/-- ILLEGAL_OPCODE with the first parcel of the instruction (R172). -/
def illegal {α : Type} (i : Instr) : M α := trapM 1 ((firstParcel i).setWidth 64)

/-- Handler or heritage state forbids the instruction (R200, R223, R236). -/
def notInHandler (i : Instr) : M Unit := do
  let st ← curStrand
  if st.r.hnd || st.r.her then illegal i else pure ()

end Sys2Proof.Machine
end

