-- ==== Sys2Proof/Machine/Alu.lean ====
section
/-!
DEFINITION. Integer arithmetic, predicates and SEL (R23, R24, R201 to R210).
-/
namespace Sys2Proof.Machine

/-! ### The operations -/

/-- Shift amounts are taken modulo 64 (R24). -/
def shiftAmt (b : Word) : Nat := b.toNat % 64

def aluSll (a b : Word) : Word := a <<< shiftAmt b

def aluSrl (a b : Word) : Word := a >>> shiftAmt b

def aluSra (a b : Word) : Word := a.sshiftRight (shiftAmt b)

def aluRor (a b : Word) : Word := a.rotateRight (shiftAmt b)

def aluMin (a b : Word) : Word := if a.slt b then a else b

def aluMax (a b : Word) : Word := if a.slt b then b else a

def aluMinu (a b : Word) : Word := if a.ult b then a else b

def aluMaxu (a b : Word) : Word := if a.ult b then b else a

def aluAddsc (n : Nat) (a b : Word) : Word := (a <<< n) + b

def mulHigh (a b : Word) : Word := wordOfInt (a.toInt * b.toInt / 2 ^ 64)

def mulHighu (a b : Word) : Word := w64 (a.toNat * b.toNat / 2 ^ 64)

/-- Signed quotient, rounded toward zero; by zero −1; −2^63 by −1 wraps to itself (R24). -/
def divSigned (a b : Word) : Word := if b = 0 then BitVec.allOnes 64 else wordOfInt (a.toInt.tdiv b.toInt)

def divUnsigned (a b : Word) : Word := if b = 0 then BitVec.allOnes 64 else w64 (a.toNat / b.toNat)

/-- Signed remainder with the dividend's sign; by zero the dividend. -/
def remSigned (a b : Word) : Word := if b = 0 then a else wordOfInt (a.toInt.tmod b.toInt)

def remUnsigned (a b : Word) : Word := if b = 0 then a else w64 (a.toNat % b.toNat)

/-- Number of leading zero bits, 64 for 0. -/
def countLz (a : Word) : Word := if a = 0 then 64 else w64 (63 - Nat.log2 a.toNat)

/-- Number of trailing zero bits, 64 for 0. -/
def countTz (a : Word) : Word := w64 (((List.range 64).find? (fun i => a.getLsbD i)).getD 64)

/-- Number of set bits. -/
def countOnes (a : Word) : Word := w64 ((List.range 64).countP (fun i => a.getLsbD i))

/-- The literal of LIH in bits 63:32, bits 31:0 kept. -/
def putHigh (old : Word) (lit : BitVec 32) : Word := (old &&& 0xFFFFFFFF#64) ||| (lit.setWidth 64 <<< 32)

/-! ### The shared bodies -/

/-- g[D] from g[A] and g[B], with poison by R182. -/
def aluBody (d a b : Reg) (f : Word → Word → Word) : M Next := do
  let x ← rd a
  let y ← rd b
  wrResult d [a, b] (f x y)
  pure .fall

/-- g[D] from g[A] alone. -/
def unaryBody (d a : Reg) (f : Word → Word) : M Next := do
  let x ← rd a
  wrResult d [a] (f x)
  pure .fall

/-- p[D] from a comparison of g[A] and g[B]; poison escapes (R183). -/
def cmpBody (p : BitVec 4) (a b : Reg) (f : Word → Word → Bool) : M Next := do
  let x ← rdOut a
  let y ← rdOut b
  modRegs (fun r => r.setPred p.toNat (f x y))
  pure .fall

/-- p[D] from a comparison of g[A] with an immediate. -/
def cmpiBody (p : BitVec 4) (a : Reg) (imm : BitVec 12) (f : Word → Word → Bool) : M Next := do
  let x ← rdOut a
  modRegs (fun r => r.setPred p.toNat (f x (immOf imm)))
  pure .fall

/-- p[D] from p[A] and p[B]. -/
def plogBody (d a b : BitVec 4) (f : Bool → Bool → Bool) : M Next := do
  modRegs (fun r => r.setPred d.toNat (f (r.pred a.toNat) (r.pred b.toNat)))
  pure .fall

/-! ### The instructions -/

/-- R201. -/
def execAdd (d a b : Reg) (s : State) : Host.Outcome State Fault Refusal :=
  strandStep (.add d a b) (aluBody d a b (fun x y => x + y)) s

/-- R201. -/
def execSub (d a b : Reg) (s : State) : Host.Outcome State Fault Refusal :=
  strandStep (.sub d a b) (aluBody d a b (fun x y => x - y)) s

/-- R201. -/
def execAnd (d a b : Reg) (s : State) : Host.Outcome State Fault Refusal :=
  strandStep (.and d a b) (aluBody d a b (fun x y => x &&& y)) s

/-- R201. -/
def execOr (d a b : Reg) (s : State) : Host.Outcome State Fault Refusal :=
  strandStep (.or d a b) (aluBody d a b (fun x y => x ||| y)) s

/-- R201. -/
def execXor (d a b : Reg) (s : State) : Host.Outcome State Fault Refusal :=
  strandStep (.xor d a b) (aluBody d a b (fun x y => x ^^^ y)) s

/-- R201. -/
def execAndn (d a b : Reg) (s : State) : Host.Outcome State Fault Refusal :=
  strandStep (.andn d a b) (aluBody d a b (fun x y => x &&& ~~~y)) s

/-- R201. -/
def execSll (d a b : Reg) (s : State) : Host.Outcome State Fault Refusal :=
  strandStep (.sll d a b) (aluBody d a b aluSll) s

/-- R201. -/
def execSrl (d a b : Reg) (s : State) : Host.Outcome State Fault Refusal :=
  strandStep (.srl d a b) (aluBody d a b aluSrl) s

/-- R201. -/
def execSra (d a b : Reg) (s : State) : Host.Outcome State Fault Refusal :=
  strandStep (.sra d a b) (aluBody d a b aluSra) s

/-- R201. -/
def execRor (d a b : Reg) (s : State) : Host.Outcome State Fault Refusal :=
  strandStep (.ror d a b) (aluBody d a b aluRor) s

/-- R201. -/
def execMin (d a b : Reg) (s : State) : Host.Outcome State Fault Refusal :=
  strandStep (.min d a b) (aluBody d a b aluMin) s

/-- R201. -/
def execMax (d a b : Reg) (s : State) : Host.Outcome State Fault Refusal :=
  strandStep (.max d a b) (aluBody d a b aluMax) s

/-- R201. -/
def execMinu (d a b : Reg) (s : State) : Host.Outcome State Fault Refusal :=
  strandStep (.minu d a b) (aluBody d a b aluMinu) s

/-- R201. -/
def execMaxu (d a b : Reg) (s : State) : Host.Outcome State Fault Refusal :=
  strandStep (.maxu d a b) (aluBody d a b aluMaxu) s

/-- R201. -/
def execAddsc1 (d a b : Reg) (s : State) : Host.Outcome State Fault Refusal :=
  strandStep (.addsc1 d a b) (aluBody d a b (aluAddsc 1)) s

/-- R201. -/
def execAddsc2 (d a b : Reg) (s : State) : Host.Outcome State Fault Refusal :=
  strandStep (.addsc2 d a b) (aluBody d a b (aluAddsc 2)) s

/-- R201. -/
def execAddsc3 (d a b : Reg) (s : State) : Host.Outcome State Fault Refusal :=
  strandStep (.addsc3 d a b) (aluBody d a b (aluAddsc 3)) s

/-- R201. -/
def execAddsc4 (d a b : Reg) (s : State) : Host.Outcome State Fault Refusal :=
  strandStep (.addsc4 d a b) (aluBody d a b (aluAddsc 4)) s

/-- R202. -/
def execMul (d a b : Reg) (s : State) : Host.Outcome State Fault Refusal :=
  strandStep (.mul d a b) (aluBody d a b (fun x y => x * y)) s

/-- R202. -/
def execMulh (d a b : Reg) (s : State) : Host.Outcome State Fault Refusal :=
  strandStep (.mulh d a b) (aluBody d a b mulHigh) s

/-- R202. -/
def execMulhu (d a b : Reg) (s : State) : Host.Outcome State Fault Refusal :=
  strandStep (.mulhu d a b) (aluBody d a b mulHighu) s

/-- R202. -/
def execDiv (d a b : Reg) (s : State) : Host.Outcome State Fault Refusal :=
  strandStep (.div d a b) (aluBody d a b divSigned) s

/-- R202. -/
def execDivu (d a b : Reg) (s : State) : Host.Outcome State Fault Refusal :=
  strandStep (.divu d a b) (aluBody d a b divUnsigned) s

/-- R202. -/
def execRem (d a b : Reg) (s : State) : Host.Outcome State Fault Refusal :=
  strandStep (.rem d a b) (aluBody d a b remSigned) s

/-- R202. -/
def execRemu (d a b : Reg) (s : State) : Host.Outcome State Fault Refusal :=
  strandStep (.remu d a b) (aluBody d a b remUnsigned) s

/-- R203. -/
def execClz (d a : Reg) (s : State) : Host.Outcome State Fault Refusal :=
  strandStep (.clz d a) (unaryBody d a countLz) s

/-- R203. -/
def execCtz (d a : Reg) (s : State) : Host.Outcome State Fault Refusal :=
  strandStep (.ctz d a) (unaryBody d a countTz) s

/-- R203. -/
def execPopc (d a : Reg) (s : State) : Host.Outcome State Fault Refusal :=
  strandStep (.popc d a) (unaryBody d a countOnes) s

/-- R203. -/
def execSextB (d a : Reg) (s : State) : Host.Outcome State Fault Refusal :=
  strandStep (.sextB d a) (unaryBody d a (fun x => sextW x 8)) s

/-- R203. -/
def execSextH (d a : Reg) (s : State) : Host.Outcome State Fault Refusal :=
  strandStep (.sextH d a) (unaryBody d a (fun x => sextW x 16)) s

/-- R203. -/
def execSextW (d a : Reg) (s : State) : Host.Outcome State Fault Refusal :=
  strandStep (.sextW d a) (unaryBody d a (fun x => sextW x 32)) s

/-- R203. -/
def execZextB (d a : Reg) (s : State) : Host.Outcome State Fault Refusal :=
  strandStep (.zextB d a) (unaryBody d a (fun x => zextW x 8)) s

/-- R203. -/
def execZextH (d a : Reg) (s : State) : Host.Outcome State Fault Refusal :=
  strandStep (.zextH d a) (unaryBody d a (fun x => zextW x 16)) s

/-- R203. -/
def execZextW (d a : Reg) (s : State) : Host.Outcome State Fault Refusal :=
  strandStep (.zextW d a) (unaryBody d a (fun x => zextW x 32)) s

/-- R204. -/
def execAddi (d a : Reg) (imm : BitVec 12) (s : State) : Host.Outcome State Fault Refusal :=
  strandStep (.addi d a imm) (unaryBody d a (fun x => x + immOf imm)) s

/-- R204. -/
def execAndi (d a : Reg) (imm : BitVec 12) (s : State) : Host.Outcome State Fault Refusal :=
  strandStep (.andi d a imm) (unaryBody d a (fun x => x &&& immOf imm)) s

/-- R204. -/
def execOri (d a : Reg) (imm : BitVec 12) (s : State) : Host.Outcome State Fault Refusal :=
  strandStep (.ori d a imm) (unaryBody d a (fun x => x ||| immOf imm)) s

/-- R204. -/
def execXori (d a : Reg) (imm : BitVec 12) (s : State) : Host.Outcome State Fault Refusal :=
  strandStep (.xori d a imm) (unaryBody d a (fun x => x ^^^ immOf imm)) s

/-- R205. -/
def execSlli (d a : Reg) (amt : BitVec 6) (s : State) : Host.Outcome State Fault Refusal :=
  strandStep (.slli d a amt) (unaryBody d a (fun x => aluSll x (amt.setWidth 64))) s

/-- R205. -/
def execSrli (d a : Reg) (amt : BitVec 6) (s : State) : Host.Outcome State Fault Refusal :=
  strandStep (.srli d a amt) (unaryBody d a (fun x => aluSrl x (amt.setWidth 64))) s

/-- R205. -/
def execSrai (d a : Reg) (amt : BitVec 6) (s : State) : Host.Outcome State Fault Refusal :=
  strandStep (.srai d a amt) (unaryBody d a (fun x => aluSra x (amt.setWidth 64))) s

/-- R206: reads no g source. -/
def execLi (d : Reg) (lit : BitVec 32) (s : State) : Host.Outcome State Fault Refusal :=
  strandStep (.li d lit) (do wr d (litOf lit); pure .fall) s

/-- R206: a poisoned g[D] is written clean. -/
def execLih (d : Reg) (lit : BitVec 32) (s : State) : Host.Outcome State Fault Refusal :=
  strandStep (.lih d lit) (do let x ← rd d; wr d (putHigh x lit); pure .fall) s

/-- R206. -/
def execAddil (d a : Reg) (lit : BitVec 32) (s : State) : Host.Outcome State Fault Refusal :=
  strandStep (.addil d a lit) (unaryBody d a (fun x => x + litOf lit)) s

/-- R207. -/
def execCmpEq (p : BitVec 4) (a b : Reg) (s : State) : Host.Outcome State Fault Refusal :=
  strandStep (.cmpEq p a b) (cmpBody p a b (fun x y => x == y)) s

/-- R207. -/
def execCmpNe (p : BitVec 4) (a b : Reg) (s : State) : Host.Outcome State Fault Refusal :=
  strandStep (.cmpNe p a b) (cmpBody p a b (fun x y => x != y)) s

/-- R207. -/
def execCmpLt (p : BitVec 4) (a b : Reg) (s : State) : Host.Outcome State Fault Refusal :=
  strandStep (.cmpLt p a b) (cmpBody p a b (fun x y => x.slt y)) s

/-- R207. -/
def execCmpGe (p : BitVec 4) (a b : Reg) (s : State) : Host.Outcome State Fault Refusal :=
  strandStep (.cmpGe p a b) (cmpBody p a b (fun x y => !(x.slt y))) s

/-- R207. -/
def execCmpLtu (p : BitVec 4) (a b : Reg) (s : State) : Host.Outcome State Fault Refusal :=
  strandStep (.cmpLtu p a b) (cmpBody p a b (fun x y => x.ult y)) s

/-- R207. -/
def execCmpGeu (p : BitVec 4) (a b : Reg) (s : State) : Host.Outcome State Fault Refusal :=
  strandStep (.cmpGeu p a b) (cmpBody p a b (fun x y => !(x.ult y))) s

/-- R208. -/
def execCmpiEq (p : BitVec 4) (a : Reg) (imm : BitVec 12) (s : State) : Host.Outcome State Fault Refusal :=
  strandStep (.cmpiEq p a imm) (cmpiBody p a imm (fun x y => x == y)) s

/-- R208. -/
def execCmpiNe (p : BitVec 4) (a : Reg) (imm : BitVec 12) (s : State) : Host.Outcome State Fault Refusal :=
  strandStep (.cmpiNe p a imm) (cmpiBody p a imm (fun x y => x != y)) s

/-- R208. -/
def execCmpiLt (p : BitVec 4) (a : Reg) (imm : BitVec 12) (s : State) : Host.Outcome State Fault Refusal :=
  strandStep (.cmpiLt p a imm) (cmpiBody p a imm (fun x y => x.slt y)) s

/-- R208. -/
def execCmpiLtu (p : BitVec 4) (a : Reg) (imm : BitVec 12) (s : State) : Host.Outcome State Fault Refusal :=
  strandStep (.cmpiLtu p a imm) (cmpiBody p a imm (fun x y => x.ult y)) s

/-- R209. -/
def execPand (d a b : BitVec 4) (s : State) : Host.Outcome State Fault Refusal :=
  strandStep (.pand d a b) (plogBody d a b (fun x y => x && y)) s

/-- R209. -/
def execPor (d a b : BitVec 4) (s : State) : Host.Outcome State Fault Refusal :=
  strandStep (.por d a b) (plogBody d a b (fun x y => x || y)) s

/-- R209. -/
def execPxor (d a b : BitVec 4) (s : State) : Host.Outcome State Fault Refusal :=
  strandStep (.pxor d a b) (plogBody d a b (fun x y => x != y)) s

/-- R209. -/
def execPandn (d a b : BitVec 4) (s : State) : Host.Outcome State Fault Refusal :=
  strandStep (.pandn d a b) (plogBody d a b (fun x y => x && !y)) s

/-- R210: reads both sources, so that either's poison passes on. -/
def execSel (p : BitVec 4) (d a b : Reg) (s : State) : Host.Outcome State Fault Refusal :=
  strandStep (.sel p d a b) (do
    let x ← rd a
    let y ← rd b
    let st ← curStrand
    wrResult d [a, b] (if st.r.pred p.toNat then x else y)
    pure .fall) s

end Sys2Proof.Machine
end

