-- ==== Sys2Proof/Machine/Flags.lean ====
section
/-!
DEFINITION. Sticky flags: where each engine keeps them, the view of a strand of a deterministic launch, and the traps
their enables raise (R36, R198, R256, R257). How each computation sets flags stands beside it in Numbers.
-/
namespace Sys2Proof.Machine

/-- The status CSRs that hold flags. -/
inductive FlagReg where
  | vstat | mestat0 | mestat1 | gecc | xlate
deriving DecidableEq, Repr, Inhabited

/-- Key of a flag register in the per-phase records. -/
def FlagReg.key : FlagReg → Nat
  | .vstat => 0
  | .mestat0 => 1
  | .mestat1 => 2
  | .gecc => 3
  | .xlate => 4

/-- The register's value for the whole task. -/
def FlagReg.read (t : Task) : FlagReg → Word
  | .vstat => t.vec.vstat
  | .mestat0 => t.eng.mestat0
  | .mestat1 => t.eng.mestat1
  | .gecc => t.eng.gecc
  | .xlate => t.eng.xlate

def FlagReg.write (t : Task) (v : Word) : FlagReg → Task
  | .vstat => { t with vec := { t.vec with vstat := v } }
  | .mestat0 => { t with eng := { t.eng with mestat0 := v } }
  | .mestat1 => { t with eng := { t.eng with mestat1 := v } }
  | .gecc => { t with eng := { t.eng with gecc := v } }
  | .xlate => { t with eng := { t.eng with xlate := v } }

/-- GECC with a later error and later flags: an error writes IDX and KIND where KIND is 0 and else sets MORE; flags alone leave
all three (R356). -/
def geccJoin (a b : Word) : Word :=
  let kind := fun (w : Word) => bitsOf w.toNat 32 3
  let rest := fun (w : Word) => w &&& ~~~0x7FFFFFFFF#64
  if kind b = 0 then a ||| rest b
  else if kind a = 0 then rest a ||| b
  else a ||| rest b ||| 0x800000000#64

/-- A flag register's value joined with a later one. -/
def FlagReg.join (r : FlagReg) (a b : Word) : Word :=
  match r with
  | .vstat => a ||| b
  | .mestat0 => a ||| b
  | .mestat1 => a ||| b
  | .gecc => geccJoin a b
  | .xlate => a ||| b

/-- The bits of a flag register that are no flags and read alike for every strand: the enables INVE of GECC, INVE and XWE
of XLATE (R356, R384). -/
def FlagReg.enables : FlagReg → Word
  | .vstat => 0
  | .mestat0 => 0
  | .mestat1 => 0
  | .gecc => 0x1000000000000
  | .xlate => 0x30000000000

/-- Set flags, for an instruction or command of strand `k`; for GECC also the error met (R356). -/
def raiseFlags (t : Task) (k : Nat) (r : FlagReg) (flags : Nat) : Task :=
  let t1 := r.write t (r.join (r.read t) (w64 flags))
  t1.modStrand k (fun x => { x with
    ownFlags := SMap.set 0 x.ownFlags r.key (r.join (w64 (SMap.get 0 x.ownFlags r.key)) (w64 flags)).toNat })

/-- What strand `k` reads: all flags in a free launch; in a deterministic one those of the phase's start and its own, with
the enables as they are (R198, R356, R384, log entry 108). -/
def flagView (t : Task) (k : Nat) (det : Bool) (r : FlagReg) : Word :=
  if det then
    (r.join (w64 (SMap.get 0 t.recs.flags0 r.key)) (w64 (SMap.get 0 (t.strand k).ownFlags r.key)) &&& ~~~r.enables)
      ||| (r.read t &&& r.enables)
  else r.read t

/-- At a launch barrier every strand's flags join, and the views start anew. -/
def joinFlags (t : Task) : Task :=
  let rs : List FlagReg := [.vstat, .mestat0, .mestat1, .gecc, .xlate]
  { t with
    recs := { t.recs with flags0 := rs.foldl (fun m r => SMap.set 0 m r.key (r.read t).toNat) [] },
    strands := t.strands.map (fun (k, x) => (k, { x with ownFlags := [] })) }

/-- An instruction that reads a CSR implicitly: not after another strand has written it in the phase (R198). -/
def csrImplicit (n : Nat) : M Unit := do
  let l ← curLaunch
  let s ← getS
  let t ← curTask
  if l.det then
    match SMap.find n t.recs.csrHolder with
    | some (h, w) => if w && h != s.sel.strand then trapRes 14 n else pure ()
    | none => pure ()
  else pure ()

/-- The trap the enables of a control word raise: FP_INVALID before XW_OVERFLOW, with the lowest element of each. -/
def enabledTrap (inve xwe : Bool) (firstInvalid firstXw : Option Nat) : Option Trap :=
  match inve, firstInvalid with
  | true, some e => some { cause := 36, tval := w64 e }
  | _, _ =>
    match xwe, firstXw with
    | true, some e => some { cause := 35, tval := w64 e }
    | _, _ => none

end Sys2Proof.Machine
end

