-- ==== Sys2Proof/Machine/LoadStore.lean ====
section
/-!
DEFINITION. Scalar loads and stores, speculative loads and CHK (R182, R183, R219 to R222).
-/
namespace Sys2Proof.Machine

/-- The value a reply carries. -/
def Reply.value : Reply → Nat
  | .data v => v
  | .dataOvf v => v
  | .ack _ => 0
  | .redirect _ => 0
  | .fault _ => 0

/-- A loaded value of a size, sign- or zero-extended (R219). -/
def extendTo (v size : Nat) (signed : Bool) : Word :=
  if signed then sextW (w64 v) (8 * size) else zextW (w64 v) (8 * size)

/-- Every load of R219 and R220 from its effective address on. -/
def loadFrom (d : Reg) (ea : Word) (size : Nat) (signed : Bool) (oc : BitVec 4) (ilen : Nat) (defers : Bool := false) :
    M Next := do
  needAligned ea size
  needReady d
  let r ← issueAcc { va := ea, size, cls := oc.toNat, need := .read, op := .load, ilen,
                     sem := size == 4 && oc == 15, dest := some { reg := d.toNat, width := 8 * size, signed, defers } }
  match r with
  | .done y => do wr d (extendTo y.value size signed); pure .fall
  | .sent _ => do
    let st ← curStrand
    if st.parked then pure .hold
    else do
      modCur (fun x => { x with notReady := if d = 0 then x.notReady else d.toNat :: x.notReady })
      pure .fall

/-- An access without a value is on its way: the strand goes on, unless it waits for the answer (R123, R406). -/
def sentNext : M Next := do
  let st ← curStrand
  pure (if st.parked then .hold else .fall)

/-- Every store of R219 and R220 from its effective address on. -/
def storeTo (v : Word) (ea : Word) (size : Nat) (oc : BitVec 4) (ilen : Nat) : M Next := do
  needAligned ea size
  let r ← issueAcc { va := ea, size, cls := oc.toNat, need := .write, op := .store (enabledBytes v.toNat size), ilen,
                     nr := true }
  match r with
  | .done _ => pure .fall
  | .sent _ => sentNext

/-- A load in format SM. -/
def loadSM (d a : Reg) (oc : BitVec 4) (disp : BitVec 8) (size : Nat) (signed : Bool) : M Next := do
  let x ← rdOut a
  loadFrom d (eaSM x disp size) size signed oc 1

/-- A store in format SM. -/
def storeSM (d a : Reg) (oc : BitVec 4) (disp : BitVec 8) (size : Nat) : M Next := do
  let x ← rdOut a
  let v ← rdOut d
  storeTo v (eaSM x disp size) size oc 1

/-- R219. -/
def execLdb (d a : Reg) (oc : BitVec 4) (disp : BitVec 8) (s : State) : Host.Outcome State Fault Refusal :=
  strandStep (.ldb d a oc disp) (loadSM d a oc disp 1 true) s

/-- R219. -/
def execLdh (d a : Reg) (oc : BitVec 4) (disp : BitVec 8) (s : State) : Host.Outcome State Fault Refusal :=
  strandStep (.ldh d a oc disp) (loadSM d a oc disp 2 true) s

/-- R219. -/
def execLdw (d a : Reg) (oc : BitVec 4) (disp : BitVec 8) (s : State) : Host.Outcome State Fault Refusal :=
  strandStep (.ldw d a oc disp) (loadSM d a oc disp 4 true) s

/-- R219. -/
def execLdd (d a : Reg) (oc : BitVec 4) (disp : BitVec 8) (s : State) : Host.Outcome State Fault Refusal :=
  strandStep (.ldd d a oc disp) (loadSM d a oc disp 8 false) s

/-- R219. -/
def execLdbu (d a : Reg) (oc : BitVec 4) (disp : BitVec 8) (s : State) : Host.Outcome State Fault Refusal :=
  strandStep (.ldbu d a oc disp) (loadSM d a oc disp 1 false) s

/-- R219. -/
def execLdhu (d a : Reg) (oc : BitVec 4) (disp : BitVec 8) (s : State) : Host.Outcome State Fault Refusal :=
  strandStep (.ldhu d a oc disp) (loadSM d a oc disp 2 false) s

/-- R219. -/
def execLdwu (d a : Reg) (oc : BitVec 4) (disp : BitVec 8) (s : State) : Host.Outcome State Fault Refusal :=
  strandStep (.ldwu d a oc disp) (loadSM d a oc disp 4 false) s

/-- R219. -/
def execStb (d a : Reg) (oc : BitVec 4) (disp : BitVec 8) (s : State) : Host.Outcome State Fault Refusal :=
  strandStep (.stb d a oc disp) (storeSM d a oc disp 1) s

/-- R219. -/
def execSth (d a : Reg) (oc : BitVec 4) (disp : BitVec 8) (s : State) : Host.Outcome State Fault Refusal :=
  strandStep (.sth d a oc disp) (storeSM d a oc disp 2) s

/-- R219. -/
def execStw (d a : Reg) (oc : BitVec 4) (disp : BitVec 8) (s : State) : Host.Outcome State Fault Refusal :=
  strandStep (.stw d a oc disp) (storeSM d a oc disp 4) s

/-- R219. -/
def execStd (d a : Reg) (oc : BitVec 4) (disp : BitVec 8) (s : State) : Host.Outcome State Fault Refusal :=
  strandStep (.std d a oc disp) (storeSM d a oc disp 8) s

/-- R220. -/
def execLddl (d a : Reg) (oc : BitVec 4) (lit : BitVec 32) (s : State) : Host.Outcome State Fault Refusal :=
  strandStep (.lddl d a oc lit) (do
    let x ← rdOut a
    loadFrom d (eaLH x lit) 8 false oc 3) s

/-- R220. -/
def execStdl (d a : Reg) (oc : BitVec 4) (lit : BitVec 32) (s : State) : Host.Outcome State Fault Refusal :=
  strandStep (.stdl d a oc lit) (do
    let x ← rdOut a
    let v ← rdOut d
    storeTo v (eaLH x lit) 8 oc 3) s

/-- Write a deferred fault into g[D]: the address as value, the cause as poison; the access is not made (R182, R221). -/
def poisonWith (d : Reg) (v : Word) (cause : Nat) : M Next := do
  needReady d
  modRegs (fun r => r.setPoison d.toNat v cause)
  pure .fall

/-- Causes LDS defers (R221). -/
def deferrable (cause : Nat) : Bool := cause == 6 || cause == 7 || cause == 8 || cause == 9 || cause == 19 || cause == 39

/-- The home or page makes an LDS poison with POISON_CHECK (R221). -/
def ldsDefers (p : Place) : Bool :=
  p.tso || p.log || (match p.home with
    | .host _ => true
    | .window _ => true
    | .spad _ => false
    | .hbm _ => false)

/-- A deferrable fault that an instruction meets before its access is on its way, or as it performs at the own scratchpad,
becomes poison, and nothing else of the instruction stays: no alias-window entry, no stamp (R221). -/
def deferFaults (d : Reg) (ea : Word) (body : M Next) : M Next := fun s =>
  match body s with
  | .error (.trap tr) => if deferrable tr.cause then poisonWith d ea tr.cause s else .error (.trap tr)
  | r => r

/-- R221: LDD whose faults of address, translation and data become poison. -/
def ldsBody (d a : Reg) (oc : BitVec 4) (disp : BitVec 8) : M Next := do
  needReady d
  let x ← rd a
  let st ← curStrand
  let cause := st.r.poisonOf a.toNat
  if cause ≠ 0 then poisonWith d x cause
  else
    let ea := eaSM x disp 8
    deferFaults d ea (do
      needAligned ea 8
      let s ← getS
      match checkPlace s s.sel.task s.sel.strand { va := ea, size := 8, cls := oc.toNat, need := .read, op := .load } with
      | .error e => stop e
      | .ok p => if ldsDefers p then poisonWith d ea 10 else loadFrom d ea 8 false oc 1 true)

/-- R221. -/
def execLds (d a : Reg) (oc : BitVec 4) (disp : BitVec 8) (s : State) : Host.Outcome State Fault Refusal :=
  strandStep (.lds d a oc disp) (ldsBody d a oc disp) s

/-- R222: traps with the recorded cause when g[A] is poisoned. -/
def execChk (a : Reg) (s : State) : Host.Outcome State Fault Refusal :=
  strandStep (.chk a) (do
    let x ← rd a
    let st ← curStrand
    let c := st.r.poisonOf a.toNat
    if c ≠ 0 then stop (.trap { cause := c, tval := x, chk := true }) else pure .fall) s

end Sys2Proof.Machine
end

