-- ==== Sys2Proof/Machine/Sync.lean ====
section
/-!
DEFINITION. Synchronisation: full/empty operations, atomics, fences, barriers, semaphores, output FIFOs
(R113 to R117, R225 to R240).
-/
namespace Sys2Proof.Machine

/-- What a class-15 access of the own task needs before it issues: no report due, nothing of the strand outstanding,
and no open arrival at the launch barrier in a deterministic launch. It empties the alias window (R110, R112, R237). -/
def classGate : M Unit := do
  let s ← getS
  let st ← curStrand
  let t ← curTask
  if (s.launchOf s.sel.task).det && launchArrivalOpen st then trapM 14 0
  takeReports
  if !st.outs.isEmpty || !(vecAccesses t s.sel.strand).isEmpty || shortOfFault t s.sel.strand
      || forkHeld s s.sel.task s.sel.strand then waitM 7 0
  modCur (fun x => { x with alias_ := [] })

/-! ### Full/empty operations -/

/-- Write a reply of a full/empty operation to its destination. -/
def feFinish (d : Option Reg) (r : Reply) : M Next := do
  match d with
  | some g => wr g (w64 r.value)
  | none => pure ()
  pure .fall

/-- The operation waits for a state of the word: SETE, SETF, FEQ and STFL never do (R225, R226). -/
def FeOp.waits (op : FeOp) : Bool := op == .ldfe || op == .ldff || op == .stef

/-- A full/empty operation on a word of the own scratchpad: it takes its place among the word's waiters, and takes what the
word answered when its turn has come (R114). -/
def feLocal (a : Acc) (op : FeOp) (v : Nat) (d : Option Reg) : M Next := do
  classGate
  footGate a.va 8 a.stores
  let s ← getS
  let t := s.sel.task
  let w := a.addr / 8
  let me := fun (x : FeWaiter) => x.req.isNone && x.acc == a
  let leave := modCurTask (fun x => { x with feWaiters := x.feWaiters.filter (fun x => !me x) })
  match (s.task t).feWaiters.find? me with
  | some { granted := some (.fault e), .. } => do leave; pure (.trapAfter e)
  | some { granted := some r, .. } => do leave; feFinish d r
  | mine =>
    let mayGo := match firstReady (s.task t) w with
      | some x => me x || !op.waits
      | none => op.ready (isFull (s.task t) w)
    if !mayGo then do
      if mine.isNone then modCurTask (fun x => { x with feWaiters := x.feWaiters ++ [{ acc := a }] })
      pure (.waitNow { kind := 3, object := a.va.toNat % 2 ^ 48, amount := if op == .stef then 0 else 1 })
    else
      match feStep s a op v with
      | .held => waitM 7 (a.va.toNat % 2 ^ 48)
      | .trap s' e => do
        if e.cause = 23 then stop (.logFull a)
        setS s'
        leave
        modS (fun s => let (s1, l) := serve s t w; sendAnswers s1 l)
        pure (.trapAfter e)
      | .ok s' r => do
        setS s'
        leave
        modS (fun s => let (s1, l) := serve s t w; sendAnswers s1 l)
        feFinish d r

/-- R225, R226 from the effective address on. -/
def feBody (ea : Word) (op : FeOp) (v : Word) (d : Option Reg) : M Next := do
  needAligned ea 8
  match d with
  | some g => needReady g
  | none => pure ()
  let s ← getS
  let t := s.sel.task
  match spadTarget s t ea with
  | none => trapM 9 ea
  | some (p, off) =>
    if (s.task p).spsize < off + 8 then trapM 9 ea
    else if p = t then do
      let st ← curStrand
      let a : Acc := { who := { task := t, strand := s.sel.strand, pc := st.r.pc }, home := .spad t, addr := off,
                       va := foldVa s t ea, size := 8, cls := 15, op := .fe op v.toNat }
      feLocal a op v.toNat d
    else do
      let _ ← issueAcc { va := ea, size := 8, cls := 15, need := if op == .ldff || op == .feq then .read else .readWrite,
                         op := .fe op v.toNat, spadOnly := true, dest := d.map (fun g => { reg := g.toNat }), parks := true }
      pure .hold

/-- R225: waits for full, loads, leaves the word empty. -/
def execLdfe (d a : Reg) (disp : BitVec 8) (s : State) : Host.Outcome State Fault Refusal :=
  strandStep (.ldfe d a disp) (do let x ← rdOut a; feBody (eaSM x disp 8) .ldfe 0 (some d)) s

/-- R225: waits for full, loads, leaves the word full. -/
def execLdff (d a : Reg) (disp : BitVec 8) (s : State) : Host.Outcome State Fault Refusal :=
  strandStep (.ldff d a disp) (do let x ← rdOut a; feBody (eaSM x disp 8) .ldff 0 (some d)) s

/-- R225: waits for empty, stores, sets full. -/
def execStef (d a : Reg) (disp : BitVec 8) (s : State) : Host.Outcome State Fault Refusal :=
  strandStep (.stef d a disp) (do let x ← rdOut a; let v ← rdOut d; feBody (eaSM x disp 8) .stef v none) s

/-- R225: stores and sets full without waiting. -/
def execStfl (d a : Reg) (disp : BitVec 8) (s : State) : Host.Outcome State Fault Refusal :=
  strandStep (.stfl d a disp) (do let x ← rdOut a; let v ← rdOut d; feBody (eaSM x disp 8) .stfl v none) s

/-- R226. -/
def execSete (a : Reg) (s : State) : Host.Outcome State Fault Refusal :=
  strandStep (.sete a) (do let x ← rdOut a; feBody x .sete 0 none) s

/-- R226. -/
def execSetf (a : Reg) (s : State) : Host.Outcome State Fault Refusal :=
  strandStep (.setf a) (do let x ← rdOut a; feBody x .setf 0 none) s

/-- R226. -/
def execFeq (d a : Reg) (s : State) : Host.Outcome State Fault Refusal :=
  strandStep (.feq d a) (do let x ← rdOut a; feBody x .feq 0 (some d)) s

/-! ### Atomics -/

/-- Bytes of an atomic (R227). -/
def atomBytes (sz : Bool) : Nat := if sz then 8 else 4

/-- AMO, RED and CAS from their operands on (R229). -/
def atomicBody (ea : Word) (n : Nat) (op : AccOp) (d : Option Reg) : M Next := do
  needAligned ea n
  match d with
  | some g => needReady g
  | none => pure ()
  let r ← issueAcc { va := ea, size := n, cls := 15, need := .readWrite, op, nr := d.isNone, atomic := true,
                     dest := d.map (fun g => { reg := g.toNat, width := 8 * n, signed := true }),
                     parks := d.isSome }
  match r, d with
  | .done y, some g => do wr g (extendTo y.value n true); pure .fall
  | .done _, none => pure .fall
  | .sent _, some _ => pure .hold
  | .sent _, none => sentNext

/-- AMO: the old value is returned, sign-extended. -/
def amoBody (fn : AtomFn) (sz : Bool) (d a b : Reg) : M Next := do
  let ea ← rdOut a
  let v ← rdOut b
  let n := atomBytes sz
  atomicBody ea n (.atomic fn (v.toNat % 2 ^ (8 * n))) (some d)

/-- RED: nothing is returned. -/
def redBody (fn : AtomFn) (sz : Bool) (a b : Reg) : M Next := do
  let ea ← rdOut a
  let v ← rdOut b
  let n := atomBytes sz
  atomicBody ea n (.atomic fn (v.toNat % 2 ^ (8 * n))) none

/-- R230: compare with g[D], write g[B] when equal. -/
def execCas (sz : Bool) (d a b : Reg) (s : State) : Host.Outcome State Fault Refusal :=
  strandStep (.cas sz d a b) (do
    let ea ← rdOut a
    let v ← rdOut b
    let c ← rdOut d
    let n := atomBytes sz
    atomicBody ea n (.cas (c.toNat % 2 ^ (8 * n)) (v.toNat % 2 ^ (8 * n))) (some d)) s

/-- One ranked contribution (R231). -/
def amorBody (fn : AtomFn) (f : SR64) : M Next := do
  let ea ← rdOut f.a
  let v ← rdOut f.b
  let k ← rdOut f.k
  let n ← rdOut f.n
  if n.toNat = 0 ∨ 32768 < n.toNat ∨ n.toNat ≤ k.toNat then trapM 15 ea
  let b := atomBytes f.sz
  needAligned ea b
  if !f.nr then needReady f.d
  let _ ← issueAcc { va := ea, size := b, cls := 15, need := .readWrite, atomic := true, nr := f.nr, remote := true,
                     op := .amor fn n.toNat k.toNat k.toNat (v.toNat % 2 ^ (8 * b)),
                     dest := if f.nr then none else some { reg := f.d.toNat, width := 8 * b, signed := true },
                     parks := !f.nr, ilen := 2 }
  pure (if f.nr then .fall else .hold)

/-- Saturation of an AMOX is reported: XW_OVERFLOW when VCTL.XWE is set, else the sticky flag (R233). -/
def amoxTrap (t : Task) : Option Trap := if t.vec.vctl.getLsbD 2 then some { cause := 35, tval := 0 } else none

/-- R233: exact addition into a 128-bit word. -/
def execAmox (f : SR64) (s : State) : Host.Outcome State Fault Refusal :=
  strandStep (.amox f) (do
    let ea ← rdOut f.a
    let j ← rdOut f.b
    needAligned ea 16
    if !f.nr then do needReady f.d; needReady f.k
    csrImplicit 0x41
    let st ← curStrand
    let r ← issueAcc { va := ea, size := 16, cls := 15, need := .readWrite, atomic := true, nr := f.nr,
                       op := .amox f.anch j.toInt,
                       dest := if f.nr then none else some { reg := f.d.toNat, width := 128, hi := some f.k.toNat },
                       parks := !f.nr, ilen := 2 }
    match r with
    | .sent _ => if f.nr then sentNext else pure .hold
    | .done y => do
      let t ← curTask
      let s ← getS
      let ovf := match y with
        | .dataOvf _ => true
        | .ack o => o
        | .data _ => false
        | .redirect _ => false
        | .fault _ => false
      if !f.nr then do
        wr f.d (w64 y.value)
        wr f.k (w64 (y.value / 2 ^ 64))
      if ovf then
        match amoxTrap t with
        | none => do modCurTask (fun x => raiseFlags x s.sel.strand .vstat fXwOvf); pure .fall
        | some tr =>
          if f.nr then do
            modCur (fun x => { x with reports := x.reports ++ [{ pc := st.r.pc, ilen := 2, trap := tr }] })
            pure .fall
          else pure (.trapAfter tr)
      else pure .fall) s

/-- R228. -/
def execAmoAdd (sz : Bool) (d a b : Reg) (s : State) : Host.Outcome State Fault Refusal :=
  strandStep (.amoAdd sz d a b) (amoBody .add sz d a b) s

/-- R228. -/
def execAmoAnd (sz : Bool) (d a b : Reg) (s : State) : Host.Outcome State Fault Refusal :=
  strandStep (.amoAnd sz d a b) (amoBody .and sz d a b) s

/-- R228. -/
def execAmoOr (sz : Bool) (d a b : Reg) (s : State) : Host.Outcome State Fault Refusal :=
  strandStep (.amoOr sz d a b) (amoBody .or sz d a b) s

/-- R228. -/
def execAmoXor (sz : Bool) (d a b : Reg) (s : State) : Host.Outcome State Fault Refusal :=
  strandStep (.amoXor sz d a b) (amoBody .xor sz d a b) s

/-- R228. -/
def execAmoMin (sz : Bool) (d a b : Reg) (s : State) : Host.Outcome State Fault Refusal :=
  strandStep (.amoMin sz d a b) (amoBody .min sz d a b) s

/-- R228. -/
def execAmoMax (sz : Bool) (d a b : Reg) (s : State) : Host.Outcome State Fault Refusal :=
  strandStep (.amoMax sz d a b) (amoBody .max sz d a b) s

/-- R228. -/
def execAmoMinu (sz : Bool) (d a b : Reg) (s : State) : Host.Outcome State Fault Refusal :=
  strandStep (.amoMinu sz d a b) (amoBody .minu sz d a b) s

/-- R228. -/
def execAmoMaxu (sz : Bool) (d a b : Reg) (s : State) : Host.Outcome State Fault Refusal :=
  strandStep (.amoMaxu sz d a b) (amoBody .maxu sz d a b) s

/-- R228. -/
def execAmoSwap (sz : Bool) (d a b : Reg) (s : State) : Host.Outcome State Fault Refusal :=
  strandStep (.amoSwap sz d a b) (amoBody .swap sz d a b) s

/-- R228. -/
def execAmoFadd32 (d a b : Reg) (s : State) : Host.Outcome State Fault Refusal :=
  strandStep (.amoFadd32 d a b) (amoBody .fadd32 false d a b) s

/-- R228. -/
def execAmoFmin32 (d a b : Reg) (s : State) : Host.Outcome State Fault Refusal :=
  strandStep (.amoFmin32 d a b) (amoBody .fmin32 false d a b) s

/-- R228. -/
def execAmoFmax32 (d a b : Reg) (s : State) : Host.Outcome State Fault Refusal :=
  strandStep (.amoFmax32 d a b) (amoBody .fmax32 false d a b) s

/-- R228. -/
def execRedAdd (sz : Bool) (a b : Reg) (s : State) : Host.Outcome State Fault Refusal :=
  strandStep (.redAdd sz a b) (redBody .add sz a b) s

/-- R228. -/
def execRedAnd (sz : Bool) (a b : Reg) (s : State) : Host.Outcome State Fault Refusal :=
  strandStep (.redAnd sz a b) (redBody .and sz a b) s

/-- R228. -/
def execRedOr (sz : Bool) (a b : Reg) (s : State) : Host.Outcome State Fault Refusal :=
  strandStep (.redOr sz a b) (redBody .or sz a b) s

/-- R228. -/
def execRedXor (sz : Bool) (a b : Reg) (s : State) : Host.Outcome State Fault Refusal :=
  strandStep (.redXor sz a b) (redBody .xor sz a b) s

/-- R228. -/
def execRedMin (sz : Bool) (a b : Reg) (s : State) : Host.Outcome State Fault Refusal :=
  strandStep (.redMin sz a b) (redBody .min sz a b) s

/-- R228. -/
def execRedMax (sz : Bool) (a b : Reg) (s : State) : Host.Outcome State Fault Refusal :=
  strandStep (.redMax sz a b) (redBody .max sz a b) s

/-- R228. -/
def execRedMinu (sz : Bool) (a b : Reg) (s : State) : Host.Outcome State Fault Refusal :=
  strandStep (.redMinu sz a b) (redBody .minu sz a b) s

/-- R228. -/
def execRedMaxu (sz : Bool) (a b : Reg) (s : State) : Host.Outcome State Fault Refusal :=
  strandStep (.redMaxu sz a b) (redBody .maxu sz a b) s

/-- R228. -/
def execRedSwap (sz : Bool) (a b : Reg) (s : State) : Host.Outcome State Fault Refusal :=
  strandStep (.redSwap sz a b) (redBody .swap sz a b) s

/-- R228. -/
def execRedFadd32 (a b : Reg) (s : State) : Host.Outcome State Fault Refusal :=
  strandStep (.redFadd32 a b) (redBody .fadd32 false a b) s

/-- R228. -/
def execRedFmin32 (a b : Reg) (s : State) : Host.Outcome State Fault Refusal :=
  strandStep (.redFmin32 a b) (redBody .fmin32 false a b) s

/-- R228. -/
def execRedFmax32 (a b : Reg) (s : State) : Host.Outcome State Fault Refusal :=
  strandStep (.redFmax32 a b) (redBody .fmax32 false a b) s

/-- R231. -/
def execAmorAdd (f : SR64) (s : State) : Host.Outcome State Fault Refusal :=
  strandStep (.amorAdd f) (amorBody .add f) s

/-- R231. -/
def execAmorAnd (f : SR64) (s : State) : Host.Outcome State Fault Refusal :=
  strandStep (.amorAnd f) (amorBody .and f) s

/-- R231. -/
def execAmorOr (f : SR64) (s : State) : Host.Outcome State Fault Refusal :=
  strandStep (.amorOr f) (amorBody .or f) s

/-- R231. -/
def execAmorXor (f : SR64) (s : State) : Host.Outcome State Fault Refusal :=
  strandStep (.amorXor f) (amorBody .xor f) s

/-- R231. -/
def execAmorMin (f : SR64) (s : State) : Host.Outcome State Fault Refusal :=
  strandStep (.amorMin f) (amorBody .min f) s

/-- R231. -/
def execAmorMax (f : SR64) (s : State) : Host.Outcome State Fault Refusal :=
  strandStep (.amorMax f) (amorBody .max f) s

/-- R231. -/
def execAmorMinu (f : SR64) (s : State) : Host.Outcome State Fault Refusal :=
  strandStep (.amorMinu f) (amorBody .minu f) s

/-- R231. -/
def execAmorMaxu (f : SR64) (s : State) : Host.Outcome State Fault Refusal :=
  strandStep (.amorMaxu f) (amorBody .maxu f) s

/-- R231. -/
def execAmorSwap (f : SR64) (s : State) : Host.Outcome State Fault Refusal :=
  strandStep (.amorSwap f) (amorBody .swap f) s

/-- R231. -/
def execAmorFadd32 (f : SR64) (s : State) : Host.Outcome State Fault Refusal :=
  strandStep (.amorFadd32 f) (amorBody .fadd32 f) s

/-- R231. -/
def execAmorFmin32 (f : SR64) (s : State) : Host.Outcome State Fault Refusal :=
  strandStep (.amorFmin32 f) (amorBody .fmin32 f) s

/-- R231. -/
def execAmorFmax32 (f : SR64) (s : State) : Host.Outcome State Fault Refusal :=
  strandStep (.amorFmax32 f) (amorBody .fmax32 f) s

/-! ### Fences -/

/-- The accesses and vector entries a fence covers (R109, R120). -/
def fenceRec (s : State) (t k : Nat) (mask : BitVec 16) (scope : Nat) : FenceRec :=
  let x := s.task t
  { mask, scope,
    outs := ((x.strand k).outs.filter (fun o => mask.getLsbD o.acc.cls && inScope s t scope o.acc.home)).map (·.id),
    entries := ((vecAccesses x k).filter (fun e => (entryClass e).any (fun c => mask.getLsbD c) && entryInScope s t scope e)).map
      (·.serial) }

/-- Matrix, copy, gather and collective commands that the strand pushed and that have not completed. -/
def pendingCommands (t : Task) (k : Nat) : Bool :=
  (List.range 8).any (fun q => (t.queue (1 + q)).any (fun e => e.strand == k && !e.orphaned))

/-- R234: later accesses that the fence covers wait for the earlier ones; with ENG the strand waits here for the
commands it pushed. -/
def execFence (mask : BitVec 16) (scope : BitVec 3) (eng : Bool) (s : State) : Host.Outcome State Fault Refusal :=
  strandStep (.fence mask scope eng) (do
    takeReports
    let s ← getS
    let t := s.sel.task
    let k := s.sel.strand
    if eng && pendingCommands (s.task t) k then waitM 0 0
    let f := fenceRec s t k mask scope.toNat
    modCur (fun x => { x with
      fences := x.fences.filter (fenceOpen (s.task t) x) ++ (if f.outs.isEmpty && f.entries.isEmpty then [] else [f]),
      sysFences := x.sysFences + (if isSystemFence mask scope.toNat then 1 else 0),
      alias_ := aliasFence x.alias_ mask })
    pure .fall) s

/-- Everything the strand issued has completed: accesses, vector entries and commands (R235). -/
def quiet (t : Task) (k : Nat) : Bool :=
  (t.strand k).outs.isEmpty && !(pendingCommands t k) && !((t.queue 0).any (fun e => e.strand == k && !e.orphaned))

/-- Wait for everything, then empty the alias window and the fences: a FENCE of system scope (R235, R237). -/
def drainAll : M Unit := do
  takeReports
  let s ← getS
  let t ← curTask
  if !quiet t s.sel.strand then waitM 0 0
  modCur (fun x => { x with fences := [], sysFences := x.sysFences + 1, alias_ := [] })

/-- R235. -/
def execDrain (s : State) : Host.Outcome State Fault Refusal :=
  strandStep .drain (do drainAll; pure .fall) s

/-! ### Barriers (R151, R152, R236, R237) -/

/-- Width and height of the teams of a shape. -/
def shapeDims (shape : Nat) : Nat × Nat := (2 ^ bitsOf shape 0 3, 2 ^ bitsOf shape 3 3)

/-- The shape a barrier matches by: 0x80 for every shape whose team is the whole launch. -/
def shapeKey (l : Launch) (shape : Nat) : Nat :=
  let (w, h) := shapeDims shape
  if bitOf shape 7 || (decide (l.width ≤ w) && decide (l.height ≤ h)) then 0x80 else shape

/-- Team of a task for a shape key. -/
def teamOf (t : Task) (key : Nat) : Nat × Nat :=
  if key = 0x80 then (0, 0) else let (w, h) := shapeDims key; (t.lx / w, t.ly / h)

/-- Key of a team's count of completed barriers. -/
def barrierKey (t : Task) (key : Nat) : Nat := let (x, y) := teamOf t key; (key * 64 + y) * 64 + x

/-- Barriers of the shape completed by the task's team. -/
def completed (l : Launch) (t : Task) (key : Nat) : Nat := SMap.get 0 l.barriers (barrierKey t key)

/-- The task arrives when every live strand has an arrival at its open barrier (R152). -/
def advanceArrivals (t : Task) (key : Nat) : Task :=
  let n := SMap.get 0 t.arrived key
  let live := t.strands.filter (fun e => e.2.live)
  if !live.isEmpty && live.all (fun e => e.2.arrivals.any (fun a => a.shape == key && a.index == n)) then
    { t with arrived := SMap.set 0 t.arrived key (n + 1) }
  else t

/-- The checks of a shape (R151); a shape that fails both traps ILLEGAL_OPCODE (log entry 109). -/
def checkShape (shape : Word) : M Unit := do
  let n := shape.toNat
  if !bitOf n 7 && (bitsOf n 0 3 == 7 || bitsOf n 3 3 == 7) then trapM 1 shape
  if bitOf n 6 || n / 256 != 0 then trapM 4 shape

/-- The barrier of a shape that the strand's next arrival is for: after the last it has arrived at. -/
def nextBarrier (t : Task) (x : Strand) (key : Nat) : Nat :=
  x.arrivals.foldl (fun n a => if a.shape = key then max n (a.index + 1) else n) (SMap.get 0 t.arrived key)

/-- Arrive at the strand's next barrier of a shape: everything the strand issued has completed first (R237). -/
def arrive (key : Nat) (isOpen : Bool) : M Nat := do
  drainAll
  let st ← curStrand
  let t ← curTask
  let n := nextBarrier t st key
  modCur (fun x => { x with arrivals := x.arrivals ++ [{ shape := key, index := n, open_ := isOpen, pc := st.r.pc }] })
  modCurTask (fun t => advanceArrivals t key)
  pure n

/-- Drop the strand's arrivals at the barriers of a shape up to one that has completed. -/
def dropArrivals (key index : Nat) : M Unit :=
  modCur (fun x => { x with arrivals := x.arrivals.filter (fun a => !(a.shape == key && decide (a.index ≤ index))) })

/-- Wait under BAR or BARW for the barrier of an arrival. -/
def awaitBarrier (key index : Nat) : M Next := do
  let t ← curTask
  let l ← curLaunch
  if index < completed l t key then do dropArrivals key index; pure .fall
  else pure (.waitNow { kind := 6, object := key })

/-- R236: arrives, then waits. Executed again after a trap of the closing steps, it waits without arriving (R154). -/
def execBar (a : Reg) (s : State) : Host.Outcome State Fault Refusal :=
  strandStep (.bar a) (do
    let shape ← rdOut a
    notInHandler (.bar a)
    checkShape shape
    let l ← curLaunch
    let st ← curStrand
    let key := shapeKey l shape.toNat
    if st.arrivals.any (fun x => x.shape == key && x.open_) then illegal (.bar a)
    match st.arrivals.find? (fun x => x.shape == key && x.pc == st.r.pc && !x.left) with
    | some x => awaitBarrier key x.index
    | none => do
      let n ← arrive key false
      awaitBarrier key n) s

/-- R236: arrives and retires at once. -/
def execBara (a : Reg) (s : State) : Host.Outcome State Fault Refusal :=
  strandStep (.bara a) (do
    let shape ← rdOut a
    notInHandler (.bara a)
    checkShape shape
    let l ← curLaunch
    let st ← curStrand
    let key := shapeKey l shape.toNat
    if st.arrivals.any (fun x => x.shape == key && x.open_) then illegal (.bara a)
    let _ ← arrive key true
    pure .fall) s

/-- R236: waits for the barrier of the open arrival. -/
def execBarw (a : Reg) (s : State) : Host.Outcome State Fault Refusal :=
  strandStep (.barw a) (do
    let shape ← rdOut a
    notInHandler (.barw a)
    checkShape shape
    let l ← curLaunch
    let st ← curStrand
    let key := shapeKey l shape.toNat
    match st.arrivals.find? (fun x => x.shape == key && x.open_) with
    | some x => awaitBarrier key x.index
    | none => illegal (.barw a)) s

/-! ### Semaphores (R238, R239) -/

/-- The word an instruction returns: COUNT reads 0 in a deterministic launch. -/
def semWord (det : Bool) (x : Sem) : Word := w64 (if det then 2 ^ 31 * b2n x.e else x.word)

/-- Record the party that waits on a semaphore in a deterministic launch; another one traps (R239). -/
def recordWaiter (n party : Nat) : M Unit := do
  let l ← curLaunch
  let t ← curTask
  if l.det then
    match SMap.find n t.recs.semWaiter with
    | some p => if p ≠ party then trapRes 14 n else pure ()
    | none => modCurTask (fun t => { t with recs := { t.recs with semWaiter := SMap.put n party t.recs.semWaiter } })
  else pure ()

/-- An engine queue below number `q` whose head waits for an amount of a semaphore that the count meets takes it first
(R17). -/
def headFirst (t : Task) (q n : Nat) : Bool :=
  t.freeze.isNone && t.leaving.isNone && (List.range q).any (fun j => match t.queue j with
    | e :: _ => (match e.wait with
      | some w => w.kind == 2 && w.object == n && decide (w.amount ≤ (t.sem n).count)
      | none => false)
    | [] => false)

/-- A strand below number `k` that waits, or has just been woken, on the same object and that could go on takes it first:
hang kind 1 a semaphore, 4 an output FIFO (R17, R240). -/
def strandFirst (s : State) (t k kind n : Nat) : Bool :=
  (List.range k).any (fun j =>
    let x := s.strand t j
    (match x.wait.orElse (fun _ => x.lastWait) with
      | some w => w.kind == kind && w.object == n && (kind != 1 || decide (w.amount ≤ ((s.task t).sem n).count))
      | none => false)
      && issuable (s.modStrand t j (fun x => { x with wait := none })) t j)

/-- R238: takes an amount when the count reaches it and no waiter of R17's order before the strand may. -/
def execSwait (d a : Reg) (idx : BitVec 8) (s : State) : Host.Outcome State Fault Refusal :=
  strandStep (.swait d a idx) (do
    let v ← rdOut a
    needReady d
    if 2 ^ 31 ≤ v.toNat then illegal (.swait d a idx)
    classGate
    let l ← curLaunch
    let n := idx.toNat
    if v.toNat ≠ 0 then recordWaiter n s.sel.strand
    let t ← curTask
    let x := t.sem n
    let s ← getS
    let later := v.toNat ≠ 0 && (headFirst t 9 n || strandFirst s s.sel.task s.sel.strand 1 n)
    if x.count < v.toNat || later then pure (.waitNow { kind := 1, object := n, amount := v.toNat })
    else do
      modCurTask (fun t => t.setSem n { x with count := x.count - v.toNat })
      wr d (semWord l.det x)
      pure .fall) s

/-- R238: adds to a semaphore of the task. -/
def execSsig (a : Reg) (idx : BitVec 8) (s : State) : Host.Outcome State Fault Refusal :=
  strandStep (.ssig a idx) (do
    let v ← rdOut a
    if 2 ^ 32 ≤ v.toNat then illegal (.ssig a idx)
    classGate
    modS (fun s => signalSem s s.sel.task idx.toNat (v.toNat % 2 ^ 31) (v.getLsbD 31))
    pure .fall) s

/-- R238: adds to the semaphore word at g[D], in the own or a peer window. -/
def execSsigRemote (d a : Reg) (s : State) : Host.Outcome State Fault Refusal :=
  strandStep (.ssigRemote d a) (do
    let v ← rdOut a
    let ea ← rdOut d
    if 2 ^ 32 ≤ v.toNat then illegal (.ssigRemote d a)
    needAligned ea 4
    let s ← getS
    match spadTarget s s.sel.task ea with
    | none => trapM 9 ea
    | some (_, off) =>
      if !isSemAddr off then trapM 9 ea
      else do
        let _ ← issueAcc { va := ea, size := 4, cls := 15, need := .write, sem := true, nr := true,
                           op := .signal (v.toNat % 2 ^ 31) (v.getLsbD 31) }
        pure .fall) s

/-- R238: returns the word; an E that is read is observed. -/
def execSrd (d : Reg) (idx : BitVec 8) (s : State) : Host.Outcome State Fault Refusal :=
  strandStep (.srd d idx) (do
    needReady d
    classGate
    let l ← curLaunch
    let t ← curTask
    let x := t.sem idx.toNat
    modCurTask (fun t => t.setSem idx.toNat { x with obs := x.obs || x.e })
    wr d (semWord l.det x)
    pure .fall) s

/-- R238: returns the word, clears E. -/
def execSrdc (d : Reg) (idx : BitVec 8) (s : State) : Host.Outcome State Fault Refusal :=
  strandStep (.srdc d idx) (do
    needReady d
    classGate
    let l ← curLaunch
    let t ← curTask
    let x := t.sem idx.toNat
    modCurTask (fun t => t.setSem idx.toNat { x with e := false, obs := true })
    wr d (semWord l.det x)
    pure .fall) s

/-- R238, R239: writes the word; only E in a deterministic launch, where a nonzero count traps DET_ILLEGAL with the
semaphore number as designator (log entry 110). -/
def execSset (d a : Reg) (idx : BitVec 8) (s : State) : Host.Outcome State Fault Refusal :=
  strandStep (.sset d a idx) (do
    let v ← rdOut a
    needReady d
    if 2 ^ 32 ≤ v.toNat then illegal (.sset d a idx)
    let l ← curLaunch
    if l.det && v.toNat % 2 ^ 31 != 0 then trapRes 14 idx.toNat
    classGate
    let t ← curTask
    let x := t.sem idx.toNat
    let e := v.getLsbD 31
    modCurTask (fun t => t.setSem idx.toNat
      { count := if l.det then x.count else v.toNat % 2 ^ 31, e, obs := x.obs || e })
    wr d (semWord l.det x)
    pure .fall) s

/-! ### Output FIFOs (R240) -/

/-- Elements of f0 or f1. -/
def Task.fifo (t : Task) (n : Nat) : List Word := if n = 0 then t.eng.fifo0 else t.eng.fifo1

def Task.setFifo (t : Task) (n : Nat) (l : List Word) : Task :=
  if n = 0 then { t with eng := { t.eng with fifo0 := l } } else { t with eng := { t.eng with fifo1 := l } }

/-- Record the strand that pops a FIFO in a deterministic launch; another one traps. -/
def recordPopper (n : Nat) : M Unit := do
  let l ← curLaunch
  let t ← curTask
  let s ← getS
  if l.det then
    match SMap.find n t.recs.fifoHolder with
    | some p => if p ≠ s.sel.strand then trapRes 14 n else pure ()
    | none => modCurTask (fun t => { t with recs := { t.recs with fifoHolder := SMap.put n s.sel.strand t.recs.fifoHolder } })
  else pure ()

/-- R240: takes the oldest element, waiting while there is none or a lower strand's POP waits for it. -/
def execPop (d : Reg) (f : BitVec 1) (s : State) : Host.Outcome State Fault Refusal :=
  strandStep (.pop d f) (do
    needReady d
    recordPopper f.toNat
    let t ← curTask
    match t.fifo f.toNat with
    | [] => pure (.waitNow { kind := 4, object := f.toNat })
    | x :: r => do
      let s ← getS
      if strandFirst s s.sel.task s.sel.strand 4 f.toNat then pure (.waitNow { kind := 4, object := f.toNat })
      else do
        modCurTask (fun t => t.setFifo f.toNat r)
        wr d x
        pure .fall) s

end Sys2Proof.Machine
end

