-- ==== Sys2Proof/Machine/Csr.lean ====
section
/-!
DEFINITION. The CSR map: reading, writing and the holder rule (R149, R174, R195 to R199, R216, R217, R404).
-/
namespace Sys2Proof.Machine

/-- LOOPCTL (R217). -/
def loopctl (t : Task) : Word :=
  let l := fun n => t.loop n
  w64 (packFields ([(b2n (l 0).act, 1), (b2n (l 1).act, 1), (b2n (l 2).act, 1), (b2n (l 3).act, 1)]
    ++ [((l 0).own, 3), ((l 1).own, 3), ((l 2).own, 3), ((l 3).own, 3)]
    ++ [((l 0).depth, 2), ((l 1).depth, 2), ((l 2).depth, 2), ((l 3).depth, 2)]))

/-- TASKFLAGS (R196). -/
def taskflags (l : Launch) : Word :=
  w64 (packFields [(b2n l.det, 1), (b2n l.log, 1), (l.prio, 3), (0, 3), (l.strands, 4), (0, 4), (l.spadkb, 13), (0, 3),
    (l.vregs, 9)])

/-- CAPME of a stage (R19). -/
def capme (stage : Nat) : Word :=
  match stage with
  | 0 => 0xF
  | 1 => 0xE
  | 2 => 0xC
  | _ => 0

/-- The physical core that holds a task. -/
def coreOf (s : State) (t : Nat) : Core := (s.die (s.task t).die).core ((s.task t).core?.getD 0)

/-- LOGCTL (R404). -/
def logctl (g : OrderLog) : Word := w64 (b2n g.replay + 2 * b2n g.full)

/-- The value of a CSR as strand `k` of task `t` reads it. -/
def csrRead (s : State) (t k n : Nat) : Word :=
  let x := s.task t
  let l := s.launchOf t
  let r := (x.strand k).r
  let her := fun (v : Word) => if r.her then v else 0
  let log := orderLog s x.die l.fn
  match n with
  | 0x000 => w64 x.lx
  | 0x001 => w64 x.ly
  | 0x002 => w64 l.width
  | 0x003 => w64 l.height
  | 0x004 => w64 (l.ox + x.lx)
  | 0x005 => w64 (l.oy + x.ly)
  | 0x006 => l.launchId.setWidth 64
  | 0x007 => w64 k
  | 0x008 => taskflags l
  | 0x009 => l.phase
  | 0x00A => s.clock
  | 0x00B => capme (coreOf s t).me0
  | 0x00C => capme (coreOf s t).me1
  | 0x00D => 7
  | 0x00E => 7
  | 0x00F => 0xF
  | 0x010 => 7
  | 0x011 => w64 x.spsize
  | 0x020 => statusWord r l
  | 0x021 => x.trap.tcause
  | 0x022 => x.trap.tpc
  | 0x023 => x.trap.tstatus
  | 0x024 => x.trap.trec
  | 0x025 => x.trap.tval
  | 0x026 => x.trap.tvec
  | 0x027 => her x.trap.hcmd0
  | 0x028 => her x.trap.hcmd1
  | 0x029 => her x.trap.hcmd2
  | 0x02A => her x.trap.hopa
  | 0x02B => her x.trap.hopb
  | 0x02C => her x.trap.hopc
  | 0x040 => x.vec.vsh
  | 0x041 => x.vec.vctl
  | 0x042 => flagView x k l.det .vstat
  | 0x043 => x.vec.ftsel
  | 0x044 => x.vec.srseed
  | 0x045 => x.vec.xwanchor
  | 0x060 => (x.loop 0).value
  | 0x061 => (x.loop 1).value
  | 0x062 => (x.loop 2).value
  | 0x063 => (x.loop 3).value
  | 0x064 => loopctl x
  | 0x080 => x.eng.mesteer
  | 0x081 => flagView x k l.det .mestat0
  | 0x082 => flagView x k l.det .mestat1
  | 0x0A0 => x.eng.glod
  | 0x0A1 => flagView x k l.det .gecc
  | 0x0A2 => if l.det then flagView x k true .xlate &&& ~~~0xFFFFFF#64 else x.eng.xlate
  | 0x0C0 => x.monctl
  | 0x0E0 => log.base
  | 0x0E1 => log.limit
  | 0x0E2 => log.wp
  | 0x0E3 => logctl log
  | 0x0E4 => log.rp
  | 0x100 => w64 (x.core?.getD 0)
  | 0x101 => (s.function l.fn).vfroot
  | 0x102 => (s.function l.fn).hostroot
  | 0x103 => l.actions
  | 0x1C0 => x.dbgctl
  | 0x1C1 => w64 (s.die x.die).hangto
  | _ => 0

/-- VSH accepts a value when ROWS, RBYTES and their product are within R250; the zero field is dropped (R2). -/
def vshOk (v : Word) : Bool :=
  let rows := bitsOf v.toNat 0 5
  let rb := bitsOf v.toNat 8 11
  rows != 0 && rows ≤ 16 && rb != 0 && rb ≤ 1024 && rows * rb ≤ 1024

/-- Write a flag register by software. In a deterministic launch the strand's own flags start again from the value, and
the task-wide value is joined with the other strands' (R198). -/
def writeFlags (t : Task) (k : Nat) (det : Bool) (r : FlagReg) (v : Word) : Task :=
  if det then
    let t1 := { t.modStrand k (fun x => { x with ownFlags := SMap.del r.key x.ownFlags }) with
      recs := { t.recs with flags0 := SMap.set 0 t.recs.flags0 r.key v.toNat } }
    r.write t1 (t1.strands.foldl (fun w e => r.join w (w64 (SMap.get 0 e.2.ownFlags r.key))) v)
  else r.write t v

/-- End the loops whose ACT bits are written 1 (R217). -/
def endLoops (t : Task) (v : Word) : Task :=
  (List.range 4).foldl (fun t n => if v.getLsbD n then t.setLoop n { t.loop n with act := false } else t) t

/-- Write a task CSR. `w1c` for CSRW, the only form that touches W1C fields (R199). -/
def csrWriteTask (t : Task) (k : Nat) (det w1c : Bool) (n : Nat) (v : Word) : Task :=
  match n with
  | 0x022 => if (t.strand k).r.hnd then { t with trap := { t.trap with tpc := v } } else t
  | 0x023 => if (t.strand k).r.hnd then { t with trap := { t.trap with tstatus := v } } else t
  | 0x026 => if v.toNat % 4 = 0 then { t with trap := { t.trap with tvec := v } } else t
  | 0x040 => if vshOk v then { t with vec := { t.vec with vsh := v &&& 0x7FF1F } } else t
  | 0x041 => { t with vec := { t.vec with vctl := v &&& 7 } }
  | 0x042 => writeFlags t k det .vstat (v &&& 0x3F)
  | 0x043 => { t with vec := { t.vec with ftsel := v &&& 3 } }
  | 0x044 => { t with vec := { t.vec with srseed := v } }
  | 0x045 => { t with vec := { t.vec with xwanchor := v &&& 0xFF } }
  | 0x060 => t.setLoop 0 { t.loop 0 with value := v }
  | 0x061 => t.setLoop 1 { t.loop 1 with value := v }
  | 0x062 => t.setLoop 2 { t.loop 2 with value := v }
  | 0x063 => t.setLoop 3 { t.loop 3 with value := v }
  | 0x064 => if w1c then endLoops t v else t
  | 0x080 => { t with eng := { t.eng with mesteer := v &&& 7 } }
  | 0x081 => writeFlags t k det .mestat0 (v &&& 0x7F)
  | 0x082 => writeFlags t k det .mestat1 (v &&& 0x7F)
  | 0x0A0 => { t with eng := { t.eng with glod := v } }
  | 0x0A1 => writeFlags t k det .gecc (v &&& 0x11F0FFFFFFFFF)
  | 0x0A2 => writeFlags t k det .xlate (v &&& 0x33F00FFFFFF)
  | 0x0C0 => { t with monctl := v &&& 0xFF }
  | 0x1C0 => { t with dbgctl := v &&& 0x1F }
  | _ => t

/-- Write any CSR; RO numbers ignore it (R1). A write of LOGBASE that is no multiple of 32 keeps the bits above and drops
bits 4:0 (log entry 86). -/
def csrWrite (s : State) (t k : Nat) (w1c : Bool) (n : Nat) (v : Word) : State :=
  let die := (s.task t).die
  let fn := (s.launchOf t).fn
  match n with
  | 0x0E0 => modOrderLog s die fn (fun g => { g with base := v &&& ~~~31#64 })
  | 0x0E1 => modOrderLog s die fn (fun g => { g with limit := v })
  | 0x0E2 => modOrderLog s die fn (fun g => { g with wp := v })
  | 0x0E3 => modOrderLog s die fn (fun g => { g with replay := v.getLsbD 0, full := g.full && !(w1c && v.getLsbD 1) })
  | 0x0E4 => modOrderLog s die fn (fun g => { g with rp := v, consumed := [] })
  | 0x101 => s.modFunction fn (fun f => { f with vfroot := v })
  | 0x102 => s.modFunction fn (fun f => { f with hostroot := v })
  | 0x1C1 => if v.toNat % 65536 = 0 then s else s.modDie die (fun d => { d with hangto := v.toNat % 65536 })
  | _ => s.modTask t (fun x => csrWriteTask x k (s.launchOf t).det w1c n v)

/-- CSRs whose read depends on the run: they trap in a deterministic launch (R149, R353). -/
def csrTimed (n : Nat) : Bool := n == 0x006 || (0x00A ≤ n && n ≤ 0x010) || n == 0x0A0

/-- The CSRs under the holder rule: the task-shared RW ones of 0x040 to 0x0BF, and MONCTL (R198, R400). -/
def csrHeld (n : Nat) : Bool := (0x040 ≤ n && n ≤ 0x0BF) || n == 0x0C0

/-- The holder rule for a CSR instruction; `writes` marks a write by the holder (R198, R216). -/
def csrHold (n : Nat) (writes : Bool) : M Unit := do
  let l ← curLaunch
  let s ← getS
  let t ← curTask
  let k := s.sel.strand
  if l.det && csrHeld n then
    match SMap.find n t.recs.csrHolder with
    | some (h, w) =>
      if h ≠ k then trapRes 14 n
      else modCurTask (fun t => { t with recs := { t.recs with csrHolder := SMap.put n (k, w || writes) t.recs.csrHolder } })
    | none => modCurTask (fun t => { t with recs := { t.recs with csrHolder := SMap.put n (k, writes) t.recs.csrHolder } })
    let c := t.loop (n - 0x060)
    if 0x060 ≤ n ∧ n ≤ 0x063 ∧ c.act ∧ c.own ≠ k then trapRes 14 n

/-- What a rollback writes back for a write of a CSR by strand `k` (R394): its value, of a flag register the value of the
whole task and the parts that the views of R198 are made of, with LOGRP the records consumed above it. -/
def csrUndo (s : State) (t k n : Nat) : List (Nat × Nat × Nat) :=
  let x := s.task t
  let flags := fun (r : FlagReg) =>
    [(0, n, (r.read x).toNat), (4, r.key, SMap.get 0 x.recs.flags0 r.key), (5, r.key, SMap.get 0 (x.strand k).ownFlags r.key)]
  match n with
  | 0x042 => flags .vstat
  | 0x081 => flags .mestat0
  | 0x082 => flags .mestat1
  | 0x0A1 => flags .gecc
  | 0x0A2 => flags .xlate
  | 0x0E4 => (0, n, (csrRead s t k n).toNat) :: (orderLog s x.die (s.launchOf t).fn).consumed.map (fun va => (6, va, 0))
  | _ => [(0, n, (csrRead s t k n).toNat)]

/-- The four CSR instructions (R199): 0 CSRR, 1 CSRW, 2 CSRS, 3 CSRC. -/
def csrBody (kind : Nat) (d a : Reg) (csr : BitVec 10) : M Next := do
  let n := csr.toNat
  needReady d
  needReady a
  let l ← curLaunch
  if l.det && csrTimed n then trapRes 14 n
  let writes := kind == 1 || (kind != 0 && a != 0)
  csrHold n writes
  let v ← (if kind = 0 then pure 0 else rdOut a)
  let s ← getS
  let t := s.sel.task
  let k := s.sel.strand
  let old := csrRead s t k n
  if writes then do
    (csrUndo s t k n).reverse.forM (fun u => logUndo u.1 u.2.1 u.2.2)
    let new := if kind = 1 then v else if kind = 2 then old ||| v else old &&& ~~~v
    modS (fun s => csrWrite s t k (kind == 1) n new)
  wr d old
  pure .fall

/-- R199. -/
def execCsrr (d : Reg) (csr : BitVec 10) (s : State) : Host.Outcome State Fault Refusal :=
  strandStep (.csrr d csr) (csrBody 0 d 0 csr) s

/-- R199. -/
def execCsrw (d a : Reg) (csr : BitVec 10) (s : State) : Host.Outcome State Fault Refusal :=
  strandStep (.csrw d a csr) (csrBody 1 d a csr) s

/-- R199. -/
def execCsrs (d a : Reg) (csr : BitVec 10) (s : State) : Host.Outcome State Fault Refusal :=
  strandStep (.csrs d a csr) (csrBody 2 d a csr) s

/-- R199. -/
def execCsrc (d a : Reg) (csr : BitVec 10) (s : State) : Host.Outcome State Fault Refusal :=
  strandStep (.csrc d a csr) (csrBody 3 d a csr) s

end Sys2Proof.Machine
end

