-- ==== Sys2Proof/Machine/System.lean ====
section
/-!
DEFINITION. System instructions of a strand: NOP, YIELD, SEXIT, IDLE, SFORK, TRAP, BRK, TRET, LAUNCH, TINV, LOGM and the
fates of words that are no instruction (R70, R140 to R143, R180, R200, R223, R224, R241 to R245, R407).
-/
namespace Sys2Proof.Machine

/-! ### NOP, YIELD, SEXIT, IDLE -/

/-- R200. -/
def execNop (s : State) : Host.Outcome State Fault Refusal := strandStep .nop (pure .fall) s

/-- R200: the other ready strands issue first. -/
def execYield (s : State) : Host.Outcome State Fault Refusal :=
  strandStep .yield (do
    let t ← curTask
    let k := s.sel.strand
    modCur (fun x => { x with passOver := (List.range 8).filter (fun j => j != k && (t.strand j).ready) })
    pure .fall) s

/-- A strand's slot after it ends. -/
def endStrand (x : Strand) : Strand :=
  { x with live := false, wait := none, idle := none, alias_ := [], arming := none, arrivals := [], fences := [],
           passOver := [], notReady := [] }

/-- The stores to code that still matter: those not visible, and later ones to the same parcel (R57). -/
def pruneCode (s : State) : List OldParcel → List (Nat × Nat) → List OldParcel
  | [], _ => []
  | o :: r, unseen =>
    let key := (o.launch, o.pa)
    if !(o.visible s) then o :: pruneCode s r (key :: unseen)
    else if unseen.contains key then o :: pruneCode s r unseen
    else pruneCode s r unseen

/-- A strand ends: of its stores to code, those it has fenced stay visible, and no fence of a later strand of its slot makes
the others visible (R57). -/
def leaveCode (s : State) (t k : Nat) : State :=
  { s with oldCode := (pruneCode s s.oldCode []).map (fun o =>
      if o.task = t ∧ o.strand = k then { o with done := o.visible s, strand := 8 } else o) }

/-- An access of the strand to another home than the own scratchpad is not acknowledged (R200); its vector instructions have
passed their fault points (R260). -/
def remoteOut (s : State) (t k : Nat) : Bool :=
  (s.strand t k).outs.any (fun o => o.acc.home != .spad t)
    || (vecAccesses (s.task t) k).any (fun e => e.homes.any (· != .spad t))

/-- R200: waits for the acknowledgement of every remote access, clears the strand's loops, ends it. -/
def execSexit (s : State) : Host.Outcome State Fault Refusal :=
  strandStep .sexit (do
    notInHandler .sexit
    takeReports
    let s ← getS
    let k := s.sel.strand
    if remoteOut s s.sel.task k then waitM 7 0
    modS (fun s => leaveCode (guardAgree s s.sel.task k) s.sel.task k)
    modCurTask (fun t =>
      let keys := (t.strands.flatMap (fun e => e.2.arrivals.map (·.shape))).dedup
      let t1 := { t.modStrand k endStrand with
        queues := t.queues.map (fun (q, l) => (q, l.map (fun e => if e.strand = k then { e with orphaned := true } else e))),
        loops := t.loops.map (fun (n, c) => if c.own = k then (n, { c with act := false }) else (n, c)) }
      keys.foldl advanceArrivals t1)
    pure .done) s

/-- R243: the strand stops issuing until the next event of its task, or 10 µs. -/
def execIdle (s : State) : Host.Outcome State Fault Refusal :=
  strandStep .idle (do
    let s ← getS
    modCur (fun x => { x with idle := some s.clock })
    pure .fall) s

/-! ### SFORK (R223, R224) -/

/-- The lowest slot a new strand may take. -/
def freeSlot (t : Task) (l : Launch) : Option Nat :=
  (List.range (min l.strands 8)).find? (fun k => !(t.strand k).live && !(l.det && (t.strand k).used))

/-- A strand at its first instruction. -/
def newStrand (pc arg : Word) : Strand :=
  let r : StrandRegs := { pc, g := SMap.set 0 [] 1 arg }
  { live := true, used := true, r, guard := r, sync := { regs := r } }

/-- What the new strand's first access comes after: the issuer's accesses so far, but those that wait at their homes (R223). -/
def forkAfter (t : Task) (k : Nat) : ForkAfter :=
  { issuer := k, outs := ((t.strand k).outs.filter (fun o => !waitsAtHome o)).map (·.id),
    entries := ((vecAccesses t k).filter (fun e => !isPopv e.cmd)).map (·.serial) }

/-- R223. -/
def execSfork (d a b : Reg) (s : State) : Host.Outcome State Fault Refusal :=
  strandStep (.sfork d a b) (do
    notInHandler (.sfork d a b)
    let pc ← rdOut a
    let arg ← rdOut b
    needReady d
    needAligned pc 4
    let l ← curLaunch
    let t ← curTask
    if l.det && s.sel.strand != 0 then trapM 14 0
    match freeSlot t l with
    | none => do wr d (BitVec.allOnes 64); pure .fall
    | some k => do
      modCurTask (fun t => t.modStrand k (fun _ => { newStrand pc arg with after := some (forkAfter t s.sel.strand) }))
      wr d (w64 k)
      pure .fall) s

/-! ### TRAP, BRK, TRET -/

/-- R241. -/
def execTrap (code : BitVec 16) (s : State) : Host.Outcome State Fault Refusal :=
  strandStep (.trap code) (trapM 32 (code.setWidth 64)) s

/-- R241. -/
def execBrk (s : State) : Host.Outcome State Fault Refusal :=
  strandStep .brk (trapM 29 0) s

/-- TSTATUS that TRET refuses (R180). -/
def badStatus (v : Word) (l : Launch) : Bool :=
  v.toNat / 32 != 0 || v.getLsbD 0 || v.getLsbD 1
    || bitsOf v.toNat 2 3 != b2n l.det + 2 * b2n l.log + 4 * b2n l.sup

/-- The task and state after a TRET: strand-origin traps go on at TPC or past it, with the end of loops examined when
the instruction counts as retired; engine-origin ones leave the command to resume, or complete it with E (R180, R215,
R313). -/
def returnFrom (s : State) (t k : Nat) (skip : Bool) : State :=
  let x := s.task t
  let tc := x.trap.tcause.toNat
  let fromHer := (x.strand k).r.her
  let s1 :=
    if bitOf tc 8 then
      let q := bitsOf tc 9 4
      let back := ((x.strand k).saved.map (·.pc)).getD x.trap.tpc
      (s.modStrand t k (fun y => restoreStrand y back)).modTask t (fun y => y.modHead q (fun e =>
        if skip then skipCommand e else if e.held then { e with held := false, finished := true } else e))
    else if skip then
      let next := x.trap.tpc + w64 (4 * bitsOf tc 13 3)
      let s2 := s.modStrand t k (fun y => { restoreStrand y next with arming := none })
      let (y, pc) := loopBack (s2.task t) k x.trap.tpc next 4
      (s2.modTask t (fun _ => y)).modStrand t k (fun z => { z with r := { z.r with pc } })
    else s.modStrand t k (fun y => restoreStrand y x.trap.tpc)
  let s3 := guardAgree (leaveWords s1 t k) t k
  if fromHer then s3 else liftFreeze s3 t

/-- R180, R242. -/
def execTret (skip : Bool) (s : State) : Host.Outcome State Fault Refusal :=
  strandStep (.tret skip) (do
    let st ← curStrand
    let t ← curTask
    let l ← curLaunch
    if !st.r.hnd && !st.r.her then trapM 26 0
    if badStatus t.trap.tstatus l then trapM 27 t.trap.tstatus
    modS (fun s => returnFrom s s.sel.task s.sel.strand skip)
    pure .done) s

/-! ### Reads and writes of blocks of memory, performed at their homes as they issue -/

/-- The access of one piece of a block. -/
def blockAcc (q : Ask) : M Acc := do
  let s ← getS
  match checkPlace s s.sel.task s.sel.strand q with
  | .error e => stop e
  | .ok p => do
    footGate q.va q.size (q.need != .read)
    pure (mkAcc s s.sel.task s.sel.strand q p)

/-- Perform one access now, wherever its home is. -/
def performHere (a : Acc) : M Reply := do
  let s ← getS
  match performAt s a with
  | .ok s' r => do setS s'; pure r
  | .trap _ e => stop (if e.cause = 23 then .logFull a else .trap e)
  | .held => waitM 7 (a.va.toNat % 2 ^ 48)

/-- Read `n` words of 8 bytes from an aligned address, all translated before any is read. -/
def readWords (va : Word) (cls : Nat) (n : Nat) : M (List Nat) := do
  let accs ← (List.range n).mapM (fun i => blockAcc { va := va + w64 (8 * i), size := 8, cls, need := .read, op := .load })
  accs.mapM (fun a => do let r ← performHere a; pure r.value)

/-- Write words of 8 bytes at an aligned address, all translated before any is written. -/
def writeWords (va : Word) (cls : Nat) (vs : List Nat) : M Unit := do
  let accs ← vs.zipIdx.mapM (fun (v, i) =>
    blockAcc { va := va + w64 (8 * i), size := 8, cls, need := .write, op := .store (enabledBytes v 8), nr := true })
  accs.forM (fun a => do let _ ← performHere a; pure ())

/-! ### LAUNCH (R140 to R143, R244) -/

/-- A launch as its block gives it: words CODE, ARGS, DONE, EXTENT, RESOURCES, ACTIONS and the zero word (R140 to R142). -/
def launchOfBlock (fn queue : Nat) (det log : Bool) (prio : Nat) (byLaunch : Bool) (packet : Nat) (b : List Nat) : Launch :=
  let e := b.getD 3 0
  let r := b.getD 4 0
  { fn, queue, det, log, prio, byLaunch, packet,
    width := bitsOf e 0 7, height := bitsOf e 7 7, ox := bitsOf e 14 6, oy := bitsOf e 20 6,
    code := w64 (b.getD 0 0), args := w64 (b.getD 1 0), done := w64 (b.getD 2 0), extent := w64 e, resources := w64 r,
    actions := w64 (b.getD 5 0), tail := w64 (b.getD 6 0),
    strands := bitsOf r 0 4, spadkb := bitsOf r 8 13, vregs := bitsOf r 24 9 }

/-- Is a word writable for the launching function, in the window or in translated global memory? (R140, R143 step 1) -/
def wordWritable (s : State) (fn : Nat) (va : Word) : Bool :=
  if 0x20000000000 ≤ va.toNat ∧ va.toNat < 0x20001000000 then
    SMap.get 0 s.wown ((va.toNat - 0x20000000000) / 65536) = 256 + fn
  else
    match directPa s fn va .write true with
    | .ok _ => true
    | .error _ => false

/-- Step 1 of R143. -/
def doneOk (s : State) (fn : Nat) (done : Word) (byLaunch : Bool) : Bool :=
  done != 0 && done.toNat % 8 == 0 && wordWritable s fn done && (!byLaunch || wordWritable s fn (done + 8))

/-- A launch takes its place at the end of its queue (R157, R159); on each of its dies a queue that was empty waits from now
(R158). -/
def enqueueLaunch (s : State) (l : Launch) : State :=
  let s1 := { s with launches := SMap.put s.nextLaunch { l with serial := s.nextLaunch } s.launches, nextLaunch := s.nextLaunch + 1 }
  (s.dies.filter (fun d => queueWaits s1 d.1 l.queue)).foldl (fun s2 d =>
    if queueWaits s d.1 l.queue then s2 else beginWait s s2 d.1 l.queue) s1

/-- R244: reads the block and puts the child on the parent's queue. -/
def execLaunch (a : Reg) (s : State) : Host.Outcome State Fault Refusal :=
  strandStep (.launch a) (do
    let ea ← rdOut a
    let l ← curLaunch
    if l.det then trapM 14 0
    needAligned ea 8
    classGate
    let b ← readWords (ea + 8) 15 7
    let s ← getS
    let e := b.getD 3 0
    let child := launchOfBlock l.fn l.queue (bitOf e 26) (bitOf e 27) (bitsOf e 28 3) true 0 b
    if !doneOk s l.fn child.done true then illegal (.launch a)
    setS (enqueueLaunch s child)
    pure .fall) s

/-! ### TINV (R245) -/

/-- Drop cached translations of a module. -/
def dropTlb (s : State) (m : Nat) (keep : TlbEntry → Bool) : State :=
  { s with dies := s.dies.map (fun (d, x) =>
      if d / 8 = m then
        (d, { x with dieTlb := x.dieTlb.filter keep, coreTlb := x.coreTlb.map (fun (c, l) => (c, l.filter keep)) })
      else (d, x)) }

/-- TINV issues after every earlier access of the strand has performed, then drops the entries in every module of the pod,
those of the function's partition among them (R245, log entry 111), and what walks before it have found. -/
def tinvBody (keep : TlbEntry → Bool) : M Next := do
  takeReports
  let s ← getS
  let st ← curStrand
  let t ← curTask
  if !st.outs.isEmpty || !(vecAccesses t s.sel.strand).isEmpty then waitM 7 0
  modS (fun s => (List.range (podModules s)).foldl (fun s m => dropTlb s m keep) s)
  modS (fun s => { s with tasks := s.tasks.map (fun (n, x) => (n, x.dropWalks)) })
  pure .fall

/-- R245, FN 0. -/
def execTinvPage (a b : Reg) (s : State) : Host.Outcome State Fault Refusal :=
  strandStep (.tinvPage a b) (do
    let va ← rdOut a
    let f ← rdOut b
    tinvBody (fun e => !(e.fn == f.toNat % 256 && e.page == pageOf va))) s

/-- R245, FN 1. -/
def execTinvFunction (b : Reg) (s : State) : Host.Outcome State Fault Refusal :=
  strandStep (.tinvFunction b) (do
    let f ← rdOut b
    tinvBody (fun e => e.fn != f.toNat % 256)) s

/-- R245, FN 2. -/
def execTinvAll (s : State) : Host.Outcome State Fault Refusal :=
  strandStep .tinvAll (tinvBody (fun _ => false)) s

/-! ### LOGM (R407) -/

/-- R407: a mark record in a launch with LOG; only the ordering without. In replay no record is written, and the mark takes
the next record of its source, which it waits for; ARG, such as a clock, is not compared (R408; DESIGN CHOICE, log entry
141). -/
def execLogm (a : Reg) (s : State) : Host.Outcome State Fault Refusal :=
  strandStep (.logm a) (do
    let v ← rdOut a
    classGate
    let s ← getS
    let l ← curLaunch
    let t ← curTask
    let p : Party := { task := s.sel.task, strand := s.sel.strand }
    let r := orderRecord s { who := p, home := .spad s.sel.task, va := v } p 6 0 0 false
    let g := orderLog s t.die l.fn
    if !l.log then pure .fall
    else if g.replay then
      match nextRecord s t.die l.fn (homeSource s (.spad s.sel.task)) ((g.limit - g.rp).toNat / 32 + 1) g.rp with
      | some (va, want) =>
        if bitsOf want 80 8 = 6 ∧ bitsOf want 128 16 = bitsOf r 128 16 then do
          setS (modOrderLog s t.die l.fn (fun g => consumeRecord g va))
          pure .fall
        else waitM 7 (v.toNat % 2 ^ 48)
      | none => waitM 7 (v.toNat % 2 ^ 48)
    else do
      match writeRecord s t.die l.fn r with
      | (s', true) => do setS s'; pure .fall
      | (s', false) => do setS s'; pure (.trapAfter { cause := 23, tval := 0 })) s

/-! ### Words that are no instruction (R57, R70, R71) -/

/-- The trap of a fate. -/
def fateTrap : Fate → Trap
  | .fetchFault miss stage addr => { cause := if miss then 7 else 8, tval := addr, stage }
  | .illegalLength p => { cause := 2, tval := p.setWidth 64 }
  | .zeroWord => { cause := 3 }
  | .illegalOpcode p => { cause := 1, tval := p.setWidth 64 }
  | .privilege p => { cause := 5, tval := p.setWidth 64 }
  | .reservedField p => { cause := 4, tval := p.setWidth 64 }

/-- Length of what was fetched, in parcels (R174, log entry 27). -/
def fateLength : Fate → Nat
  | .fetchFault _ _ _ => 1
  | .illegalLength p => parcelCount p.toNat
  | .zeroWord => 1
  | .illegalOpcode p => parcelCount p.toNat
  | .privilege p => parcelCount p.toNat
  | .reservedField p => parcelCount p.toNat

/-- R70 steps 1 to 7: the strand that meets such a word takes its trap and changes nothing else. -/
def execEncodingNotInstruction (fate : Fate) (s : State) : Host.Outcome State Fault Refusal :=
  let t := s.sel.task
  let k := s.sel.strand
  if !canIssue s t k then .next s
  else
    let s := takeTurn s t k
    if (s.strand t k).stepDue then .next (stepStop s t k)
    else if shortOfFault (s.task t) k then .next (setWait s t k { kind := 0 })
    else .next (takeTrap s t k none (fateTrap fate) (s.strand t k).r.pc (fateLength fate))

/-! ### Fetching (R57, R70) -/

/-- What a fetch brings. -/
inductive Fetched where
  | run (i : Instr)
  | fate (f : Fate)
  /-- a walk to wait for, uncorrectable data, or a poisoned operand, of so many parcels -/
  | stop (x : Stop) (len : Nat)
deriving DecidableEq, Repr

/-- Parcels from an address upward, the first number `i` of its instruction, as one little-endian number. -/
def fetchParcels (s : State) (t k : Nat) : Nat → Nat → Word → Except Stop Nat
  | 0, _, _ => .ok 0
  | n + 1, i, va => do
    let p ← fetchParcel s t k va i
    let r ← fetchParcels s t k n (i + 1) (va + 4)
    pure (p + 2 ^ 32 * r)

/-- A fetch that stopped: a translation fault is step 1 of R70. -/
def fetchStop : Stop → Fetched
  | .trap tr => if tr.cause = 7 ∨ tr.cause = 8 then .fate (.fetchFault (tr.cause == 7) tr.stage tr.tval) else .stop (.trap tr) 1
  | .wait w => .stop (.wait w) 1
  | .walk fn page => .stop (.walk fn page) 1
  | .report r => .stop (.report r) 1
  | .logFull a => .stop (.logFull a) 1

/-- g registers that a word reads as a matrix, copy, gather or collective command, by its opcode (R322, R341, R378). -/
def commandRegs (r : StrandRegs) (w : Nat) : List Nat :=
  let f := unpackEC w
  let a := f.a.toNat
  let b := f.b.toNat
  let c := f.c.toNat
  let x := unpackEX w
  let xa := x.a.toNat
  let xb := x.b.toNat
  let xc := x.c.toNat
  if w % 4 ≠ 1 then []
  else (match bitsOf w 2 6 with
    | 0x22 => [a]
    | 0x26 => [a, b]
    | 0x27 => [a, b]
    | 0x30 => if bitOf w 8 then [a, b, c, c + 1] else [a, b, c]
    | 0x31 => if bitOf w 8 then [a, b, c, c + 1, c + 2] else [a, b, c, c + 1]
    | 0x32 => [b, c]
    | 0x33 => [a, b, c]
    | 0x35 => [a, b]
    | 0x36 => [a, b]
    | 0x37 => [a, b]
    | 0x38 => [xa]
    | 0x39 => [xa, xb, xc]
    | 0x3A => [xa, xb, xc]
    | 0x3B => if bitOf (r.gr xc).toNat 47 then [xa, xc, xc + 1] else [xa, xb, xc, xc + 1]
    | _ => []).filter (· < 64)

/-- Step 1 of R320, R340 and R377 for a word whose step 2 has the fate `f`: a poisoned operand comes first. -/
def commandFate (st : Strand) (w : Nat) (f : Fate) : Fetched :=
  let regs := commandRegs st.r w
  match regs.find? (fun n => st.notReady.contains n), regs.find? (fun n => st.r.poisonOf n != 0) with
  | some n, _ => .stop (.wait { kind := 0, object := n }) 2
  | none, some n => .stop (.trap { cause := 11, tval := w64 n }) 2
  | none, none => .fate f

/-- Fetch and decode at the pc of a strand (R56, R57, R70). -/
def fetchAt (s : State) (t k : Nat) : Fetched :=
  let pc := (s.strand t k).r.pc
  let l := s.launchOf t
  match fetchParcel s t k pc with
  | .error e => fetchStop e
  | .ok first =>
    match fetchParcels s t k (parcelCount first) 0 pc with
    | .error e => fetchStop e
    | .ok w =>
      match decode { sup := l.sup, vregs := l.vregs } w with
      | .instr i => .run i
      | .fate f => commandFate (s.strand t k) w f

/-- A strand whose fetch stopped, before anything of the instruction is known (R70 step 1). -/
def fetchStopped (x : Stop) (len : Nat) (s : State) : State :=
  let t := s.sel.task
  let k := s.sel.strand
  if !canIssue s t k then s
  else if (s.strand t k).stepDue then stepStop (takeTurn s t k) t k
  else applyStop (takeTurn s t k) t k len x

/-! ### Moves of the world outside the steps of the table (log entry 2) -/

/-- Drop one entry of a translation cache (R189). -/
def evictTlb (s : State) (die core place : Nat) : State :=
  s.modDie die (fun d =>
    if core = 36 then { d with dieTlb := d.dieTlb.eraseIdx place }
    else { d with coreTlb := SMap.upd core (fun l => l.eraseIdx place) d.coreTlb })

/-- The host stores to its own memory: both it and the device read the new byte (R137). -/
def hostStoreByte (s : State) (addr : Nat) (b : Byte) : State :=
  if isHostPa s addr then
    { s with mem := writeByte s.mem addr b, hostView := SMap.del addr s.hostView,
             toHost := s.toHost.filter (fun e => e.2.1 != addr) }
  else s

/-- An uncorrectable error of a physical word. -/
def strikePa (s : State) (addr : Nat) : State :=
  if (homeOfPa s addr).isSome && !s.badWords.contains (addr / 8) then { s with badWords := addr / 8 :: s.badWords } else s

/-- An uncorrectable error of a scratchpad word; of a slot word, which reads as zeros from now on and sets TAINT; of a bank
element, which reads as zero and sets BTAINT (R315). -/
def strikeSpad (s : State) (t addr : Nat) : State :=
  s.modTask t (fun x =>
    if addr < 2 ^ 24 then
      (if addr < x.spsize && !x.badWords.contains (addr / 8) then { x with badWords := addr / 8 :: x.badWords } else x)
    else if addr < 2 ^ 24 + 2 ^ 20 then
      let n := (addr - 2 ^ 24) / 32768
      let y := x.slot n
      x.setSlot n { y with taint := true, bytes := writeBytes y.bytes (addr % 32768 / 8 * 8) (List.replicate 8 0) }
    else if 2 ^ 25 ≤ addr ∧ addr < 2 ^ 25 + 65536 then
      let b := (addr - 2 ^ 25) / 16384
      let y := x.bank b
      x.setBank b { y with taint := true, acc := SMap.set 0 y.acc (addr % 16384) 0 }
    else x)

/-- An uncorrectable error of a register of a task, numbered as `Pick.regError` tells; it lies in every part of the register
(R172, R261, log entry 18). -/
def strikeReg (s : State) (t reg : Nat) : State :=
  s.modTask t (fun x =>
    if reg < 512 then
      if reg % 64 = 0 then x else x.modStrand (reg / 64) (fun y => { y with r := { y.r with bad := reg % 64 :: y.r.bad } })
    else
      let n := if reg < 1024 then reg - 512 else if reg < 1040 then 0x200 + (reg - 1024) else 0x210 + (reg - 1040)
      let all := if n < 0x210 then 2 ^ 1024 - 1 else 2 ^ 256 - 1
      if n = 0x200 ∨ 0x218 ≤ n then x else { x with vec := { x.vec with bad := SMap.put n all x.vec.bad } })

/-- An uncorrectable error of a register in the guard core's register file (R172, R392). -/
def strikeGuard (s : State) (t reg : Nat) : State :=
  if reg % 64 = 0 ∨ 512 ≤ reg then s
  else s.modStrand t (reg / 64) (fun y => { y with r := { y.r with guardBad := reg % 64 :: y.r.guardBad } })

/-- An uncorrectable error of an entry of a load-value queue (R172, R392). -/
def strikeLvq (s : State) (t place : Nat) : State :=
  s.modTask t (fun x => { x with lvq := x.lvq.zipIdx.map (fun (e, i) => if i = place then { e with bad := true } else e) })

/-- The guard core runs as far as a strand of a running task (R392). -/
def runGuard (s : State) (t k : Nat) : State :=
  if (s.strand t k).live then s.modTask t (fun x => x.guardCatch k) else s

/-- A debug watchpoint meets a strand that may issue: WATCH with the address (R172). -/
def meetWatch (s : State) (t k : Nat) (addr : Word) : State :=
  if issuable s t k && !shortOfFault (s.task t) k then
    takeTrap s t k none { cause := 31, tval := addr } (s.strand t k).r.pc (lengthAt s t k)
  else s

/-! ### A task placed for a first instruction (log entry 8) -/

/-- Where the placed task fetches. -/
def placedPc : Word := 0x100000000000

/-- The task of log entry 8, with a translation of its code page to physical address 0. -/
def placedTask (s : State) : State :=
  let l : Launch := { fn := 1, width := 1, height := 1, sup := true, code := placedPc, strands := 8, vregs := 384,
                      phaseOf := .accepted, serial := 1 }
  let first := newStrand placedPc 0
  let x : Task := { launch := 1, place := .running 0, placed := true, spsize := 6291456, strands := [(0, first)] }
  let e : TlbEntry := { fn := 1, page := pageOf placedPc, pa := 0, vr := true, vw := true, vx := true, hr := true,
                        hw := true, hx := true, user := true }
  let s1 := { s with launches := SMap.put 1 l s.launches, tasks := SMap.put 1 x s.tasks,
                     nextTask := max 2 s.nextTask, nextLaunch := max 2 s.nextLaunch }
  s1.modDie 0 (fun d => { d with coreTlb := SMap.put 0 [e] d.coreTlb, remap := SMap.put 0 1 d.remap })

end Sys2Proof.Machine
end

