-- ==== Sys2Proof/Machine/Vector.lean ====
section
/-!
DEFINITION. What a vector instruction computes from the registers it reads (R251, R252, R258, R265 to R283, R287, R289,
R292): elements of a tile, activity, results, flags, and the traps that depend on data.
-/
namespace Sys2Proof.Machine

/-! ### Tiles (R251) -/

/-- Block types have elements in blocks. -/
def isBlock (et : Nat) : Bool := 10 ≤ et && et ≤ 13

/-- Element size of a type, or block size. -/
def elemSize (et : Nat) : Nat := if isBlock et then blockBytes et else typeBytes et

/-- Bits of an element that an element-wise instruction reads and writes: an A80 container holds 80 (R31). -/
def elemBits (et : Nat) : Nat := if et = 9 then 80 else 8 * elemSize et

/-- Elements in a row of `rb` bytes. -/
def rowElems (et rb : Nat) : Nat := rb / elemSize et * (if isBlock et then blockElems et else 1)

/-- Element e of a register's contents. -/
def elem (et reg e : Nat) : Nat := reg / 2 ^ (8 * typeBytes et * e) % 2 ^ elemBits et

/-- The whole container of element e, which an inactive element keeps (R252, R265). -/
def keepElem (et reg e : Nat) : Nat := reg / 2 ^ (8 * typeBytes et * e) % 2 ^ (8 * typeBytes et)

/-- Elements of `s` bytes, packed from byte 0. -/
def packElems (s : Nat) (xs : List Nat) : Nat := packBits (8 * s) xs

/-- What a vector instruction computes with. -/
structure VCtx where
  et : Nat
  rm : Nat
  sat : Bool
  anch : Int
  z : Bool
  x : Bool
  /-- bits of m[M] -/
  mask : Nat
  rows : Nat
  rb : Nat
  /-- VCTL.XLM -/
  fall : Bool
  srseed : Word
  phase : Word
  lcore : Nat
  strand : Nat
  seq : BitVec 32
deriving Repr, Inhabited

/-- Values an instruction reads: contents of the registers VD, VA and VB name, g values, masks, and LIT. -/
structure VIn where
  d : Nat := 0
  a : Nat := 0
  b : Nat := 0
  ga : Word := 0
  gb : Word := 0
  md : Nat := 0
  ma : Nat := 0
  mb : Nat := 0
  lit : Nat := 0
deriving Repr, Inhabited

/-- What an instruction writes: VD, VD + 1, a mask, a g register; the bytes of VD and the bits of the mask that it does not
write; and the flags by element number. -/
structure VOut where
  vd : Option Nat := none
  keep : Nat := 0
  keepMask : Nat := 0
  vd1 : Option Nat := none
  mask : Option Nat := none
  g : Option Word := none
  flags : List Nat := []
deriving Repr, Inhabited

/-- The number U of an element (R38). -/
def VCtx.u (c : VCtx) (e : Nat) : Nat := if c.rm = 5 then stochastic c.srseed c.phase c.lcore c.strand c.seq e else 0

/-- Elements in a row and in the tile, for a type. -/
def VCtx.cols (c : VCtx) (et : Nat) : Nat := rowElems et c.rb

def VCtx.count (c : VCtx) (et : Nat) : Nat := c.rows * c.cols et

/-- Is element e below n active (R252)? -/
def VCtx.act (c : VCtx) (n e : Nat) : Bool := decide (e < n) && bitOf c.mask e

/-- The bits of some fields of `size` bits each, as a set. -/
def fieldSet (size : Nat) (es : List Nat) : Nat := es.foldl (fun b e => b ||| (2 ^ size - 1) * 2 ^ (size * e)) 0

/-- The inactive ones of n elements. -/
def VCtx.idle (c : VCtx) (n : Nat) : List Nat := (List.range n).filter (fun e => !c.act n e)

/-- The bytes of VD that inactive elements of `size` bytes keep: none with Z. -/
def VCtx.kept (c : VCtx) (size n : Nat) : Nat := if c.z then 0 else fieldSet size (c.idle n)

/-- An element-wise result: `f` for active elements; others keep `old` or become +0 by Z (R252, R265). -/
def VCtx.map (c : VCtx) (size n : Nat) (old : Nat → Nat) (f : Nat → Flagged Nat) : VOut :=
  let r := (List.range n).map (fun e => if c.act n e then f e else (if c.z then 0 else old e, 0))
  { vd := some (packElems size (r.map (·.1))), keep := c.kept size n, flags := r.map (·.2) }

/-! ### Element operations (R268 to R276) -/

/-- Smaller or larger of two elements of a float type: canonical NaN for a NaN, −0 below +0 (R47, R268). -/
def pickFloat (f : Fmt) (larger : Bool) (a b : Nat) : Nat :=
  let x := f.decode a
  let y := f.decode b
  if x.isNan || y.isNan then f.nan
  else
    let aLess := x.lt y || (!(y.lt x) && (x.sign || !y.sign))
    if aLess != larger then a else b

/-- Smaller or larger of two integer elements. -/
def pickInt (et : Nat) (larger : Bool) (a b : Nat) : Nat :=
  if decide (intOf et a ≤ intOf et b) != larger then a else b

/-- VMIN or VMAX on a type of S. -/
def pickElem (et : Nat) (larger : Bool) (a b : Nat) : Nat :=
  match fmtOf et with
  | some f => pickFloat f larger a b
  | none => pickInt et larger a b

/-- The operations of VARITH on one element: 0 VADD, 1 VSUB, 2 VMUL, 3 VFMA, 4 VFMS, 5 VMIN, 6 VMAX, 7 VABS, 8 VNEG. -/
def arith (op et rm : Nat) (sat : Bool) (u a b d : Nat) : Flagged Nat :=
  match fmtOf et with
  | some f =>
    let x := f.decode a
    let y := f.decode b
    let w := f.decode d
    let fin := fun (r : Flagged Ex) =>
      let (v, fl) := roundTo f rm sat u r.1
      (v, r.2 ||| fl)
    let prod := Ex.mul x y
    let sum := fun (p q : Ex) (fl : Nat) => let (v, g) := Ex.add rm p q; fin (v, fl ||| g)
    match op with
    | 0 => fin (Ex.add rm x y)
    | 1 => fin (Ex.add rm x y.neg)
    | 2 => fin prod
    | 3 => sum prod.1 w prod.2
    | 4 => sum w prod.1.neg prod.2
    | 5 => (pickFloat f false a b, 0)
    | 6 => (pickFloat f true a b, 0)
    | 7 => (a % 2 ^ f.mag, 0)
    | _ => (if bitOf a f.mag then a % 2 ^ f.mag else a % 2 ^ f.mag + 2 ^ f.mag, 0)
  | none =>
    let x := intOf et a
    let y := intOf et b
    let w := intOf et d
    match op with
    | 0 => (intResult et sat (x + y), 0)
    | 1 => (intResult et sat (x - y), 0)
    | 2 => (intResult et sat (x * y), 0)
    | 3 => (intResult et sat (x * y + w), 0)
    | 4 => (intResult et sat (w - x * y), 0)
    | 5 => (pickInt et false a b, 0)
    | 6 => (pickInt et true a b, 0)
    | 7 => (intResult et sat x.natAbs, 0)
    | _ => (intResult et sat (-x), 0)

/-- A value times 2^n, exact. Beyond ±8192 the scaled value rounds alike in every format and mode (R269). -/
def scaleEx (n : Int) : Ex → Ex
  | .nan => .nan
  | .inf s => .inf s
  | .num s m d e => .num s m d (e + max (-8192) (min 8192 n))

/-- VSCALE of one element (R269). -/
def scaleElem (et rm : Nat) (sat : Bool) (u : Nat) (n : Int) (a : Nat) : Flagged Nat :=
  exTo et rm sat u (scaleEx n (exOf et a))

/-- VLOGIC of one element: 0 AND, 1 OR, 2 XOR, 3 SLL, 4 SRL, 5 SRA (R272). -/
def logicElem (op et a b : Nat) : Nat :=
  let w := elemBits et
  match op with
  | 0 => a &&& b
  | 1 => a ||| b
  | 2 => a ^^^ b
  | 3 => a * 2 ^ (b % w) % 2 ^ w
  | 4 => a / 2 ^ (b % w)
  | _ => if et = 1 then a / 2 ^ (b % w) else wrapNat w (sintOf w a / (2 : Int) ^ (b % w))

/-- Conditions of VCMP: 0 EQ, 1 NE, 2 LT, 3 LE, 4 GT, 5 GE, 6 UNORD (R273). -/
def condElem (op et a b : Nat) : Bool :=
  let x := exOf et a
  let y := exOf et b
  let nan := x.isNan || y.isNan
  let lt := x.lt y
  let gt := y.lt x
  match op with
  | 0 => !nan && !lt && !gt
  | 1 => nan || lt || gt
  | 2 => !nan && lt
  | 3 => !nan && !gt
  | 4 => !nan && gt
  | 5 => !nan && !lt
  | _ => nan

/-- VCVT of one element (R275). -/
def convertElem (src dst rm : Nat) (sat : Bool) (u a : Nat) : Flagged Nat :=
  match fmtOf src, fmtOf dst with
  | none, none => (intResult dst sat (intOf src a), 0)
  | _, _ => exTo dst rm sat u (exOf src a)

/-- VFUNC of one element (R276). -/
def funcElem (fn et rm : Nat) (sat : Bool) (u a : Nat) : Flagged Nat :=
  let (v, fl) := specialFn fn (exOf et a)
  let (r, g) := exTo et rm sat u v
  (r, fl ||| g)

/-! ### Reductions (R47 to R49, R277) -/

/-- SUM of two elements. -/
def sumElem (et rm : Nat) (sat : Bool) (u a b : Nat) : Flagged Nat := arith 0 et rm sat u a b 0

/-- Identity of SUM (0), MAX (1) or MIN (2) (R48). -/
def redIdentity (op et : Nat) : Nat :=
  match fmtOf et with
  | some f =>
    if op = 0 then 2 ^ f.mag
    else if f.top = 1 then f.signed (op == 1) f.maxCode
    else f.signed (op == 1) ((2 ^ f.eb - 1) * 2 ^ f.F)
  | none => if op = 0 then 0 else wrapNat (8 * typeBytes et) (if op = 1 then intLo et else intHi et)

/-- One level of the tree: pairs combined, an odd last element unchanged; with the next node number and the flags. -/
def treeLevel (op : Nat → Nat → Nat → Flagged Nat) : List Nat → Nat → Nat → List Nat × Nat × Nat
  | a :: b :: r, node, fl =>
    let (v, g) := op node a b
    let (l, n, h) := treeLevel op r (node + 1) (fl ||| g)
    (v :: l, n, h)
  | [a], node, fl => ([a], node, fl)
  | [], node, fl => ([], node, fl)

/-- The pairwise tree of R47 from a first node number: result, next node number, flags. -/
def treeReduce (op : Nat → Nat → Nat → Flagged Nat) : Nat → List Nat → Nat → Nat → Nat × Nat × Nat
  | _, [], node, fl => (0, node, fl)
  | _, [a], node, fl => (a, node, fl)
  | 0, a :: _, node, fl => (a, node, fl)
  | n + 1, l, node, fl =>
    let (l', node', fl') := treeLevel op l node fl
    treeReduce op n l' node' fl'

/-- Element numbers of each result of a reduction: 0 rows, 1 columns, 2 all. -/
def redLists (dir rows cols : Nat) : List (List Nat) :=
  match dir with
  | 0 => (List.range rows).map (fun i => (List.range cols).map (fun c => i * cols + c))
  | 1 => (List.range cols).map (fun c => (List.range rows).map (fun i => i * cols + c))
  | _ => [List.range (rows * cols)]

/-- The conversion of an element for SUMX: a masked-off one contributes 0 (R49). -/
def sumxTerm (c : VCtx) (a e : Nat) : Flagged Int :=
  if c.act (c.count c.et) e then toXw c.anch (exOf c.et (elem c.et a e)) else (0, 0)

/-- SUMX of a list of element numbers, with the flag of its one saturation (R49). -/
def sumxList (c : VCtx) (a : Nat) (l : List Nat) : Flagged Nat :=
  let (t, o) := xwSat ((l.map (fun e => (sumxTerm c a e).1)).foldl (· + ·) 0)
  (wrapNat 128 t, o)

/-- The result of a reduction of floats: a NaN is the canonical one, of a single element too (R27). -/
def canonFloat (et v : Nat) : Nat :=
  match fmtOf et with
  | some f => if (f.decode v).isNan then f.nan else v
  | none => v

/-- SUM, MAX or MIN of a list of element numbers, with the node number it starts at. -/
def redList (op : Nat) (c : VCtx) (a : Nat) (l : List Nat) (node : Nat) : Nat × Nat × Nat :=
  let n := c.count c.et
  let idle := !(l.any (c.act n))
  let f : Nat → Nat → Nat → Flagged Nat := fun k x y =>
    match op with
    | 0 => sumElem c.et c.rm c.sat (c.u k) x y
    | 1 => (pickElem c.et true x y, 0)
    | _ => (pickElem c.et false x y, 0)
  let (v, k, fl) := treeReduce f 11 (l.map (fun e => if c.act n e then elem c.et a e else redIdentity op c.et)) node 0
  if idle then (if op = 0 ∧ (fmtOf c.et).isSome then 0 else redIdentity op c.et, node + (l.length - 1), 0) else (canonFloat c.et v, k, fl)

/-- VRED (R277): 0 SUM, 1 MAX, 2 MIN, 3 SUMX. A flag of a SUM counts for the number of its result; one of SUMX for the
element whose conversion raised it, and that of a saturating total for the number of its result (R257, log entry 47). -/
def reduce (op dir : Nat) (c : VCtx) (a : Nat) : VOut :=
  let ls := redLists dir c.rows (c.cols c.et)
  if op = 3 then
    let r := ls.map (sumxList c a)
    { vd := some (packElems 16 (r.map (·.1))),
      flags := (List.range (max (c.count c.et) r.length)).map (fun e => (sumxTerm c a e).2 ||| ((r[e]?).map (·.2)).getD 0) }
  else
    let (r, _) := ls.foldl (fun (acc : List (Nat × Nat) × Nat) l =>
      let (v, k, fl) := redList op c a l acc.2
      (acc.1 ++ [(v, fl)], k)) ([], 0)
    { vd := some (packElems (typeBytes c.et) (r.map (·.1))), flags := r.map (·.2) }

/-! ### Cross-lane reads (R258, R278, R279) -/

/-- XLANE_FAULT. -/
def xlaneTrap (tval : Nat) : Trap := { cause := 28, tval := w64 tval }

/-- The highest active element below a bound. -/
def activeBelow (c : VCtx) (n : Nat) : Nat → Option Nat
  | 0 => none
  | k + 1 => if c.act n k then some k else activeBelow c n k

/-- What a cross-lane read of source k returns: its bits, or none for a fault. A negative k counts as n or more. -/
def crossRead (c : VCtx) (a : Nat) (k : Int) : Option Nat :=
  let n := c.count c.et
  let j := if k < 0 then n else min k.toNat n
  if c.act n j then some (elem c.et a j)
  else if c.fall then
    match activeBelow c n j with
    | some i => some (elem c.et a i)
    | none => some 0
  else if c.x then some 0 else none

/-- VPERM, VROT, VXL, VBCAST over their source numbers. -/
def crossLane (c : VCtx) (i : VIn) (k : Nat → Int) : Except Trap VOut :=
  let n := c.count c.et
  match (List.range n).find? (fun e => c.act n e && (crossRead c i.a (k e)).isNone) with
  | some e => .error (xlaneTrap e)
  | none => .ok (c.map (typeBytes c.et) n (keepElem c.et i.d) (fun e => ((crossRead c i.a (k e)).getD 0, 0)))

/-- VSCAN of one row from column c on: values and flags. -/
def scanRow (c : VCtx) (i : VIn) (n : Nat) : List Nat → Nat → List (Flagged Nat)
  | [], _ => []
  | e :: r, acc =>
    if c.act n e then
      let (v, fl) := sumElem c.et c.rm c.sat (c.u e) acc (elem c.et i.a e)
      (v, fl) :: scanRow c i n r v
    else (if c.z then 0 else keepElem c.et i.d e, 0) :: scanRow c i n r acc

/-- VSCAN (R279). -/
def scan (c : VCtx) (i : VIn) : VOut :=
  let cols := c.cols c.et
  let r := (List.range c.rows).flatMap (fun row =>
    scanRow c i (c.count c.et) ((List.range cols).map (fun k => row * cols + k)) (redIdentity 0 c.et))
  { vd := some (packElems (typeBytes c.et) (r.map (·.1))), keep := c.kept (typeBytes c.et) (c.count c.et), flags := r.map (·.2) }

/-! ### Compaction and sparsity (R280, R281) -/

/-- Active element numbers, rising. -/
def activeList (c : VCtx) (n : Nat) : List Nat := (List.range n).filter (c.act n)

/-- VPACK. -/
def pack (c : VCtx) (i : VIn) : VOut :=
  let l := activeList c (c.count c.et)
  { vd := some (packElems (typeBytes c.et) (l.map (elem c.et i.a))), g := some (w64 l.length) }

/-- VEXPAND. -/
def expand (c : VCtx) (i : VIn) : VOut :=
  let n := c.count c.et
  let (r, p) := (List.range n).foldl (fun (acc : List Nat × Nat) e =>
    if c.act n e then (acc.1 ++ [elem c.et i.a acc.2], acc.2 + 1) else (acc.1 ++ [keepElem c.et i.d e], acc.2)) ([], 0)
  { vd := some (packElems (typeBytes c.et) r), keep := fieldSet (typeBytes c.et) (c.idle n), g := some (w64 p) }

/-- Does element value x rank above y in magnitude? NaNs above every number (R281). -/
def ranksAbove (et x y : Nat) : Bool :=
  let a := exOf et x
  let b := exOf et y
  if a.isNan then !b.isNan else if b.isNan then false else b.abs.lt a.abs

/-- The K active elements of largest magnitude of a group, in index order; ties go to the lower index. -/
def keepLargest (et a : Nat) (k : Nat) (l : List Nat) : List Nat :=
  l.filter (fun e => (l.filter (fun o =>
    ranksAbove et (elem et a o) (elem et a e)
      || (!(ranksAbove et (elem et a e) (elem et a o)) && decide (o < e)))).length < k)

/-- VSPARSE with groups of `g` keeping `k`. -/
def sparse (g k : Nat) (c : VCtx) (i : VIn) : VOut :=
  let n := c.count c.et
  let cols := c.cols c.et
  let cells := (List.range c.rows).flatMap (fun row => (List.range (cols / g)).flatMap (fun q =>
    let base := row * cols + q * g
    let kept := keepLargest c.et i.a k (((List.range g).map (base + ·)).filter (c.act n))
    (List.range k).map (fun j =>
      (row * cols + q * k + j,
        match kept[j]? with
        | some e => (elem c.et i.a e, e - base)
        | none => (0, 0xFF)))))
  let val := (List.range n).map (fun e => ((cells.find? (fun x => x.1 == e)).map (·.2.1)).getD 0)
  let idx := (List.range n).map (fun e => ((cells.find? (fun x => x.1 == e)).map (·.2.2)).getD 0)
  { vd := some (packElems (typeBytes c.et) val), vd1 := some (packElems 1 idx) }

/-! ### Ternary, block and dot-product forms (R270, R271, R282, R283) -/

/-- VDOT4. -/
def dot4 (c : VCtx) (i : VIn) : VOut :=
  let n := c.rows * c.rb / 4
  c.map 4 n (elem 3 i.d) (fun l =>
    let p := (List.range 4).foldl (fun (s : Int) j =>
      s + intOf c.et (elem c.et i.a (4 * l + j)) * intOf c.et (elem c.et i.b (4 * l + j))) 0
    (intResult 3 c.sat (intOf 3 (elem 3 i.d l) + p), 0))

/-- VTACC. -/
def tacc (c : VCtx) (i : VIn) : VOut :=
  let cols := c.cols c.et
  let n := c.count c.et
  let t := fun (e : Nat) => intOf c.et (elem c.et i.a e)
  let r := (List.range c.rows).map (fun row =>
    let s := (List.range cols).foldl (fun (s : Int) k =>
      let e := row * cols + k
      if !c.act n e then s
      else
        let v := intOf c.et (elem c.et i.b k)
        if t e = 1 then s + v else if t e = -1 then s - v else s) 0
    intResult 3 c.sat (intOf 3 (elem 3 i.d row) + s))
  { vd := some (packElems 4 r),
    flags := (List.range n).map (fun e => if c.act n e && !(t e == 0 || t e == 1 || t e == -1) then fInvalid else 0) }

/-- VUNPK3: elements and the mask of illegal codes. -/
def unpack3 (c : VCtx) (i : VIn) : VOut :=
  let n := c.rows * c.rb
  let used := fun (j : Nat) => (List.range 5).any (fun k => c.act n (5 * j + k))
  let bad := fun (j : Nat) => used j && decide (243 ≤ elem 0 i.a j)
  let digit := fun (e : Nat) =>
    match tritDigits (elem 0 i.a (e / 5)) with
    | some l => wrapNat 8 (l.getD (e % 5) 0)
    | none => 0
  let groups := (n + 4) / 5
  let out := c.map 1 n (elem 0 i.d) (fun e => (digit e, 0))
  { out with
    mask := some (packBits 1 ((List.range groups).map (fun j => b2n (bad j)))),
    flags := (List.range n).map (fun e => if e % 5 = 0 && bad (e / 5) then fInvalid else 0) }

/-- VQB from source type `st`. -/
def quantise (st : Nat) (c : VCtx) (i : VIn) : VOut :=
  let n := c.count st
  let l := blockElems c.et
  let r := (List.range (n / l)).map (fun q =>
    let xs := (List.range l).map (fun k =>
      if c.act n (q * l + k) then exOf st (elem st i.a (q * l + k)) else .num false 0 1 0)
    quantBlock c.et c.rm (fun k => c.u (q * l + k)) xs)
  { vd := some (packElems (blockBytes c.et) (r.map (·.1))),
    flags := r.flatMap (fun x => x.2 :: List.replicate (l - 1) 0) }

/-- VDQB from source block type `st`. -/
def dequantise (st : Nat) (c : VCtx) (i : VIn) : VOut :=
  let n := c.count c.et
  let l := blockElems st
  let z := blockBytes st
  c.map (typeBytes c.et) n (keepElem c.et i.d) (fun e =>
    exTo c.et c.rm c.sat (c.u e) (blockElem st (bitsOf i.a (8 * z * (e / l)) (8 * z)) (e % l)))

/-! ### Moves (R287) -/

/-- VMVS: the element sign- or zero-extended. -/
def moveScalar (c : VCtx) (i : VIn) : Except Trap VOut :=
  match crossRead c i.a i.gb.toNat with
  | none => .error (xlaneTrap i.gb.toNat)
  | some v => .ok { g := some (if c.et = 1 ∨ (fmtOf c.et).isSome then w64 v else wordOfInt (intOf c.et v)) }

/-- VMVG: one element replaced, every other byte unchanged; nothing written for an inactive one. -/
def moveVector (c : VCtx) (i : VIn) : VOut :=
  let n := c.count c.et
  let k := i.gb.toNat
  let w := 8 * typeBytes c.et
  if c.act n k then
    { vd := some (i.d - keepElem c.et i.d k * 2 ^ (w * k) + i.ga.toNat % 2 ^ w * 2 ^ (w * k)),
      keep := 2 ^ 1024 - 1 - fieldSet (typeBytes c.et) [k] }
  else {}

/-! ### Every instruction -/

/-- MLOG (R289). -/
def maskLogic (op n ma mb : Nat) : Nat :=
  let full := 2 ^ n
  match op with
  | 0 => (ma &&& mb) % full
  | 1 => (ma ||| mb) % full
  | 2 => (ma ^^^ mb) % full
  | _ => (ma % full) &&& (full - 1 - mb % full)

/-- Set bits of a number below n. -/
def popBits (x : Nat) : Nat → Nat
  | 0 => 0
  | n + 1 => b2n (bitOf x n) + popBits x n

/-- VCMP: the mask written (R273). -/
def compare (op : Nat) (c : VCtx) (i : VIn) : VOut :=
  let n := c.count c.et
  { mask := some (packBits 1 ((List.range n).map (fun e =>
      b2n (if c.act n e then condElem op c.et (elem c.et i.a e) (elem c.et i.b e) else !c.z && bitOf i.md e)))),
    keepMask := c.kept 1 n }

/-- An element-wise operation of VARITH's form. -/
def arithAll (op : Nat) (c : VCtx) (i : VIn) : VOut :=
  c.map (typeBytes c.et) (c.count c.et) (keepElem c.et i.d) (fun e =>
    arith op c.et c.rm c.sat (c.u e) (elem c.et i.a e) (elem c.et i.b e) (elem c.et i.d e))

/-- An element-wise operation of VLOGIC's form. -/
def logicAll (op : Nat) (c : VCtx) (i : VIn) : VOut :=
  c.map (typeBytes c.et) (c.count c.et) (keepElem c.et i.d) (fun e =>
    (logicElem op c.et (elem c.et i.a e) (elem c.et i.b e), 0))

/-- A special function on every element. -/
def funcAll (fn : Nat) (c : VCtx) (i : VIn) : VOut :=
  c.map (typeBytes c.et) (c.count c.et) (keepElem c.et i.d) (fun e => funcElem fn c.et c.rm c.sat (c.u e) (elem c.et i.a e))

/-- What an instruction of the VE computes; nothing for those that only touch memory, nests or FIFOs. -/
def vCompute (i : Instr) (c : VCtx) (v : VIn) : Except Trap VOut :=
  let n := c.count c.et
  let cols := c.cols c.et
  match i with
  | .vadd _ => .ok (arithAll 0 c v)
  | .vsub _ => .ok (arithAll 1 c v)
  | .vmul _ => .ok (arithAll 2 c v)
  | .vfma _ => .ok (arithAll 3 c v)
  | .vfms _ => .ok (arithAll 4 c v)
  | .vmin _ => .ok (arithAll 5 c v)
  | .vmax _ => .ok (arithAll 6 c v)
  | .vabs _ => .ok (arithAll 7 c v)
  | .vneg _ => .ok (arithAll 8 c v)
  | .vsweep fn _ => .ok (arithAll fn.toNat c v)
  | .vscale _ => .ok (c.map (typeBytes c.et) n (keepElem c.et v.d) (fun e =>
      scaleElem c.et c.rm c.sat (c.u e) v.gb.toInt (elem c.et v.a e)))
  | .vdot4 _ => .ok (dot4 c v)
  | .vtacc _ => .ok (tacc c v)
  | .vand _ => .ok (logicAll 0 c v)
  | .vor _ => .ok (logicAll 1 c v)
  | .vxor _ => .ok (logicAll 2 c v)
  | .vsll _ => .ok (logicAll 3 c v)
  | .vsrl _ => .ok (logicAll 4 c v)
  | .vsra _ => .ok (logicAll 5 c v)
  | .vcmpEq _ => .ok (compare 0 c v)
  | .vcmpNe _ => .ok (compare 1 c v)
  | .vcmpLt _ => .ok (compare 2 c v)
  | .vcmpLe _ => .ok (compare 3 c v)
  | .vcmpGt _ => .ok (compare 4 c v)
  | .vcmpGe _ => .ok (compare 5 c v)
  | .vcmpUnord _ => .ok (compare 6 c v)
  | .vsel _ => .ok { vd := some (packElems (typeBytes c.et) ((List.range n).map (fun e =>
      elem c.et (if bitOf c.mask e then v.a else v.b) e))) }
  | .vcvt src _ => .ok (c.map (typeBytes c.et) (c.count src.toNat) (keepElem c.et v.d) (fun e =>
      convertElem src.toNat c.et c.rm c.sat (c.u e) (elem src.toNat v.a e)))
  | .vrcp _ => .ok (funcAll 0 c v)
  | .vrsq _ => .ok (funcAll 1 c v)
  | .vsqrt _ => .ok (funcAll 2 c v)
  | .vexp2 _ => .ok (funcAll 3 c v)
  | .vlog2 _ => .ok (funcAll 4 c v)
  | .vredSum dir _ => .ok (reduce 0 dir.toNat c v.a)
  | .vredMax dir _ => .ok (reduce 1 dir.toNat c v.a)
  | .vredMin dir _ => .ok (reduce 2 dir.toNat c v.a)
  | .vredSumx dir _ => .ok (reduce 3 dir.toNat c v.a)
  | .vperm _ => crossLane c v (fun e => (elem 2 v.b e : Nat))
  | .vrot _ => crossLane c v (fun e => ((e / cols * cols : Nat) : Int) + (((e % cols : Nat) : Int) + v.gb.toInt) % (cols : Int))
  | .vxl _ => crossLane c v (fun e => (e : Int) + v.gb.toInt)
  | .vbcast _ => crossLane c v (fun _ => (v.gb.toNat : Int))
  | .vscan _ => .ok (scan c v)
  | .vpack _ => .ok (pack c v)
  | .vexpand _ => .ok (expand c v)
  | .vsparse g8 kBig _ => .ok (sparse (if g8 then 8 else 4) ((if g8 then 2 else 1) * (if kBig then 2 else 1)) c v)
  | .vunpk3 _ => .ok (unpack3 c v)
  | .vqb f => .ok (quantise (f.vb.toNat % 16) c v)
  | .vdqb f => .ok (dequantise (f.vb.toNat % 16) c v)
  | .vmov _ => .ok (c.map (typeBytes c.et) n (keepElem c.et v.d) (fun e => (elem c.et v.a e, 0)))
  | .vmvs _ => moveScalar c v
  | .vmvg _ => .ok (moveVector c v)
  | .mlogAnd _ => .ok { mask := some (maskLogic 0 n v.ma v.mb) }
  | .mlogOr _ => .ok { mask := some (maskLogic 1 n v.ma v.mb) }
  | .mlogXor _ => .ok { mask := some (maskLogic 2 n v.ma v.mb) }
  | .mlogAndn _ => .ok { mask := some (maskLogic 3 n v.ma v.mb) }
  | .mpopc _ => .ok { g := some (w64 (popBits v.ma n)) }
  | .mfirst _ => .ok { g := some (match (List.range n).find? (fun e => bitOf v.ma e) with
      | some e => w64 e
      | none => BitVec.allOnes 64) }
  | .vbcastl _ _ => .ok (c.map (typeBytes c.et) n (keepElem c.et v.d) (fun _ => (v.lit % 2 ^ (8 * typeBytes c.et), 0)))
  | _ => .ok {}

end Sys2Proof.Machine
end

