-- ==== Sys2Proof/Machine/VectorPush.lean ====
section
/-!
DEFINITION. Vector instructions at the strand: operands read, checks made, the push (R54, R55, R142, R250 to R255, R259,
R264 to R266, R284 to R295), and the instructions that enter no queue.
-/
namespace Sys2Proof.Machine

/-! ### Formats from the table (R54, R55, R216, R290) -/

/-- Index of the format-table entry an instruction uses: LC[FTSEL] mod 16. In a deterministic launch the counter and
the entry must not be another strand's. -/
def formatIndex : M Nat := do
  let t ← curTask
  let l ← curLaunch
  let s ← getS
  csrImplicit 0x43
  let n := bitsOf t.vec.ftsel.toNat 0 2
  let c := t.loop n
  if l.det && c.act && c.own != s.sel.strand then trapRes 14 (0x60 + n)
  csrImplicit (0x60 + n)
  let idx := c.value.toNat % 16
  if l.det then
    match SMap.find idx t.recs.ftHolder with
    | some (h, w) => if w && h != s.sel.strand then trapRes 14 idx else pure ()
    | none => pure ()
  pure idx

/-- The entry at an index. -/
def formatEntry (idx : Nat) : M Word := do
  let t ← curTask
  pure (SMap.get 0 t.vec.ft idx)

/-- The entry a vector instruction with FT = 1 uses, its VET, RM and zero bits checked. -/
def vectorFormat (types : Nat → Bool) : M Word := do
  let idx ← formatIndex
  let e ← formatEntry idx
  let x := e.toNat
  if !types (bitsOf x 4 4) || decide (5 < bitsOf x 12 3) then trapM 1 (w64 idx)
  if bitsOf x 25 39 ≠ 0 then trapM 4 (w64 idx)
  pure e

/-! ### What an instruction needs of the shape -/

/-- Type that VSH's row length must fit, for an instruction of element type `et` (R251, R275, R282, R283). -/
def shapeType (i : Instr) (et : Nat) : Nat :=
  match i with
  | .vcvt src _ => src.toNat
  | .vqb f => f.vb.toNat % 16
  | .vunpk3 _ => 0
  | _ => et

/-- The instruction uses the shape. -/
def usesShape (i : Instr) : Bool :=
  match i with
  | .popv _ => false
  | .vnset _ => false
  | _ => true

/-- Limits that depend on shape, type and g values. -/
def shapeOk (i : Instr) (et rows rb vregs : Nat) (ga gb : Word) : Bool :=
  let st := shapeType i et
  let cols := rowElems st rb
  let n := rows * cols
  (!usesShape i || rb % elemSize st == 0) && (match i with
    | .vqb _ => cols % blockElems et == 0
    | .vdqb f => cols % blockElems (f.vb.toNat % 16) == 0
    | .vcvt _ _ => n * typeBytes et ≤ 1024
    | .vredSum d _ | .vredMax d _ | .vredMin d _ => d != 1 || decide (cols * typeBytes et ≤ 1024)
    | .vredSumx d _ => d != 1 || decide (cols * 16 ≤ 1024)
    | .vperm _ => n ≤ 512
    | .vgath _ | .vscat _ => n ≤ 256
    | .vsparse g8 _ f => cols % (if g8 then 8 else 4) == 0 && decide (f.vd.toNat + 1 < vregs)
    | .vdot4 _ => rb % 4 == 0
    | .popv _ => gb.toNat ≤ 128
    | .vnset _ => ga.toNat < 2 ^ 48 && gb.toNat ≤ 5
    | _ => true)

/-! ### Nests (R253, R254, R293, R295) -/

/-- Level L of a nest register. -/
def nestLevel (n : Nat) (l : Nat) : Nat := bitsOf n (48 * l) 48

/-- Extent of a level. -/
def nestExt (n l : Nat) : Nat := bitsOf (nestLevel n l) 0 12

/-- Step of operand 0 VD, 1 VA, 2 VB at a level. -/
def nestStep (n l x : Nat) : Int := sintOf 12 (bitsOf (nestLevel n l) (12 + 12 * x) 12)

/-- Number of iterations. -/
def nestCount (n : Nat) : Nat := (List.range 5).foldl (fun p l => p * nestExt n l) 1

/-- Offset of an operand at iteration number j, level 0 innermost. -/
def nestOffset (n j x : Nat) : Int :=
  ((List.range 5).foldl (fun (a : Int × Nat) l =>
    (a.1 + ((a.2 % max 1 (nestExt n l) : Nat) : Int) * nestStep n l x, a.2 / max 1 (nestExt n l))) (0, j)).1

/-- Least and greatest offset of an operand. -/
def nestSpan (n x : Nat) : Int × Int :=
  (List.range 5).foldl (fun (a : Int × Int) l =>
    let r := ((nestExt n l : Int) - 1) * nestStep n l x
    (a.1 + min 0 r, a.2 + max 0 r)) (0, 0)

/-- Every offset of an operand, each once. -/
def nestOffsets (n x : Nat) : List Int :=
  (List.range 5).foldl (fun (a : List Int) l =>
    (a.flatMap (fun o => (List.range (nestExt n l)).map (fun k => o + (k : Int) * nestStep n l x))).dedup) [0]

/-- A nest register after a VNSET of a level value. -/
def nestSet (old v level : Nat) : Nat :=
  if level = 5 then v % 2 ^ 48 + 2 ^ 48 * (1 + 2 ^ 48 * (1 + 2 ^ 48 * (1 + 2 ^ 48)))
  else old - nestLevel old level * 2 ^ (48 * level) + v % 2 ^ 48 * 2 ^ (48 * level)

/-- The nest register as it stands once the VNSETs in the queue have run. -/
def nestAhead (t : Task) (n : Nat) : Nat :=
  (t.queue 0).foldl (fun v e =>
    match e.cmd with
    | .vnset f => if f.vd.toNat = n then nestSet v e.cap.a.toNat e.cap.b.toNat else v
    | _ => v) (SMap.get 0 t.vec.n n).toNat

/-- Operands of a nest body that are vector registers: field number and base. -/
def nestOperands (i : Instr) : List (Nat × Nat) :=
  match vuse i with
  | none => []
  | some u =>
    [(0, u.f.vd.toNat), (1, u.f.va.toNat)] ++ (match i with
      | .vadd _ | .vsub _ | .vmul _ | .vfma _ | .vfms _ | .vmin _ | .vmax _ | .vdot4 _ | .vtacc _ => [(2, u.f.vb.toNat)]
      | .vand _ | .vor _ | .vxor _ | .vsll _ | .vsrl _ | .vsra _ | .vsel _ => [(2, u.f.vb.toNat)]
      | _ => [])

/-- Every register a nest reaches lies below VREGS (R254). -/
def nestFits (i : Instr) (n vregs : Nat) : Bool :=
  nestCount n == 0 || (nestOperands i).all (fun (x, base) =>
    let (lo, hi) := nestSpan n x
    decide (0 ≤ (base : Int) + lo) && decide ((base : Int) + hi < vregs))

/-- First byte of a sweep's window of an operand at iteration j (R295). -/
def sweepByte (base : BitVec 9) (step : BitVec 8) (j : Nat) : Nat := 1024 * base.toNat + j * step.toNat

/-- Operands of a sweep: base and step. -/
def sweepOperands (fn : Nat) (f : VW) : List (BitVec 9 × BitVec 8) :=
  [(f.v.vd, f.stepd), (f.v.va, f.stepa)] ++ (if fn ≤ 6 then [(f.v.vb, f.stepb)] else [])

/-- Steps are multiples of the element size and every window ends within the registers (R295). -/
def sweepFits (fn : Nat) (f : VW) (et vregs : Nat) : Bool :=
  (sweepOperands fn f).all (fun (b, st) =>
    st.toNat % typeBytes et == 0
      && (f.count == 0 || decide (sweepByte b st (f.count.toNat - 1) + 1024 ≤ 1024 * vregs)))

/-! ### The push (R259, R265) -/

/-- An instruction counted by SEQ counts now; those of a heritage routine do not (R38). -/
def countSeq : M Unit := modCur (fun x => if x.r.her then x else { x with seq := x.seq + 1 })

/-- The strand waits for a value of the VE in a g register (R259). -/
def awaitG (d : Nat) : M Unit :=
  modCur (fun x => if d = 0 then x else { x with notReady := d :: x.notReady })

/-- What every vector instruction captures; the CSRs it reads are free of another strand's writes: VSH, VCTL, SRSEED and
XWANCHOR as it uses them (R55, R198, R255, R259). -/
def vectorCapture (shape ctl rm5 sumx : Bool) : M Captured := do
  let t ← curTask
  let st ← curStrand
  let l ← curLaunch
  if shape then csrImplicit 0x40
  if ctl then csrImplicit 0x41
  if rm5 then csrImplicit 0x44
  if sumx then csrImplicit 0x45
  pure { vsh := t.vec.vsh, vctl := t.vec.vctl, anchor := t.vec.xwanchor.setWidth 8, srseed := t.vec.srseed,
         phase := l.phase, seq := st.seq, her := st.r.her,
         before := some { regs := st.r, seq := st.seq, loops := t.loops, arming := st.arming, notReady := st.notReady },
         after := st.outs.map (·.id) }

/-- Element type of a pushed instruction: the table's or its own. -/
def capType (cap : Captured) (et : BitVec 4) : Nat :=
  match cap.ft with
  | some e => bitsOf e.toNat 4 4
  | none => et.toNat

/-- An instruction of the V3, VL or VW formats that enters the VE queue: g operands VA and VB as `ga` and `gb` tell, a g
destination `gd`, a format from the table when FT = 1. -/
def pushV3 (i : Instr) (ga gb : Option Reg) (gd : Option Reg) : M Next := do
  match vuse i with
  | none => illegal i
  | some u => do
    let a ← (match ga with
      | some r => rdOut r
      | none => pure 0)
    let b ← (match gb with
      | some r => rdOut r
      | none => pure 0)
    match gd with
    | some r => needReady r
    | none => pure ()
    let l ← curLaunch
    let t ← curTask
    let st ← curStrand
    let ft ← (if u.f.ft && u.ft then do
        let e ← vectorFormat (fun x => match u.types with
          | some p => p x
          | none => true)
        pure (some e)
      else pure none)
    let rm := match ft with
      | some e => bitsOf e.toNat 12 3
      | none => u.f.rm.toNat
    let sumx := match i with
      | .vredSumx _ _ => ft.isNone
      | _ => false
    let cap ← vectorCapture (usesShape i) (usesShape i) (rm == 5) sumx
    let cap := { cap with a := a, b := b, ft := ft }
    let et := capType cap u.f.et
    let rows := bitsOf cap.vsh.toNat 0 5
    let rb := bitsOf cap.vsh.toNat 8 11
    if !shapeOk i et rows rb l.vregs a b then illegal i
    let nest : Option Nat := st.arming.bind (·.nest)
    match nest with
    | some n => if !nestFits i (nestAhead t n) l.vregs then illegal i
    | none => pure ()
    match i with
    | .vsweep fn f => if !sweepFits fn.toNat f et l.vregs then illegal i
    | _ => pure ()
    pushEntry 0 i { cap with nest := nest } ((st.arming.map (·.resume)).getD 0)
    modCur (fun x => { x with arming := none })
    countSeq
    match gd with
    | some r => awaitG r.toNat
    | none => pure ()
    pure .fall

/-- A vector memory instruction (R284): base in A, stride in B where it has one. -/
def pushVM (i : Instr) (f : VM) (stride : Bool) : M Next := do
  let a ← rdOut f.a
  let b ← (if stride then rdOut f.b else pure 0)
  if f.oc = 15 then takeReports
  let cap ← vectorCapture true false false false
  let l ← curLaunch
  let rows := bitsOf cap.vsh.toNat 0 5
  let rb := bitsOf cap.vsh.toNat 8 11
  if !shapeOk i f.et.toNat rows rb l.vregs a b then illegal i
  pushEntry 0 i { cap with a := a, b := b }
  pure .fall

/-- The g register a vector field names. -/
def gField (x : BitVec 9) : Reg := x.setWidth 6

/-! ### Instructions that enter no queue -/

/-- R288: VSHAPE acts as CSRW of VSH. -/
def execVshape (f : V3) (s : State) : Host.Outcome State Fault Refusal :=
  strandStep (.vshape f) (do
    let r ← csrBody 1 (gField f.vd) (gField f.va) 0x040
    countSeq
    pure r) s

/-- R290: FTLD writes a format-table entry. -/
def execFtld (f : V3) (s : State) : Host.Outcome State Fault Refusal :=
  strandStep (.ftld f) (do
    let v ← rdOut (gField f.va)
    let k := f.vd.toNat % 16
    let l ← curLaunch
    let t ← curTask
    let me := s.sel.strand
    if l.det then
      match SMap.find k t.recs.ftHolder with
      | some (h, _) => if h ≠ me then trapRes 14 k else pure ()
      | none => pure ()
    logUndo 1 k (SMap.get 0 t.vec.ft k).toNat
    modCurTask (fun t => { t with
      vec := { t.vec with ft := SMap.set 0 t.vec.ft k v },
      recs := { t.recs with ftHolder := if l.det then SMap.put k (me, true) t.recs.ftHolder else t.recs.ftHolder } })
    countSeq
    pure .fall) s

/-- R294: VNX arms a nest for the next instruction. -/
def execVnx (nest : BitVec 3) (f : V3) (s : State) : Host.Outcome State Fault Refusal :=
  strandStep (.vnx nest f) (do
    modCur (fun x => { x with arming := some { nest := some nest.toNat } })
    countSeq
    pure .fall) s

/-! ### Instructions of the VE queue -/

/-- R268. -/
def execVadd (f : V3) (s : State) : Host.Outcome State Fault Refusal :=
  strandStep (.vadd f) (pushV3 (.vadd f) none none none) s

/-- R268. -/
def execVsub (f : V3) (s : State) : Host.Outcome State Fault Refusal :=
  strandStep (.vsub f) (pushV3 (.vsub f) none none none) s

/-- R268. -/
def execVmul (f : V3) (s : State) : Host.Outcome State Fault Refusal :=
  strandStep (.vmul f) (pushV3 (.vmul f) none none none) s

/-- R268. -/
def execVfma (f : V3) (s : State) : Host.Outcome State Fault Refusal :=
  strandStep (.vfma f) (pushV3 (.vfma f) none none none) s

/-- R268. -/
def execVfms (f : V3) (s : State) : Host.Outcome State Fault Refusal :=
  strandStep (.vfms f) (pushV3 (.vfms f) none none none) s

/-- R268. -/
def execVmin (f : V3) (s : State) : Host.Outcome State Fault Refusal :=
  strandStep (.vmin f) (pushV3 (.vmin f) none none none) s

/-- R268. -/
def execVmax (f : V3) (s : State) : Host.Outcome State Fault Refusal :=
  strandStep (.vmax f) (pushV3 (.vmax f) none none none) s

/-- R268. -/
def execVabs (f : V3) (s : State) : Host.Outcome State Fault Refusal :=
  strandStep (.vabs f) (pushV3 (.vabs f) none none none) s

/-- R268. -/
def execVneg (f : V3) (s : State) : Host.Outcome State Fault Refusal :=
  strandStep (.vneg f) (pushV3 (.vneg f) none none none) s

/-- R269. -/
def execVscale (f : V3) (s : State) : Host.Outcome State Fault Refusal :=
  strandStep (.vscale f) (pushV3 (.vscale f) none (some (gField f.vb)) none) s

/-- R270. -/
def execVdot4 (f : V3) (s : State) : Host.Outcome State Fault Refusal :=
  strandStep (.vdot4 f) (pushV3 (.vdot4 f) none none none) s

/-- R271. -/
def execVtacc (f : V3) (s : State) : Host.Outcome State Fault Refusal :=
  strandStep (.vtacc f) (pushV3 (.vtacc f) none none none) s

/-- R272. -/
def execVand (f : V3) (s : State) : Host.Outcome State Fault Refusal :=
  strandStep (.vand f) (pushV3 (.vand f) none none none) s

/-- R272. -/
def execVor (f : V3) (s : State) : Host.Outcome State Fault Refusal :=
  strandStep (.vor f) (pushV3 (.vor f) none none none) s

/-- R272. -/
def execVxor (f : V3) (s : State) : Host.Outcome State Fault Refusal :=
  strandStep (.vxor f) (pushV3 (.vxor f) none none none) s

/-- R272. -/
def execVsll (f : V3) (s : State) : Host.Outcome State Fault Refusal :=
  strandStep (.vsll f) (pushV3 (.vsll f) none none none) s

/-- R272. -/
def execVsrl (f : V3) (s : State) : Host.Outcome State Fault Refusal :=
  strandStep (.vsrl f) (pushV3 (.vsrl f) none none none) s

/-- R272. -/
def execVsra (f : V3) (s : State) : Host.Outcome State Fault Refusal :=
  strandStep (.vsra f) (pushV3 (.vsra f) none none none) s

/-- R273. -/
def execVcmpEq (f : V3) (s : State) : Host.Outcome State Fault Refusal :=
  strandStep (.vcmpEq f) (pushV3 (.vcmpEq f) none none none) s

/-- R273. -/
def execVcmpNe (f : V3) (s : State) : Host.Outcome State Fault Refusal :=
  strandStep (.vcmpNe f) (pushV3 (.vcmpNe f) none none none) s

/-- R273. -/
def execVcmpLt (f : V3) (s : State) : Host.Outcome State Fault Refusal :=
  strandStep (.vcmpLt f) (pushV3 (.vcmpLt f) none none none) s

/-- R273. -/
def execVcmpLe (f : V3) (s : State) : Host.Outcome State Fault Refusal :=
  strandStep (.vcmpLe f) (pushV3 (.vcmpLe f) none none none) s

/-- R273. -/
def execVcmpGt (f : V3) (s : State) : Host.Outcome State Fault Refusal :=
  strandStep (.vcmpGt f) (pushV3 (.vcmpGt f) none none none) s

/-- R273. -/
def execVcmpGe (f : V3) (s : State) : Host.Outcome State Fault Refusal :=
  strandStep (.vcmpGe f) (pushV3 (.vcmpGe f) none none none) s

/-- R273. -/
def execVcmpUnord (f : V3) (s : State) : Host.Outcome State Fault Refusal :=
  strandStep (.vcmpUnord f) (pushV3 (.vcmpUnord f) none none none) s

/-- R274. -/
def execVsel (f : V3) (s : State) : Host.Outcome State Fault Refusal :=
  strandStep (.vsel f) (pushV3 (.vsel f) none none none) s

/-- R275. -/
def execVcvt (src : BitVec 4) (f : V3) (s : State) : Host.Outcome State Fault Refusal :=
  strandStep (.vcvt src f) (pushV3 (.vcvt src f) none none none) s

/-- R276. -/
def execVrcp (f : V3) (s : State) : Host.Outcome State Fault Refusal :=
  strandStep (.vrcp f) (pushV3 (.vrcp f) none none none) s

/-- R276. -/
def execVrsq (f : V3) (s : State) : Host.Outcome State Fault Refusal :=
  strandStep (.vrsq f) (pushV3 (.vrsq f) none none none) s

/-- R276. -/
def execVsqrt (f : V3) (s : State) : Host.Outcome State Fault Refusal :=
  strandStep (.vsqrt f) (pushV3 (.vsqrt f) none none none) s

/-- R276. -/
def execVexp2 (f : V3) (s : State) : Host.Outcome State Fault Refusal :=
  strandStep (.vexp2 f) (pushV3 (.vexp2 f) none none none) s

/-- R276. -/
def execVlog2 (f : V3) (s : State) : Host.Outcome State Fault Refusal :=
  strandStep (.vlog2 f) (pushV3 (.vlog2 f) none none none) s

/-- R277. -/
def execVredSum (dir : BitVec 2) (f : V3) (s : State) : Host.Outcome State Fault Refusal :=
  strandStep (.vredSum dir f) (pushV3 (.vredSum dir f) none none none) s

/-- R277. -/
def execVredMax (dir : BitVec 2) (f : V3) (s : State) : Host.Outcome State Fault Refusal :=
  strandStep (.vredMax dir f) (pushV3 (.vredMax dir f) none none none) s

/-- R277. -/
def execVredMin (dir : BitVec 2) (f : V3) (s : State) : Host.Outcome State Fault Refusal :=
  strandStep (.vredMin dir f) (pushV3 (.vredMin dir f) none none none) s

/-- R277. -/
def execVredSumx (dir : BitVec 2) (f : V3) (s : State) : Host.Outcome State Fault Refusal :=
  strandStep (.vredSumx dir f) (pushV3 (.vredSumx dir f) none none none) s

/-- R278. -/
def execVperm (f : V3) (s : State) : Host.Outcome State Fault Refusal :=
  strandStep (.vperm f) (pushV3 (.vperm f) none none none) s

/-- R278. -/
def execVrot (f : V3) (s : State) : Host.Outcome State Fault Refusal :=
  strandStep (.vrot f) (pushV3 (.vrot f) none (some (gField f.vb)) none) s

/-- R278. -/
def execVxl (f : V3) (s : State) : Host.Outcome State Fault Refusal :=
  strandStep (.vxl f) (pushV3 (.vxl f) none (some (gField f.vb)) none) s

/-- R278. -/
def execVbcast (f : V3) (s : State) : Host.Outcome State Fault Refusal :=
  strandStep (.vbcast f) (pushV3 (.vbcast f) none (some (gField f.vb)) none) s

/-- R279. -/
def execVscan (f : V3) (s : State) : Host.Outcome State Fault Refusal :=
  strandStep (.vscan f) (pushV3 (.vscan f) none none none) s

/-- R280. -/
def execVpack (f : V3) (s : State) : Host.Outcome State Fault Refusal :=
  strandStep (.vpack f) (pushV3 (.vpack f) none none (some (gField f.vb))) s

/-- R280. -/
def execVexpand (f : V3) (s : State) : Host.Outcome State Fault Refusal :=
  strandStep (.vexpand f) (pushV3 (.vexpand f) none none (some (gField f.vb))) s

/-- R281. -/
def execVsparse (g8 : Bool) (kBig : Bool) (f : V3) (s : State) : Host.Outcome State Fault Refusal :=
  strandStep (.vsparse g8 kBig f) (pushV3 (.vsparse g8 kBig f) none none none) s

/-- R282. -/
def execVunpk3 (f : V3) (s : State) : Host.Outcome State Fault Refusal :=
  strandStep (.vunpk3 f) (pushV3 (.vunpk3 f) none none none) s

/-- R283. -/
def execVqb (f : V3) (s : State) : Host.Outcome State Fault Refusal :=
  strandStep (.vqb f) (pushV3 (.vqb f) none none none) s

/-- R283. -/
def execVdqb (f : V3) (s : State) : Host.Outcome State Fault Refusal :=
  strandStep (.vdqb f) (pushV3 (.vdqb f) none none none) s

/-- R284. -/
def execVld (f : VM) (s : State) : Host.Outcome State Fault Refusal :=
  strandStep (.vld f) (pushVM (.vld f) f false) s

/-- R284. -/
def execVst (f : VM) (s : State) : Host.Outcome State Fault Refusal :=
  strandStep (.vst f) (pushVM (.vst f) f false) s

/-- R284. -/
def execVlds (f : VM) (s : State) : Host.Outcome State Fault Refusal :=
  strandStep (.vlds f) (pushVM (.vlds f) f true) s

/-- R284. -/
def execVsts (f : VM) (s : State) : Host.Outcome State Fault Refusal :=
  strandStep (.vsts f) (pushVM (.vsts f) f true) s

/-- R285. -/
def execVgath (f : VM) (s : State) : Host.Outcome State Fault Refusal :=
  strandStep (.vgath f) (pushVM (.vgath f) f false) s

/-- R285. -/
def execVscat (f : VM) (s : State) : Host.Outcome State Fault Refusal :=
  strandStep (.vscat f) (pushVM (.vscat f) f false) s

/-- R287. -/
def execVmov (f : V3) (s : State) : Host.Outcome State Fault Refusal :=
  strandStep (.vmov f) (pushV3 (.vmov f) none none none) s

/-- R287. -/
def execVmvs (f : V3) (s : State) : Host.Outcome State Fault Refusal :=
  strandStep (.vmvs f) (pushV3 (.vmvs f) none (some (gField f.vb)) (some (gField f.vd))) s

/-- R287. -/
def execVmvg (f : V3) (s : State) : Host.Outcome State Fault Refusal :=
  strandStep (.vmvg f) (pushV3 (.vmvg f) (some (gField f.va)) (some (gField f.vb)) none) s

/-- R289. -/
def execMlogAnd (f : V3) (s : State) : Host.Outcome State Fault Refusal :=
  strandStep (.mlogAnd f) (pushV3 (.mlogAnd f) none none none) s

/-- R289. -/
def execMlogOr (f : V3) (s : State) : Host.Outcome State Fault Refusal :=
  strandStep (.mlogOr f) (pushV3 (.mlogOr f) none none none) s

/-- R289. -/
def execMlogXor (f : V3) (s : State) : Host.Outcome State Fault Refusal :=
  strandStep (.mlogXor f) (pushV3 (.mlogXor f) none none none) s

/-- R289. -/
def execMlogAndn (f : V3) (s : State) : Host.Outcome State Fault Refusal :=
  strandStep (.mlogAndn f) (pushV3 (.mlogAndn f) none none none) s

/-- R289. -/
def execMpopc (f : V3) (s : State) : Host.Outcome State Fault Refusal :=
  strandStep (.mpopc f) (pushV3 (.mpopc f) none none (some (gField f.vd))) s

/-- R289. -/
def execMfirst (f : V3) (s : State) : Host.Outcome State Fault Refusal :=
  strandStep (.mfirst f) (pushV3 (.mfirst f) none none (some (gField f.vd))) s

/-- R291. That another strand's POPV meets DET_ILLEGAL (R240) before POISON_ESCAPE of its count is the model's choice (DESIGN
CHOICE, log entry 143). -/
def execPopv (f : V3) (s : State) : Host.Outcome State Fault Refusal :=
  strandStep (.popv f) (do recordPopper (f.va.toNat % 2); pushV3 (.popv f) none (some (gField f.vb)) none) s

/-- R293. -/
def execVnset (f : V3) (s : State) : Host.Outcome State Fault Refusal :=
  strandStep (.vnset f) (pushV3 (.vnset f) (some (gField f.va)) (some (gField f.vb)) none) s

/-- R292. -/
def execVbcastl (f : V3) (lit : BitVec 32) (s : State) : Host.Outcome State Fault Refusal :=
  strandStep (.vbcastl f lit) (pushV3 (.vbcastl f lit) none none none) s

/-- R295. -/
def execVsweep (fn : BitVec 6) (f : VW) (s : State) : Host.Outcome State Fault Refusal :=
  strandStep (.vsweep fn f) (pushV3 (.vsweep fn f) none none none) s

end Sys2Proof.Machine
end

