-- ==== Sys2Proof/Machine/VectorExec.lean ====
section
/-!
DEFINITION. The vector engine at work: VE_EXECUTE and VECTOR_MEMORY_COMPLETE (R249, R254, R260 to R265, R284 to R286,
R291, R293 to R295).
-/
namespace Sys2Proof.Machine

/-! ### Registers -/

/-- Contents of v[n]. -/
def Task.vreg (t : Task) (n : Nat) : Nat := (SMap.get 0 t.vec.v n).toNat

/-- A write of a register ends its uncorrectable error but in the parts that it keeps (R261). -/
def dropBad (bad : SMap Nat) (n keep : Nat) : SMap Nat :=
  match SMap.find n bad with
  | none => bad
  | some b => if b &&& keep = 0 then SMap.del n bad else SMap.put n (b &&& keep) bad

/-- Write v[n], some of whose bytes keep what they held. -/
def Task.setVreg (t : Task) (n v : Nat) (keep : Nat := 0) : Task :=
  { t with vec := { t.vec with v := SMap.set 0 t.vec.v n (BitVec.ofNat 8192 v), bad := dropBad t.vec.bad n keep } }

/-- Bits of m[n]: m0 reads all ones for every element (R59, R62); a mask of 1,024 bits reads clear for an element numbered
above them (log entry 112). -/
def Task.mreg (t : Task) (n : Nat) : Nat := if n = 0 then 2 ^ 8192 - 1 else (SMap.get 0 t.vec.m n).toNat

/-- Write m[n], some of whose bits keep what they held; a write to m0 is discarded. -/
def Task.setMreg (t : Task) (n v : Nat) (keep : Nat := 0) : Task :=
  if n = 0 then t
  else { t with vec := { t.vec with m := SMap.set 0 t.vec.m n (BitVec.ofNat 1024 v), bad := dropBad t.vec.bad (0x200 + n) keep } }

/-! ### Register ownership (R264) -/

/-- Registers a strand reads and writes in one instruction, by designator. -/
structure RegUse where
  reads : List Nat := []
  writes : List Nat := []
deriving Repr, Inhabited

/-- Designator of a mask, none for m0. -/
def maskDes (n : Nat) : List Nat := if n % 16 = 0 then [] else [0x200 + n % 16]

/-- Registers named by a base and every offset of a nest. -/
def nestRegs (base : Nat) (offs : List Int) : List Nat := offs.map (fun o => ((base : Int) + o).toNat)

/-- Every register the instruction of an entry touches (R264). -/
def entryRegs (t : Task) (e : Entry) : RegUse :=
  match e.cmd with
  | .popv f => { writes := [f.vd.toNat] }
  | .vnset f => { writes := [0x210 + f.vd.toNat % 8] }
  | .vld f => { reads := maskDes f.m.toNat, writes := [f.vd.toNat] }
  | .vlds f => { reads := maskDes f.m.toNat, writes := [f.vd.toNat] }
  | .vst f => { reads := f.vd.toNat :: maskDes f.m.toNat }
  | .vsts f => { reads := f.vd.toNat :: maskDes f.m.toNat }
  | .vgath f => { reads := f.disp.toNat % 512 :: maskDes f.m.toNat, writes := [f.vd.toNat] }
  | .vscat f => { reads := f.vd.toNat :: f.disp.toNat % 512 :: maskDes f.m.toNat }
  | .vcmpEq f | .vcmpNe f | .vcmpLt f | .vcmpLe f | .vcmpGt f | .vcmpGe f | .vcmpUnord f =>
    { reads := f.va.toNat :: f.vb.toNat :: maskDes f.m.toNat, writes := maskDes f.vd.toNat }
  | .vperm f => { reads := f.va.toNat :: f.vb.toNat :: maskDes f.m.toNat, writes := [f.vd.toNat] }
  | .vsparse _ _ f => { reads := f.va.toNat :: maskDes f.m.toNat, writes := [f.vd.toNat, f.vd.toNat + 1] }
  | .vunpk3 f => { reads := f.va.toNat :: maskDes f.m.toNat, writes := f.vd.toNat :: maskDes f.vb.toNat }
  | .vmvs f => { reads := f.va.toNat :: maskDes f.m.toNat }
  | .vmvg f => { reads := maskDes f.m.toNat, writes := [f.vd.toNat] }
  | .mlogAnd f | .mlogOr f | .mlogXor f | .mlogAndn f =>
    { reads := maskDes f.va.toNat ++ maskDes f.vb.toNat, writes := maskDes f.vd.toNat }
  | .mpopc f | .mfirst f => { reads := maskDes f.va.toNat }
  | .vbcastl f _ => { reads := maskDes f.m.toNat, writes := [f.vd.toNat] }
  | .vsweep fn f =>
    let touched := fun (b : BitVec 9) (st : BitVec 8) => ((List.range f.count.toNat).flatMap (fun j =>
      [sweepByte b st j / 1024, (sweepByte b st j + 1023) / 1024])).dedup
    { reads := touched f.v.va f.stepa ++ (if fn.toNat ≤ 6 then touched f.v.vb f.stepb else []) ++ maskDes f.v.m.toNat,
      writes := touched f.v.vd f.stepd }
  | i =>
    match vuse i with
    | none => {}
    | some u =>
      let m := maskDes u.f.m.toNat
      match e.cap.nest with
      | none => { reads := u.regs.drop 1 ++ m, writes := u.regs.take 1 }
      | some n =>
        let v := (SMap.get 0 t.vec.n n).toNat
        if nestCount v = 0 then { reads := (0x210 + n) :: m }
        else
          { reads := (0x210 + n) :: m ++ (nestOperands i).flatMap (fun (x, base) =>
              if x = 0 then [] else nestRegs base (nestOffsets v x)),
            writes := nestRegs u.f.vd.toNat (nestOffsets v 0) }

/-- One read of a register by strand `k`. -/
def regRead (k n : Nat) (m : SMap RegRecord) : Except Nat (SMap RegRecord) :=
  let r := (SMap.find n m).getD {}
  match r.writer with
  | some w => if w = k then .ok m else .error n
  | none => .ok (SMap.put n { r with readers := if r.readers.contains k then r.readers else r.readers ++ [k] } m)

/-- One write of a register by strand `k`. -/
def regWrite (k n : Nat) (m : SMap RegRecord) : Except Nat (SMap RegRecord) :=
  let r := (SMap.find n m).getD {}
  match r.writer with
  | some w => if w = k then .ok m else .error n
  | none => if r.readers.all (· == k) then .ok (SMap.put n { r with writer := some k } m) else .error n

/-- The records after an instruction: reads before writes; or the designator of a conflict. -/
def regCheck (k : Nat) (u : RegUse) (m : SMap RegRecord) : Except Nat (SMap RegRecord) := do
  let m1 ← u.reads.foldlM (fun m n => regRead k n m) m
  u.writes.foldlM (fun m n => regWrite k n m) m1

/-- The instruction computes with VD too. -/
def readsDest (i : Instr) : Bool :=
  match i with
  | .vfma _ => true
  | .vfms _ => true
  | .vdot4 _ => true
  | .vtacc _ => true
  | .vsweep fn _ => fn == 3 || fn == 4
  | _ => false

/-- The instruction reads a register that holds an uncorrectable error (R261). -/
def readsBad (t : Task) (e : Entry) : Bool :=
  let u := entryRegs t e
  (u.reads ++ (if readsDest e.cmd then u.writes else [])).any (fun n => (SMap.find n t.vec.bad).isSome)

/-! ### Traps and completion -/

/-- An entry of the VE queue has completed: it leaves the queue, ends every IDLE, and the last REPLAY at its instruction is
over (R179, R243). -/
def dropEntry (s : State) (t serial : Nat) : State :=
  s.modTask t (fun x =>
    let done := (x.queue 0).filter (fun e => e.serial == serial)
    let y := x.setQueue 0 ((x.queue 0).filter (fun e => e.serial != serial))
    Task.wake { y with strands := y.strands.map (fun (k, z) =>
      (k, { z with lastReplay := if done.any (fun e => e.strand == k && (z.lastReplay.map (·.2)) == some e.pc) then none else z.lastReplay })) })

/-- The VE writes a g register of the pushing strand (R259). -/
def giveG (t : Task) (k r : Nat) (v : Word) : Task := t.deliver k r (fun x => x.setG r v)

/-- g destination of an instruction. -/
def gDest (i : Instr) : Option Nat :=
  match i with
  | .vmvs f => some (f.vd.toNat % 64)
  | .mpopc f => some (f.vd.toNat % 64)
  | .mfirst f => some (f.vd.toNat % 64)
  | .vpack f => some (f.vb.toNat % 64)
  | .vexpand f => some (f.vb.toNat % 64)
  | _ => none

/-- Mask destination of an instruction. -/
def maskDest (i : Instr) : Option Nat :=
  match i with
  | .vcmpEq f | .vcmpNe f | .vcmpLt f | .vcmpLe f | .vcmpGt f | .vcmpGe f | .vcmpUnord f => some (f.vd.toNat % 16)
  | .mlogAnd f | .mlogOr f | .mlogXor f | .mlogAndn f => some (f.vd.toNat % 16)
  | .vunpk3 f => some (f.vb.toNat % 16)
  | _ => none

/-! ### Instructions that compute -/

/-- The V3 fields of an instruction and LIT. -/
def v3Of (i : Instr) : V3 × Nat :=
  match i with
  | .vbcastl f lit => (f, lit.toNat)
  | .vsweep _ f => (f.v, 0)
  | i => (((vuse i).map (·.f)).getD {}, 0)

/-- The context an entry computes in, its mask read now. -/
def entryCtx (t : Task) (e : Entry) : VCtx :=
  let (f, _) := v3Of e.cmd
  let tab := fun (own : Nat) (lo n : Nat) => match e.cap.ft with
    | some w => bitsOf w.toNat lo n
    | none => own
  { et := tab f.et.toNat 4 4, rm := tab f.rm.toNat 12 3, sat := tab f.sat.toNat 15 1 == 1,
    anch := match e.cap.ft with
      | some w => anchorOf (BitVec.ofNat 8 (bitsOf w.toNat 16 8))
      | none => anchorOf e.cap.anchor,
    z := f.z, x := f.x, mask := t.mreg f.m.toNat,
    rows := bitsOf e.cap.vsh.toNat 0 5, rb := bitsOf e.cap.vsh.toNat 8 11, fall := e.cap.vctl.getLsbD 0,
    srseed := e.cap.srseed, phase := e.cap.phase, lcore := t.lcore, strand := e.strand, seq := e.cap.seq }

/-- A window of the register file as one byte array (R295). -/
def window (t : Task) (byte : Nat) : Nat :=
  let n := byte / 1024
  let o := byte % 1024
  (t.vreg n / 2 ^ (8 * o) + t.vreg (n + 1) * 2 ^ (8 * (1024 - o))) % 2 ^ 8192

/-- Write the low `len` bytes of a window, some of which keep what they held. -/
def setWindow (t : Task) (byte len v : Nat) (keep : Nat := 0) : Task :=
  let n := byte / 1024
  let o := byte % 1024
  let both := t.vreg n + t.vreg (n + 1) * 2 ^ 8192
  let old := bitsOf both (8 * o) (8 * len)
  let new := both - old * 2 ^ (8 * o) + v % 2 ^ (8 * len) * 2 ^ (8 * o)
  let kept := 2 ^ 2048 - 1 - (2 ^ len - 1) * 2 ^ o + keep % 2 ^ len * 2 ^ o
  let t1 := t.setVreg n (new % 2 ^ 8192) (kept % 2 ^ 1024)
  if 1024 < o + len then t1.setVreg (n + 1) (new / 2 ^ 8192) (kept / 2 ^ 1024) else t1

/-- Where an iteration's operands lie. -/
inductive Operands where
  /-- registers VD, VA, VB -/
  | regs (d a b : Nat)
  /-- first bytes of windows VD, VA, VB -/
  | windows (d a b : Nat)
deriving Repr, Inhabited

/-- Operands of iteration j. -/
def iterOperands (t : Task) (e : Entry) (j : Nat) : Operands :=
  let (f, _) := v3Of e.cmd
  match e.cmd with
  | .vsweep _ w => .windows (sweepByte w.v.vd w.stepd j) (sweepByte w.v.va w.stepa j) (sweepByte w.v.vb w.stepb j)
  | _ =>
    match e.cap.nest with
    | none => .regs f.vd.toNat f.va.toNat f.vb.toNat
    | some n =>
      let v := (SMap.get 0 t.vec.n n).toNat
      let at_ := fun (base x : Nat) => ((base : Int) + nestOffset v j x).toNat
      .regs (at_ f.vd.toNat 0) (at_ f.va.toNat 1) (at_ f.vb.toNat 2)

/-- Number of iterations of an entry. -/
def iterCount (t : Task) (e : Entry) : Nat :=
  match e.cmd with
  | .vsweep _ w => w.count.toNat
  | _ =>
    match e.cap.nest with
    | none => 1
    | some n => nestCount (SMap.get 0 t.vec.n n).toNat

/-- Element numbers that raised a flag, lowest first. -/
def firstFlag (flags : List Nat) (bit : Nat) : Option Nat := flags.findIdx? (fun x => bitOf x bit)

/-- One iteration: the task after it, with its results and flags, or its trap. -/
def iterate (t : Task) (e : Entry) (j : Nat) : Except Trap Task :=
  let c := entryCtx t e
  let (f, lit) := v3Of e.cmd
  let ops := iterOperands t e j
  let v : VIn := match ops with
    | .regs d a b => { d := t.vreg d, a := t.vreg a, b := t.vreg b, ga := e.cap.a, gb := e.cap.b,
                       md := t.mreg (f.vd.toNat % 16), ma := t.mreg (f.va.toNat % 16), mb := t.mreg (f.vb.toNat % 16),
                       lit := lit }
    | .windows d a b => { d := window t d, a := window t a, b := window t b, lit := lit }
  match vCompute e.cmd c v with
  | .error tr => .error tr
  | .ok o =>
    match enabledTrap (e.cap.vctl.getLsbD 1) (e.cap.vctl.getLsbD 2) (firstFlag o.flags 0) (firstFlag o.flags 5) with
    | some tr => .error tr
    | none =>
      let t1 := match o.vd, ops with
        | some x, .regs d _ _ => t.setVreg d x o.keep
        | some x, .windows d _ _ => setWindow t d (c.rows * c.rb) x o.keep
        | none, _ => t
      let t2 := match o.vd1, ops with
        | some x, .regs d _ _ => t1.setVreg (d + 1) x
        | _, _ => t1
      let t3 := match o.mask, maskDest e.cmd with
        | some x, some n => t2.setMreg n x o.keepMask
        | _, _ => t2
      let t4 := match o.g, gDest e.cmd with
        | some x, some r => giveG t3 e.strand r x
        | _, _ => t3
      let fl := o.flags.foldl (fun a x => a ||| x) 0
      .ok (if fl = 0 then t4 else raiseFlags t4 e.strand .vstat fl)

/-- Iterations from j on, `n` of them: the task after the last that completed, and a trap with its iteration. -/
def iterations (e : Entry) : Nat → Nat → Task → Task × Option (Trap × Nat)
  | 0, _, t => (t, none)
  | n + 1, j, t =>
    match iterate t e j with
    | .error tr => (t, some (tr, j))
    | .ok t' => iterations e n (j + 1) t'

/-- Run a computing entry whole. -/
def runVector (s : State) (t : Nat) (e : Entry) : State :=
  let x := s.task t
  let from_ := e.progress
  let (x', r) := iterations e (iterCount x e - from_) from_ x
  let s1 := s.modTask t (fun _ => x')
  match r with
  | some (tr, k) => vectorTrap s1 t e tr (if e.cap.nest.isSome then k else match e.cmd with
      | .vsweep _ _ => k
      | _ => 0)
  | none => dropEntry s1 t e.serial

/-! ### Vector memory (R284 to R286) -/

/-- Fields of a VM instruction and whether it strides, gathers and stores. -/
def vmOf (i : Instr) : Option (VM × Bool × Bool × Bool) :=
  match i with
  | .vld f => some (f, false, false, false)
  | .vst f => some (f, false, false, true)
  | .vlds f => some (f, true, false, false)
  | .vsts f => some (f, true, false, true)
  | .vgath f => some (f, false, true, false)
  | .vscat f => some (f, false, true, true)
  | _ => none

/-- The active pieces of a vector access, rising by element; a block is active when any of its elements is. -/
def vectorPieces (t : Task) (e : Entry) (f : VM) (stride gather : Bool) : List VPiece :=
  let et := f.et.toNat
  let rows := bitsOf e.cap.vsh.toNat 0 5
  let rb := bitsOf e.cap.vsh.toNat 8 11
  let size := elemSize et
  let per := rb / size
  let l := if isBlock et then blockElems et else 1
  let mask := t.mreg f.m.toNat
  let base := if gather then e.cap.a else e.cap.a + f.disp.signExtend 64 * 64
  (List.range (rows * per)).filterMap (fun q =>
    let active := (List.range l).any (fun k => bitOf mask (q * l + k))
    if !active then none
    else
      let off := q * size
      let va :=
        if gather then
          base + wordOfInt (intOf 3 (elem 3 (t.vreg (f.disp.toNat % 512)) q) * (size : Int))
        else if stride then base + w64 (q / per) * e.cap.b + w64 (q % per * size)
        else base + w64 off
      some { e := q * l, va, off, size })

/-- Pieces with the own peer window folded (R102). -/
def foldPieces (s : State) (t : Nat) (ps : List VPiece) : List VPiece := ps.map (fun p => { p with va := foldVa s t p.va })

/-- A misaligned base or stride (R284). -/
def vectorMisaligned (e : Entry) (f : VM) (stride gather : Bool) : Bool :=
  let a := if isBlock f.et.toNat then 1 else typeBytes f.et.toNat
  let base := if gather then e.cap.a else e.cap.a + f.disp.signExtend 64 * 64
  base.toNat % a ≠ 0 || (stride && e.cap.b.toNat % a ≠ 0)

/-- An aligned 8-byte word of a vector access: its address, its place, and for a store the bytes written. -/
structure VWord where
  va : Word
  place : Place
  bytes : List (Option Byte) := []
deriving Repr, Inhabited

/-- The last byte of a piece lies in another page or window unit than the first. -/
def crosses (p : VPiece) : Bool := p.va.toNat / 2 ^ 17 != (p.va + w64 (p.size - 1)).toNat / 2 ^ 17

/-- Every piece is checked and translated before any performs. -/
def vectorPlaces (s : State) (t : Nat) (e : Entry) (cls : Nat) (store : Bool) : List VPiece → Except Stop Unit
  | [] => .ok ()
  | p :: r => do
    let need : Need := if store then .write else .read
    let far := crosses p
    let n := if far then 1 else p.size
    let _ ← checkPlaceFor s t e.cap.her e.walkFault { va := p.va, size := n, cls, need, op := .load }
    if far then do
      let _ ← checkPlaceFor s t e.cap.her e.walkFault { va := p.va + w64 (p.size - 1), size := 1, cls, need, op := .load }
      vectorPlaces s t e cls store r
    else vectorPlaces s t e cls store r

/-- Byte k of an element lies above the 80 bits of an A80: ignored on input and written as zero (R31). -/
def padByte (et k : Nat) : Bool := et == 9 && decide (10 ≤ k)

/-- The bytes a store writes, by address; the highest-numbered element wins. -/
def storeBytes (et reg : Nat) (ps : List VPiece) : SMap Byte :=
  ps.foldl (fun m p => (List.range p.size).foldl (fun m k =>
    SMap.put (p.va + w64 k).toNat (if padByte et k then 0 else BitVec.ofNat 8 (bitsOf reg (8 * (p.off + k)) 8)) m) m) []

/-- Addresses of the words the pieces touch, rising. -/
def wordAddrs (ps : List VPiece) : List Nat :=
  let m : SMap Unit := ps.foldl (fun m p => (List.range p.size).foldl (fun m k =>
    SMap.put ((p.va + w64 k).toNat / 8) () m) m) []
  m.map (fun x => 8 * x.1)

/-- The access of a word. -/
def wordAcc (s : State) (t : Nat) (e : Entry) (cls : Nat) (p : Place) (va : Word) (op : AccOp) : Acc :=
  let l := s.launchOf t
  { who := { task := t, strand := e.strand, queue := some 0, pc := e.pc, quiet := p.home == .spad t && isHeritage p.addr },
    home := p.home, addr := p.addr, va := foldVa s t va, size := 8, cls, op,
    tso := p.tso, log := p.log, detTag := if l.det && p.tag == l.ownerTag then p.tag else 0, exec := p.exec }

/-- The accesses of a vector instruction of folded pieces, one a word, in ascending address order. -/
def vectorAccs (s : State) (t : Nat) (e : Entry) (f : VM) (store : Bool) (ps : List VPiece) : Except Stop (List Acc) :=
  let bs := if store then storeBytes f.et.toNat ((s.task t).vreg f.vd.toNat) ps else []
  (wordAddrs ps).mapM (fun a => do
    let need : Need := if store then .write else .read
    let p ← checkPlaceFor s t e.cap.her e.walkFault { va := w64 a, size := 1, cls := f.oc.toNat, need, op := .load }
    let op : AccOp := if store then .store ((List.range 8).map (fun k => SMap.find (a + k) bs)) else .load
    pure (wordAcc s t e f.oc.toNat p (w64 a) op))

/-- Bytes of the register that a load leaves to its inactive elements. -/
def loadKept (e : Entry) (ps : List VPiece) : Nat :=
  let len := bitsOf e.cap.vsh.toNat 0 5 * bitsOf e.cap.vsh.toNat 8 11
  ps.foldl (fun b p => b - (b &&& ((2 ^ p.size - 1) * 2 ^ p.off))) (2 ^ len - 1)

/-- Bytes a load's words brought, into its register: inactive elements keep, bytes outside the shape become 0. -/
def loadRegister (t : Task) (e : Entry) (f : VM) (ps : List VPiece) (got : SMap Byte) : Nat :=
  let len := bitsOf e.cap.vsh.toNat 0 5 * bitsOf e.cap.vsh.toNat 8 11
  let old := t.vreg f.vd.toNat % 2 ^ (8 * len)
  let m : SMap Byte := ps.foldl (fun m p => (List.range p.size).foldl (fun m k =>
    SMap.put (p.off + k) (if padByte f.et.toNat k then 0 else SMap.get 0 got (p.va + w64 k).toNat) m) m) []
  packBits 8 ((List.range len).map (fun i =>
    match SMap.find i m with
    | some b => b.toNat
    | none => bitsOf old (8 * i) 8))

/-- Perform own-scratchpad words: the state after them and the bytes read. -/
def performWords : State → List Acc → SMap Byte → Except Stop (State × SMap Byte)
  | s, [], got => .ok (s, got)
  | s, a :: r, got =>
    match performAt s a with
    | .held => .error (.wait { kind := 7, object := a.va.toNat % 2 ^ 48 })
    | .trap _ tr => .error (if tr.cause = 23 then .logFull a else .trap tr)
    | .ok s' y =>
      let got' := match y with
        | .data v => (bytesOf v 8).zipIdx.foldl (fun m (b, k) => SMap.put (a.va + w64 k).toNat b m) got
        | _ => got
      performWords s' r got'

/-- Send words to other homes: the state and the identities of the requests. -/
def sendWords (t : Nat) : State → List Acc → State × List Nat
  | s, [] => (s, [])
  | s, a :: r =>
    let id := s.nextMsg
    let s1 := sendReq s a (.acc a.who id) (dieStation (s.task t).die) (taskSource s t)
    let (s2, ids) := sendWords t s1 r
    (s2, id :: ids)

/-- Loads of the queue that have not written their registers. -/
def loadsPending (t : Task) : List Entry := (t.queue 0).filter (fun e => e.started && isVecLoad e.cmd)

/-- Reply buffers of the VE in use: each is held until the last reply of its load (R286). -/
def loadBuffers (t : Task) : Nat :=
  ((loadsPending t).filter (fun e => !(e.pending.isEmpty && e.rest.isEmpty))).length

/-- Entries started and not complete, before an entry. -/
def startedBefore (t : Task) (e : Entry) : List Entry := (t.queue 0).filter (fun o => o.started && o.serial < e.serial)

/-- Does order or a full set of reply buffers hold back a vector access (R107 to R110, R120, R123, R136, R286)? -/
def vectorHeld (s : State) (t : Nat) (e : Entry) (accs : List Acc) : Bool :=
  let x := s.task t
  let st := x.strand e.strand
  let cls := (entryClass e).getD 0
  let mine := (startedBefore x e).filter (fun o => o.strand == e.strand)
  forkHeld s t e.strand || (st.outs.filter (fun o => e.cap.after.contains o.id)).any (fun o =>
      o.acc.cls == 15 || cls == 15 || accs.any (fun a => mustFollow s t o a false))
    || mine.any (fun o => (entryClass o).any (fun c => c == 15 || cls == 15 || c == cls) || (cls == 15 && isPopv o.cmd)
        || accs.any (fun a => a.tso || o.reissued.any (fun r => r.2 == a.home)))
    || st.fences.any (fun g => g.mask.getLsbD cls && fenceOpen x st g && accs.any (fun a => inScope s t g.scope a.home))
    || (isVecLoad e.cmd && accs.any (fun a => a.home != .spad t) && decide (16 ≤ loadBuffers x))

/-- Change an entry of the VE queue. -/
def modEntry (s : State) (t serial : Nat) (f : Entry → Entry) : State :=
  s.modTask t (fun x => x.setQueue 0 ((x.queue 0).map (fun e => if e.serial = serial then f e else e)))

/-- A vector load has met a fault: its trap; in a frozen schedule a secondary fault, kept in the VE part (R175, R181). -/
def vectorFault (s : State) (t : Nat) (e : Entry) (tr : Trap) : State :=
  if (s.task t).killed then dropEntry s t e.serial
  else if (s.task t).freeze.isSome then
    let s1 := modEntry s t e.serial (fun e => { e with
      started := false, inbox := [], pending := [], rest := [], homes := [], reissued := [], pieces := [], fault := some tr })
    let s1 := match e.cap.before with
      | some p => s1.modStrand t e.strand (fun z => { z with alias_ := if e.started then p.alias_ else z.alias_ })
      | none => s1
    writeSlot s1 t 64 (enginePart (s1.task t) 0 true)
  else vectorTrap s t { e with fault := none } tr 0

/-- The register records of a deterministic launch after an entry has reached its fault point, or the designator of a
register at which it meets another strand's (R264). -/
def noteRegs (s : State) (t : Nat) (e : Entry) : Except Nat State :=
  let x := s.task t
  if (s.launchOf t).det && !e.cap.her then do
    let regs ← regCheck e.strand (entryRegs x e) x.recs.regs
    pure (s.modTask t (fun y => { y with recs := { y.recs with regs := regs } }))
  else .ok s

/-- PHASE_CONFLICT of a register (R264). -/
def regConflict (n : Nat) : Trap := { cause := 13, tval := w64 n, res := true }

/-- A load before the entry is short of its fault point and comes first: one of the strand, whose trap would leave the entry
without effect, and in a deterministic launch any, as register records come in queue order (R260, R264). -/
def behindLoad (s : State) (t : Nat) (e : Entry) : Bool :=
  (loadsPending (s.task t)).any (fun o => decide (o.serial < e.serial) && (o.strand == e.strand || (s.launchOf t).det))

/-- A trap at the start of an entry, once the loads before it that come first have passed their fault points (R260). -/
def startTrap (s : State) (t : Nat) (e : Entry) (tr : Trap) (k : Nat) : State :=
  if behindLoad s t e then s else vectorTrap s t e tr k

/-- A vector memory entry whose replies are all in: a load passes its fault point and writes its register (R260, R264,
R286). -/
def finishVectorMemory (s : State) (t : Nat) (e : Entry) : State :=
  match e.fault with
  | some tr => vectorFault s t e tr
  | none =>
    match vmOf e.cmd with
    | none => s
    | some (f, _, _, store) =>
      if store then dropEntry s t e.serial
      else
        match noteRegs s t e with
        | .error n => vectorFault s t e (regConflict n)
        | .ok s1 =>
          dropEntry (s1.modTask t (fun y =>
            y.setVreg f.vd.toNat (loadRegister y e f e.pieces e.inbox) (loadKept e e.pieces))) t e.serial

/-- An entry of the VE queue waits for a walk (R189). -/
def vectorWalk (s : State) (t : Nat) (e : Entry) (fn page : Nat) : State :=
  addWalk (modEntry s t e.serial (fun e => { e with wait := some { kind := 0 } })) (s.task t).die fn page (taskSource s t)
    (.queue t 0)

/-- The alias window meets a vector access of a deterministic launch: the strand's window after it, a clash, or a drain
to wait for (R112). -/
def vectorAlias (s : State) (t : Nat) (e : Entry) (ps : List VPiece) (cls : Nat) (store : Bool) : AliasAnswer :=
  let x := s.task t
  let st := x.strand e.strand
  let idle := st.outs.all (fun o => !e.cap.after.contains o.id)
    && (startedBefore x e).all (fun o => o.strand != e.strand || (entryClass o).isNone)
  aliasStep st.alias_ (ps.map (fun p => (p.va.toNat, p.size))) cls store idle

/-- An entry of the VE queue waits on object `n` under a hang kind (R185). -/
def entryWait (s : State) (t : Nat) (e : Entry) (kind n : Nat) : State :=
  modEntry s t e.serial (fun e => { e with wait := some (match e.wait with
    | some w => if w.kind = kind ∧ w.object = n then w else { kind := kind, object := n, since := s.clock }
    | none => { kind := kind, object := n, since := s.clock }) })

/-- The first byte at which a vector access of a deterministic launch meets the footprint of a copy or gather command of its
strand (R361). -/
def entryFoot (s : State) (t : Nat) (e : Entry) (ps : List VPiece) : Option Nat :=
  if (s.launchOf t).det then
    footHit (footEntries (s.task t) e.strand) (ps.map (fun p => (p.va.toNat, p.size))) (!(isVecLoad e.cmd))
  else none

/-- The entry as it stands when its accesses go out: `ids` are those sent, `rest` those on TSO pages still to send. A trap
of it gives the strand its alias window back (R260). -/
def startedEntry (s : State) (t : Nat) (e : Entry) (ps : List VPiece) (ids : List Nat) (got : SMap Byte) (out rest : List Acc)
    (tso : Bool) : Entry :=
  { e with
    started := true, wait := none, walkFault := none, pending := ids, inbox := got, rest, tso,
    homes := (out.map (·.home)).dedup, pieces := if isVecLoad e.cmd then ps else [],
    cap := { e.cap with before := e.cap.before.map (fun p => { p with alias_ := ((s.task t).strand e.strand).alias_ }) } }

/-- The accesses go out: own words perform now, but those the run keeps on their way; of an instruction on TSO pages one
word at a time, in address order (R107, R108, R136, R263). -/
def launchWords (s : State) (t : Nat) (e : Entry) (ps : List VPiece) (accs : List Acc) (w : List AliasEntry) : State :=
  let now := fun (a : Acc) => a.home == .spad t && !(s.sel.lazy && !(s.launchOf t).det)
  match performWords s (accs.filter now) [] with
  | .error (.wait w) => entryWait s t e w.kind w.object
  | .error (.logFull a) => if behindLoad s t e then s else vectorTrap (logFull s a) t e { cause := 23, tval := a.va } 0
  | .error (.trap tr) => startTrap s t e tr 0
  | .error _ => s
  | .ok (s1, got) =>
    let out := accs.filter (fun a => !now a)
    let tso := out.any (·.tso)
    let first := if tso then out.take 1 else out
    let (s2, ids) := sendWords t s1 first
    let s3 := s2.modStrand t e.strand (fun z => { z with alias_ := w })
    let e' := startedEntry s t e ps ids got out (out.drop first.length) tso
    let s4 := modEntry (if isVecLoad e.cmd then s3 else (noteRegs s3 t e).toOption.getD s3) t e.serial (fun _ => e')
    if ids.isEmpty && !(isVecLoad e.cmd && behindLoad s4 t e) then finishVectorMemory s4 t e' else s4

/-- Start a vector memory entry: every check, then its accesses. -/
def startVectorMemory (s : State) (t : Nat) (e : Entry) : State :=
  match vmOf e.cmd with
  | none => s
  | some (f, stride, gather, store) =>
    let x := s.task t
    let l := s.launchOf t
    let cls := f.oc.toNat
    let ps := vectorPieces x e f stride gather
    let first := ((ps.head?).map (·.va)).getD 0
    if ps.isEmpty then
      if vectorHeld s t e [] then s
      else
        let s1 := if cls = 15 then s.modStrand t e.strand (fun z => { z with alias_ := [] }) else s
        dropEntry ((noteRegs s1 t e).toOption.getD s1) t e.serial
    else if vectorMisaligned e f stride gather then startTrap s t e { cause := 6, tval := first } 0
    else
      match vectorPlaces s t e cls store ps with
      | .error (.walk fn page) => vectorWalk s t e fn page
      | .error (.trap tr) => startTrap s t e tr 0
      | .error _ => s
      | .ok _ =>
        let fs := foldPieces s t ps
        match vectorAccs s t e f store fs with
        | .error _ => s
        | .ok accs =>
          match entryFoot s t e fs with
          | some b => entryWait s t e 11 (b % 2 ^ 48)
          | none =>
          if vectorHeld s t e accs then modEntry s t e.serial (fun e => { e with wait := none })
          else
            let a := if l.det && !(accs.all (·.who.quiet)) then vectorAlias s t e fs cls store
              else .window (x.strand e.strand).alias_
            match a with
            | .clash => startTrap s t e { cause := 12, tval := first } 0
            | .drain => s
            | .window w => launchWords s t e fs accs w

/-! ### POPV (R291) -/

/-- A strand's POP waits for the FIFO and goes first (R291). -/
def popFirst (s : State) (t q : Nat) : Bool := strandFirst s t 8 4 q

/-- POPV at the queue head takes what has arrived, and completes with the last element. The wait for its elements is one
wait, from its first on, for the stall time-out and the hang record (DESIGN CHOICE, log entry 142). -/
def runPopv (s : State) (t : Nat) (e : Entry) (f : V3) : State :=
  let x := s.task t
  let n := e.cap.b.toNat
  let q := f.va.toNat % 2
  let l := x.fifo q
  let take := if popFirst s t q then 0 else min l.length (n - e.progress)
  let work := (l.take take).zipIdx.foldl (fun m (v, k) => SMap.put (e.progress + k) v.toNat m) e.work
  let s1 := s.modTask t (fun x => x.setFifo q (l.drop take))
  if e.progress + take = n then
    let s2 := if n = 0 then s1
      else s1.modTask t (fun x => x.setVreg f.vd.toNat (packBits 64 ((List.range n).map (fun j => SMap.get 0 work j))))
    dropEntry s2 t e.serial
  else
    modEntry s1 t e.serial (fun e => { e with
      tookWt := true, progress := e.progress + take, work := work,
      wait := some (match e.wait with
        | some w => { w with kind := 4, object := q }
        | none => { kind := 4, object := q, since := s.clock }) })

/-! ### The steps -/

/-- May an engine of the task start a command (R163, R175)? -/
def mayStart (t : Task) : Bool := t.core?.isSome && t.leaving.isNone && t.freeze.isNone && !t.ended

/-- An instruction that reads no vector, mask or nest register may start while loads before it are pending (R249). -/
def readsNothing (e : Entry) (f : VM) (pending : List Entry) : Bool :=
  (match e.cmd with
    | .vld _ => true
    | .vlds _ => true
    | _ => false) && f.m == 0 && pending.all (fun o => match vmOf o.cmd with
      | some (g, _, _, _) => g.vd != f.vd
      | none => true)

/-- The entry the VE starts next: the first that has not started, once what it reads has been written. -/
def nextVector (t : Task) : Option Entry :=
  match (t.queue 0).find? (fun e => !e.started) with
  | none => none
  | some e =>
    let pend := loadsPending t
    let ok := pend.isEmpty || (match vmOf e.cmd with
      | some (f, _, _, _) => readsNothing e f pend
      | none => false)
    if ok then some e else none

/-- R265: the vector engine starts its next instruction and computes its results and flags. -/
def execVeExecute (s : State) : Host.Outcome State Fault Refusal :=
  let t := s.sel.task
  let x := s.task t
  if !s.hasTask t || !mayStart x then .next s
  else
    match nextVector x with
    | none => .next s
    | some e =>
      let det := (s.launchOf t).det
      let seen := match e.cmd with
        | .popv _ => e.tookWt || e.cap.b == 0
        | _ => false
      match (if det && !e.cap.her && !seen then regCheck e.strand (entryRegs x e) x.recs.regs else .ok x.recs.regs) with
      | .error n => .next (startTrap s t e (regConflict n) e.progress)
      | .ok regs =>
        let s1 := s.modTask t (fun y => { y with recs := { y.recs with regs := regs } })
        if readsBad x e then .next (startTrap s t e { cause := 19 } e.progress)
        else
        match e.cmd with
        | .popv f => .next (runPopv s1 t e f)
        | .vnset f =>
          let n := f.vd.toNat % 8
          let s2 := s1.modTask t (fun y => { y with vec := { y.vec with
            n := SMap.set 0 y.vec.n n (BitVec.ofNat 256 (nestSet (SMap.get 0 y.vec.n n).toNat e.cap.a.toNat e.cap.b.toNat)),
            bad := dropBad y.vec.bad (0x210 + n)
              (if e.cap.b = 5 then 0 else 2 ^ 256 - 1 - fieldSet 48 [e.cap.b.toNat]) } })
          .next (dropEntry s2 t e.serial)
        | i =>
          if (vmOf i).isSome then .next (startVectorMemory s t e)
          else
            let r := runVector s1 t e
            .next (if (s1.task t).freeze != (r.task t).freeze then
                r.modTask t (fun y => { y with recs := { y.recs with regs := x.recs.regs } })
              else r)

/-- R286: a vector load or store to other homes completes with its last reply or acknowledgement, a load behind those that
come first (R260, R264); one on TSO pages goes on with its next word first. -/
def execVectorMemoryComplete (s : State) : Host.Outcome State Fault Refusal :=
  let t := s.sel.task
  match ((s.task t).queue 0).find? (fun e => e.started && e.pending.isEmpty && (vmOf e.cmd).isSome
      && !(e.rest.isEmpty && isVecLoad e.cmd && behindLoad s t e)) with
  | none => .next s
  | some e =>
    if !s.hasTask t then .next s
    else
      match e.fault, e.rest with
      | none, a :: r =>
        let (s1, ids) := sendWords t s [a]
        .next (modEntry s1 t e.serial (fun e => { e with pending := ids, rest := r }))
      | _, _ => .next (finishVectorMemory s t e)

end Sys2Proof.Machine
end

