-- ==== Sys2Proof/Machine/Engine.lean ====
section
/-!
DEFINITION. What the command engines share: the head of a queue and its waits, WT and E, signals and completion, faults,
and accesses an engine makes for a command (R16 to R18, R65, R115, R126, R163, R173 to R176, R185, R315, R320, R340).
-/
namespace Sys2Proof.Machine

/-! ### Semaphore fields of a command -/

/-- WS, WT, SS and SI of a command (R65). -/
structure Link where
  ws : Nat := 0
  wt : Nat := 0
  ss : Nat := 0
  si : Nat := 0
deriving DecidableEq, Repr, Inhabited

def ecLink (f : EC) : Link := { ws := f.ws.toNat, wt := f.wt.toNat, ss := f.ss.toNat, si := f.si.toNat }

def exLink (f : EX) : Link := { ws := f.ws.toNat, wt := f.wt.toNat, ss := f.ss.toNat, si := f.si.toNat }

/-- The semaphore fields of an engine command. -/
def linkOf (i : Instr) : Link :=
  match i with
  | .mclaim f | .mrel f | .mstat f | .mzero f => ecLink f
  | .mgo _ f | .mtile _ f | .mdrain _ f | .mldacc _ f | .mspgo _ f => ecLink f
  | .cpy _ f | .cpy2d _ f | .flush _ f | .grow _ f | .gscat _ f => ecLink f
  | .cpyslot f | .cpyslotClaim f | .cpyslotOut f | .fill f => ecLink f
  | .gbag _ _ f => ecLink f
  | .xstep f | .xsend f | .xrecv f | .xred f => exLink f
  | _ => {}

/-! ### The head of a queue -/

/-- The head waits for something; a wait that goes on keeps its beginning (R185). -/
def headWait (s : State) (t q : Nat) (w : Wait) : State :=
  s.modTask t (fun x => x.modHead q (fun e => { e with
    wait := some { w with since := match e.wait with
      | some o => if o.kind = w.kind ∧ o.object = w.object then o.since else s.clock
      | none => s.clock } }))

/-- The slot a command claims, where the command claims one (R300). -/
def claimOf (i : Instr) : Option Nat :=
  match i with
  | .mclaim f => some (f.a.toNat % 32)
  | .mspgo _ f => some (f.b.toNat % 32)
  | .cpyslotClaim f => some (f.a.toNat % 32)
  | _ => none

/-- The queue a claim counts as for R300: an MSPGO's is the gather engine's. -/
def claimRank (q : Nat) (i : Instr) : Nat :=
  match i with
  | .mspgo _ _ => 7
  | _ => q

/-- A command may claim a slot: it is EMPTY, no staged routine works in it, and no claim of a lower queue waits for it
(R300). -/
def mayClaim (t : Task) (q : Nat) (e : Entry) (n : Nat) : Bool :=
  (t.slot n).state == 0 && !stagedSlot t n &&
    !(List.range 9).any (fun p => match t.queue p with
      | o :: _ => o.serial != e.serial && claimOf o.cmd == some n && !o.started && o.wait.any (fun w => w.kind == 5 && w.object == n)
          && decide (claimRank p o.cmd < claimRank q e.cmd)
      | [] => false)

/-- Change the head. -/
def onHead (s : State) (t q : Nat) (f : Entry → Entry) : State := s.modTask t (fun x => x.modHead q f)

/-- The head leaves its queue. -/
def popHead (s : State) (t q : Nat) : State := s.modTask t (fun x => x.setQueue q ((x.queue q).drop 1))

/-- An engine of a deterministic launch has absorbed a data error (R156). -/
def absorbError (s : State) (t : Nat) : State :=
  s.modLaunch (s.task t).launch (fun l => { l with dataErr := l.dataErr || l.det })

/-- What step 8 of the frame does (R320, R340): wait, complete at once under E, or go on. -/
inductive WtAnswer where
  | wait
  | skip
  | go
deriving DecidableEq, Repr, Inhabited

/-- WT is taken once: when COUNT(WS) reaches it and no lower queue's head may take it first (R17); E of WS then ends the
command. -/
def takeWt (s : State) (t q : Nat) (e : Entry) : State × WtAnswer :=
  let l := linkOf e.cmd
  if e.tookWt || l.wt = 0 then (onHead s t q (fun e => { e with tookWt := true }), .go)
  else
    let x := (s.task t).sem l.ws
    if x.count < l.wt || headFirst (s.task t) (min q 9) l.ws then (headWait s t q { kind := 2, object := l.ws, amount := l.wt }, .wait)
    else
      let s1 := s.modTask t (fun y => y.setSem l.ws { x with count := x.count - l.wt })
      (onHead s1 t q (fun e => { e with tookWt := true, wait := none, skip := x.e }), if x.e then .skip else .go)

/-- SI is added to SS, with E where the command met an error or passes one on; completion ends every IDLE (R18, R243). -/
def signalLocal (s : State) (t : Nat) (l : Link) (e : Bool) : State :=
  if l.si = 0 then s.modTask t (fun x => x.wake) else signalSem s t l.ss l.si e

/-- The head completes: signal, and out of the queue. -/
def finishHead (s : State) (t q : Nat) (e : Entry) (err : Bool) : State :=
  signalLocal (popHead s t q) t (linkOf e.cmd) err

/-! ### Faults -/

/-- The head faults with the progress RESUME shows; `held` when only its signal is missing (R313). In a killed task it is
over (R181). A fault that a command meets in its heritage routine (number 16 + k) is the strand's, in heritage state (R190). -/
def faultHead (s : State) (t q : Nat) (tr : Trap) (progress : Nat) (held : Bool) : State :=
  if 16 ≤ q then
    takeTrap s t (q - 16) none tr (s.strand t (q - 16)).r.pc 1
  else if (s.task t).killed then popHead s t q
  else
    let s1 := onHead s t q (fun e => { e with started := true, progress := progress, held := held, wait := none,
                                              walkFault := none })
    let s2 := engineFault s1 t q tr
    if (s2.task t).killed then popHead s2 t q else onHead s2 t q (fun e => { e with started := false })

/-- A parity failure in the control of an engine: ENGINE_FAULT with TVAL 0 at the head of its queue (R172). -/
def parityFault (s : State) (t q : Nat) : State :=
  match (s.task t).queue q with
  | [] => s
  | e :: _ =>
    let tr : Trap := { cause := 18 }
    if q = 0 then (if mayStart (s.task t) then vectorTrap s t e tr e.progress else s) else faultHead s t q tr e.progress false

/-! ### Accesses of an engine -/

/-- Why an engine's access does not perform. -/
inductive EngStop where
  | trap (t : Trap)
  | walk (fn page : Nat)
  /-- held by replay at an address (R408) -/
  | held (va : Word)
  /-- the log of the access's home has no room (R406) -/
  | logFull (a : Acc)
deriving DecidableEq, Repr, Inhabited

/-- Where an engine's work stops: what it had performed by then, and why. -/
structure EngHalt where
  state : State
  why : EngStop

/-- The work of an engine traps. -/
def engTrap {α : Type} (s : State) (tr : Trap) : Except EngHalt α := .error ⟨s, .trap tr⟩

def engStop : Stop → EngStop
  | .trap t => .trap t
  | .walk fn page => .walk fn page
  | .wait w => .held (w64 w.object)
  | .report r => .trap r.trap
  | .logFull a => .logFull a

/-- An access of command `e` of queue `q` at a virtual address. -/
def engAcc (s : State) (t q : Nat) (e : Entry) (va : Word) (size : Nat) (need : Need) (op : AccOp) : Except EngStop Acc :=
  match checkPlaceFor s t e.cap.her e.walkFault { va, size, cls := 0, need, op } with
  | .error x => .error (engStop x)
  | .ok p =>
    let l := s.launchOf t
    .ok { who := { task := t, strand := e.strand, queue := if 16 ≤ q then none else some q, pc := e.pc,
                   quiet := p.home == .spad t && isHeritage p.addr },
          home := p.home, addr := p.addr, va := foldVa s t va, size, cls := 0, op,
          tso := p.tso, log := p.log, detTag := if l.det && p.tag == l.ownerTag then p.tag else 0, exec := p.exec }

/-- Perform an access of an engine at its home (log entry 32). -/
def engPerform (s : State) (a : Acc) : Except EngStop (State × Reply) :=
  match performAt s a with
  | .ok s' r => .ok (s', r)
  | .trap _ tr => .error (if tr.cause = 23 then .logFull a else .trap tr)
  | .held => .error (.held a.va)

/-- The bad words of a home set aside, so that a read goes on and delivers zeros (R315, R354, R355). -/
def withoutBad (s : State) (h : Home) : State :=
  match h with
  | .spad p => s.modTask p (fun x => { x with badWords := [] })
  | .hbm _ => { s with badWords := [] }
  | .host _ => { s with badWords := [] }
  | .window _ => s

def restoreBad (old s : State) (h : Home) : State :=
  match h with
  | .spad p => s.modTask p (fun x => { x with badWords := (old.task p).badWords })
  | .hbm _ => { s with badWords := old.badWords }
  | .host _ => { s with badWords := old.badWords }
  | .window _ => s

/-- The home an address of an engine reaches. -/
def homeAt (s : State) (t : Nat) (va : Word) : Option Home :=
  match spadTarget s t va with
  | some (p, _) => some (.spad p)
  | none => (peekPage s t (pageOf va)).bind (fun e => homeFor s (s.launchOf t).fn (e.pa + va.toNat % 2 ^ 17))

/-- An access of the task to a home crosses ring hops. -/
def crossesLinks (s : State) (t : Nat) (h : Home) : Bool := homeStation s h != dieStation (s.task t).die

/-- A link transfer of the step fails after its retries (R354, R368): the run's choice, where the access crosses links. -/
def linkFails (s : State) (t : Nat) (h : Home) : Bool := s.sel.hop == .crcBad && crossesLinks s t h

/-- The hop of the route to a home that failed retires a lane (R368); which hop it was, `msg` tells. -/
def loseLink (s : State) (t : Nat) (h : Home) : State :=
  let a := dieStation (s.task t).die
  let b := homeStation s h
  let n := hopsBetween (podModules s) a b
  retireLane s (podModules s) (routeAt (podModules s) (s.sel.msg % max 1 n) a b) b

/-- Read the aligned word at an address: its bytes, and whether it is lost: an uncorrectable word lies in the `gran` bytes
about it, or the link failed. -/
def engReadWord (s : State) (t q gran : Nat) (e : Entry) (op : AccOp) (a : Word) : Except EngHalt (State × List Byte × Bool) :=
  match engAcc s t q e a 8 .read op with
  | .error x => .error ⟨s, x⟩
  | .ok acc =>
    let bad := homeBad s acc.home (acc.addr / gran * gran) gran || linkFails s t acc.home
    match engPerform (if bad then withoutBad s acc.home else s) acc with
    | .error x => .error ⟨s, x⟩
    | .ok (s', r) =>
      .ok (if bad then restoreBad s s' acc.home else s', bytesOf (match r with
        | .data v => v
        | _ => 0) 8, bad)

/-- Read `n` aligned words upward from an address. -/
def engReadWords (t q gran : Nat) (e : Entry) (op : AccOp) : Nat → State → Word → Except EngHalt (State × List (Byte × Bool))
  | 0, s, _ => .ok (s, [])
  | n + 1, s, a =>
    match engReadWord s t q gran e op a with
    | .error x => .error x
    | .ok (s1, bs, bad) =>
      match engReadWords t q gran e op n s1 (a + 8) with
      | .error x => .error x
      | .ok (s2, r) => .ok (s2, bs.map (fun b => (b, bad)) ++ r)

/-- A fault at the first, partly touched word names the first byte touched. -/
def fromByte (low va : Word) (x : EngHalt) : EngHalt :=
  match x.why with
  | .trap t =>
    { x with why := .trap (if t.tval = low ∧ (t.cause = 7 ∨ t.cause = 8 ∨ t.cause = 9) then { t with tval := va } else t) }
  | .walk _ _ => x
  | .held _ => x
  | .logFull _ => x

/-- Read `n` bytes at an address, each with whether it is lost; `op` is a load, or the read of a received block. -/
def engRead (s : State) (t q gran : Nat) (e : Entry) (va : Word) (n : Nat) (op : AccOp := .load) :
    Except EngHalt (State × List (Byte × Bool)) :=
  if n = 0 then .ok (s, [])
  else
    let o := va.toNat % 8
    match engReadWords t q gran e op ((o + n + 7) / 8) s (va - w64 o) with
    | .error x => .error (fromByte (va - w64 o) va x)
    | .ok (s', l) =>
      .ok (match homeAt s t va with
        | some h => if linkFails s t h then loseLink s' t h else s'
        | none => s', (l.drop o).take n)

/-- The bytes read, lost ones as zeros. -/
def plainBytes (l : List (Byte × Bool)) : List Byte := l.map (fun x => if x.2 then 0 else x.1)

/-- Some byte was lost. -/
def anyLost (l : List (Byte × Bool)) : Bool := l.any (·.2)

/-- Write enabled bytes, one access for each aligned word. -/
def engWriteWords (t q : Nat) (e : Entry) : Nat → State → Word → List (Option Byte) → Except EngHalt State
  | 0, s, _, _ => .ok s
  | n + 1, s, a, bs =>
    let w := bs.take 8
    if w.all Option.isNone then engWriteWords t q e n s (a + 8) (bs.drop 8)
    else
      match engAcc s t q e a 8 .write (.store w) with
      | .error x => .error ⟨s, x⟩
      | .ok acc =>
        match engPerform s acc with
        | .error x => .error ⟨s, x⟩
        | .ok (s', _) => engWriteWords t q e n s' (a + 8) (bs.drop 8)

/-- Write bytes at an address. -/
def engWrite (s : State) (t q : Nat) (e : Entry) (va : Word) (bs : List Byte) : Except EngHalt State :=
  if bs.isEmpty then .ok s
  else
    let o := va.toNat % 8
    let n := (o + bs.length + 7) / 8
    match engWriteWords t q e n s (va - w64 o)
      (List.replicate o none ++ bs.map some ++ List.replicate (8 * n - o - bs.length) none) with
    | .error x => .error (fromByte (va - w64 o) va x)
    | .ok s' => .ok s'

/-- A started command stopped at an access. At a fault every access before it has performed (R189), and one for want of room
in a log raises the log-full interrupt (R406); a walk to wait for, or a record that replay holds, leaves the piece of work
to be made as a whole later. -/
def engStopped (s : State) (t q progress : Nat) (x : EngHalt) : State :=
  match x.why with
  | .trap tr => faultHead x.state t q tr progress false
  | .walk fn page =>
    addWalk (onHead s t q (fun e => { e with progress := progress, wait := some { kind := 0 } })) (s.task t).die fn page
      (taskSource s t) (.queue t q)
  | .held a => headWait (onHead s t q (fun e => { e with progress := progress })) t q { kind := 7, object := a.toNat % 2 ^ 48 }
  | .logFull a => faultHead (logFull x.state a) t q { cause := 23, tval := a.va } progress false

/-- A range lies in the backed own scratchpad, or in heritage state in the working region (R191, R328). -/
def ownRange (s : State) (t : Nat) (her : Bool) (va : Word) (n : Nat) : Bool :=
  match spadTarget s t va with
  | none => false
  | some (p, off) =>
    p == t && (decide (off + n ≤ (s.task t).spsize)
      || (her && decide (va.toNat < 0x800000) && decide (0x600000 ≤ off) && decide (off + n ≤ 0x700000)))

end Sys2Proof.Machine
end

