-- ==== Sys2Proof/Machine/MatrixPush.lean ====
section
/-!
DEFINITION. Matrix instructions at the strand: steps 1 to 6 of the frame (R320), dispatch and steering (R309, R310), the
rules of deterministic launches (R317, R331), and MCFG (R331).
-/
namespace Sys2Proof.Machine

/-! ### Dispatch (R19, R72, R309) -/

/-- E and the bank's engine of a matrix command; MCLAIM, MREL and MSTAT with E = ANY go to ME0. -/
def matEngine (i : Instr) : Nat × Nat :=
  match i with
  | .mclaim f | .mrel f | .mstat f => (f.e.toNat, if f.e.toNat = 1 then 1 else 0)
  | .mzero f => (f.e.toNat, f.c.toNat % 4 / 2)
  | .mgo _ f | .mtile _ f | .mspgo _ f | .mdrain _ f | .mldacc _ f => (f.e.toNat, f.c.toNat % 4 / 2)
  | _ => (0, 0)

/-- The array has every class. -/
def hasClasses (c : Core) (eng need : Nat) : Bool :=
  let cap := (capme (if eng = 0 then c.me0 else c.me1)).toNat
  cap &&& need == need

/-- R309: the engine whose queue takes the command, and whether it was steered there; none for CAPABILITY. -/
def dispatchMatrix (c : Core) (i : Instr) (ft : Option Word) (sen : Bool) : Option (Nat × Bool) :=
  let (e, eng) := matEngine i
  let need := matClass i ft
  if need = 0 ∨ hasClasses c eng need then some (eng, false)
  else if hasClasses c (1 - eng) need && (e == 2 || sen) then some (1 - eng, true)
  else none

/-! ### Formats from the table at a matrix push (R54, R55, R328 to R330) -/

/-- The fields of an entry that the command takes hold accepted values. -/
def entryOk (i : Instr) (w : Word) : Bool :=
  match i with
  | .mtile fn _ | .mgo fn _ => ftMf w ≤ 8 && (!(fn.getLsbD 5) || ftMf w == 8)
  | .mspgo fn _ => ftMf w ≤ 4 && !(fn.getLsbD 5)
  | .mdrain _ _ => 3 ≤ ftOet w && ftOet w ≤ 9 && ftRm w ≤ 5
  | .mldacc _ _ => (ftOet w == 3 || ftOet w == 8 || ftOet w == 9) && !(ftXw w && ftOet w == 9)
  | _ => true

/-- FN of a matrix command that has one. -/
def matFn (i : Instr) : Option Nat :=
  match i with
  | .mgo fn _ | .mtile fn _ | .mspgo fn _ | .mdrain fn _ | .mldacc fn _ => some fn.toNat
  | _ => none

/-- The exact-window mode of an entry needs an even bank (R302). -/
def pairOk (i : Instr) (w : Word) : Bool :=
  match i with
  | .mgo _ f | .mtile _ f | .mspgo _ f | .mdrain _ f | .mldacc _ f => !(ftXw w) || f.c.toNat % 2 == 0
  | _ => true

/-- Step 3 of the frame. -/
def matrixFormat (i : Instr) : M (Option Word) := do
  match matFn i with
  | none => pure none
  | some fn =>
    if fn % 16 ≠ 15 then pure none
    else do
      let idx ← formatIndex
      let w ← formatEntry idx
      if !entryOk i w then trapM 1 (w64 idx)
      if bitsOf w.toNat 25 39 ≠ 0 then trapM 4 (w64 idx)
      if !pairOk i w then illegal i
      pure (some w)

/-! ### Deterministic launches (R317, R331) -/

/-- The strand owns a slot or bank for the phase, or another does. -/
def ownSlot (n : Nat) : M Unit := do
  let t ← curTask
  let s ← getS
  match SMap.find n t.recs.slotOwner with
  | some k => if k ≠ s.sel.strand then trapRes 13 (0x220 + n) else pure ()
  | none => modCurTask (fun t => { t with recs := { t.recs with slotOwner := SMap.put n s.sel.strand t.recs.slotOwner } })

def ownBank (n : Nat) : M Unit := do
  let t ← curTask
  let s ← getS
  match SMap.find n t.recs.bankOwner with
  | some k => if k ≠ s.sel.strand then trapRes 13 (0x240 + n) else pure ()
  | none => modCurTask (fun t => { t with recs := { t.recs with bankOwner := SMap.put n s.sel.strand t.recs.bankOwner } })

/-- Claims on a slot come from one kind of agent in a phase: 0 matrix commands, 1 to 4 a CE channel, 5 the GE. -/
def claimSlot (n kind : Nat) : M Unit := do
  let t ← curTask
  match SMap.find n t.recs.claims with
  | some k => if k ≠ kind then trapRes 14 (0x220 + n) else pure ()
  | none => modCurTask (fun t => { t with recs := { t.recs with claims := SMap.put n kind t.recs.claims } })

/-- A push that reads a table its holder has written belongs to the holder (R331). -/
def readTable (e : Nat) : M Unit := do
  let t ← curTask
  let s ← getS
  match SMap.find e t.recs.tableHolder with
  | some (k, w) => if w && k != s.sel.strand then trapRes 14 (0x250 + e) else pure ()
  | none => pure ()

/-- The command reads its bank engine's table. -/
def usesTable (i : Instr) (ft : Option Word) : Bool :=
  match i with
  | .mgo _ _ => true
  | .mspgo _ _ => true
  | .mtile fn _ => mfBlock (matMf fn.toNat ft)
  | _ => false

/-- Step 4 of the frame. -/
def matrixDet (i : Instr) (ft : Option Word) (tab : SMap (BitVec 32)) (queue : Nat) : M Unit := do
  let l ← curLaunch
  if !l.det then pure ()
  else do
    match i with
    | .mstat _ => trapM 14 0
    | _ => pure ()
    (detSlots i ft tab).forM ownSlot
    (matBanks i ft tab).forM ownBank
    match i with
    | .mclaim f => claimSlot (f.a.toNat % 32) 0
    | .mspgo _ f => claimSlot (f.b.toNat % 32) 5
    | _ => pure ()
    if usesTable i ft then readTable (matEngine i).2
    let k := linkOf i
    if k.wt ≠ 0 then recordWaiter k.ws (16 + queue)

/-! ### The push -/

/-- g registers A and B of a command that reads them. -/
def matRegs (i : Instr) : Option Reg × Option Reg :=
  match i with
  | .mstat f => (some f.a, none)
  | .mdrain _ f | .mldacc _ f => (some f.a, some f.b)
  | _ => (none, none)

/-- A g operand, 0 where the command has none. -/
def optReg (r : Option Reg) : M Word :=
  match r with
  | some r => rdOut r
  | none => pure 0

/-- RM of a drain. -/
def drainRm (i : Instr) (ft : Option Word) (tab : SMap (BitVec 32)) : Nat :=
  match i with
  | .mdrain _ _ => (ft.map ftRm).getD 0
  | .mgo _ _ => bitsOf (tabField tab 0 11) 4 3
  | _ => 0

/-- MDRAIN and MGO count for SEQ (R38). -/
def matCounts (i : Instr) : Bool :=
  match i with
  | .mdrain _ _ => true
  | .mgo _ _ => true
  | _ => false

/-- The command's flags and enables concern MESTEER. -/
def readsSteer (i : Instr) : Bool := (matFn i).isSome

/-- What a matrix command captures (step 6): operands, format, table, MESTEER in `vctl`, and the strand's accesses that
the push releases (R116). -/
def matrixCapture (i : Instr) (a b : Word) (ft : Option Word) (tab : SMap (BitVec 32)) : M Captured := do
  let t ← curTask
  let st ← curStrand
  let l ← curLaunch
  pure { a, b, ft, table := if usesTable i ft then tab else [], anchor := t.vec.xwanchor.setWidth 8,
         srseed := t.vec.srseed, phase := l.phase, seq := st.seq, vctl := t.eng.mesteer, her := st.r.her,
         after := st.outs.map (·.id) }

/-- Steps 1 to 6 of R320; a command no engine of the core can run stays with the strand, for its heritage routine (R309,
R311). The format-table entry is checked at step 3, before the dispatch (DEDUCED, log entry 144). -/
def pushMatrix (i : Instr) : M Next := do
  let (ra, rb) := matRegs i
  let a ← optReg ra
  let b ← optReg rb
  let ft ← matrixFormat i
  let t ← curTask
  let s ← getS
  let eng := (matEngine i).2
  let tab := if eng = 0 then t.eng.table0 else t.eng.table1
  if readsSteer i then csrImplicit 0x80
  match matFn i with
  | some fn => if matClass i ft ≠ 0 && ft.isNone && bitOf fn 4 then csrImplicit 0x45 else pure ()
  | none => pure ()
  if drainRm i ft tab = 5 then csrImplicit 0x44
  let d := dispatchMatrix (coreOf s s.sel.task) i ft (t.eng.mesteer.getLsbD 0)
  matrixDet i ft tab (1 + (d.map (·.1)).getD eng)
  match d with
  | none => do
    let cap ← matrixCapture i a b ft tab
    let st ← curStrand
    modCurTask (fun x => { x with serial := x.serial + 1 })
    modCur (fun x => { x with
      routine := some { cmd := i, pc := st.r.pc, strand := s.sel.strand, serial := t.serial + 1, cap } })
    pure .capability
  | some (q, steered) => do
    let cap ← matrixCapture i a b ft tab
    pushEntry (1 + q) i { cap with steered }
    if matCounts i then countSeq
    pure .fall

/-- R323. -/
def execMclaim (f : EC) (s : State) : Host.Outcome State Fault Refusal :=
  strandStep (.mclaim f) (pushMatrix (.mclaim f)) s

/-- R323. -/
def execMrel (f : EC) (s : State) : Host.Outcome State Fault Refusal :=
  strandStep (.mrel f) (pushMatrix (.mrel f)) s

/-- R324. -/
def execMstat (f : EC) (s : State) : Host.Outcome State Fault Refusal :=
  strandStep (.mstat f) (pushMatrix (.mstat f)) s

/-- R326. -/
def execMgo (fn : BitVec 6) (f : EC) (s : State) : Host.Outcome State Fault Refusal :=
  strandStep (.mgo fn f) (pushMatrix (.mgo fn f)) s

/-- R325. -/
def execMtile (fn : BitVec 6) (f : EC) (s : State) : Host.Outcome State Fault Refusal :=
  strandStep (.mtile fn f) (pushMatrix (.mtile fn f)) s

/-- R327. -/
def execMzero (f : EC) (s : State) : Host.Outcome State Fault Refusal :=
  strandStep (.mzero f) (pushMatrix (.mzero f)) s

/-- R328. -/
def execMdrain (fn : BitVec 6) (f : EC) (s : State) : Host.Outcome State Fault Refusal :=
  strandStep (.mdrain fn f) (pushMatrix (.mdrain fn f)) s

/-- R329. -/
def execMldacc (fn : BitVec 6) (f : EC) (s : State) : Host.Outcome State Fault Refusal :=
  strandStep (.mldacc fn f) (pushMatrix (.mldacc fn f)) s

/-- R330. -/
def execMspgo (fn : BitVec 6) (f : EC) (s : State) : Host.Outcome State Fault Refusal :=
  strandStep (.mspgo fn f) (pushMatrix (.mspgo fn f)) s

/-! ### MCFG (R331) -/

/-- The tables E names: 0 ME0, 1 ME1. -/
def mcfgTables (e : BitVec 2) : List Nat := if e = 2 then [0, 1] else [e.toNat % 2]

/-- Hold a table for the phase and note that it is written. -/
def holdTable (e : Nat) : M Unit := do
  let t ← curTask
  let s ← getS
  let k := s.sel.strand
  match SMap.find e t.recs.tableHolder with
  | some (h, _) => if h ≠ k then trapRes 14 (0x250 + e) else pure ()
  | none => pure ()
  modCurTask (fun t => { t with recs := { t.recs with tableHolder := SMap.put e (k, true) t.recs.tableHolder } })

/-- Write one field of one table. -/
def writeTable (e key : Nat) (v : BitVec 32) : M Unit := do
  let t ← curTask
  let old := SMap.get 0 (if e = 0 then t.eng.table0 else t.eng.table1) key
  logUndo (2 + e) key old.toNat
  modCurTask (fun t =>
    if e = 0 then { t with eng := { t.eng with table0 := SMap.set 0 t.eng.table0 key v } }
    else { t with eng := { t.eng with table1 := SMap.set 0 t.eng.table1 key v } })

/-- R331: the field gets (g[A] + LIT) mod 2^32. -/
def execMcfg (f : MC) (s : State) : Host.Outcome State Fault Refusal :=
  strandStep (.mcfg f) (do
    let a ← rdOut f.a
    let l ← curLaunch
    if l.det then (mcfgTables f.e).forM holdTable
    (mcfgTables f.e).forM (fun e => writeTable e (16 * f.lv.toNat + f.fld.toNat) (a.setWidth 32 + f.lit))
    pure .fall) s

end Sys2Proof.Machine
end

