-- ==== Sys2Proof/Machine/MatrixExec.lean ====
section
/-!
DEFINITION. The matrix engines at work: tile steps (R43 to R46, R298, R299), slot states (R300), drains and loads (R45,
R302, R328, R329), the sparse gather (R314, R330), and MATRIX_COMMAND_START, MGO_ACTION and MATRIX_COMMAND_COMPLETE
(R307, R308, R313, R315, R320).
-/
namespace Sys2Proof.Machine

/-! ### Slot states (R300) -/

/-- A use starts. -/
def useSlot (t : Task) (n : Nat) (release : Bool) : Task :=
  let x := t.slot n
  t.setSlot n { x with rc := x.rc + 1, state := if release then 3 else x.state }

/-- A use ends; the last one of a DRAINING slot empties it. -/
def endUse (t : Task) (n : Nat) : Task :=
  let x := t.slot n
  let rc := x.rc - 1
  if x.state = 3 ∧ rc = 0 then t.setSlot n { x with rc := 0, state := 0, taint := false } else t.setSlot n { x with rc := rc }

/-- The first of some slots that is not READY. -/
def notReadySlot (t : Task) (l : List Nat) : Option Nat := l.find? (fun n => (t.slot n).state != 2)

/-- MREL by the slot's state; none is SLOT_STATE. -/
def releaseSlot (x : Slot) : Option Slot :=
  match x.state with
  | 1 => if x.fb then none else some { x with state := 0, taint := false }
  | 2 => if x.rc = 0 then some { x with state := 0, taint := false } else some { x with state := 3 }
  | _ => none

/-! ### Tile steps -/

/-- The scales of the two slots: bytes of all lines, 0 where a word was lost. -/
structure Scales where
  a : List Byte := []
  b : List Byte := []
  lost : Bool := false
deriving Repr, Inhabited

/-- Elements of line `l` of a slot under a format, with the scale bytes of its blocks. -/
def lineElems (mf : Nat) (bytes : SMap Byte) (scales : List Byte) (l : Nat) : List Ex :=
  let et := mfType mf
  if mfBlock mf then
    let w := mfScale mf
    let z := blockBytes et - w
    let sc := (scales.drop (l * mfLineScales mf)).take (mfLineScales mf)
    (List.range (mfK mf / blockElems et)).flatMap (fun q =>
      let blk := leNat ((sc.drop (q * w)).take w) + 2 ^ (8 * w) * readNat bytes (256 * l + q * z) z
      (List.range (blockElems et)).map (fun i => blockElem et blk i))
  else
    let n := typeBytes et
    (List.range (mfK mf)).map (fun k => exOf et (readNat bytes (256 * l + k * n) n))

/-- Elements summed before a rounding (R43): a product, a pair, a block. -/
def mfGroup (mf : Nat) : Nat := if mf ≤ 1 then 1 else if mf ≤ 4 then 2 else blockElems (mfType mf)

/-- Exact sum of products. -/
def dotExact : List Ex → List Ex → Flagged Ex
  | [a], [b] => Ex.mul a b
  | a :: as, b :: bs =>
    let (p, f) := Ex.mul a b
    let (r, g) := dotExact as bs
    let (s, h) := Ex.add 0 p r
    (s, f ||| g ||| h)
  | _, _ => (.num false 0 1 0, 0)

/-- An element of a tile step (R43, R44): `n` groups of `g` summed into an A80 pattern, each rounded by RNE69. -/
def dotAcc (g : Nat) : Nat → List Ex → List Ex → Nat → Nat → Flagged Nat
  | 0, _, _, acc, fl => (acc, fl)
  | n + 1, a, b, acc, fl =>
    let (s, f1) := dotExact (a.take g) (b.take g)
    let (y, f2) := Ex.add 0 (fmtA80.decode acc) s
    let (z, f3) := rne69 y
    dotAcc g n (a.drop g) (b.drop g) z (fl ||| f1 ||| f2 ||| f3)

/-- An element of a tile step in exact-window mode (R46): each group's sum goes to XW at the anchor and is added exactly. -/
def dotXw (anch : Int) (g : Nat) : Nat → List Ex → List Ex → Int → Nat → Flagged Int
  | 0, _, _, x, fl => (x, fl)
  | n + 1, a, b, x, fl =>
    let (s, f1) := dotExact (a.take g) (b.take g)
    let (v, f2) := toXw anch s
    let (y, f3) := xwSat (x + v)
    dotXw anch g n (a.drop g) (b.drop g) y (fl ||| f1 ||| f2 ||| f3)

/-- What a tile step makes of each element k = 128 i + j, from the elements of line i of A and of line j of B. -/
def tileElems {α : Type} (mf : Nat) (a b : SMap Byte) (sc : Scales) (f : Nat → List Ex → List Ex → α) : List (Nat × α) :=
  let la := (List.range 128).map (lineElems mf a sc.a)
  let lb := (List.range 128).map (lineElems mf b sc.b)
  la.zipIdx.flatMap (fun (ra, i) => lb.zipIdx.map (fun (rb, j) => (128 * i + j, f (128 * i + j) ra rb)))

/-- The flags of the elements that raised one, lowest first. -/
def flagList {α : Type} (r : List (Nat × α × Nat)) : List (Nat × Nat) :=
  r.filterMap (fun (k, _, f) => if f = 0 then none else some (k, f))

/-- A bank of its elements that are not 0. -/
def bankElems (r : List (Nat × Nat)) : SMap (BitVec 80) :=
  r.filterMap (fun (k, v) => if v = 0 then none else some (k, BitVec.ofNat 80 v))

/-- A bank after a tile step, with the flags of each element that raised one, lowest first. -/
def tileBank (mf : Nat) (x : Bank) (a b : SMap Byte) (sc : Scales) : SMap (BitVec 80) × List (Nat × Nat) :=
  let g := mfGroup mf
  let r := tileElems mf a b sc (fun k ra rb => dotAcc g (mfK mf / g) ra rb (SMap.get 0 x.acc k).toNat 0)
  (bankElems (r.map (fun (k, v, _) => (k, v))), flagList r)

/-- The XW value of element k of the pair that holds a bank (R302). -/
def pairElem (t : Task) (bank k : Nat) : Int :=
  let lo := (SMap.get 0 (t.bank (bank / 2 * 2)).acc k).toNat
  let hi := (SMap.get 0 (t.bank (bank / 2 * 2 + 1)).acc k).toNat
  sintOf 128 (lo + 2 ^ 80 * (hi % 2 ^ 48))

/-- The XW values of a pair after a tile step, with flags. -/
def tilePair (mf : Nat) (t : Task) (bank : Nat) (anch : Int) (a b : SMap Byte) (sc : Scales) : List (Nat × Int × Nat) :=
  let g := mfGroup mf
  tileElems mf a b sc (fun k ra rb => dotXw anch g (mfK mf / g) ra rb (pairElem t bank k) 0)

/-- A pair that holds XW values: bits 79:0 in the even bank, bits 127:80 in the odd one (R302). -/
def setPair (t : Task) (bank : Nat) (vs : List (Nat × Int)) (taint : Bool) : Task :=
  let w := vs.map (fun (k, v) => (k, wrapNat 128 v))
  (t.setBank (bank / 2 * 2) { acc := bankElems (w.map (fun (k, n) => (k, n % 2 ^ 80))), taint := taint }).setBank
    (bank / 2 * 2 + 1) { acc := bankElems (w.map (fun (k, n) => (k, n / 2 ^ 80))), taint := taint }

/-! ### Flags and errors of a command (R313, R315) -/

/-- MESTAT of a bank. -/
def bankFlags (b : Nat) : FlagReg := if b < 2 then .mestat0 else .mestat1

/-- The lower of two element numbers. -/
def lowest (a b : Option Nat) : Option Nat :=
  match a, b with
  | some x, some y => some (min x y)
  | some x, none => some x
  | none, b => b

/-- Note the flags elements raised: in MESTAT, and the lowest element of each that can trap. -/
def noteFlags (s : State) (t q strand bank : Nat) (l : List (Nat × Nat)) : State :=
  let fl := l.foldl (fun a x => a ||| x.2) 0
  if fl = 0 then s
  else
    let first := fun bit => (l.find? (fun x => bitOf x.2 bit)).map (·.1)
    onHead (s.modTask t (fun x => raiseFlags x strand (bankFlags bank) fl)) t q (fun e => { e with
      flags := e.flags ||| fl, firstInvalid := lowest e.firstInvalid (first 0), firstXw := lowest e.firstXw (first 5) })

/-- The command has met an error: E on its signal. -/
def noteErr (s : State) (t q : Nat) (err : Bool) : State :=
  if err then absorbError (onHead s t q (fun e => { e with err := true })) t else s

/-! ### One tile step -/

/-- Read the scales of a block format: `n` bytes of the lines above a base (R299). Where they do not lie in the backed
scratchpad as a whole, TVAL is the base; the scales of A are read before those of B (DESIGN CHOICE, log entry 115). -/
def readScales (s : State) (t q : Nat) (e : Entry) (base : Word) (n : Nat) :
    Except EngHalt (State × List Byte × Bool) :=
  if !ownRange s t e.cap.her base n then engTrap s { cause := 9, tval := base }
  else
    match engRead s t q 8 e base n with
    | .error x => .error x
    | .ok (s', l) => .ok (s', plainBytes l, anyLost l)

/-- Both scale arrays of a tile step, none for the other formats. -/
def pairScales (s : State) (t q : Nat) (e : Entry) (mf : Nat) (pa pb : Word) : Except EngHalt (State × Scales) :=
  if !mfBlock mf then .ok (s, {})
  else
    let n := 128 * mfLineScales mf
    match readScales s t q e pa n with
    | .error x => .error x
    | .ok (s1, a, la) =>
      match readScales s1 t q e pb n with
      | .error x => .error x
      | .ok (s2, b, lb) => .ok (s2, { a, b, lost := la || lb })

/-- The scales of a command's tile steps: one, or under Q8 two, whose arrays follow one another (R299). They are read
before the first step writes. -/
def tileScales (s : State) (t q : Nat) (e : Entry) (mf : Nat) (q8 : Bool) (pa pb : Word) :
    Except EngHalt (State × List Scales) :=
  match pairScales s t q e mf pa pb with
  | .error x => .error x
  | .ok (s1, sc) =>
    if !q8 then .ok (s1, [sc])
    else
      let n := w64 (128 * mfLineScales mf)
      match pairScales s1 t q e mf (pa + n) (pb + n) with
      | .error x => .error x
      | .ok (s2, sc2) => .ok (s2, [sc, sc2])

/-- The anchor of an exact-window command: its format-table entry's, or XWANCHOR as captured (R307, R325). -/
def matAnchor (e : Entry) : Int := anchorOf ((e.cap.ft.map ftAnch).getD e.cap.anchor)

/-- Add slot a × slot b to a bank, or in exact-window mode to its pair (R46); taint follows the data (R315). The slots'
states are the caller's. -/
def runTile (s : State) (t q : Nat) (e : Entry) (mf : Nat) (xw : Bool) (bank a b : Nat) (sc : Scales) : State :=
  let x := s.task t
  let taint := (bankSet bank xw).any (fun n => (x.bank n).taint) || (x.slot a).taint || (x.slot b).taint || sc.lost
  let (s1, fl) :=
    if xw then
      let r := tilePair mf x bank (matAnchor e) (x.slot a).bytes (x.slot b).bytes sc
      (s.modTask t (fun x => setPair x bank (r.map (fun (k, v, _) => (k, v))) taint), flagList r)
    else
      let (acc, fl) := tileBank mf (x.bank bank) (x.slot a).bytes (x.slot b).bytes sc
      (s.modTask t (fun x => x.setBank bank { acc := acc, taint := taint }), fl)
  noteErr (noteFlags s1 t q e.strand bank fl) t q taint

/-- The tile steps of a command on slots a and b, the second one on the slots above them (R325). -/
def runTiles (s : State) (t q : Nat) (e : Entry) (mf : Nat) (xw : Bool) (bank a b : Nat) : List Scales → State
  | [] => s
  | sc :: r => runTiles (runTile s t q e mf xw bank a b sc) t q e mf xw bank (slotAbove a) (slotAbove b) r

/-! ### Drains and loads -/

/-- Type, rounding, saturation, exact window and anchor of a drain or load. -/
structure DrainFmt where
  oet : Nat := 8
  rm : Nat := 0
  sat : Bool := false
  xw : Bool := false
  anch : Int := 0
deriving DecidableEq, Repr, Inhabited

/-- From FN, or from a format-table entry (R328, R329). -/
def drainFmt (fn : Nat) (ft : Option Word) : DrainFmt :=
  match ft with
  | some w => { oet := ftOet w, rm := ftRm w, sat := ftSat w, xw := ftXw w, anch := anchorOf (ftAnch w) }
  | none => { oet := fn % 16, sat := bitOf fn 5 }

/-- One drained element: its container and flags. -/
def drainElem (t : Task) (f : DrainFmt) (bank k u : Nat) : Flagged Nat :=
  let raw := (SMap.get 0 (t.bank bank).acc k).toNat
  if f.oet = 9 ∧ !f.xw then (raw, 0)
  else exTo f.oet f.rm f.sat u (if f.xw then Ex.ofScaled (pairElem t bank k) f.anch else fmtA80.decode raw)

/-- Numbers U of a command's elements under SR (R38). -/
def drainU (s : State) (t : Nat) (e : Entry) (f : DrainFmt) (k : Nat) : Nat :=
  if f.rm = 5 then stochastic e.cap.srseed e.cap.phase (s.task t).lcore e.strand e.cap.seq k else 0

/-- Rows from i on: each row's elements to base + i × pitch. -/
def drainRows (t q : Nat) (e : Entry) (rows : List (List Nat)) (size : Nat) (pitch : Word) :
    State → Word → Except EngHalt State :=
  match rows with
  | [] => fun s _ => .ok s
  | r :: rest => fun s base =>
    match engWrite s t q e base (r.flatMap (fun v => bytesOf v size)) with
    | .error x => .error x
    | .ok s' => drainRows t q e rest size pitch s' (base + pitch)

/-- Drain a bank or pair and, with `zad`, zero it. The range has been checked. -/
def runDrain (s : State) (t q : Nat) (e : Entry) (f : DrainFmt) (bank : Nat) (base pitch : Word) (zad : Bool) :
    Except EngHalt State :=
  let x := s.task t
  let r := (List.range 16384).map (fun k => drainElem x f bank k (drainU s t e f k))
  let rows := (List.range 128).map (fun i => ((r.drop (128 * i)).take 128).map (·.1))
  match drainRows t q e rows (oetSize f.oet) pitch s base with
  | .error y => .error y
  | .ok s1 =>
    let banks := bankSet bank f.xw
    let tainted := banks.any (fun b => (x.bank b).taint)
    let s2 := noteFlags s1 t q e.strand bank (r.zipIdx.filterMap (fun (v, k) => if v.2 = 0 then none else some (k, v.2)))
    let s3 := if zad then s2.modTask t (fun x => banks.foldl (fun x b => x.setBank b {}) x) else s2
    .ok (noteErr s3 t q tainted)

/-- The start checks of R328: the offending value, or the range. -/
def drainCheck (s : State) (t : Nat) (e : Entry) (size : Nat) (base pitch : Word) : Option Trap :=
  if pitch.toNat < 128 * size ∨ pitch.toNat % size ≠ 0 then some { cause := 18, tval := pitch }
  else if base.toNat % size ≠ 0 then some { cause := 18, tval := base }
  else if !ownRange s t e.cap.her base (127 * pitch.toNat + 128 * size) then some { cause := 9, tval := base }
  else none

/-- What a loaded element becomes: bank element, upper pair element, flags (R329). -/
def loadElem (f : DrainFmt) (v : Nat) : Nat × Nat × Nat :=
  if f.xw then
    let (i, fl) := toXw f.anch (exOf f.oet v)
    let w := wrapNat 128 i
    (w % 2 ^ 80, w / 2 ^ 80, fl)
  else if f.oet = 9 then (v % 2 ^ 80, 0, 0)
  else ((rne69 (exOf f.oet v)).1, 0, 0)

/-- Rows of a load: the element values, and whether a word was lost. -/
def loadRows (t q : Nat) (e : Entry) (size : Nat) (pitch : Word) :
    Nat → State → Word → Except EngHalt (State × List Nat × Bool)
  | 0, s, _ => .ok (s, [], false)
  | n + 1, s, base =>
    match engRead s t q 8 e base (128 * size) with
    | .error x => .error x
    | .ok (s1, l) =>
      match loadRows t q e size pitch n s1 (base + pitch) with
      | .error x => .error x
      | .ok (s2, r, lost) =>
        let bs := plainBytes l
        .ok (s2, (List.range 128).map (fun j => leNat ((bs.drop (j * size)).take size)) ++ r, lost || anyLost l)

/-- A bank from its element values. -/
def bankOf (vs : List Nat) : SMap (BitVec 80) :=
  vs.zipIdx.filterMap (fun (v, k) => if v = 0 then none else some (k, BitVec.ofNat 80 v))

/-- Load a bank or pair. -/
def runLoad (s : State) (t q : Nat) (e : Entry) (f : DrainFmt) (bank : Nat) : Except EngHalt State :=
  match loadRows t q e (oetSize f.oet) e.cap.b 128 s e.cap.a with
  | .error x => .error x
  | .ok (s1, vs, lost) =>
    let r := vs.map (loadElem f)
    let s2 := s1.modTask t (fun x =>
      if f.xw then
        (x.setBank (bank / 2 * 2) { acc := bankOf (r.map (·.1)), taint := lost }).setBank (bank / 2 * 2 + 1)
          { acc := bankOf (r.map (·.2.1)), taint := lost }
      else x.setBank bank { acc := bankOf (r.map (·.1)), taint := lost })
    let fl := r.zipIdx.filterMap (fun (v, k) => if v.2.2 = 0 then none else some (k, v.2.2))
    .ok (noteErr (noteFlags s2 t q e.strand bank fl) t q lost)

/-! ### MSTAT (R324) -/

/-- The bank is named by a command that has started and not completed. -/
def bankBusy (t : Task) (b : Nat) : Bool :=
  (matrixCommands t).any (fun e => e.started && (matBanks e.cmd e.cap.ft e.cap.table).contains b)

/-- The 64 bytes of a snapshot. -/
def snapshot (t : Task) : List Byte :=
  (List.range 32).map (fun n =>
    let x := t.slot n
    BitVec.ofNat 8 (x.state % 4 + 4 * b2n x.fb + 8 * b2n x.taint + 16 * (x.rc % 16)))
  ++ (List.range 4).map (fun b => BitVec.ofNat 8 (b2n (t.bank b).taint + 2 * b2n (bankBusy t b)))
  ++ List.replicate 28 0

/-! ### MSPGO (R314, R330) -/

/-- A read of the own scratchpad by the gather: a number, and whether a word was lost. -/
def sparseRead (s : State) (t q : Nat) (e : Entry) (a n : Nat) : Except EngHalt (State × Nat × Bool) :=
  if !ownRange s t e.cap.her (w64 a) n then engTrap s { cause := 9, tval := w64 a }
  else
    match engRead s t q 8 e (w64 a) n with
    | .error x => .error x
    | .ok (s', l) => .ok (s', leNat (plainBytes l), anyLost l)

/-- Read `n` numbers of `w` bytes from an offset, whether each was lost. -/
def sparseReads (t q : Nat) (e : Entry) (w : Nat) : Nat → State → Nat → Except EngHalt (State × List (Nat × Bool))
  | 0, s, _ => .ok (s, [])
  | n + 1, s, a =>
    match sparseRead s t q e a w with
    | .error x => .error x
    | .ok (s1, v, lost) =>
      match sparseReads t q e w n s1 (a + w) with
      | .error x => .error x
      | .ok (s2, r) => .ok (s2, (v, lost) :: r)

/-- The first descriptor value that R330 refuses, in the order of the fields; of bytes 14 to 31 the value is that of bytes
14 and 15, or where these are 0 the OR of the two doublewords above them (DESIGN CHOICE, log entry 117). -/
def sparseBad (d k size : Nat) : Option Nat :=
  let f := fun lo n => bitsOf d lo n
  if f 0 32 % 4 ≠ 0 then some (f 0 32)
  else if f 32 32 % 2 ≠ 0 then some (f 32 32)
  else if f 64 32 % size ≠ 0 then some (f 64 32)
  else if k < f 96 16 then some (f 96 16)
  else if f 112 144 ≠ 0 then some (if f 112 16 ≠ 0 then f 112 16 else f 128 64 ||| f 192 64)
  else none

/-- The first row pointer that is negative or below the one before it. -/
def badPointer : Nat → List Nat → Option Nat
  | _, [] => none
  | p, x :: r => if 2 ^ 31 ≤ x ∨ x < p then some x else badPointer x r

/-- Lines of the target slot: element (k, j) at line j; the highest p of a row wins. -/
def sparseBytes (size : Nat) (ptr : List Nat) (cols vals : List Nat) : SMap Byte :=
  let first := ptr.headD 0
  let ent := fun (p : Nat) => (cols.getD (p - first) 0, vals.getD (p - first) 0)
  (List.range (ptr.length - 1)).foldl (fun m k =>
    let lo := ptr.getD k 0
    let hi := ptr.getD (k + 1) 0
    (List.range (hi - lo)).foldl (fun m i =>
      let (c, v) := ent (lo + i)
      writeBytes m (256 * c + k * size) (bytesOf v size)) m) []

/-- The gather: the slot's bytes and whether a value was lost. It reads and checks every row pointer, then every column index,
then the values, and the TVAL of a negative pointer or index is the value sign-extended (DESIGN CHOICE, log entry 145). -/
def sparseGather (s : State) (t q : Nat) (e : Entry) (mf : Nat) : Except EngHalt (State × SMap Byte × Bool) :=
  let size := typeBytes (mfType mf)
  let f13 := tabField e.cap.table 0 13
  if 2 ^ 23 ≤ f13 then engTrap s { cause := 18, tval := w64 f13 }
  else if f13 % 32 ≠ 0 then engTrap s { cause := 18, tval := w64 f13 }
  else
    match sparseRead s t q e f13 32 with
    | .error x => .error x
    | .ok (s1, d, l0) =>
      match sparseBad d (mfK mf) size with
      | some v => engTrap s1 { cause := 18, tval := w64 v }
      | none =>
        match sparseReads t q e 4 (bitsOf d 96 16 + 1) s1 (bitsOf d 0 32) with
        | .error x => .error x
        | .ok (s2, ptr) =>
          let ps := ptr.map (·.1)
          match badPointer 0 ps with
          | some v => engTrap s2 { cause := 18, tval := sextW (w64 v) 32 }
          | none =>
            let first := ps.headD 0
            let n := ps.getLastD 0 - first
            match sparseReads t q e 2 n s2 (bitsOf d 32 32 + 2 * first) with
            | .error x => .error x
            | .ok (s3, cols) =>
              match cols.find? (fun c => 128 ≤ c.1) with
              | some c => engTrap s3 { cause := 18, tval := sextW (w64 c.1) 16 }
              | none =>
                match sparseReads t q e size n s3 (bitsOf d 64 32 + size * first) with
                | .error x => .error x
                | .ok (s4, vals) =>
                  .ok (s4, sparseBytes size ps (cols.map (·.1)) (vals.map (·.1)),
                    l0 || ptr.any (·.2) || cols.any (·.2) || vals.any (·.2))

/-! ### Errors without a signal, and claims -/

/-- The bank whose MESTAT a command's flags and ERR go to; for an MCLAIM or MREL, which name no bank, one of the engine it runs
on (DEDUCED, log entry 118). -/
def flagBank (i : Instr) : Option Nat :=
  match i with
  | .mgo _ f | .mtile _ f | .mspgo _ f | .mdrain _ f | .mldacc _ f | .mzero f => some (f.c.toNat % 4)
  | .mclaim _ | .mrel _ => some (2 * (matEngine i).2)
  | _ => none

/-- ERR of MESTAT when a command without a signal met an error (R315). -/
def noteMestat (s : State) (t : Nat) (e : Entry) : State :=
  if e.err && (linkOf e.cmd).si = 0 then
    match flagBank e.cmd with
    | some b => s.modTask t (fun x => raiseFlags x e.strand (bankFlags b) 64)
    | none => s
  else s

/-! ### MATRIX_COMMAND_START -/

/-- The strand's accesses before the push have performed (R116). -/
def pushReleased (t : Task) (e : Entry) : Bool :=
  (t.strand e.strand).outs.all (fun o => !e.cap.after.contains o.id)
    && (vecAccesses t e.strand).all (fun o => decide (e.serial < o.serial))

/-- The head has done its work at its start; its completion is to come. -/
def startedDone (s : State) (t q : Nat) (uses : List (Nat × Bool)) : State :=
  onHead s t q (fun e => { e with started := true, wait := none, walkFault := none, finished := true, uses := uses })

/-- A use of slots by a tile step that ends at the command's completion, or within the step of an MGO action. -/
def startUses (s : State) (t : Nat) (uses : List (Nat × Bool)) : State :=
  s.modTask t (fun x => uses.foldl (fun x u => useSlot x u.1 u.2) x)

def endUses (s : State) (t : Nat) (uses : List (Nat × Bool)) : State :=
  s.modTask t (fun x => uses.foldl (fun x u => endUse x u.1) x)

/-- Add a use to a list: a slot named twice has one reader and one release (R300). -/
def addUse (l : List (Nat × Bool)) (n : Nat) (r : Bool) : List (Nat × Bool) :=
  if l.any (·.1 == n) then l.map (fun u => if u.1 = n then (n, u.2 || r) else u) else l ++ [(n, r)]

/-- The slots of a command's tile steps: a and b, and under Q8 those above them (R325). -/
def slotsOf (q8 : Bool) (a b : Nat) : List Nat := if q8 then [a, b, slotAbove a, slotAbove b] else [a, b]

/-- The uses of the slots of a command: a release bit holds for both slots of its side (R325). -/
def usesOf (q8 : Bool) (a b : Nat) (ra rb : Bool) : List (Nat × Bool) :=
  ((slotsOf q8 a b).zip [ra, rb, ra, rb]).foldl (fun l u => addUse l u.1 u.2) []

/-- MTILE at steps 9 and 10. -/
def startMtile (s : State) (t q : Nat) (e : Entry) (fn : BitVec 6) (f : EC) : State :=
  let a := f.a.toNat % 32
  let b := f.b.toNat % 32
  let mf := matMf fn.toNat e.cap.ft
  let q8 := fn.getLsbD 5
  match notReadySlot (s.task t) (slotsOf q8 a b) with
  | some n => headWait s t q { kind := 5, object := n, amount := 2 }
  | none =>
    let tab := e.cap.table
    let bad := if mfBlock mf then
        (if 2 ^ 23 ≤ tabField tab 0 12 then some (tabField tab 0 12)
         else if 2 ^ 23 ≤ tabField tab 0 13 then some (tabField tab 0 13) else none)
      else none
    match bad with
    | some v => faultHead s t q { cause := 18, tval := w64 v } 0 false
    | none =>
      match tileScales s t q e mf q8 (w64 (tabField tab 0 12)) (w64 (tabField tab 0 13)) with
      | .error x => engStopped s t q 0 x
      | .ok (s1, sc) =>
        let uses := usesOf q8 a b (f.c.getLsbD 2) (f.c.getLsbD 3)
        startedDone (runTiles (startUses s1 t uses) t q e mf (matXw fn.toNat e.cap.ft) (f.c.toNat % 4) a b sc) t q uses

/-- MDRAIN at step 10. -/
def startMdrain (s : State) (t q : Nat) (e : Entry) (fn : BitVec 6) (f : EC) : State :=
  let d := drainFmt fn.toNat e.cap.ft
  match drainCheck s t e (oetSize d.oet) e.cap.a e.cap.b with
  | some tr => faultHead s t q tr 0 false
  | none =>
    match runDrain s t q e d (f.c.toNat % 4) e.cap.a e.cap.b (fn.getLsbD 4) with
    | .error x => engStopped s t q 0 x
    | .ok s1 => startedDone s1 t q []

/-- MLDACC at step 10. -/
def startMldacc (s : State) (t q : Nat) (e : Entry) (fn : BitVec 6) (f : EC) : State :=
  let d := drainFmt fn.toNat e.cap.ft
  match drainCheck s t e (oetSize d.oet) e.cap.a e.cap.b with
  | some tr => faultHead s t q tr 0 false
  | none =>
    match runLoad s t q e d (f.c.toNat % 4) with
    | .error x => engStopped s t q 0 x
    | .ok s1 => startedDone s1 t q []

/-- MSTAT at step 10. -/
def startMstat (s : State) (t q : Nat) (e : Entry) : State :=
  let a := e.cap.a
  if a.toNat % 64 ≠ 0 then faultHead s t q { cause := 18, tval := a } 0 false
  else if !ownRange s t e.cap.her a 64 then faultHead s t q { cause := 9, tval := a } 0 false
  else
    match engWrite s t q e a (snapshot (s.task t)) with
    | .error x => engStopped s t q 0 x
    | .ok s1 => startedDone s1 t q []

/-- The tile step of an MSPGO whose gather has completed. -/
def mspgoTile (s : State) (t q : Nat) (e : Entry) (fn : BitVec 6) (f : EC) : State :=
  let a := f.a.toNat % 32
  let b := f.b.toNat % 32
  match notReadySlot (s.task t) [a, b] with
  | some n => headWait s t q { kind := 5, object := n, amount := 2 }
  | none =>
    let uses := usesOf false a b (f.c.getLsbD 2) true
    startedDone (runTile (startUses s t uses) t q e (matMf fn.toNat e.cap.ft) (matXw fn.toNat e.cap.ft) (f.c.toNat % 4) a b {})
      t q uses

/-- MSPGO: slot B is claimed, or taken up again after a gather that faulted and left it FILLING; then the tile step, when the
gather is over. -/
def startMspgo (s : State) (t q : Nat) (e : Entry) (fn : BitVec 6) (f : EC) : State :=
  let x := s.task t
  let b := f.b.toNat % 32
  let mine := !e.uses.isEmpty && (x.slot b).state == 1 && !(x.slot b).fb
  if e.progress = 1 then mspgoTile s t q e fn f
  else if !mine && !mayClaim x q e b then headWait s t q { kind := 5, object := b }
  else
    onHead (s.modTask t (fun x => x.setSlot b { x.slot b with state := 1, fb := true })) t q
      (fun e => { e with started := true, uses := [(b, true)], wait := none, walkFault := none })

/-- The gather of an MSPGO that has claimed its slot, between the GE's own commands; a fault leaves the slot FILLING with FB
clear (R314). The tile step follows where commands may start. -/
def mspgoGather (s : State) (t q : Nat) (e : Entry) (fn : BitVec 6) (f : EC) : State :=
  let b := f.b.toNat % 32
  if ((s.task t).queue 7).head?.any (·.started) then s
  else
    match sparseGather s t q e (matMf fn.toNat e.cap.ft) with
    | .error y =>
      let quit := y.state.modTask t (fun x => x.setSlot b { x.slot b with fb := false })
      engStopped s t q 0 { y with state := onHead quit t q (fun e => { e with started := false }) }
    | .ok (s1, bytes, lost) =>
      let s2 := s1.modTask t (fun x => x.setSlot b
        { x.slot b with state := 2, fb := false, taint := (x.slot b).taint || lost, bytes := bytes })
      let s3 := onHead s2 t q (fun e => { e with progress := 1, wait := none })
      let s4 := if lost then absorbError s3 t else s3
      if mayStart (s4.task t) then mspgoTile s4 t q { e with progress := 1 } fn f else s4

/-- A started MSPGO goes on: with its gather, which a freeze or a switch-out lets run, or with its tile step. -/
def mspgoGoOn (s : State) (t q : Nat) (e : Entry) (fn : BitVec 6) (f : EC) : State :=
  let x := s.task t
  if e.progress = 0 then (if x.core?.isSome && !x.ended then mspgoGather s t q e fn f else s)
  else if mayStart x then mspgoTile s t q e fn f else s

/-- MGO at step 10: the checks of R306 and R326, made for an empty nest too. -/
def startMgo (s : State) (t q : Nat) (e : Entry) (fn : BitVec 6) : State :=
  let tab := e.cap.table
  match mgoBadField tab (matMf fn.toNat e.cap.ft) (fn.getLsbD 5) with
  | some v => faultHead s t q { cause := 18, tval := w64 v } e.progress false
  | none =>
    onHead s t q (fun e => { e with started := true, wait := none, finished := decide (mgoIters tab = 0) })

/-- Steps 9 and 10 of R320 by command. -/
def runMatrix (s : State) (t q : Nat) (e : Entry) : State :=
  let x := s.task t
  match e.cmd with
  | .mclaim f =>
    let n := f.a.toNat % 32
    if !mayClaim x q e n then headWait s t q { kind := 5, object := n }
    else
      let err := e.err || (x.slot n).taint
      let s1 := noteErr (s.modTask t (fun x => x.setSlot n { x.slot n with state := 1, fb := false })) t q (x.slot n).taint
      finishHead (noteMestat s1 t { e with err := err }) t q e err
  | .mrel f =>
    let n := f.a.toNat % 32
    match releaseSlot (x.slot n) with
    | none => faultHead s t q { cause := 17, tval := w64 n } 0 false
    | some y =>
      let err := e.err || (y.state == 3 && y.taint)
      finishHead (noteMestat (s.modTask t (fun x => x.setSlot n y)) t { e with err := err }) t q e err
  | .mstat _ => startMstat s t q e
  | .mzero f => startedDone (s.modTask t (fun x => x.setBank (f.c.toNat % 4) {})) t q []
  | .mtile fn f => startMtile s t q e fn f
  | .mdrain fn f => startMdrain s t q e fn f
  | .mldacc fn f => startMldacc s t q e fn f
  | .mspgo fn f => startMspgo s t q e fn f
  | .mgo fn _ => startMgo s t q e fn
  | _ => s

/-- The first tile step of an MGO waits at step 9 until its slots are READY, before the checks of step 10; a ring without
length names no slots, and an empty nest has no step. -/
def mgoSlotsWait (t : Task) (e : Entry) : Option Nat :=
  match e.cmd with
  | .mgo fn _ =>
    let q8 := fn.getLsbD 5
    if (tabRing e.cap.table).2.1 == 0 || mgoIters e.cap.table == 0 then none
    else
      match mgoAction e.cap.table e.progress with
      | .tile i => let (a, b) := mgoSlots e.cap.table i; notReadySlot t ((slotsOf q8 a b).filter (· < 32))
      | .drain _ _ => none
  | _ => none

/-- R320, steps 7 to 10: the head of queue 1 or 2 starts, waits, faults or completes at once. -/
def execMatrixCommandStart (s : State) : Host.Outcome State Fault Refusal :=
  let t := s.sel.task
  let q := s.sel.queue
  let x := s.task t
  match x.queue q with
  | [] => .next s
  | e :: _ =>
    if !s.hasTask t || !mayStart x || (q != 1 && q != 2) || e.started then
      (match e.cmd with
        | .mspgo fn f =>
          if s.hasTask t && (q == 1 || q == 2) && e.started && !e.finished then .next (mspgoGoOn s t q e fn f)
          else .next s
        | _ => .next s)
    else if e.finished then .next (finishHead s t q e (e.skip || e.err))
    else
      match matrixOrder x e with
      | some w => .next (headWait s t q w)
      | none =>
        match takeWt s t q e with
        | (s1, .wait) => .next s1
        | (s1, .skip) => .next (finishHead s1 t q e true)
        | (s1, .go) =>
          match mgoSlotsWait x e with
          | some n => .next (headWait s1 t q { kind := 5, object := n, amount := 2 })
          | none => if pushReleased x e then .next (runMatrix s1 t q { e with tookWt := true }) else .next s1

/-! ### MGO_ACTION (R307, R308) -/

/-- The action just run is counted; after the last one only the completion is left. -/
def countAction (s : State) (t q : Nat) (tab : SMap (BitVec 32)) : State :=
  onHead s t q (fun e => { e with
    progress := e.progress + 1, wait := none, walkFault := none, finished := decide (mgoActions tab ≤ e.progress + 1) })

/-- The bank of iteration i: the even bank of the pair in exact-window mode (R307). -/
def mgoStepBank (e : Entry) (fn : BitVec 6) (f : EC) (i : Nat) : Nat :=
  let c := f.c.toNat % 4
  if matXw fn.toNat e.cap.ft then c / 2 * 2 else mgoBank e.cap.table i c

/-- A tile-step action. -/
def mgoTile (s : State) (t q : Nat) (e : Entry) (fn : BitVec 6) (f : EC) (i : Nat) : State :=
  let tab := e.cap.table
  let (a, b) := mgoSlots tab i
  let mf := matMf fn.toNat e.cap.ft
  let q8 := fn.getLsbD 5
  match notReadySlot (s.task t) (slotsOf q8 a b) with
  | some n => headWait s t q { kind := 5, object := n, amount := 2 }
  | none =>
    let (pa, pb) := mgoScales tab i
    match tileScales s t q e mf q8 (wordOfInt pa) (wordOfInt pb) with
    | .error x => engStopped s t q e.progress x
    | .ok (s1, sc) =>
      let (ra, rb) := mgoReleases tab i
      let uses := usesOf q8 a b ra rb
      countAction (endUses (runTiles (startUses s1 t uses) t q e mf (matXw fn.toNat e.cap.ft) (mgoStepBank e fn f i) a b sc)
        t uses) t q tab

/-- A drain action. A drain outside the backed scratchpad faults with TVAL its base, as an MDRAIN does (DESIGN CHOICE, log
entry 116). -/
def mgoDrain (s : State) (t q : Nat) (e : Entry) (fn : BitVec 6) (f : EC) (i level : Nat) : State :=
  let tab := e.cap.table
  let o := tabField tab 0 11
  let d : DrainFmt := { oet := o % 16, rm := bitsOf o 4 3, sat := bitOf o 7, xw := matXw fn.toNat e.cap.ft, anch := matAnchor e }
  let size := oetSize d.oet
  let pitch := tabField tab 0 10
  let base := wordOfInt (mgoDrainBase tab i)
  if !ownRange s t e.cap.her base (127 * pitch + 128 * size) then
    faultHead s t q { cause := 9, tval := base } e.progress false
  else
    match runDrain s t q e d (mgoStepBank e fn f i) base (w64 pitch) (bitOf (tabField tab level 7) 1) with
    | .error x => engStopped s t q e.progress x
    | .ok s1 => countAction s1 t q tab

/-- R307, R308: the next action of a started MGO; each is a command for the freeze and for a switch-out. -/
def execMgoAction (s : State) : Host.Outcome State Fault Refusal :=
  let t := s.sel.task
  let q := s.sel.queue
  let x := s.task t
  match x.queue q with
  | [] => .next s
  | e :: _ =>
    if !s.hasTask t || !mayStart x || (q != 1 && q != 2) || !e.started || e.finished then .next s
    else
      match e.cmd with
      | .mgo fn f =>
        (match mgoAction e.cap.table e.progress with
          | .tile i => .next (mgoTile s t q e fn f i)
          | .drain i l => .next (mgoDrain s t q e fn f i l))
      | _ => .next s

/-! ### MATRIX_COMMAND_COMPLETE -/

/-- RESUME of a command that holds only its signal: all actions of an MGO, 1 of an MSPGO (R319). -/
def doneProgress (e : Entry) : Nat := e.progress

/-- A slot that the command's tile steps use, or its bank, has become tainted since its start; the command completes so
(R315). -/
def lateTaint (t : Task) (e : Entry) : Bool :=
  e.uses.any (fun u => (t.slot u.1).taint) || (matBanks e.cmd e.cap.ft e.cap.table).any (fun b => (t.bank b).taint)

/-- A command completes: the banks of a step on a slot that is tainted by now are tainted, and its uses end. -/
def endWork (s : State) (t q : Nat) (e : Entry) : State :=
  let s1 := if e.uses.any (fun u => ((s.task t).slot u.1).taint) then
      s.modTask t (fun x => (matBanks e.cmd e.cap.ft e.cap.table).foldl (fun x b => x.setBank b { x.bank b with taint := true }) x)
    else s
  let late := lateTaint (s.task t) e
  endUses (noteMestat (noteErr s1 t q (late && !e.err)) t { e with err := e.err || late }) t e.uses

/-- R320, step 11: uses end, an enabled flag traps with the signal held (R313), else the command signals. -/
def execMatrixCommandComplete (s : State) : Host.Outcome State Fault Refusal :=
  let t := s.sel.task
  let q := s.sel.queue
  match (s.task t).queue q with
  | [] => .next s
  | e :: _ =>
    if !s.hasTask t || (q != 1 && q != 2) || !e.started || !e.finished then .next s
    else
      let s1 := onHead (endWork s t q e) t q (fun e => { e with uses := [] })
      match enabledTrap (e.cap.vctl.getLsbD 1) (e.cap.vctl.getLsbD 2) e.firstInvalid e.firstXw with
      | some tr => .next (faultHead s1 t q tr (doneProgress e) true)
      | none => .next (finishHead s1 t q e (e.err || e.skip || lateTaint (s.task t) e))

end Sys2Proof.Machine
end

