-- ==== Sys2Proof/Machine/CopyPush.lean ====
section
/-!
DEFINITION. Copy and gather instructions at the strand: steps 1 to 5 of the frame (R340, R341), the gather descriptor
(R347) and the footprints of deterministic launches (R361).
-/
namespace Sys2Proof.Machine

/-- Registers A, B, C, C + 1 and C + 2 as far as a command reads them (R341). -/
def copyRegs (i : Instr) : List (Option Reg) :=
  let c := fun (f : EC) (n : Reg) => some (f.c + n)
  match i with
  | .cpy n f => [some f.a, some f.b, some f.c, if n then c f 1 else none, none]
  | .cpy2d n f => [some f.a, some f.b, some f.c, c f 1, if n then c f 2 else none]
  | .cpyslot f | .cpyslotClaim f | .cpyslotOut f => [none, some f.b, some f.c, none, none]
  | .fill f => [some f.a, some f.b, some f.c, none, none]
  | .grow _ f | .gbag _ _ f | .gscat _ f => [some f.a, some f.b, none, none, none]
  | _ => [none, none, none, none, none]

/-- E of a copy command names its channel; gather commands go to the GE. -/
def copyQueue (i : Instr) : Nat :=
  match i with
  | .cpy _ f | .cpy2d _ f | .flush _ f => 3 + f.e.toNat
  | .cpyslot f | .cpyslotClaim f | .cpyslotOut f | .fill f => 3 + f.e.toNat
  | _ => 7

/-! ### Gather descriptors (R347) -/

/-- Fields of a descriptor. -/
structure Gather where
  table : Word := 0
  tpitch : Nat := 0
  trows : Nat := 0
  idx : Nat := 0
  nidx : Nat := 0
  offs : Nat := 0
  nbag : Nat := 0
  relem : Nat := 0
  otype : Nat := 0
  flags : Nat := 0
  lpitch : Nat := 0
  zero : Nat := 0
deriving DecidableEq, Repr, Inhabited

/-- A descriptor from its 64 bytes as a number. -/
def gatherOf (d : Nat) : Gather :=
  { table := w64 (bitsOf d 0 64), tpitch := bitsOf d 64 32, trows := bitsOf d 96 32, idx := bitsOf d 128 32,
    nidx := bitsOf d 160 32, offs := bitsOf d 192 32, nbag := bitsOf d 224 32, relem := bitsOf d 256 16,
    otype := bitsOf d 272 8, flags := bitsOf d 280 8, lpitch := bitsOf d 288 32, zero := bitsOf d 320 192 }

/-- Row type of a gather command, and whether it is a GBAG. -/
def gatherType (i : Instr) : Nat × Bool :=
  match i with
  | .grow et _ => (et.toNat, false)
  | .gbag et _ _ => (et.toNat, true)
  | .gscat et _ => (et.toNat, false)
  | _ => (0, false)

/-- Bytes of a table row. -/
def rowSize (et relem : Nat) : Nat :=
  if isBlock et then relem / blockElems et * blockBytes et else relem * typeBytes et

/-- Bytes of a local row. -/
def localSize (i : Instr) (g : Gather) : Nat :=
  let (et, bag) := gatherType i
  if bag then g.relem * typeBytes (g.otype % 16) else rowSize et g.relem

/-- Bytes between local rows. -/
def localPitch (i : Instr) (g : Gather) : Nat := if g.lpitch = 0 then localSize i g else g.lpitch

/-- The first field that step 9 refuses, as its fault, in the order of the fields; of bytes 40 to 63 the value is the OR of
the three words (DESIGN CHOICE, log entry 119). -/
def gatherBad (i : Instr) (g : Gather) : Option Trap :=
  let (et, bag) := gatherType i
  let fault := fun (v : Nat) => some ({ cause := 18, tval := w64 v } : Trap)
  let unit := if isBlock et then 1 else typeBytes et
  if g.tpitch % unit ≠ 0 then fault g.tpitch
  else if g.idx % 4 ≠ 0 then some { cause := 6, tval := w64 g.idx }
  else if bag && g.offs % 4 != 0 then some { cause := 6, tval := w64 g.offs }
  else if !bag && g.offs != 0 then fault g.offs
  else if !bag && g.nbag != 0 then fault g.nbag
  else if g.relem = 0 ∨ 1024 < g.relem ∨ (isBlock et ∧ g.relem % blockElems et ≠ 0) ∨ 1024 < rowSize et g.relem then
    fault g.relem
  else if bag && (g.otype < 4 || 8 < g.otype) then fault g.otype
  else if !bag && g.otype != 0 then fault g.otype
  else if 1 < g.flags then fault g.flags
  else if g.lpitch ≠ 0 ∧ g.lpitch < localSize i g then fault g.lpitch
  else if g.zero ≠ 0 then fault (g.zero % 2 ^ 64 ||| g.zero / 2 ^ 64 % 2 ^ 64 ||| g.zero / 2 ^ 128)
  else none

/-- Step 3: the descriptor, read as a class-15 load from the own scratchpad that counts as an ordinary read (R340). -/
def readDescriptor (va : Word) : M Nat := do
  let s ← getS
  let st ← curStrand
  if va.toNat % 64 ≠ 0 then trapM 6 va
  if !ownRange s s.sel.task st.r.her va 64 then trapM 9 va
  classGate
  let ws ← readWords va 0 8
  pure (packFields (ws.map (fun x => (x, 64))))

/-! ### Footprints (R361) -/

/-- Rows of `len` bytes from an address, its own peer window folded. -/
def footRows (s : State) (t : Nat) (va : Word) (len pitch rows : Nat) (w : Bool) : Foot :=
  { base := (foldVa s t va).toNat, len := len, pitch := pitch, rows := rows, write := w }

/-- A range from an address. -/
def footRange (s : State) (t : Nat) (va : Word) (n : Nat) (w : Bool) : Foot := footRows s t va n 0 1 w

/-- The bounding range of rows at a signed pitch. -/
def boundRange (s : State) (t : Nat) (base : Word) (pitch : Int) (rlen rows : Nat) (w : Bool) : Foot :=
  let span := pitch * ((rows : Int) - 1)
  if rlen = 0 ∨ rows = 0 then footRange s t base 0 w
  else footRange s t (base + wordOfInt (min 0 span)) (rlen + span.natAbs) w

/-- RLEN, NROWS, SPITCH and DPITCH of CPY2D (R343). -/
def copyExtent (c c1 : Word) : Nat × Nat × Int × Int :=
  (bitsOf c.toNat 0 24, bitsOf c.toNat 24 24, sintOf 32 (bitsOf c1.toNat 0 32), sintOf 32 (bitsOf c1.toNat 32 32))

/-- Line pitch of CPYSLOT. -/
def linePitch (c : Word) : Word := if c = 0 then 256 else c

/-- Read and write ranges of a command: of CPY2D those that bound its rows, of the others the lines and rows themselves. -/
def footprintOf (s : State) (t : Nat) (i : Instr) (cap : Captured) : List Foot :=
  let r := footRange s t
  let g := gatherOf cap.desc
  let lists := [r (w64 g.idx) (4 * g.nidx) false, r (w64 g.offs) (4 * (if g.nbag = 0 then 0 else g.nbag + 1)) false]
  let table := r g.table (g.trows * g.tpitch)
  let rows := fun (n : Nat) => footRows s t cap.a (localSize i g) (localPitch i g) n
  let lines := footRows s t cap.b 256 (linePitch cap.c).toNat 128
  match i with
  | .cpy _ _ => [r cap.b cap.c.toNat false, r cap.a cap.c.toNat true]
  | .fill _ => [r cap.a cap.c.toNat true]
  | .cpy2d _ _ =>
    let (len, n, sp, dp) := copyExtent cap.c cap.c1
    [boundRange s t cap.b sp len n false, boundRange s t cap.a dp len n true]
  | .cpyslot _ | .cpyslotClaim _ => [lines false]
  | .cpyslotOut _ => [lines true]
  | .grow _ _ => lists ++ [table false, rows g.nidx true]
  | .gbag _ _ _ => lists ++ [table false, rows g.nbag true]
  | .gscat _ _ => [r (w64 g.idx) (4 * g.nidx) false, rows g.nidx false, table true]
  | _ => []

/-! ### The push -/

/-- Step 4: slots a CPYSLOT names and claims, and WS. -/
def copyDet (i : Instr) : M Unit := do
  let l ← curLaunch
  if !l.det then pure ()
  else do
    match i with
    | .cpyslot f => ownSlot (f.a.toNat % 32)
    | .cpyslotOut f => ownSlot (f.a.toNat % 32)
    | .cpyslotClaim f => do ownSlot (f.a.toNat % 32); claimSlot (f.a.toNat % 32) (1 + f.e.toNat)
    | _ => pure ()
    let k := linkOf i
    if k.wt ≠ 0 then recordWaiter k.ws (16 + copyQueue i)

/-- Steps 1 to 5 of R340. -/
def pushCopy (i : Instr) : M Next := do
  let g ← (copyRegs i).mapM optReg
  let st ← curStrand
  match i with
  | .cpyslotOut _ => if !st.r.her then illegal i else pure ()
  | _ => pure ()
  let desc ← (match i with
    | .grow _ _ | .gbag _ _ _ | .gscat _ _ => readDescriptor (g.getD 1 0)
    | _ => pure 0)
  match i with
  | .gbag _ _ _ | .gscat _ _ => csrImplicit 0x0A1
  | _ => pure ()
  copyDet i
  let cap : Captured := { a := g.getD 0 0, b := g.getD 1 0, c := g.getD 2 0, c1 := g.getD 3 0, c2 := g.getD 4 0,
                          desc := desc, her := st.r.her, seq := st.seq, after := st.outs.map (·.id) }
  let s ← getS
  pushEntry (copyQueue i) i cap 0 (footprintOf s s.sel.task i cap)
  pure .fall

/-- R342. -/
def execCpy (notify : Bool) (f : EC) (s : State) : Host.Outcome State Fault Refusal :=
  strandStep (.cpy notify f) (pushCopy (.cpy notify f)) s

/-- R343. -/
def execCpy2d (notify : Bool) (f : EC) (s : State) : Host.Outcome State Fault Refusal :=
  strandStep (.cpy2d notify f) (pushCopy (.cpy2d notify f)) s

/-- R344, plain fill. -/
def execCpyslot (f : EC) (s : State) : Host.Outcome State Fault Refusal :=
  strandStep (.cpyslot f) (pushCopy (.cpyslot f)) s

/-- R344, claiming fill. -/
def execCpyslotClaim (f : EC) (s : State) : Host.Outcome State Fault Refusal :=
  strandStep (.cpyslotClaim f) (pushCopy (.cpyslotClaim f)) s

/-- R344, out. -/
def execCpyslotOut (f : EC) (s : State) : Host.Outcome State Fault Refusal :=
  strandStep (.cpyslotOut f) (pushCopy (.cpyslotOut f)) s

/-- R345. -/
def execFill (f : EC) (s : State) : Host.Outcome State Fault Refusal :=
  strandStep (.fill f) (pushCopy (.fill f)) s

/-- R346. -/
def execFlush (scope : BitVec 3) (f : EC) (s : State) : Host.Outcome State Fault Refusal :=
  strandStep (.flush scope f) (pushCopy (.flush scope f)) s

/-- R348. -/
def execGrow (et : BitVec 4) (f : EC) (s : State) : Host.Outcome State Fault Refusal :=
  strandStep (.grow et f) (pushCopy (.grow et f)) s

/-- R349. -/
def execGbag (et : BitVec 4) (rm : BitVec 2) (f : EC) (s : State) : Host.Outcome State Fault Refusal :=
  strandStep (.gbag et rm f) (pushCopy (.gbag et rm f)) s

/-- R350. -/
def execGscat (et : BitVec 4) (f : EC) (s : State) : Host.Outcome State Fault Refusal :=
  strandStep (.gscat et f) (pushCopy (.gscat et f)) s

end Sys2Proof.Machine
end

