-- ==== Sys2Proof/Machine/CopyExec.lean ====
section
/-!
DEFINITION. The copy and gather engines at work: COPY_GATHER_COMMAND_START, GATHER_UNIT and COPY_GATHER_COMMAND_COMPLETE
(R338, R340, R342 to R346, R348 to R352, R354 to R358, R361).
-/
namespace Sys2Proof.Machine

/-! ### GECC (R356) -/

/-- Record an error: IDX and KIND when none is recorded, else MORE. -/
def noteGecc (s : State) (t strand kind idx : Nat) : State :=
  s.modTask t (fun x => raiseFlags x strand .gecc (idx % 2 ^ 32 + 2 ^ 32 * kind))

/-- GECC bits of the flags of R36. -/
def geccFlags (fl : Nat) : Nat :=
  2 ^ 40 * b2n (bitOf fl 0) + 2 ^ 41 * b2n (bitOf fl 2) + 2 ^ 42 * b2n (bitOf fl 3) + 2 ^ 43 * b2n (bitOf fl 4)

/-- The command has met an error of R354 or R355. -/
def copyError (s : State) (t q strand kind idx : Nat) : State :=
  absorbError (onHead (noteGecc s t strand kind idx) t q (fun e => { e with err := true, unitErr := true })) t

/-! ### Copies (R342, R343) -/

/-- Numbers from a and from b, n each, overlap. -/
def spansMeet (a b n : Nat) : Bool := decide (a < b + n ∧ b < a + n)

/-- Two distinct virtual ranges map to the same bytes. -/
def mapsSame (s : State) (t : Nat) (src dst : Word) (n : Nat) : Bool :=
  (!spansMeet src.toNat dst.toNat n && spansMeet (foldVa s t src).toNat (foldVa s t dst).toNat n)
    || (spanPages src n).any (fun p => (spanPages dst n).any (fun r =>
      p != r && (match peekPage s t p, peekPage s t r with
        | some a, some b => a.pa == b.pa
        | _, _ => false)))

/-- How a copy of one range proceeds. -/
inductive CopyOrder where
  | up
  | down
  /-- ascending, each 64-byte piece read once the one before it has been written -/
  | pieces
deriving DecidableEq, Repr, Inhabited

/-- The order of a copy of one range, judged when it starts (R342). -/
def copyOrder (s : State) (t : Nat) (src dst : Word) (n : Nat) : CopyOrder :=
  let tso := touchesTso s t src n || touchesTso s t dst n
  if src.toNat < dst.toNat ∧ dst.toNat < src.toNat + n ∧ !tso then .down
  else if (tso && spansMeet src.toNat dst.toNat n) || mapsSame s t src dst n then .pieces
  else .up

/-- An order as the queue entry keeps it. -/
def CopyOrder.code : CopyOrder → Nat
  | .up => 0
  | .down => 1
  | .pieces => 2

def orderOf (n : Nat) : CopyOrder :=
  match n % 4 with
  | 0 => .up
  | 1 => .down
  | _ => .pieces

/-- The next bytes of a copy after `p`: offset and length, at most one destination word, or one piece. -/
def copyChunk (o : CopyOrder) (dst : Word) (n p : Nat) : Nat × Nat :=
  match o with
  | .up => (p, min (8 - (dst.toNat + p) % 8) (n - p))
  | .pieces => (p, min (64 - p % 64) (n - p))
  | .down =>
    let r := (dst.toNat + (n - p)) % 8
    let k := min (if r = 0 then 8 else r) (n - p)
    (n - p - k, k)

/-- The access of an engine crosses links (R354). -/
def remote (s : State) (t : Nat) (va : Word) : Bool := (homeAt s t va).any (crossesLinks s t)

/-- The link that failed under an access at an address retires a lane (R368). -/
def loseAt (s : State) (t : Nat) (va : Word) : State :=
  match homeAt s t va with
  | some h => loseLink s t h
  | none => s

/-- Note lost source sectors, each once: key 2 of `work` keeps the last one, plus 1; IDX is the sector's offset in the
command, of which `base` bytes lie before the range. -/
def noteLost (t q strand base : Nat) (src : Word) : List Nat → State → State
  | [], s => s
  | a :: r, s =>
    let known := (onHeadGet s t q).any (fun e => SMap.get 0 e.work 2 == a + 1)
    noteLost t q strand base src r
      (if known then s
      else copyError (onHead s t q (fun e => { e with work := SMap.put 2 (a + 1) e.work })) t q strand 5
        (base + (64 * a - src.toNat)))
where
  /-- the head of the queue -/
  onHeadGet (s : State) (t q : Nat) : Option Entry := ((s.task t).queue q).head?

/-- The failed link of the step loses a read, or with `flag` a write (R354, log entry 120). -/
def readLinkFails (s : State) (t : Nat) (va : Word) : Bool := s.sel.hop == .crcBad && !s.sel.flag && remote s t va

def writeLinkFails (s : State) (t : Nat) (va : Word) : Bool := s.sel.hop == .crcBad && s.sel.flag && remote s t va

/-- Read `n` bytes where no link fails. -/
def calmRead (s : State) (t q gran : Nat) (e : Entry) (va : Word) (n : Nat) : Except EngHalt (State × List (Byte × Bool)) :=
  match engRead { s with sel := { s.sel with hop := .good } } t q gran e va n with
  | .error x => .error { x with state := { x.state with sel := s.sel } }
  | .ok (s1, l) => .ok ({ s1 with sel := s.sel }, l)

/-- Write bytes of a FILL, unless the link fails: then nothing arrives and the command has met an error (log entry 120). -/
def linkWrite (s : State) (t q : Nat) (e : Entry) (va : Word) (bs : List Byte) (idx : Nat) : Except EngHalt State :=
  match engWrite s t q e va bs with
  | .error x => .error x
  | .ok s1 => .ok (if writeLinkFails s t va then copyError (loseAt s t va) t q e.strand 5 idx else s1)

/-- Source bytes read at `va`, each lost with its 64-byte sector: an uncorrectable word lies in it, it was lost before, or the
link fails as the command first reaches it, which `fresh` tells. -/
def sourceRead (s : State) (t q : Nat) (e : Entry) (va : Word) (n : Nat) (fresh : Nat → Bool) :
    Except EngHalt (State × List (Byte × Bool)) :=
  match calmRead s t q 64 e va n with
  | .error x => .error x
  | .ok (s1, l) =>
    let lost := fun (a : Nat) => readLinkFails s t va && fresh a
    .ok (if (List.range n).any (fun j => lost ((va + w64 j).toNat / 64)) then loseAt s1 t va else s1,
      l.zipIdx.map (fun (b, j) =>
        let a := (va + w64 j).toNat / 64
        (b.1, b.2 || SMap.get 0 e.work 2 == a + 1 || lost a)))

/-- The sectors of lost bytes read at an address. -/
def lostSectors (va : Word) (l : List (Byte × Bool)) : List Nat :=
  (l.zipIdx.filterMap (fun (b, j) => if b.2 then some ((va + w64 j).toNat / 64) else none)).dedup

/-- Destination bytes of a source sector that a copy of `n` bytes has reached with bytes o to o + k − 1: first and number. -/
def reached (src : Word) (n : Nat) (down : Bool) (o k a : Nat) : Nat × Nat :=
  let lo := 64 * a - src.toNat
  let hi := min n (64 * a + 64 - src.toNat)
  if down then (max lo o, hi - max lo o) else (lo, min hi (o + k) - lo)

/-- Zero the destination bytes of source sectors as far as the copy has come. -/
def zeroSectors (t q : Nat) (e : Entry) (dst src : Word) (n : Nat) (down : Bool) (o k : Nat) :
    List Nat → State → Except EngHalt State
  | [], s => .ok s
  | a :: r, s =>
    let (lo, m) := reached src n down o k a
    match engWrite s t q e (dst + w64 lo) (List.replicate m 0) with
    | .error x => .error x
    | .ok s1 => zeroSectors t q e dst src n down o k r s1

/-- Write what was read at source offset o. Where the link fails nothing of it arrives, and every destination byte of the
source sectors it comes from is zeroed instead, those of bytes that follow as they come (R354). -/
def copyWrite (s : State) (t q : Nat) (e : Entry) (dst src : Word) (n base : Nat) (down : Bool) (o : Nat) (bs : List Byte) :
    Except EngHalt State :=
  if writeLinkFails s t (dst + w64 o) then
    let l := lostSectors (src + w64 o) (bs.map (fun b => (b, true)))
    match zeroSectors t q e dst src n down o bs.length l (loseAt s t (dst + w64 o)) with
    | .error x => .error x
    | .ok s1 => .ok (noteLost t q e.strand base src (if down then l.reverse else l) s1)
  else engWrite s t q e (dst + w64 o) bs

/-- Move bytes o to o + k − 1 of a copy of `n` bytes. A link loses a source sector as the copy first reaches it. -/
def moveBytes (s : State) (t q : Nat) (e : Entry) (dst src : Word) (n base : Nat) (down : Bool) (o k : Nat) :
    Except EngHalt State :=
  let fresh := fun (a : Nat) =>
    if down then o + k = n || decide (64 * a + 64 ≤ src.toNat + o + k) else o = 0 || decide (src.toNat + o ≤ 64 * a)
  match sourceRead s t q e (src + w64 o) k fresh with
  | .error x => .error x
  | .ok (s1, l) =>
    match copyWrite s1 t q e dst src n base down o (plainBytes l) with
    | .error x => .error x
    | .ok s2 =>
      let lost := lostSectors (src + w64 o) l
      .ok (noteLost t q e.strand base src (if down then lost.reverse else lost) s2)

/-- The longest part of `k` bytes or fewer that a piece of work performs, in its order; the fault where none does. -/
def longest (f : Nat → Except EngHalt State) (x : EngHalt) : Nat → Except EngHalt (State × Nat)
  | 0 => .error x
  | k + 1 =>
    match f (k + 1) with
    | .ok s => .ok (s, k + 1)
    | .error _ => longest f x k

/-- Perform `k` bytes, or where they fault the bytes before the fault (R189). -/
def mostOf (f : Nat → Except EngHalt State) (k : Nat) : Except EngHalt (State × Nat) :=
  match f k with
  | .ok s => .ok (s, k)
  | .error x =>
    match x.why with
    | .trap _ => longest f x (k - 1)
    | .logFull _ => longest f x (k - 1)
    | .walk _ _ => .error x
    | .held _ => .error x

/-- Move the next bytes of a copy of `n` bytes of which `p` are done, in the order the copy took. -/
def moveChunk (s : State) (t q : Nat) (e : Entry) (dst src : Word) (n base p : Nat) : Except EngHalt (State × Nat) :=
  let order := orderOf (e.copyOrder.getD 0)
  let (o, k) := copyChunk order dst n p
  let down := order == .down
  mostOf (fun m => moveBytes s t q e dst src n base down (if down then o + (k - m) else o) m) k

/-- Address of row r of a CPY2D. -/
def rowAddr (base : Word) (pitch : Int) (r : Nat) : Word := base + wordOfInt (pitch * (r : Int))

/-- A CPY2D runs its rows in falling order: on a TSO page its addresses rise (R136), and no row meets another (log entry
121). -/
def rowsFall (s : State) (t : Nat) (e : Entry) : Bool :=
  match e.cmd with
  | .cpy2d _ _ =>
    let (len, n, sp, dp) := copyExtent e.cap.c e.cap.c1
    let src := boundRange s t e.cap.b sp len n false
    let dst := boundRange s t e.cap.a dp len n true
    let apart := decide (len ≤ dp.natAbs) && (overlapAt (src.base, src.len) (dst.base, dst.len)).isNone
    apart && (if touchesTso s t (w64 dst.base) dst.len then decide (dp < 0)
      else touchesTso s t (w64 src.base) src.len && decide (sp < 0))
  | _ => false

/-- The row that comes after `p` bytes of a CPY2D. -/
def rowAt (e : Entry) (p : Nat) : Nat :=
  let (len, n, _, _) := copyExtent e.cap.c e.cap.c1
  if 4 ≤ e.copyOrder.getD 0 then n - 1 - p / len else p / len

/-- The order a copy takes: judged as it starts and, within a CPY2D, as each row starts (R342, R343). -/
def takeOrder (s : State) (t : Nat) (e : Entry) : Entry :=
  match e.cmd with
  | .cpy _ _ =>
    { e with copyOrder := some (e.copyOrder.getD (copyOrder s t e.cap.b e.cap.a e.cap.c.toNat).code) }
  | .cpy2d _ _ =>
    let (len, _, sp, dp) := copyExtent e.cap.c e.cap.c1
    if len = 0 then e
    else if e.copyOrder.isSome && e.progress % len != 0 then e
    else
      let fall := match e.copyOrder with
        | some c => decide (4 ≤ c)
        | none => rowsFall s t e
      let r := rowAt { e with copyOrder := some (if fall then 4 else 0) } e.progress
      { e with copyOrder := some ((copyOrder s t (rowAddr e.cap.b sp r) (rowAddr e.cap.a dp r) len).code + if fall then 4 else 0) }
  | _ => e

/-- Fill `k` bytes of a slot from byte p, within one of its 64-byte sectors. A lost source sector loses every slot sector it
reaches as a whole (R344, R354); key 3 of `work` keeps the last slot sector lost, plus 1. -/
def fillBytes (s : State) (t q : Nat) (e : Entry) (slot p k : Nat) : Except EngHalt State :=
  let a := e.cap.b + w64 (p / 256) * linePitch e.cap.c + w64 (p % 256)
  match sourceRead s t q e a k (fun x => p % 256 = 0 || decide (a.toNat ≤ 64 * x)) with
  | .error x => .error x
  | .ok (s1, l) =>
    let before := SMap.get 0 e.work 3 == p / 64 + 1
    let lost := before || anyLost l
    let o := p / 64 * 64
    let s2 := s1.modTask t (fun x =>
      let y := x.slot slot
      x.setSlot slot { y with
        bytes := if lost then writeBytes y.bytes o (List.replicate (p + k - o) 0) else writeBytes y.bytes p (plainBytes l),
        taint := y.taint || lost })
    let s3 := onHead s2 t q (fun e => { e with
      work := (lostSectors a l).foldl (fun w n => SMap.put 2 (n + 1) w) (if lost then SMap.put 3 (p / 64 + 1) e.work else e.work) })
    .ok (if lost && !before then copyError s3 t q e.strand 5 o else s3)

/-- Fill up to the end of the next 64-byte sector of a slot. -/
def fillSector (s : State) (t q : Nat) (e : Entry) (slot p : Nat) : Except EngHalt (State × Nat) :=
  mostOf (fillBytes s t q e slot p) (64 - p % 64)

/-- Write the next 64 bytes of a slot out. -/
def outSector (s : State) (t q : Nat) (e : Entry) (slot p : Nat) : Except EngHalt (State × Nat) :=
  let a := e.cap.b + w64 (p / 256) * linePitch e.cap.c + w64 (p % 256)
  mostOf (fun k => engWrite s t q e a (readBytes ((s.task t).slot slot).bytes p k)) (64 - p % 64)

/-- FILL: the next destination word (R345). -/
def fillChunk (s : State) (t q : Nat) (e : Entry) (p : Nat) : Except EngHalt (State × Nat) :=
  let a := (e.cap.a + w64 p).toNat
  let k := min (8 - a % 8) (e.cap.c.toNat - p)
  match linkWrite s t q e (w64 a) ((bytesOf e.cap.b.toNat 8).drop (a % 8) |>.take k) (p / 64 * 64) with
  | .error x => .error x
  | .ok s1 => .ok (s1, k)

/-- Bytes a copy command moves. -/
def copyTotal (e : Entry) : Nat :=
  match e.cmd with
  | .cpy _ _ => e.cap.c.toNat
  | .fill _ => e.cap.c.toNat
  | .cpy2d _ _ => let (len, n, _, _) := copyExtent e.cap.c e.cap.c1; len * n
  | .cpyslot _ | .cpyslotClaim _ | .cpyslotOut _ => 32768
  | _ => 0

/-- The next chunk of a copy command. -/
def copyStep (s : State) (t q : Nat) (e : Entry) : Except EngHalt (State × Nat) :=
  let p := e.progress
  match e.cmd with
  | .cpy _ _ => moveChunk s t q e e.cap.a e.cap.b e.cap.c.toNat 0 p
  | .cpy2d _ _ =>
    let (len, _, sp, dp) := copyExtent e.cap.c e.cap.c1
    let r := rowAt e p
    moveChunk s t q e (rowAddr e.cap.a dp r) (rowAddr e.cap.b sp r) len (r * len) (p % len)
  | .cpyslot f => fillSector s t q e (f.a.toNat % 32) p
  | .cpyslotClaim f => fillSector s t q e (f.a.toNat % 32) p
  | .cpyslotOut f => outSector s t q e (f.a.toNat % 32) p
  | .fill _ => fillChunk s t q e p
  | _ => .ok (s, 0)

/-- The slot of a completed fill becomes READY (R300, R344). -/
def fillDone (s : State) (t : Nat) (i : Instr) : State :=
  match i with
  | .cpyslot f | .cpyslotClaim f =>
    s.modTask t (fun x => let n := f.a.toNat % 32; x.setSlot n { x.slot n with state := 2, fb := false })
  | _ => s

/-- Perform up to `n` chunks of the head, until it has finished or stops. -/
def copyUnits (t q : Nat) : Nat → State → State
  | 0, s => s
  | n + 1, s =>
    match (s.task t).queue q with
    | [] => s
    | e :: _ =>
      if e.finished then s
      else if copyTotal e ≤ e.progress then fillDone (onHead s t q (fun e => { e with finished := true })) t e.cmd
      else
        let e1 := takeOrder s t e
        let s0 := onHead s t q (fun _ => e1)
        match copyStep s0 t q e1 with
        | .error x => engStopped s0 t q e.progress x
        | .ok (s1, k) =>
          copyUnits t q n (onHead s1 t q (fun e => { e with progress := e.progress + k, wait := none, walkFault := none }))

/-! ### Notify (R342) -/

/-- The captured notify address. -/
def notifyAddr (e : Entry) : Option Word :=
  match e.cmd with
  | .cpy n _ => if n then some e.cap.c1 else none
  | .cpy2d n _ => if n then some e.cap.c2 else none
  | _ => none

/-- Step 7: the address names a semaphore word of the launch. -/
def notifyBad (s : State) (t : Nat) (e : Entry) : Option Trap :=
  match notifyAddr e with
  | none => none
  | some a =>
    if a.toNat % 4 ≠ 0 then some { cause := 6, tval := a }
    else
      match spadTarget s t a with
      | some (_, off) => if isSemAddr off then none else some { cause := 9, tval := a }
      | none => some { cause := 9, tval := a }

/-- Send the remote signal, when the pair has agreed on it: at once to the own task, else as a request whose acknowledgement
is awaited (R393). An address that is no semaphore word, of a command that TRET completes, gets none (DESIGN CHOICE, log
entry 146). -/
def sendNotify (s : State) (t q : Nat) (e : Entry) (a : Word) : State :=
  match (if a.toNat % 4 = 0 then (spadTarget s t a).filter (fun p => isSemAddr p.2) else none) with
  | none => onHead s t q (fun e => { e with notified := true })
  | some (p, off) => compareSend s t e (fun s =>
    let err := e.err || e.skip
    if p = t then onHead (signalSem s t ((off - 0x700000) / 4) 1 err) t q (fun e => { e with notified := true })
    else
      let who : Party := { task := t, strand := e.strand, queue := some q, pc := e.pc }
      let acc : Acc := { who, home := .spad p, addr := off, va := a, size := 4, cls := 0, nr := true, op := .signal 1 err }
      let id := s.nextMsg
      onHead (sendReq s acc (.acc who id) (dieStation (s.task t).die) (taskSource s t)) t q
        (fun e => { e with notify := some id }))

/-! ### Start checks (steps 9 and 10) -/

/-- The values R342 to R345 and R347 refuse. -/
def copyBad (s : State) (t : Nat) (e : Entry) : Option Trap :=
  let fault := fun (v : Word) => some ({ cause := 18, tval := v } : Trap)
  let long := fun (v : Word) => if 2 ^ 40 ≤ v.toNat then fault v else none
  match e.cmd with
  | .cpy _ _ => long e.cap.c
  | .fill _ => long e.cap.c
  | .cpy2d _ _ => if 2 ^ 48 ≤ e.cap.c.toNat then fault e.cap.c else none
  | .cpyslot _ => if 2 ^ 32 ≤ e.cap.c.toNat then fault e.cap.c else none
  | .cpyslotClaim _ => if 2 ^ 32 ≤ e.cap.c.toNat then fault e.cap.c else none
  | .cpyslotOut _ =>
    if 2 ^ 32 ≤ e.cap.c.toNat then fault e.cap.c
    else if outRange s t e then none else some { cause := 9, tval := e.cap.b }
  | .grow _ _ => gatherBad e.cmd (gatherOf e.cap.desc)
  | .gbag _ _ _ => gatherBad e.cmd (gatherOf e.cap.desc)
  | .gscat _ _ => gatherBad e.cmd (gatherOf e.cap.desc)
  | _ => none
where
  /-- the destination range of the out form lies in the heritage working region -/
  outRange (s : State) (t : Nat) (e : Entry) : Bool :=
    match spadTarget s t e.cap.b with
    | some (p, off) => p == t && decide (e.cap.b.toNat < 0x800000) && decide (0x600000 ≤ off)
        && decide (off + 127 * (linePitch e.cap.c).toNat + 256 ≤ 0x700000)
    | none => false

/-- The slot condition of R344: a trap, a wait, or the slot as the command takes it. -/
def slotCondition (t : Task) (q : Nat) (e : Entry) : Except (Trap ⊕ Wait) (Option (Nat × Slot)) :=
  match e.cmd with
  | .cpyslot f =>
    let n := f.a.toNat % 32
    let x := t.slot n
    if x.state = 1 ∧ !x.fb then .ok (some (n, { x with fb := true })) else .error (.inl { cause := 17, tval := w64 n })
  | .cpyslotClaim f =>
    let n := f.a.toNat % 32
    let x := t.slot n
    if mayClaim t q e n then .ok (some (n, { x with state := 1, fb := true })) else .error (.inr { kind := 5, object := n })
  | .cpyslotOut f =>
    let n := f.a.toNat % 32
    let x := t.slot n
    if x.state = 1 ∧ x.fb then .error (.inl { cause := 17, tval := w64 n }) else .ok none
  | _ => .ok none

/-- Steps 9 and 10: checks, the slot, then the command has started. -/
def startCopy (s : State) (t q : Nat) (e : Entry) : State :=
  let begin_ := fun (s : State) => onHead s t q (fun e => takeOrder s t { e with started := true, wait := none })
  if e.progress ≠ 0 || !e.uses.isEmpty then begin_ s
  else
    match copyBad s t e with
    | some tr => faultHead s t q tr 0 false
    | none =>
      match slotCondition (s.task t) q e with
      | .error (.inl tr) => faultHead s t q tr 0 false
      | .error (.inr w) => headWait s t q w
      | .ok none =>
        match e.cmd with
        | .flush scope _ =>
          let s1 := if scope = 5 then drainHost s (s.launchOf t).fn else s
          onHead s1 t q (fun e => { e with started := true, wait := none, finished := true })
        | _ => begin_ s
      | .ok (some (n, x)) =>
        begin_ (onHead (s.modTask t (fun y => y.setSlot n x)) t q (fun e => { e with uses := [(n, false)] }))

/-- R361: the first byte at which the head meets an earlier unfinished command of its strand. -/
def footBlocks (s : State) (t : Nat) (e : Entry) : Option Nat :=
  if (s.launchOf t).det then
    leastOf (e.footprint.filterMap (fun f =>
      footHit ((footEntries (s.task t) e.strand).filter (fun o => o.serial < e.serial)) f.ranges f.write))
  else none

/-- The GE works on an MSPGO's gather while that command is between its gather and its end (R330). -/
def isGather (i : Instr) : Bool :=
  match i with
  | .grow _ _ => true
  | .gbag _ _ _ => true
  | .gscat _ _ => true
  | _ => false

/-- R340, steps 7 to 10: the head of one of the queues 3 to 7 starts, waits, faults or has only its signals left. With
a count, that many chunks of a copy are made too. The GE starts none while it gathers for an MSPGO (R330). -/
def execCopyGatherCommandStart (s : State) : Host.Outcome State Fault Refusal :=
  let t := s.sel.task
  let q := s.sel.queue
  let x := s.task t
  match x.queue q with
  | [] => .next s
  | e :: _ =>
    if !s.hasTask t || !mayStart x || q < 3 || 7 < q || e.started || (q == 7 && gathers x) then .next s
    else if e.finished then .next (onHead s t q (fun e => { e with started := true, wait := none }))
    else
      match (if e.tookWt then none else notifyBad s t e) with
      | some tr => .next (faultHead s t q tr 0 false)
      | none =>
        match footBlocks s t e with
        | some b => .next (headWait s t q { kind := 11, object := b % 2 ^ 48 })
        | none =>
          match takeWt s t q e with
          | (s1, .wait) => .next s1
          | (s1, .skip) => .next (onHead s1 t q (fun e => { e with started := true, finished := true, wait := none }))
          | (s1, .go) =>
            if !pushReleased x e then .next s1
            else
              let s2 := startCopy s1 t q { e with tookWt := true }
              .next (if ((s2.task t).queue q).head?.any (·.started) then copyUnits t q s.sel.count s2 else s2)

/-! ### Gather units (R347 to R352) -/

/-- Read a 32-bit number of the own scratchpad: value, and whether its word is lost. -/
def readIndex (s : State) (t q : Nat) (e : Entry) (off : Nat) : Except EngHalt (State × Nat × Bool) :=
  match engRead s t q 8 e (w64 off) 4 with
  | .error x => .error x
  | .ok (s1, l) => .ok (s1, leNat (plainBytes l), anyLost l)

/-- Read `n` bytes: zeros and a mark when any of them is lost. -/
def readRow (s : State) (t q : Nat) (e : Entry) (a : Word) (n : Nat) : Except EngHalt (State × List Byte × Bool) :=
  match engRead s t q 8 e a n with
  | .error x => .error x
  | .ok (s1, l) => .ok (s1, if anyLost l then List.replicate n 0 else plainBytes l, anyLost l)

/-- Index n of the list, checked against TROWS. -/
def rowIndex (s : State) (t q : Nat) (e : Entry) (g : Gather) (n : Nat) : Except EngHalt (State × Nat × Bool) :=
  match readIndex s t q e (g.idx + 4 * n) with
  | .error x => .error x
  | .ok (s1, v, lost) =>
    if !lost && g.trows ≤ v then engTrap s1 { cause := 18, tval := w64 v }
    else .ok (s1, v, lost)

/-- Address of a table row. -/
def tableRow (g : Gather) (x : Nat) : Word := g.table + w64 (x * g.tpitch)

/-- Address of a local row. -/
def localRow (i : Instr) (e : Entry) (g : Gather) (n : Nat) : Word := e.cap.a + w64 (n * localPitch i g)

/-- Elements of a row in exact form. -/
def rowExact (et relem : Nat) (bs : List Byte) : List Ex :=
  if isBlock et then
    let z := blockBytes et
    (List.range (relem / blockElems et)).flatMap (fun q =>
      let blk := leNat ((bs.drop (q * z)).take z)
      (List.range (blockElems et)).map (fun i => blockElem et blk i))
  else (List.range relem).map (fun i => exOf et (leNat ((bs.drop (i * typeBytes et)).take (typeBytes et))))

/-- Row v of the table as the command reads it: from what it has read of a table on TSO pages, else from memory. -/
def tableBytes (s : State) (t q : Nat) (e : Entry) (g : Gather) (v size : Nat) : Except EngHalt (State × List Byte × Bool) :=
  if SMap.get 0 e.work (16 + v) = 0 then readRow s t q e (tableRow g v) size
  else .ok (s, readBytes e.inbox (v * size) size, SMap.get 0 e.work (16 + v) == 2)

/-- GROW: one index (R348). -/
def growUnit (s : State) (t q : Nat) (e : Entry) (g : Gather) (et n : Nat) : Except EngHalt State :=
  let size := rowSize et g.relem
  match rowIndex s t q e g n with
  | .error x => .error x
  | .ok (s1, v, lost) =>
    if lost then
      match engWrite s1 t q e (localRow e.cmd e g n) (List.replicate size 0) with
      | .error x => .error x
      | .ok s2 => .ok (copyError s2 t q e.strand 2 n)
    else
      match tableBytes s1 t q e g v size with
      | .error x => .error x
      | .ok (s2, bs, bad) =>
        match engWrite s2 t q e (localRow e.cmd e g n) bs with
        | .error x => .error x
        | .ok s3 => .ok (if bad then copyError s3 t q e.strand 1 v else s3)

/-- Add a row to the running FP32 sums of a bag (R50): the first row is taken as it is. -/
def bagAdd (acc : Option (List Nat)) (row : List Ex) : List Nat × Nat :=
  let v := row.map (roundTo fmtFP32 0 false 0)
  let f1 := v.foldl (fun a x => a ||| x.2) 0
  match acc with
  | none => (v.map (·.1), f1)
  | some l =>
    let r := l.zipWith (fun a b =>
      let (x, f) := Ex.add 0 (fmtFP32.decode a) (fmtFP32.decode b.1)
      let (z, h) := roundTo fmtFP32 0 false 0 x
      (z, f ||| h)) v
    (r.map (·.1), r.foldl (fun a x => a ||| x.2) f1)

/-- Rows n to n + k − 1 of a bag added to its sums. -/
def bagRows (t q : Nat) (e : Entry) (g : Gather) (et : Nat) :
    Nat → Nat → State → Option (List Nat) → Nat → Except EngHalt (State × Option (List Nat) × Nat)
  | 0, _, s, acc, fl => .ok (s, acc, fl)
  | k + 1, n, s, acc, fl =>
    let zero := List.replicate g.relem (Ex.ofInt 0)
    match rowIndex s t q e g n with
    | .error x => .error x
    | .ok (s1, v, lost) =>
      if lost then
        let (a, f) := bagAdd acc zero
        bagRows t q e g et k (n + 1) (copyError s1 t q e.strand 2 n) (some a) (fl ||| f)
      else
        match tableBytes s1 t q e g v (rowSize et g.relem) with
        | .error x => .error x
        | .ok (s2, bs, bad) =>
          let (a, f) := bagAdd acc (if bad then zero else rowExact et g.relem bs)
          bagRows t q e g et k (n + 1) (if bad then copyError s2 t q e.strand 1 v else s2) (some a) (fl ||| f)

/-- Flags of a unit: in GECC, with the first unit that raised INVALID. -/
def unitFlags (s : State) (t q : Nat) (e : Entry) (n fl : Nat) : State :=
  if fl = 0 then s
  else onHead (s.modTask t (fun x => raiseFlags x e.strand .gecc (geccFlags fl))) t q (fun e => { e with
    flags := e.flags ||| fl, firstInvalid := lowest e.firstInvalid (if bitOf fl 0 then some n else none) })

/-- GBAG: one bag (R349). -/
def bagUnit (s : State) (t q : Nat) (e : Entry) (g : Gather) (et rm b : Nat) : Except EngHalt State :=
  let ot := g.otype % 16
  let out := fun (s : State) (l : List Nat) => engWrite s t q e (localRow e.cmd e g b) (l.flatMap (fun v => bytesOf v (typeBytes ot)))
  match readIndex s t q e (g.offs + 4 * b) with
  | .error x => .error x
  | .ok (s1, lo, l0) =>
    match readIndex s1 t q e (g.offs + 4 * (b + 1)) with
    | .error x => .error x
    | .ok (s2, hi, l1) =>
      if l0 || l1 then
        match out s2 (List.replicate g.relem 0) with
        | .error x => .error x
        | .ok s3 => .ok (copyError s3 t q e.strand 3 b)
      else if hi < lo ∨ g.nidx < hi then engTrap s2 { cause := 18, tval := w64 (max lo hi) }
      else
        match bagRows t q e g et (hi - lo) lo s2 none 0 with
        | .error x => .error x
        | .ok (s3, acc, fl) =>
          let r := match acc, fmtOf ot with
            | some l, some f => l.map (fun a => roundTo f rm false 0 (fmtFP32.decode a))
            | _, _ => List.replicate g.relem (0, 0)
          match out s3 (r.map (·.1)) with
          | .error x => .error x
          | .ok s4 => .ok (unitFlags s4 t q e b (r.foldl (fun a x => a ||| x.2) fl))

/-- Flags of one element add. -/
def addFlags (et o v : Nat) : Nat :=
  match fmtOf et with
  | some f =>
    let (x, h) := Ex.add 0 (f.decode o) (f.decode v)
    (roundTo f 0 false 0 x).2 ||| h
  | none => 0

/-- Remember the elements of a unit that have been added: key 3 of `work` counts them, key 4 holds the flags they raised. -/
def noteAdds (s : State) (t q m fl : Nat) : State :=
  onHead s t q (fun e => { e with work := SMap.set 0 (SMap.set 0 e.work 3 m) 4 fl })

/-- The element adds of one source row, from element m on: each one event at the table's home (R350). A fault leaves those
made (R189), and a resumed unit goes on behind them (DEDUCED, log entry 72). -/
def scatterRow (t q : Nat) (e : Entry) (et index : Nat) :
    List Nat → State → Word → Nat → Nat → Except EngHalt (State × Nat)
  | [], s, _, _, fl => .ok (s, fl)
  | v :: vs, s, a, m, fl =>
    let n := typeBytes et
    match engAcc s t q e a n .readWrite (.rowAdd et [v]) with
    | .error x => .error ⟨noteAdds s t q m fl, x⟩
    | .ok acc =>
      if homeBad s acc.home acc.addr n || linkFails s t acc.home then
        let s1 := if linkFails s t acc.home then loseLink s t acc.home else s
        scatterRow t q e et index vs (copyError s1 t q e.strand 4 index) (a + w64 n) (m + 1) fl
      else
        let f := addFlags et (homeRead s acc.home acc.addr n) v
        match engPerform s acc with
        | .error x => .error ⟨noteAdds s t q m fl, x⟩
        | .ok (s1, _) => scatterRow t q e et index vs s1 (a + w64 n) (m + 1) (fl ||| f)

/-- GSCAT: one index (R350). -/
def scatterUnit (s : State) (t q : Nat) (e : Entry) (g : Gather) (et n : Nat) : Except EngHalt State :=
  let size := typeBytes et
  match rowIndex s t q e g n with
  | .error x => .error x
  | .ok (s1, v, lost) =>
    if lost then .ok (copyError s1 t q e.strand 2 n)
    else
      match readRow s1 t q e (localRow e.cmd e g n) (size * g.relem) with
      | .error x => .error x
      | .ok (s2, bs, bad) =>
        if bad then .ok (copyError s2 t q e.strand 4 v)
        else
          let m := SMap.get 0 e.work 3
          match scatterRow t q e et v
              (((List.range g.relem).map (fun i => leNat ((bs.drop (i * size)).take size))).drop m) s2
              (tableRow g v + w64 (m * size)) m (SMap.get 0 e.work 4) with
          | .error x => .error x
          | .ok (s3, fl) => .ok (noteAdds (unitFlags s3 t q e n fl) t q 0 0)

/-- Index position or bag of the next unit: in turn, but of a GSCAT on TSO pages in the order of the rows' addresses. -/
def unitAt (e : Entry) : Nat := e.order.getD e.progress e.progress

/-- One unit of a gather command. -/
def gatherUnit (s : State) (t q : Nat) (e : Entry) : Except EngHalt State :=
  let g := gatherOf e.cap.desc
  match e.cmd with
  | .grow et _ => growUnit s t q e g et.toNat (unitAt e)
  | .gbag et rm _ => bagUnit s t q e g et.toNat rm.toNat (unitAt e)
  | .gscat et _ => scatterUnit s t q e g et.toNat (unitAt e)
  | _ => .ok s

/-- Units of a gather command. -/
def gatherTotal (e : Entry) : Nat :=
  let g := gatherOf e.cap.desc
  match e.cmd with
  | .gbag _ _ _ => g.nbag
  | _ => g.nidx

/-- The f0 element of a unit (R351). -/
def unitElement (i : Instr) (n : Nat) (err : Bool) : Word :=
  w64 (n % 2 ^ 32 + 2 ^ 32 * b2n err + 2 ^ 40 * (match i with
    | .grow _ _ => 0x35
    | .gbag _ _ _ => 0x36
    | _ => 0x37))

/-- Saturating 32-bit sum. -/
def satAdd32 (a b : Nat) : Nat := min (a + b) 0xFFFFFFFF

/-- Ranges that unit n of a gather command writes, and those that it reads (R352). -/
def unitWrites (s : State) (t : Nat) (e : Entry) (n : Nat) : List (Nat × Nat) :=
  let g := gatherOf e.cap.desc
  match e.cmd with
  | .gscat et _ => [((foldVa s t (tableRow g (homeRead s (.spad t) (g.idx + 4 * n) 4))).toNat, rowSize et.toNat g.relem)]
  | i => [((foldVa s t (localRow i e g n)).toNat, localSize i g)]

def unitReads (s : State) (t : Nat) (e : Entry) (n : Nat) : List (Nat × Nat) :=
  let g := gatherOf e.cap.desc
  let row := fun (et k : Nat) => ((foldVa s t (tableRow g (homeRead s (.spad t) (g.idx + 4 * k) 4))).toNat, rowSize et g.relem)
  match e.cmd with
  | .grow et _ => [(g.idx + 4 * n, 4), row et.toNat n]
  | .gbag et _ _ =>
    let lo := homeRead s (.spad t) (g.offs + 4 * n) 4
    let hi := min (homeRead s (.spad t) (g.offs + 4 * (n + 1)) 4) g.nidx
    (g.offs + 4 * n, 8) :: (List.range (hi - lo)).flatMap (fun i => [(g.idx + 4 * (lo + i), 4), row et.toNat (lo + i)])
  | i => [(g.idx + 4 * n, 4), ((foldVa s t (localRow i e g n)).toNat, localSize i g)]

/-- Two ranges touch a 64-byte sector in common. -/
def sectorsMeet (x y : Nat × Nat) : Bool :=
  x.2 != 0 && y.2 != 0 && decide (x.1 / 64 ≤ (y.1 + y.2 - 1) / 64) && decide (y.1 / 64 ≤ (x.1 + x.2 - 1) / 64)

/-- The reads of the next unit that meet a sector which one of the 64 units before it wrote, of its command or of an earlier
one, and which may be stalled therefore (R338, R352). -/
def mayStall (s : State) (t : Nat) (e : Entry) : Nat :=
  ((unitReads s t e (unitAt e)).filter (fun r => (s.task t).eng.geWrites.any (fun w => sectorsMeet w r))).length

/-- GLOD counts a stall of `n` cycles (R353). -/
def countStall (s : State) (t n : Nat) : State :=
  s.modTask t (fun x =>
    let g := x.eng.glod.toNat
    { x with eng := { x.eng with glod := w64 (satAdd32 (g % 2 ^ 32) n + 2 ^ 32 * satAdd32 (g / 2 ^ 32) 1) } })

/-- The table's range touches a TSO page, on which the accesses of the command go in ascending address order (R136). -/
def tsoTable (s : State) (t : Nat) (e : Entry) : Bool :=
  let g := gatherOf e.cap.desc
  touchesTso s t (tableRow g 0) (g.trows * g.tpitch)

/-- The table indices at the positions of the list: those that are lost or too high reach no row. -/
def indexList (s : State) (t : Nat) (e : Entry) : List (Nat × Nat) :=
  let g := gatherOf e.cap.desc
  (List.range g.nidx).map (fun n => (n, homeRead s (.spad t) (g.idx + 4 * n) 4))

/-- Read rows of the table, rising. -/
def readTableRows (t q : Nat) (e : Entry) (g : Gather) (size : Nat) : List Nat → State → Except EngHalt State
  | [], s => .ok s
  | v :: r, s =>
    match readRow s t q e (tableRow g v) size with
    | .error x => .error x
    | .ok (s1, bs, bad) =>
      readTableRows t q e g size r (onHead s1 t q (fun e => { e with
        inbox := writeBytes e.inbox (v * size) bs, work := SMap.put (16 + v) (if bad then 2 else 1) e.work }))

/-- Insert a position behind those whose rows lie no higher. -/
def insertRow (x : Nat × Nat) : List (Nat × Nat) → List (Nat × Nat)
  | [] => [x]
  | y :: r => if x.2 < y.2 then x :: y :: r else y :: insertRow x r

/-- The accesses of a gather command on TSO pages go in ascending address order: a GROW or GBAG reads its rows first, once
each, and a GSCAT takes its index positions in the order of their rows (R136; DESIGN CHOICE, log entry 147). -/
def orderTable (s : State) (t q : Nat) (e : Entry) : Except EngHalt State :=
  let g := gatherOf e.cap.desc
  let l := indexList s t e
  let rows := fun (et : Nat) => readTableRows t q e g (rowSize et g.relem)
    (((l.filter (fun x => x.2 < g.trows)).map (·.2)).dedup.mergeSort) s
  match e.cmd with
  | .grow et _ => rows et.toNat
  | .gbag et _ _ => rows et.toNat
  | _ => .ok (onHead s t q (fun e => { e with order := (l.foldl (fun r x => insertRow x r) []).map (·.1) }))

/-- The gather engine's writes of a unit are remembered. -/
def noteWrites (s : State) (t : Nat) (l : List (Nat × Nat)) : State :=
  s.modTask t (fun x => { x with eng := { x.eng with geWrites := (l ++ x.eng.geWrites).take 64 } })

/-- R338, R348 to R352: the GE's next unit; a full f0 holds it, and ends a killed task's remainder. Where an earlier unit
writes a sector that a read of it meets, the run may say that the write is still out: the step is then a stall of as many
cycles, at most one for each such read, which LOD shows until the unit runs. -/
def execGatherUnit (s : State) : Host.Outcome State Fault Refusal :=
  let t := s.sel.task
  let x := s.task t
  match x.queue 7 with
  | [] => .next s
  | e :: _ =>
    let fifo := bitOf (gatherOf e.cap.desc).flags 0
    if !s.hasTask t || !e.started || e.finished || !isGather e.cmd then .next s
    else if gatherTotal e ≤ e.progress then .next (onHead s t 7 (fun e => { e with finished := true, wait := none }))
    else if fifo && decide (64 ≤ x.eng.fifo0.length) then
      if x.killed then .next (popHead s t 7) else .next (headWait s t 7 { kind := 9, object := 0 })
    else if s.sel.size != 0 && decide (SMap.get 0 e.work 5 < mayStall s t e) then
      .next (onHead (countStall s t s.sel.size) t 7 (fun e => { e with
        work := SMap.set 0 (SMap.set 0 e.work 0 1) 5 (SMap.get 0 e.work 5 + 1), wait := none }))
    else if e.progress == 0 && SMap.get 0 e.work 6 == 0 && tsoTable s t e then
      match orderTable s t 7 e with
      | .error y => .next (engStopped s t 7 0 y)
      | .ok s1 => .next (onHead s1 t 7 (fun e => { e with work := SMap.set 0 e.work 6 1, wait := none, walkFault := none }))
    else
      let begun := fun (e : Entry) => { e with
        unitErr := e.unitErr && SMap.get 0 e.work 3 != 0, work := SMap.set 0 (SMap.set 0 e.work 0 0) 5 0 }
      let writes := unitWrites s t e (unitAt e)
      match gatherUnit (onHead s t 7 begun) t 7 e with
      | .error y => .next (engStopped s t 7 e.progress y)
      | .ok s1 =>
        let bad := ((s1.task t).queue 7).head?.any (·.unitErr)
        let s1 := noteWrites s1 t writes
        let s2 := if fifo then s1.modTask t (fun x => (x.setFifo 0 (x.eng.fifo0 ++ [unitElement e.cmd (unitAt e) bad])).wake)
          else s1
        .next (onHead s2 t 7 (fun e => { e with
          progress := e.progress + 1, wait := none, walkFault := none,
          finished := decide (gatherTotal e ≤ e.progress + 1) }))

/-! ### COPY_GATHER_COMMAND_COMPLETE -/

/-- ERR of GECC when a command without any signal met an error (R354, R355). -/
def noteCopyErr (s : State) (t : Nat) (e : Entry) : State :=
  if e.err && (linkOf e.cmd).si = 0 && (notifyAddr e).isNone then
    s.modTask t (fun x => raiseFlags x e.strand .gecc (2 ^ 44))
  else s

/-- Step 11 for a head whose writes have performed: notify and its acknowledgement, the enabled flag trap, the signal. -/
def finishCopy (s : State) (t q : Nat) (e : Entry) : State :=
  match (if e.notified then none else notifyAddr e) with
  | some a =>
    if e.notify.isSome then s
    else
      let s1 := sendNotify s t q e a
      if ((s1.task t).queue q).head?.any (·.notified) then finishHead (noteCopyErr s1 t e) t q e (e.err || e.skip) else s1
  | none =>
    match (if (s.task t).eng.gecc.getLsbD 48 then e.firstInvalid else none) with
    | some n =>
      faultHead (onHead s t q (fun e => { e with firstInvalid := none })) t q { cause := 36, tval := w64 n } e.progress true
    | none => finishHead (noteCopyErr s t e) t q e (e.err || e.skip)

/-- R340, step 11; the chunks a copy has left are made first: all of them, or as many as the step says. -/
def execCopyGatherCommandComplete (s : State) : Host.Outcome State Fault Refusal :=
  let t := s.sel.task
  let q := s.sel.queue
  match (s.task t).queue q with
  | [] => .next s
  | e :: _ =>
    if !s.hasTask t || q < 3 || 7 < q || !e.started then .next s
    else
      let s1 :=
        if e.finished then
          (if e.skip && !e.uses.isEmpty then onHead (fillDone s t e.cmd) t q (fun e => { e with uses := [] }) else s)
        else if isGather e.cmd then
          (if gatherTotal e ≤ e.progress then onHead s t q (fun e => { e with finished := true }) else s)
        else copyUnits t q (if s.sel.count = 0 then copyTotal e - e.progress + 1 else s.sel.count) s
      match (s1.task t).queue q with
      | [] => .next s1
      | e1 :: _ => if e1.started && e1.finished then .next (finishCopy s1 t q e1) else .next s1

end Sys2Proof.Machine
end

