-- ==== Sys2Proof/Machine/Collective.lean ====
section
/-!
DEFINITION. The collective engine: the push and the three steps of an XE command (R377 to R388).
-/
namespace Sys2Proof.Machine

/-! ### The push (R377, steps 1 to 5) -/

/-- Registers A, B, C and C + 1 as far as the command reads them; with NORX, XRED does not read B (R380). -/
def pushCollective (i : Instr) : M Next := do
  let cap : Captured ← (match i with
    | .xstep f => do let a ← rdOut f.a; pure { a }
    | .xsend f | .xrecv f => do let a ← rdOut f.a; let b ← rdOut f.b; let c ← rdOut f.c; pure { a, b, c }
    | .xred f => do
      let a ← rdOut f.a
      let st ← curStrand
      let b ← (if bitOf (st.r.gr f.c.toNat).toNat 47 then pure 0 else rdOut f.b)
      let c ← rdOut f.c
      let c1 ← rdOut (f.c + 1)
      pure { a, b, c, c1 }
    | _ => pure {})
  match i with
  | .xred _ => csrImplicit 0x0A2
  | _ => pure ()
  let k := linkOf i
  if k.wt ≠ 0 then recordWaiter k.ws 24
  let st ← curStrand
  pushEntry 8 i { cap with her := st.r.her, after := st.outs.map (·.id) }
  pure .fall

/-- R379. -/
def execXstep (f : EX) (s : State) : Host.Outcome State Fault Refusal := strandStep (.xstep f) (pushCollective (.xstep f)) s

/-- R379. -/
def execXsend (f : EX) (s : State) : Host.Outcome State Fault Refusal := strandStep (.xsend f) (pushCollective (.xsend f)) s

/-- R379. -/
def execXrecv (f : EX) (s : State) : Host.Outcome State Fault Refusal := strandStep (.xrecv f) (pushCollective (.xrecv f)) s

/-- R380. -/
def execXred (f : EX) (s : State) : Host.Outcome State Fault Refusal := strandStep (.xred f) (pushCollective (.xred f)) s

/-! ### Control words and checks (R379, R380) -/

/-- LEN or COUNT, RSEM, RINC and FIFO of a control word. -/
def ctlLen (w : Word) : Nat := bitsOf w.toNat 0 24

def ctlRsem (w : Word) : Nat := bitsOf w.toNat 24 8

def ctlRinc (w : Word) : Nat := bitsOf w.toNat 32 4

def ctlFifo (w : Word) : Bool := bitOf w.toNat 36

/-- The fields of XRED's control word above FIFO. -/
structure RedCtl where
  et : Nat := 0
  exact : Bool := false
  rm : Nat := 0
  sat : Bool := false
  out : Bool := false
  norx : Bool := false
  anch : Int := 0
deriving DecidableEq, Repr, Inhabited

def redCtl (w : Word) : RedCtl :=
  let n := w.toNat
  { et := bitsOf n 37 4, exact := bitOf n 41, rm := bitsOf n 42 3, sat := bitOf n 45, out := bitOf n 46,
    norx := bitOf n 47, anch := anchorOf (BitVec.ofNat 8 (bitsOf n 48 8)) }

/-- The word breaks a rule of R380. -/
def redBad (w : Word) : Bool :=
  let r := redCtl w
  decide (2 ^ 56 ≤ w.toNat) || decide (4 < r.rm) || (!r.exact && r.out)
    || !(((4 ≤ r.et && r.et ≤ 8) || isBlock r.et || (r.exact && r.et == 3)))
    || (isBlock r.et && ctlLen w % blockElems r.et != 0)

/-- Bytes of `n` elements of a type. -/
def typeSpan (et n : Nat) : Nat := rowSize et n

/-- Bytes and alignment of the local partial, of the received block and of the result. -/
def redLocal (r : RedCtl) (n : Nat) : Nat × Nat := (typeSpan r.et n, if isBlock r.et then 1 else typeBytes r.et)

def redReceived (r : RedCtl) (n : Nat) : Nat × Nat := if r.exact then (16 * n, 16) else redLocal r n

def redResult (r : RedCtl) (n : Nat) : Nat × Nat := if r.exact && !r.out then (16 * n, 16) else redLocal r n

/-- Bytes of one unit of the result: an element, or a block. -/
def redUnit (r : RedCtl) : Nat := if r.exact && !r.out then 16 else elemSize r.et

/-- A range lies in the own window or the peer window of a position of the launch, within the backed scratchpad. -/
def windowRange (s : State) (t : Nat) (va : Word) (n : Nat) : Bool :=
  match spadTarget s t va with
  | some (p, off) => decide (off + n ≤ (s.task p).spsize)
  | none => false

/-- The command writes to its remote side at a slot (R378). -/
def transmits (e : Entry) : Bool :=
  match e.cmd with
  | .xsend _ => true
  | .xrecv _ => true
  | .xred _ => e.cap.c1 != 0
  | _ => false

/-- The address that reaches the remote task. -/
def remoteAddr (e : Entry) : Word :=
  match e.cmd with
  | .xsend _ => e.cap.a
  | .xrecv _ => e.cap.b
  | _ => e.cap.c1

/-- The remote semaphore: task and number, when RINC ≠ 0 and there is a remote side. -/
def remoteSem (s : State) (t : Nat) (e : Entry) : Option (Nat × Nat) :=
  if ctlRinc e.cap.c = 0 || !transmits e then none
  else (spadTarget s t (remoteAddr e)).map (fun p => (p.1, ctlRsem e.cap.c))

/-- The check of the address that reaches the remote task; an empty command reaches it for its signal alone. -/
def remoteBad (s : State) (t : Nat) (e : Entry) (n : Nat) : Option Trap :=
  if n = 0 then
    (if ctlRinc e.cap.c = 0 || (spadTarget s t (remoteAddr e)).isSome then none
      else some { cause := 9, tval := remoteAddr e })
  else if windowRange s t (remoteAddr e) n then none
  else some { cause := 9, tval := remoteAddr e }

/-- The control word breaks its rules. -/
def ctlBad (e : Entry) : Option Trap :=
  let bad := match e.cmd with
    | .xred _ => redBad e.cap.c
    | _ => decide (2 ^ 37 ≤ e.cap.c.toNat)
  if bad then some { cause := 18, tval := e.cap.c } else none

/-- Misaligned address of an XRED. -/
def redMisaligned (e : Entry) : Option Trap :=
  let r := redCtl e.cap.c
  let n := ctlLen e.cap.c
  let off := fun (a : Word) (m : Nat) => decide (a.toNat % m ≠ 0)
  let out := if e.cap.c1 = 0 then e.cap.a else e.cap.c1
  if n = 0 then none
  else if off e.cap.a (redLocal r n).2 then some { cause := 6, tval := e.cap.a }
  else if !r.norx && off e.cap.b (redReceived r n).2 then some { cause := 6, tval := e.cap.b }
  else if off out (redResult r n).2 then some { cause := 6, tval := out }
  else none

/-- The own range fails (R379, R380). -/
def ownBad (s : State) (t : Nat) (e : Entry) (a : Word) (n : Nat) : Option Trap :=
  if n = 0 || ownRange s t e.cap.her a n then none else some { cause := 9, tval := a }

/-- Step 7 of R377; which of several bad operands is reported is log entry 132. -/
def collectiveBad (s : State) (t : Nat) (e : Entry) : Option Trap :=
  let n := ctlLen e.cap.c
  match e.cmd with
  | .xsend _ => (ctlBad e).or ((remoteBad s t e n).or (ownBad s t e e.cap.b n))
  | .xrecv _ => (ctlBad e).or ((ownBad s t e e.cap.a n).or (remoteBad s t e n))
  | .xred _ =>
    let r := redCtl e.cap.c
    let local_ := (redLocal r n).1
    let out := (redResult r n).1
    (ctlBad e).or ((redMisaligned e).or
      ((ownBad s t e e.cap.a (if e.cap.c1 = 0 then max local_ out else local_)).or
        ((if r.norx then none else ownBad s t e e.cap.b (redReceived r n).1).or
          (if e.cap.c1 = 0 then none else remoteBad s t e out))))
  | _ => none

/-- The checks made before a command that completes at once under E sends its remote signal (R377). -/
def skipBad (s : State) (t : Nat) (e : Entry) : Option Trap :=
  if ctlRinc e.cap.c = 0 || !transmits e then none
  else
    match e.cmd with
    | .xred _ =>
      let r := redCtl e.cap.c
      let (n, m) := redResult r (ctlLen e.cap.c)
      (ctlBad e).or ((if n ≠ 0 ∧ e.cap.c1.toNat % m ≠ 0 then some { cause := 6, tval := e.cap.c1 } else none).or
        (remoteBad s t e n))
    | _ => (ctlBad e).or (remoteBad s t e (ctlLen e.cap.c))

/-! ### Slot times (R378) -/

/-- The first time WBASE + 64 m at or after a moment later than WBASE. -/
def nextBoundary (base now : Nat) : Nat := base + (now - base + 63) / 64 * 64

/-- The command is late: it counts once, and starts at the next window boundary. -/
def makeLate (s : State) (t : Nat) (e : Entry) : State :=
  let s1 := onHead s t 8 (fun e => { e with
    late := true, slotTime := some (nextBoundary (s.task t).eng.wbase.toNat s.clock.toNat) })
  if e.late then s1
  else s1.modTask t (fun x =>
    if bitsOf x.eng.xlate.toNat 0 24 < 0xFFFFFF then { x with eng := { x.eng with xlate := x.eng.xlate + 1 } } else x)

/-- SLOT10 of a command. -/
def slotOf (i : Instr) : Nat :=
  match i with
  | .xsend f | .xrecv f | .xred f => f.slot.toNat
  | _ => 0

/-- Step 8: the head waits for its start time. -/
def awaitSlot (s : State) (t : Nat) (e : Entry) : State :=
  let at_ := (s.task t).eng.wbase.toNat + 64 * slotOf e.cmd
  if s.clock.toNat ≤ at_ then onHead s t 8 (fun e => { e with slotTime := some at_, wait := none })
  else makeLate s t e

/-- The command has started. -/
def beginCollective (s : State) (t : Nat) : State :=
  onHead s t 8 (fun e => { e with started := true, slotTime := none, wait := none, work := SMap.put 1 1 e.work })

/-- R377, steps 6 to 8: the head of queue 8 takes WT, is checked, and starts or waits for its start time. A command that
resumes takes neither a second time (R383). -/
def execXeCommandStart (s : State) : Host.Outcome State Fault Refusal :=
  let t := s.sel.task
  let x := s.task t
  match x.queue 8 with
  | [] => .next s
  | e :: _ =>
    if !s.hasTask t || !mayStart x || e.started || e.slotTime.isSome then .next s
    else if e.finished then .next (onHead s t 8 (fun e => { e with started := true, wait := none }))
    else
      match takeWt s t 8 e with
      | (s1, .wait) => .next s1
      | (s1, .skip) =>
        (match e.cmd with
          | .xstep _ => .next (finishHead s1 t 8 e true)
          | _ =>
            match skipBad s t e with
            | some tr => .next (faultHead s1 t 8 tr 0 false)
            | none => .next (onHead s1 t 8 (fun e => { e with started := true, finished := true, wait := none })))
      | (s1, .go) =>
        if !pushReleased x e then .next s1
        else
          match e.cmd with
          | .xstep _ =>
            .next (finishHead (s1.modTask t (fun y => { y with eng := { y.eng with wbase := e.cap.a, xcount := 0 } })) t 8 e
              e.err)
          | _ =>
            match collectiveBad s t e with
            | some tr => .next (faultHead s1 t 8 tr 0 false)
            | none =>
              if transmits e && SMap.get 0 e.work 1 == 0 then .next (awaitSlot s1 t e) else .next (beginCollective s1 t)

/-! ### Transfers -/

/-- Send enabled bytes of one aligned word as collective data (R379, R382). -/
def sendCollective (s : State) (t : Nat) (e : Entry) (va : Word) (bs : List (Option Byte)) : State :=
  match spadTarget s t va with
  | none => s
  | some (p, off) =>
    let who : Party := { task := t, strand := e.strand, queue := some 8, pc := e.pc }
    let a : Acc := { who, home := .spad p, addr := off, va := foldVa s t va, size := 8, cls := 0, nr := true, op := .coll bs }
    let id := s.nextMsg
    let m : Msg := { srcStation := dieStation (s.task t).die, dstStation := homeStation s a.home, stamp := s.clock,
                     source := taskSource s t, req := .acc who id, acc := a, fn := (s.launchOf t).fn }
    onHead (sendResponse s m) t 8 (fun e => { e with pending := e.pending ++ [id] })

/-- Send bytes word by word, ascending. -/
def sendBytes (t : Nat) (e : Entry) : Nat → State → Word → List Byte → State
  | 0, s, _, _ => s
  | _ + 1, s, _, [] => s
  | n + 1, s, a, bs =>
    let o := a.toNat % 8
    let k := min (8 - o) bs.length
    let w := List.replicate o none ++ (bs.take k).map some ++ List.replicate (8 - o - k) none
    sendBytes t e n (sendCollective s t e (a - w64 o) w) (a + w64 k) (bs.drop k)

/-- A lost sector sets E (R383). -/
def noteXeLost (s : State) (t : Nat) (lost : Bool) : State := noteErr s t 8 lost

/-- Move `k` bytes of XSEND or XRECV after `p` bytes; a lost sector stays lost. -/
def collectiveBytes (s : State) (t : Nat) (e : Entry) (p k : Nat) : Except EngHalt State :=
  let dst := e.cap.a + w64 p
  let src := e.cap.b + w64 p
  match sourceRead s t 8 e src k (fun a => p = 0 || decide (src.toNat ≤ 64 * a)) with
  | .error x => .error x
  | .ok (s1, l) =>
    let s2 := onHead s1 t 8 (fun e => { e with
      work := (lostSectors src l).foldl (fun w n => SMap.put 2 (n + 1) w) e.work })
    match e.cmd with
    | .xsend _ => .ok (noteXeLost (sendBytes t e k s2 dst (plainBytes l)) t (anyLost l))
    | _ =>
      match engWrite s2 t 8 e dst (plainBytes l) with
      | .error x => .error x
      | .ok s3 => .ok (noteXeLost s3 t (anyLost l))

/-- The next word of XSEND or XRECV after `p` bytes. -/
def moveCollective (s : State) (t : Nat) (e : Entry) (p : Nat) : Except EngHalt (State × Nat) :=
  mostOf (collectiveBytes s t e p) (min (8 - (e.cap.a + w64 p).toNat % 8) (ctlLen e.cap.c - p))

/-! ### XRED (R380, R381) -/

/-- Elements of a partial or block in exact form; none of them for NORX. -/
def redFloat (p b : Ex) : Flagged Ex :=
  let (x, f1) := roundTo fmtFP32 0 false 0 b
  let (y, f2) := roundTo fmtFP32 0 false 0 p
  let (z, f3) := Ex.add 0 (fmtFP32.decode x) (fmtFP32.decode y)
  let (r, f4) := roundTo fmtFP32 0 false 0 z
  (fmtFP32.decode r, f1 ||| f2 ||| f3 ||| f4)

/-- Exact mode: the local element converted once and added. -/
def redExact (anch : Int) (p : Ex) (x : Int) : Flagged Int :=
  let (c, f1) := toXw anch p
  let (y, f2) := xwSat (x + c)
  (y, f1 ||| f2)

/-- Results of a type: bytes, and flags of each element; a block's flags count at its first element. -/
def redStore (r : RedCtl) (xs : List (Flagged Ex)) : List Byte × List Nat :=
  if isBlock r.et then
    let l := blockElems r.et
    let blocks := (List.range (xs.length / l)).map (fun q =>
      let part : List (Flagged Ex) := (xs.drop (l * q)).take l
      let (v, f) := quantBlock r.et r.rm (fun _ => 0) (part.map (fun x => x.1))
      (bytesOf v (blockBytes r.et), part.zipIdx.map (fun ((x, i) : Flagged Ex × Nat) => if i = 0 then x.2 ||| f else x.2)))
    (blocks.flatMap (·.1), blocks.flatMap (·.2))
  else
    let ys := xs.map (fun x => let (v, f) := exTo r.et r.rm r.sat 0 x.1; (v, x.2 ||| f))
    (ys.flatMap (fun y => bytesOf y.1 (typeBytes r.et)), ys.map (·.2))

/-- The result of an XRED from the bytes of its local partial and received block. -/
def redCompute (r : RedCtl) (n : Nat) (p b : List Byte) : List Byte × List Nat :=
  let ps := rowExact r.et n p
  if r.exact then
    let xs := (List.range n).map (fun i => if r.norx then 0 else sintOf 128 (leNat ((b.drop (16 * i)).take 16)))
    let ys := ps.zipWith (redExact r.anch) xs
    if r.out then redStore r (ys.map (fun y => (Ex.ofScaled y.1 r.anch, y.2)))
    else (ys.flatMap (fun y => bytesOf (wrapNat 128 y.1) 16), ys.map (·.2))
  else
    let bs := if r.norx then List.replicate n (Ex.ofInt 0) else rowExact r.et n b
    redStore r (ps.zipWith redFloat bs)

/-- XLATE bits of the flags of R36. -/
def xlateFlags (fl : Nat) : Nat :=
  2 ^ 32 * b2n (bitOf fl 0) + 2 ^ 33 * b2n (bitOf fl 2) + 2 ^ 34 * b2n (bitOf fl 3) + 2 ^ 35 * b2n (bitOf fl 4)
    + 2 ^ 36 * b2n (bitOf fl 5)

/-- Note the flags of an XRED's elements from the one where it goes on (R383, R384). -/
def redFlags (s : State) (t : Nat) (e : Entry) (every : List Nat) : State :=
  let fl := every.drop e.progress
  let at_ := fun (f : Nat → Bool) => (fl.findIdx? f).map (· + e.progress)
  let all := fl.foldl (fun a x => a ||| x) 0
  if all = 0 then s
  else onHead (s.modTask t (fun x => raiseFlags x e.strand .xlate (xlateFlags all))) t 8 (fun e => { e with
    flags := e.flags ||| all,
    firstInvalid := lowest e.firstInvalid (at_ (fun f => bitOf f 0)),
    firstXw := lowest e.firstXw (at_ (fun f => bitOf f 5)) })

/-- Elements of one unit of an XRED's result. -/
def redPer (r : RedCtl) : Nat := if isBlock r.et && redUnit r != 16 then blockElems r.et else 1

/-- The XRED from the element where a resumed command goes on: both reads, the results, then their writes, and how many
elements they complete: a fault leaves the writes before it (R189, R383). -/
def runXred (s : State) (t : Nat) (e : Entry) : Except EngHalt (State × Nat) :=
  let r := redCtl e.cap.c
  let n := ctlLen e.cap.c
  match engRead s t 8 64 e e.cap.a (redLocal r n).1 with
  | .error x => .error x
  | .ok (s1, p) =>
    match (if r.norx then .ok (s1, []) else engRead s1 t 8 64 e e.cap.b (redReceived r n).1 .collRead) with
    | .error x => .error x
    | .ok (s2, b) =>
      let (bs, fl) := redCompute r n (plainBytes p) (plainBytes b)
      let skip := e.progress / redPer r * redUnit r
      let s3 := noteXeLost (redFlags s2 t e fl) t (anyLost p || anyLost b)
      if n ≤ e.progress then .ok (s3, 0)
      else if e.cap.c1 = 0 then
        match mostOf (fun m => engWrite s3 t 8 e (e.cap.a + w64 skip) ((bs.drop skip).take (m * redUnit r)))
          ((n - e.progress) / redPer r) with
        | .error x => .error x
        | .ok (s4, m) => .ok (s4, m * redPer r)
      else .ok (sendBytes t e (bs.length + 1) s3 (e.cap.c1 + w64 skip) (bs.drop skip), n - e.progress)

/-- Perform up to `n` words of the head, or all of an XRED, until it has sent everything or stops. -/
def collectiveUnits (t : Nat) : Nat → State → State
  | 0, s => s
  | n + 1, s =>
    match (s.task t).queue 8 with
    | [] => s
    | e :: _ =>
      if e.finished then s
      else
        match e.cmd with
        | .xred _ =>
          (match runXred s t e with
            | .error x => engStopped s t 8 e.progress x
            | .ok (s1, k) =>
              collectiveUnits t n (onHead s1 t 8 (fun e => { e with
                progress := e.progress + k, finished := decide (ctlLen e.cap.c ≤ e.progress + k), wait := none,
                walkFault := none })))
        | _ =>
          if ctlLen e.cap.c ≤ e.progress then onHead s t 8 (fun e => { e with finished := true })
          else
            match moveCollective s t e e.progress with
            | .error x => engStopped s t 8 e.progress x
            | .ok (s1, k) =>
              collectiveUnits t n (onHead s1 t 8 (fun e => { e with progress := e.progress + k, wait := none, walkFault := none }))

/-- A running task whose XE may start its head now, at the start time (R378). -/
def dueTransmission (s : State) : Option Nat :=
  (s.tasks.find? (fun x => mayStart x.2 && (match x.2.queue 8 with
    | e :: _ => !e.started && e.slotTime == some s.clock.toNat
    | [] => false))).map (·.1)

/-- Time passes, but not beyond the start time of a head that may start (R378). -/
def timeTo (s : State) (ns : Nat) : Nat :=
  s.tasks.foldl (fun n x => match x.2.queue 8 with
    | e :: _ => (match e.slotTime with
      | some a => if mayStart x.2 && !e.started && decide (s.clock.toNat ≤ a) then min n (a - s.clock.toNat) else n
      | none => n)
    | [] => n) ns

/-- R378: a waiting head starts at its start time; one that a freeze or a switch-out held beyond it is late. With a
count, that many words move too. -/
def execXeTransmissionStart (s : State) : Host.Outcome State Fault Refusal :=
  let t := s.sel.task
  let x := s.task t
  match x.queue 8 with
  | [] => .next s
  | e :: _ =>
    match e.slotTime with
    | none => .next s
    | some at_ =>
      if !s.hasTask t || !mayStart x || e.started || s.clock.toNat < at_ then .next s
      else
        let s1 := if at_ = s.clock.toNat then s else makeLate s t e
        let now := match ((s1.task t).queue 8).head? with
          | some e => e.slotTime == some s.clock.toNat
          | none => false
        .next (if now then collectiveUnits t s.sel.count (beginCollective s1 t) else s1)

/-! ### XE_COMMAND_COMPLETE -/

/-- The remote signal with RINC (R379), when the pair has agreed on it (R393): at once to the own task, else a request whose
acknowledgement is awaited. -/
def sendRemote (s : State) (t : Nat) (e : Entry) (p n : Nat) : State := compareSend s t e (fun s =>
  let err := e.err || e.skip
  let inc := ctlRinc e.cap.c
  if p = t then onHead (signalSem s t n inc err) t 8 (fun e => { e with notified := true })
  else
    let who : Party := { task := t, strand := e.strand, queue := some 8, pc := e.pc }
    let off := 0x700000 + 4 * n
    let acc : Acc := { who, home := .spad p, addr := off,
                       va := w64 (0x10000000000 + 0x800000 * ((s.task p).ly * 64 + (s.task p).lx) + off), size := 4,
                       cls := 0, nr := true, op := .signal inc err }
    let id := s.nextMsg
    onHead (sendReq s acc (.acc who id) (dieStation (s.task t).die) (taskSource s t)) t 8 (fun e => { e with notify := some id }))

/-- ERR of XLATE when a command without any signal met an error (R383). -/
def noteXeErr (s : State) (t : Nat) (e : Entry) : State :=
  if e.err && (linkOf e.cmd).si = 0 && ctlRinc e.cap.c = 0 then
    s.modTask t (fun x => raiseFlags x e.strand .xlate (2 ^ 37))
  else s

/-- OP of the f1 element. -/
def collectiveOp (i : Instr) : Nat :=
  match i with
  | .xsend _ => 0x39
  | .xrecv _ => 0x3A
  | _ => 0x3B

/-- The command is counted, its f1 element pushed (R385), and it signals. -/
def endCollective (s : State) (t : Nat) (e : Entry) : State :=
  let x := s.task t
  let n := x.eng.xcount + 1
  let fifo := ctlFifo e.cap.c && !e.skip
  if fifo && decide (64 ≤ x.eng.fifo1.length) then
    (if x.killed then popHead s t 8 else headWait s t 8 { kind := 9, object := 1 })
  else
    let s1 := s.modTask t (fun x => { x with eng := { x.eng with xcount := n } })
    let s2 := if fifo then s1.modTask t (fun x => (x.setFifo 1 (x.eng.fifo1
        ++ [w64 (n.toNat + 2 ^ 32 * b2n e.err + 2 ^ 40 * collectiveOp e.cmd)])).wake) else s1
    finishHead (noteXeErr s2 t e) t 8 e (e.err || e.skip)

/-- Steps 9 and 10 for a head whose writes have all been sent. A write that its home refused faults the command at the
lowest offset refused, once every other has been answered. -/
def finishCollective (s : State) (t : Nat) (e : Entry) : State :=
  match e.walkFault with
  | some (p, tr) => faultHead (onHead s t 8 (fun e => { e with finished := false })) t 8 tr p false
  | none =>
    match (if e.skip then none else
        enabledTrap ((s.task t).eng.xlate.getLsbD 40) ((s.task t).eng.xlate.getLsbD 41) e.firstInvalid e.firstXw) with
    | some tr =>
      faultHead (onHead s t 8 (fun e => { e with firstInvalid := none, firstXw := none })) t 8 tr e.progress true
    | none =>
      match (if e.notified then none else remoteSem s t e) with
      | some (p, n) =>
        if e.notify.isSome then s
        else
          let s1 := sendRemote s t e p n
          if ((s1.task t).queue 8).head?.any (·.notified) then endCollective s1 t e else s1
      | none => endCollective s t e

/-- R377, steps 9 and 10; what a started command has left to move moves first. -/
def execXeCommandComplete (s : State) : Host.Outcome State Fault Refusal :=
  let t := s.sel.task
  match (s.task t).queue 8 with
  | [] => .next s
  | e :: _ =>
    if !s.hasTask t || !e.started then .next s
    else
      let s1 := if e.finished then s
        else collectiveUnits t (if s.sel.count = 0 then ctlLen e.cap.c + 1 else s.sel.count) s
      match (s1.task t).queue 8 with
      | [] => .next s1
      | e1 :: _ =>
        if e1.started && e1.finished && e1.pending.isEmpty then .next (finishCollective s1 t e1) else .next s1

end Sys2Proof.Machine
end

