-- ==== Sys2Proof/Machine/Monitor.lean ====
section
/-!
DEFINITION. The monitor instructions and the check of the monitors at the end of a phase (R397 to R403).
-/
namespace Sys2Proof.Machine

/-- Monitor n of a launch. -/
def Launch.mon (l : Launch) (n : Nat) : Monitor := (SMap.find n l.monitors).getD {}

def Launch.setMon (l : Launch) (n : Nat) (m : Monitor) : Launch := { l with monitors := SMap.put n m l.monitors }

/-- Change a monitor of the current launch. -/
def modMon (n : Nat) (f : Monitor → Monitor) : M Unit :=
  modS (fun s => s.modLaunch (s.task s.sel.task).launch (fun l => l.setMon n (f (l.mon n))))

/-- In a deterministic launch the first party to use a monitor holds it for the phase (R402). -/
def monHold (n : Nat) : M Unit := do
  let l ← curLaunch
  let s ← getS
  let me := (s.sel.task, s.sel.strand)
  if l.det then
    match (l.mon n).holder with
    | some h => if h ≠ me then trapRes 14 (0x0C0 + n) else pure ()
    | none => modMon n (fun m => { m with holder := some me })
  else pure ()

/-- What every MON instruction does before its own effect. -/
def monGate (n : Nat) : M Unit := do
  monHold n
  classGate

/-- The 64 bytes of a descriptor as a monitor (R397). -/
def descMonitor (w : List Nat) : Monitor :=
  let d := packFields (w.map (fun x => (x, 64)))
  { base := w64 (bitsOf d 0 64), limit := w64 (bitsOf d 64 64), rec_ := bitsOf d 128 16, off := bitsOf d 144 16,
    fmt := bitsOf d 160 8, net := bitOf d 168, carry := bitOf d 169, anch := BitVec.ofNat 8 (bitsOf d 176 8),
    bound := bitsOf d 256 128 }

/-- The limits of a descriptor's fields (R397). -/
def descOk (w : List Nat) : Bool :=
  let d := packFields (w.map (fun x => (x, 64)))
  let m := descMonitor w
  let z := monBytes m.fmt
  m.fmt ≤ 5 && bitsOf d 170 6 == 0 && bitsOf d 184 72 == 0 && bitsOf d 384 128 == 0
    && isGlobal m.base && m.base.toNat % z == 0 && m.base.toNat < m.limit.toNat
    && m.limit.toNat ≤ m.base.toNat + 2 ^ 40 && m.rec_ != 0 && m.rec_ % z == 0 && m.off % z == 0
    && m.off + z ≤ m.rec_ && (m.fmt != 5 || m.net)

/-- Pages of a range. -/
def rangePages (m : Monitor) : List Nat :=
  let first := pageOf m.base
  let last := pageOf (m.limit - 1)
  (List.range (last - first + 1)).map (· + first)

/-- The canonical address of a page number. -/
def pageVa (p : Nat) : Word := sextW (w64 (p * 2 ^ 17)) 57

/-- Entries in use at a port: armed or pending monitors, of any launch not yet complete, whose range reaches it (R399). -/
def portUse (s : State) (die : Nat) : Nat :=
  ((s.launches.filter (fun e => e.2.phaseOf == .accepted)).flatMap (fun e => e.2.monitors)).countP (fun e =>
    (e.2.armed || e.2.pending) && e.2.pages.any (fun p => homeOfPa s p.2 == some (.hbm die)))

/-- R402: installs a monitor, pending until the end of the phase. -/
def execMonset (mon : BitVec 3) (a : Reg) (s : State) : Host.Outcome State Fault Refusal :=
  strandStep (.monset mon a) (do
    let ea ← rdOut a
    monGate mon.toNat
    needAligned ea 64
    let w ← readWords ea 15 8
    let s ← getS
    let l ← curLaunch
    let m := descMonitor w
    if !descOk w then illegal (.monset mon a)
    let old := l.mon mon.toNat
    if old.armed || old.pending then illegal (.monset mon a)
    let pages ← (rangePages m).mapM (fun p =>
      match walk s l.fn p with
      | .error e => (stop (.trap { cause := e.cause, tval := pageVa p, stage := e.stage }) : M (Nat × Nat))
      | .ok e =>
        match homeOfPa s e.pa with
        | some (.hbm _) => pure (p, e.pa)
        | some _ => trapM 8 (pageVa p)
        | none => trapM 8 (pageVa p))
    let ports := (pages.filterMap (fun p => match homeOfPa s p.2 with
      | some (.hbm d) => some d
      | some _ => none
      | none => none)).dedup
    if ports.any (fun d => 64 ≤ portUse s d) then trapM 18 0
    modMon mon.toNat (fun o => { m with
      pending := true, pages, maps := mapsOf s l.fn (pages.map (·.2)), party := (s.sel.task, s.sel.strand), holder := o.holder })
    pure .fall) s

/-- R402: REF, RDIG and DCHK for the check that closes the phase. -/
def execMonref (mon : BitVec 3) (a : Reg) (s : State) : Host.Outcome State Fault Refusal :=
  strandStep (.monref mon a) (do
    let ea ← rdOut a
    monGate mon.toNat
    needAligned ea 32
    let w ← readWords ea 15 4
    let l ← curLaunch
    let m := l.mon mon.toNat
    if w.getD 3 0 / 2 != 0 then illegal (.monref mon a)
    if !m.armed && !m.pending then illegal (.monref mon a)
    modMon mon.toNat (fun m => { m with
      ref := sintOf 128 (w.getD 0 0 + 2 ^ 64 * w.getD 1 0), rdig := w64 (w.getD 2 0), dchk := bitOf (w.getD 3 0) 0 })
    pure .fall) s

/-- The record MONRD writes (R403), as 8 words. -/
def monRecord (m : Monitor) : List Nat :=
  let t := wrapNat 128 m.snapTotal
  let r := wrapNat 128 m.ref
  let status := b2n m.armed + 2 * b2n m.pending + 4 * b2n m.nonfinite + 8 * b2n m.xwOvf + 16 * b2n m.drift
    + 32 * b2n m.dchk + 64 * b2n m.carry + 128 * b2n m.net
  [t % 2 ^ 64, t / 2 ^ 64, m.snapDigest.toNat, r % 2 ^ 64, r / 2 ^ 64, m.rdig.toNat, status, m.cphase.toNat]

/-- R402: writes the record of the monitor's last check. -/
def execMonrd (mon : BitVec 3) (a : Reg) (s : State) : Host.Outcome State Fault Refusal :=
  strandStep (.monrd mon a) (do
    let ea ← rdOut a
    monGate mon.toNat
    needAligned ea 64
    let l ← curLaunch
    writeWords ea 15 (monRecord (l.mon mon.toNat))
    pure .fall) s

/-- R402: disarms at the end of the phase, whose check it skips. -/
def execMonclr (mon : BitVec 3) (s : State) : Host.Outcome State Fault Refusal :=
  strandStep (.monclr mon) (do
    monGate mon.toNat
    let l ← curLaunch
    let m := l.mon mon.toNat
    if m.armed || m.pending then modMon mon.toNat (fun m => { m with clearing := true })
    pure .fall) s

/-! ### The check (R401) -/

/-- Sum of the port partials. -/
def monSum (m : Monitor) : Int × Nat × Bool × Bool :=
  let (t, g, n, x) := m.parts.foldl (fun a e =>
    (a.1 + e.2.1, (a.2.1 + e.2.2.1) % 2 ^ 64, a.2.2.1 || e.2.2.2.1, a.2.2.2 || e.2.2.2.2)) ((0 : Int), 0, false, false)
  let (t', o) := xwSat t
  (t', g, n, x || o != 0)

/-- Check one monitor, once in a phase: the monitor after it, and the cause it traps with. -/
def monCheck (m : Monitor) (phase : Word) (nfe : Bool) : Monitor × Option Nat :=
  let (t, g, n, x) := monSum m
  let bad := x || decide (m.bound < (t - m.ref).natAbs) || (m.dchk && w64 g != m.rdig)
  let m1 := { m with snapTotal := t, snapDigest := w64 g, nonfinite := n, xwOvf := x, cphase := phase, drift := m.drift || bad }
  let m2 := if m.carry then m1 else { m1 with parts := [] }
  if m.reported then (m, none)
  else ({ m2 with reported := true }, if bad then some 21 else if n && nfe then some 22 else none)

/-- Step 4 of R154 for a monitor: pending ones arm, cleared ones go, the phase's record of it ends. -/
def monPhase (m : Monitor) : Monitor :=
  if m.clearing then {}
  else if m.pending then { m with pending := false, armed := true, holder := none, reported := false }
  else { m with holder := none, reported := false }

end Sys2Proof.Machine
end

