-- ==== Sys2Proof/Machine/Box.lean ====
section
/-!
DEFINITION. The signal box: acceptance, placement, slicing, switching, barriers, phases, completion, hangs, and the
other steps it takes for a task (R140 to R171, R178, R185, R186).
-/
namespace Sys2Proof.Machine

/-! ### Cores and levels (R13, R20, R148, R157 to R160) -/

/-- Usable scratchpad bytes of a core (R20). -/
def usableBytes (c : Core) : Nat :=
  32 * 196608 - c.retiredBanks * 196608 - (if c.me0 ≠ 0 ∨ c.me1 ≠ 0 then 262144 else 0)

/-- May the signal box place tasks on a core? -/
def coreServes (c : Core) : Bool := c.inService && !c.retired && !c.suspect

/-- The physical core is held by a task of the die. -/
def coreBusy (s : State) (die core : Nat) : Bool :=
  s.tasks.any (fun e => e.2.die == die && !e.2.ended && e.2.core? == some core)

/-- Bytes of scratchpad the task needs of a core (R148). -/
def needBytes (s : State) (t : Task) : Nat :=
  if t.placed then t.spsize else (s.launch t.launch).spadkb * 1024

/-- A restored matrix entry's queue on a core: steering is permitted; an entry that holds only its signal stays (R310). -/
def redispatch (c : Core) (e : Entry) (q : Nat) : Option (Nat × Bool) :=
  if e.finished || (matFn e.cmd).isNone then some (q, e.cap.steered)
  else (dispatchMatrix c e.cmd e.cap.ft true).map (fun d => (1 + d.1, d.2))

/-- The core serves every matrix entry of a task. -/
def coreFits (c : Core) (t : Task) : Bool :=
  (t.queue 1).all (fun e => (redispatch c e 1).isSome) && (t.queue 2).all (fun e => (redispatch c e 2).isSome)

/-- The core may hold the task: in service, with scratchpad enough, and the engines that its matrix entries need (R148,
R310). -/
def coreTakes (s : State) (die : Nat) (t : Task) (c : Nat) : Bool :=
  let x := (s.die die).core c
  coreServes x && decide (needBytes s t ≤ usableBytes x) && coreFits x t

/-- The lowest-numbered free core that may take the task (R160). -/
def freeCore (s : State) (die : Nat) (t : Task) : Option Nat :=
  (List.range 36).find? (fun c => coreTakes s die t c && !coreBusy s die c)

/-- A switched-out task that no core of its die may take (R310). -/
def coreless (s : State) (die : Nat) (t : Task) : Bool := t.placed && !(List.range 36).any (coreTakes s die t)

/-- Order of R159 within a level: distance of the queue from the pointer, the launch, the position. -/
def pickKey (s : State) (die : Nat) (t : Task) : Nat × Nat × Nat × Nat :=
  let l := s.launch t.launch
  let p := SMap.get 0 (s.die die).pointers (effLevel s die l)
  ((l.queue + 4096 - p) % 4096, l.serial, t.lcore, 0)

/-- Lexicographic order of pick keys. -/
def keyLt (a b : Nat × Nat × Nat × Nat) : Bool :=
  a.1 < b.1 || (a.1 == b.1 && (a.2.1 < b.2.1 || (a.2.1 == b.2.1 && (a.2.2.1 < b.2.2.1
    || (a.2.2.1 == b.2.2.1 && a.2.2.2 < b.2.2.2)))))

/-- The task a die's signal box places next, among those that a free core may take (R159). -/
def pickTask (s : State) (die : Nat) : Option Nat :=
  let c := s.tasks.filter (fun e =>
    e.2.die == die && waitsForCore e.2 && slogRoom s die e.2.launch && (freeCore s die e.2).isSome)
  let top := c.foldl (fun n e => max n (effLevel s die (s.launch e.2.launch))) 0
  let best := (c.filter (fun e => effLevel s die (s.launch e.2.launch) == top)).foldl (fun b e =>
    match b with
    | none => some e
    | some x => if keyLt (pickKey s die e.2) (pickKey s die x.2) then some e else some x) none
  best.map (·.1)

/-- A switched-out task that is to be parked, as no core of the die may take it, whatever its place in the order (R310). -/
def corelessTask (s : State) (die : Nat) : Option Nat :=
  (s.tasks.find? (fun e => e.2.die == die && waitsForCore e.2 && slogRoom s die e.2.launch && coreless s die e.2)).map (·.1)

/-- A task that only the want of room for its record keeps from a core, or from being parked (R169). -/
def heldTask (s : State) (die : Nat) : Option Nat :=
  (s.tasks.find? (fun e => e.2.die == die && waitsForCore e.2 && !slogRoom s die e.2.launch
    && ((freeCore s die e.2).isSome || coreless s die e.2))).map (·.1)

/-- A READY or SAVED task of at least a level waits on the die. -/
def waiterAt (s : State) (die level : Nat) : Bool :=
  s.tasks.any (fun e => e.2.die == die && waitsForCore e.2 && decide (level ≤ effLevel s die (s.launch e.2.launch)))

/-- A task has been given a core: the queue's pointer moves, and a queue whose head launch has a core for each of its tasks
has been served: it drops to its base level (R158, R159). `before` is the state in which the task still waited. -/
def serveQueue (before s : State) (die launch : Nat) : State :=
  let l := s.launch launch
  let lv := effLevel before die l
  let head := (headLaunch before die l.queue).any (fun h => h.serial == l.serial)
  let done := head && !(s.tasks.any (fun e => e.2.launch == launch && e.2.die == die && waitsForCore e.2))
  s.modDie die (fun d => { d with
    pointers := SMap.put lv ((l.queue + 1) % 4096) d.pointers,
    levels := if done then SMap.put l.queue { level := 0, since := s.clock } d.levels else d.levels })

/-- Give a task its core. -/
def seatTask (s : State) (t core kind : Nat) : State :=
  let x := s.task t
  let c := (s.die x.die).core core
  let s1 := s.modTask t (fun x => { x.dropWalks with
    place := .running core, quantum := s.clock,
    spsize := if x.placed then x.spsize else if needBytes s x = 0 then usableBytes c else needBytes s x, placed := true,
    strands := x.strands.map (fun (k, y) => (k, { y with lastWait := y.wait.orElse (fun _ => y.lastWait), wait := none })) })
  serveQueue s (slogAt s1 x.die x.launch (effLevel s x.die (s.launch x.launch)) kind x.lcore core 0) x.die x.launch

/-- R159, R160: the next task of the die takes its first core. -/
def execPlacement (s : State) : Host.Outcome State Fault Refusal :=
  match pickTask s s.sel.die with
  | none =>
    match heldTask s s.sel.die with
    | some t => .next (raiseEvent s (s.launchOf t).fn 0)
    | none => .next s
  | some t =>
    match freeCore s s.sel.die (s.task t) with
    | none => .next s
    | some c => if (s.task t).placed || s.service.resetting then .next s else .next (seatTask s t c 3)

/-- Launches that wait in a queue on a die, each with its first waiting task. -/
def waitingLaunches (s : State) (die queue : Nat) : SMap Nat :=
  s.tasks.foldl (fun m e =>
    if e.2.die == die && waitsForCore e.2 && (s.launch e.2.launch).queue == queue && (SMap.find e.2.launch m).isNone then
      SMap.put e.2.launch e.2.lcore m
    else m) []

/-- R158: a queue that has waited AGE of its level rises one level; each LOG launch with a task that waits gets its record. -/
def execAgeing (s : State) : Host.Outcome State Fault Refusal :=
  let die := s.sel.die
  let q := s.sel.queue
  let d := s.die die
  match headLaunch s die q with
  | none => .next s
  | some l =>
    let lv := effLevel s die l
    let since := ((SMap.find q d.levels).getD {}).since
    if lv < 7 ∧ since.toNat + 1000 * SMap.get 1000 d.age lv ≤ s.clock.toNat then
      let ls := (waitingLaunches s die q).filter (fun w => (s.launch w.1).log)
      let rise := fun (s : State) =>
        let s1 := s.modDie die (fun d => { d with levels := SMap.put q { level := lv + 1, since := s.clock } d.levels })
        ls.foldl (fun s w => slog s die w.1 10 w.2 0 (lv + 1)) s1
      match ls with
      | [] => .next (rise s)
      | w :: _ => .next (logged s die w.1 ls.length rise)
    else .next s

/-- R162: the quantum ends while a task of at least the level waits. -/
def execQuantumExpiry (s : State) : Host.Outcome State Fault Refusal :=
  let t := s.sel.task
  let x := s.task t
  if s.hasTask t && x.core?.isSome && x.leaving.isNone
      && decide (x.quantum.toNat + 1000 * (s.die x.die).sliceq ≤ s.clock.toNat)
      && waiterAt s x.die (effLevel s x.die (s.launch x.launch)) then
    .next (logged s x.die x.launch 1 (fun s => s.modTask t (fun x => { x with leaving := some 0 })))
  else .next s

/-- The strand has waited since before a time, on a reply, semaphore, full/empty word, FIFO or barrier. -/
def blockedSince (x : Strand) (before : Nat) : Bool :=
  x.outs.any (fun o => o.parks && decide (o.since.toNat ≤ before))
    || (match x.wait with
      | some w => (w.kind == 1 || w.kind == 3 || w.kind == 4 || w.kind == 6 || w.kind == 7) && decide (w.since.toNat ≤ before)
      | none => false)

/-- R162: every live strand has waited BLOCKT while a task waits for a core. -/
def execBlockedTimeout (s : State) : Host.Outcome State Fault Refusal :=
  let t := s.sel.task
  let x := s.task t
  let bt := 1000 * (s.die x.die).blockt
  if s.hasTask t && x.core?.isSome && x.leaving.isNone && decide (bt ≤ s.clock.toNat)
      && x.strands.any (fun e => e.2.live)
      && x.strands.all (fun e => !e.2.live || blockedSince e.2 (s.clock.toNat - bt))
      && waiterAt s x.die 0 then
    .next (logged s x.die x.launch 1 (fun s => s.modTask t (fun x => { x with leaving := some 1 })))
  else .next s

/-- Steps 2 and 3 of R163 are done: replies are in, but for accesses their homes have taken into a wait without bound
(R246), and no started command is left. -/
def drained (t : Task) : Bool :=
  t.strands.all (fun e => e.2.outs.all (fun o => o.accepted)) && t.queues.all (fun e => e.2.all (fun c => !c.started || c.pauses))

/-- ARG of a switch-out record (R168): 0 quantum, 1 blocked, 2 higher level, 3 park. The spec gives no code for the
switch-outs of REPLAY and of a change of cores, numbers 4 and 5 here: a free value (log entry 122). -/
def switchReason (why : Nat) : Nat := if why ≤ 3 then why else Config.switchReason why

/-! ### The context area (R161) -/

/-- Size of the context area of a task with so much scratchpad. -/
def contextBytes (spsize : Nat) : Nat := 0x3B0000 + (spsize + 131071) / 131072 * 131072

/-- A byte of what the signal box saves of a task at an offset of its context area: semaphores, masks, vector registers,
slots, banks, full/empty bits, heritage region and scratchpad, in their order; the header, strands, unissued queue entries,
stamps, roles and ownership in forms the spec does not give (free values, log entry 123); the header's trap record and the
heritage save area as they stand there. -/
def contextByte (s : State) (t : Task) (off : Nat) : Byte :=
  let byteOf := fun (v n : Nat) => BitVec.ofNat 8 (v / 2 ^ (8 * n))
  let own := readByte t.context off
  if off < 0x800 then Config.contextHeader t (s.launch t.launch) off
  else if off < 0x1000 then own
  else if off < 0x3000 then let o := off - 0x1000; Config.contextStrand (t.strand (o / 1024)) (o % 1024)
  else if off < 0x3400 then let o := off - 0x3000; byteOf (t.sem (o / 4)).word (o % 4)
  else if off < 0x3C00 then let o := off - 0x3400; if o < 15 * 128 then byteOf (t.mreg (o / 128 + 1)) (o % 128) else 0
  else if off < 0x4000 then own
  else if off < 0x8800 then
    let o := off - 0x4000
    (((t.queue (o / 2048)).filter (fun e => !e.started))[o % 2048 / 32]?.map (fun e => Config.contextEntry e (o % 32))).getD 0
  else if off < 0x9000 then
    Config.contextCounts ((List.range 9).map (fun q => ((t.queue q).filter (fun e => !e.started)).length)) (off - 0x8800)
  else if off < 0x10000 then own
  else if off < 0x70000 then let o := off - 0x10000; byteOf (t.vreg (o / 1024)) (o % 1024)
  else if off < 0x170000 then let o := off - 0x70000; readByte (t.slot (o / 32768)).bytes (o % 32768)
  else if off < 0x210000 then
    let o := off - 0x170000
    byteOf (SMap.get 0 (t.bank (o / 163840)).acc (o % 163840 / 10)).toNat (o % 10)
  else if off < 0x230000 then
    let o := off - 0x210000
    (List.range 8).foldl (fun b i => if t.full.contains (8 * o + i) then b ||| (1#8 <<< i) else b) 0
  else if off < 0x2B0000 then Config.contextRecords t.recs (off - 0x230000)
  else if off < 0x3B0000 then readByte t.heritage (off - 0x2B0000)
  else readByte t.spad (off - 0x3B0000)

/-- The context area of a task holds its present state. -/
def writeContext (s : State) (t : Nat) : State :=
  s.modTask t (fun x => { x with
    context := writeBytes x.context 0 ((List.range (contextBytes x.spsize)).map (contextByte s x)) })

/-- Every live strand has been matched by the guard, or is back at its last sync point, before it is saved; a strand whose trap
has frozen the task stays at it (R396). -/
def matchStrands (s : State) (t : Nat) : State :=
  (List.range 8).foldl (fun s k =>
    let x := s.task t
    if x.killed || !(x.strand k).live || x.freeze.any (fun f => f.strand == k) then s
    else if s.sel.guard == .mismatch then guardMismatch s t k (x.strand k).r.pc (lengthAt s t k)
    else guardAgree s t k) s

/-- Step 4 of R163: the state is saved in the context area; a task on its way to PARKED interrupts the host (R178, R416). Its
strands keep their places among the waiters of its words, where the others are served (R114, R164, R246). -/
def saveTask (s : State) (t : Nat) : State :=
  let x := s.task t
  let why := x.leaving.getD 0
  let s1 := writeContext (s.modTask t (fun x => { x with
    place := if why = 3 then .parked else .saved, leaving := none,
    parkedSince := if why = 3 then some s.clock else none,
    strands := x.strands.map (fun (k, y) => (k, { y with
      outs := y.outs.map (fun o => { o with buffer := o.buffer && !o.accepted }) })) })) t
  let s2 := serveTask (slogAt s1 x.die x.launch (effLevel s x.die (s.launch x.launch)) 4 x.lcore (x.core?.getD 0)
    (switchReason why)) t
  if why = 3 then raiseEvent s2 (s.launch x.launch).fn 2 else beginWait s s2 x.die (s.launch x.launch).queue

/-- The running task of the lowest level, then the highest queue, the latest launch, the highest position (R162). -/
def victim (s : State) (die : Nat) : Option Nat :=
  let r := s.tasks.filter (fun e => e.2.die == die && e.2.core?.isSome && !e.2.ended && e.2.leaving.isNone)
  let key := fun (t : Task) =>
    let l := s.launch t.launch
    (effLevel s die l, 4096 - l.queue, 2 ^ 40 - l.serial, 4096 - t.lcore)
  (r.foldl (fun b e =>
    match b with
    | none => some e
    | some x => if keyLt (key e.2) (key x.2) then some e else some x) none).map (·.1)

/-- R162, R163: a task on its way out is saved once it has drained; else the victim of a waiting higher level goes. -/
def execPreEmption (s : State) : Host.Outcome State Fault Refusal :=
  let t := s.sel.task
  let x := s.task t
  if s.hasTask t && x.leaving.isSome && x.core?.isSome then
    if drained x then
      .next (logged s x.die x.launch 1 (fun s =>
        let s1 := matchStrands s t
        if (s1.task t).killed then s1 else saveTask s1 t))
    else .next s
  else
    match victim s s.sel.die with
    | none => .next s
    | some v =>
      let y := s.task v
      if waiterAt s s.sel.die (effLevel s s.sel.die (s.launch y.launch) + 1) && (pickTask s s.sel.die).isNone then
        .next (logged s y.die y.launch 1 (fun s => s.modTask v (fun y => { y with leaving := some 2 })))
      else .next s

/-! ### Acceptance (R143 to R150, R160, R161) -/

/-- R132: another running DET launch holds one of the pages, as they were at its acceptance. -/
def detOverlap (s : State) (l : Launch) : Bool :=
  let mine := (detPages s l.fn).map (·.1)
  s.launches.any (fun e => e.2.phaseOf == .accepted && e.2.det
    && (e.2.pages.any mine.contains))

/-! ### Places of context areas (R161) -/

/-- SPSIZE that the area of a launch's tasks makes room for: the greatest one where it is fixed only at the placement
(R148). -/
def areaSpsize (l : Launch) : Nat := if l.spadkb = 0 then 6291456 else l.spadkb * 1024

/-- Areas that hold a task of a die: base and size. -/
def areasOn (s : State) (die : Nat) : List (Nat × Nat) :=
  s.tasks.filterMap (fun e =>
    if e.2.die == die && !e.2.ended then some (e.2.ctxBase, contextBytes (areaSpsize (s.launch e.2.launch))) else none)

/-- The highest free place of `size` bytes between two addresses. -/
def areaPlace (lo hi size : Nat) (taken : List (Nat × Nat)) : Option Nat :=
  ((hi :: taken.map (·.1)).filter (fun c =>
    decide (lo + size ≤ c) && decide (c ≤ hi) && taken.all (fun a => (overlapAt a (c - size, size)).isNone))).foldl
      (fun b c => match b with
        | some m => some (max m (c - size))
        | none => some (c - size)) none

/-- Where the HBM of a die takes a context area, besides others taken there. Which of the function's pages serve the spec
leaves open (log entry 123). -/
def areaOn (s : State) (die size : Nat) (more : List (Nat × Nat)) : Option Nat :=
  match s.physMap.find? (fun r => r.home == .hbm die) with
  | some r => areaPlace r.base (r.base + r.size) size (areasOn s die ++ more)
  | none => none

/-- The dies have room for one area each time they are named. -/
def areasFit (s : State) (size : Nat) : List Nat → List (Nat × Nat × Nat) → Bool
  | [], _ => true
  | d :: r, more =>
    match areaOn s d size ((more.filter (fun m => m.1 == d)).map (·.2)) with
    | some a => areasFit s size r ((d, a, size) :: more)
    | none => false

/-- The signal box's judgement of steps 2 to 8 of R143. `noContext` tells that the context areas cannot be reserved. -/
inductive Judgement where
  | reject (status : Nat)
  | empty
  | accept
deriving DecidableEq, Repr, Inhabited

def judge (s : State) (l : Launch) (module : Nat) (noContext : Bool) : Judgement :=
  let e := l.extent.toNat
  let r := l.resources.toNat
  let dies := (positions l).map (fun (x, y) => gridDie s l.fn (l.ox + x) (l.oy + y) module)
  let extentZero := bitsOf e 31 33 == 0
  let actionsBad := l.actions.toNat % 8 != 0 || (l.actions != 0 && (match directRead s l.fn l.actions true 32 with
    | .ok _ => false
    | .error _ => true))
  if 64 < l.width ∨ 64 < l.height ∨ (l.width ≠ 0 ∧ l.height ≠ 0 ∧ (64 < l.ox + l.width ∨ 64 < l.oy + l.height)) then .reject 1
  else if l.width = 0 ∨ l.height = 0 then .empty
  else if !extentZero || bitsOf r 4 4 != 0 || bitsOf r 21 3 != 0 || bitsOf r 33 31 != 0 || l.tail != 0
      || l.strands == 0 || 8 < l.strands || 6144 < l.spadkb || 384 < l.vregs || (l.det && l.spadkb == 0)
      || l.code.toNat % 4 != 0 || actionsBad then .reject 2
  else if dies.any Option.isNone then .reject 3
  else if l.det && detOverlap s l then .reject 4
  else if (dies.filterMap id).dedup.any (fun d =>
      !((List.range 36).any (fun c => coreServes ((s.die d).core c) && l.spadkb * 1024 ≤ usableBytes ((s.die d).core c)))) then
    .reject 5
  else if noContext || !areasFit s (contextBytes (areaSpsize l)) (dies.filterMap id) [] then .reject 6
  else .accept

/-- Lowest free entry of a remap table (R160). -/
def freeEntry (d : Die) : Option Nat := (List.range 1024).find? (fun e => (SMap.find e d.remap).isNone)

/-- Do the launch's tasks fit in the remap tables? -/
def entriesFit (s : State) (dies : List Nat) : Bool :=
  dies.dedup.all (fun d => dies.count d + (s.die d).remap.length ≤ 1024)

/-- Add one task of an accepted launch, with its context area (R147, R160, R161). -/
def addTask (s : State) (key : Nat) (l : Launch) (die x y : Nat) : State :=
  let t := s.nextTask
  let e := (freeEntry (s.die die)).getD 0
  let bytes := if l.spadkb = 0 then 6291456 else l.spadkb * 1024
  let first := newStrand l.code l.args
  let task : Task :=
    { launch := key, die := die, entry := e, lx := x, ly := y, spsize := bytes, strands := [(0, first)],
      ctxBase := (areaOn s die (contextBytes (areaSpsize l)) []).getD 0 }
  let s1 := { s with tasks := SMap.put t task s.tasks, nextTask := t + 1 }
  beginWait s (s1.modDie die (fun d => { d with remap := SMap.put e t d.remap })) die l.queue

/-- Give the DET owner tag to every page the launch may write (R132). -/
def writeTags (s : State) (fn tag : Nat) : State :=
  ((detPages s fn).map (·.2)).dedup.foldl (fun s pa => writePa s fn (pa + 6) ((bytesOf tag 2).map some)) s

/-- Accept a launch. -/
def acceptLaunch (s : State) (key : Nat) (l : Launch) (module : Nat) : State :=
  let tag := l.serial % 65535 + 1
  let s1 := if l.det then writeTags s l.fn tag else s
  let s2 := s1.modFunction l.fn (fun f => { f with launchCount := f.launchCount + 1 })
  let l' := { l with phaseOf := .accepted, launchId := (s.function l.fn).launchCount, ownerTag := tag, phase := 0,
                     pages := if l.det then ((detPages s l.fn).map (·.1)).dedup else [] }
  let s3 := { s2 with launches := SMap.put key l' s2.launches }
  (positions l).foldl (fun s (x, y) =>
    match gridDie s l.fn (l.ox + x) (l.oy + y) module with
    | some d =>
      let s' := addTask s key l' d x y
      slog s' d key 1 (y * 64 + x) 0 l.extent.toNat
    | none => s) s3

/-! ### Completion (R145, R155, R156) -/

/-- Where a word of a function lies. -/
def wordHome (s : State) (fn : Nat) (va : Word) : Option (Home × Nat) :=
  if 0x20000000000 ≤ va.toNat ∧ va.toNat < 0x20001000000 then
    let off := va.toNat - 0x20000000000
    if SMap.get 0 s.wown (off / 65536) = 256 + fn then some (.window (off / 0x800000), off) else none
  else
    match directPa s fn va .write true with
    | .ok pa => (homeFor s fn pa).map (fun h => (h, pa))
    | .error _ => none

/-- Write a word of a function's memory, or tell that it cannot be written. -/
def putWord (s : State) (fn : Nat) (va : Word) (f : Nat → Nat) : State × Bool :=
  match wordHome s fn va with
  | some (h, a) => (homeWrite s fn h a (enabledBytes (f (homeRead s h a 8)) 8), true)
  | none => (s, false)

/-- DONE's new value: −1, and bit 63 for any status but OK. -/
def doneStep (status v : Nat) : Nat :=
  let w := (v + 2 ^ 64 - 1) % 2 ^ 64
  if status = 0 then w else w ||| 2 ^ 63

/-- R145: DONE is decremented, then the status of a LAUNCH written; a write that faults is skipped and reported. -/
def signalDone (s : State) (l : Launch) (status : Nat) : State :=
  let (s1, ok1) := putWord s l.fn l.done (doneStep status)
  let (s2, ok2) := if l.byLaunch then putWord s1 l.fn (l.done + 8) (fun _ => status) else (s1, true)
  if ok1 && ok2 then s2 else raiseEvent s2 l.fn 5

/-- A launch is over: one that came by LAUNCH is signalled; one from a packet waits for its packet's completion, which
signals it (R430). -/
def finishLaunch (s : State) (key status : Nat) : State :=
  let l := s.launch key
  if l.byLaunch then
    let s1 := signalDone s l status
    { s1 with launches := SMap.del key s1.launches }
  else { s with launches := SMap.put key { l with phaseOf := .done status } s.launches }

/-- The signal box judges a waiting launch that is next in its queue (R143, R159, R160, R169). The spec does not say which
die's log takes a record of a whole launch: here a reject is recorded on die 0 of the module, and the close of a phase and
the end of a launch on the die of its first task (DESIGN CHOICE, log entry 124); nor the LAUNCHID and LCORE of a reject, whose
launch was never accepted: here both are 0 (DESIGN CHOICE, log entry 148). -/
def judgeLaunch (s : State) (key module : Nat) (noContext : Bool) : State :=
  let l := s.launch key
  let first := s.launches.all (fun e => !(e.2.queue == l.queue && e.2.phaseOf == .waiting && e.2.serial < l.serial))
  if l.phaseOf != .waiting || !first || (SMap.find key s.launches).isNone || s.service.resetting then s
  else
    match judge s l module noContext with
    | .reject st => logged s (8 * module) key 1 (fun s => finishLaunch (slog s (8 * module) key 2 0 0 st) key st)
    | .empty => finishLaunch s key 0
    | .accept =>
      let dies := (positions l).filterMap (fun (x, y) => gridDie s l.fn (l.ox + x) (l.oy + y) module)
      if entriesFit s dies && dies.all (fun d => slogRoomFor s d key (dies.count d)) then acceptLaunch s key l module
      else if entriesFit s dies then raiseEvent s l.fn 0 else s

/-- Tasks of a launch. -/
def tasksOf (s : State) (key : Nat) : SMap Task := s.tasks.filter (fun e => e.2.launch == key)

/-- A semaphore whose E no one has read (R184), lowest first. -/
def unreadSem (t : Task) : Option Nat := (t.sems.find? (fun e => e.2.e && !e.2.obs)).map (·.1)

/-- Check every armed monitor of a launch (R401): the launch after it, its monitors that fail with their traps due. -/
def checkMonitors (s : State) (key : Nat) : State :=
  let phase := (s.launch key).phase
  s.modLaunch key (fun l => { l with monitors := l.monitors.map (fun (n, m) =>
    if m.armed && !m.clearing then
      let (m', c) := monCheck m phase ((s.task m.party.1).monctl.getLsbD n)
      (n, { m' with due := c.orElse (fun _ => m.due) })
    else (n, m)) })

/-- The traps of a launch's monitors that are due, in number order: cause, number, party. -/
def dueTraps (s : State) (key : Nat) : List (Nat × Nat × Nat × Nat) :=
  (s.launch key).monitors.filterMap (fun (n, m) => m.due.map (fun c => (c, n, m.party.1, m.party.2)))

/-- A trap of the closing checks that no strand receives: the launch has failed, and the scheduler log records the trap
under the action KILL (R154, R155, log entry 125). -/
def closeLost (s : State) (key t cause : Nat) : State :=
  let x := s.task t
  (slog s x.die key 6 x.lcore (x.core?.getD 0) cause).modLaunch key (fun l => { l with failed := true })

/-- Every die of a launch has room for the records that an end of a phase or of the launch may take: one for each task and
each monitor, and its own. -/
def closeRoom (s : State) (key : Nat) : Bool :=
  let ts := tasksOf s key
  let n := (ts.map (fun e => 2 + (e.2.strands.map (fun k => k.2.reports.length)).sum)).sum + (s.launch key).monitors.length + 1
  (ts.map (·.2.die)).dedup.all (fun d => slogRoomFor s d key n)

/-- No request of the launch's tasks is on its way. -/
def launchQuiet (s : State) (key : Nat) : Bool :=
  s.net.all (fun e => e.2.chan == 2 || (s.task e.2.acc.who.task).launch != key)

/-- A warm reset under way touches the launch, which then waits for its end (R443). -/
def heldByReset (s : State) (key : Nat) : Bool := s.service.resetting && s.service.touched.contains key

/-- R145, R155, R156: every task has ended; the final checks decide the status, and DONE is signalled. -/
def execLaunchCompletion (s : State) : Host.Outcome State Fault Refusal :=
  let key := s.sel.item
  let l := s.launch key
  let ts := tasksOf s key
  if (SMap.find key s.launches).isNone || l.phaseOf != .accepted || !(ts.all (fun e => e.2.ended)) || !launchQuiet s key
      || heldByReset s key then
    .next s
  else if !closeRoom s key then .next (raiseEvent s l.fn 0)
  else
    let reports := ts.flatMap (fun e => e.2.strands.flatMap (fun k => k.2.reports.map (fun r => (e.1, r.trap.cause))))
    let unread := ts.filterMap (fun e => (unreadSem e.2).map (fun _ => (e.1, 25)))
    let s1 := checkMonitors s key
    let lost := reports ++ unread ++ (dueTraps s1 key).map (fun (c, _, t, _) => (t, c))
    let s2 := lost.foldl (fun s x => closeLost s key x.1 x.2) s1
    let status := if (s2.launch key).failed then 7 else if l.det && l.dataErr then 9 else 0
    let die := ((ts.head?).map (fun e => e.2.die)).getD 0
    let s3 := finishLaunch (slog s2 die key 9 0 0 status) key status
    .next { s3 with tasks := s3.tasks.filter (fun e => e.2.launch != key),
                    roundsDone := s3.roundsDone.filter (fun e => e.1 != key) }

/-- R152, R200: a task without a live strand ends once its commands have completed; its core and entry are free. -/
def execTaskEnd (s : State) : Host.Outcome State Fault Refusal :=
  let t := s.sel.task
  let x := s.task t
  if s.hasTask t && !x.ended && x.strands.all (fun e => !e.2.live) && x.queues.all (fun e => e.2.isEmpty) then
    .next (logged s x.die x.launch 1 (fun s =>
      let s1 := slog s x.die x.launch 7 x.lcore (x.core?.getD 0) 0
      let s2 := s1.modTask t (fun x => { x with ended := true, place := .parked, leaving := none, freeze := none })
      s2.modDie x.die (fun d => { d with remap := SMap.del x.entry d.remap })))
  else .next s

/-! ### Barriers and phases (R152 to R154) -/

/-- Every member of a team has arrived at the barrier with a number. -/
def teamArrived (ts : SMap Task) (key n : Nat) : Bool :=
  ts.all (fun e => e.2.ended || decide (n < SMap.get 0 e.2.arrived key)) && ts.any (fun e => !e.2.ended)

/-- R152: the barrier of a team completes. `sel.item` is the shape's key, `sel.task` a member. -/
def execTeamBarrierCompletion (s : State) : Host.Outcome State Fault Refusal :=
  let t := s.sel.task
  let x := s.task t
  let key := s.sel.item
  let l := s.launchOf t
  let n := completed l x key
  let team := (tasksOf s x.launch).filter (fun e => teamOf e.2 key == teamOf x key)
  if s.hasTask t && key != 0x80 && teamArrived team key n then
    .next (s.modLaunch x.launch (fun l => { l with barriers := SMap.put (barrierKey x key) (n + 1) l.barriers }))
  else .next s

/-- A trap of the closing steps in a strand (R154). -/
def closingTrap (s : State) (t k : Nat) (tr : Trap) (pc : Word) (ilen : Nat) : State :=
  takeTrap (s.modStrand t k (fun x => { x with closing := true })) t k none tr pc ilen

/-- The lowest live strand of a task. -/
def lowestLive (t : Task) : Option Nat := (List.range 8).find? (fun k => (t.strand k).live)

/-- Step 1 of R154: reports of faulted stores, one to a task. -/
def closeReports (s : State) (key : Nat) : State × Bool :=
  (tasksOf s key).foldl (fun (s, hit) e =>
    match (List.range 8).find? (fun k => !((s.strand e.1 k).reports.isEmpty)) with
    | none => (s, hit)
    | some k =>
      match (s.strand e.1 k).reports with
      | [] => (s, hit)
      | r :: rest =>
        let s1 := s.modStrand e.1 k (fun x => { x with reports := rest })
        if (s1.strand e.1 k).live then (closingTrap s1 e.1 k r.trap r.pc r.ilen, true)
        else (closeLost s1 key e.1 r.trap.cause, hit)) (s, false)

/-- Step 2 of R154: unread E bits. -/
def closeUnread (s : State) (key : Nat) : State × Bool :=
  (tasksOf s key).foldl (fun (s, hit) e =>
    match unreadSem (s.task e.1) with
    | none => (s, hit)
    | some n =>
      match lowestLive (s.task e.1) with
      | some k => (closingTrap s e.1 k { cause := 25, tval := w64 n } (s.strand e.1 k).r.pc (lengthAt s e.1 k), true)
      | none => (closeLost s key e.1 25, hit)) (s, false)

/-- Step 3 of R154: the monitors, each trap in its arming strand or the lowest live one of the arming task. A task that this
pass has frozen already takes the trap of a further monitor in a later pass. -/
def closeMonitors (s : State) (key : Nat) : State × Bool :=
  let s1 := checkMonitors s key
  (dueTraps s1 key).foldl (fun (s, hit) (c, n, t, k) =>
    let x := s.task t
    let taken := fun (s : State) => s.modLaunch key (fun l => l.setMon n { l.mon n with due := none })
    match (if (x.strand k).live then some k else lowestLive x) with
    | some k => if x.freeze.isSome then (s, true)
        else (closingTrap (taken s) t k { cause := c, tval := w64 n } (s.strand t k).r.pc (lengthAt s t k), true)
    | none => (closeLost (taken s) key t c, hit)) (s1, false)

/-- What step 4 of R154 leaves of a task: no stamp, role, holder, owner or waiter record; SEQ 0; flags joined. -/
def phaseTask (t : Task) : Task :=
  let t1 := joinFlags { t with recs := { flags0 := t.recs.flags0 } }
  { t1 with strands := t1.strands.map (fun (k, x) => (k, { x with seq := 0, used := x.live })) }

/-- R154: every task has arrived at a launch-team barrier; the closing steps run, and the first that raises a trap in a
strand stops them. `sel.item` is the launch. -/
def execPhaseClose (s : State) : Host.Outcome State Fault Refusal :=
  let key := s.sel.item
  let l := s.launch key
  let ts := tasksOf s key
  let n := SMap.get 0 l.barriers (0x80 * 64 * 64)
  if (SMap.find key s.launches).isNone || !(teamArrived ts 0x80 n)
      || ts.any (fun e => e.2.freeze.isSome || e.2.strands.any (fun k => k.2.live && k.2.closing)) then .next s
  else if !closeRoom s key then .next (raiseEvent s l.fn 0)
  else
    let (s1, h1) := closeReports s key
    if h1 then .next s1
    else
      let (s2, h2) := closeUnread s1 key
      if h2 then .next s2
      else
        let (s3, h3) := closeMonitors s2 key
        if h3 then .next s3
        else
          let s4 := (tasksOf s3 key).foldl (fun s e => s.modTask e.1 phaseTask) s3
          let s5 := s4.modLaunch key (fun l => { l with
            phase := l.phase + 1, monitors := l.monitors.map (fun (n, m) => (n, monPhase m)),
            barriers := SMap.put (0x80 * 64 * 64) (n + 1) l.barriers })
          let die := ((ts.head?).map (fun e => e.2.die)).getD 0
          let s6 := slog s5 die key 8 0 0 ((s5.launch key).phase.toNat)
          .next { s6 with roundsDone := s6.roundsDone.filter (fun e => e.1 != key) }

/-! ### Waits (R6, R185, R186, R243) -/

/-- Does the condition of a wait hold? Waits for order, readiness and answers are tried again by issuing. -/
def waitOver (s : State) (t k : Nat) (w : Wait) : Bool :=
  let x := s.task t
  let mine := fun (f : FeWaiter) => f.req.isNone && f.acc.who.strand == k
  match w.kind with
  | 1 => decide (w.amount ≤ (x.sem w.object).count)
  | 3 => (match spadTarget s t (w64 w.object) with
    | some (_, off) =>
      let here := x.feWaiters.filter (fun f => f.acc.addr / 8 == off / 8 && mine f)
      here.isEmpty || here.any (·.granted.isSome) || (firstReady x (off / 8)).any mine
    | none => true)
  | 4 => !(x.fifo w.object).isEmpty
  | 6 => (x.strand k).arrivals.all (fun a =>
      a.shape != w.object || a.left || decide (a.index < completed (s.launchOf t) x w.object))
  | 8 => decide ((x.queue w.object).length < queueSize w.object)
  | 10 => !(x.loop w.object).act
  | 12 => decide (buffersUsed x < 64)
  | _ => true

/-- R6: a strand under WAIT_UNTIL issues again once its condition holds. -/
def execWaitUntilMet (s : State) : Host.Outcome State Fault Refusal :=
  let t := s.sel.task
  let k := s.sel.strand
  match (s.strand t k).wait with
  | none => .next s
  | some w =>
    if s.hasTask t && waitOver s t k w then
      .next (s.modStrand t k (fun x => { x with wait := none, lastWait := some w }))
    else .next s

/-- R243: 10 µs without another event end an IDLE. -/
def execIdleTimeout (s : State) : Host.Outcome State Fault Refusal :=
  let t := s.sel.task
  let k := s.sel.strand
  match (s.strand t k).idle with
  | none => .next s
  | some c =>
    if s.hasTask t && decide (c.toNat + 10000 ≤ s.clock.toNat) then
      .next (s.modStrand t k (fun x => { x with idle := none }))
    else .next s

/-- Something of the task could still move by itself (R186): a live strand not under WAIT_UNTIL. A wait of kind 0, for a
walk or a register, is none. -/
def inFlight (t : Task) : Bool := t.strands.any (fun e => e.2.live && (e.2.wait.map (·.kind)).getD 0 == 0)

/-- SS of a command that signals, if it does. -/
def signalsOf (i : Instr) : Option Nat :=
  let ec := fun (f : EC) => if f.si = 0 then none else some f.ss.toNat
  let ex := fun (f : EX) => if f.si = 0 then none else some f.ss.toNat
  match i with
  | .mclaim f | .mrel f | .mstat f | .mzero f => ec f
  | .mgo _ f | .mtile _ f | .mdrain _ f | .mldacc _ f | .mspgo _ f => ec f
  | .cpy _ f | .cpy2d _ f | .flush _ f | .grow _ f | .gscat _ f => ec f
  | .cpyslot f | .cpyslotClaim f | .cpyslotOut f | .fill f => ec f
  | .gbag _ _ f => ec f
  | .xstep f | .xsend f | .xrecv f | .xred f => ex f
  | _ => none

/-- Effective address of a full/empty instruction (R225, R226). -/
def feAddress (r : StrandRegs) (i : Instr) : Option Word :=
  match i with
  | .ldfe _ a disp | .ldff _ a disp | .stef _ a disp | .stfl _ a disp => some (eaSM (r.gr a.toNat) disp 8)
  | .feq _ a | .sete a | .setf a => some (r.gr a.toNat)
  | _ => none

/-- The state an instruction sets a word to, where it changes it (R113). -/
def feSets (i : Instr) : Option Bool :=
  match i with
  | .stef _ _ _ | .stfl _ _ _ | .setf _ => some true
  | .ldfe _ _ _ | .sete _ => some false
  | _ => none

/-- The state an operation sets a word to, where it changes it (R113). -/
def FeOp.sets (op : FeOp) : Option Bool :=
  match op with
  | .stef => some true
  | .stfl => some true
  | .setf => some true
  | .ldfe => some false
  | .sete => some false
  | .ldff => none
  | .feq => none

/-- The commands queued or started in the core but `self`, with the instructions at which strands but `mine` wait as commands
not yet pushed (R186): their registers are those of the strand, a gather's descriptor is read where it stands, and `a` is the
address of a full/empty instruction. -/
def providers (s : State) (t self : Nat) (mine : Option Nat) : List Entry :=
  let x := s.task t
  let queued := (x.queues.flatMap (·.2) ++ x.strands.filterMap (·.2.routine)).filter (fun e => e.serial != self)
  let waiting := (List.range 8).filterMap (fun k =>
    let y := x.strand k
    if y.live && y.wait.isSome && y.routine.isNone && mine != some k then
      match fetchAt s t k with
      | .run i =>
        let reg := fun (n : Nat) => ((copyRegs i).getD n none).map (fun r => (y.r.gr r.toNat).toNat)
        let c := match i with
          | .xsend f | .xrecv f | .xred f => y.r.gr f.c.toNat
          | _ => 0
        let tab := if (matEngine i).2 = 0 then x.eng.table0 else x.eng.table1
        some { cmd := i, strand := k,
               cap := { a := (feAddress y.r i).getD 0, c, table := tab, desc := leNat (readBytes x.spad (((reg 1).getD 0) % 2 ^ 23) 64) } }
      | .fate _ => none
      | .stop _ _ => none
    else none)
  queued ++ waiting

/-- The positions of a ring that a nest reaches from an offset. -/
def ringReach (tab : SMap (BitVec 32)) (off field : Nat) : List Nat :=
  let (base, len, _) := tabRing tab
  let step := fun (l : List Nat) (lv : Nat) =>
    (l.flatMap (fun p => (List.range (min (tabExt tab lv) len)).map (fun (i : Nat) =>
      (((p : Int) + (i : Int) * tabSigned tab lv field 8) % (len : Int)).toNat))).dedup
  ((List.range 6).foldl step [off % len]).map (· + base)

/-- A nest releases a slot. -/
def mgoFrees (tab : SMap (BitVec 32)) (q8 : Bool) (n : Nat) : Bool :=
  let (_, _, ao, bo, ra, rb) := tabRing tab
  let side := fun (r : Bool) (off field : Nat) =>
    r && (ringReach tab off field).any (fun p => p == n || (q8 && slotAbove p == n))
  side ra ao 1 || side rb bo 2

/-- The command makes a slot READY: a fill of it, or an MSPGO that gathers into it (R186). -/
def fills (n : Nat) (e : Entry) : Bool :=
  match e.cmd with
  | .cpyslot f | .cpyslotClaim f => f.a.toNat % 32 == n
  | .mspgo _ f => f.b.toNat % 32 == n && e.progress == 0
  | _ => false

/-- The command makes a slot EMPTY: a use with release, an MREL, or a started use of a DRAINING slot (R186). -/
def frees (t : Task) (n : Nat) (e : Entry) : Bool :=
  ((t.slot n).state == 3 && e.uses.any (·.1 == n))
    || (match e.cmd with
      | .mrel f => f.a.toNat % 32 == n
      | .mtile fn f =>
        let q8 := fn.getLsbD 5
        (usesOf q8 (f.a.toNat % 32) (f.b.toNat % 32) (f.c.getLsbD 2) (f.c.getLsbD 3)).any (fun u => u.1 == n && u.2)
      | .mspgo _ f => f.b.toNat % 32 == n || (f.a.toNat % 32 == n && f.c.getLsbD 2)
      | .mgo fn _ => (matSlots e.cmd e.cap.ft e.cap.table).contains n && mgoFrees e.cap.table (fn.getLsbD 5) n
      | _ => false)

/-- The command produces elements of an output FIFO (R186). -/
def feedsFifo (n : Nat) (e : Entry) : Bool :=
  match e.cmd with
  | .grow _ _ | .gbag _ _ _ | .gscat _ _ => n == 0 && bitOf (gatherOf e.cap.desc).flags 0
  | .xsend _ | .xrecv _ | .xred _ => n == 1 && ctlFifo e.cap.c
  | _ => false

/-- The command, or an SSIG, adds to a semaphore of the task. -/
def signalsTo (n : Nat) (e : Entry) : Bool :=
  match e.cmd with
  | .ssig _ k => k.toNat == n
  | i => signalsOf i == some n

/-- A word of the own scratchpad that an address leads to. -/
def ownWord (s : State) (t : Nat) (va : Word) : Option Nat :=
  match spadTarget s t va with
  | some (p, off) => if p = t then some (off / 8) else none
  | none => none

/-- R186: nothing in the core could end the wait; `self` is the serial number of a command that waits, `mine` the strand that
waits, `q` the queue of the command. No wait of the XE is an orphan (R383). -/
def orphan (s : State) (t self : Nat) (mine q : Option Nat) (w : Wait) : Bool :=
  let x := s.task t
  if inFlight x then false
  else
    let any_ := fun (f : Entry → Bool) => (providers s t self mine).any f
    match w.kind with
    | 1 => !any_ (signalsTo w.object)
    | 2 => q != some 8 && !any_ (signalsTo w.object)
    | 3 =>
      (match ownWord s t (w64 w.object) with
      | none => false
      | some n =>
        !(x.feWaiters.any (fun f => f.acc.addr / 8 == n && !(f.req.isNone && some f.acc.who.strand == mine)
            && f.acc.feOp.1.sets == some (w.amount == 1)))
          && !any_ (fun e => feSets e.cmd == some (w.amount == 1) && ownWord s t e.cap.a == some n))
    | 4 => !any_ (feedsFifo w.object)
    | 5 => !any_ (if w.amount = 2 then fills w.object else frees x w.object)
    | _ => false

/-- Waiters of the hang record: strands, then queue heads, as 8-byte entries (R185). A full/empty operation that waits for the
answer of a peer stands under KIND 7, a remote reply (DESIGN CHOICE, log entry 136). -/
def hangWaiters (s : State) (t : Nat) : List Nat :=
  let task := s.task t
  let entry := fun (eng num self : Nat) (w : Wait) =>
    let o := if eng = 0 then orphan s t self (some num) none w else orphan s t self none (some num) w
    packFields [(w.kind, 4), (eng, 1), (num, 4), (b2n o, 1), (0, 6), (w.object, 48)]
  ((List.range 8).filterMap (fun k =>
    let x := task.strand k
    let self := (x.routine.map (·.serial)).getD 0
    if !x.live then none
    else
      match x.wait, x.outs.find? (·.parks) with
      | some w, _ => if w.kind = 0 then none else some (entry 0 k self w)
      | none, some o => some (entry 0 k self { kind := 7, object := o.acc.va.toNat % 2 ^ 48 })
      | none, none => none))
    ++ ((List.range 9).filterMap (fun q =>
      match task.queue q with
      | e :: _ => e.wait.bind (fun w => if w.kind = 0 then none else some (entry 1 q e.serial w))
      | [] => none))

/-- Bytes 0x200 to 0x7FF of a hang record. -/
def hangBytes (s : State) (t : Nat) : List Byte :=
  let l := hangWaiters s t
  (List.range 256).flatMap (fun n => bytesOf ((s.task t).sem n).word 4)
    ++ (List.range 64).flatMap (fun i => bytesOf (l.getD i 0) 8)

/-- A wait that has reached the stall time-out: the strand, and the queue of a waiting command; under a freeze only the handler
strand's (R175). -/
def hung (s : State) (t : Nat) : Option (Nat × Option Nat) :=
  let x := s.task t
  let late := fun (since : Word) => decide (since.toNat + 1000000 * (s.die x.die).hangto ≤ s.clock.toNat)
  let strand := (List.range 8).find? (fun k =>
    let y := x.strand k
    y.live && freezeLets x k && ((match y.wait with
      | some w => w.kind != 0 && late w.since
      | none => false) || y.outs.any (fun o => o.parks && late o.since)))
  match strand with
  | some k => some (k, none)
  | none =>
    if x.freeze.isSome then none
    else ((List.range 9).find? (fun q =>
      match x.queue q with
      | e :: _ => (match e.wait with
        | some w => w.kind != 0 && late w.since
        | none => false)
      | [] => false)).map (fun q =>
        (match x.queue q with
          | e :: _ => faultStrand x e
          | [] => 0, some q))

/-- R185: the task traps HANG and its record slot receives the hang record. -/
def execHang (s : State) : Host.Outcome State Fault Refusal :=
  let t := s.sel.task
  let x := s.task t
  if !s.hasTask t || x.ended || x.killed || x.place == .parked then .next s
  else
    match hung s t with
    | none => .next s
    | some (k, none) => .next (takeTrap s t k none { cause := 24 } (s.strand t k).r.pc (lengthAt s t k) (hangBytes s t))
    | some (k, some q) =>
      match x.queue q with
      | e :: _ => .next (takeTrap s t k (some q) { cause := 24 } e.pc (parcels e.cmd) (hangBytes s t))
      | [] => .next s

/-! ### The driver and the debugger (R171, R178) -/

/-- Shift the beginnings of waits past the time spent parked (R185). -/
def shiftWaits (t : Task) (by_ : Word) : Task :=
  let entry := fun (e : Entry) => { e with wait := e.wait.map (fun w => { w with since := w.since + by_ }) }
  { t with queues := t.queues.map (fun (q, l) => (q, l.map entry)), strands := t.strands.map (fun (k, x) => (k, { x with
    routine := x.routine.map entry,
    lastWait := (x.wait.orElse (fun _ => x.lastWait)).map (fun w => { w with since := w.since + by_ }), wait := none,
    outs := x.outs.map (fun o => { o with since := o.since + by_ }) })) }

/-- R178: the resume command acts as REPLAY without the limit of R179; the task waits for a core again (R158). -/
def execParkResume (s : State) : Host.Outcome State Fault Refusal :=
  let t := s.sel.task
  let x := s.task t
  if s.hasTask t && x.place == .parked && !x.ended && !x.killed then
    .next (beginWait s (s.modTask t (fun x => { shiftWaits x (s.clock - x.parkedSince.getD s.clock) with
      place := .saved, parkedSince := none })) x.die (s.launch x.launch).queue)
  else .next s

/-- R178: the kill command acts as KILL. -/
def execParkKill (s : State) : Host.Outcome State Fault Refusal :=
  let t := s.sel.task
  let x := s.task t
  if s.hasTask t && x.place == .parked && !x.ended && !x.killed then .next (killTask s t) else .next s

/-- R394: the guard compares what the strand has written since its last sync point. -/
def execForcedSyncPoint (s : State) : Host.Outcome State Fault Refusal :=
  let t := s.sel.task
  let k := s.sel.strand
  let x := s.strand t k
  if s.hasTask t && x.live && decide (64 ≤ x.sinceSync) then
    match s.sel.guard with
    | .agree => .next (guardAgree s t k)
    | .mismatch => .next (guardMismatch s t k x.r.pc (lengthAt s t k))
  else .next s

/-- R171: a debugger writes DBGCTL of a task. -/
def execDebugPathWrite (s : State) : Host.Outcome State Fault Refusal :=
  if s.hasTask s.sel.task then .next (s.modTask s.sel.task (fun x => { x with dbgctl := s.sel.val &&& 0x1F })) else .next s

end Sys2Proof.Machine
end

