-- ==== Sys2Proof/Machine/Branch.lean ====
section
/-!
DEFINITION. Branches and counted loops (R211 to R218).
-/
namespace Sys2Proof.Machine

/-- R211: branches by words when p[P] XOR NEG is 1. -/
def execB (p : BitVec 4) (neg : Bool) (disp : BitVec 19) (s : State) : Host.Outcome State Fault Refusal :=
  strandStep (.b p neg disp) (do
    let st ← curStrand
    pure (if st.r.pred p.toNat != neg then .jump (branchTo st.r.pc disp) else .fall)) s

/-- R212: always taken; the return address goes to g[D]. -/
def execBl (d : Reg) (disp : BitVec 18) (s : State) : Host.Outcome State Fault Refusal :=
  strandStep (.bl d disp) (do
    let pc ← curPc
    wr d (pc + 4)
    pure (.jump (branchTo pc disp))) s

/-- R213: a target with bits 1:0 nonzero traps MISALIGNED and leaves g[D]. -/
def execJalr (d a : Reg) (imm : BitVec 12) (s : State) : Host.Outcome State Fault Refusal :=
  strandStep (.jalr d a imm) (do
    let x ← rdOut a
    let pc ← curPc
    let target := x + immOf imm
    needAligned target 4
    wr d (pc + 4)
    pure (.jump target)) s

/-- Active loops that a strand owns. -/
def ownedLoops (t : Task) (k : Nat) : Nat :=
  (List.range 4).countP (fun n => (t.loop n).act && (t.loop n).own == k)

/-- Where a LOOPS with count 0 goes: past its end instruction, whose LEN bits it fetches. An end that does not fetch, or
whose LEN is 0b11, is where the strand goes on, and takes its trap there (R214, log entry 26). -/
def loopSkip (fin : Word) : M Next := do
  let s ← getS
  match fetchParcel s s.sel.task s.sel.strand fin with
  | .ok p => pure (if p % 4 = 3 then .skip fin else .skip (fin + w64 (4 * (p % 4 + 1))))
  | .error (.trap _) => pure (.skip fin)
  | .error e => stop e

/-- R214: starts a counted loop on lc n, or passes over its body when the count is 0. -/
def execLoops (n : BitVec 2) (a : Reg) (imm : BitVec 12) (s : State) : Host.Outcome State Fault Refusal :=
  strandStep (.loops n a imm) (do
    let cnt ← rdOut a
    let pc ← curPc
    let s ← getS
    let t ← curTask
    let l ← curLaunch
    let k := s.sel.strand
    let fin := pc + imm.setWidth 64 <<< 2
    let c := t.loop n.toNat
    if c.act && c.own != k then
      if l.det then trapRes 14 (0x60 + n.toNat) else waitM 10 n.toNat
    let c := { c with act := false, value := 0 }
    modCurTask (fun t => t.setLoop n.toNat c)
    if cnt = 0 then loopSkip fin
    else do
      modCurTask (fun t => t.setLoop n.toNat
        { value := 0, act := true, own := k, depth := ownedLoops t k, start := pc + 4, stop := fin, count := cnt })
      pure .fall) s

end Sys2Proof.Machine
end

