-- ==== Sys2Proof/Machine/Network.lean ====
section
/-!
DEFINITION. Messages: hops and link failures (R365 to R368, R371), requests at their homes and forwarding (R104, R125,
R164, R369), combining and splitting (R134, R372 to R376), and what an answer does to its requester (R123, R125, R246).
-/
namespace Sys2Proof.Machine

/-! ### Order of messages (R107, R124, R125) -/

/-- Made by a strand itself, in scalar or vector form. -/
def Party.direct (p : Party) : Bool := p.queue.isNone || p.queue == some 0

/-- Two accesses of one strand in one ordering class to one home (R107). -/
def sameStream (a b : Msg) : Bool :=
  a.acc.home == b.acc.home && a.acc.who.task == b.acc.who.task && a.acc.who.strand == b.acc.who.strand
    && a.acc.cls == b.acc.cls && a.acc.who.direct && b.acc.who.direct

/-- An access of the stream that has not performed: a request, or one whose redirect is on its way back (R125). -/
def Msg.unperformed (m : Msg) : Bool :=
  m.chan != 2 || (match m.reply with
    | some (.redirect _) => true
    | _ => false)

/-- An older access of the strand, class and home has not performed. -/
def streamWaits (s : State) (m : Msg) : Bool :=
  s.net.any (fun e => sameStream e.2 m && e.2.unperformed
    && match e.2.req.id?, m.req.id? with
      | some i, some j => i < j
      | _, _ => false)

/-- Source station, destination station and class of two messages agree, and rings lie between them (R124). -/
def samePair (a b : Msg) : Bool :=
  a.chan == b.chan && a.srcStation == b.srcStation && a.dstStation == b.dstStation && a.srcStation != a.dstStation

/-- The message has reached its destination and may be taken there: none of its pair is older, nor one of its stream. -/
def deliverable (s : State) (m : Msg) : Bool :=
  m.at_ == m.dstStation && !m.xbar && !m.pendingFwd && !streamWaits s m
    && s.net.all (fun e => !(samePair e.2 m && !e.2.xbar && !e.2.held && e.2.entered < m.entered))

/-- Remove a message. -/
def dropMsg (s : State) (id : Nat) : State := { s with net := SMap.del id s.net }

/-- Change a message. -/
def modMsg (s : State) (id : Nat) (f : Msg → Msg) : State := { s with net := SMap.upd id f s.net }

/-! ### Answers -/

/-- One answer for each requester of a merged no-return request (R374). -/
def expandAnswer (s : State) (a : Answer) : List Answer :=
  match a.req with
  | .list ids => ids.map (fun (p, id) => { a with req := .acc p id, station := dieStation (s.task p.task).die })
  | .acc _ _ => [a]
  | .entry _ => [a]

/-- Send answers, to every requester. -/
def sendAll (s : State) (l : List Answer) : State := sendAnswers s (l.flatMap (expandAnswer s))

/-- Answer a message. -/
def answer (s : State) (m : Msg) (station : Nat) (r : Reply) : State :=
  sendAll s [{ req := m.req, station, acc := m.acc, reply := r }]

/-- Strand accesses a requester stands for, through coupling entries. -/
def requesters (s : State) : Nat → Requester → List (Party × Nat)
  | _, .acc p id => [(p, id)]
  | _, .list ids => ids
  | 0, .entry _ => []
  | n + 1, .entry k =>
    match SMap.find k s.couplings with
    | some c => requesters s n c.first ++ requesters s n c.second
    | none => []

/-- The home has taken the access into a wait without bound (R246). -/
def markAccepted (s : State) (req : Requester) : State :=
  (requesters s s.couplings.length req).foldl (fun s (p, id) =>
    if p.queue.isSome then s
    else s.modStrand p.task p.strand (fun x => { x with
      outs := x.outs.map (fun o => if o.id = id then { o with accepted := true } else o) })) s

/-! ### Flits (R365) -/

/-- KIND of a message. -/
def Msg.kind (m : Msg) : Nat :=
  match m.reply with
  | some (.data _) => 0
  | some (.dataOvf _) => 0
  | some (.ack _) => 1
  | some (.redirect _) => 2
  | some (.fault _) => 3
  | none =>
    match m.acc.op with
    | .load => 0
    | .collRead => 0
    | .store _ => 1
    | .atomic _ _ => 2
    | .cas _ _ => 2
    | .amox _ _ => 2
    | .rowAdd _ _ => 2
    | .amor _ _ _ _ _ => 3
    | .signal _ _ => 4
    | .fe _ _ => 5
    | .coll _ => 4

/-- TAG: the requester's, or the coupling entry of the switch that merged the request (R373). -/
def Msg.tag (m : Msg) : Nat :=
  match m.req with
  | .acc _ id => id % 2 ^ 10
  | .entry k => k % 2 ^ 10
  | .list _ => 0

/-- The number of the switch at a station that holds a coupling entry: its ring station's, or its crossbar's (R448). -/
def switchSource (s : State) (station k : Nat) : Nat :=
  sourceNo station (if (SMap.find k s.couplings).any (fun c => c.switch % 2 == 1) then 0x81 else 0x80)

/-- SRC: the requester or home that sends the message, or the switch that merged it (R373, R448). -/
def Msg.src (s : State) (m : Msg) : Nat :=
  match m.reply, m.req with
  | none, .entry k => switchSource s m.srcStation k
  | _, _ => m.source

/-- DEST: the home of a request, the requester of a response. -/
def Msg.dest (s : State) (m : Msg) : Nat :=
  if m.chan = 2 && m.reply.isSome then
    match m.req with
    | .acc p _ => taskSource s p.task
    | .entry k => switchSource s m.dstStation k
    | .list ids => ((ids.head?).map (fun p => taskSource s p.1.task)).getD 0
  else homeSource s m.acc.home

/-- The 64 bits of a flit's header that its CRC covers. The CRC over it and the flit is what a hop finds (R365, R368). -/
def flitHeader (s : State) (m : Msg) : Nat :=
  m.chan % 4 + 2 ^ 2 * m.kind + 2 ^ 6 * (m.dest s % 2 ^ 16) + 2 ^ 22 * (m.src s % 2 ^ 16) + 2 ^ 38 * m.tag
    + 2 ^ 48 * (m.seq % 16) + 2 ^ 52 * m.nfl + 2 ^ 56 * (m.fn % 256)

/-- The lane of 32 that carries a message (R364, R365). -/
def laneOf (s : State) (m : Msg) : Nat := Config.ringLane (m.dest s) m.chan % 32

/-! ### Hops (R364, R367, R368, R371) -/

/-- The hop a message on a ring takes next. -/
def hopOf (s : State) (m : Msg) : Hop := nextHop (podModules s) m.at_ m.dstStation

/-- Slots of a lane: 240 ns of slots every 250 ps on a package ring; a rack ring's number is not given (R364). -/
def laneSlot (s : State) (h : Hop) : Nat := if h.ring < 16 then s.sel.count % 960 else s.sel.count

/-- Another message's flit is in a slot of the lane of this ring and direction. -/
def slotTaken (s : State) (id : Nat) (m : Msg) (h : Hop) (n : Nat) : Bool :=
  s.net.any (fun e => e.1 != id && e.2.slot == some n
    && (let g := hopOf s e.2
        g.ring == h.ring && g.ccw == h.ccw && laneOf s e.2 == laneOf s m))

/-- An older message of the pair has not passed the end of the ring (R124). -/
def pairAhead (s : State) (m : Msg) : Bool :=
  let left := fun (x : Msg) => hopsBetween (podModules s) x.at_ x.dstStation
  s.net.any (fun e => samePair e.2 m && !e.2.xbar && e.2.entered < m.entered && left m ≤ left e.2)

/-- The place of a station's refusal of a message. -/
def refusal (m : Msg) (station : Nat) : Option Nat := (m.refusedAt.find? (fun r => r.1 == station)).map (·.2)

/-- A message of the same source and class that a station has refused has not come round again: for a message refused
there too, one refused before it (R367). -/
def refusedAhead (s : State) (id : Nat) (m : Msg) (station : Nat) : Bool :=
  s.net.any (fun e => e.1 != id && e.2.chan == m.chan && e.2.src s == m.src s && e.2.slot.isSome
    && (hopOf s e.2).next == station
    && match refusal e.2 station, refusal m station with
      | some i, some j => i < j
      | some _, none => true
      | none, _ => false)

/-- The place a request names no longer holds its scratchpad home (R125, R164). -/
def movedAway (s : State) (m : Msg) : Bool :=
  match m.acc.home with
  | .spad p => s.hasTask p && (s.task p).core? != m.core
  | .hbm _ => false
  | .host _ => false
  | .window _ => false

/-- Forward-pending entries of a station in use (R369). -/
def pendingForwards (s : State) (station : Nat) : Nat :=
  (s.net.filter (fun e => e.2.pendingFwd && e.2.at_ == station)).length

/-- The station a hop leads to is the home's, which has no entry free for a request that it must forward, and has reserved
no buffer for it (R369). -/
def noEntry (s : State) (m : Msg) (next : Nat) : Bool :=
  m.chan == 0 && next == m.dstStation && movedAway s m && decide (32 ≤ pendingForwards s next) && (refusal m next).isNone

/-- A station refuses a message; a signal that its home has refused counts as acknowledged (R246). -/
def refuseMsg (s : State) (id : Nat) (m : Msg) (station : Nat) : State :=
  let s1 := { modMsg s id (fun m => { m with refusedAt := m.refusedAt ++ [(station, s.entered)] }) with
              entered := s.entered + 1 }
  match m.acc.op with
  | .signal _ _ => if station = m.dstStation then markAccepted s1 m.req else s1
  | _ => s1

/-- A flit has failed sixteen times: it is dropped, the lane of its hop retired, and its requester gets LINK_ERROR. -/
def linkFailure (s : State) (id : Nat) (m : Msg) : State :=
  let s1 := retireLane (dropMsg s id) (podModules s) m.at_ m.dstStation
  answer s1 m (if m.chan = 2 && m.reply.isSome then m.dstStation else m.srcStation)
    (.fault { cause := 39, tval := m.acc.va })

/-- A message leaves the die request crossbar behind the older ones of its stream. -/
def leaveCrossbar (s : State) (id : Nat) (m : Msg) : State :=
  let older := s.net.any (fun e => e.2.xbar && sameStream e.2 m && match e.2.req.id?, m.req.id? with
    | some i, some j => i < j
    | _, _ => false)
  if older then s
  else { modMsg s id (fun m => { m with xbar := false, entered := s.entered }) with entered := s.entered + 1 }

/-- A flit makes its hop; the last of its message brings the message to the next station, and at the end of a ring it
leaves its slot. -/
def takeHop (s : State) (id : Nat) (m : Msg) (h : Hop) (slot : Nat) : State :=
  if m.seq < m.nfl then modMsg s id (fun m => { m with seq := m.seq + 1, slot := some slot, fails := 0 })
  else
    let ends := endsRing (podModules s) h m.dstStation
    modMsg s id (fun m => { m with at_ := h.next, slot := if ends then none else some slot, seq := 0, fails := 0 })

/-- A good flit: inserted into an empty slot where it has none, refused or held back at the end of a ring as R367, R369 and
R124 say, else moved. -/
def goodHop (s : State) (id : Nat) (m : Msg) : State :=
  let h := hopOf s m
  let ends := endsRing (podModules s) h m.dstStation
  let slot := m.slot.getD (laneSlot s h)
  if m.slot.isNone && slotTaken s id m h slot then s
  else if ends && pairAhead s m then s
  else if ends && m.chan ≤ 1 && (refusedAhead s id m h.next || noEntry s m h.next) then
    if (refusal m h.next).isNone then refuseMsg (modMsg s id (fun m => { m with slot := some slot })) id m h.next else s
  else takeHop s id m h slot

/-- R368: a message's next hop: out of the crossbar, or along a ring, where it moves on, is sent again, or is refused once
at each station that ends a ring (R367). A forwarded request that waits for its station's egress goes on. -/
def execFlitHop (s : State) : Host.Outcome State Fault Refusal :=
  let id := s.sel.msg
  match SMap.find id s.net with
  | none => .next s
  | some m =>
    if 2 < m.chan then .next s
    else if m.xbar then .next (leaveCrossbar s id m)
    else if m.pendingFwd then .next (modMsg s id (fun m => { m with pendingFwd := false }))
    else if m.at_ = m.dstStation then .next s
    else
      match s.sel.hop with
      | .good => .next (goodHop s id m)
      | .crcBad =>
        if m.fails < 15 then .next (modMsg s id (fun m => { m with fails := m.fails + 1 })) else .next (linkFailure s id m)
      | .refuse =>
        let h := hopOf s m
        let slot := m.slot.getD (laneSlot s h)
        if m.chan ≤ 1 && endsRing (podModules s) h m.dstStation && (refusal m h.next).isNone && !pairAhead s m
            && !(m.slot.isNone && slotTaken s id m h slot) then
          .next (refuseMsg (modMsg s id (fun m => { m with slot := some slot })) id m h.next)
        else .next s

/-! ### Requests at their home -/

/-- A scratchpad whose task's records are gone. -/
def homeGone (s : State) (h : Home) : Bool :=
  match h with
  | .spad p => !s.hasTask p
  | .hbm _ => false
  | .host _ => false
  | .window _ => false

/-- A full/empty request takes its place at its word, and the word is served (R114). -/
def serveFe (s : State) (id : Nat) (m : Msg) : State :=
  let p := m.acc.spadTask
  let me : FeWaiter := { acc := m.acc, req := some (m.req, m.srcStation) }
  let s1 := (dropMsg s id).modTask p (fun x => { x with feWaiters := x.feWaiters ++ [me] })
  let (s2, l) := serve s1 p (m.acc.addr / 8)
  let s3 := if (s2.task p).feWaiters.contains me then markAccepted s2 m.req else s2
  sendAll s3 l

/-- A contribution is recorded in its round, which it may leave at once with an answer; a round that replay holds keeps its
last contribution waiting. -/
def serveAmor (s : State) (id : Nat) (m : Msg) : State :=
  let (s1, l) := contribute s m.acc m.req m.srcStation
  let stands := (SMap.find (locKey m.acc.home m.acc.addr) s1.rounds).any (fun r => r.parts.any (fun p => p.req == m.req))
  if l.isEmpty && !stands then modMsg s id (fun m => { m with held := true })
  else sendAll (dropMsg (if stands then markAccepted s1 m.req else s1) id) l

/-- A task that is out keeps its saved image, on which requests to its scratchpad act (R164). -/
def keepImage (s : State) (h : Home) : State :=
  match h with
  | .spad p => if s.hasTask p && (s.task p).core?.isNone then writeContext s p else s
  | .hbm _ => s
  | .host _ => s
  | .window _ => s

/-- Perform a request at its home and answer it. -/
def performMsg (s : State) (id : Nat) (m : Msg) : State :=
  if homeGone s m.acc.home then answer (dropMsg s id) m m.srcStation (.fault { cause := 9, tval := m.acc.va })
  else
    match m.acc.op with
    | .fe _ _ => serveFe s id m
    | .amor _ _ _ _ _ => serveAmor s id m
    | _ =>
      match performAt s m.acc with
      | .held => modMsg s id (fun m => { m with held := true })
      | .trap s' t => answer (dropMsg s' id) m m.srcStation (.fault t)
      | .ok s' r => answer (dropMsg s' id) m m.srcStation r

/-- A request is served at its home. -/
def serveMsg (s : State) (id : Nat) (m : Msg) : State := keepImage (performMsg s id m) m.acc.home

/-- A request that has arrived: served, or forwarded within its die when its home has moved: at once, or from one of the 32
forward-pending entries where the egress is full, which `hop` tells; without a free entry it waits (R369). -/
def arriveRequest (s : State) (id : Nat) (m : Msg) : State :=
  if movedAway s m then
    if 32 ≤ pendingForwards s m.at_ then s
    else modMsg s id (fun m => { m with
      chan := 1, forwarded := true, pendingFwd := s.sel.hop == .refuse, core := (s.task m.acc.spadTask).core? })
  else serveMsg s id m

/-- Take the request `State.sel` names when its operation is one the step is for. -/
def takeRequest (s : State) (want : AccOp → Bool) : State :=
  let id := s.sel.msg
  match SMap.find id s.net with
  | none => s
  | some m => if m.chan = 0 && want m.acc.op && deliverable s m then arriveRequest s id m else s

/-- R366, R104: a read performs at its home; one of host memory goes on to the host first. -/
def execRequestRead (s : State) : Host.Outcome State Fault Refusal :=
  let id := s.sel.msg
  match SMap.find id s.net with
  | none => .next s
  | some m =>
    match m.acc.home, m.acc.op with
    | .host _, .load => .next (if m.chan = 0 && deliverable s m then modMsg s id (fun m => { m with chan := 3 }) else s)
    | _, _ => .next (takeRequest s (fun op => op == .load))

/-- R104: host data arrives at the host-link port, and the load performs there. -/
def execHostLinkCompletion (s : State) : Host.Outcome State Fault Refusal :=
  let id := s.sel.msg
  match SMap.find id s.net with
  | none => .next s
  | some m => .next (if m.chan = 3 && !streamWaits s m then serveMsg s id m else s)

/-- R366: a write performs at its home. -/
def execRequestWrite (s : State) : Host.Outcome State Fault Refusal :=
  .next (takeRequest s (fun op => match op with
    | .store _ => true
    | _ => false))

/-- R65, R238: a remote signal adds its increment. -/
def execSemaphoreSignal (s : State) : Host.Outcome State Fault Refusal :=
  .next (takeRequest s (fun op => match op with
    | .signal _ _ => true
    | _ => false))

/-- R114: a remote full/empty operation is queued or served at its word. -/
def execFullEmptyRequest (s : State) : Host.Outcome State Fault Refusal :=
  .next (takeRequest s (fun op => match op with
    | .fe _ _ => true
    | _ => false))

/-- R369: a forwarded request is served where its home is now, or redirected when that has moved again. -/
def execForwardedRequest (s : State) : Host.Outcome State Fault Refusal :=
  let id := s.sel.msg
  match SMap.find id s.net with
  | none => .next s
  | some m =>
    if m.chan != 1 || !deliverable s m then .next s
    else if movedAway s m then .next (answer (dropMsg s id) m m.srcStation (.redirect m.acc.home))
    else .next (serveMsg s id m)

/-! ### Combining (R372 to R376) -/

/-- The merged operation of two, the first's operand first; none when they do not combine. -/
def mergeOps (size : Nat) (a b : AccOp) : Option AccOp :=
  match a, b with
  | .atomic f v, .atomic g w => if f = g ∧ f ≠ .fadd32 then some (.atomic f (atomOp f (8 * size) v w)) else none
  | .amox x i, .amox y j => if x = y then some (.amox x (i + j)) else none
  | .amor f n lo hi v, .amor g m lo' hi' w =>
    if f = g ∧ n = m ∧ f ≠ .fadd32 ∧ hi + 1 = lo' then some (.amor f n lo hi' (atomOp f (8 * size) v w)) else none
  | _, _ => none

/-- The lowest rank of a contribution. -/
def lowRank (op : AccOp) : Nat :=
  match op with
  | .amor _ _ lo _ _ => lo
  | _ => 0

/-- Is the first message the first of the pair? Ranks decide for AMOR, else the issue stamp, then the source number. -/
def isFirst (a b : Msg) : Bool :=
  match a.acc.op with
  | .amor _ _ _ _ _ => lowRank a.acc.op < lowRank b.acc.op
  | _ => a.stamp.toNat < b.stamp.toNat || (a.stamp == b.stamp && a.source ≤ b.source)

/-- Function, operand and kind that a coupling entry keeps of its first member. -/
def couplingOf (op : AccOp) : AtomFn × Nat × Bool :=
  match op with
  | .atomic f v => (f, v, false)
  | .amox _ j => (.add, wrapNat 128 j, true)
  | .amor f _ _ _ v => (f, v, false)
  | _ => (.add, 0, false)

/-- Identities of a no-return request. -/
def identities (r : Requester) : List (Party × Nat) :=
  match r with
  | .acc p id => [(p, id)]
  | .list ids => ids
  | .entry _ => []

/-- The switch a request waits at: a die request crossbar or a ring station (R372). -/
def Msg.switch (m : Msg) : Nat := 2 * m.at_ + b2n m.xbar

/-- Entries of a switch's coupling buffer in use. -/
def couplingsUsed (s : State) (switch : Nat) : Nat := (s.couplings.filter (fun c => c.2.switch == switch)).length

/-- The list of a merged no-return request holds its 14 identities, and it merges no further (R374). -/
def Requester.full (r : Requester) : Bool := decide (14 ≤ (identities r).length)

/-- Two waiting requests of one switch merge, where a pair that returns a value finds one of its 64 entries free (R373);
`keep` is the message whose place the merged request takes. -/
def mergePair (s : State) (keep drop : Nat) (a b : Msg) : State :=
  match (if a.req.full || b.req.full then none else mergeOps a.acc.size a.acc.op b.acc.op) with
  | none => s
  | some op =>
    let acc := { a.acc with op := op, nr := a.acc.nr && b.acc.nr, members := a.acc.members ++ b.acc.who :: b.acc.members }
    if a.acc.nr && b.acc.nr then
      let ids := identities a.req ++ identities b.req
      if ids.length ≤ 14 then modMsg (dropMsg s drop) keep (fun _ => { a with acc := acc, req := .list ids }) else s
    else if 64 ≤ couplingsUsed s a.switch then s
    else
      let k := s.nextMsg
      let (fn, v1, amox) := couplingOf a.acc.op
      let c : Coupling := { switch := a.switch, first := a.req, second := b.req, firstNr := a.acc.nr, secondNr := b.acc.nr, fn,
                            amox, width := 8 * a.acc.size, v1, firstStation := a.srcStation, secondStation := b.srcStation }
      let s1 := modMsg (dropMsg s drop) keep (fun _ => { a with acc := acc, req := .entry k, srcStation := a.at_ })
      { s1 with couplings := SMap.put k c s1.couplings, nextMsg := k + 1 }

/-- The requests wait in one egress queue of one switch and ask for the same place in the same way (R372). -/
def mayMerge (a b : Msg) : Bool :=
  a.chan == 0 && b.chan == 0 && a.switch == b.switch && a.slot.isNone && b.slot.isNone && a.seq == 0 && b.seq == 0
    && !a.held && !b.held && a.acc.home == b.acc.home
    && a.acc.addr == b.acc.addr && a.acc.size == b.acc.size && a.fn == b.fn && a.acc.cls == 15 && b.acc.cls == 15
    && a.core == b.core

/-- Merge the message named with another that the run names. -/
def tryMerge (s : State) (i j : Nat) : State :=
  match SMap.find i s.net, SMap.find j s.net with
  | some a, some b =>
    if i = j ∨ !mayMerge a b then s
    else if isFirst a b then mergePair s (min i j) (max i j) a b
    else mergePair s (min i j) (max i j) b a
  | _, _ => s

/-- An atomic or contribution: at a switch when the run names a partner, else at its home. -/
def takeAtomic (s : State) (want : AccOp → Bool) : State :=
  match s.sel.merge with
  | none => takeRequest s want
  | some j =>
    match SMap.find s.sel.msg s.net with
    | some m => if want m.acc.op then tryMerge s s.sel.msg j else s
    | none => s

/-- R134, R372: an atomic merges at a switch or performs at its home. -/
def execRequestAtomic (s : State) : Host.Outcome State Fault Refusal :=
  .next (takeAtomic s (fun op => match op with
    | .atomic _ _ => true
    | .cas _ _ => true
    | .amox _ _ => true
    | _ => false))

/-- R232, R375: a contribution merges with an adjacent range or is recorded in its round. -/
def execAmorContribution (s : State) : Host.Outcome State Fault Refusal :=
  .next (takeAtomic s (fun op => match op with
    | .amor _ _ _ _ _ => true
    | _ => false))

/-! ### Answers at a coupling entry -/

/-- The second member's value from the response M. -/
def secondValue (c : Coupling) (v : Nat) : Nat := if c.amox then (amoxStep v (sintOf 128 c.v1)).1 else atomOp c.fn c.width v c.v1

/-- The replies of both members. -/
def splitReply (c : Coupling) (r : Reply) : Reply × Reply :=
  match r with
  | .data v => (if c.firstNr then .ack false else r, if c.secondNr then .ack false else .data (secondValue c v))
  | .dataOvf v => (if c.firstNr then .ack true else r, if c.secondNr then .ack true else .dataOvf (secondValue c v))
  | .ack _ => (r, r)
  | .redirect _ => (r, r)
  | .fault _ => (r, r)

/-- A member of a merged request, or each requester of a no-return list that is one, gets its reply from the switch. -/
def splitTo (m : Msg) (s : State) (req : Requester) (station : Nat) (r : Reply) : State :=
  (expandAnswer s { req, station, acc := m.acc, reply := r }).foldl (fun s a =>
    sendResponse s { m with
      srcStation := m.dstStation, dstStation := a.station, nfl := flitsLess (replyBytes a.acc r), seq := 0, fails := 0,
      slot := none, req := a.req, reply := some r }) s

/-- The merged request's response is split and the entry freed (R373). -/
def splitEntry (s : State) (k : Nat) (m : Msg) (r : Reply) : State :=
  match SMap.find k s.couplings with
  | none => s
  | some c =>
    let (r1, r2) := splitReply c r
    let s1 := { s with couplings := SMap.del k s.couplings }
    splitTo m (splitTo m s1 c.first c.firstStation r1) c.second c.secondStation r2

/-! ### Answers at a strand (R123, R125, R246) -/

/-- Write a reply's value to its destination. -/
def writeDest (x : StrandRegs) (d : Dest) (v : Nat) : StrandRegs :=
  let low := if d.width = 0 ∨ 64 ≤ d.width then w64 v else if d.signed then sextW (w64 v) d.width else zextW (w64 v) d.width
  let y := x.setG d.reg low
  match d.hi with
  | some h => y.setG h (w64 (v / 2 ^ 64))
  | none => y

/-- The access is a side effect the guard compares (R247). -/
def sideAccess (a : Acc) : Bool :=
  match a.op with
  | .load => false
  | _ => true

/-- The registers that an answer has written go to the guard (R392). -/
def Task.feedDest (t : Task) (k : Nat) (d : Option Dest) (r : StrandRegs) : Task :=
  match d with
  | none => t
  | some d => (d.reg :: d.hi.toList).foldl (fun t g => if g = 0 then t else t.feed k (r.gr g)) t

/-- The strand has its answer to an access: the registers change as it says, in the saved state where a handler runs in the
strand's slot; a value that the strand did not park for comes wherever its register waits for it. The value goes to the guard
too (R392). -/
def giveReply (s : State) (t k : Nat) (o : Outstanding) (f : StrandRegs → StrandRegs) : State :=
  let s1 := s.modStrand t k (fun x => { x with outs := x.outs.filter (fun p => p.id != o.id) })
  let late := if o.parks then none else o.dest.map (·.reg)
  if o.forSaved then
    s1.modTask t (fun y => (y.modStrand k (fun x => { x with
      saved := x.saved.map f, savedNotReady := (late.map (fun d => x.savedNotReady.erase d)).getD x.savedNotReady })).feedDest
        k o.dest (f ((y.strand k).saved.getD {})))
  else
    match late with
    | some d => s1.modTask t (fun x => x.deliver k d f)
    | none => s1.modTask t (fun y => (y.modStrand k (fun x => { x with r := f x.r })).feedDest k o.dest (f (y.strand k).r))

/-- An access of the strand is over, and the instruction of a parked strand retires. -/
def settle (s : State) (t k : Nat) (o : Outstanding) (f : StrandRegs → StrandRegs) : State :=
  let s1 := giveReply s t k o f
  if !o.parks || !(s1.strand t k).live then s1
  else if o.forSaved then
    let (x, p) := loopBack (s1.task t) k o.pc (o.pc + w64 (4 * o.ilen)) 4
    (s1.modTask t (fun _ => x)).modStrand t k (fun y => { y with saved := y.saved.map (fun r => { r with pc := p }) })
  else retireAs s1 t k o.ilen false true (sideAccess o.acc) .fall

/-- May a strand of the task take a trap now? -/
def canTrap (s : State) (t : Nat) : Bool :=
  let x := s.task t
  x.core?.isSome && x.freeze.isNone && !x.killed && !x.ended

/-- A report for the strand's next ordering point (R123). -/
def reportFault (s : State) (t k : Nat) (r : FaultReport) : State :=
  s.modStrand t k (fun x => { x with reports := x.reports ++ [r] })

/-- The answer to a parked instruction brings a trap: after the registers changed, the strand takes it at the instruction:
now, or once it can, from its saved state too (R175, R246). -/
def trapParked (s : State) (t k : Nat) (o : Outstanding) (f : StrandRegs → StrandRegs) (tr : Trap) : State :=
  let r : FaultReport := { pc := o.pc, ilen := o.ilen, trap := tr }
  if !o.forSaved && canTrap s t && (s.strand t k).live then takeStruck (giveReply s t k o f) t k r
  else giveReply s t k o (fun x => { f x with struck := some r })

/-- The alias window without the entry of an access that has poisoned its register (R221). -/
def dropAlias (w : List AliasEntry) (a : Acc) : List AliasEntry :=
  (w.reverse.eraseP (fun e => e.ranges == [(a.va.toNat, a.size)] && e.cls == a.cls && e.writes == a.stores)).reverse

/-- A fault answers an access of a strand: poison for an LDS, which then enters no alias window (R221), a trap at a parked
instruction, else a report. -/
def strandFault (s : State) (t k : Nat) (o : Outstanding) (tr : Trap) : State :=
  match o.dest.filter (fun d => d.defers && deferrable tr.cause) with
  | some d =>
    (settle s t k o (fun x => x.setPoison d.reg o.acc.va tr.cause)).modStrand t k (fun x => { x with
      alias_ := dropAlias x.alias_ o.acc })
  | none =>
    if o.parks then trapParked s t k o id tr
    else reportFault (giveReply s t k o id) t k { pc := o.pc, ilen := o.ilen, trap := tr }

/-- AMOX saturated: the trap of R233 where it is enabled, at the AMOX with NR = 0; else the sticky flag. The access has been
issued: the pair agreed (R247). -/
def amoxOverflow (s : State) (t k : Nat) (o : Outstanding) (v : Option Nat) : State :=
  let f := fun (x : StrandRegs) => match o.dest, v with
    | some d, some v => writeDest x d v
    | _, _ => x
  match amoxTrap (s.task t) with
  | none => (settle s t k o f).modTask t (fun x => raiseFlags x k .vstat fXwOvf)
  | some tr =>
    if o.parks then trapParked (guardAgree s t k) t k o f tr
    else reportFault (settle s t k o f) t k { pc := o.pc, ilen := o.ilen, trap := tr }

/-- An answer reaches a strand. -/
def strandReply (s : State) (t k id : Nat) (r : Reply) : State :=
  match (s.strand t k).outs.find? (fun o => o.id == id) with
  | none => s
  | some o =>
    match r with
    | .data v => settle s t k o (fun x => match o.dest with
        | some d => writeDest x d v
        | none => x)
    | .ack false => settle s t k o (fun x => x)
    | .ack true => amoxOverflow s t k o none
    | .dataOvf v => amoxOverflow s t k o (some v)
    | .fault tr => strandFault s t k o tr
    | .redirect h =>
      let a := { o.acc with home := h }
      let s1 := s.modStrand t k (fun x => { x with
        outs := x.outs.map (fun p => if p.id = id then { p with reissued := true } else p) })
      sendReq s1 a (.acc a.who id) (dieStation (s.task t).die) (taskSource s t)

/-! ### Answers at an engine -/

/-- An answer reaches a vector entry. A load that meets a fault ends at its fault point; of an instruction on TSO pages the
next word goes out. A redirected request is sent again and marked (R125). -/
def vectorReply (s : State) (t id : Nat) (a : Acc) (r : Reply) : State :=
  match ((s.task t).queue 0).find? (fun e => e.pending.contains id) with
  | none => s
  | some e =>
    let done := fun (e : Entry) => { e with
      pending := e.pending.erase id, reissued := e.reissued.filter (fun r => r.1 != id) }
    match r with
    | .data v => modEntry s t e.serial (fun e => { done e with
        inbox := (bytesOf v a.size).zipIdx.foldl (fun m (b, i) => SMap.put (a.va.toNat + i) b m) e.inbox })
    | .ack _ => modEntry s t e.serial done
    | .dataOvf _ => modEntry s t e.serial done
    | .fault tr =>
      if isVecLoad e.cmd then modEntry s t e.serial (fun e => { done e with fault := e.fault.orElse (fun _ => some tr) })
      else reportFault (modEntry s t e.serial done) t e.strand { pc := e.pc, ilen := parcels e.cmd, trap := tr }
    | .redirect h =>
      let s1 := modEntry s t e.serial (fun e => { e with
        homes := (h :: e.homes).dedup, reissued := (id, h) :: e.reissued.filter (fun r => r.1 != id) })
      sendReq s1 { a with home := h } (.acc a.who id) (dieStation (s.task t).die) (taskSource s t)

/-- Units of an XE command before the byte a collective write stores first. -/
def unitsBefore (s : State) (t : Nat) (e : Entry) (a : Acc) : Nat :=
  match e.cmd with
  | .xred _ =>
    let r := redCtl e.cap.c
    (a.va.toNat - (foldVa s t e.cap.c1).toNat) / redUnit r * (if isBlock r.et && redUnit r != 16 then blockElems r.et else 1)
  | _ => a.va.toNat - (foldVa s t e.cap.a).toNat

/-- An answer reaches the head of a command engine's queue: its notify or remote signal, or a collective write. -/
def engineReply (s : State) (t q id : Nat) (a : Acc) (r : Reply) : State :=
  match (s.task t).queue q with
  | [] => s
  | e :: _ =>
    let lost := fun (s : State) => absorbError (onHead s t q (fun e => { e with err := true })) t
    if e.notify == some id then
      let s1 := onHead s t q (fun e => { e with notify := none, notified := true })
      match r with
      | .fault _ => lost s1
      | .redirect _ =>
        sendReq s a (.acc a.who id) (dieStation (s.task t).die) (taskSource s t)
      | .data _ => s1
      | .dataOvf _ => s1
      | .ack _ => s1
    else if e.pending.contains id then
      let s1 := onHead s t q (fun e => { e with pending := e.pending.erase id })
      match r with
      | .fault tr =>
        if tr.cause = 39 then lost s1
        else
          let n := unitsBefore s t e a
          onHead s1 t q (fun e => { e with walkFault := match e.walkFault with
            | some (p, f) => if p ≤ n then some (p, f) else some (n, tr)
            | none => some (n, tr) })
      | .redirect _ => s1
      | .data _ => s1
      | .dataOvf _ => s1
      | .ack _ => s1
    else s

/-- An answer reaches its requester. -/
def applyReply (s : State) (m : Msg) (r : Reply) : State :=
  match m.req with
  | .entry k => splitEntry s k m r
  | .list _ => s
  | .acc p id =>
    if !s.hasTask p.task then s
    else
      match p.queue with
      | none => strandReply s p.task p.strand id r
      | some 0 => vectorReply s p.task id m.acc r
      | some q => engineReply s p.task q id m.acc r

/-- Take the response `State.sel` names when it is one the step is for. -/
def takeResponse (s : State) (want : Msg → Reply → Bool) : State :=
  let id := s.sel.msg
  match SMap.find id s.net with
  | none => s
  | some m =>
    match m.reply with
    | none => s
    | some r => if m.chan = 2 && want m r && deliverable s m then applyReply (dropMsg s id) m r else s

/-- R123: data arrive, and the waiting strand or engine goes on. -/
def execDataResponse (s : State) : Host.Outcome State Fault Refusal :=
  .next (takeResponse s (fun _ r => match r with
    | .data _ => true
    | .dataOvf _ => true
    | _ => false))

/-- R123: an acknowledgement arrives, with the fault of an access that returns no value where it met one. -/
def execAcknowledgement (s : State) : Host.Outcome State Fault Refusal :=
  .next (takeResponse s (fun m r => match r with
    | .ack _ => true
    | .fault t => m.acc.nr && t.cause != 39
    | _ => false))

/-- R125: the home has moved on, and the requester sends its request again. -/
def execRedirect (s : State) : Host.Outcome State Fault Refusal :=
  .next (takeResponse s (fun _ r => match r with
    | .redirect _ => true
    | _ => false))

/-- R368: a fault status arrives: a failed link, or the fault of an access that returns a value. -/
def execFaultStatus (s : State) : Host.Outcome State Fault Refusal :=
  .next (takeResponse s (fun m r => match r with
    | .fault t => !m.acc.nr || t.cause == 39
    | _ => false))

/-- R379, R382: collective data are sunk into the destination scratchpad. -/
def execCollectiveData (s : State) : Host.Outcome State Fault Refusal :=
  let id := s.sel.msg
  match SMap.find id s.net with
  | none => .next s
  | some m =>
    match m.acc.op with
    | .coll _ => .next (if m.chan = 2 && m.reply.isNone && deliverable s m then serveMsg s id m else s)
    | _ => .next s

/-! ### Walks (R189) -/

/-- The walk a free walker of a die takes next. -/
def nextWalk (d : Die) : Option Walk :=
  let fnKey := fun (w : Walk) => (w.fn + 256 - d.lastServed - 1) % 256
  d.walks.foldl (fun b w =>
    match b with
    | none => some w
    | some v =>
      if fnKey w < fnKey v ∨ (fnKey w = fnKey v ∧ (w.stamp.toNat < v.stamp.toNat ∨ (w.stamp = v.stamp ∧ w.source < v.source)))
      then some w else some v) none

/-- Add an entry to a cache of `n` entries; the oldest makes room. -/
def cacheAdd (l : List TlbEntry) (n : Nat) (e : TlbEntry) : List TlbEntry :=
  let rest := l.filter (fun x => !(x.fn == e.fn && x.page == e.page))
  (if n ≤ rest.length then rest.drop 1 else rest) ++ [e]

/-- The core that a waiter of a walk runs on. -/
def walkerCore (s : State) (w : Walker) : Option Nat :=
  match w with
  | .strand t _ => (s.task t).core?
  | .queue t _ => (s.task t).core?

/-- Wake a waiter, with the fault of the walk where it failed. -/
def wakeWalker (s : State) (page : Nat) (f : Option Trap) (w : Walker) : State :=
  let res := f.map (fun t => (page, t))
  match w with
  | .strand t k =>
    if !s.hasTask t then s
    else s.modStrand t k (fun x => { x with
      walkFault := res, wait := if (x.wait.map (·.kind)).getD 1 = 0 then none else x.wait })
  | .queue t 0 =>
    s.modTask t (fun x => x.setQueue 0 ((x.queue 0).map (fun e =>
      if !e.started && (e.wait.map (·.kind)).getD 1 == 0 then { e with walkFault := res, wait := none } else e)))
  | .queue t q => onHead s t q (fun e => { e with walkFault := res, wait := none })

/-- R189: a walker completes the next pending walk; every waiter gets its result. -/
def execTranslationWalk (s : State) : Host.Outcome State Fault Refusal :=
  let die := s.sel.die
  match nextWalk (s.die die) with
  | none => .next s
  | some w =>
    let s1 := s.modDie die (fun d => { d with
      walks := d.walks.filter (fun v => !(v.fn == w.fn && v.page == w.page)), lastServed := w.fn })
    match walk s w.fn w.page with
    | .error f => .next (w.waiters.foldl (fun s x => wakeWalker s w.page (some { cause := f.cause, stage := f.stage }) x) s1)
    | .ok e =>
      let s2 := s1.modDie die (fun d => { d with
        dieTlb := cacheAdd d.dieTlb 16384 e,
        coreTlb := (w.waiters.filterMap (walkerCore s)).dedup.foldl (fun m c =>
          SMap.put c (cacheAdd ((SMap.find c m).getD []) 512 e) m) d.coreTlb })
      .next (w.waiters.foldl (fun s x => wakeWalker s w.page none x) s2)

/-! ### Switch-in (R163, R310) -/

/-- Insert an entry by its place among the pushes. -/
def insertEntry (e : Entry) : List Entry → List Entry
  | [] => [e]
  | x :: r => if e.serial < x.serial then e :: x :: r else x :: insertEntry e r

/-- Both matrix queues on the new core. -/
def restoreQueues (c : Core) (t : Task) : Task :=
  let all := (t.queue 1).map (fun e => (e, redispatch c e 1)) ++ (t.queue 2).map (fun e => (e, redispatch c e 2))
  let pick := fun (q : Nat) => all.foldl (fun l (e, d) =>
    match d with
    | some (n, steered) => if n = q then insertEntry { e with cap := { e.cap with steered := steered } } l else l
    | none => l) []
  (t.setQueue 1 (pick 1)).setQueue 2 (pick 2)

/-- R163: a switched-out task that is next takes a free core that serves it, and its freeze lifts where a REPLAY or a
resume is due; one that no core of the die can serve is parked first, whatever its place in the order (R310). -/
def execSwitchIn (s : State) : Host.Outcome State Fault Refusal :=
  let die := s.sel.die
  if s.service.resetting then .next s
  else
    match corelessTask s die with
    | some t =>
      let x := s.task t
      let s1 := s.modTask t (fun x => { x with place := .parked, parkedSince := some s.clock })
      .next (raiseEvent (slogAt s1 die x.launch (effLevel s die (s.launch x.launch)) 4 x.lcore 0 3) (s.launch x.launch).fn 2)
    | none =>
      match pickTask s die with
      | none => .next s
      | some t =>
        match freeCore s die (s.task t) with
        | none => .next s
        | some c =>
          if !(s.task t).placed then .next s
          else
            let s1 := (seatTask s t c 5).modTask t (restoreQueues ((s.die die).core c))
            .next (if (s1.task t).pendingResume.isSome then liftFreeze s1 t else s1)

end Sys2Proof.Machine
end

