-- ==== Sys2Proof/Machine/Host.lean ====
section
/-!
DEFINITION. The host's side: registers and the effects of writing them (R413 to R422, R441, R442), the window and the
aperture (R421, R423), queues and packets (R417 to R430), and a function's reset and PTM dialog (R433, R434).
-/
namespace Sys2Proof.Machine

/-! ### Queues -/

/-- Queue q of a function. -/
def State.hostQueue (s : State) (k : Nat) : HostQueue := (SMap.find k s.queues).getD {}

def State.modQueue (s : State) (k : Nat) (f : HostQueue → HostQueue) : State :=
  { s with queues := SMap.put k (f (s.hostQueue k)) s.queues }

/-- Module queue number of a function's queue (R413, R422). -/
def queueNumber (s : State) (k : Nat) : Nat := SMap.get (k % 4096) s.qmap k

/-- (a − b) mod 2^32. -/
def idxDiff (a b : Nat) : Nat := (a + 2 ^ 32 - b % 2 ^ 32) % 2 ^ 32

/-- An event of a queue: CODE, FAIL and IDX (R417). -/
def queueEvent (s : State) (k code idx : Nat) : State :=
  s.modQueue k (fun q => { q with
    qstat := w64 (code % 256 + 256 * b2n (q.qstat.getLsbD 8 || code != 0) + 2 ^ 32 * (idx % 2 ^ 32)) })

/-- A queue stops (R418). -/
def stopQueue (s : State) (k code idx : Nat) : State :=
  raiseEvent ((queueEvent s k code idx).modQueue k (fun q => { q with stopped := true })) (k / 16) 3

/-- Key of the work of the packet at an index, among the works of the queue. -/
def workKey (q : HostQueue) (n : Nat) : Nat := 2 ^ 32 * q.epoch + n

/-- A queue lets go of the packet at QRDIX: its launch, not accepted yet, is withdrawn (log entry 131). -/
def letGo (s : State) (k : Nat) : State :=
  match (s.hostQueue k).busy with
  | none => s
  | some key =>
    let s1 := if (s.launch key).phaseOf == .waiting then { s with launches := SMap.del key s.launches } else s
    s1.modQueue k (fun q => { q with busy := none })

/-- RESUME: STOPPED is cleared; with SKIP the queue passes over its packet first (R417, R418). -/
def resumeQueue (s : State) (k : Nat) (skip : Bool) : State :=
  let s1 := if skip then
      (letGo s k).modQueue k (fun q => { q with rdix := (q.rdix + 1) % 2 ^ 32 })
    else s
  s1.modQueue k (fun q => { q with stopped := false })

/-- The completion interrupt of a queue (R430). -/
def queueInterrupt (s : State) (k : Nat) : State :=
  let q := s.hostQueue k
  if q.qctl.getLsbD 1 then sendMsix s (k / 16) (bitsOf q.qctl.toNat 2 6) else s

/-! ### Addresses of a function, outside the cores -/

/-- Where a byte or word of a function's address space lies: the window, or translated global memory (R102). -/
def hostPlace (s : State) (fn : Nat) (va : Word) (need : Need) : Option (Home × Nat) :=
  if 0x20000000000 ≤ va.toNat ∧ va.toNat < 0x20001000000 then
    let off := va.toNat - 0x20000000000
    if SMap.get 0 s.wown (off / 65536) = 256 + fn then some (.window (off / 0x800000), off) else none
  else
    match directPa s fn va need true with
    | .ok pa => (homeFor s fn pa).map (fun h => (h, pa))
    | .error _ => none

/-! ### Register values (R414 to R417, R421, R422, R441, R442) -/

/-- A gauge: stage and spare banks as they are, and its forecasts, 0xFF_FFFF until a test has updated them (R442). -/
def gaugeWord (s : State) (off stage spares : Nat) : Word :=
  w64 ((SMap.get 0xFFFFFFFFFFFF s.service.forecasts off).toNat + 2 ^ 48 * stage + 2 ^ 56 * spares)

/-- CSTAT of a core. -/
def cstatWord (c : Core) : Word :=
  let st := if c.retired then 3 else if c.suspect then 2 else if c.inService then 0 else 1
  w64 (st + 2 ^ 16 * c.corrected + 2 ^ 32 * c.retiredBanks)

/-- Stage of the core's most worn bank. -/
def spadStage (c : Core) : Nat :=
  c.banks.foldl (fun m e => max m e.2) 0

/-- Spare pseudo-channels of a stack used up: a channel goes to stage 3 without one only when all four are (R437). -/
def sparesUsed (s : State) (die stack : Nat) : Nat :=
  min 4 ((List.range 60).filter (fun c => 2 ≤ SMap.get 0 s.service.channels (die * 128 + stack * 64 + c))).length

/-- Pseudo-channels of a die retired without a spare. -/
def retiredChannels (s : State) (die : Nat) : Nat :=
  ((List.range 128).filter (fun c => SMap.get 0 s.service.channels (die * 128 + c) == 3)).length

/-- Highest stage of a stack's pseudo-channels. -/
def stackStage (s : State) (die stack : Nat) : Nat :=
  (List.range 60).foldl (fun m c => max m (SMap.get 0 s.service.channels (die * 128 + stack * 64 + c))) 0

/-- DSTAT of a die; a suspect core is not in service (R437, R442). -/
def dstatWord (s : State) (die : Nat) : Word :=
  let cores := (List.range 36).map (fun c => (s.die die).core c)
  let ins := (cores.filter (fun c => c.inService && !c.retired && !c.suspect)).length
  let spare := (cores.filter (fun c => !c.inService && !c.retired)).length
  let lanes := fun (dir : Nat) => 2 - SMap.get 0 s.service.lanes (2 * dieStation die + dir)
  w64 (packFields [(ins, 6), (spare, 3), (0, 7), (8 - sparesUsed s die 0 - sparesUsed s die 1, 4), (retiredChannels s die, 8),
    (lanes 0, 2), (lanes 1, 2)])

/-- One core's service registers: gauges G0 to G6, then CSTAT. -/
def coresvc (s : State) (die core n : Nat) : Word :=
  let c := (s.die die).core core
  let off := 0x1000 * die + 64 * core + 8 * n
  if n ≤ 2 then gaugeWord s off c.me0 0
  else if n ≤ 5 then gaugeWord s off c.me1 0
  else if n = 6 then gaugeWord s off (spadStage c) c.spareBanks
  else cstatWord c

/-- A register of the service block at an offset of it. -/
def serviceRead (s : State) (off : Nat) : Word :=
  let v := s.service
  if off < 0x8000 then (if off % 0x1000 / 64 < 36 then coresvc s (off / 0x1000) (off % 0x1000 / 64) (off % 64 / 8) else 0)
  else if off < 0x8200 then
    let d := (off - 0x8000) / 64
    let n := off % 64
    if n = 0 then dstatWord s d
    else if n = 8 then gaugeWord s off (stackStage s d 0) 0
    else if n = 16 then gaugeWord s off (stackStage s d 1) 0
    else 0
  else if 0xA000 ≤ off ∧ off < 0xA800 then (s.function ((off - 0xA000) / 8)).apdeny
  else
    match off with
    | 0x9000 => v.mtperiod
    | 0x9010 => v.rcause
    | 0x9018 => v.suspbase
    | 0x9020 => v.susplen
    | 0x9028 => v.fwaddr
    | 0x9030 => v.fwlen
    | 0x9040 => if v.recovery then 6 else v.fwstat
    | 0x9048 => v.pcap
    | _ => 0

/-- A register of a signal box (R167). -/
def boxRead (s : State) (die off : Nat) : Word :=
  let d := s.die die
  if off ≤ 0x30 then w64 (SMap.get 1000 d.age (off / 8))
  else if 0x400 ≤ off ∧ off < 0xC00 then w64 (SMap.get 7 d.vfmax ((off - 0x400) / 8))
  else
    match off with
    | 0x40 => w64 d.sliceq
    | 0x48 => w64 d.blockt
    | 0x80 => d.slogbase
    | 0x88 => d.sloglimit
    | 0x90 => d.slogwp
    | _ => 0

/-- A queue register (R417). -/
def queueRead (s : State) (k off : Nat) : Word :=
  let q := s.hostQueue k
  match off with
  | 0x00 => q.qbase
  | 0x08 => w64 q.qsize
  | 0x10 => q.qctl
  | 0x18 => w64 q.rdix
  | 0x20 => w64 q.wrix
  | 0x28 => w64 (q.qstat.toNat + 512 * b2n q.stopped)
  | _ => 0

/-- Window granules a function owns, as FINFO's eight bits hold them: 256 read 0 (DESIGN CHOICE, log entry 149). -/
def granules (s : State) (fn : Nat) : Nat := (s.wown.filter (fun e => e.2 == 256 + fn)).length % 256

/-- A function register (R415). -/
def functionRead (s : State) (fn off : Nat) : Word :=
  let f := s.function fn
  match off with
  | 0x00 => f.fevent
  | 0x08 => f.fevctl
  | 0x10 => f.recbase
  | 0x18 => f.apbase
  | 0x20 => f.ptmctl
  | 0x28 => f.ptmsc
  | 0x30 => f.ptmhost
  | 0x38 => w64 (fn + 256 * linkOfFn fn + 512 * granules s fn)
  | _ => 0

/-- May the function's BAR 0 be reached at all: not during a warm reset (R443), in recovery only the service block of
PF0 (R444). -/
def barOpen (s : State) (fn off : Nat) : Bool :=
  !s.service.resetting && (!s.service.recovery || (fn == 0 && decide (0x500000 ≤ off)))

/-- The value of the register at a BAR 0 offset, a multiple of 8; 0 in a reserved range. -/
def barRead (s : State) (fn off : Nat) : Word :=
  if off < 0x80 then w64 (s.hostQueue (16 * fn + off / 8)).wrix
  else if 0x1000 ≤ off ∧ off < 0x1400 then queueRead s (16 * fn + (off - 0x1000) / 64) (off % 64)
  else if 0x2000 ≤ off ∧ off < 0x2040 then functionRead s fn (off - 0x2000)
  else if 1 < fn then 0
  else if 0x100000 ≤ off ∧ off < 0x180000 then boxRead s ((off - 0x100000) / 0x10000) (off % 0x10000)
  else if 0x200000 ≤ off ∧ off < 0x204000 then
    let f := s.function ((off - 0x200000) / 64)
    if off % 64 = 0 then f.fcfg else if off % 64 = 8 then f.hostroot else 0
  else if 0x300000 ≤ off ∧ off < 0x308000 then w64 (queueNumber s ((off - 0x300000) / 8))
  else if 0x400000 ≤ off ∧ off < 0x400800 then w64 (SMap.get 0 s.wown ((off - 0x400000) / 8))
  else if 0x500000 ≤ off ∧ off < 0x50B000 then serviceRead s (off - 0x500000)
  else 0

/-- What a host read of BAR 0 returns: 4 or 8 bytes at a register, or a half of it (R414). -/
def hostReadValue (s : State) (fn off size : Nat) : Nat :=
  if s.service.resetting then 2 ^ (8 * size) - 1
  else if !barOpen s fn off then 0
  else if size = 8 ∧ off % 8 = 0 then (barRead s fn off).toNat
  else if size = 4 ∧ off % 4 = 0 then bitsOf (barRead s fn (off / 8 * 8)).toNat (32 * (off % 8 / 4)) 32
  else 0

/-! ### Register writes -/

/-- What a write asks of a register: the bits it reaches and their values. -/
structure RegWrite where
  mask : Word := 0
  val : Word := 0
deriving DecidableEq, Repr, Inhabited

/-- A write of 4 or 8 bytes at an offset; none when it is discarded (R414). -/
def regWriteOf (off size : Nat) (v : Word) : Option RegWrite :=
  if size = 8 ∧ off % 8 = 0 then some { mask := ~~~0#64, val := v }
  else if size = 4 ∧ off % 8 = 0 then some { mask := 0xFFFFFFFF, val := v &&& 0xFFFFFFFF }
  else if size = 4 ∧ off % 4 = 0 then some { mask := 0xFFFFFFFF00000000, val := v <<< 32 }
  else none

/-- The whole value a register would have. -/
def RegWrite.apply (w : RegWrite) (old : Word) : Word := (old &&& ~~~w.mask) ||| (w.val &&& w.mask)

/-- Clear the W1C bits written with 1. -/
def RegWrite.clear (w : RegWrite) (old : Word) : Word := old &&& ~~~(w.val &&& w.mask)

/-- Highest level of a function: FCFG and VFMAX of every die agree (R422). -/
def setLevel (s : State) (fn level : Nat) : State :=
  let s1 := s.modFunction fn (fun f => { f with fcfg := (f.fcfg &&& ~~~0x70#64) ||| w64 (16 * level) })
  { s1 with dies := s1.dies.map (fun (d, x) => (d, { x with vfmax := SMap.put fn level x.vfmax })) }

/-- A queue is empty, with EN = 0 and QRDIX = QWRIX (R422). -/
def queueEmpty (s : State) (k : Nat) : Bool :=
  let q := s.hostQueue k
  !q.qctl.getLsbD 0 && q.rdix == q.wrix && q.launches.isEmpty && q.copies.isEmpty

/-- QMAP write: ignored unless the old and the new queue are empty and no number repeats. -/
def writeQmap (s : State) (k n : Nat) : State :=
  let users := (List.range 4096).filter (fun j => j != k && queueNumber s j == n)
  let waiting := s.launches.any (fun e => (e.2.queue == queueNumber s k || e.2.queue == n) && e.2.phaseOf == .waiting)
  if queueEmpty s k && users.isEmpty && !waiting then { s with qmap := SMap.put k n s.qmap } else s

/-- A signal-box register (R167). A write of 0 to BLOCKT, of which the table gives the range alone, is ignored (DESIGN CHOICE,
log entry 126). Where a write makes room in the scheduler log, decisions held for it are made (R169). -/
def boxWrite (s : State) (die off : Nat) (v : Word) : State :=
  let n := v.toNat
  if off ≤ 0x30 then
    (if n % 65536 = 0 then s else s.modDie die (fun d => { d with age := SMap.put (off / 8) (n % 65536) d.age }))
  else if 0x400 ≤ off ∧ off < 0xC00 then setLevel s ((off - 0x400) / 8) (n % 8)
  else
    match off with
    | 0x40 => if 10 ≤ n % 1024 ∧ n % 1024 ≤ 1000 then s.modDie die (fun d => { d with sliceq := n % 1024 }) else s
    | 0x48 => if n % 256 = 0 then s else s.modDie die (fun d => { d with blockt := n % 256 })
    | 0x80 => if n % 32 = 0 then s.modDie die (fun d => { d with slogbase := v }) else s
    | 0x88 => resumeActions (s.modDie die (fun d => { d with sloglimit := v })) die
    | 0x90 => resumeActions (s.modDie die (fun d => { d with slogwp := v })) die
    | _ => s

/-- A register of the service block without behaviour of its own (R441). A write to SUSPBASE that is not 4 KiB aligned is
ignored (DESIGN CHOICE, log entry 86). -/
def serviceWrite (s : State) (off : Nat) (v : Word) : State :=
  let n := v.toNat
  if off < 0x8000 then
    (if off % 64 = 0x38 ∧ off % 0x1000 / 64 < 36 then
      s.modDie (off / 0x1000) (fun d => d.modCore (off % 0x1000 / 64) (fun c => { c with corrected := bitsOf n 16 16 }))
    else s)
  else if 0xA000 ≤ off ∧ off < 0xA800 then s.modFunction ((off - 0xA000) / 8) (fun f => { f with apdeny := v })
  else
    match off with
    | 0x9000 => if 1 ≤ n % 1024 ∧ n % 1024 ≤ 720 then { s with service := { s.service with mtperiod := w64 (n % 1024) } } else s
    | 0x9018 => if n % 4096 = 0 then { s with service := { s.service with suspbase := v } } else s
    | 0x9020 => { s with service := { s.service with susplen := v } }
    | 0x9028 => { s with service := { s.service with fwaddr := v } }
    | 0x9030 => { s with service := { s.service with fwlen := v } }
    | 0x9048 =>
      if 1000 ≤ n % 4096 ∧ n % 4096 ≤ 3600 then { s with service := { s.service with pcap := w64 (n % 4096) } } else s
    | _ => s

/-- A queue register but for the actions of QCTL (R417). -/
def queueWrite (s : State) (k off : Nat) (w : RegWrite) : State :=
  let q := s.hostQueue k
  let v := w.apply (queueRead s k off)
  match off with
  | 0x00 => if q.qctl.getLsbD 0 || v.toNat % 64 != 0 then s else s.modQueue k (fun q => { q with qbase := v })
  | 0x08 =>
    let n := v.toNat % 32
    if q.qctl.getLsbD 0 || n < 4 || 16 < n then s else s.modQueue k (fun q => { q with qsize := n })
  | 0x10 => s.modQueue k (fun q => { q with qctl := v &&& 0xFF })
  | 0x28 => s.modQueue k (fun q => { q with qstat := q.qstat &&& ~~~(w.val &&& w.mask &&& 0x100) })
  | _ => s

/-- A function register (R415). -/
def functionWrite (s : State) (fn off : Nat) (w : RegWrite) : State :=
  let v := w.apply (functionRead s fn off)
  let mod := fun (f : Function → Function) => s.modFunction fn f
  match off with
  | 0x00 => mod (fun f => { f with fevent := w.clear f.fevent })
  | 0x08 => mod (fun f => { f with fevctl := v &&& 0x7F })
  | 0x10 => if v.toNat % 2048 = 0 then mod (fun f => { f with recbase := v }) else s
  | 0x18 => if v.toNat % 2 ^ 37 = 0 then mod (fun f => { f with apbase := v }) else s
  | 0x20 => mod (fun f => { f with ptmctl := v &&& 1 })
  | _ => s

/-- The register at an offset takes a write. -/
def barWrite (s : State) (fn off : Nat) (w : RegWrite) : State :=
  let v := w.apply (barRead s fn off)
  if 0x1000 ≤ off ∧ off < 0x1400 then queueWrite s (16 * fn + (off - 0x1000) / 64) (off % 64) w
  else if 0x2000 ≤ off ∧ off < 0x2040 then functionWrite s fn (off - 0x2000) w
  else if 1 < fn then s
  else if 0x100000 ≤ off ∧ off < 0x180000 then boxWrite s ((off - 0x100000) / 0x10000) (off % 0x10000) v
  else if 0x200000 ≤ off ∧ off < 0x204000 then
    let f := (off - 0x200000) / 64
    if off % 64 = 0 then setLevel (s.modFunction f (fun x => { x with fcfg := v &&& 0x71 })) f (bitsOf v.toNat 4 3)
    else if off % 64 = 8 then s.modFunction f (fun x => { x with hostroot := v })
    else s
  else if 0x300000 ≤ off ∧ off < 0x308000 then writeQmap s ((off - 0x300000) / 8) (v.toNat % 4096)
  else if 0x400000 ≤ off ∧ off < 0x400800 then { s with wown := SMap.set 0 s.wown ((off - 0x400000) / 8) (v.toNat % 512) }
  else if 0x500000 ≤ off ∧ off < 0x50B000 then serviceWrite s (off - 0x500000) v
  else s

/-- What a write to BAR 0 is: the actions of their own, or a plain update. -/
inductive WriteKind where
  | notify | enable | disable | resume | resumeSkip | reset | stage | activate | plain | discarded
deriving DecidableEq, Repr, Inhabited

/-- Kind of a write of 4 or 8 bytes at an offset of a function's BAR 0. -/
def writeKind (s : State) (fn off size : Nat) (v : Word) : WriteKind :=
  match regWriteOf off size v with
  | none => .discarded
  | some w =>
    let r := off / 8 * 8
    if !barOpen s fn off then .discarded
    else if r < 0x80 then (if off % 8 = 0 then .notify else .discarded)
    else if 0x1000 ≤ r ∧ r < 0x1400 ∧ r % 64 = 0x10 then
      let old := (s.hostQueue (16 * fn + (r - 0x1000) / 64)).qctl.getLsbD 0
      let new := (w.apply (barRead s fn r)).getLsbD 0
      let act := w.val &&& w.mask
      if new && !old then .enable
      else if !new && old then .disable
      else if act.getLsbD 8 then (if act.getLsbD 9 then .resumeSkip else .resume)
      else .plain
    else if fn ≤ 1 ∧ r = 0x509008 then (if w.apply 0 = 0x00575253 then .reset else .discarded)
    else if fn ≤ 1 ∧ r = 0x509038 then
      (if (s.service.fwstat = 1 ∧ !s.service.recovery) then .discarded
        else if w.apply 0 = 1 then .stage else if w.apply 0 = 2 then .activate else .discarded)
    else .plain

/-- The write `State.sel` describes, as its kind and its effect on the register itself. -/
def selWrite (s : State) : WriteKind × State × Nat :=
  let c := s.sel
  let k := writeKind s c.fn c.addr c.size c.val
  let key := 16 * c.fn + (if c.addr < 0x80 then c.addr / 8 else (c.addr - 0x1000) / 64)
  match regWriteOf c.addr c.size c.val with
  | some w => (k, barWrite s c.fn (c.addr / 8 * 8) w, key)
  | none => (k, s, key)

/-- R414: a plain register write. -/
def execHostRegisterWrite (s : State) : Host.Outcome State Fault Refusal :=
  let (k, s1, _) := selWrite s
  .next (if k = .plain then s1 else s)

/-- R420: a notify write makes packets eligible, is ignored, or stops the queue. -/
def execNotify (s : State) : Host.Outcome State Fault Refusal :=
  let (kind, _, k) := selWrite s
  let q := s.hostQueue k
  let w := s.sel.val.toNat % 2 ^ 32
  if kind ≠ .notify || !q.qctl.getLsbD 0 || (s.sel.size == 8 && decide (2 ^ 32 ≤ s.sel.val.toNat)) then .next s
  else if idxDiff w q.rdix < idxDiff q.wrix q.rdix then .next s
  else if idxDiff w q.rdix ≤ 2 ^ q.qsize then .next (s.modQueue k (fun q => { q with wrix := w }))
  else .next (stopQueue s k 2 w)

/-- R417: EN goes to 1: both indices are 0 and the queue is not stopped. -/
def execQueueEnable (s : State) : Host.Outcome State Fault Refusal :=
  let (kind, s1, k) := selWrite s
  .next (if kind = .enable then
      (letGo s1 k).modQueue k (fun q => { q with rdix := 0, wrix := 0, stopped := false, epoch := q.epoch + 1 })
    else s)

/-- R417: EN goes to 0: no packet is fetched; accepted ones run on. RESUME in the same write acts. -/
def execQueueDisable (s : State) : Host.Outcome State Fault Refusal :=
  let (kind, s1, k) := selWrite s
  let act := (regWriteOf s.sel.addr s.sel.size s.sel.val).elim 0#64 (fun w => w.val &&& w.mask)
  .next (if kind = .disable then (if act.getLsbD 8 then resumeQueue s1 k (act.getLsbD 9) else s1) else s)

/-- R418: RESUME retries the packet at QRDIX. -/
def execQueueResume (s : State) : Host.Outcome State Fault Refusal :=
  let (kind, s1, k) := selWrite s
  .next (if kind = .resume then resumeQueue s1 k false else s)

/-- R418: RESUME with SKIP passes over the stopped packet. -/
def execQueueResumeSkip (s : State) : Host.Outcome State Fault Refusal :=
  let (kind, s1, k) := selWrite s
  .next (if kind = .resumeSkip then resumeQueue s1 k true else s)

/-! ### Window and aperture -/

/-- What a host read of the window returns (R421); all ones during a warm reset (R443). -/
def windowValue (s : State) (fn off size : Nat) : Nat :=
  if s.service.resetting then 2 ^ (8 * size) - 1
  else leNat ((List.range size).map (fun i =>
    if SMap.get 0 s.wown ((off + i) / 65536) = 256 + fn then readByte s.win (off + i) else 0))

/-- R421, R138: a host store to an owned granule performs; anything else leaves the window as it is. -/
def execHostWindowAccess (s : State) : Host.Outcome State Fault Refusal :=
  let c := s.sel
  if !c.flag || s.service.resetting || s.service.recovery then .next s
  else
    let put := fun (m : SMap Byte) (i : Nat) =>
      let a := c.addr + i
      if a < 0x1000000 ∧ SMap.get 0 s.wown (a / 65536) = 256 + c.fn then writeByte m a (BitVec.ofNat 8 (c.val.toNat / 256 ^ i))
      else m
    .next { s with win := (List.range (min c.size 8)).foldl put s.win }

/-- Where a host access through the aperture leads, for each of its bytes. -/
def aperturePlaces (s : State) (fn off size : Nat) : Option (List Nat) :=
  (List.range size).mapM (fun i =>
    match directPa s fn ((s.function fn).apbase + w64 (off + i)) .readWrite true with
    | .ok pa => some pa
    | .error _ => none)

/-- What a host read through the aperture returns (R423); all ones during a warm reset (R443). -/
def apertureValue (s : State) (fn off size : Nat) : Nat :=
  match (if s.service.resetting then none else aperturePlaces s fn off size) with
  | some l => leNat (l.map (readByte s.mem))
  | none => 2 ^ (8 * size) - 1

/-- R423, R139: a host access through the aperture: a write performs at its home, a refused access is counted. -/
def execHostApertureAccess (s : State) : Host.Outcome State Fault Refusal :=
  let c := s.sel
  if s.service.resetting || s.service.recovery then .next s
  else
    match aperturePlaces s c.fn (c.addr % 2 ^ 37) (min c.size 8) with
    | none => .next (s.modFunction c.fn (fun f => { f with apdeny := if f.apdeny = ~~~0#64 then f.apdeny else f.apdeny + 1 }))
    | some l =>
      if !c.flag then .next s
      else .next (l.zipIdx.foldl (fun s (pa, i) => writePa s c.fn pa [some (BitVec.ofNat 8 (c.val.toNat / 256 ^ i))]) s)

/-! ### Packets (R424, R425) -/

/-- Address of the packet at an index. -/
def packetAddr (q : HostQueue) (n : Nat) : Word := q.qbase + w64 (64 * (n % 2 ^ q.qsize))

/-- The queue has a packet for the command processor. -/
def mayFetch (s : State) (k : Nat) : Bool :=
  let q := s.hostQueue k
  q.qctl.getLsbD 0 && !q.stopped && q.rdix != q.wrix && !s.service.resetting && !s.service.recovery

/-- The page of a packet is mapped with R, W and TSO, as a ring must be (R419, log entry 130). -/
def ringPage (s : State) (fn : Nat) (va : Word) : Bool :=
  match walk s fn (pageOf va) with
  | .ok e => e.tso && (denied e .readWrite true).isNone
  | .error _ => false

/-- The 64 bytes at QRDIX, as a number; none when they do not translate. -/
def readPacket (s : State) (k : Nat) : Option Nat :=
  let q := s.hostQueue k
  let va := packetAddr q q.rdix
  match directRead s (k / 16) va true 64 with
  | .ok bs => if ringPage s (k / 16) va then some (leNat bs) else none
  | .error _ => none

/-- It is the queue's turn: the command processor of its link serves its queues round-robin by module queue number, from
the one after the queue it served last (R425). -/
def queueTurn (s : State) (k : Nat) : Bool :=
  let link := linkOfFn (k / 16)
  let rank := fun (j : Nat) => (queueNumber s j + 4095 - SMap.get 4095 s.served link) % 4096
  s.queues.all (fun e => !(mayFetch s e.1 && linkOfFn (e.1 / 16) == link && decide (rank e.1 < rank k)))

/-- The queue has had its turn. -/
def tookTurn (s : State) (k : Nat) : State := { s with served := SMap.put (linkOfFn (k / 16)) (queueNumber s k) s.served }

/-- TYPE of a packet. -/
def packetType (p : Nat) : Nat := bitsOf p 8 8

/-- A zero field is nonzero, V is 0, or TYPE is unassigned. The block of a LAUNCH is the signal box's to judge. -/
def malformed (p : Nat) : Bool :=
  let t := packetType p
  !bitOf p 0 || bitsOf p 1 7 != 0 || bitsOf p 22 42 != 0 || t == 0 || decide (4 < t)
    || (t == 1 && bitOf p 19) || (t != 1 && bitsOf p 16 6 != 0)
    || (t == 2 && bitsOf p 192 320 != 0)
    || (t == 3 && (bitsOf p 200 312 != 0 || decide (1 < bitsOf p 192 8)))
    || (t == 4 && bitsOf p 320 192 != 0)

/-- In the queue's turn: the packet at QRDIX of a type, or the queue stopped by one that cannot be read or is malformed. A
packet that waits has had its turn. -/
def takePacket (s : State) (k type : Nat) : State × Option Nat :=
  if !mayFetch s k || !queueTurn s k then (s, none)
  else
    let s1 := tookTurn s k
    match readPacket s k with
    | none => (stopQueue s1 k 2 (s.hostQueue k).rdix, none)
    | some p =>
      if malformed p then (stopQueue s1 k 2 (s.hostQueue k).rdix, none)
      else if packetType p = type then (s1, some p)
      else (s, none)

/-- The packet is finished with: V is cleared, that write flushed, and QRDIX moves on. -/
def finishPacket (s : State) (k p : Nat) : State :=
  let q := s.hostQueue k
  let fn := k / 16
  match directWrite s fn (packetAddr q q.rdix) true (bytesOf (p % 2 ^ 32 - 1) 4) with
  | .error _ => stopQueue s k 2 q.rdix
  | .ok s1 => (drainHost s1 fn).modQueue k (fun q => { q with rdix := (q.rdix + 1) % 2 ^ 32, busy := none })

/-! ### LAUNCH (R426) -/

/-- The launch of the packet at QRDIX is judged; the packet is done once that is decided. -/
def judgePacket (s : State) (k key p : Nat) : State :=
  let s1 := judgeLaunch s key 0 s.sel.flag
  if (s1.launch key).phaseOf = .waiting then s1
  else
    let n := (s1.hostQueue k).rdix
    finishPacket (s1.modQueue k (fun q => { q with launches := SMap.put (workKey q n) key q.launches })) k p

/-- Take a LAUNCH packet: refused at step 1 of R143 it is a rejection without a signal, else its launch is enqueued. -/
def takeLaunch (s : State) (k p : Nat) : State :=
  let q := s.hostQueue k
  let l := launchOfBlock (k / 16) (queueNumber s k) (bitOf p 20) (bitOf p 21) (bitsOf p 16 3) false q.rdix
    ((List.range 7).map (fun i => bitsOf p (64 + 64 * i) 64))
  if !doneOk s l.fn l.done false then finishPacket (queueEvent s k 2 q.rdix) k p
  else
    let key := s.nextLaunch
    judgePacket ((enqueueLaunch s l).modQueue k (fun q => { q with busy := some key })) k key p

/-- R426, R143: a LAUNCH packet is taken, or its launch, or one that a LAUNCH instruction enqueued, is judged. -/
def execPacketLaunch (s : State) : Host.Outcome State Fault Refusal :=
  if s.sel.item ≠ 0 then
    .next (if (s.launch s.sel.item).byLaunch then judgeLaunch s s.sel.item 0 s.sel.flag else s)
  else
    let k := 16 * s.sel.fn + s.sel.queue
    match takePacket s k 1 with
    | (s1, none) => .next s1
    | (s1, some p) =>
      match (s1.hostQueue k).busy with
      | some key => .next (judgePacket s1 k key p)
      | none => .next (takeLaunch s1 k p)

/-! ### WAITSIG and SIGNAL (R428, R429) -/

/-- R428: the packet waits for its word, and passes or stops the queue. -/
def execPacketWaitsig (s : State) : Host.Outcome State Fault Refusal :=
  let k := 16 * s.sel.fn + s.sel.queue
  match takePacket s k 2 with
  | (s1, none) => .next s1
  | (s1, some p) =>
    let n := (s1.hostQueue k).rdix
    let addr := bitsOf p 64 64
    if addr % 8 ≠ 0 then .next (stopQueue s1 k 2 n)
    else
      match hostPlace s1 (k / 16) (w64 addr) .read with
      | none => .next (stopQueue s1 k 2 n)
      | some (h, a) =>
        let v := homeRead s1 h a 8
        if bitOf v 63 then .next (stopQueue s1 k 7 n)
        else if v ≤ bitsOf p 128 63 then .next (finishPacket s1 k p)
        else .next s1

/-- R429: once the queue's earlier work has completed, VALUE is stored or added. -/
def execPacketSignal (s : State) : Host.Outcome State Fault Refusal :=
  let k := 16 * s.sel.fn + s.sel.queue
  match takePacket s k 3 with
  | (s1, none) => .next s1
  | (s1, some p) =>
    let q := s1.hostQueue k
    let fn := k / 16
    let addr := bitsOf p 64 64
    if !q.launches.isEmpty || !q.copies.isEmpty then .next s1
    else
      match (if addr % 8 = 0 then hostPlace s1 fn (w64 addr) (if bitOf p 192 then .readWrite else .write) else none) with
      | none => .next (stopQueue s1 k 2 q.rdix)
      | some (h, a) =>
        let v := bitsOf p 128 64
        let new := if bitOf p 192 then (homeRead s1 h a 8 + v) % 2 ^ 64 else v
        .next (finishPacket (drainHost (homeWrite (drainHost s1 fn) fn h a (enabledBytes new 8)) fn) k p)

/-! ### COPY (R427) -/

/-- Attributes of the pages of a range. -/
def hostTso (s : State) (fn : Nat) (va : Word) (n : Nat) : Bool :=
  (spanPages va n).any (fun p =>
    match walk s fn p with
    | .ok e => e.tso
    | .error _ => false)

/-- Two pages of two ranges map to the same bytes. -/
def hostSame (s : State) (fn : Nat) (src dst : Word) (n : Nat) : Bool :=
  (spanPages src n).any (fun p => (spanPages dst n).any (fun r => p != r && (match walk s fn p, walk s fn r with
    | .ok a, .ok b => a.pa == b.pa
    | _, _ => false)))

/-- The order a host copy takes at its start (R342). -/
def hostOrder (s : State) (fn : Nat) (c : HostCopy) : CopyOrder :=
  let tso := hostTso s fn c.src c.len || hostTso s fn c.dst c.len
  if c.src.toNat < c.dst.toNat ∧ c.dst.toNat < c.src.toNat + c.len ∧ !tso then .down
  else if (tso && spansMeet c.src.toNat c.dst.toNat c.len) || hostSame s fn c.src c.dst c.len then .pieces
  else .up

/-- Bytes of a function's memory from an address: each with whether its 64-byte sector is lost. -/
def hostBytes (s : State) (fn : Nat) (va : Word) (n : Nat) : Option (List (Byte × Bool)) :=
  (List.range n).mapM (fun i =>
    (hostPlace s fn (va + w64 i) .read).map (fun (h, a) =>
      if homeBad s h (a / 64 * 64) 64 then (0, true) else (BitVec.ofNat 8 (homeRead s h a 1), false)))

/-- Store bytes, each where its address leads. -/
def hostStore (s : State) (fn : Nat) (va : Word) (bs : List Byte) : Option State :=
  bs.zipIdx.foldlM (fun s (b, i) =>
    (hostPlace s fn (va + w64 i) .write).map (fun (h, a) => homeWrite s fn h a [some b])) s

/-- Move `m` bytes of a copy from an offset: the state after them, and whether a sector was lost. -/
def hostMove (s : State) (fn : Nat) (c : HostCopy) (o m : Nat) : Option (State × Bool) := do
  let l ← hostBytes s fn (c.src + w64 o) m
  let s1 ← hostStore s fn (c.dst + w64 o) (plainBytes l)
  pure (s1, anyLost l)

/-- Move the bytes of a chunk that come before a fault: none of them where the first faults. -/
def hostMost (f : Nat → Option (State × Bool)) : Nat → Option (State × Bool × Nat)
  | 0 => none
  | m + 1 =>
    match f (m + 1) with
    | some (s, lost) => some (s, lost, m + 1)
    | none => hostMost f m

/-- Move the next chunk of a copy; a fault ends it, the bytes before the fault having moved. -/
def hostChunk (s : State) (k n : Nat) (c : HostCopy) : State :=
  let fn := k / 16
  let put := fun (s : State) (c : HostCopy) => s.modQueue k (fun q => { q with copies := SMap.put n c q.copies })
  let order := orderOf c.order
  let (o, m) := copyChunk order c.dst c.len c.progress
  match hostMost (fun j => hostMove s fn c (if order == .down then o + (m - j) else o) j) m with
  | none => put s { c with ended := true, failed := true }
  | some (s1, lost, j) =>
    put s1 { c with progress := c.progress + j, failed := c.failed || lost, ended := decide (c.len ≤ c.progress + j) }

/-- Up to `m` chunks of a started copy. -/
def hostChunks (k n : Nat) : Nat → State → State
  | 0, s => s
  | m + 1, s =>
    match SMap.find n (s.hostQueue k).copies with
    | none => s
    | some c => if c.ended || decide (c.len ≤ c.progress) then s else hostChunks k n m (hostChunk s k n c)

/-- A COPY packet starts, or is rejected without a signal. -/
def takeCopy (s : State) (k p : Nat) : State :=
  let n := (s.hostQueue k).rdix
  let len := bitsOf p 192 64
  let done := bitsOf p 256 64
  if 2 ^ 40 ≤ len ∨ done % 8 ≠ 0 then finishPacket (queueEvent s k 2 n) k p
  else
    let c : HostCopy := { dst := w64 (bitsOf p 64 64), src := w64 (bitsOf p 128 64), done := w64 done, len }
    let c1 := { c with order := (hostOrder s (k / 16) c).code }
    finishPacket (s.modQueue k (fun q => { q with copies := SMap.put (workKey q n) c1 q.copies })) k p

/-- R427: a COPY packet is taken, and with a count the copy of the packet named moves on. -/
def execPacketCopy (s : State) : Host.Outcome State Fault Refusal :=
  let k := 16 * s.sel.fn + s.sel.queue
  if s.sel.count ≠ 0 then .next (hostChunks k s.sel.item s.sel.count s)
  else
    match takePacket s k 4 with
    | (s1, none) => .next s1
    | (s1, some p) => .next (takeCopy s1 k p)

/-! ### Completion (R430) -/

/-- Flush, DONE, its way to the host, QSTAT, interrupt. -/
def completeWork (s : State) (k n : Nat) (done : Word) (status : Nat) : State :=
  let fn := k / 16
  let s1 := drainHost s fn
  let (s2, ok) := if done = 0 then (s1, true) else putWord s1 fn done (doneStep status)
  let s3 := if ok then drainHost s2 fn else raiseEvent s2 fn 5
  queueInterrupt (queueEvent s3 k status n) k

/-- R430, R145: the work named, by its key in its queue, completes; what a copy has left to move moves first. -/
def execPacketCompletion (s : State) : Host.Outcome State Fault Refusal :=
  let k := 16 * s.sel.fn + s.sel.queue
  let n := s.sel.item
  let q := s.hostQueue k
  match SMap.find n q.launches with
  | some key =>
    (match (s.launch key).phaseOf with
      | .done status =>
        let s1 := { s with launches := SMap.del key s.launches }
        .next (completeWork (s1.modQueue k (fun q => { q with launches := SMap.del n q.launches })) k n (s.launch key).done status)
      | .waiting => .next s
      | .accepted => .next s)
  | none =>
    match SMap.find n q.copies with
    | none => .next s
    | some c =>
      let s1 := hostChunks k n (c.len + 1) s
      match SMap.find n (s1.hostQueue k).copies with
      | none => .next s1
      | some c1 =>
        .next (completeWork (s1.modQueue k (fun q => { q with copies := SMap.del n q.copies })) k n c1.done
          (if c1.failed then 7 else 0))

/-! ### Resets of a function, PTM (R433, R434) -/

/-- A launch ends with a status whatever its tasks were doing: they and their messages are gone. -/
def endLaunch (s : State) (key : Nat) : State :=
  let mine := tasksOf s key
  let gone := fun (p : Party) => mine.any (fun e => e.1 == p.task)
  { s with
    tasks := s.tasks.filter (fun e => e.2.launch != key),
    dies := s.dies.map (fun (d, x) => (d, { x with remap := x.remap.filter (fun e => !(mine.any (fun m => m.1 == e.2))) })),
    net := s.net.filter (fun e => !gone e.2.acc.who),
    rounds := s.rounds.filter (fun e => !gone e.2.acc.who),
    couplings := s.couplings.filter (fun e => !((requesters s s.couplings.length e.2.first).any (fun r => gone r.1))),
    roundsDone := s.roundsDone.filter (fun e => e.1 != key) }

/-- A record of the scheduler log for what a reset decides, which waits for no room: without it the log-full interrupt is
raised (R168, R416, log entry 150). -/
def slogNow (s : State) (die launch kind lcore pcore arg : Nat) : State :=
  if slogRoom s die launch then slog s die launch kind lcore pcore arg else raiseEvent s (s.launch launch).fn 0

/-- The records of a launch that a reset ends: the end of each of its tasks, and its own with its status (R168). -/
def logReset (s : State) (key status : Nat) : State :=
  let ts := tasksOf s key
  let die := ((ts.head?).map (fun e => e.2.die)).getD 0
  slogNow ((ts.filter (fun e => !e.2.ended)).foldl (fun s e => slogNow s e.2.die key 7 e.2.lcore (e.2.core?.getD 0) 0) s)
    die key 9 0 0 status

/-- Complete a launch with a status: by R145, and one from a packet by R430 besides. -/
def completeLaunch (s : State) (key status : Nat) : State :=
  let l := s.launch key
  let s1 := { s with launches := SMap.del key s.launches }
  match (if l.byLaunch then none
      else s.queues.find? (fun e => e.1 / 16 == l.fn && (e.2.busy == some key || e.2.launches.any (fun w => w.2 == key)))) with
  | some (k, _) => completeWork s1 k l.packet l.done status
  | none => signalDone s1 l status

/-- Kill a launch with status RESET; one that is over keeps the status it has (R434). -/
def killLaunch (s : State) (key : Nat) : State :=
  match (s.launch key).phaseOf with
  | .done status => completeLaunch s key status
  | .waiting => completeLaunch (endLaunch (logReset s key 8) key) key 8
  | .accepted => completeLaunch (endLaunch (logReset s key 8) key) key 8

/-- The registers of one function's queues after a function reset; copies under way run on (R417). -/
def resetQueues (s : State) (fn : Nat) : State :=
  { s with queues := s.queues.map (fun (k, q) =>
      if k / 16 = fn then (k, { q with qctl := q.qctl &&& ~~~1#64, rdix := 0, wrix := 0, qstat := 0, stopped := false,
                                       busy := none, launches := [] })
      else (k, q)) }

/-- A staging of firmware that a reset breaks off: the bank that it was writing holds no valid image (R445, log entry 99). -/
def breakStaging (v : Service) : Service :=
  { v with invalidBanks := if v.staging.isSome then [1 - v.bank] else v.invalidBanks, staging := none }

/-- The privileged blocks at their reset values. -/
def resetPrivileged (s : State) : State :=
  let v := breakStaging s.service
  { s with
    dies := s.dies.map (fun (d, x) => (d, { x with age := Die.reset.age, sliceq := 50, blockt := 4, slogbase := 0,
                                                   sloglimit := 0, slogwp := 0, vfmax := [],
                                                   cores := x.cores.map (fun (c, y) => (c, { y with corrected := 0 })) })),
    functions := s.functions.map (fun (f, x) => (f, { x with fcfg := 0x70, hostroot := 0, apdeny := 0 })),
    qmap := [], wown := [],
    service := { v with mtperiod := 24, rcause := 0, suspbase := 0, susplen := 0, fwaddr := 0, fwlen := 0, fwstat := 0,
                        pcap := 3600 } }

/-- R434: kill the function's launches, clear its queues and registers, report. `State.sel.flag`: SR-IOV is enabled. -/
def execFunctionReset (s : State) : Host.Outcome State Fault Refusal :=
  let fn := s.sel.fn
  let keys := (s.launches.filter (fun e => e.2.fn == fn)).map (·.1)
  let s1 := resetQueues (keys.foldl killLaunch s) fn
  let s2 := s1.modFunction fn (fun f => { f with
    fevent := 0, fevctl := 0, recbase := 0, apbase := 0, ptmctl := 0, ptmsc := 0, ptmhost := 0 })
  let s3 := if fn ≤ 1 ∧ !s.sel.flag then resetPrivileged s2 else s2
  .next (raiseEvent s3 fn 4)

/-- R433: a PTM dialog, 10 ms after the last. `State.sel.val` is the host's time. -/
def execPtmDialog (s : State) : Host.Outcome State Fault Refusal :=
  let fn := s.sel.fn
  let f := s.function fn
  if f.ptmctl.getLsbD 0 && (f.ptmsc == 0 || decide (f.ptmsc.toNat + 10000000 ≤ s.clock.toNat)) then
    .next (s.modFunction fn (fun f => { f with ptmsc := s.clock, ptmhost := s.sel.val }))
  else .next s

end Sys2Proof.Machine
end

