-- ==== Sys2Proof/Machine/Service.lean ====
section
/-!
DEFINITION. The service life of the module (ch. 25): margin tests and ladders (R437 to R440), patrol scrub (R172, R442), the
warm reset (R443), firmware banks (R444, R445), attestation (R446) and the arithmetic clock (R447).
-/
namespace Sys2Proof.Machine

/-! ### Host memory as the management controller addresses it, and suspect pages (R443) -/

/-- Physical address of a byte of host memory (log entry 71). -/
def hostBase : Nat := 2 ^ 46

/-- Bytes of host memory. -/
def hostImage (s : State) (a n : Nat) : List Byte := readBytes s.mem (hostBase + a) n

/-- Suspect pages counted so far. -/
def suspectCount (s : State) : Nat := bitsOf s.service.rcause.toNat 18 32

/-- One suspect page: 16 bytes at the next place of the buffer while SUSPLEN lasts; RCAUSE counts every page. -/
def suspectPage (s : State) (fn pa : Nat) : State :=
  let v := s.service
  let n := suspectCount s
  let s1 := if 16 * (n + 1) ≤ v.susplen.toNat then
      writePa s 0 (hostBase + v.suspbase.toNat + 16 * n) ((bytesOf fn 2 ++ List.replicate 6 0 ++ bytesOf pa 8).map some)
    else s
  { s1 with service := { s1.service with rcause := v.rcause + w64 (2 ^ 18) } }

/-- Physical addresses of the 128 KiB pages that a function may write. -/
def writablePages (s : State) (fn : Nat) : List Nat :=
  ((mappedPages s fn).filterMap (fun (_, e, _) => if e.vw && e.hw then some e.pa else none)).dedup

/-! ### Warm reset (R441, R443) -/

/-- A station belongs to a die that the mask of dies names. -/
def stationOn (mask station : Nat) : Bool :=
  (List.range 8).any (fun d => bitOf mask d && station % 10 == dieStation d)
    || (bitOf mask 8 && station % 10 == 4) || (bitOf mask 9 && station % 10 == 9)

/-- The message comes from, goes to or stands at such a station. -/
def msgOn (mask : Nat) (m : Msg) : Bool := stationOn mask m.srcStation || stationOn mask m.dstStation || stationOn mask m.at_

/-- The launch has a task running, or an access in flight, on a die of the mask; an access that waits at its home, for its word
or for its round, is in flight there. -/
def touches (s : State) (mask key : Nat) : Bool :=
  let mine := fun (a : Acc) => (a.who :: a.members).any (fun p => s.hasTask p.task && (s.task p.task).launch == key)
  s.tasks.any (fun e => e.2.launch == key && e.2.core?.isSome && bitOf mask (e.2.die % 8))
    || s.net.any (fun e => msgOn mask e.2 && mine e.2.acc)
    || s.tasks.any (fun e => bitOf mask (e.2.die % 8) && e.2.feWaiters.any (fun f => mine f.acc))
    || s.rounds.any (fun e => stationOn mask (homeStation s e.2.acc.home) && e.2.parts.any (fun p => mine p.acc))

/-- Accepted launches that a cause touches. -/
def touchedBy (s : State) (mask : Nat) : List Nat :=
  ((s.launches.filter (fun e => e.2.phaseOf == .accepted)).map (·.1)).filter (touches s mask)

/-- What a junction die's reset takes of the window SRAM. -/
def loseWindow (s : State) (cause mask : Nat) : State :=
  if cause = 4 then { s with win := s.win.filter (fun e => !bitOf mask (8 + e.1 / 0x800000)) } else s

/-- A warm reset begins: launches are touched or their running tasks set out to be saved. -/
def beginReset (s : State) (cause mask : Nat) : State :=
  let touched := touchedBy s mask
  let s1 := { s with
    service := { breakStaging s.service with resetting := true, touched, rcause := w64 (cause + 2 ^ 8 * (mask % 1024)),
                                             fwstat := if s.service.staging.isSome then 0 else s.service.fwstat } }
  let s2 := { s1 with tasks := s1.tasks.map (fun (t, x) =>
      if x.core?.isSome && x.leaving.isNone && !touched.contains x.launch then (t, { x with leaving := some 5 }) else (t, x)) }
  loseWindow s2 cause mask

/-- A second cause: it adds to the touched launches and to the dies. -/
def extendReset (s : State) (cause mask : Nat) : State :=
  let v := s.service
  loseWindow { s with service := { v with
    touched := (v.touched ++ touchedBy s mask).dedup, rcause := v.rcause ||| w64 (2 ^ 8 * (mask % 1024)) } } cause mask

/-- A touched launch completes with status 8, its writable pages suspect. -/
def endTouched (s : State) (key : Nat) : State :=
  let l := s.launch key
  let s1 := (writablePages s l.fn).foldl (fun s pa => suspectPage s l.fn pa) s
  finishLaunch (endLaunch (logReset s1 key 8) key) key 8

/-- The staged bank becomes the active one. -/
def activateBank (s : State) : State :=
  if s.service.activate then
    { s with service := { s.service with bank := 1 - s.service.bank, activate := false, fwstat := 0 } }
  else s

/-- A warm reset ends: a launch with a task still on a core is touched; touched launches complete, SAVED tasks are READY,
translations and walks are gone. -/
def finishReset (s : State) : State :=
  let late := (s.tasks.filter (fun e => e.2.core?.isSome)).map (fun e => e.2.launch)
  let keys := (s.service.touched ++ late).dedup.filter (fun k => (s.launch k).phaseOf == .accepted && (SMap.find k s.launches).isSome)
  let s1 := drainHost (keys.foldl endTouched s) 0
  let ready := fun (e : Nat × Task) => if e.2.place == .saved then (e.1, { e.2 with place := .ready }) else e
  let fresh := fun (e : Nat × Die) => (e.1, { e.2 with dieTlb := [], coreTlb := [], walks := [], lastServed := 0 })
  let s2 : State := { s1 with tasks := s1.tasks.map ready, dies := s1.dies.map fresh }
  activateBank { s2 with service := { s2.service with resetting := false, touched := [] } }

/-- R441: the key written to RESETCMD starts a warm reset of cause 1 on every die. -/
def execResetcmd (s : State) : Host.Outcome State Fault Refusal :=
  let (kind, _, _) := selWrite s
  .next (if kind = .reset then beginReset s 1 0x3FF else s)

/-- R443: the controller starts a warm reset for a cause of its own (`State.sel.item` 2 to 6, the dies in `State.sel.val`),
adds a cause to one under way, or with `item` 0 ends it. -/
def execWarmReset (s : State) : Host.Outcome State Fault Refusal :=
  let c := s.sel.item
  let mask := s.sel.val.toNat % 1024
  if 2 ≤ c ∧ c ≤ 6 then .next (if s.service.resetting then extendReset s c mask else beginReset s c mask)
  else if c = 0 ∧ s.service.resetting then .next (finishReset s)
  else .next s

/-! ### Firmware (R444, R445) -/

/-- The image a bank holds. -/
def bankImage (s : State) (b : Nat) : List Byte := (SMap.find b s.service.flash).getD (Config.factoryImage b)

/-- An image verifies: its signature, and its security version. -/
def imageOk (img : List Byte) : Bool := Config.signatureOk img && decide (Config.fusedVersion ≤ Config.imageVersion img)

/-- A bank verifies. -/
def bankOk (s : State) (b : Nat) : Bool := !s.service.invalidBanks.contains b && imageOk (bankImage s b)

/-- What outlives a loss of power: host memory as the host reads it, worn units and their counters, the flash. -/
def powerCycle (s : State) : State :=
  let v := s.service
  let r := State.reset
  { r with
    agenda := s.agenda, draw := s.draw, sel := s.sel, physMap := s.physMap,
    mem := (s.hostView.foldl (fun m (a, b) => writeByte m a b) s.mem).filter (fun e => isHostPa s e.1),
    dies := s.dies.map (fun (d, x) => (d, { Die.reset with
      cores := x.cores.map (fun (c, y) => (c, { y with corrected := 0, tested := 0 })) })),
    msix := s.msix, doe := s.doe,
    service := { r.service with channels := v.channels, lanes := v.lanes, scrubs := v.scrubs, forecasts := v.forecasts, flash := v.flash,
                                invalidBanks := v.invalidBanks, bank := v.bank } }

/-- R444: the boot stage verifies the active bank, then the other; when neither verifies the recovery loader runs. -/
def execPowerOn (s : State) : Host.Outcome State Fault Refusal :=
  let s1 := powerCycle (activateBank s)
  let b := s1.service.bank
  if bankOk s1 b then .next s1
  else if bankOk s1 (1 - b) then .next { s1 with service := { s1.service with bank := 1 - b } }
  else .next { s1 with service := { s1.service with recovery := true } }

/-- R445: FWCMD 1: FWLEN bytes at FWADDR are read. -/
def execFwStage (s : State) : Host.Outcome State Fault Refusal :=
  let (kind, _, _) := selWrite s
  let v := s.service
  .next (if kind = .stage then
      { s with service := { v with fwstat := 1, activate := false, staging := some (hostImage s v.fwaddr.toNat v.fwlen.toNat) } }
    else s)

/-- R445: staging ends: the image is refused, or is in the inactive bank. `State.sel.flag`: the flash fails. -/
def execFwStageComplete (s : State) : Host.Outcome State Fault Refusal :=
  let v := s.service
  let b := 1 - v.bank
  match v.staging with
  | none => .next s
  | some img =>
    let out := fun (n : Word) (w : Service) => Host.Outcome.next { s with service := { w with fwstat := n, staging := none } }
    if !Config.signatureOk img then out 3 v
    else if Config.imageVersion img < Config.fusedVersion then out 4 v
    else if s.sel.flag then out 5 { v with invalidBanks := [b] }
    else out 2 { v with flash := SMap.put b img v.flash, invalidBanks := v.invalidBanks.filter (· != b) }

/-- R445: FWCMD 2: the staged bank is the active one after the next reset. -/
def execFwActivate (s : State) : Host.Outcome State Fault Refusal :=
  let (kind, _, _) := selWrite s
  .next (if kind = .activate ∧ s.service.fwstat = 2 then { s with service := { s.service with activate := true } } else s)

/-! ### Attestation (R446) -/

/-- The six CAP bitmaps of a core, CAPME0 to CAPXE (R19). -/
def capBitmaps (c : Core) : List Word := [capme c.me0, capme c.me1, 7, 7, 15, 7]

/-- Demotion state: every CAP bitmap and SPSIZE of every core. -/
def demotionState (s : State) : List Byte :=
  s.dies.flatMap (fun (_, x) => x.cores.flatMap (fun (_, c) =>
    (capBitmaps c).flatMap (fun w => bytesOf w.toNat 1) ++ bytesOf (usableBytes c) 4))

/-- The measurements, index 1 to 4. -/
def measurements (s : State) : List Byte :=
  let image := bankImage s s.service.bank
  let digest := fun (bs : List Byte) => bytesOf (Config.sha3 bs).toNat 32
  digest image ++ digest (Config.heritageArea image) ++ digest (demotionState s) ++ digest (bytesOf Config.fusedVersion 4)

/-- Number of a request's kind. -/
def spdmNumber : SpdmKind → Nat
  | .certificate => 0
  | .challenge => 1
  | .measurements => 2

/-- R446: a function answers a request; only PF0 is there in recovery, and nothing during a warm reset. -/
def execSpdmRequest (s : State) : Host.Outcome State Fault Refusal :=
  if s.service.resetting || (s.service.recovery && s.sel.fn != 0) then .next s
  else .next { s with doe := s.doe ++ [(s.sel.fn, Config.attest (spdmNumber s.sel.spdm) s.sel.nonce (measurements s))] }

/-! ### Ladders (R437 to R440) -/

/-- The first stage from the present one whose classes all passed; `bad` bits 0 to 3 are W, N, Q, S. -/
def engineStage (stage bad : Nat) : Nat :=
  if stage ≤ 0 ∧ bad % 16 = 0 then 0
  else if stage ≤ 1 ∧ bad / 2 % 8 = 0 then 1
  else if stage ≤ 2 ∧ bad / 4 % 4 = 0 then 2
  else 3

/-- A scratchpad bank moves one stage down (R437). -/
def demoteBank (c : Core) (b : Nat) : Core :=
  match SMap.get 0 c.banks b with
  | 0 => { c with banks := SMap.put b 1 c.banks }
  | 1 =>
    if c.spareBanks = 0 then { c with banks := SMap.put b 3 c.banks, retiredBanks := c.retiredBanks + 1 }
    else { c with banks := SMap.put b 2 c.banks, spareBanks := c.spareBanks - 1 }
  | 2 => { c with banks := SMap.put b 3 c.banks, retiredBanks := c.retiredBanks + 1 }
  | _ => c

/-- The die's lowest spare core takes the place of a retired one. -/
def bringSpare (d : Die) : Die :=
  match (List.range 36).find? (fun c => !(d.core c).inService && !(d.core c).retired) with
  | some c => d.modCore c (fun x => { x with inService := true })
  | none => d

/-- The core as the test leaves it: classes, a bank, and whether the core itself passes. -/
def testCore (c : Core) (bad bank : Nat) (passes : Bool) : Core :=
  let c1 := { c with me0 := engineStage c.me0 bad, me1 := engineStage c.me1 (bad / 16) }
  let c2 := if 1 ≤ bank ∧ bank ≤ 32 then demoteBank c1 (bank - 1) else c1
  if passes then { c2 with suspect := false }
  else { c2 with failedTests := c2.failedTests + 1, retired := decide (1 ≤ c2.failedTests), inService := c2.inService && c2.failedTests == 0 }

/-- New forecasts for the gauges at some offsets of the service block, each a free value (R442, log entry 103). -/
def newForecasts (s : State) (offs : List Nat) : State :=
  { s with
    service := { s.service with
      forecasts := offs.zipIdx.foldl (fun m e => SMap.put e.1 (Config.forecast (s.draw + e.2)) m) s.service.forecasts },
    draw := s.draw + offs.length }

/-- MTPERIOD hours of power-on have passed since the core's last test began (R440, log entry 94). -/
def testDue (s : State) (c : Core) : Bool :=
  decide (c.tested.toNat + 3600000000000 * s.service.mtperiod.toNat ≤ s.clock.toNat)

/-- R440: every MTPERIOD hours a core is tested, once it is empty, its task being sent out first (R438). The test updates its
gauges. `State.sel.val` holds the failing classes, `count` the failing bank plus 1, `flag` that the core passes (DEDUCED, log
entry 94). -/
def execMarginTest (s : State) : Host.Outcome State Fault Refusal :=
  let d := s.sel.die
  let k := s.sel.item
  let c := (s.die d).core k
  if (SMap.find d s.dies).isNone || decide (36 ≤ k) || c.retired || !testDue s c then .next s
  else if coreBusy s d k then
    .next { s with tasks := s.tasks.map (fun (t, x) =>
      if x.die == d && x.core? == some k && !x.ended && x.leaving.isNone then (t, { x with leaving := some 5 }) else (t, x)) }
  else
    let c1 := testCore { c with tested := s.clock } (s.sel.val.toNat % 256) s.sel.count s.sel.flag
    let s1 := (newForecasts s ((List.range 7).map (fun n => 0x1000 * d + 64 * k + 8 * n))).modDie d (fun x => x.modCore k (fun _ => c1))
    .next (if c1.retired && c.inService then s1.modDie d bringSpare else s1)

/-! ### Pseudo-channels (R437, R439) -/

/-- Host-stage leaves of a function: physical address of the entry, its level, the entry. Every valid entry of level 0 is one
(R187). -/
def hostLeaves (s : State) : Nat → Nat → List (Nat × Nat × Nat)
  | level, table =>
    (List.range 1024).flatMap (fun i =>
      let pa := table + 8 * i
      let e := readNat s.mem pa 8
      if !bitOf e 0 then []
      else if bitOf e 1 || level == 0 then [(pa, level, e)]
      else
        match level with
        | 0 => []
        | n + 1 => hostLeaves s n (bitsOf e 13 35 * 2 ^ 13))

/-- The physical page that a leaf of a level maps. -/
def leafBase (level e : Nat) : Nat := bitsOf e 13 35 * 2 ^ 13 / 2 ^ leafLog2 level * 2 ^ leafLog2 level

/-- The leaves of every function that map bytes of a physical range. -/
def leavesOf (s : State) (base n : Nat) : List (Nat × Nat × Nat) :=
  ((s.functions.flatMap (fun (_, f) => hostLeaves s 3 f.hostroot.toNat)).filter (fun (_, level, e) =>
    decide (leafBase level e < base + n) && decide (base < leafBase level e + 2 ^ leafLog2 level))).dedup

/-- Size of the physical page at an address: that of the largest leaf that maps it (R187, R439). -/
def pageSize (s : State) (pa : Nat) : Nat :=
  (leavesOf s pa 1).foldl (fun m (_, level, _) => max m (2 ^ leafLog2 level)) (2 ^ 17)

/-- A word of a page table in physical memory is rewritten. -/
def putEntry (s : State) (pa e : Nat) : State := { s with mem := writeBytes s.mem pa (bytesOf e 8) }

/-- Every module's cached translations go. -/
def dropAllTlb (s : State) : State :=
  { s with dies := s.dies.map (fun (d, x) => (d, { x with dieTlb := [], coreTlb := x.coreTlb.map (fun (c, _) => (c, [])) })) }

/-- An access that has not performed aims at bytes of a range: it is under way, or a word of a vector instruction still to be
sent. -/
def rangeBusy (s : State) (base n : Nat) : Bool :=
  let meets := fun (a : Acc) => (match a.home with
    | .hbm _ => decide (a.addr < base + n) && decide (base < a.addr + a.span)
    | .spad _ => false
    | .host _ => false
    | .window _ => false)
  s.net.any (fun m => m.2.reply.isNone && meets m.2.acc) || s.tasks.any (fun t => (t.2.queue 0).any (fun e => e.rest.any meets))

/-- The contents of `n` bytes at a physical address come to a new place, and with them what the machine keeps by physical
address: stamps, phase entries, uncorrectable words, open rounds, pages of monitors and of running DET launches, and what
fetches may still read (R57, R127, R131, R132, R232, R399, R439). -/
def movePage (s : State) (src dst n : Nat) : State :=
  let moved := fun (unit a : Nat) => a - src / unit + dst / unit
  let inPage := fun (unit base a : Nat) => decide (base / unit ≤ a ∧ a < (base + n) / unit)
  let at_ := fun (a : Nat) => if inPage 1 src a then moved 1 a else a
  let table := fun {α : Type} (unit : Nat) (m : SMap α) => (m.filter (fun e => inPage unit src e.1)).foldl
    (fun m e => SMap.put (moved unit e.1) e.2 m) (m.filter (fun e => !inPage unit dst e.1 && !inPage unit src e.1))
  let acc := fun (a : Acc) => (match a.home with
    | .hbm _ => { a with addr := at_ a.addr }
    | .spad _ => a
    | .host _ => a
    | .window _ => a)
  let key := fun (k : Nat) => if k % 4 = 1 then 4 * at_ (k / 4) + 1 else k
  let pages := fun (l : List (Nat × Nat)) => l.map (fun p => (p.1, at_ p.2))
  { s with
    mem := writeBytes s.mem dst (readBytes s.mem src n),
    stamps := table 64 s.stamps,
    pagePhase := table (2 ^ 17) s.pagePhase,
    badWords := s.badWords.filter (fun a => !inPage 8 dst a && !inPage 8 src a) ++ (s.badWords.filter (inPage 8 src)).map (moved 8),
    rounds := s.rounds.foldl (fun m (k, r) =>
      SMap.put (key k) { r with acc := acc r.acc, parts := r.parts.map (fun p => { p with acc := acc p.acc }) } m) [],
    roundsDone := s.roundsDone.map (fun (l, k) => (l, key k)),
    oldCode := s.oldCode.map (fun o => { o with pa := at_ o.pa }),
    launches := s.launches.map (fun (k, l) => (k, { l with
      pages := l.pages.map (fun p => at_ (p * 2 ^ 17) / 2 ^ 17),
      monitors := l.monitors.map (fun (n, m) => (n, { m with pages := pages m.pages, maps := pages m.maps })) })) }

/-- Firmware moves the page that holds a physical address to free HBM of the same die and rewrites the host-stage entries
that map it. Accesses under way to the page perform first, and later ones wait for the new entry (R439). -/
def migratePage (s : State) (src dst : Nat) : State :=
  let n := pageSize s src
  let base := src / n * n
  if dst % n ≠ 0 ∨ homeOfPa s base ≠ homeOfPa s dst ∨ homeOfPa s (dst + n - 1) ≠ homeOfPa s dst ∨ isHostPa s base ∨ base = dst
      ∨ !(leavesOf s dst n).isEmpty ∨ rangeBusy s base n then s
  else
    dropAllTlb ((leavesOf s base n).foldl (fun s (pa, level, e) =>
      putEntry s pa (e % 2 ^ 13 + (leafBase level e - base + dst) + bitsOf e 48 16 * 2 ^ 48)) (movePage s base dst n))

/-- No free page is left: the entries that map the page become invalid and it is reported suspect. -/
def abandonPage (s : State) (src : Nat) : State :=
  let n := pageSize s src
  let base := src / n * n
  let ls := leavesOf s base n
  if isHostPa s base ∨ rangeBusy s base n then s
  else
    let fns := (s.functions.filter (fun e => (hostLeaves s 3 e.2.hostroot.toNat).any (fun l => ls.contains l))).map (·.1)
    let s1 := ls.foldl (fun s (pa, _, e) => putEntry s pa (e / 2 * 2)) s
    dropAllTlb (fns.foldl (fun s fn => (List.range (n / 2 ^ 17)).foldl (fun s i => suspectPage s fn (base + i * 2 ^ 17)) s) s1)

/-- R12, R437, R439: one of a stack's 60 pseudo-channels in service (`State.sel.die`, `item` 64 × stack + 0 to 59) moves one
stage down its ladder: to half rate, to a spare, or, with no spare left or as a spare itself, out of service; with a `size`,
the page at `addr` of a retired channel moves to the page at `val`, or with `val` 0 nowhere. -/
def execChannelSubstitution (s : State) : Host.Outcome State Fault Refusal :=
  let c := s.sel.item
  let key := 128 * s.sel.die + c
  let stage := SMap.get 0 s.service.channels key
  let put := fun (n : Nat) =>
    let s1 := newForecasts s [0x8008 + 64 * s.sel.die + 8 * (c / 64)]
    Host.Outcome.next { s1 with service := { s1.service with channels := SMap.put key n s1.service.channels } }
  if 128 ≤ c ∨ 60 ≤ c % 64 ∨ (SMap.find s.sel.die s.dies).isNone then .next s
  else if s.sel.size ≠ 0 then
    .next (if stage ≠ 3 ∨ homeOfPa s s.sel.addr ≠ some (.hbm s.sel.die) then s
      else if s.sel.val = 0 then abandonPage s s.sel.addr else migratePage s s.sel.addr s.sel.val.toNat)
  else if stage = 0 then put 1
  else if stage = 1 ∧ sparesUsed s s.sel.die (c / 64) < 4 then put 2
  else put 3

/-! ### Scrub and clock (R172, R447) -/

/-- R172: patrol scrub finds an error and counts it. -/
def execPatrolScrub (s : State) : Host.Outcome State Fault Refusal :=
  let count := fun (s : State) (k : Nat) =>
    { s with service := { s.service with scrubs := SMap.put k (SMap.get 0 s.service.scrubs k + 1) s.service.scrubs } }
  match s.sel.scrub with
  | .hbmCorrected die channel => .next (count s (128 * die + channel))
  | .sramCorrected die core => .next (count s (2 ^ 16 + 64 * die + core))
  | .hbmUncorrectable addr => .next (count (strikePa s addr) (2 ^ 17))

/-- R447: power above PCAP or a die above 105 °C: 25 MHz less, down to 600 MHz. -/
def execClockThrottle (s : State) : Host.Outcome State Fault Refusal :=
  .next { s with service := { s.service with clockMhz := max 600 (s.service.clockMhz - 25) } }

/-- R447: margin returns: 25 MHz more, up to 1,200 MHz. -/
def execArithmeticClockRaise (s : State) : Host.Outcome State Fault Refusal :=
  .next { s with service := { s.service with clockMhz := min 1200 (s.service.clockMhz + 25) } }

end Sys2Proof.Machine
end

