-- ==== Sys2Proof/Machine/Dispatch.lean ====
section
/-!
DEFINITION. The dispatcher: one arm per step of spec/opcode_table.json, each one call of its meaning.
-/
namespace Sys2Proof.Machine

def exec (i : Instr) (s : State) : Host.Outcome State Fault Refusal :=
  match i with
  | .tret skip => Sys2Proof.Machine.execTret skip s
  | .add d a b => Sys2Proof.Machine.execAdd d a b s
  | .sub d a b => Sys2Proof.Machine.execSub d a b s
  | .and d a b => Sys2Proof.Machine.execAnd d a b s
  | .or d a b => Sys2Proof.Machine.execOr d a b s
  | .xor d a b => Sys2Proof.Machine.execXor d a b s
  | .andn d a b => Sys2Proof.Machine.execAndn d a b s
  | .sll d a b => Sys2Proof.Machine.execSll d a b s
  | .srl d a b => Sys2Proof.Machine.execSrl d a b s
  | .sra d a b => Sys2Proof.Machine.execSra d a b s
  | .ror d a b => Sys2Proof.Machine.execRor d a b s
  | .min d a b => Sys2Proof.Machine.execMin d a b s
  | .max d a b => Sys2Proof.Machine.execMax d a b s
  | .minu d a b => Sys2Proof.Machine.execMinu d a b s
  | .maxu d a b => Sys2Proof.Machine.execMaxu d a b s
  | .addsc1 d a b => Sys2Proof.Machine.execAddsc1 d a b s
  | .addsc2 d a b => Sys2Proof.Machine.execAddsc2 d a b s
  | .addsc3 d a b => Sys2Proof.Machine.execAddsc3 d a b s
  | .addsc4 d a b => Sys2Proof.Machine.execAddsc4 d a b s
  | .mul d a b => Sys2Proof.Machine.execMul d a b s
  | .mulh d a b => Sys2Proof.Machine.execMulh d a b s
  | .mulhu d a b => Sys2Proof.Machine.execMulhu d a b s
  | .div d a b => Sys2Proof.Machine.execDiv d a b s
  | .divu d a b => Sys2Proof.Machine.execDivu d a b s
  | .rem d a b => Sys2Proof.Machine.execRem d a b s
  | .remu d a b => Sys2Proof.Machine.execRemu d a b s
  | .clz d a => Sys2Proof.Machine.execClz d a s
  | .ctz d a => Sys2Proof.Machine.execCtz d a s
  | .popc d a => Sys2Proof.Machine.execPopc d a s
  | .sextB d a => Sys2Proof.Machine.execSextB d a s
  | .sextH d a => Sys2Proof.Machine.execSextH d a s
  | .sextW d a => Sys2Proof.Machine.execSextW d a s
  | .zextB d a => Sys2Proof.Machine.execZextB d a s
  | .zextH d a => Sys2Proof.Machine.execZextH d a s
  | .zextW d a => Sys2Proof.Machine.execZextW d a s
  | .addi d a imm => Sys2Proof.Machine.execAddi d a imm s
  | .andi d a imm => Sys2Proof.Machine.execAndi d a imm s
  | .ori d a imm => Sys2Proof.Machine.execOri d a imm s
  | .xori d a imm => Sys2Proof.Machine.execXori d a imm s
  | .slli d a amt => Sys2Proof.Machine.execSlli d a amt s
  | .srli d a amt => Sys2Proof.Machine.execSrli d a amt s
  | .srai d a amt => Sys2Proof.Machine.execSrai d a amt s
  | .cmpEq p a b => Sys2Proof.Machine.execCmpEq p a b s
  | .cmpNe p a b => Sys2Proof.Machine.execCmpNe p a b s
  | .cmpLt p a b => Sys2Proof.Machine.execCmpLt p a b s
  | .cmpGe p a b => Sys2Proof.Machine.execCmpGe p a b s
  | .cmpLtu p a b => Sys2Proof.Machine.execCmpLtu p a b s
  | .cmpGeu p a b => Sys2Proof.Machine.execCmpGeu p a b s
  | .cmpiEq p a imm => Sys2Proof.Machine.execCmpiEq p a imm s
  | .cmpiNe p a imm => Sys2Proof.Machine.execCmpiNe p a imm s
  | .cmpiLt p a imm => Sys2Proof.Machine.execCmpiLt p a imm s
  | .cmpiLtu p a imm => Sys2Proof.Machine.execCmpiLtu p a imm s
  | .pand d a b => Sys2Proof.Machine.execPand d a b s
  | .por d a b => Sys2Proof.Machine.execPor d a b s
  | .pxor d a b => Sys2Proof.Machine.execPxor d a b s
  | .pandn d a b => Sys2Proof.Machine.execPandn d a b s
  | .sel p d a b => Sys2Proof.Machine.execSel p d a b s
  | .b p neg disp => Sys2Proof.Machine.execB p neg disp s
  | .bl d disp => Sys2Proof.Machine.execBl d disp s
  | .jalr d a imm => Sys2Proof.Machine.execJalr d a imm s
  | .loops n a imm => Sys2Proof.Machine.execLoops n a imm s
  | .chk a => Sys2Proof.Machine.execChk a s
  | .sfork d a b => Sys2Proof.Machine.execSfork d a b s
  | .cas sz d a b => Sys2Proof.Machine.execCas sz d a b s
  | .ldb d a oc disp => Sys2Proof.Machine.execLdb d a oc disp s
  | .ldh d a oc disp => Sys2Proof.Machine.execLdh d a oc disp s
  | .ldw d a oc disp => Sys2Proof.Machine.execLdw d a oc disp s
  | .ldd d a oc disp => Sys2Proof.Machine.execLdd d a oc disp s
  | .ldbu d a oc disp => Sys2Proof.Machine.execLdbu d a oc disp s
  | .ldhu d a oc disp => Sys2Proof.Machine.execLdhu d a oc disp s
  | .ldwu d a oc disp => Sys2Proof.Machine.execLdwu d a oc disp s
  | .lds d a oc disp => Sys2Proof.Machine.execLds d a oc disp s
  | .stb d a oc disp => Sys2Proof.Machine.execStb d a oc disp s
  | .sth d a oc disp => Sys2Proof.Machine.execSth d a oc disp s
  | .stw d a oc disp => Sys2Proof.Machine.execStw d a oc disp s
  | .std d a oc disp => Sys2Proof.Machine.execStd d a oc disp s
  | .ldfe d a disp => Sys2Proof.Machine.execLdfe d a disp s
  | .ldff d a disp => Sys2Proof.Machine.execLdff d a disp s
  | .stef d a disp => Sys2Proof.Machine.execStef d a disp s
  | .stfl d a disp => Sys2Proof.Machine.execStfl d a disp s
  | .sete a => Sys2Proof.Machine.execSete a s
  | .setf a => Sys2Proof.Machine.execSetf a s
  | .feq d a => Sys2Proof.Machine.execFeq d a s
  | .amoAdd sz d a b => Sys2Proof.Machine.execAmoAdd sz d a b s
  | .amoAnd sz d a b => Sys2Proof.Machine.execAmoAnd sz d a b s
  | .amoOr sz d a b => Sys2Proof.Machine.execAmoOr sz d a b s
  | .amoXor sz d a b => Sys2Proof.Machine.execAmoXor sz d a b s
  | .amoMin sz d a b => Sys2Proof.Machine.execAmoMin sz d a b s
  | .amoMax sz d a b => Sys2Proof.Machine.execAmoMax sz d a b s
  | .amoMinu sz d a b => Sys2Proof.Machine.execAmoMinu sz d a b s
  | .amoMaxu sz d a b => Sys2Proof.Machine.execAmoMaxu sz d a b s
  | .amoSwap sz d a b => Sys2Proof.Machine.execAmoSwap sz d a b s
  | .amoFadd32 d a b => Sys2Proof.Machine.execAmoFadd32 d a b s
  | .amoFmin32 d a b => Sys2Proof.Machine.execAmoFmin32 d a b s
  | .amoFmax32 d a b => Sys2Proof.Machine.execAmoFmax32 d a b s
  | .redAdd sz a b => Sys2Proof.Machine.execRedAdd sz a b s
  | .redAnd sz a b => Sys2Proof.Machine.execRedAnd sz a b s
  | .redOr sz a b => Sys2Proof.Machine.execRedOr sz a b s
  | .redXor sz a b => Sys2Proof.Machine.execRedXor sz a b s
  | .redMin sz a b => Sys2Proof.Machine.execRedMin sz a b s
  | .redMax sz a b => Sys2Proof.Machine.execRedMax sz a b s
  | .redMinu sz a b => Sys2Proof.Machine.execRedMinu sz a b s
  | .redMaxu sz a b => Sys2Proof.Machine.execRedMaxu sz a b s
  | .redSwap sz a b => Sys2Proof.Machine.execRedSwap sz a b s
  | .redFadd32 a b => Sys2Proof.Machine.execRedFadd32 a b s
  | .redFmin32 a b => Sys2Proof.Machine.execRedFmin32 a b s
  | .redFmax32 a b => Sys2Proof.Machine.execRedFmax32 a b s
  | .fence mask scope eng => Sys2Proof.Machine.execFence mask scope eng s
  | .bar a => Sys2Proof.Machine.execBar a s
  | .bara a => Sys2Proof.Machine.execBara a s
  | .barw a => Sys2Proof.Machine.execBarw a s
  | .swait d a idx => Sys2Proof.Machine.execSwait d a idx s
  | .ssig a idx => Sys2Proof.Machine.execSsig a idx s
  | .ssigRemote d a => Sys2Proof.Machine.execSsigRemote d a s
  | .srd d idx => Sys2Proof.Machine.execSrd d idx s
  | .srdc d idx => Sys2Proof.Machine.execSrdc d idx s
  | .sset d a idx => Sys2Proof.Machine.execSset d a idx s
  | .pop d f => Sys2Proof.Machine.execPop d f s
  | .csrr d csr => Sys2Proof.Machine.execCsrr d csr s
  | .csrw d a csr => Sys2Proof.Machine.execCsrw d a csr s
  | .csrs d a csr => Sys2Proof.Machine.execCsrs d a csr s
  | .csrc d a csr => Sys2Proof.Machine.execCsrc d a csr s
  | .trap code => Sys2Proof.Machine.execTrap code s
  | .launch a => Sys2Proof.Machine.execLaunch a s
  | .tinvPage a b => Sys2Proof.Machine.execTinvPage a b s
  | .tinvFunction b => Sys2Proof.Machine.execTinvFunction b s
  | .logm a => Sys2Proof.Machine.execLogm a s
  | .monset mon a => Sys2Proof.Machine.execMonset mon a s
  | .monref mon a => Sys2Proof.Machine.execMonref mon a s
  | .monrd mon a => Sys2Proof.Machine.execMonrd mon a s
  | .monclr mon => Sys2Proof.Machine.execMonclr mon s
  | .vadd f => Sys2Proof.Machine.execVadd f s
  | .vsub f => Sys2Proof.Machine.execVsub f s
  | .vmul f => Sys2Proof.Machine.execVmul f s
  | .vfma f => Sys2Proof.Machine.execVfma f s
  | .vfms f => Sys2Proof.Machine.execVfms f s
  | .vmin f => Sys2Proof.Machine.execVmin f s
  | .vmax f => Sys2Proof.Machine.execVmax f s
  | .vabs f => Sys2Proof.Machine.execVabs f s
  | .vneg f => Sys2Proof.Machine.execVneg f s
  | .vscale f => Sys2Proof.Machine.execVscale f s
  | .vdot4 f => Sys2Proof.Machine.execVdot4 f s
  | .vtacc f => Sys2Proof.Machine.execVtacc f s
  | .vand f => Sys2Proof.Machine.execVand f s
  | .vor f => Sys2Proof.Machine.execVor f s
  | .vxor f => Sys2Proof.Machine.execVxor f s
  | .vsll f => Sys2Proof.Machine.execVsll f s
  | .vsrl f => Sys2Proof.Machine.execVsrl f s
  | .vsra f => Sys2Proof.Machine.execVsra f s
  | .vcmpEq f => Sys2Proof.Machine.execVcmpEq f s
  | .vcmpNe f => Sys2Proof.Machine.execVcmpNe f s
  | .vcmpLt f => Sys2Proof.Machine.execVcmpLt f s
  | .vcmpLe f => Sys2Proof.Machine.execVcmpLe f s
  | .vcmpGt f => Sys2Proof.Machine.execVcmpGt f s
  | .vcmpGe f => Sys2Proof.Machine.execVcmpGe f s
  | .vcmpUnord f => Sys2Proof.Machine.execVcmpUnord f s
  | .vsel f => Sys2Proof.Machine.execVsel f s
  | .vcvt src f => Sys2Proof.Machine.execVcvt src f s
  | .vrcp f => Sys2Proof.Machine.execVrcp f s
  | .vrsq f => Sys2Proof.Machine.execVrsq f s
  | .vsqrt f => Sys2Proof.Machine.execVsqrt f s
  | .vexp2 f => Sys2Proof.Machine.execVexp2 f s
  | .vlog2 f => Sys2Proof.Machine.execVlog2 f s
  | .vredSum dir f => Sys2Proof.Machine.execVredSum dir f s
  | .vredMax dir f => Sys2Proof.Machine.execVredMax dir f s
  | .vredMin dir f => Sys2Proof.Machine.execVredMin dir f s
  | .vredSumx dir f => Sys2Proof.Machine.execVredSumx dir f s
  | .vperm f => Sys2Proof.Machine.execVperm f s
  | .vrot f => Sys2Proof.Machine.execVrot f s
  | .vxl f => Sys2Proof.Machine.execVxl f s
  | .vbcast f => Sys2Proof.Machine.execVbcast f s
  | .vscan f => Sys2Proof.Machine.execVscan f s
  | .vpack f => Sys2Proof.Machine.execVpack f s
  | .vexpand f => Sys2Proof.Machine.execVexpand f s
  | .vsparse g8 kBig f => Sys2Proof.Machine.execVsparse g8 kBig f s
  | .vunpk3 f => Sys2Proof.Machine.execVunpk3 f s
  | .vqb f => Sys2Proof.Machine.execVqb f s
  | .vdqb f => Sys2Proof.Machine.execVdqb f s
  | .vld f => Sys2Proof.Machine.execVld f s
  | .vst f => Sys2Proof.Machine.execVst f s
  | .vlds f => Sys2Proof.Machine.execVlds f s
  | .vsts f => Sys2Proof.Machine.execVsts f s
  | .vgath f => Sys2Proof.Machine.execVgath f s
  | .vscat f => Sys2Proof.Machine.execVscat f s
  | .vmov f => Sys2Proof.Machine.execVmov f s
  | .vmvs f => Sys2Proof.Machine.execVmvs f s
  | .vmvg f => Sys2Proof.Machine.execVmvg f s
  | .vshape f => Sys2Proof.Machine.execVshape f s
  | .mlogAnd f => Sys2Proof.Machine.execMlogAnd f s
  | .mlogOr f => Sys2Proof.Machine.execMlogOr f s
  | .mlogXor f => Sys2Proof.Machine.execMlogXor f s
  | .mlogAndn f => Sys2Proof.Machine.execMlogAndn f s
  | .mpopc f => Sys2Proof.Machine.execMpopc f s
  | .mfirst f => Sys2Proof.Machine.execMfirst f s
  | .ftld f => Sys2Proof.Machine.execFtld f s
  | .popv f => Sys2Proof.Machine.execPopv f s
  | .vnset f => Sys2Proof.Machine.execVnset f s
  | .vnx nest f => Sys2Proof.Machine.execVnx nest f s
  | .mclaim f => Sys2Proof.Machine.execMclaim f s
  | .mrel f => Sys2Proof.Machine.execMrel f s
  | .mstat f => Sys2Proof.Machine.execMstat f s
  | .mgo fn f => Sys2Proof.Machine.execMgo fn f s
  | .mtile fn f => Sys2Proof.Machine.execMtile fn f s
  | .mzero f => Sys2Proof.Machine.execMzero f s
  | .mdrain fn f => Sys2Proof.Machine.execMdrain fn f s
  | .mldacc fn f => Sys2Proof.Machine.execMldacc fn f s
  | .mspgo fn f => Sys2Proof.Machine.execMspgo fn f s
  | .cpy notify f => Sys2Proof.Machine.execCpy notify f s
  | .cpy2d notify f => Sys2Proof.Machine.execCpy2d notify f s
  | .cpyslot f => Sys2Proof.Machine.execCpyslot f s
  | .cpyslotClaim f => Sys2Proof.Machine.execCpyslotClaim f s
  | .cpyslotOut f => Sys2Proof.Machine.execCpyslotOut f s
  | .fill f => Sys2Proof.Machine.execFill f s
  | .flush scope f => Sys2Proof.Machine.execFlush scope f s
  | .grow et f => Sys2Proof.Machine.execGrow et f s
  | .gbag et rm f => Sys2Proof.Machine.execGbag et rm f s
  | .gscat et f => Sys2Proof.Machine.execGscat et f s
  | .xstep f => Sys2Proof.Machine.execXstep f s
  | .xsend f => Sys2Proof.Machine.execXsend f s
  | .xrecv f => Sys2Proof.Machine.execXrecv f s
  | .xred f => Sys2Proof.Machine.execXred f s
  | .amorAdd f => Sys2Proof.Machine.execAmorAdd f s
  | .amorAnd f => Sys2Proof.Machine.execAmorAnd f s
  | .amorOr f => Sys2Proof.Machine.execAmorOr f s
  | .amorXor f => Sys2Proof.Machine.execAmorXor f s
  | .amorMin f => Sys2Proof.Machine.execAmorMin f s
  | .amorMax f => Sys2Proof.Machine.execAmorMax f s
  | .amorMinu f => Sys2Proof.Machine.execAmorMinu f s
  | .amorMaxu f => Sys2Proof.Machine.execAmorMaxu f s
  | .amorSwap f => Sys2Proof.Machine.execAmorSwap f s
  | .amorFadd32 f => Sys2Proof.Machine.execAmorFadd32 f s
  | .amorFmin32 f => Sys2Proof.Machine.execAmorFmin32 f s
  | .amorFmax32 f => Sys2Proof.Machine.execAmorFmax32 f s
  | .amox f => Sys2Proof.Machine.execAmox f s
  | .li d lit => Sys2Proof.Machine.execLi d lit s
  | .lih d lit => Sys2Proof.Machine.execLih d lit s
  | .addil d a lit => Sys2Proof.Machine.execAddil d a lit s
  | .lddl d a oc lit => Sys2Proof.Machine.execLddl d a oc lit s
  | .stdl d a oc lit => Sys2Proof.Machine.execStdl d a oc lit s
  | .vbcastl f lit => Sys2Proof.Machine.execVbcastl f lit s
  | .vsweep fn f => Sys2Proof.Machine.execVsweep fn f s
  | .mcfg f => Sys2Proof.Machine.execMcfg f s
  | .encodingNotInstruction fate => Sys2Proof.Machine.execEncodingNotInstruction fate s
  | .nop => Sys2Proof.Machine.execNop s
  | .brk => Sys2Proof.Machine.execBrk s
  | .yield => Sys2Proof.Machine.execYield s
  | .sexit => Sys2Proof.Machine.execSexit s
  | .idle => Sys2Proof.Machine.execIdle s
  | .drain => Sys2Proof.Machine.execDrain s
  | .tinvAll => Sys2Proof.Machine.execTinvAll s
  | .waitUntilMet => Sys2Proof.Machine.execWaitUntilMet s
  | .idleTimeout => Sys2Proof.Machine.execIdleTimeout s
  | .veExecute => Sys2Proof.Machine.execVeExecute s
  | .vectorMemoryComplete => Sys2Proof.Machine.execVectorMemoryComplete s
  | .matrixCommandStart => Sys2Proof.Machine.execMatrixCommandStart s
  | .mgoAction => Sys2Proof.Machine.execMgoAction s
  | .matrixCommandComplete => Sys2Proof.Machine.execMatrixCommandComplete s
  | .copyGatherCommandStart => Sys2Proof.Machine.execCopyGatherCommandStart s
  | .gatherUnit => Sys2Proof.Machine.execGatherUnit s
  | .copyGatherCommandComplete => Sys2Proof.Machine.execCopyGatherCommandComplete s
  | .xeCommandStart => Sys2Proof.Machine.execXeCommandStart s
  | .xeTransmissionStart => Sys2Proof.Machine.execXeTransmissionStart s
  | .xeCommandComplete => Sys2Proof.Machine.execXeCommandComplete s
  | .requestRead => Sys2Proof.Machine.execRequestRead s
  | .requestWrite => Sys2Proof.Machine.execRequestWrite s
  | .requestAtomic => Sys2Proof.Machine.execRequestAtomic s
  | .amorContribution => Sys2Proof.Machine.execAmorContribution s
  | .semaphoreSignal => Sys2Proof.Machine.execSemaphoreSignal s
  | .fullEmptyRequest => Sys2Proof.Machine.execFullEmptyRequest s
  | .forwardedRequest => Sys2Proof.Machine.execForwardedRequest s
  | .dataResponse => Sys2Proof.Machine.execDataResponse s
  | .acknowledgement => Sys2Proof.Machine.execAcknowledgement s
  | .redirect => Sys2Proof.Machine.execRedirect s
  | .faultStatus => Sys2Proof.Machine.execFaultStatus s
  | .collectiveData => Sys2Proof.Machine.execCollectiveData s
  | .flitHop => Sys2Proof.Machine.execFlitHop s
  | .translationWalk => Sys2Proof.Machine.execTranslationWalk s
  | .packetLaunch => Sys2Proof.Machine.execPacketLaunch s
  | .placement => Sys2Proof.Machine.execPlacement s
  | .ageing => Sys2Proof.Machine.execAgeing s
  | .quantumExpiry => Sys2Proof.Machine.execQuantumExpiry s
  | .blockedTimeout => Sys2Proof.Machine.execBlockedTimeout s
  | .preEmption => Sys2Proof.Machine.execPreEmption s
  | .switchIn => Sys2Proof.Machine.execSwitchIn s
  | .taskEnd => Sys2Proof.Machine.execTaskEnd s
  | .teamBarrierCompletion => Sys2Proof.Machine.execTeamBarrierCompletion s
  | .phaseClose => Sys2Proof.Machine.execPhaseClose s
  | .launchCompletion => Sys2Proof.Machine.execLaunchCompletion s
  | .hang => Sys2Proof.Machine.execHang s
  | .parkResume => Sys2Proof.Machine.execParkResume s
  | .parkKill => Sys2Proof.Machine.execParkKill s
  | .forcedSyncPoint => Sys2Proof.Machine.execForcedSyncPoint s
  | .notify => Sys2Proof.Machine.execNotify s
  | .packetWaitsig => Sys2Proof.Machine.execPacketWaitsig s
  | .packetSignal => Sys2Proof.Machine.execPacketSignal s
  | .packetCopy => Sys2Proof.Machine.execPacketCopy s
  | .packetCompletion => Sys2Proof.Machine.execPacketCompletion s
  | .queueEnable => Sys2Proof.Machine.execQueueEnable s
  | .queueDisable => Sys2Proof.Machine.execQueueDisable s
  | .queueResume => Sys2Proof.Machine.execQueueResume s
  | .queueResumeSkip => Sys2Proof.Machine.execQueueResumeSkip s
  | .hostWindowAccess => Sys2Proof.Machine.execHostWindowAccess s
  | .hostApertureAccess => Sys2Proof.Machine.execHostApertureAccess s
  | .hostRegisterWrite => Sys2Proof.Machine.execHostRegisterWrite s
  | .functionReset => Sys2Proof.Machine.execFunctionReset s
  | .resetcmd => Sys2Proof.Machine.execResetcmd s
  | .warmReset => Sys2Proof.Machine.execWarmReset s
  | .powerOn => Sys2Proof.Machine.execPowerOn s
  | .fwStage => Sys2Proof.Machine.execFwStage s
  | .fwStageComplete => Sys2Proof.Machine.execFwStageComplete s
  | .fwActivate => Sys2Proof.Machine.execFwActivate s
  | .ptmDialog => Sys2Proof.Machine.execPtmDialog s
  | .spdmRequest => Sys2Proof.Machine.execSpdmRequest s
  | .marginTest => Sys2Proof.Machine.execMarginTest s
  | .channelSubstitution => Sys2Proof.Machine.execChannelSubstitution s
  | .clockThrottle => Sys2Proof.Machine.execClockThrottle s
  | .hostLinkCompletion => Sys2Proof.Machine.execHostLinkCompletion s
  | .debugPathWrite => Sys2Proof.Machine.execDebugPathWrite s
  | .patrolScrub => Sys2Proof.Machine.execPatrolScrub s
  | .arithmeticClockRaise => Sys2Proof.Machine.execArithmeticClockRaise s

end Sys2Proof.Machine
end

