-- ==== Sys2Proof/Machine/Heritage.lean ====
section
/-!
DEFINITION. The heritage routine of a matrix command (R190, R311, R332, R335, R336): a strand in heritage state carries out
the command that no engine of its core could take, and returns behind it. The spec gives the routine's steps and effect and
not its code: each issue of the strand does the next of these steps (DEDUCED, log entry 113).
-/
namespace Sys2Proof.Machine

/-! ### Slices of BF16 operands (R335) -/

/-- A BF16 pattern is finite. -/
def bfFinite (v : Nat) : Bool := bitsOf v 7 8 != 255

/-- m and e of a finite BF16 pattern: |x| = m × 2^e. -/
def bfParts (v : Nat) : Nat × Int :=
  if bitsOf v 7 8 = 0 then (bitsOf v 0 7, -133) else (128 + bitsOf v 0 7, (bitsOf v 7 8 : Int) - 134)

/-- The E4M3 byte of (−1)^s × n, which n ≤ 15 and n = 16 h, h ≤ 15, have exactly. -/
def sliceByte (s : Bool) (n : Nat) : Nat := (roundTo fmtE4M3 0 false 0 (.num s n 1 0)).1

/-- hi and lo of a BF16 pattern; those of a NaN or infinity are zero. -/
def slices (v : Nat) : Nat × Nat :=
  if bfFinite v then
    let m := (bfParts v).1
    (sliceByte (bitOf v 15) (16 * (m / 16)), sliceByte (bitOf v 15) (m % 16))
  else (0, 0)

/-- Elements 0 to 3 of a line of the A slot, and of the B slot; the others are zero. -/
def sliceA (v : Nat) : List Nat := let (hi, lo) := slices v; [hi, hi, lo, lo]

def sliceB (v : Nat) : List Nat := let (hi, lo) := slices v; [hi, lo, hi, lo]

/-- P = Q × 2^(e_a + e_b), of the sign of the product where Q is 0; for a NaN or infinity the addend R44 gives. -/
def sliceP (q : Int) (a b : Nat) : Flagged Ex :=
  if bfFinite a && bfFinite b then
    (.num (if q = 0 then bitOf a 15 != bitOf b 15 else decide (q < 0)) q.natAbs 1 ((bfParts a).2 + (bfParts b).2), 0)
  else Ex.mul (exOf 7 a) (exOf 7 b)

/-- W ← ROUND(W + P, A80, RNE). -/
def sliceAdd (w : Nat) (q : Int) (a b : Nat) : Flagged Nat :=
  let (p, f1) := sliceP q a b
  let (y, f2) := Ex.add 0 (fmtA80.decode w) p
  let (z, f3) := rne69 y
  (z, f1 ||| f2 ||| f3)

/-! ### The heritage working region during the routine (R191, R336)

Where W, the images SA and SB and Q lie there is the model's choice (DESIGN CHOICE, log entry 113). -/

/-- W: 128 × 128 containers of 16 bytes. -/
def herW : Nat := 0x40000
def herSA : Nat := 0x80000
def herSB : Nat := 0x88000
/-- Q: 128 × 128 INT32. -/
def herQ : Nat := 0x90000

/-- The bytes of a bank drained raw. -/
def rawBytes (x : Bank) : List Byte := (List.range 16384).flatMap (fun k => bytesOf (SMap.get 0 x.acc k).toNat 16)

/-- The bytes of a slot. -/
def slotBytes (x : Slot) : List Byte := (List.range 32768).map (fun i => SMap.get 0 x.bytes i)

/-- A slice image of column k of an image in the working region. -/
def sliceImage (h : SMap Byte) (base : Nat) (f : Nat → List Nat) (k : Nat) : SMap Byte :=
  (List.range 128).foldl (fun m i =>
    writeBytes m (256 * i) ((f (readNat h (base + 256 * i + 2 * k) 2)).map (BitVec.ofNat 8))) []

/-- Q: a bank drained as INT32. -/
def bankInt (x : Bank) (k : Nat) : Nat := (exTo 3 0 false 0 (fmtA80.decode (SMap.get 0 x.acc k).toNat)).1

/-- The additions of step k over the elements (i, j), at 128 i + j. -/
def sliceStep (h : SMap Byte) (k : Nat) : List (Nat × Nat × Nat) :=
  (List.range 128).flatMap (fun i => (List.range 128).map (fun j =>
    let n := 128 * i + j
    (n, sliceAdd (readNat h (herW + 16 * n) 10) (sintOf 32 (readNat h (herQ + 4 * n) 4))
      (readNat h (herSA + 256 * i + 2 * k) 2) (readNat h (herSB + 256 * j + 2 * k) 2))))

/-! ### The staged MTILE (R336) -/

/-- The command is the MTILE that R335 composes: BF16, one tile step, on a bank whose engine holds N and not W. One that names
a single slot as A and B is run as an engine of stage 0 would (log entry 113). -/
def sliced (c : Core) (e : Entry) : Bool :=
  match e.cmd with
  | .mtile fn f =>
    let eng := (matEngine e.cmd).2
    matMf fn.toNat e.cap.ft == 0 && !matXw fn.toNat e.cap.ft && !fn.getLsbD 5 && hasClasses c eng 2 && !hasClasses c eng 1
      && f.a.toNat % 32 != f.b.toNat % 32
  | _ => false

/-- What a staged routine remembers of taints: those of slots A and B at numbers 0 and 1, and of the bank at number 2. -/
def Entry.noteTaint (e : Entry) (n : Nat) (b : Bool) : Entry := if b then { e with work := SMap.set 0 e.work n 1 } else e

/-- acc[C] is drained raw into W, and slots A and B are read into SA and SB. -/
def stageTile (s : State) (t q : Nat) (f : EC) : State :=
  let a := f.a.toNat % 32
  let b := f.b.toNat % 32
  let c := f.c.toNat % 4
  let x := s.task t
  match notReadySlot x [a, b] with
  | some n => headWait s t q { kind := 5, object := n, amount := 2 }
  | none =>
    let h := writeBytes (writeBytes (writeBytes x.heritage herW (rawBytes (x.bank c))) herSA (slotBytes (x.slot a)))
      herSB (slotBytes (x.slot b))
    onHead (s.modTask t (fun x => { x with heritage := h })) t q (fun e =>
      ((({ e with started := true, staged := true, step := 0 }).noteTaint 0 (x.slot a).taint).noteTaint 1
        (x.slot b).taint).noteTaint 2 (x.bank c).taint)

/-- Both slots of the routine. -/
def setSlots (s : State) (t a b : Nat) (f g : Slot → Slot) : State :=
  s.modTask t (fun x => (x.setSlot a (f (x.slot a))).setSlot b (g (x.slot b)))

/-- The routine's commands for column k, one after the other: MZERO and MREL; the fills start; the fills complete; MTILE.e4m3;
MDRAIN.int32; the additions on the VE. -/
def stepColumn (s : State) (t q : Nat) (e : Entry) (a b c k sub : Nat) : State :=
  let x := s.task t
  let s1 := onHead s t q (fun e => { e with step := e.step + 1 })
  match sub with
  | 0 => setSlots (s1.modTask t (fun x => x.setBank c {})) t a b (fun y => { y with state := 0, fb := false, taint := false })
      (fun y => { y with state := 0, fb := false, taint := false })
  | 1 => setSlots s1 t a b (fun y => { y with state := 1, fb := true }) (fun y => { y with state := 1, fb := true })
  | 2 => setSlots s1 t a b (fun y => { y with state := 2, fb := false, bytes := sliceImage x.heritage herSA sliceA k })
      (fun y => { y with state := 2, fb := false, bytes := sliceImage x.heritage herSB sliceB k })
  | 3 => onHead (runTile s1 t q e 2 false c a b {}) t q (fun e => e.noteTaint 2 ((x.slot a).taint || (x.slot b).taint))
  | 4 => onHead (s1.modTask t (fun x => { x with
      heritage := writeBytes x.heritage herQ ((List.range 16384).flatMap (fun n => bytesOf (bankInt (x.bank c) n) 4)) })) t q
      (fun e => e.noteTaint 2 (x.bank c).taint)
  | _ =>
    let r := sliceStep x.heritage k
    let fl := flagList r
    onHead (s1.modTask t (fun x => { x with
      heritage := writeBytes x.heritage herW (r.flatMap (fun y => bytesOf y.2.1 16)) })) t q (fun e => { e with
        flags := fl.foldl (fun n y => n ||| y.2) e.flags,
        firstInvalid := lowest e.firstInvalid ((fl.find? (fun y => bitOf y.2 0)).map (·.1)) })

/-- A slot at the end of the routine: released, or refilled with what it held. -/
def restoreSlot (h : SMap Byte) (base : Nat) (release taint : Bool) (y : Slot) : Slot :=
  if release then { y with state := 0, fb := false, taint := false }
  else { y with state := 2, fb := false, taint := taint,
                bytes := writeBytes [] 0 ((List.range 32768).map (fun i => SMap.get 0 h (base + i))) }

/-- The next step of the staged routine; behind the last column MLDACC.a80, the flags of the additions in the bank engine's
MESTAT, and the slots. -/
def stepTile (s : State) (t q : Nat) (e : Entry) (f : EC) : State :=
  let a := f.a.toNat % 32
  let b := f.b.toNat % 32
  let c := f.c.toNat % 4
  if e.step < 768 then stepColumn s t q e a b c (e.step / 6) (e.step % 6)
  else
    let h := (s.task t).heritage
    let was := fun n => SMap.get 0 e.work n == 1
    let taint := was 0 || was 1 || was 2
    let s1 := s.modTask t (fun x => raiseFlags (x.setBank c
      { acc := bankElems ((List.range 16384).map (fun n => (n, readNat h (herW + 16 * n) 10))), taint := taint })
      e.strand (bankFlags c) e.flags)
    let s2 := setSlots s1 t a b (restoreSlot h herSA (f.c.getLsbD 2) (was 0)) (restoreSlot h herSB (f.c.getLsbD 3) (was 1))
    noteErr (onHead s2 t q (fun e => { e with finished := true, staged := false })) t q (taint && !e.err)

/-! ### The routine -/

/-- The work of a command at steps 9 and 10. -/
def routineWork (s : State) (t q : Nat) (e : Entry) : State :=
  match e.cmd with
  | .mtile fn f => if sliced (coreOf s t) e then stageTile s t q f else startMtile s t q e fn f
  | .mspgo fn f => startMspgo s t q e fn f
  | .mgo fn _ => startMgo s t q e fn
  | _ => s

/-- The work a started command has left. -/
def routineGoOn (s : State) (t q : Nat) (e : Entry) : State :=
  match e.cmd with
  | .mtile _ f => if e.staged then stepTile s t q e f else s
  | .mspgo fn f => mspgoGoOn s t q e fn f
  | .mgo fn f =>
    match mgoAction e.cap.table e.progress with
    | .tile i => mgoTile s t q e fn f i
    | .drain i l => mgoDrain s t q e fn f i l
  | _ => s

/-- TRET with A = 1 of the routine: the command counts as retired. -/
def routineReturn (s : State) (t k : Nat) (e : Entry) : State :=
  let next := e.pc + w64 (4 * parcels e.cmd)
  let s1 := s.modStrand t k (fun y => { restoreStrand y next with arming := none, stepPc := e.pc })
  let (y, pc) := loopBack (s1.task t) k e.pc next 4
  let s2 := (s1.modTask t (fun _ => y)).modStrand t k (fun z => { z with r := { z.r with pc } })
  stepStop (guardAgree (leaveWords s2 t k) t k) t k

/-- A command whose enabled flag traps stands in its bank engine's queue, complete but for its signal: before the commands
pushed after it that have not started, and it traps there as one that an engine ran (R304, R311, R313). -/
def queueHeld (s : State) (t : Nat) (e : Entry) : State :=
  let q := 1 + (matEngine e.cmd).2
  let l := (s.task t).queue q
  let ahead := l.takeWhile (fun o => o.started || decide (o.serial < e.serial))
  let rest := l.drop ahead.length
  let e' : Entry := { e with started := true, finished := true, uses := [], wait := none,
                             index := ((rest.head?).map (·.index)).getD (SMap.get 0 (s.task t).pushed q) }
  s.modTask t (fun x => x.setQueue q (ahead ++ e' :: rest))

/-- Uses end, the signal is added, or waits behind the trap of an enabled flag, and the routine returns. -/
def routineEnd (s : State) (t k : Nat) (e : Entry) (err : Bool) : State :=
  match enabledTrap (e.cap.vctl.getLsbD 1) (e.cap.vctl.getLsbD 2) e.firstInvalid e.firstXw with
  | some _ => routineReturn (queueHeld (endUses s t e.uses) t { e with err }) t k e
  | none =>
    let late := lateTaint (s.task t) e
    routineReturn (signalLocal (endWork s t (16 + k) e) t (linkOf e.cmd) (err || (late && !e.skip))) t k e

/-- The next step of the routine: steps 7 to 11 of R320 for its command. -/
def routineRun (s : State) (t k : Nat) (e : Entry) : State :=
  let q := 16 + k
  let x := s.task t
  if e.finished then routineEnd s t k e e.err
  else if e.started then routineGoOn s t q e
  else
    match matrixOrder x e with
    | some w => headWait s t q w
    | none =>
      match takeWt s t q e with
      | (s1, .wait) => s1
      | (s1, .skip) => routineEnd s1 t k { e with err := false, skip := true } true
      | (s1, .go) =>
        match mgoSlotsWait x e with
        | some n => headWait s1 t q { kind := 5, object := n, amount := 2 }
        | none =>
          if pushReleased x e then routineWork s1 t q { e with tookWt := true }
          else onHead s1 t q (fun e => { e with wait := some {} })

/-- The strand issues in heritage state: one step of its command's routine. It waits as the command does; WS is the strand's
own wait (R185). -/
def routineStep (s : State) : State :=
  let t := s.sel.task
  let k := s.sel.strand
  if !canIssue s t k then s
  else
    match (s.strand t k).routine with
    | none => s
    | some e =>
      let s1 := onHead (guardAgree (takeTurn s t k) t k) t (16 + k) (fun e => { e with wait := none })
      let s2 := routineRun s1 t k { e with wait := none }
      match (s2.strand t k).routine.bind (·.wait) with
      | some w => setWait s2 t k { w with kind := if w.kind = 2 then 1 else w.kind }
      | none => s2

end Sys2Proof.Machine
end

