-- ==== Sys2Proof/Machine/Step.lean ====
section
/-!
DEFINITION. One step of the machine: the next pick of the agenda, or of the run where the agenda is empty, acts.
-/
namespace Sys2Proof.Machine

/-- A strand issues: it takes the trap that the answer to its last instruction brought (R246), in heritage state does the
next step of its command's routine (R190), else fetches, decodes and executes its next instruction, or meets its fate (R57,
R70). -/
def issue (s : State) : Host.Outcome State Fault Refusal :=
  if !canIssue s s.sel.task s.sel.strand then .next s
  else
    match (s.strand s.sel.task s.sel.strand).r.struck with
    | some r => .next (takeStruck s s.sel.task s.sel.strand r)
    | none =>
      if (s.strand s.sel.task s.sel.strand).routine.isSome then .next (routineStep s)
      else
        match fetchAt s s.sel.task s.sel.strand with
        | .run i => exec i s
        | .fate f => exec (.encodingNotInstruction f) s
        | .stop x len => .next (fetchStopped x len s)

/-- One pick acts. -/
def act (p : Pick) (s : State) : Host.Outcome State Fault Refusal :=
  match p with
  | .issue sel => issue { s with sel := sel }
  | .event i sel =>
    if encode i ≠ 0 then .next s
    else
      match i with
      | .encodingNotInstruction _ => .next s
      | i => exec i { s with sel := sel }
  | .tick ns =>
    match dueTransmission s with
    | some t => execXeTransmissionStart { s with sel := { task := t, queue := 8 } }
    | none => .next { s with clock := s.clock + w64 (timeTo s ns) }
  | .evict die core place => .next (evictTlb s die core place)
  | .hostStore addr b => .next (hostStoreByte s addr b)
  | .bitError addr => .next (strikePa s addr)
  | .spadError t addr => .next (strikeSpad s t addr)
  | .regError t reg => .next (strikeReg s t reg)
  | .guardError t reg => .next (strikeGuard s t reg)
  | .lvqError t place => .next (strikeLvq s t place)
  | .guardRun t k => .next (runGuard s t k)
  | .parityError t q => .next (parityFault s t q)
  | .watchpoint t k addr => .next (meetWatch s t k addr)

/-- One step. -/
def step (s : State) : Host.Outcome State Fault Refusal :=
  match s.agenda with
  | p :: rest => act p { s with agenda := rest }
  | [] => act (Config.nextPick s.draw) { s with draw := s.draw + 1 }

/-- The state with an instruction stored where the next step fetches it: a placed task (log entry 8) whose strand 0
issues next, and the instruction's 12 bytes at its pc. -/
def State.withFetchWord (s : State) (nbits w : Nat) : State :=
  let s1 := placedTask s
  { s1 with mem := writeBytes s1.mem 0 (wordBytes (w % 2 ^ nbits) 12),
            agenda := [.issue { task := 1, strand := 0 }] }

end Sys2Proof.Machine
end

