-- ==== Sys2Proof/WellFormed.lean ====
section
/-!
DEFINITION. Well-formed instructions: those some core accepts, every field within the limits of R70 steps 6 and 7.
The checks themselves stand beside the decoder in Sys2Proof/Decode.lean, which uses them to name the fate of a word.
-/
namespace Sys2Proof

/-- An instruction every field of which passes steps 6 and 7 of R70 in the permissive context. -/
def Instr.wellFormed (i : Instr) : Bool := legal DecodeCtx.permissive i && zeroOk i

/-- An instruction that has words: one of the 249 a strand issues (R66 to R69). -/
def Instr.hasWords (i : Instr) : Bool := encode i != 0

end Sys2Proof
end

