-- ==== Sys2Proof/Safety.lean ====
section
/-!
DEFINITION. What claims call a safe run, and the terms they are stated in: the strand that issues and its registers, when
nothing but its instruction claims the step, and what an instruction leaves alone.
-/
namespace Sys2Proof.Machine

/-! ### Safe runs -/

/-- The step went on. -/
def goesOn (o : Host.Outcome State Fault Refusal) : Prop := ∃ s, o = .next s

/-- The memories of the module are in canonical form: HBM and host memory, and the window. -/
def memoriesWf (s : State) : Prop := Memory.wf s.mem = true ∧ Memory.wf s.win = true

/-- The scratchpads and heritage regions of the tasks are in canonical form. -/
def spadsWf (s : State) : Prop :=
  ∀ e ∈ s.tasks, Memory.wf e.2.spad = true ∧ Memory.wf e.2.heritage = true

/-! ### The strand that issues -/

/-- The task of the step. -/
def myTask (s : State) : Task := s.task s.sel.task

/-- The strand of the step. -/
def me (s : State) : Strand := s.strand s.sel.task s.sel.strand

/-- Its registers. -/
def regs (s : State) : StrandRegs := (me s).r

/-- Its pc. -/
def pcOf (s : State) : Word := (regs s).pc

/-- Its launch. -/
def myLaunch (s : State) : Launch := s.launchOf s.sel.task

/-- The strand may issue, and the step is its instruction's: no STEP stop is due or set, no vector instruction of it is short
of its fault point, it is not armed, no value on its way to the guard is struck by an error, and the guard agrees. -/
structure Runs (s : State) : Prop where
  issues : canIssue s s.sel.task s.sel.strand = true
  noStep : (me s).stepDue = false
  noMode : (myTask s).dbgctl.getLsbD 0 = false
  passed : shortOfFault (myTask s) s.sel.strand = false
  agrees : s.sel.guard = .agree
  unarmed : (me s).arming = none
  fed : lvqBad (myTask s) s.sel.strand = false
  settled : (me s).replaying = false

/-- No engine and no deferred load has yet to write the registers (R259). -/
def Ready (s : State) (rs : List Reg) : Prop := ∀ r ∈ rs, r.toNat ∉ (me s).notReady

/-- No register holds an uncorrectable error, in either core of the pair (R172, R392). -/
def Sound (s : State) (rs : List Reg) : Prop := ∀ r ∈ rs, r.toNat ∉ (regs s).bad ∧ r.toNat ∉ (regs s).guardBad

/-- The registers are not poisoned (R182), and none holds an uncorrectable error. -/
def Clean (s : State) (rs : List Reg) : Prop := (∀ r ∈ rs, (regs s).poisonOf r.toNat = 0) ∧ Sound s rs

/-- No active loop of the strand ends at its pc, or it runs a handler or heritage routine (R215). -/
def NoLoopEnd (s : State) : Prop :=
  ((regs s).hnd || (regs s).her) = true ∨ loopAt (myTask s) s.sel.strand (pcOf s) = none

/-- No report is due, nothing of the strand is on its way, nor of the one that forked it, it has no vector access in the
queue and no open arrival: what an ordering point needs (R110, R123, R223, R237). -/
structure Quiet (s : State) : Prop where
  reports : (me s).reports = []
  outs : (me s).outs = []
  vecs : vecAccesses (myTask s) s.sel.strand = []
  arrivals : (me s).arrivals = []
  fences : (me s).fences = []
  forked : forkHeld s s.sel.task s.sel.strand = false

/-- The launch is free, and its homes write no order records (R21, R405). -/
structure FreeLaunch (s : State) : Prop where
  free : (myLaunch s).det = false
  unlogged : (myLaunch s).log = false

/-- `n` bytes from an address lie in the backed own window of the task (R102, R148). -/
def OwnBytes (s : State) (va : Word) (n : Nat) : Prop :=
  va.toNat + n ≤ (myTask s).spsize ∧ va.toNat + n ≤ 0x600000

/-- No uncorrectable word lies under `n` bytes from an address of the own window (R172). -/
def OwnSound (s : State) (va : Word) (n : Nat) : Prop :=
  ∀ w ∈ (myTask s).badWords, 8 * w + 8 ≤ va.toNat ∨ va.toNat + n ≤ 8 * w

/-! ### Frames -/

/-- Everything outside the tasks is as before. -/
def OutsideKept (s t : State) : Prop := t = { s with tasks := t.tasks }

/-- Every other task is as before. -/
def OthersKept (s t : State) : Prop := ∀ j, j ≠ s.sel.task → SMap.find j t.tasks = SMap.find j s.tasks

/-- A strand once the strand of the step has had its turn: one that yielded waits for it no longer (R200). -/
def turned (s : State) (x : Strand) : Strand := { x with passOver := x.passOver.filter (· != s.sel.strand) }

/-- The other strands of the task are as before, but that one that yielded has one less to wait for (R200). -/
def SiblingsKept (s t : State) : Prop :=
  ∀ j, j ≠ s.sel.strand → t.strand s.sel.task j = turned s (s.strand s.sel.task j)

/-- The strand is as before but for its registers and the books of issuing: what it last waited for, the walk and replay it
last met, the instruction it last retired, what the guard holds, the guard's sync point and the counts since. -/
def SelfKept (s t : State) : Prop :=
  me t = { turned s (me s) with
    r := (me t).r, wait := none, lastWait := none, walkFault := none, lastReplay := (me t).lastReplay, closing := false,
    stepPc := pcOf s, stepLen := (me t).stepLen,
    sync := (me t).sync, guard := (me t).guard, sinceSync := (me t).sinceSync, undoUsed := (me t).undoUsed }

/-- The frame of an instruction that changes nothing but registers of its strand, the loop counters of a loop that ends at it
(R215), what waits for the guard, and whose turn it was (R13). -/
structure RegsOnly (s t : State) : Prop where
  outside : OutsideKept s t
  others : OthersKept s t
  task : myTask t = { myTask s with
    strands := (myTask t).strands, loops := (myTask t).loops, lvq := (myTask t).lvq, lastIssued := s.sel.strand }
  loops : NoLoopEnd s → (myTask t).loops = (myTask s).loops
  siblings : SiblingsKept s t
  self : SelfKept s t

/-- `t` is `u` once an instruction of `len` parcels of the strand has retired in it: nothing differs but the pc, the loop
counters of a loop that ends at the instruction (R215), and the books of issuing. -/
structure Retired (u t : State) (len : Nat) : Prop where
  outside : OutsideKept u t
  others : OthersKept u t
  task : myTask t = { myTask u with
    strands := (myTask t).strands, loops := (myTask t).loops, lvq := (myTask t).lvq, lastIssued := u.sel.strand }
  loops : NoLoopEnd u → (myTask t).loops = (myTask u).loops
  siblings : SiblingsKept u t
  self : SelfKept u t
  registers : regs t = { regs u with pc := pcOf t }
  falls : NoLoopEnd u → pcOf t = pcOf u + w64 (4 * len)

/-- The same of an instruction that sends the strand to a given place, loops not examined. -/
structure Went (u t : State) (pc : Word) : Prop where
  outside : OutsideKept u t
  others : OthersKept u t
  task : myTask t = { myTask u with strands := (myTask t).strands, lvq := (myTask t).lvq, lastIssued := u.sel.strand }
  siblings : SiblingsKept u t
  self : SelfKept u t
  registers : regs t = { regs u with pc := pc }

/-- Every byte of every memory reads as before: HBM, host memory, window, scratchpads and heritage regions. -/
structure MemoryKept (s t : State) : Prop where
  mem : ∀ a, readByte t.mem a = readByte s.mem a
  win : ∀ a, readByte t.win a = readByte s.win a
  spad : ∀ k a, readByte (t.task k).spad a = readByte (s.task k).spad a
  heritage : ∀ k a, readByte (t.task k).heritage a = readByte (s.task k).heritage a

/-- The g registers are as before but for one, which holds `v` unpoisoned; g0 stays 0 (R62). -/
def WritesG (s t : State) (d : Reg) (v : Word) : Prop :=
  (∀ n, (regs t).gr n = if n = d.toNat ∧ n ≠ 0 then v else (regs s).gr n)
    ∧ (∀ n, (regs t).poisonOf n = if n = d.toNat then 0 else (regs s).poisonOf n)

/-- Every g register and its poison are as before. -/
def KeepsG (s t : State) : Prop :=
  (∀ n, (regs t).gr n = (regs s).gr n) ∧ (∀ n, (regs t).poisonOf n = (regs s).poisonOf n)

/-- Predicates and STATUS bits of the strand are as before. -/
def KeepsPreds (s t : State) : Prop :=
  (regs t).preds = (regs s).preds ∧ (regs t).hnd = (regs s).hnd ∧ (regs t).her = (regs s).her

/-- The strand goes on after an instruction of `len` parcels, when no loop ends there. -/
def FallsThrough (s t : State) (len : Nat) : Prop := NoLoopEnd s → pcOf t = pcOf s + w64 (4 * len)

/-! ### The tables of the scalar groups, as the rules give them -/

/-- Destination, sources and function of the ALU and MULDIV groups (R201, R202, with the division of R24). -/
def alu2 : Instr → Option (Reg × Reg × Reg × (Word → Word → Word))
  | .add d a b => some (d, a, b, fun x y => BitVec.ofNat 64 (x.toNat + y.toNat))
  | .sub d a b => some (d, a, b, fun x y => x - y)
  | .and d a b => some (d, a, b, fun x y => x &&& y)
  | .or d a b => some (d, a, b, fun x y => x ||| y)
  | .xor d a b => some (d, a, b, fun x y => x ^^^ y)
  | .andn d a b => some (d, a, b, fun x y => x &&& ~~~y)
  | .sll d a b => some (d, a, b, fun x y => x <<< (y.toNat % 64))
  | .srl d a b => some (d, a, b, fun x y => x >>> (y.toNat % 64))
  | .sra d a b => some (d, a, b, fun x y => BitVec.ofInt 64 (x.toInt / 2 ^ (y.toNat % 64)))
  | .ror d a b => some (d, a, b, fun x y => x >>> (y.toNat % 64) ||| x <<< (64 - y.toNat % 64))
  | .min d a b => some (d, a, b, fun x y => if x.toInt < y.toInt then x else y)
  | .max d a b => some (d, a, b, fun x y => if x.toInt < y.toInt then y else x)
  | .minu d a b => some (d, a, b, fun x y => if x.toNat < y.toNat then x else y)
  | .maxu d a b => some (d, a, b, fun x y => if x.toNat < y.toNat then y else x)
  | .addsc1 d a b => some (d, a, b, fun x y => BitVec.ofNat 64 (2 * x.toNat + y.toNat))
  | .addsc2 d a b => some (d, a, b, fun x y => BitVec.ofNat 64 (4 * x.toNat + y.toNat))
  | .addsc3 d a b => some (d, a, b, fun x y => BitVec.ofNat 64 (8 * x.toNat + y.toNat))
  | .addsc4 d a b => some (d, a, b, fun x y => BitVec.ofNat 64 (16 * x.toNat + y.toNat))
  | .mul d a b => some (d, a, b, fun x y => BitVec.ofNat 64 (x.toNat * y.toNat))
  | .mulh d a b => some (d, a, b, fun x y => BitVec.ofInt 64 (x.toInt * y.toInt / 2 ^ 64))
  | .mulhu d a b => some (d, a, b, fun x y => BitVec.ofNat 64 (x.toNat * y.toNat / 2 ^ 64))
  | .div d a b => some (d, a, b, fun x y => if y = 0 then -1 else BitVec.ofInt 64 (x.toInt.tdiv y.toInt))
  | .divu d a b => some (d, a, b, fun x y => if y = 0 then 0xFFFFFFFFFFFFFFFF else BitVec.ofNat 64 (x.toNat / y.toNat))
  | .rem d a b => some (d, a, b, fun x y => if y = 0 then x else BitVec.ofInt 64 (x.toInt.tmod y.toInt))
  | .remu d a b => some (d, a, b, fun x y => if y = 0 then x else BitVec.ofNat 64 (x.toNat % y.toNat))
  | _ => none

/-- Destination, source and function of the BITS group, the immediate forms and ADDIL (R203 to R206). -/
def alu1 : Instr → Option (Reg × Reg × (Word → Word))
  | .clz d a => some (d, a, countLz)
  | .ctz d a => some (d, a, countTz)
  | .popc d a => some (d, a, countOnes)
  | .sextB d a => some (d, a, fun x => (x.setWidth 8).signExtend 64)
  | .sextH d a => some (d, a, fun x => (x.setWidth 16).signExtend 64)
  | .sextW d a => some (d, a, fun x => (x.setWidth 32).signExtend 64)
  | .zextB d a => some (d, a, fun x => (x.setWidth 8).setWidth 64)
  | .zextH d a => some (d, a, fun x => (x.setWidth 16).setWidth 64)
  | .zextW d a => some (d, a, fun x => (x.setWidth 32).setWidth 64)
  | .addi d a imm => some (d, a, fun x => x + imm.signExtend 64)
  | .andi d a imm => some (d, a, fun x => x &&& imm.signExtend 64)
  | .ori d a imm => some (d, a, fun x => x ||| imm.signExtend 64)
  | .xori d a imm => some (d, a, fun x => x ^^^ imm.signExtend 64)
  | .slli d a n => some (d, a, fun x => x <<< n.toNat)
  | .srli d a n => some (d, a, fun x => x >>> n.toNat)
  | .srai d a n => some (d, a, fun x => BitVec.ofInt 64 (x.toInt / 2 ^ n.toNat))
  | .addil d a lit => some (d, a, fun x => x + lit.signExtend 64)
  | _ => none

/-- Predicate, sources and condition of CMP and CMPI (R207, R208); the second source is a register or a value. -/
def cmpTable : Instr → Option (BitVec 4 × Reg × (Reg ⊕ Word) × (Word → Word → Bool))
  | .cmpEq p a b => some (p, a, .inl b, fun x y => decide (x = y))
  | .cmpNe p a b => some (p, a, .inl b, fun x y => decide (x ≠ y))
  | .cmpLt p a b => some (p, a, .inl b, fun x y => decide (x.toInt < y.toInt))
  | .cmpGe p a b => some (p, a, .inl b, fun x y => decide (y.toInt ≤ x.toInt))
  | .cmpLtu p a b => some (p, a, .inl b, fun x y => decide (x.toNat < y.toNat))
  | .cmpGeu p a b => some (p, a, .inl b, fun x y => decide (y.toNat ≤ x.toNat))
  | .cmpiEq p a imm => some (p, a, .inr (imm.signExtend 64), fun x y => decide (x = y))
  | .cmpiNe p a imm => some (p, a, .inr (imm.signExtend 64), fun x y => decide (x ≠ y))
  | .cmpiLt p a imm => some (p, a, .inr (imm.signExtend 64), fun x y => decide (x.toInt < y.toInt))
  | .cmpiLtu p a imm => some (p, a, .inr (imm.signExtend 64), fun x y => decide (x.toNat < y.toNat))
  | _ => none

/-- The registers of an operand that is a register or a value. -/
def operandRegs : Reg ⊕ Word → List Reg
  | .inl r => [r]
  | .inr _ => []

/-- Its value. -/
def operandValue (s : State) : Reg ⊕ Word → Word
  | .inl r => (regs s).gr r.toNat
  | .inr v => v

/-- Destination, sources and function of PLOG (R209). -/
def plog : Instr → Option (BitVec 4 × BitVec 4 × BitVec 4 × (Bool → Bool → Bool))
  | .pand d a b => some (d, a, b, fun x y => x && y)
  | .por d a b => some (d, a, b, fun x y => x || y)
  | .pxor d a b => some (d, a, b, fun x y => Bool.xor x y)
  | .pandn d a b => some (d, a, b, fun x y => x && !y)
  | _ => none

/-- The predicates are as before but for one, which holds `b`; p0 stays true (R62). -/
def WritesP (s t : State) (p : BitVec 4) (b : Bool) : Prop :=
  ∀ n, n < 16 → (regs t).pred n = if n = p.toNat ∧ n ≠ 0 then b else (regs s).pred n

/-! ### Loads, stores and atomics (R219, R220, R227, R228) -/

/-- Destination, base, class, bytes, signed, and effective address from the base. -/
def loadTable : Instr → Option (Reg × Reg × BitVec 4 × Nat × Bool × (Word → Word))
  | .ldb d a oc disp => some (d, a, oc, 1, true, fun x => x + disp.signExtend 64)
  | .ldh d a oc disp => some (d, a, oc, 2, true, fun x => x + disp.signExtend 64 * 2)
  | .ldw d a oc disp => some (d, a, oc, 4, true, fun x => x + disp.signExtend 64 * 4)
  | .ldd d a oc disp => some (d, a, oc, 8, false, fun x => x + disp.signExtend 64 * 8)
  | .ldbu d a oc disp => some (d, a, oc, 1, false, fun x => x + disp.signExtend 64)
  | .ldhu d a oc disp => some (d, a, oc, 2, false, fun x => x + disp.signExtend 64 * 2)
  | .ldwu d a oc disp => some (d, a, oc, 4, false, fun x => x + disp.signExtend 64 * 4)
  | .lddl d a oc lit => some (d, a, oc, 8, false, fun x => x + lit.signExtend 64)
  | .lds d a oc disp => some (d, a, oc, 8, false, fun x => x + disp.signExtend 64 * 8)
  | _ => none

/-- Source, base, class, bytes, and effective address from the base. -/
def storeTable : Instr → Option (Reg × Reg × BitVec 4 × Nat × (Word → Word))
  | .stb d a oc disp => some (d, a, oc, 1, fun x => x + disp.signExtend 64)
  | .sth d a oc disp => some (d, a, oc, 2, fun x => x + disp.signExtend 64 * 2)
  | .stw d a oc disp => some (d, a, oc, 4, fun x => x + disp.signExtend 64 * 4)
  | .std d a oc disp => some (d, a, oc, 8, fun x => x + disp.signExtend 64 * 8)
  | .stdl d a oc lit => some (d, a, oc, 8, fun x => x + lit.signExtend 64)
  | _ => none

/-- Destination of AMO or none of RED, base, operand, 64-bit width, function. -/
def atomicTable : Instr → Option (Option Reg × Reg × Reg × Bool × AtomFn)
  | .amoAdd sz d a b => some (some d, a, b, sz, .add)
  | .amoAnd sz d a b => some (some d, a, b, sz, .and)
  | .amoOr sz d a b => some (some d, a, b, sz, .or)
  | .amoXor sz d a b => some (some d, a, b, sz, .xor)
  | .amoMin sz d a b => some (some d, a, b, sz, .min)
  | .amoMax sz d a b => some (some d, a, b, sz, .max)
  | .amoMinu sz d a b => some (some d, a, b, sz, .minu)
  | .amoMaxu sz d a b => some (some d, a, b, sz, .maxu)
  | .amoSwap sz d a b => some (some d, a, b, sz, .swap)
  | .amoFadd32 d a b => some (some d, a, b, false, .fadd32)
  | .amoFmin32 d a b => some (some d, a, b, false, .fmin32)
  | .amoFmax32 d a b => some (some d, a, b, false, .fmax32)
  | .redAdd sz a b => some (none, a, b, sz, .add)
  | .redAnd sz a b => some (none, a, b, sz, .and)
  | .redOr sz a b => some (none, a, b, sz, .or)
  | .redXor sz a b => some (none, a, b, sz, .xor)
  | .redMin sz a b => some (none, a, b, sz, .min)
  | .redMax sz a b => some (none, a, b, sz, .max)
  | .redMinu sz a b => some (none, a, b, sz, .minu)
  | .redMaxu sz a b => some (none, a, b, sz, .maxu)
  | .redSwap sz a b => some (none, a, b, sz, .swap)
  | .redFadd32 a b => some (none, a, b, false, .fadd32)
  | .redFmin32 a b => some (none, a, b, false, .fmin32)
  | .redFmax32 a b => some (none, a, b, false, .fmax32)
  | _ => none

/-- A loaded or returned value, extended from its bytes (R219, R227). -/
def loadedWord (v n : Nat) (signed : Bool) : Word :=
  if signed then (BitVec.ofNat (8 * n) v).signExtend 64 else (BitVec.ofNat (8 * n) v).setWidth 64

/-- The bytes of a number in the own window, which end every IDLE of the task and replace uncorrectable words they cover. -/
def storeOwn (s : State) (va : Word) (n v : Nat) : State :=
  s.modTask s.sel.task (fun x => { x.wake with
    spad := writeBytes x.spad va.toNat (bytesOf v n),
    badWords := x.badWords.filter (fun w => !(va.toNat ≤ 8 * w && 8 * w + 8 ≤ va.toNat + n)) })

/-- g[d] ← v. -/
def setReg (s : State) (d : Reg) (v : Word) : State :=
  s.modStrand s.sel.task s.sel.strand (fun x => { x with r := x.r.setG d.toNat v })

/-- Of the own scratchpad, the `n` bytes from an address hold a number and every other byte is as before. -/
def OwnStored (s t : State) (va : Word) (n v : Nat) : Prop :=
  ∀ a, readByte (myTask t).spad a =
    if va.toNat ≤ a ∧ a < va.toNat + n then BitVec.ofNat 8 (v / 256 ^ (a - va.toNat)) else readByte (myTask s).spad a

/-- The read-only CSRs by number (R174, R195): coordinates, launch, strand, phase, clock, capabilities, STATUS, TCAUSE, TREC,
TVAL and what a heritage routine reads, PHYSCORE and ACTBASE. -/
def csrReadOnly : List (BitVec 10) :=
  [0x000, 0x001, 0x002, 0x003, 0x004, 0x005, 0x006, 0x007, 0x008, 0x009, 0x00A, 0x00B, 0x00C, 0x00D, 0x00E, 0x00F, 0x010,
   0x011, 0x020, 0x021, 0x024, 0x025, 0x027, 0x028, 0x029, 0x02A, 0x02B, 0x02C, 0x100, 0x103]

/-- What a read of the coordinates, the launch, the strand's number, the phase, the clock, the scratchpad's size, the loop
counters and the registers that hold what was written returns in a free launch (R149, R174, R195, R217). -/
def csrValue (s : State) (csr : BitVec 10) : Option Word :=
  let x := myTask s
  let l := myLaunch s
  match csr.toNat with
  | 0x000 => some (w64 x.lx)
  | 0x001 => some (w64 x.ly)
  | 0x002 => some (w64 l.width)
  | 0x003 => some (w64 l.height)
  | 0x004 => some (w64 (l.ox + x.lx))
  | 0x005 => some (w64 (l.oy + x.ly))
  | 0x006 => some (l.launchId.setWidth 64)
  | 0x007 => some (w64 s.sel.strand)
  | 0x009 => some l.phase
  | 0x00A => some s.clock
  | 0x011 => some (w64 x.spsize)
  | 0x021 => some x.trap.tcause
  | 0x022 => some x.trap.tpc
  | 0x023 => some x.trap.tstatus
  | 0x024 => some x.trap.trec
  | 0x025 => some x.trap.tval
  | 0x026 => some x.trap.tvec
  | 0x040 => some x.vec.vsh
  | 0x041 => some x.vec.vctl
  | 0x042 => some x.vec.vstat
  | 0x043 => some x.vec.ftsel
  | 0x044 => some x.vec.srseed
  | 0x045 => some x.vec.xwanchor
  | 0x060 => some (x.loop 0).value
  | 0x061 => some (x.loop 1).value
  | 0x062 => some (x.loop 2).value
  | 0x063 => some (x.loop 3).value
  | 0x080 => some x.eng.mesteer
  | 0x081 => some x.eng.mestat0
  | 0x082 => some x.eng.mestat1
  | 0x0A0 => some x.eng.glod
  | 0x0A1 => some x.eng.gecc
  | 0x0A2 => some x.eng.xlate
  | 0x103 => some l.actions
  | _ => none

/-- g[d] takes a deferred fault: the address as its value, the cause as its poison; g0 holds none (R182, R221). -/
def WritesPoison (s t : State) (d : Reg) (v : Word) (cause : Nat) : Prop :=
  (∀ n, (regs t).gr n = if n = d.toNat ∧ n ≠ 0 then v else (regs s).gr n)
    ∧ (∀ n, (regs t).poisonOf n = if n = d.toNat ∧ n ≠ 0 then cause else (regs s).poisonOf n)

/-- `r` is op(o, v) on `w` bits (R228), as the table gives it: bit by bit, by signed and unsigned order, by the rank of
totalOrder; of FADD32 at worked pairs: a tie to even, two subnormals, an overflow, ∞ − ∞ and a sum of zero. -/
def IsAtomicOf (fn : AtomFn) (w o v r : Nat) : Prop :=
  let int := fun (x : Nat) => (BitVec.ofNat w x).toInt
  let rank := fun (x : Nat) => if 2 ^ 31 ≤ x then -((x : Int) - 2 ^ 31) - 1 else (x : Int)
  match fn with
  | .add => r = (o + v) % 2 ^ w
  | .and => ∀ i, r.testBit i = (o.testBit i && v.testBit i)
  | .or => ∀ i, r.testBit i = (o.testBit i || v.testBit i)
  | .xor => ∀ i, r.testBit i = Bool.xor (o.testBit i) (v.testBit i)
  | .min => (r = o ∨ r = v) ∧ int r ≤ int o ∧ int r ≤ int v
  | .max => (r = o ∨ r = v) ∧ int o ≤ int r ∧ int v ≤ int r
  | .minu => (r = o ∨ r = v) ∧ r ≤ o ∧ r ≤ v
  | .maxu => (r = o ∨ r = v) ∧ o ≤ r ∧ v ≤ r
  | .swap => r = v
  | .fmin32 => (r = o ∨ r = v) ∧ rank r ≤ rank o ∧ rank r ≤ rank v
  | .fmax32 => (r = o ∨ r = v) ∧ rank o ≤ rank r ∧ rank v ≤ rank r
  | .fadd32 => ∀ x ∈ [(0x3F800000, 0x33800000, 0x3F800000), (1, 1, 2), (0x7F7FFFFF, 0x7F7FFFFF, 0x7F800000),
      (0x7F800000, 0xFF800000, 0x7FC00000), (0x3F800000, 0xBF800000, 0)], o = x.1 → v = x.2.1 → r = x.2.2

/-! ### Deterministic launches (R112, R127 to R130, R174) -/

/-- Stamp record of the sector of an address of the own scratchpad. -/
def stampAt (s : State) (va : Word) : Option Stamp := SMap.find (va.toNat / 64) (myTask s).recs.stamps

/-- LCORE and STRAND of the strand, as bits 14:0 of a stamp. -/
def partyOf (s : State) : Nat := (myTask s).lcore % 2 ^ 12 + 2 ^ 12 * (s.sel.strand % 8)

/-- Another party's stamp keeps the strand from writing an ordinary sector: several readers or a combining sector, or one
reader or writer that is not the strand. -/
def keptFromWrite (s : State) (st : Stamp) : Prop :=
  bitsOf st.bits.toNat 15 2 = 2 ∨ (bitsOf st.bits.toNat 15 2 ≠ 0 ∧ bitsOf st.bits.toNat 0 15 ≠ partyOf s)

/-- And from reading it: a combining sector, or one that another party has written. -/
def keptFromRead (s : State) (st : Stamp) : Prop :=
  (bitsOf st.bits.toNat 15 2 = 2 ∧ bitsOf st.bits.toNat 0 15 ≠ 0)
    ∨ (bitsOf st.bits.toNat 15 2 = 3 ∧ bitsOf st.bits.toNat 0 15 ≠ partyOf s)

/-- Bytes of an access meet an earlier one of the alias window in another class, a write on either side, with no fence of both
classes between. -/
def MeetsAlias (s : State) (va : Word) (n cls : Nat) (writes : Bool) : Prop :=
  ∃ e ∈ (me s).alias_, e.cls ≠ cls ∧ (e.writes = true ∨ writes = true)
    ∧ (∀ m ∈ e.fences, ¬(m.getLsbD e.cls = true ∧ m.getLsbD cls = true))
    ∧ ∃ r ∈ e.ranges, r.1 < va.toNat + n ∧ va.toNat < r.1 + r.2

/-- The strand has trapped with TCAUSE.RES set and a resource's number in TVAL (R174). -/
structure TrapResource (s t : State) (cause n ilen : Nat) : Prop where
  tcause : (myTask t).trap.tcause = w64 (cause + 2 ^ 13 * ilen + 2 ^ 16)
  tval : (myTask t).trap.tval = w64 n
  tpc : (myTask t).trap.tpc = pcOf s

/-! ### Loops, strands and traps -/

/-- Active loops of the strand on counters other than one. -/
def otherLoops (s : State) (n : Nat) : Nat :=
  ((List.range 4).filter (fun m => m != n && ((myTask s).loop m).act && ((myTask s).loop m).own == s.sel.strand)).length

/-- Counter `c` is the one active loop of the strand that ends at its pc. -/
def OnlyLoopEnd (s : State) (c : Nat) : Prop :=
  c < 4 ∧ ∀ m, m < 4 → ((((myTask s).loop m).act = true ∧ ((myTask s).loop m).own = s.sel.strand
    ∧ ((myTask s).loop m).stop = pcOf s) ↔ m = c)

/-- Counters `c` and `d` are the two active loops of the strand that end at its pc, `c` the inner one (R215, R218). -/
structure TwoLoopEnds (s : State) (c d : Nat) : Prop where
  inner : c < 4
  outer : d < 4
  apart : c ≠ d
  deeper : ((myTask s).loop d).depth < ((myTask s).loop c).depth
  only : ∀ m, m < 4 → ((((myTask s).loop m).act = true ∧ ((myTask s).loop m).own = s.sel.strand
    ∧ ((myTask s).loop m).stop = pcOf s) ↔ (m = c ∨ m = d))

/-- A loop counter has another iteration to go (R215). -/
def goesBack (l : LoopState) : Bool := decide (l.value.toNat + 1 < l.count.toNat)

/-- The end of a loop on one counter, at an instruction of `len` parcels (R215). -/
def LoopEnded (s t : State) (c len : Nat) : Prop :=
  let l := (myTask s).loop c
  (∀ m, m ≠ c → (myTask t).loop m = (myTask s).loop m)
    ∧ (if goesBack l then pcOf t = l.start ∧ (myTask t).loop c = { l with value := l.value + 1 }
       else pcOf t = pcOf s + w64 (4 * len) ∧ (myTask t).loop c = { l with act := false })

/-- The end of two loops at one instruction: the inner goes back, or has ended and the outer is looked at (R215). -/
def LoopsEnded (s t : State) (c d len : Nat) : Prop :=
  let l := (myTask s).loop c
  let m := (myTask s).loop d
  (∀ n, n ≠ c → n ≠ d → (myTask t).loop n = (myTask s).loop n)
    ∧ (if goesBack l then pcOf t = l.start ∧ (myTask t).loop c = { l with value := l.value + 1 } ∧ (myTask t).loop d = m
       else (myTask t).loop c = { l with act := false }
         ∧ (if goesBack m then pcOf t = m.start ∧ (myTask t).loop d = { m with value := m.value + 1 }
            else pcOf t = pcOf s + w64 (4 * len) ∧ (myTask t).loop d = { m with act := false }))

/-- A change of the strand's task. -/
def withTask (s : State) (f : Task → Task) : State := s.modTask s.sel.task f

/-- A change of the strand. -/
def withStrand (s : State) (f : Strand → Strand) : State := s.modStrand s.sel.task s.sel.strand f

/-- The trap CSRs hold a strand-origin trap of the strand (R174). -/
structure TrapHeld (s t : State) (cause : Nat) (tval : Word) (chk : Bool) (ilen : Nat) : Prop where
  tcause : (myTask t).trap.tcause = w64 (cause % 64 + 64 * b2n chk + 2 ^ 13 * (ilen % 8))
  tpc : (myTask t).trap.tpc = pcOf s
  tval : (myTask t).trap.tval = tval
  tstatus : (myTask t).trap.tstatus = statusWord (regs s) (myLaunch s)
  trec : (myTask t).trap.trec = recordSlot s s.sel.task
  tvec : (myTask t).trap.tvec = (myTask s).trap.tvec

/-- KILL (R178): no strand of the task is live, no loop is active, commands that have not started are gone, the launch has
failed. -/
structure KilledTask (t : State) : Prop where
  killed : (myTask t).killed = true
  frozen : (myTask t).freeze = none
  strands : ∀ k, ((myTask t).strand k).live = false
  loops : ∀ n, ((myTask t).loop n).act = false
  queues : ∀ q, ∀ e ∈ (myTask t).queue q, e.started = true
  failed : SMap.find (myTask t).launch t.launches = some (myLaunch t) → (myLaunch t).failed = true

/-- FORWARD (R179): the handler runs in the strand's slot with g1 = TREC, everything else clear, and the strand's registers
are saved; the schedule is frozen. -/
structure InHandler (s t : State) : Prop where
  frozen : (myTask t).freeze = some { strand := s.sel.strand, queue := none, stamp := s.clock }
  pc : pcOf t = (myTask s).trap.tvec
  g1 : (regs t).gr 1 = recordSlot s s.sel.task
  g : ∀ n, n ≠ 1 → (regs t).gr n = 0
  poison : ∀ n, (regs t).poisonOf n = 0
  preds : ∀ n, n ≠ 0 → (regs t).pred n = false
  status : (regs t).hnd = true ∧ (regs t).her = false
  saved : (me t).saved = some (regs s)

/-! ### Synchronisation -/

/-- A class-15 access empties the alias window (R112). -/
def classed (s : State) : State := withStrand s (fun x => { x with alias_ := [] })

/-- The full/empty bit of the word at an address of the own window; a change ends every IDLE of the task (R113, R243). -/
def feWord (s : State) (va : Word) (b : Bool) : State :=
  withTask s (fun x => if isFull x (va.toNat / 8) = b then x else (setFull x (va.toNat / 8) b).wake)

/-- A doubleword stored to the own window by a full/empty operation. -/
def feStore (s : State) (va v : Word) : State :=
  withTask s (fun x => { x.wake with spad := writeBytes x.spad va.toNat (bytesOf v.toNat 8) })

/-- No full/empty operation waits at the word (R114). -/
def NoWaiter (s : State) (va : Word) : Prop := ∀ w ∈ (myTask s).feWaiters, w.acc.addr / 8 ≠ va.toNat / 8

/-- Every access of the strand that is under way, and every word of a vector access, is of the own scratchpad (R200). -/
def AllNear (s : State) : Prop :=
  (∀ o ∈ (me s).outs, o.acc.home = .spad s.sel.task)
    ∧ ∀ e ∈ vecAccesses (myTask s) s.sel.strand, ∀ h ∈ e.homes, h = .spad s.sel.task

/-- An access of the strand of a class to a place is held back: by an earlier one of its class to another home, by any where
one of the two is of class 15, on TSO pages, by a fence that covers both, or, of a strand that has been forked, by one that
its issuer had made (R107, R109, R110, R120, R136, R223). `writes` tells a store. -/
def HeldBack (s : State) (cls : Nat) (p : Place) (writes : Bool) : Prop :=
  (∃ o ∈ (me s).outs, o.acc.cls = 15 ∨ cls = 15 ∨ (o.acc.cls = cls ∧ o.acc.home ≠ p.home)
    ∨ (o.acc.tso = true ∧ p.tso = true ∧ (writes = true ∨ o.acc.loads = true))
    ∨ (∃ f ∈ (me s).fences, f.mask.getLsbD cls = true ∧ inScope s s.sel.task f.scope p.home = true ∧ o.id ∈ f.outs))
  ∨ (∃ f, (me s).after = some f ∧ ∃ o ∈ (s.strand s.sel.task f.issuer).outs, o.id ∈ f.outs ∧ waitsAtHome o = false)

/-- Nothing the strand pushed or issued is under way (R235, R237). -/
structure Idle (s : State) : Prop extends Quiet s where
  commands : pendingCommands (myTask s) s.sel.strand = false
  vectors : ∀ e ∈ (myTask s).queue 0, e.strand = s.sel.strand → e.orphaned = true

/-- No engine queue and no lower strand that waits for the same takes it first: kind 1 a semaphore, 4 an output FIFO (R17,
R240). -/
def FirstInTurn (s : State) (kind n : Nat) : Prop :=
  (kind = 1 → headFirst (myTask s) 9 n = false) ∧ strandFirst s s.sel.task s.sel.strand kind n = false

/-- Every module of the pod drops the cached translations that are not kept, and what walks have found is forgotten (R189,
R245). -/
def invalidated (s : State) (keep : TlbEntry → Bool) : State :=
  let u := (List.range (podModules s)).foldl (fun s m => dropTlb s m keep) s
  { u with tasks := u.tasks.map (fun (n, x) => (n, x.dropWalks)) }

/-- A semaphore of the task. -/
def withSem (s : State) (n : Nat) (f : Sem → Sem) : State := withTask s (fun x => x.setSem n (f (x.sem n)))

/-- The strand waits, of a kind and on an object of the hang record (R185), where it stands. -/
structure Waits (s t : State) (kind object : Nat) : Prop where
  outside : OutsideKept s t
  others : OthersKept s t
  wait : ∃ w, (me t).wait = some w ∧ w.kind = kind ∧ w.object = object
  registers : regs t = regs s
  siblings : SiblingsKept s t

/-- The access leaves as a request in flight (R107, R122, R365), and the strand remembers it; nothing else of the machine
changes but strands. -/
structure Leaves (s t : State) (a : Acc) (dest : Option Dest) (parks : Bool) : Prop where
  message : ∃ m, SMap.find s.nextMsg t.net = some m ∧ m.acc = a ∧ m.chan = 0 ∧ m.req = .acc a.who s.nextMsg
    ∧ m.dstStation = homeStation s a.home ∧ m.srcStation = dieStation (myTask s).die ∧ m.reply = none ∧ m.forwarded = false
  rest : ∀ j, j ≠ s.nextMsg → SMap.find j t.net = SMap.find j s.net
  number : t.nextMsg = s.nextMsg + 1
  out : ∃ o, (me t).outs = (me s).outs ++ [o] ∧ o.id = s.nextMsg ∧ o.acc = a ∧ o.dest = dest ∧ o.parks = parks
    ∧ o.pc = pcOf s
  outside : t = { s with tasks := t.tasks, net := t.net, nextMsg := t.nextMsg }
  others : OthersKept s t

/-- An access of the strand at a place, in a free launch. -/
def accAt (s : State) (p : Place) (va : Word) (size cls : Nat) (nr : Bool) (op : AccOp) : Acc :=
  { who := { task := s.sel.task, strand := s.sel.strand, pc := pcOf s }, home := p.home, addr := p.addr,
    va := foldVa s s.sel.task va, size, cls, nr, op, tso := p.tso, log := p.log, exec := p.exec }

/-- FN of an AMOR and its fields (R231). -/
def amorTable : Instr → Option (AtomFn × SR64)
  | .amorAdd f => some (.add, f)
  | .amorAnd f => some (.and, f)
  | .amorOr f => some (.or, f)
  | .amorXor f => some (.xor, f)
  | .amorMin f => some (.min, f)
  | .amorMax f => some (.max, f)
  | .amorMinu f => some (.minu, f)
  | .amorMaxu f => some (.maxu, f)
  | .amorSwap f => some (.swap, f)
  | .amorFadd32 f => some (.fadd32, f)
  | .amorFmin32 f => some (.fmin32, f)
  | .amorFmax32 f => some (.fmax32, f)
  | _ => none

/-- Base, other register and displacement of the full/empty operations (R225, R226). -/
def feTable : Instr → Option (Reg × Reg × Word)
  | .ldfe d a disp | .ldff d a disp | .stef d a disp | .stfl d a disp => some (a, d, disp.signExtend 64 * 8)
  | .sete a | .setf a => some (a, a, 0)
  | .feq d a => some (a, d, 0)
  | _ => none

/-- The parts of a round hold ranks that rise from part to part (R232). -/
def Ascending (l : List RoundPart) : Prop := l.Pairwise (fun a b => a.hi < b.lo)

/-- The doublewords from an address of the own window. -/
def ownWords (s : State) (va : Word) (n : Nat) : List Nat :=
  (List.range n).map (fun i => readNat (myTask s).spad (va.toNat + 8 * i) 8)

/-- The launch of the strand with a monitor changed. -/
def withMonitor (s : State) (n : Nat) (f : Monitor → Monitor) : State :=
  s.modLaunch (myTask s).launch (fun l => l.setMon n (f (l.mon n)))

/-! ### Pushes (R15, R163, R259, R265, R320, R340, R377) -/

/-- The command at the tail of a queue of the task, with what it captured. -/
def withPush (s : State) (q : Nat) (i : Instr) (cap : Captured) (progress : Nat := 0)
    (footprint : List Foot := []) : State :=
  withTask s (fun x => { x.setQueue q (x.queue q
      ++ [{ cmd := i, pc := pcOf s, strand := s.sel.strand, serial := x.serial + 1, index := SMap.get 0 x.pushed q, cap,
            progress, footprint }]) with
    serial := x.serial + 1, pushed := SMap.set 0 x.pushed q (SMap.get 0 x.pushed q + 1) })

/-- An instruction counted by SEQ; those of a heritage routine are not (R38). -/
def counted (s : State) : State := withStrand s (fun x => if x.r.her then x else { x with seq := x.seq + 1 })

/-- A g register to be written by an engine; g0 is never awaited (R259). -/
def awaiting (s : State) (d : Option Reg) : State :=
  match d with
  | some r => withStrand s (fun x => if r = 0 then x else { x with notReady := r.toNat :: x.notReady })
  | none => s

/-- A g operand, 0 where there is none. -/
def operandG (s : State) (r : Option Reg) : Word :=
  match r with
  | some r => (regs s).gr r.toNat
  | none => 0

/-- The registers of the V3, VL and VW instructions that enter the VE queue: g sources in VA and VB, g destination (R269,
R278, R280, R287, R289, R291, R293). -/
def vectorTable : Instr → Option (Option Reg × Option Reg × Option Reg)
  | .vadd _ | .vsub _ | .vmul _ | .vfma _ | .vfms _ | .vmin _ | .vmax _ | .vabs _ | .vneg _ => some (none, none, none)
  | .vdot4 _ | .vtacc _ | .vand _ | .vor _ | .vxor _ | .vsll _ | .vsrl _ | .vsra _ => some (none, none, none)
  | .vcmpEq _ | .vcmpNe _ | .vcmpLt _ | .vcmpLe _ | .vcmpGt _ | .vcmpGe _ | .vcmpUnord _ => some (none, none, none)
  | .vsel _ | .vcvt _ _ | .vrcp _ | .vrsq _ | .vsqrt _ | .vexp2 _ | .vlog2 _ => some (none, none, none)
  | .vredSum _ _ | .vredMax _ _ | .vredMin _ _ | .vredSumx _ _ | .vperm _ | .vscan _ => some (none, none, none)
  | .vsparse _ _ _ | .vunpk3 _ | .vqb _ | .vdqb _ | .vmov _ | .vbcastl _ _ | .vsweep _ _ => some (none, none, none)
  | .mlogAnd _ | .mlogOr _ | .mlogXor _ | .mlogAndn _ => some (none, none, none)
  | .vscale f | .vrot f | .vxl f | .vbcast f => some (none, some (f.vb.setWidth 6), none)
  | .popv f => some (none, some (f.vb.setWidth 6), none)
  | .vpack f | .vexpand f => some (none, none, some (f.vb.setWidth 6))
  | .vmvs f => some (none, some (f.vb.setWidth 6), some (f.vd.setWidth 6))
  | .vmvg f | .vnset f => some (some (f.va.setWidth 6), some (f.vb.setWidth 6), none)
  | .mpopc f | .mfirst f => some (none, none, some (f.vd.setWidth 6))
  | _ => none

/-- The vector memory instructions and their fields; the strided ones read B (R284, R285). -/
def vectorMemoryTable : Instr → Option (VM × Bool)
  | .vld f | .vst f | .vgath f | .vscat f => some (f, false)
  | .vlds f | .vsts f => some (f, true)
  | _ => none

/-- What every vector instruction captures (R255, R259, R260). -/
def vectorCaptured (s : State) (a b : Word) (ft : Option Word) (nest : Option Nat) : Captured :=
  { a, b, ft, nest, vsh := (myTask s).vec.vsh, vctl := (myTask s).vec.vctl,
    anchor := (myTask s).vec.xwanchor.setWidth 8, srseed := (myTask s).vec.srseed, phase := (myLaunch s).phase,
    seq := (me s).seq, her := (regs s).her,
    before := some { regs := regs s, seq := (me s).seq, loops := (myTask s).loops, arming := (me s).arming,
                     notReady := (me s).notReady },
    after := (me s).outs.map (·.id) }

/-- The format-table entry at LC[FTSEL] mod 16 (R54, R216). -/
def tableEntry (s : State) : Word :=
  let v := (myTask s).vec
  SMap.get 0 v.ft (((myTask s).loop (bitsOf v.ftsel.toNat 0 2)).value.toNat % 16)

/-- The entry a vector instruction takes its format from, when its FT says so. -/
def formatTaken (s : State) (u : VUse) : Option Word := if u.f.ft && u.ft then some (tableEntry s) else none

/-- The checks of a push: the entry's VET, RM and zero bits (R55), the shape (R251), a nest's registers (R254), a sweep's
windows (R295), and a free place in the queue. -/
structure PushOk (s : State) (i : Instr) (u : VUse) (cap : Captured) : Prop where
  entry : ∀ e, cap.ft = some e → (∀ p, u.types = some p → p (bitsOf e.toNat 4 4) = true) ∧ bitsOf e.toNat 12 3 ≤ 5
    ∧ bitsOf e.toNat 25 39 = 0
  shape : shapeOk i (capType cap u.f.et) (bitsOf cap.vsh.toNat 0 5) (bitsOf cap.vsh.toNat 8 11) (myLaunch s).vregs
    cap.a cap.b = true
  nest : ∀ n, cap.nest = some n → nestFits i (nestAhead (myTask s) n) (myLaunch s).vregs = true
  sweep : ∀ fn f, i = .vsweep fn f → sweepFits fn.toNat f (capType cap u.f.et) (myLaunch s).vregs = true
  room : ((myTask s).queue 0).length < 32

/-- Matrix commands (R320). -/
def isMatrix : Instr → Bool
  | .mclaim _ | .mrel _ | .mstat _ | .mgo _ _ | .mtile _ _ | .mzero _ | .mdrain _ _ | .mldacc _ _ | .mspgo _ _ => true
  | _ => false

/-- Copy and gather commands that read no descriptor (R340). -/
def isCopy : Instr → Bool
  | .cpy _ _ | .cpy2d _ _ | .cpyslot _ | .cpyslotClaim _ | .cpyslotOut _ | .fill _ | .flush _ _ => true
  | _ => false

/-- Gather commands, with the register of the descriptor (R347). -/
def gatherTable : Instr → Option (Reg × Reg)
  | .grow _ f | .gbag _ _ f | .gscat _ f => some (f.a, f.b)
  | _ => none

/-- The entry a matrix command takes its format from: MF or FN 15 (R54). -/
def matrixTaken (s : State) (i : Instr) : Option Word :=
  match matFn i with
  | some fn => if fn % 16 = 15 then some (tableEntry s) else none
  | none => none

/-- The shadow table of the bank's engine. -/
def tableOf (s : State) (i : Instr) : SMap (BitVec 32) :=
  if (matEngine i).2 = 0 then (myTask s).eng.table0 else (myTask s).eng.table1

/-- What a matrix command captures (R305, R320). -/
def matrixCaptured (s : State) (i : Instr) (steered : Bool) : Captured :=
  { a := operandG s (matRegs i).1, b := operandG s (matRegs i).2, ft := matrixTaken s i,
    table := if usesTable i (matrixTaken s i) then tableOf s i else [],
    anchor := (myTask s).vec.xwanchor.setWidth 8, srseed := (myTask s).vec.srseed, phase := (myLaunch s).phase,
    seq := (me s).seq, vctl := (myTask s).eng.mesteer, her := (regs s).her, after := (me s).outs.map (·.id), steered }

/-- The checks of a matrix push but for the dispatch (R55, R302, R320). -/
def matrixPushOk (s : State) (i : Instr) : Prop :=
  ∀ e, matrixTaken s i = some e → entryOk i e = true ∧ bitsOf e.toNat 25 39 = 0 ∧ pairOk i e = true

/-- What a copy or gather command captures (R340, R341). -/
def copyCaptured (s : State) (i : Instr) (desc : Nat) : Captured :=
  let g := fun n => operandG s ((copyRegs i).getD n none)
  { a := g 0, b := g 1, c := g 2, c1 := g 3, c2 := g 4, desc, her := (regs s).her, seq := (me s).seq,
    after := (me s).outs.map (·.id) }

/-- The registers an XE command reads: A, B, C and C + 1; XRED reads no B with NORX (R377, R380). -/
def collectiveTable (s : State) : Instr → Option (Option Reg × Option Reg × Option Reg × Option Reg)
  | .xstep f => some (some f.a, none, none, none)
  | .xsend f | .xrecv f => some (some f.a, some f.b, some f.c, none)
  | .xred f => some (some f.a, if ((regs s).gr f.c.toNat).getLsbD 47 then none else some f.b, some f.c, some (f.c + 1))
  | _ => none

/-- The registers an instruction passes out of the register file, in the order it reads them (R183): addresses, store data,
compared, counted and forked values, operands of commands; the base of LDS is the one exception. -/
def passedOut (s : State) (i : Instr) : List Reg :=
  match i with
  | .lds _ _ _ _ => []
  | .cas _ d a b => [a, b, d]
  | .amox f => [f.a, f.b]
  | .ldfe _ a _ | .ldff _ a _ | .sete a | .setf a | .feq _ a => [a]
  | .stef d a _ | .stfl d a _ | .ssigRemote d a => [a, d]
  | .swait _ a _ | .ssig a _ | .sset _ a _ | .csrw _ a _ | .csrs _ a _ | .csrc _ a _ | .loops _ a _ | .jalr _ a _ => [a]
  | .sfork _ a b | .tinvPage a b => [a, b]
  | .launch a | .bar a | .bara a | .barw a | .logm a | .monset _ a | .monref _ a | .monrd _ a | .tinvFunction a => [a]
  | .vshape f | .ftld f => [f.va.setWidth 6]
  | .mcfg f => [f.a]
  | i =>
    (loadTable i).elim [] (fun x => [x.2.1]) ++ (storeTable i).elim [] (fun x => [x.2.1, x.1])
      ++ (atomicTable i).elim [] (fun x => [x.2.1, x.2.2.1]) ++ (amorTable i).elim [] (fun x => [x.2.a, x.2.b, x.2.k, x.2.n])
      ++ (cmpTable i).elim [] (fun x => x.2.1 :: operandRegs x.2.2.1)
      ++ (vectorTable i).elim [] (fun x => x.1.toList ++ x.2.1.toList)
      ++ (vectorMemoryTable i).elim [] (fun x => x.1.a :: if x.2 then [x.1.b] else [])
      ++ (collectiveTable s i).elim [] (fun x => x.1.toList ++ x.2.1.toList ++ x.2.2.1.toList ++ x.2.2.2.toList)
      ++ (gatherTable i).elim [] (fun x => [x.1, x.2])
      ++ (if isMatrix i then (matRegs i).1.toList ++ (matRegs i).2.toList else [])
      ++ (if isCopy i then (copyRegs i).filterMap id else [])

/-- An instruction of the strand goes on to the next behind it, or ends a loop (R215): one of the ALU, MULDIV or BITS groups
or with an immediate, a load or store of the own scratchpad, a push of a vector instruction or of a copy command. -/
inductive FallsOn (s : State) : Instr → Prop where
  | nop : FallsOn s .nop
  | two (i d a b f) : alu2 i = some (d, a, b, f) → Ready s [d, a, b] → Clean s [a, b] → FallsOn s i
  | one (i d a f) : alu1 i = some (d, a, f) → Ready s [d, a] → Clean s [a] → FallsOn s i
  | load (i d a oc n sg ea) : loadTable i = some (d, a, oc, n, sg, ea) → Ready s [d, a] → Clean s [a] → FreeLaunch s →
      Quiet s → s.sel.lazy = false → (ea ((regs s).gr a.toNat)).toNat % n = 0 → OwnBytes s (ea ((regs s).gr a.toNat)) n →
      OwnSound s (ea ((regs s).gr a.toNat)) n → FallsOn s i
  | store (i d a oc n ea) : storeTable i = some (d, a, oc, n, ea) → Ready s [d, a] → Clean s [a, d] → FreeLaunch s →
      Quiet s → s.sel.lazy = false → (ea ((regs s).gr a.toNat)).toNat % n = 0 → OwnBytes s (ea ((regs s).gr a.toNat)) n →
      FallsOn s i
  | vector (i ga gb gd u) : vectorTable i = some (ga, gb, gd) → vuse i = some u → FreeLaunch s →
      Ready s (ga.toList ++ gb.toList ++ gd.toList) → Clean s (ga.toList ++ gb.toList) →
      PushOk s i u (vectorCaptured s (operandG s ga) (operandG s gb) (formatTaken s u) none) → FallsOn s i
  | copy (i) : isCopy i = true → (∀ f, i ≠ .cpyslotOut f) → FreeLaunch s → Ready s ((copyRegs i).filterMap id) →
      Clean s ((copyRegs i).filterMap id) → ((myTask s).queue (copyQueue i)).length < 64 → FallsOn s i

/-! ### Worked floating-point elements (R34 to R37) -/

/-- One element of an instruction on 4-byte elements: operands of VA, VB and VD, the modes, the result and its flags. -/
structure FloatCase where
  op : Nat
  a : Nat
  b : Nat
  d : Nat
  rm : Nat
  sat : Bool
  et : Nat
  result : Nat
  flags : Nat

/-- The instruction of a case: VADD, VSUB, VMUL, VFMA, and VCVT from FP32 and from INT32. -/
def floatInstr (n : Nat) (f : V3) : Instr :=
  match n with
  | 0 => .vadd f
  | 1 => .vsub f
  | 2 => .vmul f
  | 3 => .vfma f
  | 4 => .vcvt 8 f
  | _ => .vcvt 3 f

/-- Sums of FP32 (type code 8), worked from R34 to R36: 1 + 2^−24 halfway between two values, its negative, the largest finite
number doubled, 1 − 1, −0 + −0, and ∞ − ∞. -/
def sumCases : List FloatCase :=
  let add := fun (a b rm : Nat) (sat : Bool) (r fl : Nat) => ({ op := 0, a, b, d := 0, rm, sat, et := 8, result := r, flags := fl } : FloatCase)
  [add 0x3F800000 0x33800000 0 false 0x3F800000 16, add 0x3F800000 0x33800000 1 false 0x3F800000 16,
   add 0x3F800000 0x33800000 2 false 0x3F800000 16, add 0x3F800000 0x33800000 3 false 0x3F800001 16,
   add 0x3F800000 0x33800000 4 false 0x3F800001 16, add 0xBF800000 0xB3800000 2 false 0xBF800001 16,
   add 0xBF800000 0xB3800000 3 false 0xBF800000 16, add 0x7F7FFFFF 0x7F7FFFFF 0 false 0x7F800000 20,
   add 0x7F7FFFFF 0x7F7FFFFF 0 true 0x7F7FFFFF 20, add 0x7F7FFFFF 0x7F7FFFFF 1 false 0x7F7FFFFF 20,
   add 0x7F7FFFFF 0x7F7FFFFF 2 false 0x7F7FFFFF 20, add 0x7F7FFFFF 0x7F7FFFFF 3 false 0x7F800000 20,
   add 0x3F800000 0xBF800000 0 false 0 0, add 0x3F800000 0xBF800000 2 false 0x80000000 0,
   add 0x80000000 0x80000000 0 false 0x80000000 0, add 0x7F800000 0xFF800000 0 false 0x7FC00000 1]

/-- Products, a fused product whose low bits survive, and conversions: 0 × ∞, 1.5 × 1.5, a zero's sign, an underflow; 2.5 and
−2.5 to INT32, 3 × 10^9 and a NaN beyond its range, and 2^24 + 1 to FP32. -/
def otherCases : List FloatCase :=
  [{ op := 1, a := 0x40400000, b := 0x3F800000, d := 0, rm := 0, sat := false, et := 8, result := 0x40000000, flags := 0 },
   { op := 2, a := 0, b := 0x7F800000, d := 0, rm := 0, sat := false, et := 8, result := 0x7FC00000, flags := 1 },
   { op := 2, a := 0x3FC00000, b := 0x3FC00000, d := 0, rm := 0, sat := false, et := 8, result := 0x40100000, flags := 0 },
   { op := 2, a := 0x80000000, b := 0x3F800000, d := 0, rm := 0, sat := false, et := 8, result := 0x80000000, flags := 0 },
   { op := 2, a := 0x00800000, b := 0x3F000001, d := 0, rm := 0, sat := false, et := 8, result := 0x00400000, flags := 24 },
   { op := 2, a := 0x00800000, b := 0x3F000001, d := 0, rm := 3, sat := false, et := 8, result := 0x00400001, flags := 24 },
   { op := 3, a := 0x3F800001, b := 0x3F800001, d := 0xBF800002, rm := 0, sat := false, et := 8, result := 0x28800000, flags := 0 },
   { op := 4, a := 0x40200000, b := 0, d := 0, rm := 0, sat := false, et := 3, result := 2, flags := 16 },
   { op := 4, a := 0x40200000, b := 0, d := 0, rm := 1, sat := false, et := 3, result := 2, flags := 16 },
   { op := 4, a := 0x40200000, b := 0, d := 0, rm := 3, sat := false, et := 3, result := 3, flags := 16 },
   { op := 4, a := 0x40200000, b := 0, d := 0, rm := 4, sat := false, et := 3, result := 3, flags := 16 },
   { op := 4, a := 0xC0200000, b := 0, d := 0, rm := 2, sat := false, et := 3, result := 0xFFFFFFFD, flags := 16 },
   { op := 4, a := 0x4F32D05E, b := 0, d := 0, rm := 0, sat := false, et := 3, result := 0x7FFFFFFF, flags := 1 },
   { op := 4, a := 0x7FC00000, b := 0, d := 0, rm := 0, sat := false, et := 3, result := 0, flags := 1 },
   { op := 5, a := 0x01000001, b := 0, d := 0, rm := 0, sat := false, et := 8, result := 0x4B800000, flags := 16 },
   { op := 5, a := 0x01000001, b := 0, d := 0, rm := 3, sat := false, et := 8, result := 0x4B800001, flags := 16 }]

/-! ### Engines at work (R18, R249, R265, R320, R340, R377) -/

/-- The vector engine may start an instruction of a free launch, and `e` is the next (R163, R175, R249). -/
structure NextVector (s : State) (e : Entry) : Prop where
  task : s.hasTask s.sel.task = true
  may : mayStart (myTask s) = true
  free : (myLaunch s).det = false
  next : nextVector (myTask s) = some e

/-- What a computing instruction that is neither a sweep nor under a nest reads. -/
def vectorReads (x : Task) (e : Entry) : VIn :=
  let f := (v3Of e.cmd).1
  { d := x.vreg f.vd.toNat, a := x.vreg f.va.toNat, b := x.vreg f.vb.toNat, ga := e.cap.a, gb := e.cap.b,
    md := x.mreg (f.vd.toNat % 16), ma := x.mreg (f.va.toNat % 16), mb := x.mreg (f.vb.toNat % 16),
    lit := (v3Of e.cmd).2 }

/-- Element-wise instructions and their exact integer functions of VA, VB and VD (R268, R23). -/
def integerTable : Instr → Option (V3 × (Int → Int → Int → Int))
  | .vadd f => some (f, fun a b _ => a + b)
  | .vsub f => some (f, fun a b _ => a - b)
  | .vmul f => some (f, fun a b _ => a * b)
  | .vfma f => some (f, fun a b d => a * b + d)
  | .vfms f => some (f, fun a b d => d - a * b)
  | .vmin f => some (f, fun a b _ => min a b)
  | .vmax f => some (f, fun a b _ => max a b)
  | .vabs f => some (f, fun a _ _ => if a < 0 then -a else a)
  | .vneg f => some (f, fun a _ _ => -a)
  | _ => none

/-- Compares and their conditions on integers (R273). -/
def integerCompare : Instr → Option (V3 × (Int → Int → Bool))
  | .vcmpEq f => some (f, fun a b => decide (a = b))
  | .vcmpNe f => some (f, fun a b => decide (a ≠ b))
  | .vcmpLt f => some (f, fun a b => decide (a < b))
  | .vcmpLe f => some (f, fun a b => decide (a ≤ b))
  | .vcmpGt f => some (f, fun a b => decide (b < a))
  | .vcmpGe f => some (f, fun a b => decide (b ≤ a))
  | _ => none

/-- The task stands on a core, `e` is at the head of the queue the step names, and an engine may start it. -/
structure Head (s : State) (q : Nat) (e : Entry) : Prop where
  task : s.hasTask s.sel.task = true
  may : mayStart (myTask s) = true
  head : ((myTask s).queue q).head? = some e
  queue : s.sel.queue = q

/-- A head that has not begun. -/
structure Fresh (e : Entry) : Prop where
  started : e.started = false
  finished : e.finished = false
  uses : e.uses = []
  progress : e.progress = 0
  wait : e.wait = none
  err : e.err = false
  skip : e.skip = false

/-- The head waits for nothing more: WT is taken or none, and the strand's accesses before the push have performed. -/
structure Goes (s : State) (e : Entry) : Prop where
  taken : e.tookWt = true ∨ (linkOf e.cmd).wt = 0
  released : pushReleased (myTask s) e = true

/-- `t` is `u` with the head of a queue completed: it is gone, SI is added to SS with E, every IDLE of the task ends
(R18, R65, R243). -/
structure HeadDone (u t : State) (q : Nat) (e : Entry) (err : Bool) : Prop where
  outside : OutsideKept u t
  others : OthersKept u t
  task : myTask t = { myTask u with
    queues := (myTask t).queues, sems := (myTask t).sems, strands := (myTask t).strands }
  queue : ∀ n, (myTask t).queue n = if n = q then ((myTask u).queue q).drop 1 else (myTask u).queue n
  signal : ∀ n, (myTask t).sem n = if (linkOf e.cmd).si ≠ 0 ∧ n = (linkOf e.cmd).ss then
    ((myTask u).sem n).add (linkOf e.cmd).si err else (myTask u).sem n
  strands : ∀ k, (myTask t).strand k = { (myTask u).strand k with idle := none }

/-- `t` is `u` with another entry at the head of a queue. -/
structure HeadNow (u t : State) (q : Nat) (e : Entry) : Prop where
  outside : OutsideKept u t
  others : OthersKept u t
  task : myTask t = { myTask u with queues := (myTask t).queues }
  queue : ∀ n, (myTask t).queue n = if n = q then e :: ((myTask u).queue q).drop 1 else (myTask u).queue n

/-- A slot after a tile step whose uses are over within it: released when the step said so, else as it was (R300). -/
def slotAfter (x : Slot) (release : Bool) : Slot :=
  if release then (if x.rc = 0 then { x with state := 0, rc := 0, taint := false } else { x with state := 3 }) else x

/-- A task after a tile step of unblocked formats: slots a and b added to a bank, or in exact-window mode to its pair (R42,
R46). -/
def tiled (x : Task) (e : Entry) (mf : Nat) (xw : Bool) (bank a b : Nat) : Task :=
  if xw then setPair x bank ((tilePair mf x bank (matAnchor e) (x.slot a).bytes (x.slot b).bytes {}).map (fun r => (r.1, r.2.1))) false
  else x.setBank bank { acc := (tileBank mf (x.bank bank) (x.slot a).bytes (x.slot b).bytes {}).1, taint := false }

/-- Slots that a tile step can read, and banks it adds to, hold no lost data (R315). -/
def TileSound (x : Task) (xw : Bool) (bank a b : Nat) : Prop :=
  (x.slot a).state = 2 ∧ (x.slot b).state = 2 ∧ (x.slot a).taint = false ∧ (x.slot b).taint = false
    ∧ ∀ n ∈ bankSet bank xw, (x.bank n).taint = false

/-- The number of a byte at an address of the repeated eight bytes of FILL (R345). -/
def fillByte (v : Word) (a : Nat) : Byte := BitVec.ofNat 8 (v.toNat / 256 ^ (a % 8))

/-! ### Messages (R104, R123, R365 to R369) -/

/-- The message the step names has arrived at its destination on a channel, may be taken there in its order, and comes from
one requester (R107, R124, R365). -/
structure Arrived (s : State) (m : Msg) (chan : Nat) : Prop where
  found : SMap.find s.sel.msg s.net = some m
  chan : m.chan = chan
  order : deliverable s m = true
  single : ∀ ids, m.req ≠ .list ids
  alone : s.sel.merge = none

/-- The home of a request is where the message names it, its requester's launch is free and unlogged, and what it reads is
sound. -/
structure AtHome (s : State) (m : Msg) : Prop where
  there : movedAway s m = false
  exists_ : homeGone s m.acc.home = false
  free : (s.launchOf m.acc.who.task).det = false
  unlogged : (s.launchOf m.acc.who.task).log = false
  sound : homeBad s m.acc.home m.acc.addr m.acc.size = false

/-- `t` is `u` with the message taken and its reply on the way back (R365). -/
structure Answered (u t : State) (id : Nat) (m : Msg) (r : Reply) : Prop where
  reply : ∃ n, SMap.find u.nextMsg t.net = some n ∧ n.chan = 2 ∧ n.reply = some r ∧ n.req = m.req ∧ n.acc = m.acc
    ∧ n.dstStation = m.srcStation ∧ n.srcStation = homeStation u m.acc.home
  rest : ∀ j, j ≠ u.nextMsg → SMap.find j t.net = if j = id then none else SMap.find j u.net
  number : t.nextMsg = u.nextMsg + 1
  outside : t = { u with net := t.net, nextMsg := t.nextMsg, entered := t.entered }

/-- `t` is `u` but for the network, where the message named is another or gone. -/
structure Changed (u t : State) (id : Nat) (m : Option Msg) : Prop where
  named : SMap.find id t.net = m
  rest : ∀ j, j ≠ id → SMap.find j t.net = SMap.find j u.net
  outside : t = { u with net := t.net, entered := t.entered }

/-- A store has performed at its home; what it overwrote of a page the launch fetches from may still be fetched (R57, R104). -/
def stored (s : State) (a : Acc) (bs : List (Option Byte)) : State := noteCode s (doStore s a bs) a

/-- The step that takes a request of an operation at its home (R366). -/
def requestStep (op : AccOp) : Option Instr :=
  match op with
  | .load => some .requestRead
  | .store _ => some .requestWrite
  | .atomic _ _ => some .requestAtomic
  | .cas _ _ => some .requestAtomic
  | .amox _ _ => some .requestAtomic
  | .amor _ _ _ _ _ => some .amorContribution
  | .signal _ _ => some .semaphoreSignal
  | .fe _ _ => some .fullEmptyRequest
  | _ => none

/-- An atomic has performed at its home with a new value. -/
def updated (s : State) (a : Acc) (v : Nat) : State := noteCode s (doAtomic s a a.size v) a

/-- Nothing keeps a message from its next hop, in the ring slot `slot`: the slot is free where it takes one, and at the end of
a ring no older message of its pair and no refused one comes before it, and the station has an entry free if it must forward
it (R124, R364, R367, R369). -/
def HopFree (s : State) (id : Nat) (m : Msg) (slot : Nat) : Prop :=
  (m.slot = none → slotTaken s id m (hopOf s m) slot = false)
    ∧ (endsRing (podModules s) (hopOf s m) m.dstStation = true →
        pairAhead s m = false ∧ (m.chan ≤ 1 → refusedAhead s id m (hopOf s m).next = false ∧ noEntry s m (hopOf s m).next = false))

/-- The outstanding access of a strand that a response answers. -/
structure Answers (s : State) (m : Msg) (r : Reply) (p : Party) (o : Outstanding) : Prop where
  found : SMap.find s.sel.msg s.net = some m
  chan : m.chan = 2
  reply : m.reply = some r
  order : deliverable s m = true
  req : m.req = .acc p o.id
  strand : p.queue = none
  task : s.hasTask p.task = true
  first : (s.strand p.task p.strand).outs.find? (fun x => x.id == o.id) = some o

/-- The strand's outstanding accesses without one. -/
def outsWithout (s : State) (p : Party) (o : Outstanding) : List Outstanding :=
  (s.strand p.task p.strand).outs.filter (fun x => x.id != o.id)

/-! ### Host queues (R417 to R430) -/

/-- The queue the step names. -/
def namedQueue (s : State) : Nat := 16 * s.sel.fn + s.sel.queue

/-- A well-formed packet of a TYPE stands at QRDIX of a queue that takes packets and whose turn it is (R418, R420, R424,
R425). -/
structure PacketAt (s : State) (k type p : Nat) : Prop where
  fetches : mayFetch s k = true
  turn : queueTurn s k = true
  read : readPacket s k = some p
  wellFormed : malformed p = false
  type : packetType p = type

/-- The packet at QRDIX is finished with (R425): its V is written 0, its function's writes have reached the host, QRDIX
moves on; the tasks and the launches are as before. -/
structure PacketDone (u t : State) (k p : Nat) : Prop where
  written : ∃ v, directWrite u (k / 16) (packetAddr (u.hostQueue k) (u.hostQueue k).rdix) true
    (bytesOf (p % 2 ^ 32 - 1) 4) = .ok v ∧ t.mem = v.mem
  drained : ∀ e ∈ t.toHost, e.1 ≠ k / 16
  queue : t.hostQueue k = { u.hostQueue k with rdix := ((u.hostQueue k).rdix + 1) % 2 ^ 32, busy := none }
  others : ∀ j, j ≠ k → SMap.find j t.queues = SMap.find j u.queues
  outside : t = { u with mem := t.mem, toHost := t.toHost, hostView := t.hostView, queues := t.queues }

/-- The packet's first word can be written. -/
def PacketWritable (u : State) (k p : Nat) : Prop :=
  ∃ v, directWrite u (k / 16) (packetAddr (u.hostQueue k) (u.hostQueue k).rdix) true (bytesOf (p % 2 ^ 32 - 1) 4) = .ok v

/-- The queue stops at its packet with a CODE (R418): FAIL, IDX and STOPPED are set, QRDIX stands, the event is raised. -/
structure QueueStops (s t : State) (k code idx : Nat) : Prop where
  queue : t.hostQueue k = { s.hostQueue k with qstat := w64 (code + 256 + 2 ^ 32 * (idx % 2 ^ 32)), stopped := true }
  others : ∀ j, j ≠ k → SMap.find j t.queues = SMap.find j s.queues
  event : (t.function (k / 16)).fevent.getLsbD 3 = true
  outside : t = { s with queues := t.queues, functions := t.functions, msix := t.msix, toHost := t.toHost,
                         hostView := t.hostView }

/-- QSTAT after work with a status and an index completes (R417, R430). -/
def eventWord (old : Word) (status idx : Nat) : Word :=
  w64 (status + 256 * b2n (old.getLsbD 8 || status != 0) + 2 ^ 32 * (idx % 2 ^ 32))

/-- DONE after work completes (R145): one less, and bit 63 for a status other than OK. -/
def doneAfter (status v : Nat) : Nat :=
  let w := (v + 2 ^ 64 - 1) % 2 ^ 64
  if status = 0 then w else w ||| 2 ^ 63

/-- A launch of one task, accepted (R143, R147, R160): the launch has its number, the task waits at code with one strand. -/
structure AcceptedOne (s t : State) (key die : Nat) (l : Launch) : Prop where
  launch : SMap.find key t.launches = some { l with
    phaseOf := .accepted, launchId := (s.function l.fn).launchCount, ownerTag := l.serial % 65535 + 1, phase := 0,
    pages := [] }
  count : (t.function l.fn).launchCount = (s.function l.fn).launchCount + 1
  task : ∃ e x, SMap.find s.nextTask t.tasks = some x ∧ freeEntry (s.die die) = some e
    ∧ SMap.find e (t.die die).remap = some s.nextTask ∧ x.launch = key ∧ x.die = die ∧ x.entry = e ∧ x.lx = 0 ∧ x.ly = 0
    ∧ x.place = .ready ∧ x.placed = false ∧ x.spad = [] ∧ x.full = [] ∧ (∀ n, x.sem n = {})
    ∧ (∀ k, (x.strand k).live = decide (k = 0)) ∧ (x.strand 0).r.pc = l.code
    ∧ (∀ n, (x.strand 0).r.gr n = if n = 1 then l.args else 0)
  number : t.nextTask = s.nextTask + 1
  others : ∀ j, j ≠ s.nextTask → SMap.find j t.tasks = SMap.find j s.tasks

/-- A 64-bit write of a BAR 0 register at an offset by the function the step names (R414), outside resets and recovery. -/
structure RegisterWrite (s : State) (off : Nat) : Prop where
  aligned : off % 8 = 0
  addr : s.sel.addr = off
  size : s.sel.size = 8
  open1 : s.service.resetting = false
  open2 : s.service.recovery = false

/-! ### The signal box (R157 to R163) -/

/-- A core may hold the task: it serves, has the scratchpad the task needs, and has an engine for each of its matrix entries
(R148, R310). -/
def CoreFor (s : State) (die : Nat) (x : Task) (c : Nat) : Prop :=
  coreServes ((s.die die).core c) = true ∧ needBytes s x ≤ usableBytes ((s.die die).core c)
    ∧ coreFits ((s.die die).core c) x = true

/-- The lowest free core of the die that may hold the task (R148, R159, R160). -/
def TakesCore (s : State) (die : Nat) (x : Task) (c : Nat) : Prop :=
  c < 36 ∧ ∀ n, n ≤ c → ((CoreFor s die x n ∧ coreBusy s die n = false) ↔ n = c)

/-- A task that the die could place now (R159). -/
def Candidate (s : State) (die k : Nat) (x : Task) : Prop :=
  (k, x) ∈ s.tasks ∧ x.die = die ∧ waitsForCore x = true ∧ slogRoom s die x.launch = true
    ∧ ∃ c, TakesCore s die x c

/-- The level at which a task waits or runs (R157, R158). -/
def levelOf (s : State) (x : Task) : Nat := effLevel s x.die (s.launch x.launch)

/-- `t` is `s` with one task changed. -/
structure TaskNow (s t : State) (k : Nat) (x : Task) : Prop where
  task : SMap.find k t.tasks = some x
  others : ∀ j, j ≠ k → SMap.find j t.tasks = SMap.find j s.tasks
  outside : t = { s with tasks := t.tasks, dies := t.dies }

end Sys2Proof.Machine
end

