-- ==== Sys2Proof/Certificates/Slice0/Obligations.lean ====
section
/-!
DEFINITION. The statements for the provers.
-/
open Sys2Proof Sys2Proof.Machine

/-! ### The scalar groups -/

/-- R201, R202 with R24, R62, R182: an instruction of the ALU or MULDIV group whose sources are clean goes on, with the
tabled function of its sources in g[D], which g0 discards, and nothing else changed. Completes: every form of `alu2`. -/
def Obligations.TwoSourceResult : Prop :=
  ∀ (i : Instr) (d a b : Reg) (f : Word → Word → Word) (s : State),
    alu2 i = some (d, a, b, f) → Runs s → Ready s [d, a, b] → Clean s [a, b] →
    ∃ t, exec i s = .next t
      ∧ WritesG s t d (f ((regs s).gr a.toNat) ((regs s).gr b.toNat))
      ∧ KeepsPreds s t ∧ FallsThrough s t 1 ∧ RegsOnly s t ∧ MemoryKept s t

/-- R203 to R206: with a clean source, an instruction of the BITS group, the immediate forms and ADDIL write their tabled
function of it to g[D] and change nothing else; CLZ, CTZ and POPC count bits above the highest set bit, below the lowest,
and set bits; LI writes the sign-extended literal, LIH bits 63:32 of a register whose bits 31:0 it keeps; the words of ADDI
to XORI. Completes: every form of `alu1`, LI and LIH. -/
def Obligations.OneSourceResult : Prop :=
  (∀ (i : Instr) (d a : Reg) (f : Word → Word) (s : State),
     alu1 i = some (d, a, f) → Runs s → Ready s [d, a] → Clean s [a] →
     ∃ t, exec i s = .next t
       ∧ WritesG s t d (f ((regs s).gr a.toNat))
       ∧ KeepsPreds s t ∧ FallsThrough s t (parcels i) ∧ RegsOnly s t ∧ MemoryKept s t)
  ∧ (∀ x : Word,
     (countLz x).toNat = ((List.range 64).find? (fun i => x.getLsbD (63 - i))).getD 64
       ∧ (countTz x).toNat = ((List.range 64).find? (fun i => x.getLsbD i)).getD 64
       ∧ (countOnes x).toNat = ((List.range 64).filter (fun i => x.getLsbD i)).length)
  ∧ (∀ (d : Reg) (lit : BitVec 32) (s : State), Runs s → Ready s [d] →
     (∃ t, exec (.li d lit) s = .next t ∧ WritesG s t d (lit.signExtend 64)
       ∧ KeepsPreds s t ∧ FallsThrough s t 3 ∧ RegsOnly s t ∧ MemoryKept s t)
     ∧ (∃ t, exec (.lih d lit) s = .next t
       ∧ WritesG s t d (BitVec.ofNat 64 (((regs s).gr d.toNat).toNat % 2 ^ 32 + 2 ^ 32 * lit.toNat))
       ∧ KeepsPreds s t ∧ FallsThrough s t 3 ∧ RegsOnly s t ∧ MemoryKept s t))
  ∧ (∀ (d a : Reg) (imm : BitVec 12), let w := 2 ^ 8 * d.toNat + 2 ^ 14 * a.toNat + 2 ^ 20 * imm.toNat
     encode (.addi d a imm) = 4 * 0x04 + w ∧ encode (.andi d a imm) = 4 * 0x05 + w
       ∧ encode (.ori d a imm) = 4 * 0x06 + w ∧ encode (.xori d a imm) = 4 * 0x07 + w)

/-- R182, R183, R221: with a poisoned source, the first poisoned source passes its value and cause on to g[D], in the ALU,
MULDIV and BITS groups, the immediate forms, ADDIL and SEL. LDS of a free launch copies the poison of its base, and defers
MISALIGNED, what translation and the scratchpad's range fault with, an uncorrectable word of the own scratchpad, and a home
or page it may not read, into poison with its address. An instruction that passes a poisoned register out of the register
file, and every operand of an engine command, traps POISON_ESCAPE with the number of the first, memory and network as they
were. -/
def Obligations.PoisonPassesOn : Prop :=
  (∀ (i : Instr) (d : Reg) (srcs : List Reg) (r : Reg) (s : State),
    ((∃ a b f, alu2 i = some (d, a, b, f) ∧ srcs = [a, b]) ∨ (∃ a f, alu1 i = some (d, a, f) ∧ srcs = [a])
      ∨ (∃ p a b, i = .sel p d a b ∧ srcs = [a, b])) →
    Runs s → Ready s (d :: srcs) → Sound s srcs → srcs.find? (fun r => (regs s).poisonOf r.toNat != 0) = some r →
    ∃ t, exec i s = .next t ∧ WritesPoison s t d ((regs s).gr r.toNat) ((regs s).poisonOf r.toNat)
      ∧ KeepsPreds s t ∧ RegsOnly s t ∧ MemoryKept s t)
  ∧ (∀ (d a : Reg) (oc : BitVec 4) (disp : BitVec 8) (s : State), Runs s → Ready s [d, a] → Sound s [a] → FreeLaunch s →
    let base := (regs s).gr a.toNat
    let va := base + disp.signExtend 64 * 8
    let place := placeOf s s.sel.task (regs s).her false (me s).walkFault va 8 .read
    let deferred := fun (v : Word) (cause : Nat) => ∃ t, exec (.lds d a oc disp) s = .next t
      ∧ WritesPoison s t d v cause ∧ KeepsPreds s t ∧ FallsThrough s t 1 ∧ RegsOnly s t ∧ MemoryKept s t
    ((regs s).poisonOf a.toNat ≠ 0 → deferred base ((regs s).poisonOf a.toNat))
    ∧ (Clean s [a] → va.toNat % 8 ≠ 0 → deferred va 6)
    ∧ (Clean s [a] → va.toNat % 8 = 0 → ∀ tr, place = .error (.trap tr) → tr.cause = 7 ∨ tr.cause = 8 ∨ tr.cause = 9 →
        deferred va tr.cause)
    ∧ (Clean s [a] → va.toNat % 8 = 0 → ∀ p, place = .ok p →
        ((∃ j, p.home = .host j) ∨ (∃ j, p.home = .window j) ∨ p.tso = true ∨ p.log = true) → deferred va 10)
    ∧ (Clean s [a] → va.toNat % 8 = 0 → Quiet s → s.sel.lazy = false → OwnBytes s va 8 →
        va.toNat / 8 ∈ (myTask s).badWords → deferred va 19))
  ∧ (∀ (i : Instr) (r : Reg) (s : State), Runs s → (regs s).hnd = false → (regs s).her = false → FreeLaunch s →
    (me s).notReady = [] → Sound s (passedOut s i) →
    (passedOut s i).find? (fun r => (regs s).poisonOf r.toNat != 0) = some r →
    ∃ t, exec i s = .next t ∧ TrapHeld s t 11 (r.setWidth 64) false (parcels i)
      ∧ (myTask t).spad = (myTask s).spad ∧ t.net = s.net)

/-- R207 to R210, R62: CMP and CMPI with clean sources set p[D] to the condition, PLOG sets it from p[A] and p[B], p0 stays
true; SEL of clean sources takes the one its predicate names. -/
def Obligations.PredicateResult : Prop :=
  (∀ (i : Instr) (p : BitVec 4) (a : Reg) (b : Reg ⊕ Word) (f : Word → Word → Bool) (s : State),
     cmpTable i = some (p, a, b, f) → Runs s → Ready s (a :: operandRegs b) → Clean s (a :: operandRegs b) →
     ∃ t, exec i s = .next t
       ∧ WritesP s t p (f ((regs s).gr a.toNat) (operandValue s b))
       ∧ KeepsG s t ∧ FallsThrough s t 1 ∧ RegsOnly s t ∧ MemoryKept s t)
  ∧ (∀ (i : Instr) (d a b : BitVec 4) (f : Bool → Bool → Bool) (s : State),
     plog i = some (d, a, b, f) → Runs s →
     ∃ t, exec i s = .next t
       ∧ WritesP s t d (f ((regs s).pred a.toNat) ((regs s).pred b.toNat))
       ∧ KeepsG s t ∧ FallsThrough s t 1 ∧ RegsOnly s t ∧ MemoryKept s t)
  ∧ (∀ (p : BitVec 4) (d a b : Reg) (s : State), Runs s → Ready s [d, a, b] → Clean s [a, b] →
     ∃ t, exec (.sel p d a b) s = .next t
       ∧ WritesG s t d (if (regs s).pred p.toNat then (regs s).gr a.toNat else (regs s).gr b.toNat)
       ∧ KeepsPreds s t ∧ FallsThrough s t 1 ∧ RegsOnly s t ∧ MemoryKept s t)

/-- R211 to R213: where B, BL and JALR go and what they write; JALR computes its target from the old g[A], a target that is
not a multiple of 4 traps MISALIGNED and a poisoned base POISON_ESCAPE, with g[D] as it was; the words of BL and JALR. -/
def Obligations.BranchResult : Prop :=
  (∀ (p : BitVec 4) (neg : Bool) (disp : BitVec 19) (s : State), Runs s →
    ∃ t, exec (.b p neg disp) s = .next t ∧ KeepsG s t ∧ KeepsPreds s t ∧ RegsOnly s t ∧ MemoryKept s t
      ∧ (Bool.xor ((regs s).pred p.toNat) neg = true →
          pcOf t = pcOf s + 4 * disp.signExtend 64 ∧ (myTask t).loops = (myTask s).loops)
      ∧ (Bool.xor ((regs s).pred p.toNat) neg = false → FallsThrough s t 1))
  ∧ (∀ (d : Reg) (disp : BitVec 18) (s : State), Runs s → Ready s [d] →
    ∃ t, exec (.bl d disp) s = .next t ∧ WritesG s t d (pcOf s + 4) ∧ KeepsPreds s t ∧ RegsOnly s t ∧ MemoryKept s t
      ∧ pcOf t = pcOf s + 4 * disp.signExtend 64)
  ∧ (∀ (d a : Reg) (imm : BitVec 12) (s : State), Runs s → Ready s [d, a] → Clean s [a] →
    ((regs s).gr a.toNat + imm.signExtend 64).toNat % 4 = 0 →
    ∃ t, exec (.jalr d a imm) s = .next t ∧ WritesG s t d (pcOf s + 4) ∧ KeepsPreds s t ∧ RegsOnly s t ∧ MemoryKept s t
      ∧ pcOf t = (regs s).gr a.toNat + imm.signExtend 64)
  ∧ (∀ (d a : Reg) (imm : BitVec 12) (s : State), Runs s → Ready s [a] → (regs s).hnd = false → (regs s).her = false →
    (me s).saved = none →
    let target := (regs s).gr a.toNat + imm.signExtend 64
    let kept := fun (t : State) => ∀ n, ((me t).saved.getD (regs t)).gr n = (regs s).gr n
    (Clean s [a] → target.toNat % 4 ≠ 0 →
      ∃ t, exec (.jalr d a imm) s = .next t ∧ TrapHeld s t 6 target false 1 ∧ kept t)
    ∧ (Sound s [a] → (regs s).poisonOf a.toNat ≠ 0 →
      ∃ t, exec (.jalr d a imm) s = .next t ∧ TrapHeld s t 11 (a.setWidth 64) false 1 ∧ kept t))
  ∧ (∀ (d a : Reg) (imm : BitVec 12) (disp : BitVec 18),
    encode (.bl d disp) = 4 * 0x0E + 2 ^ 8 * d.toNat + 2 ^ 14 * disp.toNat
      ∧ encode (.jalr d a imm) = 4 * 0x0F + 2 ^ 8 * d.toNat + 2 ^ 14 * a.toNat + 2 ^ 20 * imm.toNat)

/-! ### Loads, stores and atomics of the own scratchpad -/

/-- R219, R220, R221: a load of the own scratchpad in a free launch writes g[D] with the bytes at its address, extended as
its form says, and changes nothing else. That it performs at issue is the model's reading: log entry 10. Completes: every
form of `loadTable`, LDS and LDDL among them. -/
def Obligations.LoadResult : Prop :=
  ∀ (i : Instr) (d a : Reg) (oc : BitVec 4) (n : Nat) (signed : Bool) (ea : Word → Word) (s : State),
    loadTable i = some (d, a, oc, n, signed, ea) → Runs s → Ready s [d, a] → Clean s [a] → FreeLaunch s → Quiet s →
    s.sel.lazy = false → (ea ((regs s).gr a.toNat)).toNat % n = 0 →
    OwnBytes s (ea ((regs s).gr a.toNat)) n → OwnSound s (ea ((regs s).gr a.toNat)) n →
    ∃ t, exec i s = .next t
      ∧ WritesG s t d (loadedWord (readNat (myTask s).spad (ea ((regs s).gr a.toNat)).toNat n) n signed)
      ∧ KeepsPreds s t ∧ FallsThrough s t (parcels i) ∧ RegsOnly s t ∧ MemoryKept s t

/-- R219, R220: a store to the own scratchpad in a free launch writes its bytes at its address and changes nothing else.
That it performs at issue is the model's reading: log entry 10. Completes: every form of `storeTable`. -/
def Obligations.StoreResult : Prop :=
  ∀ (i : Instr) (d a : Reg) (oc : BitVec 4) (n : Nat) (ea : Word → Word) (s : State),
    storeTable i = some (d, a, oc, n, ea) → Runs s → Ready s [d, a] → Clean s [a, d] → FreeLaunch s → Quiet s →
    s.sel.lazy = false → (ea ((regs s).gr a.toNat)).toNat % n = 0 → OwnBytes s (ea ((regs s).gr a.toNat)) n →
    ∃ t, exec i s = .next t
      ∧ Retired (storeOwn s (ea ((regs s).gr a.toNat)) n ((regs s).gr d.toNat).toNat) t (parcels i)
      ∧ OwnStored s t (ea ((regs s).gr a.toNat)) n ((regs s).gr d.toNat).toNat ∧ KeepsG s t ∧ KeepsPreds s t

/-- R227 to R230: AMO, RED and CAS at the own scratchpad in a free launch: one read and one write, of CAS where the old
value equals g[D]; AMO and CAS return the old value, sign-extended. The new value is that of the function's row of the
table: bit by bit, by order, by rank; FADD32 at worked pairs. That they perform at issue is the model's reading: log entry
10. Completes: every AMO and RED form of `atomicTable`, and CAS. -/
def Obligations.AtomicResult : Prop :=
  (∀ (i : Instr) (d : Option Reg) (a b : Reg) (sz : Bool) (f : AtomFn) (s : State),
     atomicTable i = some (d, a, b, sz, f) → Runs s → Ready s (d.toList ++ [a, b]) → Clean s [a, b] → FreeLaunch s →
     Quiet s → s.sel.lazy = false →
     let n := if sz then 8 else 4
     let va := (regs s).gr a.toNat
     let old := readNat (myTask s).spad va.toNat n
     let new := atomOp f (8 * n) old (((regs s).gr b.toNat).toNat % 2 ^ (8 * n))
     va.toNat % n = 0 → OwnBytes s va n → OwnSound s va n →
     ∃ t, exec i s = .next t
       ∧ Retired (match d with
           | some g => setReg (storeOwn s va n new) g (loadedWord old n true)
           | none => storeOwn s va n new) t 1
       ∧ OwnStored s t va n new ∧ KeepsPreds s t
       ∧ (match d with
           | some g => WritesG s t g (loadedWord old n true)
           | none => KeepsG s t))
  ∧ (∀ (sz : Bool) (d a b : Reg) (s : State), Runs s → Ready s [d, a, b] → Clean s [a, b, d] → FreeLaunch s → Quiet s →
     s.sel.lazy = false →
     let n := if sz then 8 else 4
     let va := (regs s).gr a.toNat
     let old := readNat (myTask s).spad va.toNat n
     va.toNat % n = 0 → OwnBytes s va n → OwnSound s va n →
     ∃ t, exec (.cas sz d a b) s = .next t ∧ WritesG s t d (loadedWord old n true) ∧ KeepsPreds s t
       ∧ (old = ((regs s).gr d.toNat).toNat % 2 ^ (8 * n) →
           Retired (setReg (storeOwn s va n ((regs s).gr b.toNat).toNat) d (loadedWord old n true)) t 1
             ∧ OwnStored s t va n ((regs s).gr b.toNat).toNat)
       ∧ (old ≠ ((regs s).gr d.toNat).toNat % 2 ^ (8 * n) → RegsOnly s t ∧ MemoryKept s t ∧ FallsThrough s t 1))
  ∧ (∀ (fn : AtomFn) (w o v : Nat), w = 32 ∨ w = 64 → o < 2 ^ w → v < 2 ^ w →
     (fn = .fadd32 ∨ fn = .fmin32 ∨ fn = .fmax32 → w = 32) → IsAtomicOf fn w o v (atomOp fn w o v))

/-! ### Loops, strands, traps -/

/-- R214, R215: LOOPS starts a loop or, with count 0, passes over its end; an instruction that ends a loop, be it NOP, of
the ALU groups, a load, a store or a push, goes back to its start until the count is reached, counted without wrapping;
where two loops end at one instruction the inner one is looked at first, and the outer once the inner has ended. -/
def Obligations.CountedLoops : Prop :=
  (∀ (n : BitVec 2) (a : Reg) (imm : BitVec 12) (s : State), Runs s → Ready s [a] → Clean s [a] →
    (((myTask s).loop n.toNat).act = true → ((myTask s).loop n.toNat).own = s.sel.strand) →
    (regs s).gr a.toNat ≠ 0 →
    ∃ t, exec (.loops n a imm) s = .next t
      ∧ Retired (withTask s (fun x => x.setLoop n.toNat
          { value := 0, act := true, own := s.sel.strand, depth := otherLoops s n.toNat, start := pcOf s + 4,
            stop := pcOf s + 4 * imm.setWidth 64, count := (regs s).gr a.toNat })) t 1)
  ∧ (∀ (n : BitVec 2) (a : Reg) (imm : BitVec 12) (p : Nat) (s : State), Runs s → Ready s [a] → Clean s [a] →
    (((myTask s).loop n.toNat).act = true → ((myTask s).loop n.toNat).own = s.sel.strand) →
    (regs s).gr a.toNat = 0 →
    fetchParcel s s.sel.task s.sel.strand (pcOf s + 4 * imm.setWidth 64) = .ok p → p % 4 ≠ 3 →
    ∃ t, exec (.loops n a imm) s = .next t
      ∧ Went (withTask s (fun x => x.setLoop n.toNat { x.loop n.toNat with act := false, value := 0 })) t
          (pcOf s + 4 * imm.setWidth 64 + w64 (4 * (p % 4 + 1))))
  ∧ (∀ (c : Nat) (s : State), Runs s → (regs s).hnd = false → (regs s).her = false → OnlyLoopEnd s c →
    ∃ t, exec .nop s = .next t ∧ OutsideKept s t ∧ OthersKept s t ∧ KeepsG s t ∧ KeepsPreds s t ∧ MemoryKept s t
      ∧ (∀ m, m ≠ c → (myTask t).loop m = (myTask s).loop m)
      ∧ (let l := (myTask s).loop c
         if l.value.toNat + 1 < l.count.toNat then pcOf t = l.start ∧ (myTask t).loop c = { l with value := l.value + 1 }
         else pcOf t = pcOf s + 4 ∧ (myTask t).loop c = { l with act := false }))
  ∧ (∀ (i : Instr) (s : State), Runs s → (regs s).hnd = false → (regs s).her = false → FallsOn s i →
    (∀ c, OnlyLoopEnd s c → ∃ t, exec i s = .next t ∧ LoopEnded s t c (parcels i))
    ∧ (∀ c d, TwoLoopEnds s c d → ∃ t, exec i s = .next t ∧ LoopsEnded s t c d (parcels i)))

/-- R200, R222, R243: NOP and CHK of a clean register only go on; YIELD lets the other ready strands issue first; IDLE stops
the strand from now. -/
def Obligations.PlainSystem : Prop :=
  ∀ s : State, Runs s →
    (∃ t, exec .nop s = .next t ∧ Retired s t 1)
    ∧ (∀ a : Reg, Ready s [a] → Clean s [a] → ∃ t, exec (.chk a) s = .next t ∧ Retired s t 1)
    ∧ (∃ t, exec .yield s = .next t ∧ Retired (withStrand s (fun x => { x with
        passOver := (List.range 8).filter (fun j => j != s.sel.strand && ((myTask s).strand j).ready) })) t 1)
    ∧ (∃ t, exec .idle s = .next t ∧ Retired (withStrand s (fun x => { x with idle := some s.clock })) t 1)

/-- R57, R70, R172 to R174, R222, R241: TRAP, BRK, CHK of a poisoned register or of one with an uncorrectable error, and a
word that is no instruction or that cannot be fetched, take their trap outside a handler: the trap CSRs hold it. That ILEN
then holds the length of the parcel that was fetched, and 1 where none was, is the model's: log entry 27. -/
def Obligations.TrapTaken : Prop :=
  ∀ s : State, Runs s → (regs s).hnd = false → (regs s).her = false →
    (∀ code : BitVec 16, ∃ t, exec (.trap code) s = .next t ∧ TrapHeld s t 32 (code.setWidth 64) false 1)
    ∧ (∃ t, exec .brk s = .next t ∧ TrapHeld s t 29 0 false 1)
    ∧ (∀ a : Reg, Ready s [a] →
        (Sound s [a] → (regs s).poisonOf a.toNat ≠ 0 →
          ∃ t, exec (.chk a) s = .next t ∧ TrapHeld s t ((regs s).poisonOf a.toNat) ((regs s).gr a.toNat) true 1)
        ∧ (a.toNat ∈ (regs s).bad ∨ a.toNat ∈ (regs s).guardBad →
            ∃ t, exec (.chk a) s = .next t ∧ TrapHeld s t 19 0 false 1))
    ∧ (∀ p : BitVec 32,
        (∃ t, exec (.encodingNotInstruction (.illegalOpcode p)) s = .next t
          ∧ TrapHeld s t 1 (p.setWidth 64) false (parcelCount p.toNat))
        ∧ (∃ t, exec (.encodingNotInstruction (.illegalLength p)) s = .next t
          ∧ TrapHeld s t 2 (p.setWidth 64) false (parcelCount p.toNat))
        ∧ (∃ t, exec (.encodingNotInstruction .zeroWord) s = .next t ∧ TrapHeld s t 3 0 false 1)
        ∧ (∃ t, exec (.encodingNotInstruction (.reservedField p)) s = .next t
          ∧ TrapHeld s t 4 (p.setWidth 64) false (parcelCount p.toNat))
        ∧ (∃ t, exec (.encodingNotInstruction (.privilege p)) s = .next t
          ∧ TrapHeld s t 5 (p.setWidth 64) false (parcelCount p.toNat)))
    ∧ (∀ (miss stage : Bool) (addr : Word), ∃ t, exec (.encodingNotInstruction (.fetchFault miss stage addr)) s = .next t
        ∧ (myTask t).trap.tcause = w64 ((if miss then 7 else 8) + 2 ^ 7 * b2n stage + 2 ^ 13)
        ∧ (myTask t).trap.tpc = pcOf s ∧ (myTask t).trap.tval = addr
        ∧ (myTask t).trap.tstatus = statusWord (regs s) (myLaunch s))

/-- R169, R178, R179: the action of a TRAP outside a handler: KILL for nibble 0 or no table, FORWARD with TVEC and RECBASE
set, KILL without TVEC, PARK without RECBASE, a switch-out after which the strand resumes for PARK and a first REPLAY, and
KILL for a second REPLAY at the same fault. With no room for the record of a LOG launch the decision waits, the schedule
frozen. -/
def Obligations.TrapActions : Prop :=
  (∀ (code : BitVec 16) (s : State), Runs s → (regs s).hnd = false → (regs s).her = false →
    slogRoom s (myTask s).die (myTask s).launch = true →
    (tableAction s (myLaunch s) 32 = 0 → ∃ t, exec (.trap code) s = .next t ∧ KilledTask t)
    ∧ (tableAction s (myLaunch s) 32 = 3 → (myTask s).trap.tvec = 0 → ∃ t, exec (.trap code) s = .next t ∧ KilledTask t)
    ∧ (tableAction s (myLaunch s) 32 = 3 → (myTask s).trap.tvec ≠ 0 → (s.function (myLaunch s).fn).recbase = 0 →
        ∃ t, exec (.trap code) s = .next t ∧ (myTask t).leaving = some 3 ∧ regs t = regs s
          ∧ (myTask t).pendingResume = some { strand := s.sel.strand, queue := none, stamp := s.clock })
    ∧ (tableAction s (myLaunch s) 32 = 1 → (me s).lastReplay = some (32, pcOf s) →
        ∃ t, exec (.trap code) s = .next t ∧ KilledTask t)
    ∧ (tableAction s (myLaunch s) 32 = 3 → (myTask s).trap.tvec ≠ 0 → (s.function (myLaunch s).fn).recbase ≠ 0 →
        ∃ t, exec (.trap code) s = .next t ∧ InHandler s t)
    ∧ (tableAction s (myLaunch s) 32 = 2 →
        ∃ t, exec (.trap code) s = .next t ∧ (myTask t).leaving = some 3 ∧ regs t = regs s
          ∧ (myTask t).pendingResume = some { strand := s.sel.strand, queue := none, stamp := s.clock })
    ∧ (tableAction s (myLaunch s) 32 = 1 → (me s).lastReplay ≠ some (32, pcOf s) →
        ∃ t, exec (.trap code) s = .next t ∧ (myTask t).leaving = some 4 ∧ regs t = regs s
          ∧ (me t).lastReplay = some (32, pcOf s)))
  ∧ (∀ (code : BitVec 16) (s : State), Runs s → slogRoom s (myTask s).die (myTask s).launch = false →
    ∃ t, exec (.trap code) s = .next t ∧ (myTask t).freeze = some { strand := s.sel.strand, queue := none, stamp := s.clock }
      ∧ (myTask t).heldAction.isSome = true ∧ (myTask t).leaving = (myTask s).leaving ∧ (myTask t).place = (myTask s).place
      ∧ (t.function (myLaunch s).fn).fevent.getLsbD 0 = true)

/-- R180, R190: TRET from a handler of a strand-origin trap restores the strand at TPC, or past the instruction when it
skips, and lifts the freeze; from one of an engine-origin trap the strand goes on where it was, and the command resumes, or
when it is skipped completes at once with E. A heritage routine whose command is done signals and goes on behind the
command; TRET in heritage state lifts no freeze. That the routine's end is a step of the strand is the model's: log entry
113. -/
def Obligations.TrapReturn : Prop :=
  (∀ (skip : Bool) (r : StrandRegs) (s : State), Runs s → (regs s).hnd = true → (me s).saved = some r →
    (myTask s).trap.tcause.getLsbD 8 = false →
    (myTask s).trap.tstatus = w64 (4 * b2n (myLaunch s).det + 8 * b2n (myLaunch s).log + 16 * b2n (myLaunch s).sup) →
    (∀ q, q < 9 → ∀ e ∈ (myTask s).queue q, e.fault = none) → (myTask s).feWaiters = [] →
    (skip = true → loopAt (myTask s) s.sel.strand (myTask s).trap.tpc = none) → (regs s).her = false →
    ∃ t, exec (.tret skip) s = .next t ∧ OutsideKept s t ∧ OthersKept s t ∧ (myTask t).freeze = none
      ∧ (myTask t).loops = (myTask s).loops ∧ MemoryKept s t
      ∧ (∀ j, j ≠ s.sel.strand → (myTask t).strand j = turned s ((Task.dropWalks (myTask s)).strand j))
      ∧ (me t).live = ((me s).live && !(me s).savedEnded) ∧ (me t).saved = none ∧ (me t).notReady = (me s).savedNotReady
      ∧ regs t = { r with hnd := false, her := false, pc := (myTask s).trap.tpc +
          if skip then 4 * w64 (bitsOf (myTask s).trap.tcause.toNat 13 3) else 0 })
  ∧ (∀ (skip : Bool) (r : StrandRegs) (q : Nat) (e : Entry) (rest : List Entry) (s : State), Runs s → (regs s).hnd = true →
    (regs s).her = false → (me s).saved = some r → (myTask s).trap.tcause.getLsbD 8 = true →
    q = bitsOf (myTask s).trap.tcause.toNat 9 4 → q < 9 → (myTask s).queue q = e :: rest →
    (myTask s).trap.tstatus = w64 (4 * b2n (myLaunch s).det + 8 * b2n (myLaunch s).log + 16 * b2n (myLaunch s).sup) →
    (∀ q, q < 9 → ∀ e ∈ (myTask s).queue q, e.fault = none) → (myTask s).feWaiters = [] →
    ∃ t y, exec (.tret skip) s = .next t ∧ (myTask t).freeze = none ∧ regs t = { r with hnd := false, her := false }
      ∧ (myTask t).queue q = y :: rest.map (fun e => { e with walkFault := none })
      ∧ y.cmd = e.cmd ∧ y.cap = e.cap ∧ y.progress = e.progress ∧ y.serial = e.serial
      ∧ (skip = true → y.skip = true ∧ y.finished = true ∧ y.pending = [])
      ∧ (skip = false → y.skip = e.skip ∧ y.started = e.started ∧ y.finished = (e.finished || e.held))
      ∧ MemoryKept s t)
  ∧ (∀ (skip : Bool) (r : StrandRegs) (s : State), Runs s → (regs s).her = true → (me s).saved = some r →
    (myTask s).trap.tcause.getLsbD 8 = false →
    (myTask s).trap.tstatus = w64 (4 * b2n (myLaunch s).det + 8 * b2n (myLaunch s).log + 16 * b2n (myLaunch s).sup) →
    (myTask s).feWaiters = [] → (skip = true → loopAt (myTask s) s.sel.strand (myTask s).trap.tpc = none) →
    ∃ t, exec (.tret skip) s = .next t ∧ (myTask t).freeze = (myTask s).freeze ∧ (me t).routine = none
      ∧ regs t = { r with hnd := false, her := false, pc := (myTask s).trap.tpc +
          if skip then 4 * w64 (bitsOf (myTask s).trap.tcause.toNat 13 3) else 0 })
  ∧ (∀ (r : StrandRegs) (e : Entry) (s : State), Runs s → (regs s).her = true → (me s).saved = some r →
    (me s).routine = some e → e.finished = true → e.skip = false → e.uses = [] →
    enabledTrap (e.cap.vctl.getLsbD 1) (e.cap.vctl.getLsbD 2) e.firstInvalid e.firstXw = none →
    (e.err = true → (linkOf e.cmd).si ≠ 0) → lateTaint (myTask s) e = false → (myTask s).feWaiters = [] →
    loopAt (myTask s) s.sel.strand e.pc = none →
    let t := routineStep s
    (myTask t).freeze = (myTask s).freeze ∧ (me t).routine = none ∧ (me t).saved = none
      ∧ regs t = { r with hnd := false, her := false, pc := e.pc + w64 (4 * parcels e.cmd) }
      ∧ (∀ n, (myTask t).sem n = if (linkOf e.cmd).si ≠ 0 ∧ n = (linkOf e.cmd).ss then
          ((myTask s).sem n).add (linkOf e.cmd).si e.err else (myTask s).sem n))

/-- R174, R195 to R197, R199, R217, R404: a CSR instruction returns the old value; CSRW writes g[A], CSRS and CSRC with A ≠
0 set and clear bits. By number: the read-only ones ignore every write, LOOPCTL ends the loops whose ACT CSRW writes 1, as
LOGCTL.FULL is cleared by 1, and CSRS and CSRC leave both; what a read of the launch's, the strand's, the clock's and the
counters' numbers returns; the fields that are kept of a write, and the values that are ignored. R149, R198: in a
deterministic launch a number that tells of the run, and a shared one that another strand holds, trap DET_ILLEGAL with the
number, and who comes first holds it. -/
def Obligations.CsrResult : Prop :=
  (∀ (d a : Reg) (csr : BitVec 10) (s : State), Runs s → Ready s [d, a] → Clean s [a] → FreeLaunch s →
    let old := csrRead s s.sel.task s.sel.strand csr.toNat
    let v := (regs s).gr a.toNat
    let logged := withStrand s (fun x => { x with sync := { x.sync with
      undo := csrUndo s s.sel.task s.sel.strand csr.toNat ++ x.sync.undo } })
    let put := fun (w1c : Bool) (new : Word) => setReg (csrWrite logged s.sel.task s.sel.strand w1c csr.toNat new) d old
    (∃ t, exec (.csrr d csr) s = .next t ∧ WritesG s t d old ∧ KeepsPreds s t ∧ FallsThrough s t 1 ∧ RegsOnly s t
      ∧ MemoryKept s t)
    ∧ ((myTask (put true v)).dbgctl.getLsbD 0 = false →
        ∃ t, exec (.csrw d a csr) s = .next t ∧ Retired (put true v) t 1)
    ∧ (a ≠ 0 → (myTask (put false (old ||| v))).dbgctl.getLsbD 0 = false →
        ∃ t, exec (.csrs d a csr) s = .next t ∧ Retired (put false (old ||| v)) t 1)
    ∧ (a ≠ 0 → (myTask (put false (old &&& ~~~v))).dbgctl.getLsbD 0 = false →
        ∃ t, exec (.csrc d a csr) s = .next t ∧ Retired (put false (old &&& ~~~v)) t 1)
    ∧ (a = 0 → ∃ t, exec (.csrs d a csr) s = .next t ∧ WritesG s t d old ∧ RegsOnly s t)
    ∧ (a = 0 → ∃ t, exec (.csrc d a csr) s = .next t ∧ WritesG s t d old ∧ RegsOnly s t))
  ∧ (∀ (i : Instr) (d a : Reg) (csr : BitVec 10) (s : State), Runs s → Ready s [d, a] → Clean s [a] → FreeLaunch s →
    (i = .csrw d a csr ∨ i = .csrs d a csr ∨ i = .csrc d a csr) →
    let v := (regs s).gr a.toNat
    (csr ∈ csrReadOnly → ∃ t, exec i s = .next t ∧ WritesG s t d (csrRead s s.sel.task s.sel.strand csr.toNat)
      ∧ KeepsPreds s t ∧ FallsThrough s t 1 ∧ RegsOnly s t ∧ MemoryKept s t)
    ∧ (csr = 0x064 → (regs s).hnd = true → ∃ t, exec i s = .next t
      ∧ ∀ n, n < 4 → (myTask t).loop n = { (myTask s).loop n with
          act := ((myTask s).loop n).act && !(i == .csrw d a csr && v.getLsbD n) })
    ∧ (csr = 0x0E3 → ∃ t, exec i s = .next t
      ∧ (orderLog t (myTask s).die (myLaunch s).fn).full = ((orderLog s (myTask s).die (myLaunch s).fn).full
          && !(i == .csrw d a csr && v.getLsbD 1))))
  ∧ (∀ (d : Reg) (csr : BitVec 10) (v : Word) (s : State), Runs s → Ready s [d] → FreeLaunch s → csrValue s csr = some v →
    ∃ t, exec (.csrr d csr) s = .next t ∧ WritesG s t d v ∧ RegsOnly s t ∧ MemoryKept s t)
  ∧ (∀ (d a : Reg) (s : State), Runs s → Ready s [d, a] → Clean s [a] → FreeLaunch s →
    let v := (regs s).gr a.toNat
    let after := fun (csr : BitVec 10) (new : Task → Prop) => ∃ t, exec (.csrw d a csr) s = .next t ∧ new (myTask t)
    after 0x026 (fun x => x.trap.tvec = if v.toNat % 4 = 0 then v else (myTask s).trap.tvec)
    ∧ after 0x041 (fun x => x.vec.vctl = v &&& 7) ∧ after 0x043 (fun x => x.vec.ftsel = v &&& 3)
    ∧ after 0x045 (fun x => x.vec.xwanchor = v &&& 0xFF) ∧ after 0x080 (fun x => x.eng.mesteer = v &&& 7)
    ∧ after 0x044 (fun x => x.vec.srseed = v) ∧ after 0x0A0 (fun x => x.eng.glod = v)
    ∧ after 0x042 (fun x => x.vec.vstat = v &&& 0x3F)
    ∧ after 0x040 (fun x => x.vec.vsh =
        if 0 < bitsOf v.toNat 0 5 ∧ bitsOf v.toNat 0 5 ≤ 16 ∧ 0 < bitsOf v.toNat 8 11 ∧ bitsOf v.toNat 8 11 ≤ 1024
          ∧ bitsOf v.toNat 0 5 * bitsOf v.toNat 8 11 ≤ 1024
        then v &&& 0x7FF1F else (myTask s).vec.vsh)
    ∧ (∀ n : Nat, n < 4 → ∀ c : BitVec 10, c.toNat = 0x060 + n → (regs s).hnd = true →
        after c (fun x => x.loop n = { (myTask s).loop n with value := v })))
  ∧ (∀ (i : Instr) (d a : Reg) (csr : BitVec 10) (s : State), Runs s → Ready s [0, d, a] → Clean s [a] → (myLaunch s).det = true →
    (regs s).hnd = false → (regs s).her = false →
    (i = .csrr d csr ∨ i = .csrw d a csr ∨ i = .csrs d a csr ∨ i = .csrc d a csr) →
    let n := csr.toNat
    let traps := ∃ t, exec i s = .next t ∧ TrapResource s t 14 n 1 ∧ (myTask t).vec = (myTask s).vec
      ∧ (myTask t).eng = (myTask s).eng
    (n = 0x006 ∨ (0x00A ≤ n ∧ n ≤ 0x010) ∨ n = 0x0A0 → traps)
    ∧ (0x040 ≤ n → n ≤ 0x0C0 → n ≠ 0x0A0 → ∀ h w, SMap.find n (myTask s).recs.csrHolder = some (h, w) → h ≠ s.sel.strand →
      traps)
    ∧ (n = 0x041 ∨ n = 0x043 ∨ n = 0x045 → SMap.find n (myTask s).recs.csrHolder = none →
      ∃ t, exec i s = .next t
        ∧ SMap.find n (myTask t).recs.csrHolder = some (s.sel.strand, decide (i = .csrw d a csr ∨ (i ≠ .csrr d csr ∧ a ≠ 0)))))

/-- R223, R224, R200: SFORK starts a strand in the lowest free slot with pc g[A] and g1 = g[B], behind the accesses its
issuer has made but for those that wait at their homes, and returns its number, or all ones when none is free; SEXIT waits
for the strand's remote accesses, ends it and its loops, and its commands go on without it. -/
def Obligations.StrandStartAndEnd : Prop :=
  (∀ (d a b : Reg) (s : State), Runs s → Ready s [d, a, b] → Clean s [a, b] → FreeLaunch s →
    (regs s).hnd = false → (regs s).her = false → ((regs s).gr a.toNat).toNat % 4 = 0 →
    (∀ k, k < (myLaunch s).strands → k < 8 → ((myTask s).strand k).live = false →
      (∀ j, j < k → ((myTask s).strand j).live = true) →
      let r : StrandRegs := { pc := (regs s).gr a.toNat, g := SMap.set 0 [] 1 ((regs s).gr b.toNat) }
      let after : ForkAfter := { issuer := s.sel.strand, outs := ((me s).outs.filter (fun o => !waitsAtHome o)).map (·.id),
                                 entries := ((vecAccesses (myTask s) s.sel.strand).filter (fun e => !isPopv e.cmd)).map (·.serial) }
      ∃ t, exec (.sfork d a b) s = .next t
        ∧ Retired (setReg (withTask s (fun x => x.modStrand k (fun _ =>
            { live := true, used := true, r, guard := r, sync := { regs := r }, after := some after }))) d (w64 k)) t 1)
    ∧ ((∀ k, k < (myLaunch s).strands → k < 8 → ((myTask s).strand k).live = true) →
      ∃ t, exec (.sfork d a b) s = .next t ∧ WritesG s t d 0xFFFFFFFFFFFFFFFF ∧ RegsOnly s t ∧ FallsThrough s t 1))
  ∧ (∀ s : State, Runs s → (me s).reports = [] → AllNear s → (regs s).hnd = false → (regs s).her = false →
    ∃ t, exec .sexit s = .next t ∧ t = { s with tasks := t.tasks, oldCode := t.oldCode } ∧ OthersKept s t ∧ MemoryKept s t
      ∧ (me t).live = false ∧ regs t = regs s ∧ SiblingsKept s t
      ∧ (∀ n, (myTask t).loop n = { (myTask s).loop n with
          act := ((myTask s).loop n).act && ((myTask s).loop n).own != s.sel.strand })
      ∧ (∀ q, (myTask t).queue q = ((myTask s).queue q).map (fun e =>
          if e.strand = s.sel.strand then { e with orphaned := true } else e))
      ∧ myTask t = { myTask s with
          strands := (myTask t).strands, loops := (myTask t).loops, queues := (myTask t).queues,
          arrived := (myTask t).arrived, lvq := (myTask t).lvq, lastIssued := s.sel.strand })
  ∧ (∀ s : State, Runs s → (me s).reports = [] → (regs s).hnd = false → (regs s).her = false →
    (∃ o ∈ (me s).outs, o.acc.home ≠ .spad s.sel.task) → ∃ t, exec .sexit s = .next t ∧ Waits s t 7 0)

/-! ### Accesses that leave, and synchronisation -/

/-- R104, R107, R122, R123, R219, R220, R227: a load or store of another home leaves as a request: a load parks its strand
for the answer, a store goes on; a misaligned load, store or atomic traps MISALIGNED with its address, with the scratchpad
and the network as they were. R112, R128 to R130: in a deterministic launch an access of the own scratchpad that meets the
alias window traps CLASS_ALIAS, an ordinary one that its sector's stamp or kind keeps out PHASE_CONFLICT with the sector's
address, an AMO DET_ILLEGAL; a store to an untouched sector makes it the strand's. -/
def Obligations.AccessLeavesOrTraps : Prop :=
  ((∀ (i : Instr) (d a : Reg) (oc : BitVec 4) (n : Nat) (signed : Bool) (ea : Word → Word) (p : Place) (s : State),
     loadTable i = some (d, a, oc, n, signed, ea) → (∀ d a oc disp, i ≠ .lds d a oc disp) →
     Runs s → Ready s [d, a] → Clean s [a] → FreeLaunch s → Quiet s →
     (ea ((regs s).gr a.toNat)).toNat % n = 0 →
     placeOf s s.sel.task (regs s).her (n == 4 && oc == 15) (me s).walkFault (ea ((regs s).gr a.toNat)) n .read = .ok p →
     p.home ≠ .spad s.sel.task → buffersUsed (myTask s) < 64 →
     ∃ t, exec i s = .next t
       ∧ Leaves s t (accAt s p (ea ((regs s).gr a.toNat)) n oc.toNat false .load)
           (some { reg := d.toNat, width := 8 * n, signed := signed }) true
       ∧ regs t = regs s ∧ (me t).parked = true ∧ MemoryKept s t)
   ∧ (∀ (i : Instr) (d a : Reg) (oc : BitVec 4) (n : Nat) (ea : Word → Word) (p : Place) (s : State),
     storeTable i = some (d, a, oc, n, ea) → Runs s → Ready s [d, a] → Clean s [a, d] → FreeLaunch s → Quiet s →
     (ea ((regs s).gr a.toNat)).toNat % n = 0 →
     placeOf s s.sel.task (regs s).her false (me s).walkFault (ea ((regs s).gr a.toNat)) n .write = .ok p →
     p.home ≠ .spad s.sel.task → buffersUsed (myTask s) < 64 →
     ∃ t, exec i s = .next t
       ∧ Leaves s t (accAt s p (ea ((regs s).gr a.toNat)) n oc.toNat true
           (.store ((bytesOf ((regs s).gr d.toNat).toNat n).map some))) none false
       ∧ KeepsG s t ∧ KeepsPreds s t ∧ FallsThrough s t (parcels i) ∧ MemoryKept s t))
  ∧ (∀ (i : Instr) (va : Word) (n : Nat) (s : State),
     ((∃ d a oc sg ea, loadTable i = some (d, a, oc, n, sg, ea) ∧ (∀ d a oc disp, i ≠ .lds d a oc disp)
         ∧ va = ea ((regs s).gr a.toNat) ∧ Ready s [a] ∧ Clean s [a])
       ∨ (∃ d a oc ea, storeTable i = some (d, a, oc, n, ea) ∧ va = ea ((regs s).gr a.toNat) ∧ Ready s [a, d] ∧ Clean s [a, d])
       ∨ (∃ d a b sz f, atomicTable i = some (d, a, b, sz, f) ∧ n = (if sz then 8 else 4) ∧ va = (regs s).gr a.toNat
         ∧ Ready s [a, b] ∧ Clean s [a, b])) →
     va.toNat % n ≠ 0 → Runs s → (regs s).hnd = false → (regs s).her = false →
     ∃ t, exec i s = .next t ∧ TrapHeld s t 6 va false (parcels i)
       ∧ (myTask t).spad = (myTask s).spad ∧ t.net = s.net)
  ∧ (∀ (i : Instr) (s : State), Runs s → (regs s).hnd = false → (regs s).her = false → (myLaunch s).det = true →
     (myLaunch s).log = false → Quiet s → (∀ q, 3 ≤ q → q ≤ 7 → ∀ e ∈ (myTask s).queue q, e.strand ≠ s.sel.strand) →
     let traps := fun (cause : Nat) (tval : Word) => ∃ t, exec i s = .next t ∧ TrapHeld s t cause tval false (parcels i)
       ∧ (myTask t).spad = (myTask s).spad ∧ t.net = s.net
     (∀ d a oc n sg ea, loadTable i = some (d, a, oc, n, sg, ea) → (∀ d a oc disp, i ≠ .lds d a oc disp) → Ready s [d, a] →
       Clean s [a] →
       let va := ea ((regs s).gr a.toNat)
       va.toNat % n = 0 → OwnBytes s va n → OwnSound s va n → oc ≠ 15 →
       ((me s).alias_.length < 32 → MeetsAlias s va n oc.toNat false → traps 12 va)
       ∧ ((me s).alias_ = [] → ∀ st, stampAt s va = some st → (2 ≤ st.kind ∨ keptFromRead s st) → traps 13 (va &&& ~~~63#64)))
     ∧ (∀ d a oc n ea, storeTable i = some (d, a, oc, n, ea) → Ready s [d, a] → Clean s [a, d] →
       let va := ea ((regs s).gr a.toNat)
       va.toNat % n = 0 → OwnBytes s va n → oc ≠ 15 →
       ((me s).alias_.length < 32 → MeetsAlias s va n oc.toNat true → traps 12 va)
       ∧ ((me s).alias_ = [] → ∀ st, stampAt s va = some st → (2 ≤ st.kind ∨ keptFromWrite s st) → traps 13 (va &&& ~~~63#64))
       ∧ ((me s).alias_ = [] → stampAt s va = none →
         ∃ t st, exec i s = .next t ∧ OwnStored s t va n ((regs s).gr d.toNat).toNat ∧ stampAt t va = some st ∧ st.kind = 1
           ∧ bitsOf st.bits.toNat 15 2 = 3 ∧ bitsOf st.bits.toNat 0 15 = partyOf s))
     ∧ (∀ g a b sz f, atomicTable i = some (some g, a, b, sz, f) → Ready s [g, a, b] → Clean s [a, b] →
       let va := (regs s).gr a.toNat
       let n := if sz then 8 else 4
       va.toNat % n = 0 → OwnBytes s va n → OwnSound s va n →
       ∀ st, stampAt s va = some st → st.kind ≤ 1 → keptFromWrite s st → traps 14 va))

/-- R113, R225, R226: the seven full/empty operations on a word of the own scratchpad at which nothing waits, with the word
in the state each needs: what they read and write, and the state they leave. That they perform in the instruction's own step
is the model's reading: log entry 10. Completes: LDFE, LDFF, STEF, STFL, SETE, SETF, FEQ. -/
def Obligations.FullEmptyResult : Prop :=
  ∀ (d a : Reg) (disp : BitVec 8) (s : State), Runs s → Ready s [d, a] → Clean s [a] → FreeLaunch s → Quiet s →
    let va := (regs s).gr a.toNat + disp.signExtend 64 * 8
    let va0 := (regs s).gr a.toNat
    let v := (regs s).gr d.toNat
    let u := classed s
    (va.toNat % 8 = 0 → OwnBytes s va 8 → OwnSound s va 8 → NoWaiter s va →
      (isFull (myTask s) (va.toNat / 8) = true →
        (∃ t, exec (.ldfe d a disp) s = .next t
          ∧ Retired (setReg (feWord u va false) d (w64 (readNat (myTask s).spad va.toNat 8))) t 1)
        ∧ (∃ t, exec (.ldff d a disp) s = .next t
          ∧ Retired (setReg u d (w64 (readNat (myTask s).spad va.toNat 8))) t 1))
      ∧ (isFull (myTask s) (va.toNat / 8) = false → Clean s [d] →
        ∃ t, exec (.stef d a disp) s = .next t ∧ Retired (feWord (feStore u va v) va true) t 1)
      ∧ (Clean s [d] → ∃ t, exec (.stfl d a disp) s = .next t ∧ Retired (feWord (feStore u va v) va true) t 1))
    ∧ (va0.toNat % 8 = 0 → OwnBytes s va0 8 → NoWaiter s va0 →
      (∃ t, exec (.sete a) s = .next t ∧ Retired (feWord u va0 false) t 1)
      ∧ (∃ t, exec (.setf a) s = .next t ∧ Retired (feWord u va0 true) t 1)
      ∧ (∃ t, exec (.feq d a) s = .next t
        ∧ Retired (setReg u d (w64 (b2n (isFull (myTask s) (va0.toNat / 8))))) t 1))

/-- R135, R231 to R233, R32: AMOX adds a signed doubleword exactly to the 128-bit word and saturates at both bounds; without
the trap enable a saturation sets XW_OVF of VSTAT, with it the AMOX traps XW_OVERFLOW behind its effect, or with NR reports
it. The twelve AMOR forms (ADD, AND, OR, XOR, MIN, MAX, MINU, MAXU, SWAP, FADD32, FMIN32, FMAX32) complete: with NR the
contribution leaves as a request and the strand goes on behind the instruction; without NR it leaves, the strand parks, and
the answer writes g[D] and retires the instruction. A round holds its contributions by rank, whatever the order they come
in; the one that fills it has it applied in rank order, each value answered being what the lower ranks left. That AMOX
performs in its own step is the model's reading: log entry 10. -/
def Obligations.ExactAndRankedAtomics : Prop :=
  (∀ (f : SR64) (s : State), Runs s → Ready s [f.d, f.k, f.a, f.b] → Clean s [f.a, f.b] → FreeLaunch s → Quiet s →
     s.sel.lazy = false →
     let va := (regs s).gr f.a.toNat
     let old := readNat (myTask s).spad va.toNat 16
     let sum := sintOf 128 old + ((regs s).gr f.b.toNat).toInt
     let kept := fun (u : State) => if f.nr then u else setReg (setReg u f.d (w64 old)) f.k (w64 (old / 2 ^ 64))
     va.toNat % 16 = 0 → OwnBytes s va 16 → OwnSound s va 16 →
     (-2 ^ 127 ≤ sum ∧ sum < 2 ^ 127 →
       ∃ t, exec (.amox f) s = .next t ∧ Retired (kept (storeOwn s va 16 (wrapNat 128 sum))) t 2)
     ∧ (sum < -2 ^ 127 ∨ 2 ^ 127 ≤ sum →
       let stored := storeOwn s va 16 (if 2 ^ 127 ≤ sum then 2 ^ 127 - 1 else 2 ^ 127)
       ((myTask s).vec.vctl.getLsbD 2 = false →
         ∃ t, exec (.amox f) s = .next t
           ∧ Retired (withTask (kept stored) (fun x => raiseFlags x s.sel.strand .vstat fXwOvf)) t 2)
       ∧ ((myTask s).vec.vctl.getLsbD 2 = true → f.nr = true →
         ∃ t, exec (.amox f) s = .next t
           ∧ Retired (withStrand stored (fun x => { x with
               reports := [{ pc := pcOf s, ilen := 2, trap := { cause := 35, tval := 0 } }] })) t 2)
       ∧ ((myTask s).vec.vctl.getLsbD 2 = true → f.nr = false → (regs s).hnd = false → (regs s).her = false →
         (me s).saved = none →
         ∃ t, exec (.amox f) s = .next t ∧ TrapHeld s t 35 0 false 2 ∧ (myTask t).spad = (myTask stored).spad
           ∧ (myTask t).vec.vstat = (myTask s).vec.vstat
           ∧ ∀ n, ((me t).saved.getD (regs t)).gr n = (regs (kept stored)).gr n)))
  ∧ ((∀ (i : Instr) (fn : AtomFn) (f : SR64) (s : State), amorTable i = some (fn, f) →
     Runs s → Ready s [f.a, f.b, f.k, f.n, f.d] → Clean s [f.a, f.b, f.k, f.n] → FreeLaunch s → Quiet s →
     let n := if f.sz then 8 else 4
     let va := (regs s).gr f.a.toNat
     let k := ((regs s).gr f.k.toNat).toNat
     let cnt := ((regs s).gr f.n.toNat).toNat
     0 < cnt → cnt ≤ 32768 → k < cnt → va.toNat % n = 0 → OwnBytes s va n →
     ∃ t, exec i s = .next t
       ∧ Leaves s t (accAt s { home := .spad s.sel.task, addr := va.toNat } va n 15 f.nr
           (.amor fn cnt k k (((regs s).gr f.b.toNat).toNat % 2 ^ (8 * n))))
           (if f.nr then none else some { reg := f.d.toNat, width := 8 * n, signed := true }) (!f.nr)
       ∧ KeepsG s t ∧ KeepsPreds s t ∧ MemoryKept s t
       ∧ (if f.nr then FallsThrough s t 2 else pcOf t = pcOf s))
   ∧ (∀ (i : Instr) (fn : AtomFn) (f : SR64) (v : Nat) (m : Msg) (p : Party) (o : Outstanding) (s : State),
     amorTable i = some (fn, f) → f.nr = false → Answers s m (.data v) p o →
     let n := if f.sz then 8 else 4
     let x := s.strand p.task p.strand
     o.dest = some { reg := f.d.toNat, width := 8 * n, signed := true } → o.parks = true → o.forSaved = false → o.ilen = 2 →
     x.live = true → (s.task p.task).dbgctl.getLsbD 0 = false →
     (x.r.hnd || x.r.her) = true ∨ loopAt (s.task p.task) p.strand x.r.pc = none →
     ∃ t, exec .dataResponse s = .next t ∧ SMap.find s.sel.msg t.net = none
       ∧ (t.strand p.task p.strand).outs = outsWithout s p o
       ∧ (t.strand p.task p.strand).r.pc = x.r.pc + 8
       ∧ (∀ k, (t.strand p.task p.strand).r.gr k = if k = f.d.toNat ∧ k ≠ 0 then loadedWord v n true
           else x.r.gr k))
   ∧ (∀ (fn : AtomFn) (n lo hi v : Nat) (r : Round) (m : Msg) (s : State), Arrived s m 0 → AtHome s m →
     m.acc.op = .amor fn n lo hi v →
     let key := locKey m.acc.home m.acc.addr
     let new : RoundPart := { lo, hi, v, req := m.req, station := m.srcStation, acc := m.acc }
     let old := homeRead s m.acc.home m.acc.addr m.acc.size
     let apply := fun (ps : List RoundPart) => ps.foldl (fun x p => atomOp fn (8 * m.acc.size) x p.v) old
     SMap.find key s.rounds = some r → r.fn = fn → r.n = n → r.acc.size = m.acc.size → lo ≤ hi → hi < n →
     rangeFree r lo hi = true → Ascending r.parts →
     (∀ p ∈ r.parts, p.lo ≤ p.hi ∧ (s.launchOf p.acc.who.task).det = false) →
     (ranksIn r + (hi - lo + 1) < n →
       ∃ t ps, exec .amorContribution s = .next t ∧ SMap.find key t.rounds = some { r with parts := ps } ∧ Ascending ps
         ∧ ps.Perm (new :: r.parts) ∧ t.mem = s.mem)
     ∧ (ranksIn r + (hi - lo + 1) = n →
       ∃ t ps, exec .amorContribution s = .next t ∧ t.rounds = SMap.del key s.rounds ∧ Ascending ps
         ∧ ps.Perm (new :: r.parts) ∧ t.mem = (updated s m.acc (apply ps)).mem
         ∧ (∀ k, (t.task k).spad = ((updated s m.acc (apply ps)).task k).spad)
         ∧ (∀ i p a j, ps[i]? = some p → p.req = .acc a j →
             ∃ e ∈ t.net, e.2.req = p.req ∧ e.2.chan = 2
               ∧ e.2.reply = some (if p.acc.nr then .ack false else .data (apply (ps.take i)))))))

/-- R107, R109, R110, R120, R136, R223, R234, R235: FENCE records what it holds back and goes on; with ENG it waits for the
strand's commands; DRAIN waits for everything of the strand; a load, a store, an atomic or a full/empty operation waits
while an earlier access of its class to another home, any earlier one when either is of class 15, an earlier one that TSO
pages put before it, one that a fence covers, or one that its strand was forked behind has not performed. -/
def Obligations.OrderingPoints : Prop :=
  (∀ (mask : BitVec 16) (scope : BitVec 3) (eng : Bool) (s : State), Runs s → (me s).reports = [] →
     let f := fenceRec s s.sel.task s.sel.strand mask scope.toNat
     ((eng = true → pendingCommands (myTask s) s.sel.strand = false) →
       ∃ t, exec (.fence mask scope eng) s = .next t
         ∧ Retired (withStrand s (fun x => { x with
             fences := x.fences.filter (fenceOpen (myTask s) (me s))
               ++ (if f.outs.isEmpty && f.entries.isEmpty then [] else [f]),
             sysFences := x.sysFences + (if mask = 0xFFFF ∧ scope = 5 then 1 else 0),
             alias_ := if mask = 0xFFFF then [] else x.alias_.map (fun e => { e with fences := e.fences ++ [mask] }) })) t 1)
     ∧ (eng = true → pendingCommands (myTask s) s.sel.strand = true →
       ∃ t, exec (.fence mask scope eng) s = .next t ∧ Waits s t 0 0)
     ∧ (Idle s → ∃ t, exec .drain s = .next t
         ∧ Retired (withStrand s (fun x => { x with fences := [], sysFences := x.sysFences + 1, alias_ := [] })) t 1)
     ∧ ((me s).outs ≠ [] ∨ pendingCommands (myTask s) s.sel.strand = true
         ∨ (∃ e ∈ (myTask s).queue 0, e.strand = s.sel.strand ∧ e.orphaned = false) →
       ∃ t, exec .drain s = .next t ∧ Waits s t 0 0))
  ∧ (∀ (i : Instr) (p : Place) (s : State), Runs s → FreeLaunch s → (me s).reports = [] →
     let held := fun (va : Word) => ∃ t, exec i s = .next t ∧ Waits s t 7 ((foldVa s s.sel.task va).toNat % 2 ^ 48)
       ∧ MemoryKept s t ∧ t.net = s.net
     let place := fun (sem : Bool) (va : Word) (n : Nat) (need : Need) =>
       placeOf s s.sel.task (regs s).her sem (me s).walkFault va n need = .ok p
     (∀ d a oc n sg ea, loadTable i = some (d, a, oc, n, sg, ea) → (∀ d a oc disp, i ≠ .lds d a oc disp) → Ready s [d, a] →
       Clean s [a] →
       let va := ea ((regs s).gr a.toNat)
       va.toNat % n = 0 → place (n == 4 && oc == 15) va n .read → HeldBack s oc.toNat p false → held va)
     ∧ (∀ d a oc n ea, storeTable i = some (d, a, oc, n, ea) → Ready s [d, a] → Clean s [a, d] →
       let va := ea ((regs s).gr a.toNat)
       va.toNat % n = 0 → place false va n .write → HeldBack s oc.toNat p true → held va)
     ∧ (∀ d a b sz f, atomicTable i = some (d, a, b, sz, f) → Ready s (d.toList ++ [a, b]) → Clean s [a, b] →
       let va := (regs s).gr a.toNat
       let n := if sz then 8 else 4
       va.toNat % n = 0 → place false va n .readWrite → (∀ j, p.home ≠ .host j) → HeldBack s 15 p true → held va)
     ∧ (∀ a d disp, feTable i = some (a, d, disp) → Ready s [a, d] → Clean s [a, d] →
       let va := (regs s).gr a.toNat + disp
       va.toNat % 8 = 0 → OwnBytes s va 8 → (me s).outs ≠ [] →
       ∃ t, exec i s = .next t ∧ Waits s t 7 0 ∧ MemoryKept s t ∧ t.net = s.net))

/-- R151, R152, R236, R237: BARA arrives and goes on, BAR arrives and waits, BAR and BARW go on when the barrier of the
arrival has completed and BARW waits while it has not. That a shape with ALL (bit 7) set is taken whatever its LW2 and LH2
is the model's reading: log entry 33. Completes: BARA, BAR, BARW. -/
def Obligations.BarrierResult : Prop :=
  ∀ (a : Reg) (s : State), Runs s → Ready s [a] → Clean s [a] → (regs s).hnd = false → (regs s).her = false →
    let shape := ((regs s).gr a.toNat).toNat
    let key := shapeKey (myLaunch s) shape
    let n := SMap.get 0 (myTask s).arrived key
    shape < 256 → bitOf shape 6 = false → (bitOf shape 7 = true ∨ (bitsOf shape 0 3 ≠ 7 ∧ bitsOf shape 3 3 ≠ 7)) →
    (Idle s →
      let arrived := fun (open_ : Bool) => withTask (withStrand s (fun x => { x with
          fences := [], sysFences := x.sysFences + 1, alias_ := [], arrivals := [{ shape := key, index := n, open_ := open_, pc := pcOf s }] }))
        (fun x => advanceArrivals x key)
      (∃ t, exec (.bara a) s = .next t ∧ Retired (arrived true) t 1)
      ∧ (n < completed (myLaunch s) (myTask s) key ∨
          ∃ t, exec (.bar a) s = .next t ∧ Waits (arrived false) t 6 key))
    ∧ (∀ x : Arrival, (me s).arrivals = [x] → x.shape = key → x.index < completed (myLaunch s) (myTask s) key →
      (x.open_ = false → x.pc = pcOf s → x.left = false →
        ∃ t, exec (.bar a) s = .next t ∧ Retired (withStrand s (fun y => { y with arrivals := [] })) t 1)
      ∧ (x.open_ = true →
        ∃ t, exec (.barw a) s = .next t ∧ Retired (withStrand s (fun y => { y with arrivals := [] })) t 1))
    ∧ (∀ x : Arrival, (me s).arrivals = [x] → x.shape = key → completed (myLaunch s) (myTask s) key ≤ x.index →
      x.open_ = true → ∃ t, exec (.barw a) s = .next t ∧ Waits s t 6 key)

/-- R17, R65, R115, R238, R240: SWAIT takes its amount once the count reaches it, in its turn among those that wait, and
waits before; SSIG, local and remote, adds and saturates with E, and to a semaphore of a peer leaves as a request; SRD, SRDC
and SSET; POP takes the oldest element in its turn and waits while there is none. In a deterministic launch (R239) a second
party's SWAIT and an SSET of a count trap DET_ILLEGAL with the number of the semaphore. That a signal of the own window
performs in its own step is the model's reading, log entry 10, and so is the turn of those that wait, log entries 31, 59.
Completes: SWAIT, SSIG local and remote, SRD, SRDC, SSET, POP. -/
def Obligations.SemaphoreResult : Prop :=
  (∀ (d a : Reg) (idx : BitVec 8) (s : State), Runs s → Ready s [d, a] → Clean s [a] → Quiet s → (myLaunch s).det = true →
    (regs s).hnd = false → (regs s).her = false →
    let v := ((regs s).gr a.toNat).toNat
    (∀ p, SMap.find idx.toNat (myTask s).recs.semWaiter = some p → p ≠ s.sel.strand → 0 < v → v < 2 ^ 31 →
      ∃ t, exec (.swait d a idx) s = .next t ∧ TrapResource s t 14 idx.toNat 1 ∧ (myTask t).sems = (myTask s).sems)
    ∧ (v < 2 ^ 32 → v % 2 ^ 31 ≠ 0 →
      ∃ t, exec (.sset d a idx) s = .next t ∧ TrapResource s t 14 idx.toNat 1 ∧ (myTask t).sems = (myTask s).sems)
    ∧ (SMap.find idx.toNat (myTask s).recs.semWaiter = none → 0 < v → v < 2 ^ 31 → v ≤ ((myTask s).sem idx.toNat).count →
      FirstInTurn s 1 idx.toNat →
      ∃ t, exec (.swait d a idx) s = .next t ∧ SMap.find idx.toNat (myTask t).recs.semWaiter = some s.sel.strand
        ∧ ((myTask t).sem idx.toNat).count = ((myTask s).sem idx.toNat).count - v))
  ∧ ∀ (d a : Reg) (idx : BitVec 8) (s : State), Runs s → Ready s [d, a] → Clean s [a] → FreeLaunch s → Quiet s →
    let n := idx.toNat
    let x := (myTask s).sem n
    let v := ((regs s).gr a.toNat).toNat
    let word := w64 (x.count + 2 ^ 31 * b2n x.e)
    let add := fun (x : Sem) =>
      ({ count := min (x.count + v % 2 ^ 31) 0x7FFFFFFF,
         e := x.e || ((regs s).gr a.toNat).getLsbD 31 || decide (0x7FFFFFFF < x.count + v % 2 ^ 31),
         obs := x.obs && !(((regs s).gr a.toNat).getLsbD 31) && !(decide (0x7FFFFFFF < x.count + v % 2 ^ 31)) } : Sem)
    (v < 2 ^ 31 → v ≤ x.count → (v = 0 ∨ FirstInTurn s 1 n) → ∃ t, exec (.swait d a idx) s = .next t
      ∧ Retired (setReg (withSem (classed s) n (fun x => { x with count := x.count - v })) d word) t 1)
    ∧ (v < 2 ^ 31 → (x.count < v ∨ (v ≠ 0 ∧ ¬FirstInTurn s 1 n)) → ∃ t, exec (.swait d a idx) s = .next t ∧ Waits (classed s) t 1 n)
    ∧ (v < 2 ^ 32 → ∃ t, exec (.ssig a idx) s = .next t
      ∧ Retired (withTask (withSem (classed s) n add) Task.wake) t 1)
    ∧ (v < 2 ^ 32 → Clean s [d] → (regs s).gr d.toNat = w64 (0x700000 + 4 * n) → s.sel.lazy = false →
      ∃ t, exec (.ssigRemote d a) s = .next t ∧ Retired (withTask (withSem s n add) Task.wake) t 1)
    ∧ (∀ (k off : Nat) (p : Place), let va := (regs s).gr d.toNat
      v < 2 ^ 32 → Clean s [d] → va.toNat % 4 = 0 → spadTarget s s.sel.task va = some (k, off) → isSemAddr off = true →
      placeOf s s.sel.task (regs s).her true (me s).walkFault va 4 .write = .ok p → p.home ≠ .spad s.sel.task →
      buffersUsed (myTask s) < 64 →
      ∃ t, exec (.ssigRemote d a) s = .next t
        ∧ Leaves s t (accAt s p va 4 15 true (.signal (v % 2 ^ 31) (((regs s).gr a.toNat).getLsbD 31))) none false
        ∧ KeepsG s t ∧ KeepsPreds s t ∧ FallsThrough s t 1 ∧ MemoryKept s t)
    ∧ (∃ t, exec (.srd d idx) s = .next t
      ∧ Retired (setReg (withSem (classed s) n (fun x => { x with obs := x.obs || x.e })) d word) t 1)
    ∧ (∃ t, exec (.srdc d idx) s = .next t
      ∧ Retired (setReg (withSem (classed s) n (fun x => { x with e := false, obs := true })) d word) t 1)
    ∧ (v < 2 ^ 32 → ∃ t, exec (.sset d a idx) s = .next t
      ∧ Retired (setReg (withSem (classed s) n (fun x =>
          { count := v % 2 ^ 31, e := ((regs s).gr a.toNat).getLsbD 31,
            obs := x.obs || ((regs s).gr a.toNat).getLsbD 31 })) d word) t 1)
    ∧ (∀ (f : BitVec 1) (y : Word) (r : List Word), (myTask s).fifo f.toNat = y :: r → FirstInTurn s 4 f.toNat →
      ∃ t, exec (.pop d f) s = .next t ∧ Retired (setReg (withTask s (fun x => x.setFifo f.toNat r)) d y) t 1)
    ∧ (∀ f : BitVec 1, ((myTask s).fifo f.toNat = [] ∨ ¬FirstInTurn s 4 f.toNat) → ∃ t, exec (.pop d f) s = .next t ∧ Waits s t 4 f.toNat)

/-- R140, R158, R244: LAUNCH reads the block at g[A] and puts the child on its parent's queue, which waits from now on each
die where nothing of it waited. That it reads the whole block at issue, as one access, is the model's reading: log entry 36.
Completes: LAUNCH. -/
def Obligations.LaunchChild : Prop :=
  ∀ (a : Reg) (s : State), Runs s → Ready s [a] → Clean s [a] → FreeLaunch s → Quiet s →
    let va := (regs s).gr a.toNat
    let w := ownWords s (va + 8) 7
    let l := myLaunch s
    let child := launchOfBlock l.fn l.queue (bitOf (w.getD 3 0) 26) (bitOf (w.getD 3 0) 27) (bitsOf (w.getD 3 0) 28 3)
      true 0 w
    va.toNat % 8 = 0 → OwnBytes s va 64 → OwnSound s va 64 → doneOk s l.fn child.done true = true →
    let waiting := SMap.put s.nextLaunch { child with serial := s.nextLaunch } s.launches
    let from_ := fun (d : Nat) =>
      ({ level := ((SMap.find l.queue (s.die d).levels).getD {}).level, since := s.clock } : QueueLevel)
    ∃ t, exec (.launch a) s = .next t
      ∧ Retired { classed s with launches := waiting, nextLaunch := s.nextLaunch + 1, dies := t.dies } t 1
      ∧ ∀ d, t.die d =
          if (SMap.find d s.dies).isSome && !queueWaits s d l.queue && queueWaits { s with launches := waiting } d l.queue
          then { s.die d with levels := SMap.put l.queue (from_ d) (s.die d).levels }
          else s.die d

/-- R245, R397, R402, R403, R407: TINV drops the cached translations its scope names in every module; LOGM writes a mark
record in a LOG launch and only orders in another; MONSET makes a monitor pending from its descriptor, MONREF gives its
reference, MONRD writes its record, MONCLR marks it for the end of the phase. That TINV reaches every module of the pod is
the model's, log entry 111, and so is that MONSET and MONREF read their blocks at issue, as one access: log entry 36.
Completes: the three TINV forms, LOGM, MONSET, MONREF, MONRD, MONCLR. -/
def Obligations.InvalidateMarkMonitor : Prop :=
  ((∀ (a b : Reg) (s : State), Runs s → Ready s [a, b] → Clean s [a, b] → Quiet s →
     let f := ((regs s).gr b.toNat).toNat % 256
     (∃ t, exec (.tinvPage a b) s = .next t
       ∧ Retired (invalidated s (fun e => !(e.fn == f && e.page == pageOf ((regs s).gr a.toNat)))) t 1)
     ∧ (∃ t, exec (.tinvFunction b) s = .next t ∧ Retired (invalidated s (fun e => e.fn != f)) t 1)
     ∧ (∃ t, exec .tinvAll s = .next t ∧ Retired (invalidated s (fun _ => false)) t 1))
   ∧ (∀ (a : Reg) (s : State), Runs s → Ready s [a] → Clean s [a] → Quiet s → (myLaunch s).det = false →
     ((myLaunch s).log = false → ∃ t, exec (.logm a) s = .next t ∧ Retired (classed s) t 1)
     ∧ ((myLaunch s).log = true → (orderLog s (myTask s).die (myLaunch s).fn).replay = false →
       ∀ u, writeRecord (classed s) (myTask s).die (myLaunch s).fn
           (orderRecord s { who := { task := s.sel.task, strand := s.sel.strand }, home := .spad s.sel.task,
                            va := (regs s).gr a.toNat } { task := s.sel.task, strand := s.sel.strand } 6 0 0 false) = (u, true) →
         ∃ t, exec (.logm a) s = .next t ∧ Retired u t 1)))
  ∧ (∀ (mon : BitVec 3) (a : Reg) (s : State), Runs s → Ready s [a] → Clean s [a] → FreeLaunch s → Quiet s →
     let va := (regs s).gr a.toNat
     let m := (myLaunch s).mon mon.toNat
     let w8 := ownWords s va 8
     let w4 := ownWords s va 4
     (∀ pa : Nat → Nat, va.toNat % 64 = 0 → OwnBytes s va 64 → OwnSound s va 64 → descOk w8 = true → m.armed = false →
       m.pending = false →
       (∀ p ∈ rangePages (descMonitor w8), ∃ e die, walk s (myLaunch s).fn p = .ok e ∧ e.pa = pa p
         ∧ homeOfPa s (pa p) = some (.hbm die)) →
       (∀ die, portUse s die < 64) →
       ∃ t, exec (.monset mon a) s = .next t
         ∧ Retired (withMonitor (classed s) mon.toNat (fun o => { descMonitor w8 with
             pending := true, pages := (rangePages (descMonitor w8)).map (fun p => (p, pa p)),
             maps := mapsOf s (myLaunch s).fn ((rangePages (descMonitor w8)).map pa),
             party := (s.sel.task, s.sel.strand), holder := o.holder })) t 1)
     ∧ (va.toNat % 32 = 0 → OwnBytes s va 32 → OwnSound s va 32 → w4.getD 3 0 < 2 → (m.armed = true ∨ m.pending = true) →
       ∃ t, exec (.monref mon a) s = .next t
         ∧ Retired (withMonitor (classed s) mon.toNat (fun o => { o with
             ref := sintOf 128 (w4.getD 0 0 + 2 ^ 64 * w4.getD 1 0), rdig := w64 (w4.getD 2 0),
             dchk := w4.getD 3 0 == 1 })) t 1)
     ∧ (va.toNat % 64 = 0 → OwnBytes s va 64 →
       ∃ t, exec (.monrd mon a) s = .next t ∧ OwnStored s t va 64 (packFields ((monRecord m).map (fun x => (x, 64))))
         ∧ KeepsG s t ∧ KeepsPreds s t ∧ FallsThrough s t 1 ∧ t.launches = s.launches ∧ t.mem = s.mem)
     ∧ (∃ t, exec (.monclr mon) s = .next t
         ∧ Retired (if m.armed || m.pending then withMonitor (classed s) mon.toNat (fun o => { o with clearing := true })
             else classed s) t 1))

/-! ### Pushes -/

/-- R54, R55, R251, R254, R259, R265, R284, R285, R294: a vector instruction enters the VE queue with its g operands, its
entry of the format table, the shape and the rest it captures; SEQ counts it, and a g destination is awaited. Under an armed
nest it takes the nest, and the arming ends. A vector memory instruction enters with base and stride; SEQ does not count it.
Completes: every form of `vectorTable` and `vectorMemoryTable`, whose effect at issue is the entry. -/
def Obligations.VectorPush : Prop :=
  (∀ (i : Instr) (ga gb gd : Option Reg) (u : VUse) (s : State), vectorTable i = some (ga, gb, gd) → vuse i = some u →
     FreeLaunch s →
     Ready s (ga.toList ++ gb.toList ++ gd.toList) → Clean s (ga.toList ++ gb.toList) →
     let cap := fun nest => vectorCaptured s (operandG s ga) (operandG s gb) (formatTaken s u) nest
     (Runs s → PushOk s i u (cap none) →
       ∃ t, exec i s = .next t ∧ Retired (awaiting (counted (withPush s 0 i (cap none))) gd) t (parcels i))
     ∧ (∀ (n resume : Nat), (me s).arming = some { nest := some n, resume } → nestBody i = true →
       let s0 := withStrand s (fun x => { x with arming := none })
       Runs s0 → PushOk s i u (cap (some n)) →
       ∃ t, exec i s = .next t
         ∧ Retired (awaiting (counted (withPush s0 0 i (cap (some n)) resume)) gd) t (parcels i)))
  ∧ (∀ (i : Instr) (f : VM) (stride : Bool) (s : State), vectorMemoryTable i = some (f, stride) → Runs s → FreeLaunch s →
     (me s).reports = [] →
     let b := if stride then some f.b else none
     Ready s (f.a :: b.toList) → Clean s (f.a :: b.toList) →
     let cap := vectorCaptured s ((regs s).gr f.a.toNat) (operandG s b) none none
     shapeOk i f.et.toNat (bitsOf cap.vsh.toNat 0 5) (bitsOf cap.vsh.toNat 8 11) (myLaunch s).vregs cap.a cap.b = true →
     ((myTask s).queue 0).length < 32 →
     ∃ t, exec i s = .next t ∧ Retired (withPush s 0 i cap) t 2)

/-- R288, R290, R293 to R295, R331: VSHAPE is CSRW of VSH, FTLD writes an entry of the format table, VNX arms a nest, each
counted by SEQ; MCFG puts (g[A] + LIT) mod 2^32 into a field of the tables E names. Completes: VSHAPE, FTLD, the VNX forms,
MCFG. -/
def Obligations.TableWrites : Prop :=
  (∀ (f : V3) (s : State), Runs s → FreeLaunch s →
     let va : Reg := f.va.setWidth 6
     let vd : Reg := f.vd.setWidth 6
     let undo := fun (k n : Nat) (old : Word) => withStrand s (fun x => { x with sync := { x.sync with
       undo := (k, n, old.toNat) :: x.sync.undo } })
     (Ready s [vd, va] → Clean s [va] →
       let old := (myTask s).vec.vsh
       let new := csrWrite (undo 0 0x40 old) s.sel.task s.sel.strand true 0x40 ((regs s).gr va.toNat)
       ∃ t, exec (.vshape f) s = .next t ∧ Retired (counted (setReg new vd old)) t 2)
     ∧ (Ready s [va] → Clean s [va] →
       let k := f.vd.toNat % 16
       ∃ t, exec (.ftld f) s = .next t
         ∧ Retired (counted (withTask (undo 1 k (SMap.get 0 (myTask s).vec.ft k)) (fun x => { x with
             vec := { x.vec with ft := SMap.set 0 x.vec.ft k ((regs s).gr va.toNat) } }))) t 2)
     ∧ (∀ n : BitVec 3, ∃ t, exec (.vnx n f) s = .next t
         ∧ Retired (counted (withStrand s (fun x => { x with arming := some { nest := some n.toNat } }))) t 2))
  ∧ (∀ (f : MC) (s : State), Runs s → FreeLaunch s → Ready s [f.a] → Clean s [f.a] →
     let key := 16 * f.lv.toNat + f.fld.toNat
     let v := ((regs s).gr f.a.toNat).setWidth 32 + f.lit
     let one := fun (s : State) (e : Nat) => withTask (withStrand s (fun x => { x with sync := { x.sync with
         undo := (2 + e, key, (SMap.get 0 (if e = 0 then (myTask s).eng.table0 else (myTask s).eng.table1) key).toNat)
           :: x.sync.undo } }))
       (fun x => if e = 0 then { x with eng := { x.eng with table0 := SMap.set 0 x.eng.table0 key v } }
         else { x with eng := { x.eng with table1 := SMap.set 0 x.eng.table1 key v } })
     ∃ t, exec (.mcfg f) s = .next t
       ∧ Retired ((if f.e = 2 then [0, 1] else [f.e.toNat % 2]).foldl one s) t 3)

/-- R309, R310, R320: a matrix command whose class an engine has enters that engine's queue with what it captures. That the
enables and MESTEER are captured at the push is the model's: log entry 64. Completes: MCLAIM, MREL, MSTAT, MGO, MTILE,
MZERO, MDRAIN, MLDACC, MSPGO, whose effect at issue is the entry. -/
def Obligations.MatrixPush : Prop :=
  ∀ (i : Instr) (q : Nat) (steered : Bool) (s : State), isMatrix i = true → Runs s → FreeLaunch s →
    let rs := (matRegs i).1.toList ++ (matRegs i).2.toList
    Ready s rs → Clean s rs → matrixPushOk s i →
    dispatchMatrix (coreOf s s.sel.task) i (matrixTaken s i) ((myTask s).eng.mesteer.getLsbD 0) = some (q, steered) →
    ((myTask s).queue (1 + q)).length < 64 →
    let u := withPush s (1 + q) i (matrixCaptured s i steered)
    ∃ t, exec i s = .next t ∧ Retired (if matCounts i then counted u else u) t 2

/-- R190, R309, R332: a matrix command whose class no engine that may take it has enters the strand's heritage routine, of
its opcode and class, to be carried out by the steps of the strand: the registers are saved, HER is set, the trap CSRs and
the heritage region describe the command, and nothing freezes. At which pc firmware has the routine is open: log entry 23.
That the strand's own steps carry the routine out is the model's, log entry 113, and so are the enables and the anchor it
captures: log entry 64. -/
def Obligations.HeritageEntry : Prop :=
  ∀ (i : Instr) (s : State), isMatrix i = true → Runs s → FreeLaunch s →
    let rs := (matRegs i).1.toList ++ (matRegs i).2.toList
    Ready s rs → Clean s rs → matrixPushOk s i →
    dispatchMatrix (coreOf s s.sel.task) i (matrixTaken s i) ((myTask s).eng.mesteer.getLsbD 0) = none →
    ∃ t, exec i s = .next t ∧ OutsideKept s t ∧ OthersKept s t
      ∧ regs t = { regs s with
          pc := Config.heritageEntry (encode i % 256) (matClass i (matrixTaken s i)), her := true }
      ∧ (me t).routine = some {
          cmd := i, pc := pcOf s, strand := s.sel.strand, serial := (myTask s).serial + 1,
          cap := matrixCaptured s i false }
      ∧ (∀ fn bank, classBearing i = some (fn, bank) →
          (myTask t).heritage = writeBytes (myTask s).heritage 0 (heritageBlock (myTask s) fn bank))
      ∧ (me t).saved = some (regs s) ∧ (me t).savedNotReady = (me s).notReady
      ∧ SiblingsKept s t ∧ (myTask t).freeze = (myTask s).freeze ∧ (myTask t).queues = (myTask s).queues
      ∧ (myTask t).spad = (myTask s).spad
      ∧ TrapHeld s t 16 ((firstParcel i).setWidth 64) false (parcels i)
      ∧ (myTask t).trap.hcmd0 = w64 (encode i) ∧ (myTask t).trap.hcmd2 = pcOf s

/-- R340 to R346: a copy command enters the queue of its channel, a gather command the queue of the gather engine with the
descriptor of 64 bytes at g[B]. That the descriptor is read at issue is the model's reading: log entry 36. Completes: CPY,
CPY2D, CPYSLOT in its three forms, FILL, FLUSH, GROW, GBAG, GSCAT, whose effect at issue is the entry. -/
def Obligations.CopyGatherPush : Prop :=
  (∀ (i : Instr) (s : State), isCopy i = true → Runs s → FreeLaunch s →
    let rs := (copyRegs i).filterMap id
    Ready s rs → Clean s rs → (∀ f, i = .cpyslotOut f → (regs s).her = true) →
    ((myTask s).queue (copyQueue i)).length < 64 →
    let cap := copyCaptured s i 0
    ∃ t, exec i s = .next t ∧ Retired (withPush s (copyQueue i) i cap 0 (footprintOf s s.sel.task i cap)) t 2)
  ∧ (∀ (f : EC) (s : State), Runs s → (regs s).her = false → Ready s [f.b, f.c] → Clean s [f.b, f.c] →
    (regs s).hnd = false → ∃ t, exec (.cpyslotOut f) s = .next t
      ∧ TrapHeld s t 1 ((firstParcel (.cpyslotOut f)).setWidth 64) false 2)
  ∧ (∀ (i : Instr) (a b : Reg) (s : State), gatherTable i = some (a, b) → Runs s → FreeLaunch s → Quiet s →
    Ready s [a, b] → Clean s [a, b] → (regs s).her = false →
    let va := (regs s).gr b.toNat
    va.toNat % 64 = 0 → OwnBytes s va 64 → OwnSound s va 64 → ((myTask s).queue 7).length < 64 →
    let cap := copyCaptured s i (packFields ((ownWords s va 8).map (fun x => (x, 64))))
    ∃ t, exec i s = .next t ∧ Retired (withPush (classed s) 7 i cap 0 (footprintOf s s.sel.task i cap)) t 2)

/-- R377 to R380: a collective command enters the queue of the collective engine with the registers it reads. Completes:
XSTEP, XSEND, XRECV, XRED, whose effect at issue is the entry. -/
def Obligations.CollectivePush : Prop :=
  ∀ (i : Instr) (a b c c1 : Option Reg) (s : State), collectiveTable s i = some (a, b, c, c1) → Runs s → FreeLaunch s →
    let rs := a.toList ++ b.toList ++ c.toList ++ c1.toList
    Ready s rs → Clean s rs → ((myTask s).queue 8).length < 64 →
    let cap : Captured :=
      { a := operandG s a, b := operandG s b, c := operandG s c, c1 := operandG s c1, her := (regs s).her,
        after := (me s).outs.map (·.id) }
    ∃ t, exec i s = .next t ∧ Retired (withPush s 8 i cap) t 2

/-! ### Engines at work -/

/-- R34 to R37, R258, R261, R265, R291, R293: the vector engine computes its next instruction: VD, VD + 1, a mask or a g
register get the results, VSTAT the flags, and the instruction leaves the queue; one that reads a register with an
uncorrectable error traps. POPV with its elements there, behind no strand's POP, takes them from its FIFO and writes VD;
VNSET writes a level of a nest. Sums, products and conversions of floats give the worked values and flags of `sumCases` and
`otherCases`. That an instruction executes whole in one step is the model's reading: log entry 46. -/
def Obligations.VectorExecutes : Prop :=
  (∀ (e : Entry) (o : VOut) (s : State), NextVector s e → vectorTable e.cmd ≠ none → readsBad (myTask s) e = false →
     (∀ f, e.cmd ≠ .popv f) → (∀ f, e.cmd ≠ .vnset f) → (∀ fn f, e.cmd ≠ .vsweep fn f) → e.cap.nest = none → e.progress = 0 →
     vCompute e.cmd (entryCtx (myTask s) e) (vectorReads (myTask s) e) = .ok o →
     enabledTrap (e.cap.vctl.getLsbD 1) (e.cap.vctl.getLsbD 2) (firstFlag o.flags 0) (firstFlag o.flags 5) = none →
     let d := (v3Of e.cmd).1.vd.toNat
     let flags := o.flags.foldl (fun a x => a ||| x) 0
     ∃ t, exec .veExecute s = .next t ∧ OutsideKept s t ∧ OthersKept s t ∧ MemoryKept s t
       ∧ (∀ q, q ≠ 0 → (myTask t).queue q = (myTask s).queue q)
       ∧ ((myTask t).queue 0).map (·.serial) = (((myTask s).queue 0).map (·.serial)).filter (fun n => n != e.serial)
       ∧ (gDest e.cmd = none → (myTask t).queue 0 = ((myTask s).queue 0).filter (fun y => y.serial != e.serial))
       ∧ (∀ n, (myTask t).vreg n = match (if n = d then o.vd else if n = d + 1 then o.vd1 else none) with
           | some v => v % 2 ^ 8192
           | none => (myTask s).vreg n)
       ∧ (∀ n, (myTask t).mreg n = match (if maskDest e.cmd = some n ∧ n ≠ 0 then o.mask else none) with
           | some v => v % 2 ^ 1024
           | none => (myTask s).mreg n)
       ∧ (∀ r v, gDest e.cmd = some r → o.g = some v →
           ((myTask t).strand e.strand).r.gr r = (if r = 0 then 0 else v)
             ∧ ((myTask t).strand e.strand).notReady = ((myTask s).strand e.strand).notReady.erase r)
       ∧ (myTask t).vec.vstat = (myTask s).vec.vstat ||| w64 flags)
  ∧ (∀ (e : Entry) (s : State), NextVector s e → readsBad (myTask s) e = true → behindLoad s s.sel.task e = false →
     ∃ t, exec .veExecute s = .next t ∧ (myTask t).trap.tcause = w64 (19 + 2 ^ 13 * parcels e.cmd)
       ∧ (myTask t).trap.tval = 0 ∧ (myTask t).trap.tpc = e.pc ∧ (myTask t).vec.v = (myTask s).vec.v)
  ∧ (∀ (f : V3) (e : Entry) (s : State), NextVector s e → readsBad (myTask s) e = false →
     let fifo := (myTask s).fifo (f.va.toNat % 2)
     let n := e.cap.b.toNat
     (e.cmd = .popv f → e.progress = 0 → e.work = [] → 0 < n → n ≤ fifo.length → n ≤ 128 →
       popFirst s s.sel.task (f.va.toNat % 2) = false →
       ∃ t, exec .veExecute s = .next t ∧ OutsideKept s t
         ∧ (myTask t).fifo (f.va.toNat % 2) = fifo.drop n
         ∧ (∀ k, k < 128 → bitsOf ((myTask t).vreg f.vd.toNat) (64 * k) 64 = if k < n then (fifo.getD k 0).toNat else 0)
         ∧ (myTask t).queue 0 = ((myTask s).queue 0).filter (fun y => y.serial != e.serial))
     ∧ (e.cmd = .vnset f → e.cap.b.toNat < 5 →
       ∃ t, exec .veExecute s = .next t ∧ OutsideKept s t
         ∧ (∀ l, l < 5 → nestLevel (SMap.get 0 (myTask t).vec.n (f.vd.toNat % 8)).toNat l =
             if l = e.cap.b.toNat then e.cap.a.toNat % 2 ^ 48
             else nestLevel (SMap.get 0 (myTask s).vec.n (f.vd.toNat % 8)).toNat l)
         ∧ (myTask t).queue 0 = ((myTask s).queue 0).filter (fun y => y.serial != e.serial)))
  ∧ (∀ c ∈ sumCases ++ otherCases, ∀ (f : V3) (e : Entry) (s : State) (k : Nat), NextVector s e → readsBad (myTask s) e = false →
     e.cmd = floatInstr c.op f → e.cap.nest = none → e.cap.ft = none → e.progress = 0 →
     f.et.toNat = c.et → f.rm.toNat = c.rm → f.sat = c.sat → e.cap.vctl.getLsbD 1 = false → e.cap.vctl.getLsbD 2 = false →
     let rows := bitsOf e.cap.vsh.toNat 0 5
     let rb := bitsOf e.cap.vsh.toNat 8 11
     rows * rb ≤ 1024 → k < rows * (rb / 4) → bitOf ((myTask s).mreg f.m.toNat) k = true →
     elem 8 ((myTask s).vreg f.va.toNat) k = c.a → elem 8 ((myTask s).vreg f.vb.toNat) k = c.b →
     elem 8 ((myTask s).vreg f.vd.toNat) k = c.d →
     ∃ t, exec .veExecute s = .next t ∧ elem 8 ((myTask t).vreg f.vd.toNat) k = c.result
       ∧ ∀ j, bitOf c.flags j = true → (myTask t).vec.vstat.getLsbD j = true)

/-- R23, R252, R265, R268, R273: integer arithmetic of the vector engine, wrapped or clamped under SAT, element by element
under the mask, and the masks of integer compares. That an instruction executes whole in one step is the model's reading:
log entry 46. -/
def Obligations.IntegerElements : Prop :=
  ∀ (e : Entry) (s : State), NextVector s e → readsBad (myTask s) e = false → e.cap.nest = none → e.cap.ft = none →
    e.progress = 0 →
    let x := myTask s
    let rows := bitsOf e.cap.vsh.toNat 0 5
    let rb := bitsOf e.cap.vsh.toNat 8 11
    rows * rb ≤ 1024 →
    (∀ f g, integerTable e.cmd = some (f, g) → f.et.toNat ≤ 3 →
      let et := f.et.toNat
      let n := rows * (rb / typeBytes et)
      ∃ t, exec .veExecute s = .next t
        ∧ (∀ r, r ≠ f.vd.toNat → (myTask t).vreg r = x.vreg r)
        ∧ (∀ k, elem et ((myTask t).vreg f.vd.toNat) k =
            if n ≤ k then 0
            else if bitOf (x.mreg f.m.toNat) k then
              let y := g (intOf et (elem et (x.vreg f.va.toNat) k)) (intOf et (elem et (x.vreg f.vb.toNat) k))
                (intOf et (elem et (x.vreg f.vd.toNat) k))
              wrapNat (8 * typeBytes et) (if f.sat then max (intLo et) (min (intHi et) y) else y)
            else if f.z then 0 else elem et (x.vreg f.vd.toNat) k))
    ∧ (∀ f g, integerCompare e.cmd = some (f, g) → f.et.toNat ≤ 3 → f.vd.toNat % 16 ≠ 0 →
      let et := f.et.toNat
      let n := rows * (rb / typeBytes et)
      ∃ t, exec .veExecute s = .next t
        ∧ (∀ r, (myTask t).vreg r = x.vreg r)
        ∧ (∀ k, bitOf ((myTask t).mreg (f.vd.toNat % 16)) k =
            if n ≤ k then false
            else if bitOf (x.mreg f.m.toNat) k then
              g (intOf et (elem et (x.vreg f.va.toNat) k)) (intOf et (elem et (x.vreg f.vb.toNat) k))
            else !f.z && bitOf (x.mreg (f.vd.toNat % 16)) k))

/-- R260, R286, R136: a vector access whose replies are all in leaves the queue, a load with its register written from what
came, once it stands behind no load of its strand that is short of its fault point; one on TSO pages sends its next word
first; one with no active element makes no access and leaves its register as it was. That such an instruction completes
where it starts is the model's, log entry 51, and so is what the padding of an A80 element holds: log entry 49. -/
def Obligations.VectorMemoryDone : Prop :=
  ∀ (e : Entry) (f : VM) (stride gather store : Bool) (s : State), s.hasTask s.sel.task = true →
    vmOf e.cmd = some (f, stride, gather, store) →
    (NextVector s e → vectorPieces (myTask s) e f stride gather = [] → f.oc ≠ 15 → readsBad (myTask s) e = false →
      vectorHeld s s.sel.task e [] = false →
      ∃ t, exec .veExecute s = .next t ∧ OutsideKept s t ∧ OthersKept s t ∧ MemoryKept s t
        ∧ (myTask t).queue 0 = ((myTask s).queue 0).filter (fun y => y.serial != e.serial)
        ∧ (∀ n, (myTask t).vreg n = (myTask s).vreg n))
    ∧ (((myTask s).queue 0).find? (fun y => y.started && y.pending.isEmpty && (vmOf y.cmd).isSome
        && !(y.rest.isEmpty && isVecLoad y.cmd && behindLoad s s.sel.task y)) = some e → e.fault = none →
    (∀ a r, e.rest = a :: r → ∃ t, exec .vectorMemoryComplete s = .next t ∧ OthersKept s t ∧ MemoryKept s t
      ∧ (∃ m, SMap.find s.nextMsg t.net = some m ∧ m.acc = a ∧ m.req = .acc a.who s.nextMsg ∧ m.reply = none)
      ∧ t.nextMsg = s.nextMsg + 1
      ∧ (myTask t).queue 0 = ((myTask s).queue 0).map (fun y =>
          if y.serial = e.serial then { y with pending := [s.nextMsg], rest := r } else y))
    ∧ (e.rest = [] → store = true ∨ (myLaunch s).det = false →
    ∃ t, exec .vectorMemoryComplete s = .next t ∧ OutsideKept s t ∧ OthersKept s t ∧ MemoryKept s t
      ∧ (myTask t).queue 0 = ((myTask s).queue 0).filter (fun y => y.serial != e.serial)
      ∧ (∀ n, (myTask t).vreg n = if store = false ∧ n = f.vd.toNat then
          loadRegister (myTask s) e f e.pieces e.inbox % 2 ^ 8192 else (myTask s).vreg n)))

/-- R17, R18, R46, R65, R300, R301, R315, R320: the head of a matrix queue waits for WT and its turn, ends at once under E,
and MCLAIM, MREL, MZERO and a tile step, exact-window or not, take their effect. That a tile is computed when it starts, and
that E is looked at after the subtraction, are the model's: log entries 58, 63. -/
def Obligations.MatrixStarts : Prop :=
  ∀ (q : Nat) (e : Entry) (s : State), Head s q e → q = 1 ∨ q = 2 → Fresh e → matrixOrder (myTask s) e = none →
    let l := linkOf e.cmd
    let x := (myTask s).sem l.ws
    let turn := headFirst (myTask s) (min q 9) l.ws
    (e.tookWt = false → l.wt ≠ 0 → (x.count < l.wt ∨ turn = true) →
      ∃ t, exec .matrixCommandStart s = .next t
        ∧ HeadNow s t q { e with wait := some { kind := 2, object := l.ws, amount := l.wt, since := s.clock } })
    ∧ (e.tookWt = false → l.wt ≠ 0 → l.wt ≤ x.count → turn = false → x.e = true →
      ∃ t, exec .matrixCommandStart s = .next t
        ∧ HeadDone (withSem s l.ws (fun x => { x with count := x.count - l.wt })) t q e true)
    ∧ (Goes s e →
      (∀ f, e.cmd = .mclaim f → let n := f.a.toNat % 32
        let claimed := withTask s (fun x => x.setSlot n { x.slot n with state := 1, fb := false })
        (mayClaim (myTask s) q e n = true → ((myTask s).slot n).taint = false →
          ∃ t, exec .matrixCommandStart s = .next t ∧ HeadDone claimed t q e false)
        ∧ (mayClaim (myTask s) q e n = true → ((myTask s).slot n).taint = true → l.si ≠ 0 →
          ∃ t, exec .matrixCommandStart s = .next t ∧ HeadDone (absorbError claimed s.sel.task) t q e true)
        ∧ (mayClaim (myTask s) q e n = false →
          ∃ t, exec .matrixCommandStart s = .next t
            ∧ HeadNow s t q { e with tookWt := true, wait := some { kind := 5, object := n, since := s.clock } }))
      ∧ (∀ f, e.cmd = .mrel f → let y := (myTask s).slot (f.a.toNat % 32)
        y.state = 2 → (y.taint = true → y.rc ≠ 0 → l.si ≠ 0) →
        ∃ t, exec .matrixCommandStart s = .next t
          ∧ HeadDone (withTask s (fun x => x.setSlot (f.a.toNat % 32)
              (let y := x.slot (f.a.toNat % 32)
               if y.rc = 0 then { y with state := 0, taint := false } else { y with state := 3 }))) t q e
              (decide (y.rc ≠ 0) && y.taint))
      ∧ (∀ f, e.cmd = .mzero f →
        ∃ t, exec .matrixCommandStart s = .next t
          ∧ HeadNow (withTask s (fun x => x.setBank (f.c.toNat % 4) {})) t q
              { e with tookWt := true, started := true, finished := true, walkFault := none })
      ∧ (∀ fn f, e.cmd = .mtile fn f → mfBlock (matMf fn.toNat e.cap.ft) = false → fn.getLsbD 5 = false →
        let xw := matXw fn.toNat e.cap.ft
        let a := f.a.toNat % 32
        let b := f.b.toNat % 32
        let c := f.c.toNat % 4
        TileSound (myTask s) xw c a b →
        ∃ t, exec .matrixCommandStart s = .next t ∧ OutsideKept s t ∧ MemoryKept s t
          ∧ (∀ n, (myTask t).bank n = (tiled (myTask s) e (matMf fn.toNat e.cap.ft) xw c a b).bank n)
          ∧ (∃ y r, (myTask t).queue q = y :: r ∧ y.started = true ∧ y.finished = true
              ∧ y.uses = usesOf false a b (f.c.getLsbD 2) (f.c.getLsbD 3))))

/-- R18, R46, R307, R308, R313, R315, R320: an action of an MGO that is a tile step adds the slots' product to the bank, or
in exact-window mode to its pair, releases the slots its level releases, and is counted; a finished matrix command ends its
use of slots and signals, with E after an error, or when a slot or bank of it has lost data since it started. That a tile is
computed when it starts is the model's choice: log entry 63. -/
def Obligations.MatrixCompletes : Prop :=
  (∀ (q i : Nat) (fn : BitVec 6) (f : EC) (e : Entry) (s : State), Head s q e → q = 1 ∨ q = 2 → e.started = true →
     e.finished = false → e.cmd = .mgo fn f → mgoAction e.cap.table e.progress = .tile i →
     mfBlock (matMf fn.toNat e.cap.ft) = false → fn.getLsbD 5 = false →
     let xw := matXw fn.toNat e.cap.ft
     let a := (mgoSlots e.cap.table i).1
     let b := (mgoSlots e.cap.table i).2
     let c := mgoStepBank e fn f i
     TileSound (myTask s) xw c a b →
     ∃ t, exec .mgoAction s = .next t ∧ OutsideKept s t ∧ MemoryKept s t
       ∧ (∀ n, (myTask t).bank n = (tiled (myTask s) e (matMf fn.toNat e.cap.ft) xw c a b).bank n)
       ∧ (∀ n r, (n, r) ∈ usesOf false a b (mgoReleases e.cap.table i).1 (mgoReleases e.cap.table i).2 →
           (myTask t).slot n = slotAfter ((myTask s).slot n) r)
       ∧ (∀ n, n ≠ a → n ≠ b → (myTask t).slot n = (myTask s).slot n)
       ∧ (∃ y r, (myTask t).queue q = y :: r ∧ y.progress = e.progress + 1 ∧ y.started = true
           ∧ y.finished = decide (mgoActions e.cap.table ≤ e.progress + 1)))
  ∧ (∀ (q : Nat) (e : Entry) (s : State), Head s q e → q = 1 ∨ q = 2 → e.started = true → e.finished = true →
     enabledTrap (e.cap.vctl.getLsbD 1) (e.cap.vctl.getLsbD 2) e.firstInvalid e.firstXw = none →
     (e.err = true → (linkOf e.cmd).si ≠ 0) →
     (lateTaint (myTask s) e = false →
       ∃ t, exec .matrixCommandComplete s = .next t
         ∧ HeadDone (withTask s (fun x => e.uses.foldl (fun x u => endUse x u.1) x)) t q e (e.err || e.skip))
     ∧ (lateTaint (myTask s) e = true → (linkOf e.cmd).si ≠ 0 →
       ∃ t, exec .matrixCommandComplete s = .next t ∧ (myTask t).queue q = ((myTask s).queue q).drop 1
         ∧ (∀ n, (myTask t).sem n = if n = (linkOf e.cmd).ss then ((myTask s).sem n).add (linkOf e.cmd).si true
             else (myTask s).sem n)))

/-- R17, R18, R65, R300, R340, R342, R344 to R346: the head of a copy channel waits for WT and its turn, starts, and a
CPYSLOT takes its slot; a copy command whose writes have performed signals; FILL of the own scratchpad writes its eight
bytes over the range, each at the address that has its place in them. The pieces copies move in are the model's choice, log
entry 70, and so are that E is looked at after the subtraction, log entry 58, and that an engine's accesses perform in its
own step: log entry 32. -/
def Obligations.CopyRuns : Prop :=
  (∀ (q : Nat) (e : Entry) (s : State), Head s q e → 3 ≤ q ∧ q ≤ 6 → Fresh e → (myLaunch s).det = false →
     notifyAddr e = none → s.sel.count = 0 →
     let l := linkOf e.cmd
     let x := (myTask s).sem l.ws
     let turn := headFirst (myTask s) (min q 9) l.ws
     (e.tookWt = false → l.wt ≠ 0 → (x.count < l.wt ∨ turn = true) →
       ∃ t, exec .copyGatherCommandStart s = .next t
         ∧ HeadNow s t q { e with wait := some { kind := 2, object := l.ws, amount := l.wt, since := s.clock } })
     ∧ (e.tookWt = false → l.wt ≠ 0 → l.wt ≤ x.count → turn = false → x.e = true →
       ∃ t, exec .copyGatherCommandStart s = .next t
         ∧ HeadNow (withSem s l.ws (fun x => { x with count := x.count - l.wt })) t q
             { e with tookWt := true, started := true, finished := true, skip := true })
     ∧ (Goes s e →
       (∀ f, (e.cmd = .cpy false f ∨ e.cmd = .fill f) → e.cap.c.toNat < 2 ^ 40 →
         ∃ t y, exec .copyGatherCommandStart s = .next t ∧ HeadNow s t q y ∧ y.started = true ∧ y.finished = false
           ∧ y.cmd = e.cmd ∧ y.cap = e.cap ∧ y.progress = 0)
       ∧ (∀ scope f, e.cmd = .flush scope f → scope.toNat < 5 →
         ∃ t, exec .copyGatherCommandStart s = .next t
           ∧ HeadNow s t q { e with tookWt := true, started := true, finished := true })
       ∧ (∀ f, e.cmd = .flush 5 f →
         ∃ t, exec .copyGatherCommandStart s = .next t
           ∧ t.toHost = s.toHost.filter (fun w => w.1 != (myLaunch s).fn))
       ∧ (∀ f, e.cmd = .cpyslotClaim f → e.cap.c.toNat < 2 ^ 32 →
         mayClaim (myTask s) q e (f.a.toNat % 32) = true →
         ∃ t y, exec .copyGatherCommandStart s = .next t
           ∧ HeadNow (withTask s (fun x => x.setSlot (f.a.toNat % 32)
               { x.slot (f.a.toNat % 32) with state := 1, fb := true })) t q y
           ∧ y.started = true ∧ y.finished = false ∧ y.uses = [(f.a.toNat % 32, false)])))
  ∧ ((∀ (q : Nat) (e : Entry) (s : State), Head s q e → 3 ≤ q ∧ q ≤ 7 → e.started = true → e.finished = true →
     notifyAddr e = none → ((myTask s).eng.gecc.getLsbD 48 = false ∨ e.firstInvalid = none) →
     (e.err = true → (linkOf e.cmd).si ≠ 0) →
     ∃ t, exec .copyGatherCommandComplete s = .next t
       ∧ HeadDone (if e.skip = true ∧ e.uses ≠ [] then fillDone s s.sel.task e.cmd else s) t q e (e.err || e.skip))
   ∧ (∀ (q : Nat) (f : EC) (e : Entry) (s : State), Head s q e → 3 ≤ q ∧ q ≤ 6 → e.cmd = .fill f → e.started = true →
     e.finished = false → e.progress = 0 → e.err = false → e.skip = false → e.firstInvalid = none → e.cap.her = false →
     FreeLaunch s → s.sel.count = 0 → (myTask s).spsize % 8 = 0 → e.cap.a.toNat + e.cap.c.toNat ≤ (myTask s).spsize →
     e.cap.a.toNat + e.cap.c.toNat ≤ 0x600000 →
     ∃ t, exec .copyGatherCommandComplete s = .next t ∧ OutsideKept s t ∧ OthersKept s t
       ∧ (∀ a, readByte (myTask t).spad a = if e.cap.a.toNat ≤ a ∧ a < e.cap.a.toNat + e.cap.c.toNat then
           fillByte e.cap.b a else readByte (myTask s).spad a)
       ∧ (myTask t).queue q = ((myTask s).queue q).drop 1
       ∧ (myTask t).sem f.ss.toNat = if f.si ≠ 0 then ((myTask s).sem f.ss.toNat).add f.si.toNat false
           else (myTask s).sem f.ss.toNat))

/-- R348, R351: a unit of a GROW whose table lies on no TSO page copies its table row to its local row, is counted, and
announced in f0 when the descriptor asks for it; a full f0 holds it back. That an engine's accesses perform in its own step
is the model's choice: log entry 32. -/
def Obligations.GatherUnits : Prop :=
  ∀ (et : BitVec 4) (f : EC) (e : Entry) (s : State), s.hasTask s.sel.task = true →
    ((myTask s).queue 7).head? = some e → e.cmd = .grow et f → e.started = true → e.finished = false →
    let g := gatherOf e.cap.desc
    (g.nidx ≤ e.progress → ∃ t, exec .gatherUnit s = .next t ∧ HeadNow s t 7 { e with finished := true, wait := none })
    ∧ (e.progress < g.nidx → bitOf g.flags 0 = true → 64 ≤ ((myTask s).fifo 0).length → (myTask s).killed = false →
      e.wait = none →
      ∃ t, exec .gatherUnit s = .next t ∧ HeadNow s t 7 { e with wait := some { kind := 9, object := 0, since := s.clock } })
    ∧ (e.progress < g.nidx → s.sel.size = 0 → (bitOf g.flags 0 = true → ((myTask s).fifo 0).length < 64) →
      tsoTable s s.sel.task e = false → e.order = [] → SMap.get 0 e.work 3 = 0 →
      ∀ u1 u2 u3 v bs, rowIndex (onHead s s.sel.task 7 (fun e =>
          { e with unitErr := false, work := SMap.set 0 (SMap.set 0 e.work 0 0) 5 0 })) s.sel.task 7 e g e.progress
            = .ok (u1, v, false) →
        SMap.get 0 e.work (16 + v) = 0 →
        readRow u1 s.sel.task 7 e (tableRow g v) (rowSize et.toNat g.relem) = .ok (u2, bs, false) →
        engWrite u2 s.sel.task 7 e (localRow e.cmd e g e.progress) bs = .ok u3 →
        u3.hasTask s.sel.task = true →
        ∃ t, exec .gatherUnit s = .next t ∧ t.mem = u3.mem ∧ (t.task s.sel.task).spad = (u3.task s.sel.task).spad
          ∧ (t.task s.sel.task).fifo 0 = (u3.task s.sel.task).fifo 0
              ++ (if bitOf g.flags 0 then [w64 (e.progress % 2 ^ 32 + 2 ^ 32 * b2n
                    (((u3.task s.sel.task).queue 7).head?.any (·.unitErr)) + 2 ^ 40 * 0x35)] else [])
          ∧ (∀ y r, (u3.task s.sel.task).queue 7 = y :: r → (t.task s.sel.task).queue 7 = { y with
              progress := e.progress + 1, wait := none, walkFault := none,
              finished := decide (g.nidx ≤ e.progress + 1) } :: r))

/-- R18, R377 to R379, R385: XSTEP opens a window; a command that transmits waits for WBASE + 64 × SLOT10, or is late and
counted, and starts at its time, or when it is held beyond it at the next boundary, late; one with nothing left to send is
counted by XCOUNT, announced in f1 when its control word asks for it, and signals. That a command is late when it starts
after its slot time is the model's reading: log entry 76. -/
def Obligations.CollectiveRuns : Prop :=
  (∀ (e : Entry) (s : State), s.hasTask s.sel.task = true → mayStart (myTask s) = true →
     ((myTask s).queue 8).head? = some e →
     (∀ f, e.cmd = .xstep f → Fresh e → e.slotTime = none → Goes s e →
       ∃ t, exec .xeCommandStart s = .next t
         ∧ HeadDone (withTask s (fun x => { x with eng := { x.eng with wbase := e.cap.a, xcount := 0 } })) t 8 e false)
     ∧ (Fresh e → e.slotTime = none → Goes s e → transmits e = true → SMap.get 0 e.work 1 = 0 → e.late = false →
       collectiveBad s s.sel.task e = none →
       let time := (myTask s).eng.wbase.toNat + 64 * slotOf e.cmd
       (s.clock.toNat ≤ time →
         ∃ t, exec .xeCommandStart s = .next t
           ∧ HeadNow s t 8 { e with tookWt := true, slotTime := some time })
       ∧ (time < s.clock.toNat → bitsOf (myTask s).eng.xlate.toNat 0 24 < 0xFFFFFF →
         ∃ t, exec .xeCommandStart s = .next t
           ∧ HeadNow (withTask s (fun x => { x with eng := { x.eng with xlate := x.eng.xlate + 1 } })) t 8
               { e with tookWt := true, late := true,
                        slotTime := some (nextBoundary (myTask s).eng.wbase.toNat s.clock.toNat) }))
     ∧ (e.slotTime = some s.clock.toNat → e.started = false → s.sel.count = 0 →
       ∃ t, exec .xeTransmissionStart s = .next t
         ∧ HeadNow s t 8 { e with started := true, slotTime := none, wait := none, work := SMap.put 1 1 e.work })
     ∧ (∀ a, e.slotTime = some a → a < s.clock.toNat → e.started = false → e.late = false →
       bitsOf (myTask s).eng.xlate.toNat 0 24 < 0xFFFFFF →
       let b := nextBoundary (myTask s).eng.wbase.toNat s.clock.toNat
       b ≠ s.clock.toNat →
       ∃ t, exec .xeTransmissionStart s = .next t
         ∧ HeadNow (withTask s (fun x => { x with eng := { x.eng with xlate := x.eng.xlate + 1 } })) t 8
             { e with late := true, slotTime := some b }))
  ∧ (∀ (e : Entry) (s : State), s.hasTask s.sel.task = true → ((myTask s).queue 8).head? = some e → e.started = true →
     e.finished = true → e.pending = [] → e.walkFault = none → e.skip = false → ctlRinc e.cap.c = 0 →
     e.firstInvalid = none → e.firstXw = none → (e.err = true → (linkOf e.cmd).si ≠ 0) →
     (ctlFifo e.cap.c = true → ((myTask s).fifo 1).length < 64) →
     ∃ t, exec .xeCommandComplete s = .next t
       ∧ HeadDone (withTask s (fun x =>
           let y := { x with eng := { x.eng with xcount := x.eng.xcount + 1 } }
           if ctlFifo e.cap.c then y.setFifo 1 (y.fifo 1
             ++ [w64 ((x.eng.xcount + 1).toNat + 2 ^ 32 * b2n e.err + 2 ^ 40 * collectiveOp e.cmd)]) else y)) t 8 e e.err)

/-! ### Requests, answers, links and walks -/

/-- R65, R104, R125, R164, R228, R238, R366, R369: a load, a store, an atomic and a semaphore signal perform at their home
as one event and are answered; one of host memory goes on to the host first; a request whose task has moved from the core it
names is forwarded within its die, where one of the station's 32 entries is free, and a forwarded one is served where the
home is, or redirected when it has moved again. That a task that is out keeps its saved image up to date, and what stands
there, is the model's: log entry 123. Completes: REQUEST_READ, HOST_LINK_COMPLETION, REQUEST_WRITE, REQUEST_ATOMIC,
SEMAPHORE_SIGNAL, COLLECTIVE_DATA, FORWARDED_REQUEST. -/
def Obligations.RequestsPerform : Prop :=
  (∀ (m : Msg) (s : State), AtHome s m →
     let id := s.sel.msg
     let a := m.acc
     let old := homeRead s a.home a.addr a.size
     (Arrived s m 0 → a.op = .load →
       ((∀ j, a.home ≠ .host j) → (∀ k, a.home = .spad k → isSemAddr a.addr = false) →
         ∃ t, exec .requestRead s = .next t ∧ Answered (keepImage s a.home) t id m (.data old))
       ∧ (∀ j, a.home = .host j → ∃ t, exec .requestRead s = .next t ∧ Changed s t id (some { m with chan := 3 })))
     ∧ (SMap.find id s.net = some m → m.chan = 3 → a.op = .load → (∃ j, a.home = .host j) → (∀ ids, m.req ≠ .list ids) →
         streamWaits s m = false →
         ∃ t, exec .hostLinkCompletion s = .next t ∧ Answered s t id m (.data old))
     ∧ (Arrived s m 0 →
       (∀ bs, a.op = .store bs → ∃ t, exec .requestWrite s = .next t
           ∧ Answered (keepImage (stored s a bs) a.home) t id m (.ack false))
       ∧ (∀ k bs, a.op = .store bs → a.home = .spad k → isHeritage a.addr = false →
           ∃ t, exec .requestWrite s = .next t ∧ (t.task k).spad = writeEnabled (s.task k).spad a.addr bs)
       ∧ (∀ fn v, a.op = .atomic fn v → ∃ t, exec .requestAtomic s = .next t
           ∧ Answered (keepImage (updated s a (atomOp fn (8 * a.size) old v)) a.home) t id m
               (if a.nr then .ack false else .data old))
       ∧ (∀ cmp new, a.op = .cas cmp new → ∃ t, exec .requestAtomic s = .next t
           ∧ Answered (keepImage (if old = cmp then updated s a new else s) a.home) t id m (.data old))
       ∧ (∀ k inc e, a.op = .signal inc e → a.home = .spad k → ∃ t, exec .semaphoreSignal s = .next t
           ∧ Answered (keepImage (s.modTask k (fun x => (x.setSem ((a.addr - 0x700000) / 4)
               ((x.sem ((a.addr - 0x700000) / 4)).add inc e)).wake)) a.home) t id m (.ack false)))
     ∧ (SMap.find id s.net = some m → m.chan = 2 → m.reply = none → deliverable s m = true → (∀ ids, m.req ≠ .list ids) →
         ∀ bs, a.op = .coll bs →
         ∃ t, exec .collectiveData s = .next t ∧ Answered (keepImage (stored s a bs) a.home) t id m (.ack false)))
  ∧ (∀ (m : Msg) (s : State),
     let a := m.acc
     let old := homeRead s a.home a.addr a.size
     let gives := fun (u : State) (r : Reply) =>
       ∃ t, exec .forwardedRequest s = .next t ∧ Answered (keepImage u a.home) t s.sel.msg m r
     (Arrived s m 0 → movedAway s m = true → ∀ i, requestStep a.op = some i →
       (pendingForwards s m.at_ < 32 →
         ∃ t, exec i s = .next t
           ∧ Changed s t s.sel.msg (some { m with
               chan := 1, forwarded := true, pendingFwd := s.sel.hop == .refuse, core := (s.task a.spadTask).core? }))
       ∧ (32 ≤ pendingForwards s m.at_ → exec i s = .next s))
     ∧ (Arrived s m 1 → AtHome s m →
         (a.op = .load → (∀ k, a.home = .spad k → isSemAddr a.addr = false) → gives s (.data old))
         ∧ (∀ bs, a.op = .store bs → gives (stored s a bs) (.ack false))
         ∧ (∀ fn v, a.op = .atomic fn v →
             gives (updated s a (atomOp fn (8 * a.size) old v)) (if a.nr then .ack false else .data old))
         ∧ (∀ cmp new, a.op = .cas cmp new → gives (if old = cmp then updated s a new else s) (.data old))
         ∧ (∀ k inc e, a.op = .signal inc e → a.home = .spad k →
             gives (s.modTask k (fun x => (x.setSem ((a.addr - 0x700000) / 4)
               ((x.sem ((a.addr - 0x700000) / 4)).add inc e)).wake)) (.ack false)))
     ∧ (Arrived s m 1 → movedAway s m = true →
         ∃ t, exec .forwardedRequest s = .next t ∧ Answered s t s.sel.msg m (.redirect m.acc.home)))

/-- R113, R114, R135, R232: a remote full/empty operation at a word where none waits performs when the word's state lets it,
and waits there when it does not; a contribution opens a round, and the one that completes it at once applies it. Completes:
FULL_EMPTY_REQUEST, AMOR_CONTRIBUTION. -/
def Obligations.WaitersAndRounds : Prop :=
  (∀ (m : Msg) (k v : Nat) (s : State), Arrived s m 0 → AtHome s m → m.acc.home = .spad k → isHeritage m.acc.addr = false →
     (∀ w ∈ (s.task k).feWaiters, w.acc.addr / 8 ≠ m.acc.addr / 8) → homeBad s m.acc.home m.acc.addr 8 = false →
     let w := m.acc.addr / 8
     let full := isFull (s.task k) w
     (m.acc.op = .fe .stfl v →
       ∃ t, exec .fullEmptyRequest s = .next t ∧ SMap.find s.sel.msg t.net ≠ some m
         ∧ (t.task k).spad = writeBytes (s.task k).spad m.acc.addr (bytesOf v 8) ∧ isFull (t.task k) w = true
         ∧ (t.task k).feWaiters = (s.task k).feWaiters)
     ∧ (m.acc.op = .fe .ldfe v → full = true →
       ∃ t, exec .fullEmptyRequest s = .next t ∧ isFull (t.task k) w = false ∧ (t.task k).spad = (s.task k).spad
         ∧ (∃ n, SMap.find s.nextMsg t.net = some n ∧ n.reply = some (.data (readNat (s.task k).spad m.acc.addr 8))
             ∧ n.req = m.req ∧ n.dstStation = m.srcStation))
     ∧ (m.acc.op = .fe .ldfe v → full = false →
       ∃ t, exec .fullEmptyRequest s = .next t ∧ SMap.find s.sel.msg t.net = none ∧ t.nextMsg = s.nextMsg
         ∧ (t.task k).feWaiters = (s.task k).feWaiters ++ [{ acc := m.acc, req := some (m.req, m.srcStation) }]
         ∧ isFull (t.task k) w = false))
  ∧ (∀ (fn : AtomFn) (n lo hi v : Nat) (m : Msg) (s : State), Arrived s m 0 → AtHome s m → m.acc.op = .amor fn n lo hi v →
     let key := locKey m.acc.home m.acc.addr
     SMap.find key s.rounds = none → lo ≤ hi → hi < n →
     (hi - lo + 1 < n →
       ∃ t, exec .amorContribution s = .next t ∧ SMap.find s.sel.msg t.net = none ∧ t.nextMsg = s.nextMsg ∧ t.mem = s.mem
         ∧ SMap.find key t.rounds = some { acc := m.acc, fn, n, parts := [{ lo, hi, v, req := m.req, station := m.srcStation, acc := m.acc }] })
     ∧ (hi - lo + 1 = n →
       let old := homeRead s m.acc.home m.acc.addr m.acc.size
       ∃ t, exec .amorContribution s = .next t
         ∧ Answered (keepImage { updated s m.acc (atomOp fn (8 * m.acc.size) old v) with
               rounds := SMap.del key s.rounds } m.acc.home) t s.sel.msg m (if m.acc.nr then .ack false else .data old)))

/-- R123, R125, R219, R366, R368: data retire a parked load or atomic with its register written; an acknowledgement ends a
store; a redirect sends the access again; the fault of an access that parks no strand is reported at the next ordering
point. Completes: DATA_RESPONSE, ACKNOWLEDGEMENT, FAULT_STATUS, REDIRECT. -/
def Obligations.AnswersArrive : Prop :=
  ∀ (m : Msg) (p : Party) (o : Outstanding) (s : State),
    let k := p.strand
    let x := s.strand p.task k
    (∀ v d, Answers s m (.data v) p o → o.dest = some d → d.hi = none → o.parks = true → o.forSaved = false →
      x.live = true → (s.task p.task).dbgctl.getLsbD 0 = false →
      (x.r.hnd || x.r.her) = true ∨ loopAt (s.task p.task) k x.r.pc = none →
      ∃ t, exec .dataResponse s = .next t ∧ SMap.find s.sel.msg t.net = none
        ∧ (t.strand p.task k).outs = outsWithout s p o
        ∧ (t.strand p.task k).r.pc = x.r.pc + w64 (4 * o.ilen)
        ∧ (∀ n, (t.strand p.task k).r.gr n = if n = d.reg ∧ n ≠ 0 then
            (if d.width = 0 ∨ 64 ≤ d.width then w64 v else if d.signed then sextW (w64 v) d.width
              else zextW (w64 v) d.width) else x.r.gr n))
    ∧ (Answers s m (.ack false) p o → o.parks = false → o.dest = none → o.forSaved = false →
      ∃ t, exec .acknowledgement s = .next t ∧ SMap.find s.sel.msg t.net = none
        ∧ t.strand p.task k = { x with outs := outsWithout s p o })
    ∧ (∀ tr, Answers s m (.fault tr) p o → m.acc.nr = true → tr.cause ≠ 39 → o.parks = false → o.dest = none →
      o.forSaved = false →
      ∃ t, exec .acknowledgement s = .next t ∧ t.strand p.task k = { x with
        outs := outsWithout s p o, reports := x.reports ++ [{ pc := o.pc, ilen := o.ilen, trap := tr }] })
    ∧ (∀ tr, Answers s m (.fault tr) p o → tr.cause = 39 → o.parks = false → o.dest = none → o.forSaved = false →
      ∃ t, exec .faultStatus s = .next t ∧ t.strand p.task k = { x with
        outs := outsWithout s p o, reports := x.reports ++ [{ pc := o.pc, ilen := o.ilen, trap := tr }] })
    ∧ (∀ h, Answers s m (.redirect h) p o →
      ∃ t, exec .redirect s = .next t
        ∧ (t.strand p.task k).outs = x.outs.map (fun y => if y.id = o.id then { y with reissued := true } else y)
        ∧ (∃ n, SMap.find s.nextMsg t.net = some n ∧ n.chan = 0 ∧ n.acc = { o.acc with home := h } ∧ n.reply = none))

/-- R107, R364, R365, R367 to R369, R371: a message leaves its die's crossbar behind the older ones of its stream; a good
flit makes its hop in a free slot, the message when its last flit has; a bad one is sent again up to fifteen times, and the
sixteenth failure answers with LINK_ERROR and retires a lane of the hop; the station at a ring's end refuses once. -/
def Obligations.FlitsHop : Prop :=
  ∀ (m : Msg) (s : State), let id := s.sel.msg
    SMap.find id s.net = some m → m.chan ≤ 2 →
    (m.xbar = true →
      (∀ e ∈ s.net, e.2.xbar = true → sameStream e.2 m = true → ∀ i j, e.2.req.id? = some i → m.req.id? = some j → j ≤ i) →
      ∃ t, exec .flitHop s = .next t ∧ Changed s t id (some { m with xbar := false, entered := s.entered })
        ∧ t.entered = s.entered + 1)
    ∧ (m.xbar = false → m.pendingFwd = true →
      ∃ t, exec .flitHop s = .next t ∧ Changed s t id (some { m with pendingFwd := false }))
    ∧ (m.xbar = false → m.pendingFwd = false → m.at_ ≠ m.dstStation →
      let h := hopOf s m
      let slot := m.slot.getD (laneSlot s h)
      let ends := endsRing (podModules s) h m.dstStation
      (s.sel.hop = .good → HopFree s id m slot →
        (m.seq < m.nfl →
          ∃ t, exec .flitHop s = .next t ∧ Changed s t id (some { m with seq := m.seq + 1, slot := some slot, fails := 0 }))
        ∧ (m.nfl ≤ m.seq →
          ∃ t, exec .flitHop s = .next t ∧ Changed s t id (some { m with
            at_ := h.next, slot := if ends then none else some slot, seq := 0, fails := 0 })))
      ∧ (s.sel.hop = .crcBad → m.fails < 15 →
        ∃ t, exec .flitHop s = .next t ∧ Changed s t id (some { m with fails := m.fails + 1 }))
      ∧ (s.sel.hop = .crcBad → 15 ≤ m.fails → m.chan = 0 → (∀ ids, m.req ≠ .list ids) →
        ∃ t n, exec .flitHop s = .next t ∧ SMap.find s.nextMsg t.net = some n ∧ n.req = m.req
          ∧ n.dstStation = m.srcStation ∧ n.reply = some (.fault { cause := 39, tval := m.acc.va })
          ∧ t.service = (retireLane s (podModules s) m.at_ m.dstStation).service)
      ∧ (s.sel.hop = .refuse → m.chan ≤ 1 → ends = true → refusal m h.next = none → pairAhead s m = false →
        (m.slot = none → slotTaken s id m h slot = false) → (∀ inc e, m.acc.op ≠ .signal inc e) →
        ∃ t, exec .flitHop s = .next t
          ∧ Changed s t id (some { m with slot := some slot, refusedAt := m.refusedAt ++ [(h.next, s.entered)] })
          ∧ t.entered = s.entered + 1))

/-- R189: a walker ends the pending walk that is next: its translation is in the die's cache, or its fault with the waiting
strand, which issues again. -/
def Obligations.WalksEnd : Prop :=
  ∀ (w : Walk) (k n : Nat) (s : State), nextWalk (s.die s.sel.die) = some w → w.waiters = [.strand k n] →
    s.hasTask k = true → (∃ x, (s.strand k n).wait = some x ∧ x.kind = 0) →
    (∀ e, walk s w.fn w.page = .ok e →
      ∃ t, exec .translationWalk s = .next t ∧ e ∈ (t.die s.sel.die).dieTlb ∧ (t.strand k n).wait = none
        ∧ (t.strand k n).walkFault = none
        ∧ (∀ v ∈ (t.die s.sel.die).walks, v.fn ≠ w.fn ∨ v.page ≠ w.page))
    ∧ (∀ f, walk s w.fn w.page = .error f →
      ∃ t, exec .translationWalk s = .next t ∧ (t.strand k n).wait = none
        ∧ (t.strand k n).walkFault = some (w.page, { cause := f.cause, stage := f.stage })
        ∧ (∀ v ∈ (t.die s.sel.die).walks, v.fn ≠ w.fn ∨ v.page ≠ w.page))

/-! ### The host -/

/-- R143, R424 to R426, R428, R429: what a packet at QRDIX does: WAITSIG passes, waits or stops its queue; SIGNAL stores or
adds once the queue's work is done; COPY becomes work; a LAUNCH is enqueued, and leaves the queue when it is judged; the
queue has then had its turn. The owner tag of a launch, the writes SIGNAL flushes and what a ring's page must have are the
model's: log entries 29, 87, 130. -/
def Obligations.PacketsTaken : Prop :=
  ∀ (p : Nat) (s : State), s.sel.item = 0 → s.sel.count = 0 →
    let k := namedQueue s
    let q := s.hostQueue k
    let fn := k / 16
    let addr := bitsOf p 64 64
    let w := tookTurn s k
    (∀ h a, PacketAt s k 2 p → addr % 8 = 0 → hostPlace s fn (w64 addr) .read = some (h, a) →
      let v := homeRead s h a 8
      (bitOf v 63 = true → ∃ t, exec .packetWaitsig s = .next t ∧ QueueStops w t k 7 q.rdix)
      ∧ (bitOf v 63 = false → v ≤ bitsOf p 128 63 → PacketWritable w k p →
          ∃ t, exec .packetWaitsig s = .next t ∧ PacketDone w t k p)
      ∧ (bitOf v 63 = false → bitsOf p 128 63 < v → exec .packetWaitsig s = .next w))
    ∧ (∀ h a, PacketAt s k 3 p → addr % 8 = 0 → hostPlace s fn (w64 addr) (if bitOf p 192 then .readWrite else .write) = some (h, a) →
      let v := bitsOf p 128 64
      let new := if bitOf p 192 then (homeRead s h a 8 + v) % 2 ^ 64 else v
      let u := drainHost (homeWrite (drainHost w fn) fn h a (enabledBytes new 8)) fn
      (q.launches = [] → q.copies = [] → PacketWritable u k p →
        ∃ t, exec .packetSignal s = .next t ∧ PacketDone u t k p)
      ∧ ((q.launches ≠ [] ∨ q.copies ≠ []) → exec .packetSignal s = .next w))
    ∧ (PacketAt s k 4 p →
      let c : HostCopy := { dst := w64 (bitsOf p 64 64), src := w64 (bitsOf p 128 64), done := w64 (bitsOf p 256 64),
                            len := bitsOf p 192 64 }
      let u := w.modQueue k (fun q => { q with
        copies := SMap.put (workKey q q.rdix) { c with order := (hostOrder s fn c).code } q.copies })
      bitsOf p 192 64 < 2 ^ 40 → bitsOf p 256 64 % 8 = 0 → PacketWritable u k p →
      ∃ t, exec .packetCopy s = .next t ∧ PacketDone u t k p)
    ∧ (PacketAt s k 1 p → q.busy = none →
      let l := launchOfBlock fn (queueNumber s k) (bitOf p 20) (bitOf p 21) (bitsOf p 16 3) false q.rdix
        ((List.range 7).map (fun i => bitsOf p (64 + 64 * i) 64))
      doneOk s fn l.done false = true →
      let waiting := SMap.put s.nextLaunch { l with serial := s.nextLaunch } s.launches
      exec .packetLaunch s = exec .packetLaunch
        ((enqueueLaunch s l).modQueue k (fun q => { q with busy := some s.nextLaunch }))
        ∧ (enqueueLaunch s l).launches = waiting ∧ (enqueueLaunch s l).nextLaunch = s.nextLaunch + 1)
    ∧ (∀ key die l, PacketAt s k 1 p → q.busy = some key → SMap.find key s.launches = some l → l.phaseOf = .waiting →
      (∀ e ∈ s.launches, e.2.queue = l.queue → e.2.phaseOf = .waiting → l.serial ≤ e.2.serial) →
      l.width = 1 → l.height = 1 → l.det = false → l.log = false → judge s l 0 s.sel.flag = .accept →
      gridDie s l.fn l.ox l.oy 0 = some die → (s.die die).remap.length < 1024 →
      PacketWritable s k p →
      ∃ t u, exec .packetLaunch s = .next t ∧ AcceptedOne s u key die l
        ∧ PacketDone (u.modQueue k (fun q => { q with launches := SMap.put (workKey q q.rdix) key q.launches })) t k p)

/-- R145, R244, R430: completed work of a queue leaves it: QSTAT tells it, DONE is decremented and shows a failure in bit
63, and the launch is gone. -/
def Obligations.PacketWorkCompletes : Prop :=
  ∀ (s : State), let k := namedQueue s
    let n := s.sel.item
    let q := s.hostQueue k
    (∀ key l status, SMap.find n q.launches = some key → SMap.find key s.launches = some l → l.phaseOf = .done status →
      status < 256 →
      ∃ t, exec .packetCompletion s = .next t ∧ SMap.find key t.launches = none
        ∧ t.hostQueue k = { q with launches := SMap.del n q.launches, qstat := eventWord q.qstat status n }
        ∧ (∀ h a, l.done ≠ 0 → (∀ j, h ≠ .spad j) → wordHome (drainHost s (k / 16)) (k / 16) l.done = some (h, a) →
            homeRead t h a 8 = doneAfter status (homeRead s h a 8)))
    ∧ (∀ c, SMap.find n q.launches = none → SMap.find n q.copies = some c → c.ended = true →
      ∃ t, exec .packetCompletion s = .next t
        ∧ t.hostQueue k = { q with copies := SMap.del n q.copies, qstat := eventWord q.qstat (if c.failed then 7 else 0) n }
        ∧ (∀ h a, c.done ≠ 0 → (∀ j, h ≠ .spad j) → wordHome (drainHost s (k / 16)) (k / 16) c.done = some (h, a) →
            homeRead t h a 8 = doneAfter (if c.failed then 7 else 0) (homeRead s h a 8)))

/-- R414 to R418, R420, R421, R423: register writes of a function: a notify makes packets eligible or stops the queue, EN
starts it at 0 and stops it, RESUME clears STOPPED, SKIP with it passes over the packet (a launch not accepted yet then
goes: log entry 131); a plain register takes its value; a store to the window changes the bytes of granules the function
owns, and one that the aperture refuses is counted. -/
def Obligations.HostRegisters : Prop :=
  ∀ (s : State), let fn := s.sel.fn
    (∀ j, j < 16 → RegisterWrite s (8 * j) → (s.hostQueue (16 * fn + j)).qctl.getLsbD 0 = true →
      s.sel.val.toNat < 2 ^ 32 →
      let k := 16 * fn + j
      let q := s.hostQueue k
      let ahead := idxDiff s.sel.val.toNat q.rdix
      idxDiff q.wrix q.rdix ≤ ahead →
      (ahead ≤ 2 ^ q.qsize →
        exec .notify s = .next (s.modQueue k (fun q => { q with wrix := s.sel.val.toNat })))
      ∧ (2 ^ q.qsize < ahead → ∃ t, exec .notify s = .next t ∧ QueueStops s t k 2 s.sel.val.toNat))
    ∧ (∀ j, j < 16 → RegisterWrite s (0x1010 + 64 * j) →
      let k := 16 * fn + j
      let q := s.hostQueue k
      let v := s.sel.val &&& 0xFF
      (q.qctl.getLsbD 0 = false → s.sel.val.getLsbD 0 = true →
        exec .queueEnable s = .next ((letGo s k).modQueue k (fun q =>
          { q with qctl := v, rdix := 0, wrix := 0, stopped := false, epoch := q.epoch + 1 })))
      ∧ (q.qctl.getLsbD 0 = true → s.sel.val.getLsbD 0 = false →
        (s.sel.val.getLsbD 8 = false → exec .queueDisable s = .next (s.modQueue k (fun q => { q with qctl := v })))
        ∧ (s.sel.val.getLsbD 8 = true → s.sel.val.getLsbD 9 = false →
          exec .queueDisable s = .next (s.modQueue k (fun q => { q with qctl := v, stopped := false })))
        ∧ (s.sel.val.getLsbD 8 = true → s.sel.val.getLsbD 9 = true →
          exec .queueDisable s = .next ((letGo s k).modQueue k (fun q =>
            { q with qctl := v, stopped := false, rdix := (q.rdix + 1) % 2 ^ 32 }))))
      ∧ (q.qctl.getLsbD 0 = s.sel.val.getLsbD 0 → s.sel.val.getLsbD 8 = true →
        (s.sel.val.getLsbD 9 = false →
          exec .queueResume s = .next (s.modQueue k (fun q => { q with qctl := v, stopped := false })))
        ∧ (s.sel.val.getLsbD 9 = true →
          exec .queueResumeSkip s = .next ((letGo s k).modQueue k (fun q =>
            { q with qctl := v, stopped := false, rdix := (q.rdix + 1) % 2 ^ 32 })))))
    ∧ (∀ j, j < 16 → RegisterWrite s (0x1000 + 64 * j) → (s.hostQueue (16 * fn + j)).qctl.getLsbD 0 = false →
      s.sel.val.toNat % 64 = 0 →
      exec .hostRegisterWrite s = .next (s.modQueue (16 * fn + j) (fun q => { q with qbase := s.sel.val })))
    ∧ (RegisterWrite s 0x2000 → exec .hostRegisterWrite s =
        .next (s.modFunction fn (fun f => { f with fevent := f.fevent &&& ~~~s.sel.val })))
    ∧ (s.sel.flag = false → exec .hostWindowAccess s = .next s)
    ∧ (s.sel.flag = true → s.service.resetting = false → s.service.recovery = false → s.sel.size ≤ 8 →
      ∃ t, exec .hostWindowAccess s = .next t ∧ t = { s with win := t.win }
        ∧ ∀ a, readByte t.win a =
          if s.sel.addr ≤ a ∧ a < s.sel.addr + s.sel.size ∧ a < 0x1000000 ∧ SMap.get 0 s.wown (a / 65536) = 256 + fn
          then BitVec.ofNat 8 (s.sel.val.toNat / 256 ^ (a - s.sel.addr)) else readByte s.win a)
    ∧ (s.service.resetting = false → s.service.recovery = false → s.sel.size ≤ 8 →
      (aperturePlaces s fn (s.sel.addr % 2 ^ 37) s.sel.size = none → (s.function fn).apdeny ≠ 0xFFFFFFFFFFFFFFFF →
        exec .hostApertureAccess s = .next (s.modFunction fn (fun f => { f with apdeny := f.apdeny + 1 })))
      ∧ (∀ l, s.sel.flag = true → aperturePlaces s fn (s.sel.addr % 2 ^ 37) s.sel.size = some l → l.Nodup →
        ∃ t, exec .hostApertureAccess s = .next t
          ∧ (∀ i pa, l[i]? = some pa → readByte t.mem pa = BitVec.ofNat 8 (s.sel.val.toNat / 256 ^ i))
          ∧ (∀ a, a ∉ l → readByte t.mem a = readByte s.mem a)
          ∧ t = { s with mem := t.mem, toHost := t.toHost, hostView := t.hostView })
      ∧ (s.sel.flag = false → ∀ l, aperturePlaces s fn (s.sel.addr % 2 ^ 37) s.sel.size = some l →
        exec .hostApertureAccess s = .next s))

/-! ### The signal box -/

/-- R148, R157 to R160: the die places, of the waiting tasks that a free core may hold, one of the highest level, on the
lowest such core; a queue that has waited AGE rises a level, one of launches not accepted yet too. Which launch is a queue's
head on a die is the model's: log entry 138. A step not enabled changes nothing: log entry 9. -/
def Obligations.PlacementByLevel : Prop :=
  (∀ (k c : Nat) (s : State), let die := s.sel.die
    pickTask s die = some k → TakesCore s die (s.task k) c → (s.task k).placed = false →
    s.service.resetting = false → (s.launchOf k).log = false → (s.task k).die = die →
    (∀ j x, Candidate s die j x → ∃ y, (k, y) ∈ s.tasks ∧ levelOf s x ≤ levelOf s y)
    ∧ ∃ t, exec .placement s = .next t ∧ t = { s with tasks := t.tasks, dies := t.dies }
      ∧ (t.task k).place = .running c ∧ (t.task k).placed = true ∧ (t.task k).quantum = s.clock
      ∧ (t.task k).spsize = (if (s.launchOf k).spadkb = 0 then usableBytes ((s.die die).core c)
          else (s.launchOf k).spadkb * 1024)
      ∧ (t.task k).spad = (s.task k).spad ∧ (∀ n, ((t.task k).strand n).r = ((s.task k).strand n).r)
      ∧ (∀ j, j ≠ k → SMap.find j t.tasks = SMap.find j s.tasks))
  ∧ (∀ (l : Launch) (s : State), let die := s.sel.die
    let d := s.die die
    let q := s.sel.queue
    let level := effLevel s die l
    headLaunch s die q = some l →
    (∀ w ∈ waitingLaunches s die q, (s.launch w.1).log = false) → level < 7 →
    ((((SMap.find q d.levels).getD {}).since.toNat + 1000 * SMap.get 1000 d.age level ≤ s.clock.toNat →
        exec .ageing s = .next (s.modDie die (fun d =>
          { d with levels := SMap.put q { level := level + 1, since := s.clock } d.levels })))
      ∧ (s.clock.toNat < ((SMap.find q d.levels).getD {}).since.toNat + 1000 * SMap.get 1000 d.age level →
        exec .ageing s = .next s)))

/-- R162, R163, R396: a task whose quantum is over while one of its level waits sets out to be saved, and so does one whose
strands have all waited BLOCKT; once it has drained and its strands are matched, or back at their last sync points, it is
SAVED, or PARKED, off its core. When the pair agrees is the model's choice: log entry 133. A step not enabled changes
nothing: log entry 9. -/
def Obligations.SwitchOut : Prop :=
  ∀ (s : State), let x := myTask s
    s.hasTask s.sel.task = true → (myLaunch s).log = false →
    (∀ c, x.place = .running c → x.leaving = none → x.quantum.toNat + 1000 * (s.die x.die).sliceq ≤ s.clock.toNat →
      waiterAt s x.die (levelOf s x) = true →
      exec .quantumExpiry s = .next (withTask s (fun x => { x with leaving := some 0 })))
    ∧ (∀ c, x.place = .running c → x.leaving = none → (∃ k, k < 8 ∧ (x.strand k).live = true) →
      1000 * (s.die x.die).blockt ≤ s.clock.toNat →
      (∀ e ∈ x.strands, e.2.live = true → blockedSince e.2 (s.clock.toNat - 1000 * (s.die x.die).blockt) = true) →
      waiterAt s x.die 0 = true →
      exec .blockedTimeout s = .next (withTask s (fun x => { x with leaving := some 1 })))
    ∧ (∀ c why, x.place = .running c → x.leaving = some why → drained x = true → x.feWaiters = [] → x.killed = false →
      let out := fun (t : State) => (myTask t).place = (if why = 3 then .parked else .saved)
        ∧ (myTask t).leaving = none ∧ (myTask t).parkedSince = (if why = 3 then some s.clock else none)
        ∧ (myTask t).spad = x.spad ∧ (myTask t).queues = x.queues ∧ OthersKept s t ∧ t.mem = s.mem
      (s.sel.guard = .agree →
        ∃ t, exec .preEmption s = .next t ∧ out t ∧ ∀ k, ((myTask t).strand k).r = (x.strand k).r)
      ∧ (s.sel.guard = .mismatch → x.freeze = none → (∀ k, k < 8 → (x.strand k).live = true → (x.strand k).replaying = false) →
        ∃ t, exec .preEmption s = .next t ∧ out t
          ∧ ∀ k, k < 8 → ((myTask t).strand k).r = if (x.strand k).live then (x.strand k).sync.regs else (x.strand k).r))
    ∧ (∀ c why, x.place = .running c → x.leaving = some why → drained x = false → exec .preEmption s = .next s)
    ∧ (∀ v die, s.sel.die = die → x.leaving = none → victim s die = some v → pickTask s die = none →
      waiterAt s die (effLevel s die (s.launchOf v) + 1) = true → (s.launchOf v).log = false →
      exec .preEmption s = .next (s.modTask v (fun y => { y with leaving := some 2 })))

/-- R163, R310: a switched-out task that is next takes a free core that serves its matrix commands, and a freeze that awaits
a resume lifts; one that no core of the die could serve is parked, and the host told. -/
def Obligations.SwitchInRestores : Prop :=
  ∀ (k : Nat) (s : State), let die := s.sel.die
    let x := s.task k
    x.placed = true → s.service.resetting = false → (s.launchOf k).log = false → x.die = die →
    (∀ c, pickTask s die = some k → (∀ e ∈ s.tasks, e.2.die = die → waitsForCore e.2 = true → e.2.placed = true →
        ∃ n, n < 36 ∧ CoreFor s die e.2 n) → TakesCore s die x c →
      (∀ q, q < 9 → ∀ e ∈ x.queue q, e.fault = none) →
      ∃ t, exec .switchIn s = .next t ∧ (t.task k).place = .running c ∧ (t.task k).spsize = x.spsize
        ∧ (t.task k).spad = x.spad ∧ (t.task k).quantum = s.clock ∧ (∀ n, ((t.task k).strand n).r = (x.strand n).r)
        ∧ (∀ q, q ≠ 1 → q ≠ 2 → (t.task k).queue q = (x.queue q).map (fun e => { e with walkFault := none }))
        ∧ (t.task k).freeze = (if x.pendingResume = none then x.freeze else none) ∧ t.mem = s.mem)
    ∧ ((k, x) ∈ s.tasks → waitsForCore x = true → (∀ n, n < 36 → ¬CoreFor s die x n) →
      (∀ e ∈ s.tasks, e.1 ≠ k → e.2.die = die → waitsForCore e.2 = true → e.2.placed = true → ∃ n, n < 36 ∧ CoreFor s die e.2 n) →
      ∃ t, exec .switchIn s = .next t ∧ (t.task k).place = .parked ∧ (t.task k).parkedSince = some s.clock
        ∧ (t.function (s.launchOf k).fn).fevent.getLsbD 2 = true ∧ t.mem = s.mem)

/-- R6, R171, R178, R185, R243, R394, R395: a wait ends when its condition holds; an IDLE ends after 10 µs; a wait without
bound becomes HANG; a parked task resumes or is killed; a debugger writes DBGCTL. At a forced sync point the pair compares:
where it agrees the rollback point is here, and a replay that got so far counts as corrected; where it does not the strand's
registers are those of its last sync point. When the pair agrees is the model's choice: log entry 133. A step not enabled
changes nothing: log entry 9. -/
def Obligations.WaitsEnd : Prop :=
  (∀ (s : State), s.hasTask s.sel.task = true →
     (∀ w, (me s).wait = some w → waitOver s s.sel.task s.sel.strand w = true →
       exec .waitUntilMet s = .next (withStrand s (fun x => { x with wait := none, lastWait := some w })))
     ∧ (∀ w, (me s).wait = some w → w.kind = 1 →
       (waitOver s s.sel.task s.sel.strand w = true ↔ w.amount ≤ ((myTask s).sem w.object).count))
     ∧ (∀ w, (me s).wait = some w → waitOver s s.sel.task s.sel.strand w = false → exec .waitUntilMet s = .next s)
     ∧ (∀ c, (me s).idle = some c →
       (c.toNat + 10000 ≤ s.clock.toNat → exec .idleTimeout s = .next (withStrand s (fun x => { x with idle := none })))
       ∧ (s.clock.toNat < c.toNat + 10000 → exec .idleTimeout s = .next s))
     ∧ (∀ k w, (myTask s).ended = false → (myTask s).killed = false → (myTask s).freeze = none → (myTask s).place ≠ .parked → k < 8 →
       (∀ j, j < k → ((myTask s).strand j).live = false) → ((myTask s).strand k).live = true →
       ((myTask s).strand k).wait = some w → w.kind ≠ 0 →
       w.since.toNat + 1000000 * (s.die (myTask s).die).hangto ≤ s.clock.toNat →
       ((myTask s).strand k).r.hnd = false → ((myTask s).strand k).r.her = false →
       ∃ t, exec .hang s = .next t ∧ (myTask t).trap.tcause = w64 (24 + 2 ^ 13 * (lengthAt s s.sel.task k % 8))
         ∧ (myTask t).trap.tval = 0
         ∧ (myTask t).trap.tpc = ((myTask s).strand k).r.pc
         ∧ (myTask t).trap.tstatus = statusWord ((myTask s).strand k).r (myLaunch s))
     ∧ ((myTask s).place = .parked → (myTask s).ended = false → (myTask s).killed = false →
       (∃ t, exec .parkResume s = .next t ∧ t = { s with tasks := t.tasks, dies := t.dies } ∧ OthersKept s t ∧ (myTask t).place = .saved
         ∧ (myTask t).parkedSince = none ∧ (∀ k, ((myTask t).strand k).r = ((myTask s).strand k).r)
         ∧ (myTask t).spad = (myTask s).spad)
       ∧ (∃ t, exec .parkKill s = .next t ∧ KilledTask t))
     ∧ exec .debugPathWrite s = .next (withTask s (fun x => { x with dbgctl := s.sel.val &&& 0x1F })))
  ∧ (∀ (s : State), s.hasTask s.sel.task = true → (me s).live = true → 64 ≤ (me s).sinceSync →
     let x := me s
     let c := ((myTask s).core?).getD 0
     let here : SyncPoint := { regs := x.r, seq := x.seq, undo := [], loops := (myTask s).loops, arming := x.arming,
                               notReady := x.notReady, outs := x.outs.map (·.id), alias_ := x.alias_ }
     (s.sel.guard = .agree →
       ∃ t, exec .forcedSyncPoint s = .next t ∧ OthersKept s t ∧ (x.replaying = false → OutsideKept s t)
         ∧ me t = { x with sinceSync := 0, replaying := false, guard := x.r, sync := here }
         ∧ (∀ j, j ≠ s.sel.strand → (myTask t).strand j = (myTask s).strand j)
         ∧ myTask t = { myTask s with strands := (myTask t).strands, lvq := (myTask t).lvq }
         ∧ (∀ e ∈ (myTask t).lvq, e ∈ (myTask s).lvq) ∧ (∀ e ∈ (myTask s).lvq, e.strand ≠ s.sel.strand → e ∈ (myTask t).lvq)
         ∧ (x.replaying = true → SMap.find (myTask s).die s.dies ≠ none →
             ((t.die (myTask s).die).core c).corrected = min (((s.die (myTask s).die).core c).corrected + 1) 65535))
     ∧ (s.sel.guard = .mismatch → x.replaying = false →
       ∃ t, exec .forcedSyncPoint s = .next t ∧ OthersKept s t ∧ regs t = x.sync.regs
         ∧ (me t).seq = x.sync.seq ∧ (me t).replaying = true ∧ (me t).sinceSync = 0 ∧ MemoryKept s t
         ∧ ((∀ u ∈ x.sync.undo, u.1 ≠ 0 ∧ u.1 < 6) → OutsideKept s t)))

/-- R145, R152 to R156, R200: a barrier completes when every member has arrived; the phase closes with every stamp and
record gone; a task without strands and commands ends; a launch whose tasks have ended is done, and DONE is signalled. -/
def Obligations.BarriersAndEnds : Prop :=
  (∀ (key : Nat) (s : State), let x := myTask s
    s.sel.item = key → key ≠ 0x80 → s.hasTask s.sel.task = true → SMap.find x.launch s.launches ≠ none → x.ended = false →
    let n := completed (myLaunch s) x key
    ((∀ e ∈ s.tasks, e.2.launch = x.launch → teamOf e.2 key = teamOf x key → e.2.ended = false →
        n < SMap.get 0 e.2.arrived key) →
      ∃ t, exec .teamBarrierCompletion s = .next t ∧ t = { s with launches := t.launches }
        ∧ completed (t.launch x.launch) x key = n + 1)
    ∧ ((∃ e ∈ s.tasks, e.2.launch = x.launch ∧ teamOf e.2 key = teamOf x key ∧ e.2.ended = false
        ∧ SMap.get 0 e.2.arrived key ≤ n) → exec .teamBarrierCompletion s = .next s))
  ∧ (∀ (key : Nat) (l : Launch) (s : State), s.sel.item = key → SMap.find key s.launches = some l → l.log = false →
    l.monitors = [] →
    let n := SMap.get 0 l.barriers (0x80 * 64 * 64)
    let mine := s.tasks.filter (fun e => e.2.launch == key)
    (∀ e ∈ mine, s.task e.1 = e.2) → (∃ e ∈ mine, e.2.ended = false) →
    (∀ e ∈ mine, (e.2.ended = true ∨ n < SMap.get 0 e.2.arrived 0x80) ∧ e.2.freeze = none ∧ unreadSem e.2 = none
      ∧ ∀ k ∈ e.2.strands, k.2.closing = false ∧ k.2.reports = []) →
    ∃ t, exec .phaseClose s = .next t ∧ (t.launch key).phase = l.phase + 1
      ∧ SMap.get 0 (t.launch key).barriers (0x80 * 64 * 64) = n + 1 ∧ t.mem = s.mem
      ∧ ∀ e ∈ mine, (t.task e.1).recs.stamps = [] ∧ (t.task e.1).recs.producers = [] ∧ (t.task e.1).recs.consumers = []
        ∧ (t.task e.1).recs.csrHolder = [] ∧ (t.task e.1).recs.regs = [] ∧ (∀ k, ((t.task e.1).strand k).seq = 0)
        ∧ (t.task e.1).spad = e.2.spad ∧ (∀ k, ((t.task e.1).strand k).r = (e.2.strand k).r))
  ∧ (∀ s : State, let x := myTask s
    s.hasTask s.sel.task = true → x.ended = false → (myLaunch s).log = false → (∀ e ∈ x.strands, e.2.live = false) →
    (∀ e ∈ x.queues, e.2 = []) →
    ∃ t, exec .taskEnd s = .next t ∧ TaskNow s t s.sel.task
        { x with ended := true, place := .parked, leaving := none, freeze := none }
      ∧ SMap.find x.entry (t.die x.die).remap = none)
  ∧ (∀ (key : Nat) (l : Launch) (s : State), s.sel.item = key → SMap.find key s.launches = some l → l.log = false →
    l.phaseOf = .accepted → l.monitors = [] → launchQuiet s key = true → heldByReset s key = false →
    (∀ e ∈ s.tasks, e.2.launch = key → e.2.ended = true ∧ unreadSem e.2 = none ∧ ∀ k ∈ e.2.strands, k.2.reports = []) →
    let status := if l.failed then 7 else if l.det && l.dataErr then 9 else 0
    let off := l.done.toNat - 0x20000000000
    (l.byLaunch = false → ∃ t, exec .launchCompletion s = .next t
      ∧ SMap.find key t.launches = some { l with phaseOf := .done status }
      ∧ t.tasks = s.tasks.filter (fun e => e.2.launch != key))
    ∧ (l.byLaunch = true → 0x20000000000 ≤ l.done.toNat → l.done.toNat < 0x20001000000 →
      off % 65536 ≤ 65520 → SMap.get 0 s.wown (off / 65536) = 256 + l.fn →
      ∃ t, exec .launchCompletion s = .next t ∧ SMap.find key t.launches = none
        ∧ t.tasks = s.tasks.filter (fun e => e.2.launch != key)
        ∧ readNat t.win off 8 = doneAfter status (readNat s.win off 8) ∧ readNat t.win (off + 8) 8 = status))

/-! ### Service -/

/-- R434, R441 to R445: a function reset clears its queues, registers and launches, a PF's without SR-IOV the privileged
blocks too; RESETCMD and the controller start a warm reset, in which no launch completes; its end leaves no translation and
no SAVED task; power starts the bank that verifies, or the recovery loader. What survives a reset without a rule is the
model's reading: that COPYs run on and launches that wait end too, log entry 89, what a half of the window reads after its
junction die's reset, log entry 92, that caches and walks are cleared, log entry 100, and log entries 93, 98. -/
def Obligations.Resets : Prop :=
  (∀ s : State, let fn := s.sel.fn
    (∀ e ∈ s.launches, s.launch e.1 = e.2) →
    ∃ t, exec .functionReset s = .next t ∧ (∀ e ∈ t.launches, e.2.fn ≠ fn)
      ∧ (∀ j, j < 16 → let q := t.hostQueue (16 * fn + j)
          q.qctl.getLsbD 0 = false ∧ q.rdix = 0 ∧ q.wrix = 0 ∧ q.qstat = 0 ∧ q.stopped = false ∧ q.launches = []
            ∧ q.copies = (s.hostQueue (16 * fn + j)).copies ∧ q.qbase = (s.hostQueue (16 * fn + j)).qbase)
      ∧ ((1 < fn ∨ s.sel.flag = true) → t.function fn = { s.function fn with
          fevent := 16, fevctl := 0, recbase := 0, apbase := 0, ptmctl := 0, ptmsc := 0, ptmhost := 0 })
      ∧ (fn ≤ 1 → s.sel.flag = false → t.wown = [] ∧ t.qmap = [] ∧ t.service.mtperiod = 24 ∧ t.service.pcap = 3600
          ∧ t.service.rcause = 0 ∧ t.service.suspbase = 0 ∧ t.service.susplen = 0 ∧ t.service.fwstat = 0
          ∧ (t.function fn).fcfg = 0x70 ∧ (t.function fn).hostroot = 0
          ∧ ∀ e ∈ t.dies, e.2.sliceq = 50 ∧ e.2.blockt = 4 ∧ e.2.vfmax = [] ∧ ∀ c ∈ e.2.cores, c.2.corrected = 0)
      ∧ (∀ k, k / 16 ≠ fn → (t.hostQueue k) = s.hostQueue k))
  ∧ (∀ s : State, RegisterWrite s 0x509008 → s.sel.fn ≤ 1 → s.sel.val = 0x00575253 →
    ∃ t, exec .resetcmd s = .next t ∧ t.service.resetting = true ∧ t.service.rcause = 0x3FF01
      ∧ t.service.staging = none ∧ t.mem = s.mem ∧ t.win = s.win
      ∧ (∀ k, (t.task k).core? = (s.task k).core? ∧ (t.task k).spad = (s.task k).spad))
  ∧ (∀ s : State, s.service.resetting = false → 2 ≤ s.sel.item → s.sel.item ≤ 6 →
    let mask := s.sel.val.toNat % 1024
    ∃ t, exec .warmReset s = .next t ∧ t.service.resetting = true ∧ t.service.rcause = w64 (s.sel.item + 2 ^ 8 * mask)
      ∧ t.mem = s.mem ∧ (s.sel.item ≠ 4 → t.win = s.win)
      ∧ (s.sel.item = 4 → ∀ a, readByte t.win a = if bitOf mask (8 + a / 0x800000) then 0 else readByte s.win a))
  ∧ (∀ (key : Nat) (s : State), s.service.resetting = true → key ∈ s.service.touched →
    (s.sel.item = key → exec .launchCompletion s = .next s)
    ∧ ((myTask s).launch = key → canIssue s s.sel.task s.sel.strand = false))
  ∧ (∀ s : State, s.service.resetting = true → s.sel.item = 0 →
    ∃ t, exec .warmReset s = .next t ∧ t.service.resetting = false ∧ t.service.touched = []
      ∧ (∀ d, (t.die d).dieTlb = [] ∧ (t.die d).coreTlb = [] ∧ (t.die d).walks = [])
      ∧ (∀ e ∈ t.tasks, e.2.place ≠ .saved)
      ∧ (s.service.activate = true → t.service.bank = 1 - s.service.bank ∧ t.service.activate = false))
  ∧ (∀ s : State, s.service.activate = false → let b := s.service.bank
    ∃ t, exec .powerOn s = .next t ∧ t.tasks = [] ∧ t.launches = [] ∧ t.net = [] ∧ t.win = [] ∧ t.clock = 0
      ∧ t.service.flash = s.service.flash ∧ t.service.channels = s.service.channels
      ∧ (bankOk s b = true → t.service.bank = b ∧ t.service.recovery = false)
      ∧ (bankOk s b = false → bankOk s (1 - b) = true → t.service.bank = 1 - b ∧ t.service.recovery = false)
      ∧ (bankOk s b = false → bankOk s (1 - b) = false → t.service.recovery = true))

/-- R433, R444 to R446: FWCMD stages an image and makes the staged bank the next one; staging ends with the status of what
it met; a PTM dialog keeps both clocks; an attestation request is answered, in recovery PF0's alone. Signature, version and
the function that answers a kind of request, a nonce and the measurements are opaque: log entries 7, 22. That new staging
cancels an activation and FWCMD 2 without a staged image does nothing is the model's, log entry 99, and so is where the
host's image lies: log entry 71. -/
def Obligations.FirmwareAndDialogs : Prop :=
  (∀ s : State, RegisterWrite s 0x509038 → s.sel.fn ≤ 1 → s.service.fwstat ≠ 1 →
    (s.sel.val = 1 → exec .fwStage s = .next { s with service := { s.service with
      fwstat := 1, activate := false, staging := some (hostImage s s.service.fwaddr.toNat s.service.fwlen.toNat) } })
    ∧ (s.sel.val = 2 → s.service.fwstat = 2 →
      exec .fwActivate s = .next { s with service := { s.service with activate := true } })
    ∧ (s.sel.val = 2 → s.service.fwstat ≠ 2 → exec .fwActivate s = .next s))
  ∧ (∀ (img : List Byte) (s : State), s.service.staging = some img →
    let b := 1 - s.service.bank
    let good := Config.signatureOk img = true ∧ Config.fusedVersion ≤ Config.imageVersion img
    ∃ t, exec .fwStageComplete s = .next t ∧ t = { s with service := t.service } ∧ t.service.staging = none
      ∧ (Config.signatureOk img = false → t.service.fwstat = 3 ∧ t.service.flash = s.service.flash)
      ∧ (Config.signatureOk img = true → Config.imageVersion img < Config.fusedVersion →
          t.service.fwstat = 4 ∧ t.service.flash = s.service.flash)
      ∧ (good → s.sel.flag = true → t.service.fwstat = 5 ∧ b ∈ t.service.invalidBanks)
      ∧ (good → s.sel.flag = false → t.service.fwstat = 2 ∧ SMap.find b t.service.flash = some img
          ∧ b ∉ t.service.invalidBanks))
  ∧ (∀ s : State, let f := s.function s.sel.fn
    f.ptmctl.getLsbD 0 = true →
    (f.ptmsc = 0 ∨ f.ptmsc.toNat + 10000000 ≤ s.clock.toNat →
      exec .ptmDialog s = .next (s.modFunction s.sel.fn (fun f => { f with ptmsc := s.clock, ptmhost := s.sel.val })))
    ∧ (f.ptmsc ≠ 0 → s.clock.toNat < f.ptmsc.toNat + 10000000 → exec .ptmDialog s = .next s))
  ∧ (∀ s : State, let kind := match s.sel.spdm with
      | .certificate => 0
      | .challenge => 1
      | .measurements => 2
    let digest := fun (bs : List Byte) => bytesOf (Config.sha3 bs).toNat 32
    let image := (SMap.find s.service.bank s.service.flash).getD (Config.factoryImage s.service.bank)
    let measured := digest image ++ digest (Config.heritageArea image) ++ digest (demotionState s)
      ++ digest (bytesOf Config.fusedVersion 4)
    (s.service.resetting = false → s.service.recovery = false ∨ s.sel.fn = 0 →
      exec .spdmRequest s = .next { s with doe := s.doe ++ [(s.sel.fn, Config.attest kind s.sel.nonce measured)] })
    ∧ (s.service.resetting = true ∨ (s.service.recovery = true ∧ s.sel.fn ≠ 0) → exec .spdmRequest s = .next s))

/-- R172, R437 to R440, R442, R447: every MTPERIOD hours a margin test, of a core once it is empty, puts an engine at its
first stage whose classes pass and retires a core that fails twice; a pseudo-channel goes to half rate, then to one of four
spares, then out of service; scrubs count; the clock moves 25 MHz between 600 and 1,200. Where the findings of a test stand,
from when its hours count and what it forecasts is the model's: log entries 94, 103. -/
def Obligations.LaddersScrubAndClock : Prop :=
  (∀ (c : Core) (s : State), let d := s.sel.die
    let k := s.sel.item
    let bad := s.sel.val.toNat
    SMap.find d s.dies ≠ none → k < 36 → (s.die d).core k = c → c.retired = false → s.sel.count = 0 →
    let due := c.tested.toNat + 3600000000000 * s.service.mtperiod.toNat ≤ s.clock.toNat
    let tested := fun (t : State) => ({ s with
      dies := t.dies, service := { s.service with forecasts := t.service.forecasts }, draw := s.draw + 7 } : State)
    (¬due → exec .marginTest s = .next s)
    ∧ (due → coreBusy s d k = true → ∃ t, exec .marginTest s = .next t ∧ t = { s with tasks := t.tasks }
        ∧ ∀ e ∈ t.tasks, e.2.die = d → e.2.core? = some k → e.2.ended = false → e.2.leaving ≠ none)
    ∧ (due → coreBusy s d k = false → s.sel.flag = true →
      ∃ t, exec .marginTest s = .next t ∧ t = tested t ∧ ((t.die d).core k).tested = s.clock
        ∧ ((t.die d).core k).suspect = false ∧ ((t.die d).core k).retired = false
        ∧ ((t.die d).core k).inService = c.inService
        ∧ ((t.die d).core k).me0 = (if c.me0 = 0 ∧ bad % 16 = 0 then 0 else if c.me0 ≤ 1 ∧ bad / 2 % 8 = 0 then 1
            else if c.me0 ≤ 2 ∧ bad / 4 % 4 = 0 then 2 else 3)
        ∧ ((t.die d).core k).me1 = (if c.me1 = 0 ∧ bad / 16 % 16 = 0 then 0 else if c.me1 ≤ 1 ∧ bad / 32 % 8 = 0 then 1
            else if c.me1 ≤ 2 ∧ bad / 64 % 4 = 0 then 2 else 3))
    ∧ (due → coreBusy s d k = false → s.sel.flag = false →
      ∃ t, exec .marginTest s = .next t ∧ t = tested t ∧ ((t.die d).core k).tested = s.clock
        ∧ ((t.die d).core k).failedTests = c.failedTests + 1
        ∧ ((t.die d).core k).retired = decide (1 ≤ c.failedTests)))
  ∧ (∀ s : State, let c := s.sel.item
    let key := 128 * s.sel.die + c
    let stage := SMap.get 0 s.service.channels key
    let now := fun n => ∃ t, exec .channelSubstitution s = .next t ∧ t = { s with
      service := { s.service with channels := SMap.put key n s.service.channels, forecasts := t.service.forecasts },
      draw := s.draw + 1 }
    c < 128 → c % 64 < 60 → SMap.find s.sel.die s.dies ≠ none → s.sel.size = 0 →
    (stage = 0 → now 1) ∧ (stage = 1 → sparesUsed s s.sel.die (c / 64) < 4 → now 2)
    ∧ ((2 ≤ stage ∨ (stage = 1 ∧ 4 ≤ sparesUsed s s.sel.die (c / 64))) → now 3))
  ∧ (∀ s : State, let v := s.service
    (∀ d c, s.sel.scrub = .hbmCorrected d c → ∃ t, exec .patrolScrub s = .next t
      ∧ t = { s with service := { v with scrubs := t.service.scrubs } }
      ∧ SMap.get 0 t.service.scrubs (128 * d + c) = SMap.get 0 v.scrubs (128 * d + c) + 1)
    ∧ (∀ d c, s.sel.scrub = .sramCorrected d c → ∃ t, exec .patrolScrub s = .next t
      ∧ t = { s with service := { v with scrubs := t.service.scrubs } }
      ∧ SMap.get 0 t.service.scrubs (2 ^ 16 + 64 * d + c) = SMap.get 0 v.scrubs (2 ^ 16 + 64 * d + c) + 1)
    ∧ (∀ a, s.sel.scrub = .hbmUncorrectable a → ∃ t, exec .patrolScrub s = .next t ∧ t.mem = s.mem
      ∧ SMap.get 0 t.service.scrubs (2 ^ 17) = SMap.get 0 v.scrubs (2 ^ 17) + 1)
    ∧ exec .clockThrottle s = .next { s with service := { v with clockMhz := max 600 (v.clockMhz - 25) } }
    ∧ exec .arithmeticClockRaise s = .next { s with service := { v with clockMhz := min 1200 (v.clockMhz + 25) } })

/-! ### The machine as a whole -/

/-- R13, R167, R415, R417, R422, R437, R441: what reset leaves: eight dies of 32 cores in service and 4 spares, the
registers at their reset values, no task, no launch and no message; nothing listed in a memory, in canonical form. Memories
that list nothing and read 0, and one module, are the model's choices: log entries 3, 15. -/
def Obligations.ResetValues : Prop :=
  let s := State.reset
  s.tasks = [] ∧ s.launches = [] ∧ s.net = [] ∧ s.couplings = [] ∧ s.rounds = [] ∧ s.mem = [] ∧ s.win = []
    ∧ memoriesWf s ∧ spadsWf s
    ∧ s.dies.map (·.1) = [0, 1, 2, 3, 4, 5, 6, 7]
    ∧ (∀ d, d < 8 →
      ((List.range 36).filter (fun c => ((s.die d).core c).inService)).length = 32
      ∧ (∀ c, ((s.die d).core c).me0 = 0 ∧ ((s.die d).core c).me1 = 0 ∧ ((s.die d).core c).spareBanks = 2
          ∧ ((s.die d).core c).retiredBanks = 0)
      ∧ (∀ n, n < 7 → SMap.get 1000 (s.die d).age n = 1000) ∧ (s.die d).sliceq = 50 ∧ (s.die d).blockt = 4
      ∧ (∀ f, vfLevel s d f = 7) ∧ (s.die d).slogwp = 0 ∧ (s.die d).remap = [])
    ∧ (∀ k, (s.hostQueue k).qbase = 0 ∧ (s.hostQueue k).qsize = 4 ∧ (s.hostQueue k).qctl = 0 ∧ (s.hostQueue k).rdix = 0
      ∧ (s.hostQueue k).wrix = 0 ∧ (s.hostQueue k).qstat = 0)
    ∧ (∀ f, (s.function f).fevent = 0 ∧ (s.function f).fevctl = 0 ∧ (s.function f).recbase = 0 ∧ (s.function f).fcfg = 0x70
      ∧ (s.function f).hostroot = 0)
    ∧ (∀ k, k < 4096 → queueNumber s k = k) ∧ s.wown = [] ∧ s.service.mtperiod = 24 ∧ s.service.pcap = 3600
    ∧ s.service.rcause = 0

/-- R4, R56, R58, R70: words written out from the encodings, the chapter's worked ones among them, and what they decode to. -/
def Obligations.WorkedWords : Prop :=
  decodeTableWord 32 0x00718504 = some (.add 5 6 7)
    ∧ decodeTableWord 64 0x0000E12C040A0005 = some (.vadd { vd := 40, va := 8, vb := 300, et := 7 })
    ∧ decodeTableWord 96 0x123456780000000000000906 = some (.li 9 0x12345678)
    ∧ decodeTableWord 32 (0x17 * 4 + 3 * 2 ^ 8 + 5 * 2 ^ 14 + 2 * 2 ^ 20 + 0xFE * 2 ^ 24) = some (.ldd 3 5 2 0xFE)
    ∧ decodeTableWord 32 (0x0D * 4 + 2 * 2 ^ 8 + 1 * 2 ^ 12 + 0x7FFFF * 2 ^ 13) = some (.b 2 true 0x7FFFF)
    ∧ decodeTableWord 32 (0x25 * 4 + 4 * 2 ^ 8 + 5 * 2 ^ 14 + 6 * 2 ^ 20 + 3 * 2 ^ 26 + 1 * 2 ^ 30) = some (.amoXor true 4 5 6)
    ∧ decodeTableWord 32 (0x2A * 4 + 7 * 2 ^ 8 + 8 * 2 ^ 14 + 1 * 2 ^ 20 + 0x40 * 2 ^ 22) = some (.csrw 7 8 0x40)
    ∧ decodeTableWord 64 (1 + 0x24 * 4 + 4 * 2 ^ 8 + 9 * 2 ^ 14 + 1 * 2 ^ 22 + 9 * 2 ^ 30 + 2 * 2 ^ 38 + 1 * 2 ^ 42
        + 3 * 2 ^ 44 + 4 * 2 ^ 50 + 2 * 2 ^ 56) =
      some (.mtile 4 { ws := 9, wt := 1, ss := 9, si := 2, e := 1, a := 3, b := 4, c := 2 })
    ∧ decodeTableWord 96 (2 + 0x08 * 4 + 1 * 2 ^ 8 + 5 * 2 ^ 10 + 6 * 2 ^ 13 + 7 * 2 ^ 17 + 100 * 2 ^ 64) =
      some (.mcfg { e := 1, lv := 5, fld := 6, a := 7, lit := 100 })

/-- R56, R70, R71: the fates of a word in their order: the length, the zero word, an opcode that no map of the three lengths
assigns, privilege, values outside an instruction's limits, zero fields; and that an instruction has one word. -/
def Obligations.FatesInOrder : Prop :=
  ∀ (c : DecodeCtx) (w : Nat), let first : BitVec 32 := BitVec.ofNat 32 w
    let op := w / 4 % 64
    (w % 4 = 3 → decode c w = .fate (.illegalLength first))
    ∧ (w % 2 ^ 32 = 0 → decode c w = .fate .zeroWord)
    ∧ (w % 4 = 0 → 0x30 ≤ op → decode c w = .fate (.illegalOpcode first))
    ∧ (w % 4 = 0 → op = 0 → w / 2 ^ 26 % 64 = 0 → w % 2 ^ 32 ≠ 0 → decode c w = .fate (.illegalOpcode first))
    ∧ (w % 4 = 1 → (op = 0 ∨ (0x19 ≤ op ∧ op ≤ 0x1F) ∨ (0x29 ≤ op ∧ op ≤ 0x2F) ∨ 0x3E ≤ op) →
        decode c w = .fate (.illegalOpcode first))
    ∧ (w % 4 = 2 → (op = 0 ∨ 9 ≤ op) → decode c w = .fate (.illegalOpcode first))
    ∧ (w % 4 = 0 → c.sup = false → (op = 0x2D ∨ (op = 0x2A ∧ 0x0E0 ≤ w / 2 ^ 22 % 1024)) →
        decode c w = .fate (.privilege first))
    ∧ (w % 4 = 0 → ((op = 0x01 ∧ 18 ≤ w / 2 ^ 26 % 64) ∨ (op = 0x10 ∧ w / 2 ^ 20 % 2 ^ 12 = 0)
          ∨ (op = 0x26 ∧ 6 ≤ w / 2 ^ 24 % 8) ∨ (op = 0 ∧ w / 2 ^ 26 % 64 = 5 ∧ 2 ≤ w / 2 ^ 14 % 64)) →
        decode c w = .fate (.illegalOpcode first))
    ∧ (w % 4 = 1 → ((0x0C ≤ op ∧ op ≤ 0x11 ∧ c.vregs ≤ w / 2 ^ 14 % 512) ∨ (0x20 ≤ op ∧ op ≤ 0x28 ∧ w / 2 ^ 42 % 4 = 3)) →
        decode c w = .fate (.illegalOpcode first))
    ∧ (w % 4 = 0 → ((op = 0 ∧ w / 2 ^ 26 % 64 = 1 ∧ w / 2 ^ 8 % 2 ^ 18 ≠ 0) ∨ (op = 0x11 ∧ w / 2 ^ 20 % 2 ^ 12 ≠ 0)) →
        decode c w = .fate (.reservedField first))
    ∧ (w % 4 = 2 → op = 1 → w / 2 ^ 14 % 2 ^ 50 ≠ 0 → decode c w = .fate (.reservedField first))
    ∧ (∀ i, decode c w = .instr i → encode i = w ∧ legal c i = true ∧ zeroOk i = true)

/-- R56 to R69: the decoder gives back every well-formed instruction from its bytes, whatever bytes follow, in every
privilege state and VREGS in which it is legal. -/
def Obligations.DecodeGivesBack : Prop :=
  ∀ (i : Instr) (rest : List Byte), i.wellFormed = true → i.hasWords = true →
    decodeBytes DecodeCtx.permissive (wordBytes (encode i) (4 * parcels i) ++ rest) = (.instr i, rest)
    ∧ ∀ c : DecodeCtx, (c.sup = true ∨ isPrivileged (encode i) = false) → legal c i = true →
        decode c (encode i) = .instr i

/-- R56, R57, R70, R190, R320, R340, R377: a step in which a strand issues fetches at its pc, decodes what it fetched and
executes it, or takes the fate of the word, a poisoned operand of a command word before that; a strand whose last answer
brought a trap takes it, and one that carries out a heritage routine does its next step; a strand that may not issue changes
nothing; another agent's step is its meaning. The agenda that names the next move is the model's: log entry 2; the steps of
a heritage routine are: log entry 113; that a trap waits for its strand: log entry 81; that a poisoned operand of a command
word comes before the fates of its encoding: log entry 13; how long an instruction with a fate counts as: log entry 27. -/
def Obligations.StepRunsDecoded : Prop :=
  ∀ (sel : Sel) (rest : List Pick) (s : State), let u : State := { s with agenda := rest, sel := sel }
    (s.agenda = .issue sel :: rest →
      (canIssue u sel.task sel.strand = false → step s = .next u)
      ∧ (canIssue u sel.task sel.strand = true →
        (∀ r, (regs u).struck = some r → step s = .next (takeStruck u sel.task sel.strand r))
        ∧ ((regs u).struck = none → (me u).routine ≠ none → step s = .next (routineStep u))
        ∧ ((regs u).struck = none → (me u).routine = none → ∀ p w,
          fetchParcel u sel.task sel.strand (pcOf u) = .ok p →
          fetchParcels u sel.task sel.strand (parcelCount p) 0 (pcOf u) = .ok w →
          let reads := commandRegs (regs u) w
          (∀ i, decode { sup := (myLaunch u).sup, vregs := (myLaunch u).vregs } w = .instr i → step s = exec i u)
          ∧ (∀ f, decode { sup := (myLaunch u).sup, vregs := (myLaunch u).vregs } w = .fate f →
              (∀ n ∈ reads, n ∉ (me u).notReady) →
              ((∀ n ∈ reads, (regs u).poisonOf n = 0) → step s = exec (.encodingNotInstruction f) u)
              ∧ (∀ n, reads.find? (fun n => (regs u).poisonOf n != 0) = some n →
                  step s = .next (fetchStopped (.trap { cause := 11, tval := w64 n }) 2 u))))))
    ∧ (∀ i, s.agenda = .event i sel :: rest → encode i = 0 → (∀ f, i ≠ .encodingNotInstruction f) → step s = exec i u)

/-- R5, R172: no instruction and no step stops the machine: each answers a next state. A step not enabled changes nothing:
log entry 9. -/
def Obligations.EveryStepGoesOn : Prop :=
  (∀ (i : Instr) (s : State), ∃ t, exec i s = .next t) ∧ ∀ s : State, ∃ t, step s = .next t

/-- R104, R147: a step keeps every memory in canonical form: HBM and host memory, the window, scratchpads and heritage
regions. (The form is the model's: log entry 3.) -/
def Obligations.StepKeepsMemories : Prop :=
  ∀ s t : State, memoriesWf s → spadsWf s → step s = .next t → memoriesWf t ∧ spadsWf t
end

