-- ==== Sys2Proof/Laws/SMap.lean ====
section
/-!
SUPPORT. Laws of sparse maps: a read after a write, a write leaves every other key alone, and the canonical form.
-/
namespace Sys2Proof.Machine

variable {α : Type}

@[simp] theorem SMap.find_nil (k : Nat) : SMap.find k ([] : SMap α) = none := rfl

theorem SMap.find_del_same (k : Nat) (m : SMap α) : SMap.find k (SMap.del k m) = none := by
  induction m with
  | nil => rfl
  | cons e r ih =>
    obtain ⟨j, v⟩ := e
    by_cases h : j = k <;> simp [SMap.del, SMap.find, h, ih]

theorem SMap.find_del_other {k j : Nat} (h : j ≠ k) (m : SMap α) :
    SMap.find j (SMap.del k m) = SMap.find j m := by
  induction m with
  | nil => rfl
  | cons e r ih =>
    obtain ⟨i, v⟩ := e
    by_cases hi : i = k
    · subst hi; simp [SMap.del, SMap.find, ih, Ne.symm h]
    · simp [SMap.del, SMap.find, hi, ih]

theorem SMap.find_ins_same (k : Nat) (v : α) (m : SMap α) (h : SMap.find k m = none) :
    SMap.find k (SMap.ins k v m) = some v := by
  induction m with
  | nil => simp [SMap.ins, SMap.find]
  | cons e r ih =>
    obtain ⟨j, w⟩ := e
    by_cases hj : j = k
    · simp [SMap.find, hj] at h
    · simp only [SMap.find, hj, if_false] at h
      by_cases hk : k < j <;> simp [SMap.ins, SMap.find, hk, hj, ih h]

theorem SMap.find_ins_other {k j : Nat} (h : j ≠ k) (v : α) (m : SMap α) :
    SMap.find j (SMap.ins k v m) = SMap.find j m := by
  induction m with
  | nil => simp [SMap.ins, SMap.find, Ne.symm h]
  | cons e r ih =>
    obtain ⟨i, w⟩ := e
    by_cases hk : k < i
    · simp [SMap.ins, SMap.find, hk, Ne.symm h]
    · simp only [SMap.ins, hk, if_false, SMap.find, ih]

@[simp] theorem SMap.find_put_same (k : Nat) (v : α) (m : SMap α) :
    SMap.find k (SMap.put k v m) = some v :=
  SMap.find_ins_same k v _ (SMap.find_del_same k m)

theorem SMap.find_put_other {k j : Nat} (h : j ≠ k) (v : α) (m : SMap α) :
    SMap.find j (SMap.put k v m) = SMap.find j m := by
  rw [SMap.put, SMap.find_ins_other h, SMap.find_del_other h]

@[simp] theorem SMap.get_set_same [DecidableEq α] (d : α) (m : SMap α) (k : Nat) (v : α) :
    SMap.get d (SMap.set d m k v) k = v := by
  by_cases h : v = d <;> simp [SMap.get, SMap.set, h, SMap.find_del_same]

theorem SMap.get_set_other [DecidableEq α] (d : α) (m : SMap α) {k j : Nat} (h : j ≠ k) (v : α) :
    SMap.get d (SMap.set d m k v) j = SMap.get d m j := by
  by_cases hv : v = d <;> simp [SMap.get, SMap.set, hv, SMap.find_del_other h, SMap.find_put_other h]

theorem SMap.above_del {k j : Nat} {m : SMap α} (h : SMap.above k m = true) :
    SMap.above k (SMap.del j m) = true := by
  induction m with
  | nil => rfl
  | cons e r ih =>
    obtain ⟨i, v⟩ := e
    simp only [SMap.above, List.all_cons, Bool.and_eq_true] at h ih ⊢
    by_cases hi : i = j
    · simp [SMap.del, hi, ih h.2]
    · simp [SMap.del, hi, ih h.2, h.1]

theorem SMap.sorted_del {k : Nat} {m : SMap α} (h : SMap.sorted m = true) :
    SMap.sorted (SMap.del k m) = true := by
  induction m with
  | nil => rfl
  | cons e r ih =>
    obtain ⟨i, v⟩ := e
    simp only [SMap.sorted, Bool.and_eq_true] at h
    by_cases hi : i = k
    · simp [SMap.del, hi, ih h.2]
    · simp [SMap.del, hi, SMap.sorted, ih h.2, SMap.above_del h.1]

theorem SMap.above_ins {k j : Nat} {v : α} {m : SMap α} (hj : j < k) (h : SMap.above j m = true) :
    SMap.above j (SMap.ins k v m) = true := by
  induction m with
  | nil => simp [SMap.ins, SMap.above, hj]
  | cons e r ih =>
    obtain ⟨i, w⟩ := e
    simp only [SMap.above, List.all_cons, Bool.and_eq_true, decide_eq_true_eq] at h ih ⊢
    by_cases hk : k < i
    · simp [SMap.ins, hk, hj, h]
    · simp [SMap.ins, hk, h.1, ih h.2]

theorem SMap.above_mono {k j : Nat} {m : SMap α} (hjk : j < k) (h : SMap.above k m = true) :
    SMap.above j m = true := by
  simp only [SMap.above, List.all_eq_true, decide_eq_true_eq] at h ⊢
  exact fun e he => Nat.lt_trans hjk (h e he)

theorem SMap.sorted_ins {k : Nat} {v : α} {m : SMap α} (h : SMap.sorted m = true)
    (hk : SMap.find k m = none) : SMap.sorted (SMap.ins k v m) = true := by
  induction m with
  | nil => simp [SMap.ins, SMap.sorted, SMap.above]
  | cons e r ih =>
    obtain ⟨i, w⟩ := e
    simp only [SMap.sorted, Bool.and_eq_true] at h
    by_cases hi : i = k
    · simp [SMap.find, hi] at hk
    · simp only [SMap.find, hi, if_false] at hk
      by_cases hlt : k < i
      · have hab : SMap.above k ((i, w) :: r) = true := by
          simp only [SMap.above, List.all_cons, Bool.and_eq_true, decide_eq_true_eq]
          exact ⟨hlt, SMap.above_mono hlt h.1⟩
        simp [SMap.ins, hlt, SMap.sorted, hab, h]
      · have : i < k := by omega
        simp [SMap.ins, hlt, SMap.sorted, ih h.2 hk, SMap.above_ins this h.1]

theorem SMap.sorted_put {k : Nat} {v : α} {m : SMap α} (h : SMap.sorted m = true) :
    SMap.sorted (SMap.put k v m) = true :=
  SMap.sorted_ins (SMap.sorted_del h) (SMap.find_del_same k m)

theorem SMap.all_del {p : Nat × α → Bool} {k : Nat} {m : SMap α} (h : m.all p = true) :
    (SMap.del k m).all p = true := by
  induction m with
  | nil => rfl
  | cons e r ih =>
    obtain ⟨i, w⟩ := e
    simp only [List.all_cons, Bool.and_eq_true] at h
    by_cases hi : i = k
    · simpa [SMap.del, hi] using ih h.2
    · simp only [SMap.del, hi, if_false, List.all_cons, Bool.and_eq_true]
      exact ⟨h.1, ih h.2⟩

theorem SMap.all_ins {p : Nat × α → Bool} {k : Nat} {v : α} {m : SMap α} (hv : p (k, v) = true)
    (h : m.all p = true) : (SMap.ins k v m).all p = true := by
  induction m with
  | nil => simp [SMap.ins, hv]
  | cons e r ih =>
    obtain ⟨i, w⟩ := e
    simp only [List.all_cons, Bool.and_eq_true] at h
    by_cases hk : k < i
    · simp [SMap.ins, hk, hv, h]
    · simp only [SMap.ins, hk, if_false, List.all_cons, Bool.and_eq_true]
      exact ⟨h.1, ih h.2⟩

/-- A write keeps the canonical form. -/
theorem SMap.wf_set [DecidableEq α] {d : α} {m : SMap α} (h : SMap.wf d m = true) (k : Nat) (v : α) :
    SMap.wf d (SMap.set d m k v) = true := by
  simp only [SMap.wf, Bool.and_eq_true] at h ⊢
  by_cases hv : v = d
  · simp only [SMap.set, hv, if_true]
    exact ⟨SMap.sorted_del h.1, SMap.all_del h.2⟩
  · simp only [SMap.set, hv, if_false]
    exact ⟨SMap.sorted_put h.1, SMap.all_ins (by simpa using hv) (SMap.all_del h.2)⟩

theorem SMap.wf_nil [DecidableEq α] (d : α) : SMap.wf d ([] : SMap α) = true := rfl

end Sys2Proof.Machine
end

