-- ==== Sys2Proof/Laws/State.lean ====
section
/-!
SUPPORT. Laws of the state: one lemma per field per update, and what reading a record gives after an update of it.
-/
namespace Sys2Proof.Machine

/-! ### A field an update leaves alone -/

@[simp] theorem State.modTask_sel (s : State) (k : Nat) (f : Task → Task) : (s.modTask k f).sel = s.sel := rfl
@[simp] theorem State.modTask_agenda (s : State) (k : Nat) (f : Task → Task) : (s.modTask k f).agenda = s.agenda := rfl
@[simp] theorem State.modTask_draw (s : State) (k : Nat) (f : Task → Task) : (s.modTask k f).draw = s.draw := rfl
@[simp] theorem State.modTask_clock (s : State) (k : Nat) (f : Task → Task) : (s.modTask k f).clock = s.clock := rfl
@[simp] theorem State.modTask_mem (s : State) (k : Nat) (f : Task → Task) : (s.modTask k f).mem = s.mem := rfl
@[simp] theorem State.modTask_toHost (s : State) (k : Nat) (f : Task → Task) : (s.modTask k f).toHost = s.toHost := rfl
@[simp] theorem State.modTask_hostView (s : State) (k : Nat) (f : Task → Task) : (s.modTask k f).hostView = s.hostView := rfl
@[simp] theorem State.modTask_win (s : State) (k : Nat) (f : Task → Task) : (s.modTask k f).win = s.win := rfl
@[simp] theorem State.modTask_physMap (s : State) (k : Nat) (f : Task → Task) : (s.modTask k f).physMap = s.physMap := rfl
@[simp] theorem State.modTask_nextTask (s : State) (k : Nat) (f : Task → Task) : (s.modTask k f).nextTask = s.nextTask := rfl
@[simp] theorem State.modTask_launches (s : State) (k : Nat) (f : Task → Task) : (s.modTask k f).launches = s.launches := rfl
@[simp] theorem State.modTask_nextLaunch (s : State) (k : Nat) (f : Task → Task) : (s.modTask k f).nextLaunch = s.nextLaunch := rfl
@[simp] theorem State.modTask_dies (s : State) (k : Nat) (f : Task → Task) : (s.modTask k f).dies = s.dies := rfl
@[simp] theorem State.modTask_functions (s : State) (k : Nat) (f : Task → Task) : (s.modTask k f).functions = s.functions := rfl
@[simp] theorem State.modTask_queues (s : State) (k : Nat) (f : Task → Task) : (s.modTask k f).queues = s.queues := rfl
@[simp] theorem State.modTask_served (s : State) (k : Nat) (f : Task → Task) : (s.modTask k f).served = s.served := rfl
@[simp] theorem State.modTask_wown (s : State) (k : Nat) (f : Task → Task) : (s.modTask k f).wown = s.wown := rfl
@[simp] theorem State.modTask_qmap (s : State) (k : Nat) (f : Task → Task) : (s.modTask k f).qmap = s.qmap := rfl
@[simp] theorem State.modTask_net (s : State) (k : Nat) (f : Task → Task) : (s.modTask k f).net = s.net := rfl
@[simp] theorem State.modTask_nextMsg (s : State) (k : Nat) (f : Task → Task) : (s.modTask k f).nextMsg = s.nextMsg := rfl
@[simp] theorem State.modTask_entered (s : State) (k : Nat) (f : Task → Task) : (s.modTask k f).entered = s.entered := rfl
@[simp] theorem State.modTask_couplings (s : State) (k : Nat) (f : Task → Task) : (s.modTask k f).couplings = s.couplings := rfl
@[simp] theorem State.modTask_rounds (s : State) (k : Nat) (f : Task → Task) : (s.modTask k f).rounds = s.rounds := rfl
@[simp] theorem State.modTask_roundsDone (s : State) (k : Nat) (f : Task → Task) : (s.modTask k f).roundsDone = s.roundsDone := rfl
@[simp] theorem State.modTask_stamps (s : State) (k : Nat) (f : Task → Task) : (s.modTask k f).stamps = s.stamps := rfl
@[simp] theorem State.modTask_pagePhase (s : State) (k : Nat) (f : Task → Task) : (s.modTask k f).pagePhase = s.pagePhase := rfl
@[simp] theorem State.modTask_badWords (s : State) (k : Nat) (f : Task → Task) : (s.modTask k f).badWords = s.badWords := rfl
@[simp] theorem State.modTask_oldCode (s : State) (k : Nat) (f : Task → Task) : (s.modTask k f).oldCode = s.oldCode := rfl
@[simp] theorem State.modTask_msix (s : State) (k : Nat) (f : Task → Task) : (s.modTask k f).msix = s.msix := rfl
@[simp] theorem State.modTask_doe (s : State) (k : Nat) (f : Task → Task) : (s.modTask k f).doe = s.doe := rfl
@[simp] theorem State.modTask_service (s : State) (k : Nat) (f : Task → Task) : (s.modTask k f).service = s.service := rfl

@[simp] theorem State.modStrand_sel (s : State) (k j : Nat) (f : Strand → Strand) : (s.modStrand k j f).sel = s.sel := rfl
@[simp] theorem State.modStrand_agenda (s : State) (k j : Nat) (f : Strand → Strand) : (s.modStrand k j f).agenda = s.agenda := rfl
@[simp] theorem State.modStrand_draw (s : State) (k j : Nat) (f : Strand → Strand) : (s.modStrand k j f).draw = s.draw := rfl
@[simp] theorem State.modStrand_clock (s : State) (k j : Nat) (f : Strand → Strand) : (s.modStrand k j f).clock = s.clock := rfl
@[simp] theorem State.modStrand_mem (s : State) (k j : Nat) (f : Strand → Strand) : (s.modStrand k j f).mem = s.mem := rfl
@[simp] theorem State.modStrand_toHost (s : State) (k j : Nat) (f : Strand → Strand) : (s.modStrand k j f).toHost = s.toHost := rfl
@[simp] theorem State.modStrand_hostView (s : State) (k j : Nat) (f : Strand → Strand) : (s.modStrand k j f).hostView = s.hostView := rfl
@[simp] theorem State.modStrand_win (s : State) (k j : Nat) (f : Strand → Strand) : (s.modStrand k j f).win = s.win := rfl
@[simp] theorem State.modStrand_physMap (s : State) (k j : Nat) (f : Strand → Strand) : (s.modStrand k j f).physMap = s.physMap := rfl
@[simp] theorem State.modStrand_nextTask (s : State) (k j : Nat) (f : Strand → Strand) : (s.modStrand k j f).nextTask = s.nextTask := rfl
@[simp] theorem State.modStrand_launches (s : State) (k j : Nat) (f : Strand → Strand) : (s.modStrand k j f).launches = s.launches := rfl
@[simp] theorem State.modStrand_nextLaunch (s : State) (k j : Nat) (f : Strand → Strand) : (s.modStrand k j f).nextLaunch = s.nextLaunch := rfl
@[simp] theorem State.modStrand_dies (s : State) (k j : Nat) (f : Strand → Strand) : (s.modStrand k j f).dies = s.dies := rfl
@[simp] theorem State.modStrand_functions (s : State) (k j : Nat) (f : Strand → Strand) : (s.modStrand k j f).functions = s.functions := rfl
@[simp] theorem State.modStrand_queues (s : State) (k j : Nat) (f : Strand → Strand) : (s.modStrand k j f).queues = s.queues := rfl
@[simp] theorem State.modStrand_served (s : State) (k j : Nat) (f : Strand → Strand) : (s.modStrand k j f).served = s.served := rfl
@[simp] theorem State.modStrand_wown (s : State) (k j : Nat) (f : Strand → Strand) : (s.modStrand k j f).wown = s.wown := rfl
@[simp] theorem State.modStrand_qmap (s : State) (k j : Nat) (f : Strand → Strand) : (s.modStrand k j f).qmap = s.qmap := rfl
@[simp] theorem State.modStrand_net (s : State) (k j : Nat) (f : Strand → Strand) : (s.modStrand k j f).net = s.net := rfl
@[simp] theorem State.modStrand_nextMsg (s : State) (k j : Nat) (f : Strand → Strand) : (s.modStrand k j f).nextMsg = s.nextMsg := rfl
@[simp] theorem State.modStrand_entered (s : State) (k j : Nat) (f : Strand → Strand) : (s.modStrand k j f).entered = s.entered := rfl
@[simp] theorem State.modStrand_couplings (s : State) (k j : Nat) (f : Strand → Strand) : (s.modStrand k j f).couplings = s.couplings := rfl
@[simp] theorem State.modStrand_rounds (s : State) (k j : Nat) (f : Strand → Strand) : (s.modStrand k j f).rounds = s.rounds := rfl
@[simp] theorem State.modStrand_roundsDone (s : State) (k j : Nat) (f : Strand → Strand) : (s.modStrand k j f).roundsDone = s.roundsDone := rfl
@[simp] theorem State.modStrand_stamps (s : State) (k j : Nat) (f : Strand → Strand) : (s.modStrand k j f).stamps = s.stamps := rfl
@[simp] theorem State.modStrand_pagePhase (s : State) (k j : Nat) (f : Strand → Strand) : (s.modStrand k j f).pagePhase = s.pagePhase := rfl
@[simp] theorem State.modStrand_badWords (s : State) (k j : Nat) (f : Strand → Strand) : (s.modStrand k j f).badWords = s.badWords := rfl
@[simp] theorem State.modStrand_oldCode (s : State) (k j : Nat) (f : Strand → Strand) : (s.modStrand k j f).oldCode = s.oldCode := rfl
@[simp] theorem State.modStrand_msix (s : State) (k j : Nat) (f : Strand → Strand) : (s.modStrand k j f).msix = s.msix := rfl
@[simp] theorem State.modStrand_doe (s : State) (k j : Nat) (f : Strand → Strand) : (s.modStrand k j f).doe = s.doe := rfl
@[simp] theorem State.modStrand_service (s : State) (k j : Nat) (f : Strand → Strand) : (s.modStrand k j f).service = s.service := rfl

@[simp] theorem State.modLaunch_sel (s : State) (k : Nat) (f : Launch → Launch) : (s.modLaunch k f).sel = s.sel := rfl
@[simp] theorem State.modLaunch_agenda (s : State) (k : Nat) (f : Launch → Launch) : (s.modLaunch k f).agenda = s.agenda := rfl
@[simp] theorem State.modLaunch_draw (s : State) (k : Nat) (f : Launch → Launch) : (s.modLaunch k f).draw = s.draw := rfl
@[simp] theorem State.modLaunch_clock (s : State) (k : Nat) (f : Launch → Launch) : (s.modLaunch k f).clock = s.clock := rfl
@[simp] theorem State.modLaunch_mem (s : State) (k : Nat) (f : Launch → Launch) : (s.modLaunch k f).mem = s.mem := rfl
@[simp] theorem State.modLaunch_toHost (s : State) (k : Nat) (f : Launch → Launch) : (s.modLaunch k f).toHost = s.toHost := rfl
@[simp] theorem State.modLaunch_hostView (s : State) (k : Nat) (f : Launch → Launch) : (s.modLaunch k f).hostView = s.hostView := rfl
@[simp] theorem State.modLaunch_win (s : State) (k : Nat) (f : Launch → Launch) : (s.modLaunch k f).win = s.win := rfl
@[simp] theorem State.modLaunch_physMap (s : State) (k : Nat) (f : Launch → Launch) : (s.modLaunch k f).physMap = s.physMap := rfl
@[simp] theorem State.modLaunch_tasks (s : State) (k : Nat) (f : Launch → Launch) : (s.modLaunch k f).tasks = s.tasks := rfl
@[simp] theorem State.modLaunch_nextTask (s : State) (k : Nat) (f : Launch → Launch) : (s.modLaunch k f).nextTask = s.nextTask := rfl
@[simp] theorem State.modLaunch_nextLaunch (s : State) (k : Nat) (f : Launch → Launch) : (s.modLaunch k f).nextLaunch = s.nextLaunch := rfl
@[simp] theorem State.modLaunch_dies (s : State) (k : Nat) (f : Launch → Launch) : (s.modLaunch k f).dies = s.dies := rfl
@[simp] theorem State.modLaunch_functions (s : State) (k : Nat) (f : Launch → Launch) : (s.modLaunch k f).functions = s.functions := rfl
@[simp] theorem State.modLaunch_queues (s : State) (k : Nat) (f : Launch → Launch) : (s.modLaunch k f).queues = s.queues := rfl
@[simp] theorem State.modLaunch_served (s : State) (k : Nat) (f : Launch → Launch) : (s.modLaunch k f).served = s.served := rfl
@[simp] theorem State.modLaunch_wown (s : State) (k : Nat) (f : Launch → Launch) : (s.modLaunch k f).wown = s.wown := rfl
@[simp] theorem State.modLaunch_qmap (s : State) (k : Nat) (f : Launch → Launch) : (s.modLaunch k f).qmap = s.qmap := rfl
@[simp] theorem State.modLaunch_net (s : State) (k : Nat) (f : Launch → Launch) : (s.modLaunch k f).net = s.net := rfl
@[simp] theorem State.modLaunch_nextMsg (s : State) (k : Nat) (f : Launch → Launch) : (s.modLaunch k f).nextMsg = s.nextMsg := rfl
@[simp] theorem State.modLaunch_entered (s : State) (k : Nat) (f : Launch → Launch) : (s.modLaunch k f).entered = s.entered := rfl
@[simp] theorem State.modLaunch_couplings (s : State) (k : Nat) (f : Launch → Launch) : (s.modLaunch k f).couplings = s.couplings := rfl
@[simp] theorem State.modLaunch_rounds (s : State) (k : Nat) (f : Launch → Launch) : (s.modLaunch k f).rounds = s.rounds := rfl
@[simp] theorem State.modLaunch_roundsDone (s : State) (k : Nat) (f : Launch → Launch) : (s.modLaunch k f).roundsDone = s.roundsDone := rfl
@[simp] theorem State.modLaunch_stamps (s : State) (k : Nat) (f : Launch → Launch) : (s.modLaunch k f).stamps = s.stamps := rfl
@[simp] theorem State.modLaunch_pagePhase (s : State) (k : Nat) (f : Launch → Launch) : (s.modLaunch k f).pagePhase = s.pagePhase := rfl
@[simp] theorem State.modLaunch_badWords (s : State) (k : Nat) (f : Launch → Launch) : (s.modLaunch k f).badWords = s.badWords := rfl
@[simp] theorem State.modLaunch_oldCode (s : State) (k : Nat) (f : Launch → Launch) : (s.modLaunch k f).oldCode = s.oldCode := rfl
@[simp] theorem State.modLaunch_msix (s : State) (k : Nat) (f : Launch → Launch) : (s.modLaunch k f).msix = s.msix := rfl
@[simp] theorem State.modLaunch_doe (s : State) (k : Nat) (f : Launch → Launch) : (s.modLaunch k f).doe = s.doe := rfl
@[simp] theorem State.modLaunch_service (s : State) (k : Nat) (f : Launch → Launch) : (s.modLaunch k f).service = s.service := rfl

@[simp] theorem State.modDie_sel (s : State) (k : Nat) (f : Die → Die) : (s.modDie k f).sel = s.sel := rfl
@[simp] theorem State.modDie_agenda (s : State) (k : Nat) (f : Die → Die) : (s.modDie k f).agenda = s.agenda := rfl
@[simp] theorem State.modDie_draw (s : State) (k : Nat) (f : Die → Die) : (s.modDie k f).draw = s.draw := rfl
@[simp] theorem State.modDie_clock (s : State) (k : Nat) (f : Die → Die) : (s.modDie k f).clock = s.clock := rfl
@[simp] theorem State.modDie_mem (s : State) (k : Nat) (f : Die → Die) : (s.modDie k f).mem = s.mem := rfl
@[simp] theorem State.modDie_toHost (s : State) (k : Nat) (f : Die → Die) : (s.modDie k f).toHost = s.toHost := rfl
@[simp] theorem State.modDie_hostView (s : State) (k : Nat) (f : Die → Die) : (s.modDie k f).hostView = s.hostView := rfl
@[simp] theorem State.modDie_win (s : State) (k : Nat) (f : Die → Die) : (s.modDie k f).win = s.win := rfl
@[simp] theorem State.modDie_physMap (s : State) (k : Nat) (f : Die → Die) : (s.modDie k f).physMap = s.physMap := rfl
@[simp] theorem State.modDie_tasks (s : State) (k : Nat) (f : Die → Die) : (s.modDie k f).tasks = s.tasks := rfl
@[simp] theorem State.modDie_nextTask (s : State) (k : Nat) (f : Die → Die) : (s.modDie k f).nextTask = s.nextTask := rfl
@[simp] theorem State.modDie_launches (s : State) (k : Nat) (f : Die → Die) : (s.modDie k f).launches = s.launches := rfl
@[simp] theorem State.modDie_nextLaunch (s : State) (k : Nat) (f : Die → Die) : (s.modDie k f).nextLaunch = s.nextLaunch := rfl
@[simp] theorem State.modDie_functions (s : State) (k : Nat) (f : Die → Die) : (s.modDie k f).functions = s.functions := rfl
@[simp] theorem State.modDie_queues (s : State) (k : Nat) (f : Die → Die) : (s.modDie k f).queues = s.queues := rfl
@[simp] theorem State.modDie_served (s : State) (k : Nat) (f : Die → Die) : (s.modDie k f).served = s.served := rfl
@[simp] theorem State.modDie_wown (s : State) (k : Nat) (f : Die → Die) : (s.modDie k f).wown = s.wown := rfl
@[simp] theorem State.modDie_qmap (s : State) (k : Nat) (f : Die → Die) : (s.modDie k f).qmap = s.qmap := rfl
@[simp] theorem State.modDie_net (s : State) (k : Nat) (f : Die → Die) : (s.modDie k f).net = s.net := rfl
@[simp] theorem State.modDie_nextMsg (s : State) (k : Nat) (f : Die → Die) : (s.modDie k f).nextMsg = s.nextMsg := rfl
@[simp] theorem State.modDie_entered (s : State) (k : Nat) (f : Die → Die) : (s.modDie k f).entered = s.entered := rfl
@[simp] theorem State.modDie_couplings (s : State) (k : Nat) (f : Die → Die) : (s.modDie k f).couplings = s.couplings := rfl
@[simp] theorem State.modDie_rounds (s : State) (k : Nat) (f : Die → Die) : (s.modDie k f).rounds = s.rounds := rfl
@[simp] theorem State.modDie_roundsDone (s : State) (k : Nat) (f : Die → Die) : (s.modDie k f).roundsDone = s.roundsDone := rfl
@[simp] theorem State.modDie_stamps (s : State) (k : Nat) (f : Die → Die) : (s.modDie k f).stamps = s.stamps := rfl
@[simp] theorem State.modDie_pagePhase (s : State) (k : Nat) (f : Die → Die) : (s.modDie k f).pagePhase = s.pagePhase := rfl
@[simp] theorem State.modDie_badWords (s : State) (k : Nat) (f : Die → Die) : (s.modDie k f).badWords = s.badWords := rfl
@[simp] theorem State.modDie_oldCode (s : State) (k : Nat) (f : Die → Die) : (s.modDie k f).oldCode = s.oldCode := rfl
@[simp] theorem State.modDie_msix (s : State) (k : Nat) (f : Die → Die) : (s.modDie k f).msix = s.msix := rfl
@[simp] theorem State.modDie_doe (s : State) (k : Nat) (f : Die → Die) : (s.modDie k f).doe = s.doe := rfl
@[simp] theorem State.modDie_service (s : State) (k : Nat) (f : Die → Die) : (s.modDie k f).service = s.service := rfl

@[simp] theorem State.modFunction_sel (s : State) (k : Nat) (f : Function → Function) : (s.modFunction k f).sel = s.sel := rfl
@[simp] theorem State.modFunction_agenda (s : State) (k : Nat) (f : Function → Function) : (s.modFunction k f).agenda = s.agenda := rfl
@[simp] theorem State.modFunction_draw (s : State) (k : Nat) (f : Function → Function) : (s.modFunction k f).draw = s.draw := rfl
@[simp] theorem State.modFunction_clock (s : State) (k : Nat) (f : Function → Function) : (s.modFunction k f).clock = s.clock := rfl
@[simp] theorem State.modFunction_mem (s : State) (k : Nat) (f : Function → Function) : (s.modFunction k f).mem = s.mem := rfl
@[simp] theorem State.modFunction_toHost (s : State) (k : Nat) (f : Function → Function) : (s.modFunction k f).toHost = s.toHost := rfl
@[simp] theorem State.modFunction_hostView (s : State) (k : Nat) (f : Function → Function) : (s.modFunction k f).hostView = s.hostView := rfl
@[simp] theorem State.modFunction_win (s : State) (k : Nat) (f : Function → Function) : (s.modFunction k f).win = s.win := rfl
@[simp] theorem State.modFunction_physMap (s : State) (k : Nat) (f : Function → Function) : (s.modFunction k f).physMap = s.physMap := rfl
@[simp] theorem State.modFunction_tasks (s : State) (k : Nat) (f : Function → Function) : (s.modFunction k f).tasks = s.tasks := rfl
@[simp] theorem State.modFunction_nextTask (s : State) (k : Nat) (f : Function → Function) : (s.modFunction k f).nextTask = s.nextTask := rfl
@[simp] theorem State.modFunction_launches (s : State) (k : Nat) (f : Function → Function) : (s.modFunction k f).launches = s.launches := rfl
@[simp] theorem State.modFunction_nextLaunch (s : State) (k : Nat) (f : Function → Function) : (s.modFunction k f).nextLaunch = s.nextLaunch := rfl
@[simp] theorem State.modFunction_dies (s : State) (k : Nat) (f : Function → Function) : (s.modFunction k f).dies = s.dies := rfl
@[simp] theorem State.modFunction_queues (s : State) (k : Nat) (f : Function → Function) : (s.modFunction k f).queues = s.queues := rfl
@[simp] theorem State.modFunction_served (s : State) (k : Nat) (f : Function → Function) : (s.modFunction k f).served = s.served := rfl
@[simp] theorem State.modFunction_wown (s : State) (k : Nat) (f : Function → Function) : (s.modFunction k f).wown = s.wown := rfl
@[simp] theorem State.modFunction_qmap (s : State) (k : Nat) (f : Function → Function) : (s.modFunction k f).qmap = s.qmap := rfl
@[simp] theorem State.modFunction_net (s : State) (k : Nat) (f : Function → Function) : (s.modFunction k f).net = s.net := rfl
@[simp] theorem State.modFunction_nextMsg (s : State) (k : Nat) (f : Function → Function) : (s.modFunction k f).nextMsg = s.nextMsg := rfl
@[simp] theorem State.modFunction_entered (s : State) (k : Nat) (f : Function → Function) : (s.modFunction k f).entered = s.entered := rfl
@[simp] theorem State.modFunction_couplings (s : State) (k : Nat) (f : Function → Function) : (s.modFunction k f).couplings = s.couplings := rfl
@[simp] theorem State.modFunction_rounds (s : State) (k : Nat) (f : Function → Function) : (s.modFunction k f).rounds = s.rounds := rfl
@[simp] theorem State.modFunction_roundsDone (s : State) (k : Nat) (f : Function → Function) : (s.modFunction k f).roundsDone = s.roundsDone := rfl
@[simp] theorem State.modFunction_stamps (s : State) (k : Nat) (f : Function → Function) : (s.modFunction k f).stamps = s.stamps := rfl
@[simp] theorem State.modFunction_pagePhase (s : State) (k : Nat) (f : Function → Function) : (s.modFunction k f).pagePhase = s.pagePhase := rfl
@[simp] theorem State.modFunction_badWords (s : State) (k : Nat) (f : Function → Function) : (s.modFunction k f).badWords = s.badWords := rfl
@[simp] theorem State.modFunction_oldCode (s : State) (k : Nat) (f : Function → Function) : (s.modFunction k f).oldCode = s.oldCode := rfl
@[simp] theorem State.modFunction_msix (s : State) (k : Nat) (f : Function → Function) : (s.modFunction k f).msix = s.msix := rfl
@[simp] theorem State.modFunction_doe (s : State) (k : Nat) (f : Function → Function) : (s.modFunction k f).doe = s.doe := rfl
@[simp] theorem State.modFunction_service (s : State) (k : Nat) (f : Function → Function) : (s.modFunction k f).service = s.service := rfl

@[simp] theorem Task.modStrand_launch (x : Task) (k : Nat) (f : Strand → Strand) : (x.modStrand k f).launch = x.launch := rfl
@[simp] theorem Task.modStrand_die (x : Task) (k : Nat) (f : Strand → Strand) : (x.modStrand k f).die = x.die := rfl
@[simp] theorem Task.modStrand_entry (x : Task) (k : Nat) (f : Strand → Strand) : (x.modStrand k f).entry = x.entry := rfl
@[simp] theorem Task.modStrand_lx (x : Task) (k : Nat) (f : Strand → Strand) : (x.modStrand k f).lx = x.lx := rfl
@[simp] theorem Task.modStrand_ly (x : Task) (k : Nat) (f : Strand → Strand) : (x.modStrand k f).ly = x.ly := rfl
@[simp] theorem Task.modStrand_place (x : Task) (k : Nat) (f : Strand → Strand) : (x.modStrand k f).place = x.place := rfl
@[simp] theorem Task.modStrand_placed (x : Task) (k : Nat) (f : Strand → Strand) : (x.modStrand k f).placed = x.placed := rfl
@[simp] theorem Task.modStrand_spsize (x : Task) (k : Nat) (f : Strand → Strand) : (x.modStrand k f).spsize = x.spsize := rfl
@[simp] theorem Task.modStrand_trap (x : Task) (k : Nat) (f : Strand → Strand) : (x.modStrand k f).trap = x.trap := rfl
@[simp] theorem Task.modStrand_loops (x : Task) (k : Nat) (f : Strand → Strand) : (x.modStrand k f).loops = x.loops := rfl
@[simp] theorem Task.modStrand_vec (x : Task) (k : Nat) (f : Strand → Strand) : (x.modStrand k f).vec = x.vec := rfl
@[simp] theorem Task.modStrand_eng (x : Task) (k : Nat) (f : Strand → Strand) : (x.modStrand k f).eng = x.eng := rfl
@[simp] theorem Task.modStrand_sems (x : Task) (k : Nat) (f : Strand → Strand) : (x.modStrand k f).sems = x.sems := rfl
@[simp] theorem Task.modStrand_spad (x : Task) (k : Nat) (f : Strand → Strand) : (x.modStrand k f).spad = x.spad := rfl
@[simp] theorem Task.modStrand_heritage (x : Task) (k : Nat) (f : Strand → Strand) : (x.modStrand k f).heritage = x.heritage := rfl
@[simp] theorem Task.modStrand_full (x : Task) (k : Nat) (f : Strand → Strand) : (x.modStrand k f).full = x.full := rfl
@[simp] theorem Task.modStrand_feWaiters (x : Task) (k : Nat) (f : Strand → Strand) : (x.modStrand k f).feWaiters = x.feWaiters := rfl
@[simp] theorem Task.modStrand_queues (x : Task) (k : Nat) (f : Strand → Strand) : (x.modStrand k f).queues = x.queues := rfl
@[simp] theorem Task.modStrand_serial (x : Task) (k : Nat) (f : Strand → Strand) : (x.modStrand k f).serial = x.serial := rfl
@[simp] theorem Task.modStrand_pushed (x : Task) (k : Nat) (f : Strand → Strand) : (x.modStrand k f).pushed = x.pushed := rfl
@[simp] theorem Task.modStrand_monctl (x : Task) (k : Nat) (f : Strand → Strand) : (x.modStrand k f).monctl = x.monctl := rfl
@[simp] theorem Task.modStrand_dbgctl (x : Task) (k : Nat) (f : Strand → Strand) : (x.modStrand k f).dbgctl = x.dbgctl := rfl
@[simp] theorem Task.modStrand_recs (x : Task) (k : Nat) (f : Strand → Strand) : (x.modStrand k f).recs = x.recs := rfl
@[simp] theorem Task.modStrand_freeze (x : Task) (k : Nat) (f : Strand → Strand) : (x.modStrand k f).freeze = x.freeze := rfl
@[simp] theorem Task.modStrand_pendingResume (x : Task) (k : Nat) (f : Strand → Strand) : (x.modStrand k f).pendingResume = x.pendingResume := rfl
@[simp] theorem Task.modStrand_arrived (x : Task) (k : Nat) (f : Strand → Strand) : (x.modStrand k f).arrived = x.arrived := rfl
@[simp] theorem Task.modStrand_ended (x : Task) (k : Nat) (f : Strand → Strand) : (x.modStrand k f).ended = x.ended := rfl
@[simp] theorem Task.modStrand_killed (x : Task) (k : Nat) (f : Strand → Strand) : (x.modStrand k f).killed = x.killed := rfl
@[simp] theorem Task.modStrand_quantum (x : Task) (k : Nat) (f : Strand → Strand) : (x.modStrand k f).quantum = x.quantum := rfl
@[simp] theorem Task.modStrand_lastIssued (x : Task) (k : Nat) (f : Strand → Strand) : (x.modStrand k f).lastIssued = x.lastIssued := rfl
@[simp] theorem Task.modStrand_ctxBase (x : Task) (k : Nat) (f : Strand → Strand) : (x.modStrand k f).ctxBase = x.ctxBase := rfl
@[simp] theorem Task.modStrand_context (x : Task) (k : Nat) (f : Strand → Strand) : (x.modStrand k f).context = x.context := rfl
@[simp] theorem Task.modStrand_leaving (x : Task) (k : Nat) (f : Strand → Strand) : (x.modStrand k f).leaving = x.leaving := rfl
@[simp] theorem Task.modStrand_parkedSince (x : Task) (k : Nat) (f : Strand → Strand) : (x.modStrand k f).parkedSince = x.parkedSince := rfl
@[simp] theorem Task.modStrand_badWords (x : Task) (k : Nat) (f : Strand → Strand) : (x.modStrand k f).badWords = x.badWords := rfl
@[simp] theorem Task.modStrand_heldAction (x : Task) (k : Nat) (f : Strand → Strand) : (x.modStrand k f).heldAction = x.heldAction := rfl
@[simp] theorem Task.modStrand_lvq (x : Task) (k : Nat) (f : Strand → Strand) : (x.modStrand k f).lvq = x.lvq := rfl

@[simp] theorem Task.setQueue_launch (x : Task) (q : Nat) (l : List Entry) : (x.setQueue q l).launch = x.launch := rfl
@[simp] theorem Task.setQueue_die (x : Task) (q : Nat) (l : List Entry) : (x.setQueue q l).die = x.die := rfl
@[simp] theorem Task.setQueue_entry (x : Task) (q : Nat) (l : List Entry) : (x.setQueue q l).entry = x.entry := rfl
@[simp] theorem Task.setQueue_lx (x : Task) (q : Nat) (l : List Entry) : (x.setQueue q l).lx = x.lx := rfl
@[simp] theorem Task.setQueue_ly (x : Task) (q : Nat) (l : List Entry) : (x.setQueue q l).ly = x.ly := rfl
@[simp] theorem Task.setQueue_place (x : Task) (q : Nat) (l : List Entry) : (x.setQueue q l).place = x.place := rfl
@[simp] theorem Task.setQueue_placed (x : Task) (q : Nat) (l : List Entry) : (x.setQueue q l).placed = x.placed := rfl
@[simp] theorem Task.setQueue_spsize (x : Task) (q : Nat) (l : List Entry) : (x.setQueue q l).spsize = x.spsize := rfl
@[simp] theorem Task.setQueue_strands (x : Task) (q : Nat) (l : List Entry) : (x.setQueue q l).strands = x.strands := rfl
@[simp] theorem Task.setQueue_trap (x : Task) (q : Nat) (l : List Entry) : (x.setQueue q l).trap = x.trap := rfl
@[simp] theorem Task.setQueue_loops (x : Task) (q : Nat) (l : List Entry) : (x.setQueue q l).loops = x.loops := rfl
@[simp] theorem Task.setQueue_vec (x : Task) (q : Nat) (l : List Entry) : (x.setQueue q l).vec = x.vec := rfl
@[simp] theorem Task.setQueue_eng (x : Task) (q : Nat) (l : List Entry) : (x.setQueue q l).eng = x.eng := rfl
@[simp] theorem Task.setQueue_sems (x : Task) (q : Nat) (l : List Entry) : (x.setQueue q l).sems = x.sems := rfl
@[simp] theorem Task.setQueue_spad (x : Task) (q : Nat) (l : List Entry) : (x.setQueue q l).spad = x.spad := rfl
@[simp] theorem Task.setQueue_heritage (x : Task) (q : Nat) (l : List Entry) : (x.setQueue q l).heritage = x.heritage := rfl
@[simp] theorem Task.setQueue_full (x : Task) (q : Nat) (l : List Entry) : (x.setQueue q l).full = x.full := rfl
@[simp] theorem Task.setQueue_feWaiters (x : Task) (q : Nat) (l : List Entry) : (x.setQueue q l).feWaiters = x.feWaiters := rfl
@[simp] theorem Task.setQueue_serial (x : Task) (q : Nat) (l : List Entry) : (x.setQueue q l).serial = x.serial := rfl
@[simp] theorem Task.setQueue_pushed (x : Task) (q : Nat) (l : List Entry) : (x.setQueue q l).pushed = x.pushed := rfl
@[simp] theorem Task.setQueue_monctl (x : Task) (q : Nat) (l : List Entry) : (x.setQueue q l).monctl = x.monctl := rfl
@[simp] theorem Task.setQueue_dbgctl (x : Task) (q : Nat) (l : List Entry) : (x.setQueue q l).dbgctl = x.dbgctl := rfl
@[simp] theorem Task.setQueue_recs (x : Task) (q : Nat) (l : List Entry) : (x.setQueue q l).recs = x.recs := rfl
@[simp] theorem Task.setQueue_freeze (x : Task) (q : Nat) (l : List Entry) : (x.setQueue q l).freeze = x.freeze := rfl
@[simp] theorem Task.setQueue_pendingResume (x : Task) (q : Nat) (l : List Entry) : (x.setQueue q l).pendingResume = x.pendingResume := rfl
@[simp] theorem Task.setQueue_arrived (x : Task) (q : Nat) (l : List Entry) : (x.setQueue q l).arrived = x.arrived := rfl
@[simp] theorem Task.setQueue_ended (x : Task) (q : Nat) (l : List Entry) : (x.setQueue q l).ended = x.ended := rfl
@[simp] theorem Task.setQueue_killed (x : Task) (q : Nat) (l : List Entry) : (x.setQueue q l).killed = x.killed := rfl
@[simp] theorem Task.setQueue_quantum (x : Task) (q : Nat) (l : List Entry) : (x.setQueue q l).quantum = x.quantum := rfl
@[simp] theorem Task.setQueue_lastIssued (x : Task) (q : Nat) (l : List Entry) : (x.setQueue q l).lastIssued = x.lastIssued := rfl
@[simp] theorem Task.setQueue_ctxBase (x : Task) (q : Nat) (l : List Entry) : (x.setQueue q l).ctxBase = x.ctxBase := rfl
@[simp] theorem Task.setQueue_context (x : Task) (q : Nat) (l : List Entry) : (x.setQueue q l).context = x.context := rfl
@[simp] theorem Task.setQueue_leaving (x : Task) (q : Nat) (l : List Entry) : (x.setQueue q l).leaving = x.leaving := rfl
@[simp] theorem Task.setQueue_parkedSince (x : Task) (q : Nat) (l : List Entry) : (x.setQueue q l).parkedSince = x.parkedSince := rfl
@[simp] theorem Task.setQueue_badWords (x : Task) (q : Nat) (l : List Entry) : (x.setQueue q l).badWords = x.badWords := rfl
@[simp] theorem Task.setQueue_heldAction (x : Task) (q : Nat) (l : List Entry) : (x.setQueue q l).heldAction = x.heldAction := rfl
@[simp] theorem Task.setQueue_lvq (x : Task) (q : Nat) (l : List Entry) : (x.setQueue q l).lvq = x.lvq := rfl

@[simp] theorem Task.setLoop_launch (x : Task) (n : Nat) (l : LoopState) : (x.setLoop n l).launch = x.launch := rfl
@[simp] theorem Task.setLoop_die (x : Task) (n : Nat) (l : LoopState) : (x.setLoop n l).die = x.die := rfl
@[simp] theorem Task.setLoop_entry (x : Task) (n : Nat) (l : LoopState) : (x.setLoop n l).entry = x.entry := rfl
@[simp] theorem Task.setLoop_lx (x : Task) (n : Nat) (l : LoopState) : (x.setLoop n l).lx = x.lx := rfl
@[simp] theorem Task.setLoop_ly (x : Task) (n : Nat) (l : LoopState) : (x.setLoop n l).ly = x.ly := rfl
@[simp] theorem Task.setLoop_place (x : Task) (n : Nat) (l : LoopState) : (x.setLoop n l).place = x.place := rfl
@[simp] theorem Task.setLoop_placed (x : Task) (n : Nat) (l : LoopState) : (x.setLoop n l).placed = x.placed := rfl
@[simp] theorem Task.setLoop_spsize (x : Task) (n : Nat) (l : LoopState) : (x.setLoop n l).spsize = x.spsize := rfl
@[simp] theorem Task.setLoop_strands (x : Task) (n : Nat) (l : LoopState) : (x.setLoop n l).strands = x.strands := rfl
@[simp] theorem Task.setLoop_trap (x : Task) (n : Nat) (l : LoopState) : (x.setLoop n l).trap = x.trap := rfl
@[simp] theorem Task.setLoop_vec (x : Task) (n : Nat) (l : LoopState) : (x.setLoop n l).vec = x.vec := rfl
@[simp] theorem Task.setLoop_eng (x : Task) (n : Nat) (l : LoopState) : (x.setLoop n l).eng = x.eng := rfl
@[simp] theorem Task.setLoop_sems (x : Task) (n : Nat) (l : LoopState) : (x.setLoop n l).sems = x.sems := rfl
@[simp] theorem Task.setLoop_spad (x : Task) (n : Nat) (l : LoopState) : (x.setLoop n l).spad = x.spad := rfl
@[simp] theorem Task.setLoop_heritage (x : Task) (n : Nat) (l : LoopState) : (x.setLoop n l).heritage = x.heritage := rfl
@[simp] theorem Task.setLoop_full (x : Task) (n : Nat) (l : LoopState) : (x.setLoop n l).full = x.full := rfl
@[simp] theorem Task.setLoop_feWaiters (x : Task) (n : Nat) (l : LoopState) : (x.setLoop n l).feWaiters = x.feWaiters := rfl
@[simp] theorem Task.setLoop_queues (x : Task) (n : Nat) (l : LoopState) : (x.setLoop n l).queues = x.queues := rfl
@[simp] theorem Task.setLoop_serial (x : Task) (n : Nat) (l : LoopState) : (x.setLoop n l).serial = x.serial := rfl
@[simp] theorem Task.setLoop_pushed (x : Task) (n : Nat) (l : LoopState) : (x.setLoop n l).pushed = x.pushed := rfl
@[simp] theorem Task.setLoop_monctl (x : Task) (n : Nat) (l : LoopState) : (x.setLoop n l).monctl = x.monctl := rfl
@[simp] theorem Task.setLoop_dbgctl (x : Task) (n : Nat) (l : LoopState) : (x.setLoop n l).dbgctl = x.dbgctl := rfl
@[simp] theorem Task.setLoop_recs (x : Task) (n : Nat) (l : LoopState) : (x.setLoop n l).recs = x.recs := rfl
@[simp] theorem Task.setLoop_freeze (x : Task) (n : Nat) (l : LoopState) : (x.setLoop n l).freeze = x.freeze := rfl
@[simp] theorem Task.setLoop_pendingResume (x : Task) (n : Nat) (l : LoopState) : (x.setLoop n l).pendingResume = x.pendingResume := rfl
@[simp] theorem Task.setLoop_arrived (x : Task) (n : Nat) (l : LoopState) : (x.setLoop n l).arrived = x.arrived := rfl
@[simp] theorem Task.setLoop_ended (x : Task) (n : Nat) (l : LoopState) : (x.setLoop n l).ended = x.ended := rfl
@[simp] theorem Task.setLoop_killed (x : Task) (n : Nat) (l : LoopState) : (x.setLoop n l).killed = x.killed := rfl
@[simp] theorem Task.setLoop_quantum (x : Task) (n : Nat) (l : LoopState) : (x.setLoop n l).quantum = x.quantum := rfl
@[simp] theorem Task.setLoop_lastIssued (x : Task) (n : Nat) (l : LoopState) : (x.setLoop n l).lastIssued = x.lastIssued := rfl
@[simp] theorem Task.setLoop_ctxBase (x : Task) (n : Nat) (l : LoopState) : (x.setLoop n l).ctxBase = x.ctxBase := rfl
@[simp] theorem Task.setLoop_context (x : Task) (n : Nat) (l : LoopState) : (x.setLoop n l).context = x.context := rfl
@[simp] theorem Task.setLoop_leaving (x : Task) (n : Nat) (l : LoopState) : (x.setLoop n l).leaving = x.leaving := rfl
@[simp] theorem Task.setLoop_parkedSince (x : Task) (n : Nat) (l : LoopState) : (x.setLoop n l).parkedSince = x.parkedSince := rfl
@[simp] theorem Task.setLoop_badWords (x : Task) (n : Nat) (l : LoopState) : (x.setLoop n l).badWords = x.badWords := rfl
@[simp] theorem Task.setLoop_heldAction (x : Task) (n : Nat) (l : LoopState) : (x.setLoop n l).heldAction = x.heldAction := rfl
@[simp] theorem Task.setLoop_lvq (x : Task) (n : Nat) (l : LoopState) : (x.setLoop n l).lvq = x.lvq := rfl

@[simp] theorem Task.setSem_launch (x : Task) (n : Nat) (v : Sem) : (x.setSem n v).launch = x.launch := rfl
@[simp] theorem Task.setSem_die (x : Task) (n : Nat) (v : Sem) : (x.setSem n v).die = x.die := rfl
@[simp] theorem Task.setSem_entry (x : Task) (n : Nat) (v : Sem) : (x.setSem n v).entry = x.entry := rfl
@[simp] theorem Task.setSem_lx (x : Task) (n : Nat) (v : Sem) : (x.setSem n v).lx = x.lx := rfl
@[simp] theorem Task.setSem_ly (x : Task) (n : Nat) (v : Sem) : (x.setSem n v).ly = x.ly := rfl
@[simp] theorem Task.setSem_place (x : Task) (n : Nat) (v : Sem) : (x.setSem n v).place = x.place := rfl
@[simp] theorem Task.setSem_placed (x : Task) (n : Nat) (v : Sem) : (x.setSem n v).placed = x.placed := rfl
@[simp] theorem Task.setSem_spsize (x : Task) (n : Nat) (v : Sem) : (x.setSem n v).spsize = x.spsize := rfl
@[simp] theorem Task.setSem_strands (x : Task) (n : Nat) (v : Sem) : (x.setSem n v).strands = x.strands := rfl
@[simp] theorem Task.setSem_trap (x : Task) (n : Nat) (v : Sem) : (x.setSem n v).trap = x.trap := rfl
@[simp] theorem Task.setSem_loops (x : Task) (n : Nat) (v : Sem) : (x.setSem n v).loops = x.loops := rfl
@[simp] theorem Task.setSem_vec (x : Task) (n : Nat) (v : Sem) : (x.setSem n v).vec = x.vec := rfl
@[simp] theorem Task.setSem_eng (x : Task) (n : Nat) (v : Sem) : (x.setSem n v).eng = x.eng := rfl
@[simp] theorem Task.setSem_spad (x : Task) (n : Nat) (v : Sem) : (x.setSem n v).spad = x.spad := rfl
@[simp] theorem Task.setSem_heritage (x : Task) (n : Nat) (v : Sem) : (x.setSem n v).heritage = x.heritage := rfl
@[simp] theorem Task.setSem_full (x : Task) (n : Nat) (v : Sem) : (x.setSem n v).full = x.full := rfl
@[simp] theorem Task.setSem_feWaiters (x : Task) (n : Nat) (v : Sem) : (x.setSem n v).feWaiters = x.feWaiters := rfl
@[simp] theorem Task.setSem_queues (x : Task) (n : Nat) (v : Sem) : (x.setSem n v).queues = x.queues := rfl
@[simp] theorem Task.setSem_serial (x : Task) (n : Nat) (v : Sem) : (x.setSem n v).serial = x.serial := rfl
@[simp] theorem Task.setSem_pushed (x : Task) (n : Nat) (v : Sem) : (x.setSem n v).pushed = x.pushed := rfl
@[simp] theorem Task.setSem_monctl (x : Task) (n : Nat) (v : Sem) : (x.setSem n v).monctl = x.monctl := rfl
@[simp] theorem Task.setSem_dbgctl (x : Task) (n : Nat) (v : Sem) : (x.setSem n v).dbgctl = x.dbgctl := rfl
@[simp] theorem Task.setSem_recs (x : Task) (n : Nat) (v : Sem) : (x.setSem n v).recs = x.recs := rfl
@[simp] theorem Task.setSem_freeze (x : Task) (n : Nat) (v : Sem) : (x.setSem n v).freeze = x.freeze := rfl
@[simp] theorem Task.setSem_pendingResume (x : Task) (n : Nat) (v : Sem) : (x.setSem n v).pendingResume = x.pendingResume := rfl
@[simp] theorem Task.setSem_arrived (x : Task) (n : Nat) (v : Sem) : (x.setSem n v).arrived = x.arrived := rfl
@[simp] theorem Task.setSem_ended (x : Task) (n : Nat) (v : Sem) : (x.setSem n v).ended = x.ended := rfl
@[simp] theorem Task.setSem_killed (x : Task) (n : Nat) (v : Sem) : (x.setSem n v).killed = x.killed := rfl
@[simp] theorem Task.setSem_quantum (x : Task) (n : Nat) (v : Sem) : (x.setSem n v).quantum = x.quantum := rfl
@[simp] theorem Task.setSem_lastIssued (x : Task) (n : Nat) (v : Sem) : (x.setSem n v).lastIssued = x.lastIssued := rfl
@[simp] theorem Task.setSem_ctxBase (x : Task) (n : Nat) (v : Sem) : (x.setSem n v).ctxBase = x.ctxBase := rfl
@[simp] theorem Task.setSem_context (x : Task) (n : Nat) (v : Sem) : (x.setSem n v).context = x.context := rfl
@[simp] theorem Task.setSem_leaving (x : Task) (n : Nat) (v : Sem) : (x.setSem n v).leaving = x.leaving := rfl
@[simp] theorem Task.setSem_parkedSince (x : Task) (n : Nat) (v : Sem) : (x.setSem n v).parkedSince = x.parkedSince := rfl
@[simp] theorem Task.setSem_badWords (x : Task) (n : Nat) (v : Sem) : (x.setSem n v).badWords = x.badWords := rfl
@[simp] theorem Task.setSem_heldAction (x : Task) (n : Nat) (v : Sem) : (x.setSem n v).heldAction = x.heldAction := rfl
@[simp] theorem Task.setSem_lvq (x : Task) (n : Nat) (v : Sem) : (x.setSem n v).lvq = x.lvq := rfl

/-! ### A record after an update of it -/

theorem SMap.del_of_find_none {α : Type} {k : Nat} {m : SMap α} (h : SMap.find k m = none) : SMap.del k m = m := by
  induction m with
  | nil => rfl
  | cons e r ih =>
    obtain ⟨j, v⟩ := e
    by_cases hj : j = k
    · simp [SMap.find, hj] at h
    · simp only [SMap.find, hj, if_false] at h
      simp [SMap.del, hj, ih h]

theorem SMap.del_ins {α : Type} (k : Nat) (v : α) (m : SMap α) : SMap.del k (SMap.ins k v m) = SMap.del k m := by
  induction m with
  | nil => simp [SMap.ins, SMap.del]
  | cons e r ih =>
    obtain ⟨j, w⟩ := e
    by_cases hk : k < j
    · simp [SMap.ins, hk, SMap.del]
    · by_cases hj : j = k
      · subst hj; simp [SMap.ins, SMap.del, ih]
      · simp [SMap.ins, hk, SMap.del, hj, ih]

theorem SMap.del_del {α : Type} (k : Nat) (m : SMap α) : SMap.del k (SMap.del k m) = SMap.del k m :=
  SMap.del_of_find_none (SMap.find_del_same k m)

@[simp] theorem SMap.put_put {α : Type} (k : Nat) (v w : α) (m : SMap α) :
    SMap.put k v (SMap.put k w m) = SMap.put k v m := by
  simp only [SMap.put, SMap.del_ins, SMap.del_del]

theorem SMap.find_upd_same {α : Type} (k : Nat) (f : α → α) (m : SMap α) :
    SMap.find k (SMap.upd k f m) = (SMap.find k m).map f := by
  unfold SMap.upd
  cases h : SMap.find k m <;> simp [h]

theorem SMap.find_upd_other {α : Type} {k j : Nat} (h : j ≠ k) (f : α → α) (m : SMap α) :
    SMap.find j (SMap.upd k f m) = SMap.find j m := by
  unfold SMap.upd
  cases SMap.find k m <;> simp [SMap.find_put_other h]

theorem SMap.upd_upd {α : Type} (k : Nat) (f g : α → α) (m : SMap α) :
    SMap.upd k g (SMap.upd k f m) = SMap.upd k (fun x => g (f x)) m := by
  unfold SMap.upd
  cases h : SMap.find k m <;> simp [h]

/-- Mapping the values of a map. -/
theorem SMap.find_map {α β : Type} (k : Nat) (g : Nat → α → β) (m : SMap α) :
    SMap.find k (m.map (fun e => (e.1, g e.1 e.2))) = (SMap.find k m).map (g k) := by
  induction m with
  | nil => rfl
  | cons e r ih =>
    obtain ⟨j, v⟩ := e
    by_cases hj : j = k
    · subst hj; simp [SMap.find]
    · simp [SMap.find, hj, ih]

theorem State.hasTask_iff (s : State) (k : Nat) : s.hasTask k = true ↔ ∃ x, SMap.find k s.tasks = some x := by
  simp [State.hasTask, Option.isSome_iff_exists]

theorem State.find_task {s : State} {k : Nat} (h : s.hasTask k = true) : SMap.find k s.tasks = some (s.task k) := by
  obtain ⟨x, hx⟩ := (s.hasTask_iff k).mp h
  simp [State.task, hx]

@[simp] theorem State.hasTask_modTask (s : State) (k j : Nat) (f : Task → Task) :
    (s.modTask k f).hasTask j = s.hasTask j := by
  unfold State.hasTask State.modTask
  by_cases h : j = k
  · subst h; simp [SMap.find_upd_same]
  · simp [SMap.find_upd_other h]

@[simp] theorem State.hasTask_modStrand (s : State) (k n j : Nat) (f : Strand → Strand) :
    (s.modStrand k n f).hasTask j = s.hasTask j := by simp [State.modStrand]

theorem State.task_modTask_same {s : State} {k : Nat} (h : s.hasTask k = true) (f : Task → Task) :
    (s.modTask k f).task k = f (s.task k) := by
  show (SMap.find k (SMap.upd k f s.tasks)).getD {} = f (s.task k)
  rw [SMap.find_upd_same, State.find_task h]
  rfl

theorem State.task_modTask_other (s : State) {k j : Nat} (h : j ≠ k) (f : Task → Task) :
    (s.modTask k f).task j = s.task j := by
  simp [State.task, State.modTask, SMap.find_upd_other h]

theorem State.modTask_modTask (s : State) (k : Nat) (f g : Task → Task) :
    (s.modTask k f).modTask k g = s.modTask k (fun x => g (f x)) := by
  simp [State.modTask, SMap.upd_upd]

@[simp] theorem Task.strand_modStrand_same (x : Task) (k : Nat) (f : Strand → Strand) :
    (x.modStrand k f).strand k = f (x.strand k) := by
  simp only [Task.strand, Task.modStrand, SMap.find_put_same, Option.getD_some]

theorem Task.strand_modStrand_other (x : Task) {k j : Nat} (h : j ≠ k) (f : Strand → Strand) :
    (x.modStrand k f).strand j = x.strand j := by
  simp [Task.strand, Task.modStrand, SMap.find_put_other h]

theorem Task.modStrand_modStrand (x : Task) (k : Nat) (f g : Strand → Strand) :
    (x.modStrand k f).modStrand k g = x.modStrand k (fun y => g (f y)) := by
  simp only [Task.modStrand, Task.strand, SMap.find_put_same, Option.getD_some, SMap.put_put]

theorem State.modStrand_modStrand (s : State) (k j : Nat) (f g : Strand → Strand) :
    (s.modStrand k j f).modStrand k j g = s.modStrand k j (fun y => g (f y)) := by
  simp only [State.modStrand, State.modTask_modTask, Task.modStrand_modStrand]

theorem State.strand_modStrand_same {s : State} {k : Nat} (h : s.hasTask k = true) (j : Nat) (f : Strand → Strand) :
    (s.modStrand k j f).strand k j = f (s.strand k j) := by
  simp [State.strand, State.modStrand, State.task_modTask_same h]

theorem State.strand_modStrand_other {s : State} {k : Nat} (h : s.hasTask k = true) {j n : Nat} (hn : n ≠ j)
    (f : Strand → Strand) : (s.modStrand k j f).strand k n = s.strand k n := by
  simp [State.strand, State.modStrand, State.task_modTask_same h, Task.strand_modStrand_other _ hn]

theorem State.task_modStrand_other (s : State) {k m : Nat} (h : m ≠ k) (j : Nat) (f : Strand → Strand) :
    (s.modStrand k j f).task m = s.task m := State.task_modTask_other s h _

/-- Only what the change makes of the strand at hand matters. -/
theorem State.modStrand_congr {s : State} {k j : Nat} {f g : Strand → Strand} (h : f (s.strand k j) = g (s.strand k j)) :
    s.modStrand k j f = s.modStrand k j g := by
  have hu : SMap.upd k (fun x : Task => x.modStrand j f) s.tasks = SMap.upd k (fun x : Task => x.modStrand j g) s.tasks := by
    unfold SMap.upd
    cases hk : SMap.find k s.tasks with
    | none => rfl
    | some x =>
      have hx : s.strand k j = x.strand j := by simp only [State.strand, State.task, hk, Option.getD_some]
      rw [hx] at h
      simp only [Task.modStrand, h]
  show ({ s with tasks := _ } : State) = { s with tasks := _ }
  rw [hu]

@[simp] theorem Task.queue_setQueue_same (x : Task) (q : Nat) (l : List Entry) : (x.setQueue q l).queue q = l := by
  simp [Task.queue, Task.setQueue]

theorem Task.queue_setQueue_other (x : Task) {q r : Nat} (h : r ≠ q) (l : List Entry) :
    (x.setQueue q l).queue r = x.queue r := by
  simp [Task.queue, Task.setQueue, SMap.find_put_other h]

@[simp] theorem Task.queue_modStrand (x : Task) (k q : Nat) (f : Strand → Strand) :
    (x.modStrand k f).queue q = x.queue q := rfl

@[simp] theorem Task.sem_setSem_same (x : Task) (n : Nat) (v : Sem) : (x.setSem n v).sem n = v := by
  simp [Task.sem, Task.setSem]

theorem Task.sem_setSem_other (x : Task) {n m : Nat} (h : m ≠ n) (v : Sem) : (x.setSem n v).sem m = x.sem m := by
  simp [Task.sem, Task.setSem, SMap.find_put_other h]

@[simp] theorem Task.loop_setLoop_same (x : Task) (n : Nat) (v : LoopState) : (x.setLoop n v).loop n = v := by
  simp [Task.loop, Task.setLoop]

theorem Task.loop_setLoop_other (x : Task) {n m : Nat} (h : m ≠ n) (v : LoopState) :
    (x.setLoop n v).loop m = x.loop m := by
  simp [Task.loop, Task.setLoop, SMap.find_put_other h]

theorem State.die_modDie_same (s : State) (d : Nat) (f : Die → Die) : (s.modDie d f).die d = f (s.die d) := by
  simp [State.die, State.modDie]

theorem State.die_modDie_other (s : State) {d e : Nat} (h : e ≠ d) (f : Die → Die) : (s.modDie d f).die e = s.die e := by
  simp [State.die, State.modDie, SMap.find_put_other h]

theorem State.function_modFunction_same (s : State) (n : Nat) (f : Function → Function) :
    (s.modFunction n f).function n = f (s.function n) := by
  simp [State.function, State.modFunction]

theorem State.function_modFunction_other (s : State) {n m : Nat} (h : m ≠ n) (f : Function → Function) :
    (s.modFunction n f).function m = s.function m := by
  simp [State.function, State.modFunction, SMap.find_put_other h]

@[simp] theorem State.task_modDie (s : State) (d : Nat) (f : Die → Die) (k : Nat) : (s.modDie d f).task k = s.task k := rfl

@[simp] theorem State.strand_modDie (s : State) (d : Nat) (f : Die → Die) (k j : Nat) :
    (s.modDie d f).strand k j = s.strand k j := rfl

@[simp] theorem State.launch_modTask (s : State) (k : Nat) (f : Task → Task) (l : Nat) :
    (s.modTask k f).launch l = s.launch l := rfl

@[simp] theorem State.launch_modStrand (s : State) (k j : Nat) (f : Strand → Strand) (l : Nat) :
    (s.modStrand k j f).launch l = s.launch l := rfl

@[simp] theorem State.die_modTask (s : State) (k : Nat) (f : Task → Task) (d : Nat) : (s.modTask k f).die d = s.die d := rfl

@[simp] theorem State.die_modStrand (s : State) (k j : Nat) (f : Strand → Strand) (d : Nat) :
    (s.modStrand k j f).die d = s.die d := rfl

/-! ### Registers (R62, R182) -/

@[simp] theorem StrandRegs.gr_zero (r : StrandRegs) : r.gr 0 = 0 := rfl

@[simp] theorem StrandRegs.poisonOf_zero (r : StrandRegs) : r.poisonOf 0 = 0 := rfl

theorem StrandRegs.gr_setG (r : StrandRegs) (d : Nat) (v : Word) (n : Nat) :
    (r.setG d v).gr n = if n = d ∧ n ≠ 0 then v else r.gr n := by
  unfold StrandRegs.setG StrandRegs.gr
  by_cases hd : d = 0
  · subst hd; by_cases hn : n = 0 <;> simp [hn]
  · by_cases hn : n = 0
    · simp [hn]
    · by_cases h : n = d
      · subst h; simp [hd]
      · simp [hd, hn, h, SMap.get_set_other _ _ h]

theorem StrandRegs.poisonOf_setG (r : StrandRegs) (d : Nat) (v : Word) (n : Nat) :
    (r.setG d v).poisonOf n = if n = d then 0 else r.poisonOf n := by
  unfold StrandRegs.setG StrandRegs.poisonOf
  by_cases hd : d = 0
  · subst hd; by_cases hn : n = 0 <;> simp [hn]
  · by_cases hn : n = 0
    · simp [hn]
    · by_cases h : n = d
      · subst h; simp [hd]
      · simp [hd, hn, h, SMap.get_set_other _ _ h]

@[simp] theorem StrandRegs.setG_preds (r : StrandRegs) (d : Nat) (v : Word) : (r.setG d v).preds = r.preds := by
  unfold StrandRegs.setG; split <;> rfl

@[simp] theorem StrandRegs.setG_pc (r : StrandRegs) (d : Nat) (v : Word) : (r.setG d v).pc = r.pc := by
  unfold StrandRegs.setG; split <;> rfl

@[simp] theorem StrandRegs.setG_hnd (r : StrandRegs) (d : Nat) (v : Word) : (r.setG d v).hnd = r.hnd := by
  unfold StrandRegs.setG; split <;> rfl

@[simp] theorem StrandRegs.setG_her (r : StrandRegs) (d : Nat) (v : Word) : (r.setG d v).her = r.her := by
  unfold StrandRegs.setG; split <;> rfl

theorem StrandRegs.gr_setPoison (r : StrandRegs) (d : Nat) (v : Word) (c n : Nat) :
    (r.setPoison d v c).gr n = if n = d ∧ n ≠ 0 then v else r.gr n := by
  unfold StrandRegs.setPoison StrandRegs.gr
  by_cases hd : d = 0
  · subst hd; by_cases hn : n = 0 <;> simp [hn]
  · by_cases hn : n = 0
    · simp [hn]
    · by_cases h : n = d
      · subst h; simp [hd]
      · simp [hd, hn, h, SMap.get_set_other _ _ h]

theorem StrandRegs.poisonOf_setPoison (r : StrandRegs) (d : Nat) (v : Word) (c n : Nat) :
    (r.setPoison d v c).poisonOf n = if n = d ∧ n ≠ 0 then c else r.poisonOf n := by
  unfold StrandRegs.setPoison StrandRegs.poisonOf
  by_cases hd : d = 0
  · subst hd; by_cases hn : n = 0 <;> simp [hn]
  · by_cases hn : n = 0
    · simp [hn]
    · by_cases h : n = d
      · subst h; simp [hd]
      · simp [hd, hn, h, SMap.get_set_other _ _ h]

@[simp] theorem StrandRegs.setPoison_preds (r : StrandRegs) (d : Nat) (v : Word) (c : Nat) :
    (r.setPoison d v c).preds = r.preds := by
  unfold StrandRegs.setPoison; split <;> rfl

@[simp] theorem StrandRegs.setPoison_pc (r : StrandRegs) (d : Nat) (v : Word) (c : Nat) :
    (r.setPoison d v c).pc = r.pc := by
  unfold StrandRegs.setPoison; split <;> rfl

@[simp] theorem StrandRegs.setPoison_hnd (r : StrandRegs) (d : Nat) (v : Word) (c : Nat) :
    (r.setPoison d v c).hnd = r.hnd := by
  unfold StrandRegs.setPoison; split <;> rfl

@[simp] theorem StrandRegs.setPoison_her (r : StrandRegs) (d : Nat) (v : Word) (c : Nat) :
    (r.setPoison d v c).her = r.her := by
  unfold StrandRegs.setPoison; split <;> rfl

end Sys2Proof.Machine
end

