-- ==== Sys2Proof/Laws/Strand.lean ====
section
/-!
SUPPORT. Laws of a strand's instruction: the monad's pieces, the frame `strandNext` when the strand runs, and all that
retiring does.
-/
namespace Sys2Proof.Machine

/-! ### The monad -/

theorem M.bind_ok {α β : Type} {x : M α} {f : α → M β} {s s' : State} {a : α} (h : x s = .ok (a, s')) :
    (x >>= f) s = f a s' := by
  show (StateT.bind x f) s = _
  unfold StateT.bind
  rw [h]; rfl

theorem M.bind_error {α β : Type} {x : M α} {f : α → M β} {s : State} {e : Stop} (h : x s = .error e) :
    (x >>= f) s = .error e := by
  show (StateT.bind x f) s = _
  unfold StateT.bind
  rw [h]; rfl

@[simp] theorem M.pure_run {α : Type} (a : α) (s : State) : (pure a : M α) s = .ok (a, s) := rfl

@[simp] theorem M.getS_bind {β : Type} (f : State → M β) (s : State) : (getS >>= f) s = f s s := rfl

@[simp] theorem M.setS_bind {β : Type} (f : Unit → M β) (s s' : State) : (setS s' >>= f) s = f () s' := rfl

@[simp] theorem M.modS_bind {β : Type} (g : State → State) (f : Unit → M β) (s : State) :
    (modS g >>= f) s = f () (g s) := rfl

@[simp] theorem M.curTask_bind {β : Type} (f : Task → M β) (s : State) : (curTask >>= f) s = f (myTask s) s := rfl

@[simp] theorem M.curStrand_bind {β : Type} (f : Strand → M β) (s : State) : (curStrand >>= f) s = f (me s) s := rfl

@[simp] theorem M.curLaunch_bind {β : Type} (f : Launch → M β) (s : State) : (curLaunch >>= f) s = f (myLaunch s) s := rfl

@[simp] theorem M.modCurTask_bind {β : Type} (g : Task → Task) (f : Unit → M β) (s : State) :
    (modCurTask g >>= f) s = f () (s.modTask s.sel.task g) := rfl

@[simp] theorem M.modCur_bind {β : Type} (g : Strand → Strand) (f : Unit → M β) (s : State) :
    (modCur g >>= f) s = f () (s.modStrand s.sel.task s.sel.strand g) := rfl

@[simp] theorem M.modRegs_bind {β : Type} (g : StrandRegs → StrandRegs) (f : Unit → M β) (s : State) :
    (modRegs g >>= f) s = f () (s.modStrand s.sel.task s.sel.strand (fun x => { x with r := g x.r })) := rfl

@[simp] theorem M.pure_bind_run {α β : Type} (a : α) (f : α → M β) (s : State) : ((pure a : M α) >>= f) s = f a s := rfl

@[simp] theorem M.curPc_bind {β : Type} (f : Word → M β) (s : State) : (curPc >>= f) s = f (pcOf s) s := rfl

theorem M.bind_assoc {α β γ : Type} (x : M α) (f : α → M β) (g : β → M γ) (s : State) :
    ((x >>= f) >>= g) s = (x >>= fun a => f a >>= g) s := by
  show StateT.bind (StateT.bind x f) g s = StateT.bind x (fun a => StateT.bind (f a) g) s
  unfold StateT.bind
  cases x s <;> rfl

/-- A register that is ready is no reason to wait. -/
theorem M.needReady_run {r : Reg} {s : State} (h : r.toNat ∉ (me s).notReady) : needReady r s = .ok ((), s) := by
  unfold needReady
  rw [M.curStrand_bind, if_neg h]; rfl

/-- A register without an error is no reason to trap. -/
theorem M.needGood_run {r : Reg} {s : State} (h : r.toNat ∉ (regs s).bad ∧ r.toNat ∉ (regs s).guardBad) :
    needGood r s = .ok ((), s) := by
  unfold needGood
  rw [M.curStrand_bind, if_neg (by simpa [regs] using h)]; rfl

theorem M.rd_run {r : Reg} {s : State} (h : r.toNat ∉ (me s).notReady)
    (hb : r.toNat ∉ (regs s).bad ∧ r.toNat ∉ (regs s).guardBad) :
    rd r s = .ok ((regs s).gr r.toNat, s) := by
  unfold rd
  rw [M.bind_ok (M.needReady_run h), M.bind_ok (M.needGood_run hb)]; rfl

theorem M.rdOut_run {r : Reg} {s : State} (h : r.toNat ∉ (me s).notReady)
    (hb : r.toNat ∉ (regs s).bad ∧ r.toNat ∉ (regs s).guardBad) (hp : (regs s).poisonOf r.toNat = 0) : rdOut r s = .ok ((regs s).gr r.toNat, s) := by
  unfold rdOut
  rw [M.bind_ok (M.needReady_run h), M.bind_ok (M.needGood_run hb), M.curStrand_bind,
    if_neg (by simpa [regs] using hp)]; rfl

theorem M.rdOut_poisoned {r : Reg} {s : State} (h : r.toNat ∉ (me s).notReady)
    (hb : r.toNat ∉ (regs s).bad ∧ r.toNat ∉ (regs s).guardBad) (hp : (regs s).poisonOf r.toNat ≠ 0) : rdOut r s = .error (.trap { cause := 11, tval := w64 r.toNat }) := by
  unfold rdOut
  rw [M.bind_ok (M.needReady_run h), M.bind_ok (M.needGood_run hb), M.curStrand_bind,
    if_pos (by simpa [regs] using hp)]; rfl

theorem M.wr_run {d : Reg} {v : Word} {s : State} (h : d.toNat ∉ (me s).notReady) :
    wr d v s = .ok ((), s.modStrand s.sel.task s.sel.strand (fun x => { x with r := x.r.setG d.toNat v })) := by
  unfold wr
  rw [M.bind_ok (M.needReady_run h)]; rfl

theorem M.takeReports_run {s : State} (h : (me s).reports = []) : takeReports s = .ok ((), s) := by
  unfold takeReports
  rw [M.curStrand_bind, h]; rfl

/-- The first poisoned source of a list, as `wrResult` looks for it. -/
def firstPoisoned (s : State) (srcs : List Reg) : Option Reg := srcs.find? (fun r => (regs s).poisonOf r.toNat ≠ 0)

theorem firstPoisoned_none {s : State} {srcs : List Reg} (hs : Clean s srcs) : firstPoisoned s srcs = none := by
  unfold firstPoisoned
  rw [List.find?_eq_none]
  intro r hr
  simpa using hs.1 r hr

/-- The registers with a result written: a poisoned source's value and cause, else the value. -/
def resultRegs (s : State) (d : Reg) (srcs : List Reg) (v : Word) (x : StrandRegs) : StrandRegs :=
  match firstPoisoned s srcs with
  | some r => x.setPoison d.toNat ((regs s).gr r.toNat) ((regs s).poisonOf r.toNat)
  | none => x.setG d.toNat v

/-- All that writing a result does (R182). -/
theorem M.wrResult_eq {d : Reg} {srcs : List Reg} {v : Word} {s : State} (h : d.toNat ∉ (me s).notReady) :
    wrResult d srcs v s = .ok ((), s.modStrand s.sel.task s.sel.strand (fun x => { x with r := resultRegs s d srcs v x.r })) := by
  unfold wrResult
  rw [M.bind_ok (M.needReady_run h)]
  show (Except.ok ((), s.modStrand s.sel.task s.sel.strand _) : Except Stop (Unit × State)) = _
  congr 2
  apply State.modStrand_congr
  rfl

/-- An unpoisoned result. -/
theorem M.wrResult_run {d : Reg} {srcs : List Reg} {v : Word} {s : State} (h : d.toNat ∉ (me s).notReady)
    (hs : Clean s srcs) : wrResult d srcs v s =
      .ok ((), s.modStrand s.sel.task s.sel.strand (fun x => { x with r := x.r.setG d.toNat v })) := by
  rw [M.wrResult_eq h]
  unfold resultRegs
  rw [firstPoisoned_none hs]

/-! ### The frame of an instruction -/

/-- A strand once strand `k` has had its turn (R200). -/
def passFor (k : Nat) (y : Strand) : Strand := { y with passOver := y.passOver.filter (· != k) }

/-- A task once strand `k` has its turn (R13, R200). -/
def turnTask (k : Nat) (x : Task) : Task :=
  { x with lastIssued := k, strands := x.strands.map (fun e => (e.1, passFor k e.2)) }

theorem takeTurn_eq (s : State) (t k : Nat) : takeTurn s t k = s.modTask t (turnTask k) := rfl

@[simp] theorem turnTask_strand (k j : Nat) (x : Task) : (turnTask k x).strand j = passFor k (x.strand j) := by
  unfold Task.strand turnTask
  rw [SMap.find_map j (fun _ y => passFor k y) x.strands]
  cases SMap.find j x.strands <;> rfl

/-- A task where a strand's instruction begins: the strand has its turn (R13), and the count of its writes that run ahead
starts anew. -/
def beginTask (k : Nat) (x : Task) : Task := (turnTask k x).modStrand k (fun y => { y with undoUsed := 0 })

/-- The state an instruction's body begins in. -/
def begin_ (s : State) : State := s.modTask s.sel.task (beginTask s.sel.strand)

theorem beginTask_strand (k j : Nat) (x : Task) :
    (beginTask k x).strand j = if j = k then { passFor k (x.strand k) with undoUsed := 0 } else passFor k (x.strand j) := by
  unfold beginTask
  split
  · rename_i h; subst h; rw [Task.strand_modStrand_same, turnTask_strand]
  · rename_i h; rw [Task.strand_modStrand_other _ h, turnTask_strand]

/-- What it takes for a strand to issue (R13, R163, R175). -/
theorem canIssue_gives {s : State} {t k : Nat} (h : canIssue s t k = true) :
    s.hasTask t = true ∧ (s.strand t k).live = true ∧ (s.strand t k).wait = none := by
  simp only [canIssue, issuable, Bool.and_eq_true, Option.isNone_iff_eq_none] at h
  obtain ⟨⟨⟨⟨⟨⟨⟨⟨⟨⟨⟨⟨⟨hT, -⟩, -⟩, -⟩, -⟩, hl⟩, -⟩, hw⟩, -⟩, -⟩, -⟩, -⟩, -⟩, -⟩ := h
  exact ⟨hT, hl, hw⟩

theorem Runs.hasTask {s : State} (h : Runs s) : s.hasTask s.sel.task = true := (canIssue_gives h.issues).1

theorem Runs.live {s : State} (h : Runs s) : (me s).live = true := (canIssue_gives h.issues).2.1

theorem Runs.notWaiting {s : State} (h : Runs s) : (me s).wait = none := (canIssue_gives h.issues).2.2

@[simp] theorem begin_sel (s : State) : (begin_ s).sel = s.sel := rfl

@[simp] theorem begin_hasTask (s : State) (k : Nat) : (begin_ s).hasTask k = s.hasTask k := State.hasTask_modTask s _ k _

theorem myTask_begin {s : State} (h : s.hasTask s.sel.task = true) :
    myTask (begin_ s) = beginTask s.sel.strand (myTask s) := State.task_modTask_same h _

theorem launchOf_begin {s : State} (h : s.hasTask s.sel.task = true) : (begin_ s).launchOf s.sel.task = s.launchOf s.sel.task := by
  unfold State.launchOf
  rw [show (begin_ s).task s.sel.task = beginTask s.sel.strand (s.task s.sel.task) from State.task_modTask_same h _]
  exact State.launch_modTask s s.sel.task _ _

@[simp] theorem myLaunch_modStrand {s : State} (h : s.hasTask s.sel.task = true) (f : Strand → Strand) :
    myLaunch (s.modStrand s.sel.task s.sel.strand f) = myLaunch s := by
  simp only [myLaunch, State.launchOf, State.modStrand_sel, State.launch_modStrand]
  congr 1
  simp [State.modStrand, State.task_modTask_same h]

theorem me_modStrand {s : State} (h : s.hasTask s.sel.task = true) (f : Strand → Strand) :
    me (s.modStrand s.sel.task s.sel.strand f) = f (me s) := State.strand_modStrand_same h _ f

theorem myTask_modStrand {s : State} (h : s.hasTask s.sel.task = true) (f : Strand → Strand) :
    myTask (s.modStrand s.sel.task s.sel.strand f) = (myTask s).modStrand s.sel.strand f := State.task_modTask_same h _

theorem me_begin {s : State} (h : s.hasTask s.sel.task = true) : me (begin_ s) = { turned s (me s) with undoUsed := 0 } := by
  have := myTask_begin h
  show (myTask (begin_ s)).strand s.sel.strand = _
  rw [this, beginTask_strand, if_pos rfl]; rfl

theorem regs_begin {s : State} (h : s.hasTask s.sel.task = true) : regs (begin_ s) = regs s := by
  simp [regs, me_begin h, turned]

/-- What an instruction of a strand that runs comes to: its body's ending decides. -/
def conclude (s : State) (i : Instr) (r : Except Stop (Next × State)) : State :=
  bodyNext (begin_ s) s.sel.task s.sel.strand i r

theorem begin_eq (s : State) : begin_ s = (takeTurn s s.sel.task s.sel.strand).modStrand s.sel.task s.sel.strand
    (fun x => { x with undoUsed := 0 }) := by
  rw [takeTurn_eq, State.modStrand, State.modTask_modTask]
  rfl

theorem takeTurn_task {s : State} {t : Nat} (h : s.hasTask t = true) (k : Nat) :
    (takeTurn s t k).task t = turnTask k (s.task t) := State.task_modTask_same h _

theorem strandNext_runs {s : State} (h : Runs s) (i : Instr) (body : M Next) :
    strandNext i body s = conclude s i (body (begin_ s)) := by
  have h1 := h.issues
  have ht := takeTurn_task h.hasTask s.sel.strand
  have hst : (takeTurn s s.sel.task s.sel.strand).strand s.sel.task s.sel.strand = turned s (me s) := by
    show ((takeTurn s s.sel.task s.sel.strand).task s.sel.task).strand s.sel.strand = _
    rw [ht, turnTask_strand]; rfl
  have h3 : shortOfFault ((takeTurn s s.sel.task s.sel.strand).task s.sel.task) s.sel.strand = false := by
    rw [ht]; exact h.passed
  have hfed : lvqBad ((takeTurn s s.sel.task s.sel.strand).task s.sel.task) s.sel.strand = false := by
    rw [ht]; exact h.fed
  have hdue : (turned s (me s)).stepDue = false := h.noStep
  have h4 : armedWrongly (turned s (me s)) i = false := by simp [armedWrongly, turned, h.unarmed]
  have h5 : (sideEffect i && (takeTurn s s.sel.task s.sel.strand).sel.guard == .mismatch) = false := by
    show (sideEffect i && s.sel.guard == .mismatch) = false
    rw [h.agrees, Bool.and_comm]; rfl
  unfold strandNext
  simp only [h1, hst, hdue, hfed, h3, h4, h5, Bool.not_true, Bool.false_and, Bool.false_eq_true, if_false]
  rw [← begin_eq]
  rfl

theorem strandStep_runs {s : State} (h : Runs s) (i : Instr) (body : M Next) :
    strandStep i body s = .next (conclude s i (body (begin_ s))) := by
  unfold strandStep
  rw [strandNext_runs h]

end Sys2Proof.Machine
end

