-- ==== Sys2Proof/Laws/Retire.lean ====
section
/-!
SUPPORT. All that retiring an instruction does (R215, R392, R393, R394): nothing outside the task, the loops that end at the
instruction, the strand's pc and the books of issuing.
-/
namespace Sys2Proof.Machine

/-- Where a retiring instruction leaves the loops and the pc. -/
def afterNext (s : State) (t k len : Nat) : Next → State × Word
  | .fall =>
    if (s.strand t k).r.hnd || (s.strand t k).r.her then (s, (s.strand t k).r.pc + w64 (4 * len))
    else
      let r := loopBack (s.task t) k (s.strand t k).r.pc ((s.strand t k).r.pc + w64 (4 * len)) 4
      (s.modTask t (fun _ => r.1), r.2)
  | .jump p => (s, p)
  | .skip p => (s, p)
  | .hold => (s, (s.strand t k).r.pc)
  | .done => (s, (s.strand t k).r.pc)
  | .waitNow _ => (s, (s.strand t k).r.pc)
  | .trapAfter _ => (s, (s.strand t k).r.pc)
  | .capability => (s, (s.strand t k).r.pc)

/-- The books of issuing after an instruction of `len` parcels at `old`. -/
def bookStrand (old pc : Word) (len : Nat) (pushes short : Bool) (x : Strand) : Strand :=
  { x with
    r := { x.r with pc := pc }, wait := none, lastWait := none, walkFault := none, closing := false,
    lastReplay := if !pushes && (x.lastReplay.map (·.2)) == some old then none else x.lastReplay,
    stepPc := old, stepLen := len, sinceSync := x.sinceSync + 1,
    undoUsed := if short then x.undoUsed + 1 else x.undoUsed }

theorem retireAs_eq (s : State) (t k len : Nat) (pushes logged side : Bool) (next : Next) :
    retireAs s t k len pushes logged side next =
      let a := afterNext s t k len next
      let s3 := a.1.modStrand t k (bookStrand (s.strand t k).r.pc a.2 len pushes (shortOfFault (a.1.task t) k && logged))
      stepStop (if side then guardAgree s3 t k else s3) t k := by
  unfold retireAs
  cases next <;> rfl

theorem stepStop_off {s : State} {t k : Nat} (h : (s.task t).dbgctl.getLsbD 0 = false) : stepStop s t k = s := by
  unfold stepStop
  simp only [h, Bool.false_and, Bool.false_eq_true, if_false]

theorem loopBack_kept {t : Task} {k : Nat} {a : Word} (h : loopAt t k a = none) (next : Word) (n : Nat) :
    loopBack t k a next n = (t, next) := by
  cases n with
  | zero => rfl
  | succ n => simp [loopBack, h]

/-- What waits for the guard is nothing to the loops. -/
theorem loopBack_lvq (t : Task) (q : List LvqEntry) (k : Nat) (a next : Word) (n : Nat) :
    (loopBack { t with lvq := q } k a next n).1.loops = (loopBack t k a next n).1.loops
      ∧ (loopBack { t with lvq := q } k a next n).2 = (loopBack t k a next n).2 := by
  induction n generalizing t with
  | zero => exact ⟨rfl, rfl⟩
  | succ n ih =>
    unfold loopBack
    have hl : loopAt { t with lvq := q } k a = loopAt t k a := rfl
    rw [hl]
    cases loopAt t k a with
    | none => exact ⟨rfl, rfl⟩
    | some c =>
      have hc : ({ t with lvq := q } : Task).loop c = t.loop c := rfl
      simp only [hc]
      split
      · exact ⟨rfl, rfl⟩
      · exact ih (t.setLoop c { t.loop c with act := false })

/-- Ending loops changes loop counters only. -/
theorem loopBack_task (k : Nat) (a next : Word) (n : Nat) : ∀ t : Task,
    (loopBack t k a next n).1 = { t with loops := (loopBack t k a next n).1.loops } := by
  induction n with
  | zero => intro t; rfl
  | succ n ih =>
    intro t
    unfold loopBack
    cases h : loopAt t k a with
    | none => rfl
    | some c =>
      simp only
      split
      · rfl
      · rw [ih]; rfl

theorem afterNext_eq (s : State) (t k len : Nat) :
    afterNext s t k len .fall =
      if (s.strand t k).r.hnd || (s.strand t k).r.her then (s, (s.strand t k).r.pc + w64 (4 * len))
      else
        (s.modTask t (fun _ => (loopBack (s.task t) k (s.strand t k).r.pc ((s.strand t k).r.pc + w64 (4 * len)) 4).1),
          (loopBack (s.task t) k (s.strand t k).r.pc ((s.strand t k).r.pc + w64 (4 * len)) 4).2) := rfl

/-- The task after retirement: only strands and loops may differ. -/
theorem afterNext_task {s : State} {t : Nat} (h : s.hasTask t = true) (k len : Nat) (next : Next) :
    (afterNext s t k len next).1.task t = { s.task t with loops := ((afterNext s t k len next).1.task t).loops } := by
  cases next <;> try rfl
  rw [afterNext_eq]
  split
  · rfl
  · simp only [State.task_modTask_same h]
    exact loopBack_task _ _ _ _ _

theorem afterNext_other {s : State} {t j : Nat} (hj : j ≠ t) (k len : Nat) (next : Next) :
    SMap.find j (afterNext s t k len next).1.tasks = SMap.find j s.tasks := by
  cases next <;> try rfl
  rw [afterNext_eq]
  split
  · rfl
  · exact SMap.find_upd_other hj _ _

theorem afterNext_outside (s : State) (t k len : Nat) (next : Next) :
    (afterNext s t k len next).1 = { s with tasks := (afterNext s t k len next).1.tasks } := by
  cases next <;> try rfl
  rw [afterNext_eq]
  split <;> rfl

theorem afterNext_hasTask (s : State) (t k len : Nat) (next : Next) (j : Nat) :
    (afterNext s t k len next).1.hasTask j = s.hasTask j := by
  cases next <;> try rfl
  rw [afterNext_eq]
  split
  · rfl
  · exact State.hasTask_modTask s t j _

/-- Where no loop ends, retiring changes none and the strand falls through. -/
theorem afterNext_fall {s : State} {t k : Nat} (h : s.hasTask t = true) (len : Nat)
    (hl : ((s.strand t k).r.hnd || (s.strand t k).r.her) = true ∨ loopAt (s.task t) k (s.strand t k).r.pc = none) :
    ((afterNext s t k len .fall).1.task t).loops = (s.task t).loops
      ∧ (afterNext s t k len .fall).2 = (s.strand t k).r.pc + w64 (4 * len) := by
  rw [afterNext_eq]
  split
  · exact ⟨rfl, rfl⟩
  · rename_i hx
    rcases hl with hl | hl
    · exact absurd hl hx
    · rw [loopBack_kept hl]
      exact ⟨by rw [State.task_modTask_same h], rfl⟩

/-- Retiring with single step off: the strand's books, then the sync point of a side effect. -/
theorem retireAs_off {s : State} {t k : Nat} (h : s.hasTask t = true) (hm : (s.task t).dbgctl.getLsbD 0 = false)
    (len : Nat) (pushes logged : Bool) (next : Next) :
    retireAs s t k len pushes logged false next =
      (afterNext s t k len next).1.modStrand t k
        (bookStrand (s.strand t k).r.pc (afterNext s t k len next).2 len pushes (shortOfFault (s.task t) k && logged)) := by
  rw [retireAs_eq]
  have ha := afterNext_hasTask s t k len next t
  rw [h] at ha
  have hq : shortOfFault ((afterNext s t k len next).1.task t) k = shortOfFault (s.task t) k := by
    rw [afterNext_task h]; rfl
  simp only [hq, Bool.false_eq_true, if_false]
  apply stepStop_off
  have : ∀ f : Strand → Strand, (((afterNext s t k len next).1.modStrand t k f).task t).dbgctl = (s.task t).dbgctl := by
    intro f
    simp only [State.modStrand, State.task_modTask_same ha]
    show ((afterNext s t k len next).1.task t).dbgctl = _
    rw [afterNext_task h]
  rw [this]; exact hm

/-- All that retiring does when nothing is compared: the frame. -/
theorem retireAs_frame {s : State} {t k : Nat} (h : s.hasTask t = true) (hm : (s.task t).dbgctl.getLsbD 0 = false)
    (len : Nat) (pushes logged : Bool) (next : Next) :
    let r := retireAs s t k len pushes logged false next
    r = { s with tasks := r.tasks }
      ∧ (∀ j, j ≠ t → SMap.find j r.tasks = SMap.find j s.tasks)
      ∧ r.hasTask t = true
      ∧ r.task t = { s.task t with strands := (r.task t).strands, loops := (r.task t).loops }
      ∧ (r.task t).loops = ((afterNext s t k len next).1.task t).loops
      ∧ (∀ j, j ≠ k → r.strand t j = s.strand t j)
      ∧ r.strand t k = bookStrand (s.strand t k).r.pc (afterNext s t k len next).2 len pushes (shortOfFault (s.task t) k && logged) (s.strand t k) := by
  intro r
  have ha := afterNext_hasTask s t k len next t
  rw [h] at ha
  have hr : r = (afterNext s t k len next).1.modStrand t k
      (bookStrand (s.strand t k).r.pc (afterNext s t k len next).2 len pushes (shortOfFault (s.task t) k && logged)) := retireAs_off h hm len pushes logged next
  have ht : r.task t = ((afterNext s t k len next).1.task t).modStrand k
      (bookStrand (s.strand t k).r.pc (afterNext s t k len next).2 len pushes (shortOfFault (s.task t) k && logged)) := by
    rw [hr]
    simp only [State.modStrand, State.task_modTask_same ha]
  have hs : ∀ j, ((afterNext s t k len next).1.task t).strand j = s.strand t j := by
    intro j
    rw [afterNext_task h]; rfl
  refine ⟨?_, ?_, ?_, ?_, ?_, ?_, ?_⟩
  · rw [hr]
    have := afterNext_outside s t k len next
    show ({ (afterNext s t k len next).1 with tasks := _ } : State) = { s with tasks := _ }
    rw [this]; rfl
  · intro j hj
    rw [hr]
    show SMap.find j (SMap.upd t _ _) = _
    rw [SMap.find_upd_other hj, afterNext_other hj]
  · rw [hr]; simp [ha]
  · rw [ht]
    have hx := afterNext_task h k len next
    generalize (afterNext s t k len next).1.task t = x at hx ⊢
    generalize x.loops = l at hx
    subst hx; rfl
  · rw [ht]; rfl
  · intro j hj
    show (r.task t).strand j = _
    rw [ht, Task.strand_modStrand_other _ hj, hs]
  · show (r.task t).strand k = _
    rw [ht, Task.strand_modStrand_same, hs]

theorem guardCatch_strand (x : Task) (k j : Nat) :
    (x.guardCatch k).strand j = (x.modStrand k (fun y => { y with guard := y.r })).strand j := rfl

/-- A task at a side effect that the guard agrees with. -/
def agreeTask (k : Nat) (x : Task) : Task := (x.syncStrand k).modStrand k (fun y => { y with replaying := false })

/-- A comparison changes the strand's sync point and guard, and what waits for the guard. -/
theorem agreeTask_eq (k : Nat) (x : Task) :
    agreeTask k x = { x with strands := (agreeTask k x).strands, lvq := (agreeTask k x).lvq } := rfl

theorem agreeTask_strand_same (k : Nat) (x : Task) :
    (agreeTask k x).strand k = { (x.strand k).syncNow x.loops with replaying := false } := by
  unfold agreeTask Task.syncStrand
  rw [Task.strand_modStrand_same, Task.strand_modStrand_same]
  rw [guardCatch_strand, Task.strand_modStrand_same]; rfl

theorem agreeTask_strand_other {k j : Nat} (h : j ≠ k) (x : Task) : (agreeTask k x).strand j = x.strand j := by
  unfold agreeTask Task.syncStrand
  rw [Task.strand_modStrand_other _ h, Task.strand_modStrand_other _ h]
  rw [guardCatch_strand, Task.strand_modStrand_other _ h]

theorem guardAgree_first {s : State} {t k : Nat} (h : (s.strand t k).replaying = false) :
    guardAgree s t k = s.modTask t (agreeTask k) := by
  have hx : ((s.task t).strand k).replaying = false := h
  unfold guardAgree
  simp only [hx, Bool.false_eq_true, if_false, State.modStrand, State.modTask_modTask]
  rfl

/-- A side effect that the guard agrees with also sets the sync point. -/
theorem retireAs_side {s : State} {t k : Nat} (h : s.hasTask t = true) (hm : (s.task t).dbgctl.getLsbD 0 = false)
    (hr : (s.strand t k).replaying = false) (len : Nat) (pushes logged : Bool) (next : Next) :
    retireAs s t k len pushes logged true next =
      (retireAs s t k len pushes logged false next).modTask t (agreeTask k) := by
  obtain ⟨_, _, hT, htask, _, _, hself⟩ := retireAs_frame (k := k) h hm len pushes logged next
  have hoff := retireAs_off (k := k) h hm len pushes logged next
  rw [retireAs_eq]
  have hq : shortOfFault ((afterNext s t k len next).1.task t) k = shortOfFault (s.task t) k := by
    rw [afterNext_task h]; rfl
  simp only [hq, if_true, ← hoff]
  generalize retireAs s t k len pushes logged false next = q at hT htask hself ⊢
  rw [guardAgree_first (show (q.strand t k).replaying = false by rw [hself]; exact hr)]
  refine stepStop_off ?_
  rw [State.task_modTask_same hT, agreeTask_eq, htask]
  exact hm

/-- Feeding the guard changes what waits for it, and nothing else (R392). -/
theorem feedGuard_frame {s : State} {t : Nat} (h : s.hasTask t = true) (k : Nat) (i : Instr) :
    let r := feedGuard s t k i
    r = { s with tasks := r.tasks }
      ∧ (∀ j, j ≠ t → SMap.find j r.tasks = SMap.find j s.tasks)
      ∧ r.hasTask t = true
      ∧ r.task t = { s.task t with lvq := (r.task t).lvq } := by
  intro r
  have hr : r = feedGuard s t k i := rfl
  unfold feedGuard at hr
  generalize takesOutside i = l at hr
  cases l with
  | nil => exact ⟨by rw [hr], fun _ _ => by rw [hr], by rw [hr]; exact h, by rw [hr]⟩
  | cons d l =>
    replace hr : r = s.modTask t (fun x => (d :: l).foldl (fun x d =>
        if d = 0 ∨ d.toNat ∈ (x.strand k).notReady then x else x.feed k ((x.strand k).r.gr d.toNat)) x) := hr
    clear_value r
    generalize d :: l = l at hr
    have hf : ∀ (l : List Reg) (x : Task), ∃ q, (l.foldl (fun x d =>
        if d = 0 ∨ d.toNat ∈ (x.strand k).notReady then x else x.feed k ((x.strand k).r.gr d.toNat)) x) = { x with lvq := q } := by
      intro l
      induction l with
      | nil => intro x; exact ⟨_, rfl⟩
      | cons d l ih =>
        intro x
        rw [List.foldl_cons]
        split
        · exact ih x
        · obtain ⟨q, hq⟩ := ih (x.feed k ((x.strand k).r.gr d.toNat))
          exact ⟨q, hq⟩
    obtain ⟨q, hq⟩ := hf l (s.task t)
    have ht : r.task t = { s.task t with lvq := q } := by rw [hr, State.task_modTask_same h, hq]
    refine ⟨by rw [hr]; rfl, ?_, by rw [hr]; simpa using h, by rw [ht]⟩
    intro j hj
    rw [hr]
    exact SMap.find_upd_other hj _ _

/-! ### An instruction whose body changes registers only -/

/-- The frame of retiring an instruction: from any state `u` its body left. -/
theorem retire_frame {u : State} {T K : Nat} (hT : u.hasTask T = true) (hm : (u.task T).dbgctl.getLsbD 0 = false)
    (hrep : (u.strand T K).replaying = false) (i : Instr) (n : Next) :
    let r := retire u T K i n
    r = { u with tasks := r.tasks }
      ∧ (∀ j, j ≠ T → SMap.find j r.tasks = SMap.find j u.tasks)
      ∧ r.task T = { u.task T with strands := (r.task T).strands, loops := (r.task T).loops, lvq := (r.task T).lvq }
      ∧ (r.task T).loops = ((afterNext u T K (parcels i) n).1.task T).loops
      ∧ (∀ j, j ≠ K → r.strand T j = u.strand T j)
      ∧ r.strand T K = { u.strand T K with
          r := { (u.strand T K).r with pc := (afterNext u T K (parcels i) n).2 },
          wait := none, lastWait := none, walkFault := none, lastReplay := (r.strand T K).lastReplay, closing := false,
          stepPc := (u.strand T K).r.pc, stepLen := (r.strand T K).stepLen,
          sync := (r.strand T K).sync, guard := (r.strand T K).guard, sinceSync := (r.strand T K).sinceSync,
          undoUsed := (r.strand T K).undoUsed } := by
  intro r
  obtain ⟨f1, f2, f3, f4⟩ := feedGuard_frame hT K i
  have hr0 : r = retireAs (feedGuard u T K i) T K (parcels i) (vectorPush i) (logsWrite i) (sideEffect i) n := rfl
  have hst : ∀ j, (feedGuard u T K i).strand T j = u.strand T j := by
    intro j
    rw [State.strand, f4]; rfl
  have hat : ((afterNext (feedGuard u T K i) T K (parcels i) n).1.task T).loops =
        ((afterNext u T K (parcels i) n).1.task T).loops
      ∧ (afterNext (feedGuard u T K i) T K (parcels i) n).2 = (afterNext u T K (parcels i) n).2 := by
    have hk := hst K
    have hl : ((feedGuard u T K i).task T).loops = (u.task T).loops := by rw [f4]
    have hp : ((feedGuard u T K i).strand T K).r.pc = (u.strand T K).r.pc := by rw [hk]
    cases n with
    | fall =>
      rw [afterNext_eq, afterNext_eq, hk]
      split
      · exact ⟨hl, rfl⟩
      · simp only [State.task_modTask_same f3, State.task_modTask_same hT]
        rw [f4]
        exact loopBack_lvq _ _ _ _ _ _
    | jump p => exact ⟨hl, rfl⟩
    | skip p => exact ⟨hl, rfl⟩
    | hold => exact ⟨hl, hp⟩
    | done => exact ⟨hl, hp⟩
    | waitNow w => exact ⟨hl, hp⟩
    | trapAfter x => exact ⟨hl, hp⟩
    | capability => exact ⟨hl, hp⟩
  generalize feedGuard u T K i = v at *
  have hmv : (v.task T).dbgctl.getLsbD 0 = false := by rw [f4]; exact hm
  obtain ⟨h1, h2, h3, h4, h5, h6, h7⟩ := retireAs_frame (k := K) f3 hmv (parcels i) (vectorPush i) (logsWrite i) n
  rw [hat.1] at h5
  rw [hst K, hat.2] at h7
  cases hse : sideEffect i with
  | false =>
    rw [hse] at hr0
    rw [← hr0] at h1 h2 h3 h4 h5 h6 h7
    refine ⟨?_, fun j hj => by rw [h2 j hj, f2 j hj], ?_, h5, fun j hj => by rw [h6 j hj, hst j], by rw [h7]; rfl⟩
    · rw [f1] at h1; exact h1
    · rw [f4] at h4
      generalize r.task T = x at h4 ⊢
      generalize x.loops = l at h4 ⊢
      generalize x.strands = st at h4 ⊢
      subst h4; rfl
  | true =>
    rw [hse, retireAs_side f3 hmv (by rw [hst K]; exact hrep)] at hr0
    generalize retireAs v T K (parcels i) (vectorPush i) (logsWrite i) false n = q at *
    have ht : r.task T = agreeTask K (q.task T) := by rw [hr0, State.task_modTask_same h3]
    refine ⟨?_, ?_, ?_, ?_, ?_, ?_⟩
    · rw [hr0]
      rw [f1] at h1
      generalize q.tasks = ts at h1
      subst h1; rfl
    · intro j hj
      rw [hr0]
      show SMap.find j (SMap.upd _ _ _) = _
      rw [SMap.find_upd_other hj, h2 j hj]; exact f2 j hj
    · rw [ht, agreeTask_eq]
      rw [f4] at h4
      generalize q.task T = x at h4 ⊢
      generalize x.loops = l at h4 ⊢
      generalize x.strands = st at h4 ⊢
      subst h4; rfl
    · rw [ht, agreeTask_eq]; exact h5
    · intro j hj
      rw [← hst j, ← h6 j hj, State.strand, ht, agreeTask_strand_other hj]; rfl
    · have hx : r.strand T K = { (q.task T).strand K with
          replaying := false, sinceSync := 0, sync := (r.strand T K).sync, guard := (r.strand T K).guard } := by
        show (r.task T).strand K = _
        rw [State.strand, ht, agreeTask_strand_same]; rfl
      have h7' : (q.task T).strand K = _ := h7
      generalize r.strand T K = z at *
      rw [h7'] at hx
      generalize z.sync = sy at *
      generalize z.guard = gu at *
      subst hx
      simp only [bookStrand, hrep]

/-- How an instruction that retires goes on. -/
def Next.retires : Next → Bool
  | .fall => true
  | .jump _ => true
  | .skip _ => true
  | .hold => false
  | .done => false
  | .waitNow _ => false
  | .trapAfter _ => false
  | .capability => false

theorem conclude_retires {s s' : State} {i : Instr} {n : Next} (hn : n.retires = true) :
    conclude s i (.ok (n, s')) = retire s' s.sel.task s.sel.strand i n := by
  unfold conclude bodyNext
  cases n <;> first | rfl | cases hn

/-- The pc and the STATUS bits are for retirement to change, not for the body. -/
def keepsControl (g : StrandRegs → StrandRegs) : Prop := ∀ r, (g r).pc = r.pc ∧ (g r).hnd = r.hnd ∧ (g r).her = r.her

/-- What differs of a task that an instruction began in, its body changed by `f`, and retirement changed. -/
theorem beginTask_kept {x y : Task} {k : Nat} {f : Strand → Strand}
    (h : y = { (beginTask k x).modStrand k f with strands := y.strands, loops := y.loops, lvq := y.lvq }) :
    y = { x with strands := y.strands, loops := y.loops, lvq := y.lvq, lastIssued := k } :=
  have e : ∀ a l q, ({ (beginTask k x).modStrand k f with strands := a, loops := l, lvq := q } : Task)
      = { x with strands := a, loops := l, lvq := q, lastIssued := k } := fun _ _ _ => rfl
  h.trans (e _ _ _)

/-- An instruction that changes registers of its strand: it goes on, the registers are what its body made of them, and
nothing else differs. -/
theorem strandStep_regs {s : State} (h : Runs s) {i : Instr} {body : M Next} {n : Next} (hn : n.retires = true)
    {g : StrandRegs → StrandRegs} (hg : keepsControl g)
    (hb : body (begin_ s) =
      .ok (n, (begin_ s).modStrand s.sel.task s.sel.strand (fun x => { x with r := g x.r }))) :
    ∃ t, strandStep i body s = .next t ∧ RegsOnly s t
      ∧ regs t = { g (regs s) with pc := pcOf t }
      ∧ (n = .fall → FallsThrough s t (parcels i))
      ∧ (∀ p, n = .jump p ∨ n = .skip p → pcOf t = p) := by
  refine ⟨_, strandStep_runs h i body, ?_⟩
  rw [hb, conclude_retires hn]
  have hT := h.hasTask
  generalize hu : (begin_ s).modStrand s.sel.task s.sel.strand (fun x => { x with r := g x.r }) = u
  have hu2 : u = s.modTask s.sel.task (fun x => (beginTask s.sel.strand x).modStrand s.sel.strand
      (fun x => { x with r := g x.r })) := by
    rw [← hu, begin_, State.modStrand, State.modTask_modTask]
  have hmt : u.task s.sel.task = (beginTask s.sel.strand (s.task s.sel.task)).modStrand s.sel.strand
      (fun x => { x with r := g x.r }) := by
    rw [hu2]; exact State.task_modTask_same hT _
  have hme : u.strand s.sel.task s.sel.strand = { turned s (me s) with undoUsed := 0, r := g (me s).r } := by
    rw [State.strand, hmt, Task.strand_modStrand_same, beginTask_strand, if_pos rfl]; rfl
  have hsib : ∀ j, j ≠ s.sel.strand → u.strand s.sel.task j = turned s (s.strand s.sel.task j) := by
    intro j hj
    rw [State.strand, hmt, Task.strand_modStrand_other _ hj, beginTask_strand, if_neg hj]; rfl
  have huT : u.hasTask s.sel.task = true := by rw [hu2]; simpa using hT
  obtain ⟨h1, h2, h3, h4, h5, h6⟩ := retire_frame (K := s.sel.strand) huT (by rw [hmt]; exact h.noMode)
    (by rw [hme]; exact h.settled) i n
  have hfall : n = .fall → NoLoopEnd s →
      ((afterNext u s.sel.task s.sel.strand (parcels i) n).1.task s.sel.task).loops = (myTask s).loops
        ∧ (afterNext u s.sel.task s.sel.strand (parcels i) n).2 = pcOf s + w64 (4 * parcels i) := by
    intro hf hl
    subst hf
    obtain ⟨hp, hh, hr⟩ := hg (regs s)
    have := afterNext_fall (k := s.sel.strand) huT (parcels i) (by
      rw [hme, hmt]
      show (((g (regs s)).hnd || (g (regs s)).her) = true) ∨ loopAt _ _ (g (regs s)).pc = none
      rw [hp, hh, hr]
      exact hl)
    rw [hme, hmt] at this
    refine ⟨this.1, ?_⟩
    rw [this.2]
    show (g (regs s)).pc + _ = _
    rw [hp]; rfl
  have hloops : (u.task s.sel.task).loops = (myTask s).loops := by rw [hmt]; rfl
  have hjump : n ≠ .fall →
      ((afterNext u s.sel.task s.sel.strand (parcels i) n).1.task s.sel.task).loops = (myTask s).loops := by
    intro hf
    cases n <;> first | exact absurd rfl hf | exact hloops
  have hsel : (retire u s.sel.task s.sel.strand i n).sel = s.sel := by rw [h1, hu2]; rfl
  generalize retire u s.sel.task s.sel.strand i n = t at *
  have hme' : me t = t.strand s.sel.task s.sel.strand := by unfold me; rw [hsel]
  have hmt' : myTask t = t.task s.sel.task := by unfold myTask; rw [hsel]
  refine ⟨⟨?_, ?_, ?_, ?_, ?_, ?_⟩, ?_, ?_, ?_⟩
  · unfold OutsideKept
    rw [hu2] at h1
    exact h1
  · intro j hj
    rw [h2 j hj, hu2]
    exact SMap.find_upd_other hj _ _
  · rw [hmt']
    rw [hmt] at h3
    exact beginTask_kept h3
  · intro hl
    rw [hmt', h4]
    by_cases hf : n = .fall
    · exact (hfall hf hl).1
    · exact hjump hf
  · intro j hj
    rw [h5 j hj, hsib j hj]
  · have hpc : (u.strand s.sel.task s.sel.strand).r.pc = pcOf s := by rw [hme]; exact (hg (regs s)).1
    unfold SelfKept
    rw [hme', h6, hpc, hme]
  · unfold pcOf regs
    rw [hme', h6, hme]
  · intro hf hl
    unfold pcOf regs
    rw [hme', h6]
    exact (hfall hf hl).2
  · intro p hp
    unfold pcOf regs
    rw [hme', h6]
    rcases hp with hp | hp <;> subst hp <;> rfl

/-- An instruction whose body ends in the fall-through: the state its body leaves, retired. -/
theorem strandStep_retired {s u : State} (h : Runs s) {i : Instr} {body : M Next} (hsel : u.sel = s.sel)
    (hT : u.hasTask s.sel.task = true) (hm : (myTask u).dbgctl.getLsbD 0 = false) (hrep : (me u).replaying = false)
    (hb : body (begin_ s) = .ok (.fall, begin_ u)) :
    ∃ t, strandStep i body s = .next t ∧ Retired u t (parcels i) := by
  refine ⟨_, strandStep_runs h i body, ?_⟩
  rw [hb, conclude_retires rfl]
  rw [← hsel] at hT ⊢
  have hmt : (begin_ u).task u.sel.task = beginTask u.sel.strand (u.task u.sel.task) := State.task_modTask_same hT _
  have hsib : ∀ j, j ≠ u.sel.strand → (begin_ u).strand u.sel.task j = turned u (u.strand u.sel.task j) := by
    intro j hj
    rw [State.strand, hmt, beginTask_strand, if_neg hj]; rfl
  have hme : (begin_ u).strand u.sel.task u.sel.strand = { turned u (me u) with undoUsed := 0 } := me_begin hT
  have huT : (begin_ u).hasTask u.sel.task = true := by simpa using hT
  obtain ⟨h1, h2, h3, h4, h5, h6⟩ := retire_frame (K := u.sel.strand) huT (by rw [hmt]; exact hm)
    (by rw [hme]; exact hrep) i .fall
  have hfall : NoLoopEnd u →
      ((afterNext (begin_ u) u.sel.task u.sel.strand (parcels i) .fall).1.task u.sel.task).loops = (myTask u).loops
        ∧ (afterNext (begin_ u) u.sel.task u.sel.strand (parcels i) .fall).2 = pcOf u + w64 (4 * parcels i) := by
    intro hl
    have := afterNext_fall (k := u.sel.strand) huT (parcels i) (by rw [hme, hmt]; exact hl)
    rw [hme, hmt] at this
    exact this
  have hsel' : (retire (begin_ u) u.sel.task u.sel.strand i .fall).sel = u.sel := by rw [h1]; rfl
  generalize retire (begin_ u) u.sel.task u.sel.strand i .fall = t at *
  have hme' : me t = t.strand u.sel.task u.sel.strand := by unfold me; rw [hsel']
  have hmt' : myTask t = t.task u.sel.task := by unfold myTask; rw [hsel']
  refine ⟨h1, ?_, ?_, ?_, ?_, ?_, ?_, ?_⟩
  · intro j hj
    rw [h2 j hj]
    exact SMap.find_upd_other hj _ _
  · rw [hmt', h3, hmt]; rfl
  · intro hl
    rw [hmt', h4]
    exact (hfall hl).1
  · intro j hj
    rw [h5 j hj, hsib j hj]
  · have hpc : ((begin_ u).strand u.sel.task u.sel.strand).r.pc = pcOf u := by rw [hme]; rfl
    unfold SelfKept
    rw [hme', h6, hpc, hme]
  · unfold pcOf regs
    rw [hme', h6, hme]
    rfl
  · intro hl
    unfold pcOf regs
    rw [hme', h6]
    exact (hfall hl).2

/-! ### What the frame gives -/

theorem task_of_find {s t : State} {j : Nat} (h : SMap.find j t.tasks = SMap.find j s.tasks) : t.task j = s.task j := by
  unfold State.task
  rw [h]

theorem OutsideKept.sel {s t : State} (h : OutsideKept s t) : t.sel = s.sel := by rw [h]

/-- An instruction that changes registers only leaves every memory. -/
theorem RegsOnly.memory {s t : State} (h : RegsOnly s t) : MemoryKept s t := by
  have hsel := h.outside.sel
  have htask : ∀ k, (t.task k).spad = (s.task k).spad ∧ (t.task k).heritage = (s.task k).heritage := by
    intro k
    by_cases hk : k = s.sel.task
    · subst hk
      have := h.task
      unfold myTask at this
      rw [hsel] at this
      rw [this]
      exact ⟨rfl, rfl⟩
    · rw [task_of_find (h.others k hk)]
      exact ⟨rfl, rfl⟩
  refine ⟨?_, ?_, ?_, ?_⟩
  · intro a; rw [h.outside]
  · intro a; rw [h.outside]
  · intro k a; rw [(htask k).1]
  · intro k a; rw [(htask k).2]

/-- Registers with one g register written. -/
theorem writesG_of {s t : State} {d : Reg} {v : Word} (h : regs t = { (regs s).setG d.toNat v with pc := pcOf t }) :
    WritesG s t d v ∧ KeepsPreds s t := by
  have hg : ∀ n, (regs t).gr n = ((regs s).setG d.toNat v).gr n := by intro n; rw [h]; rfl
  have hp : ∀ n, (regs t).poisonOf n = ((regs s).setG d.toNat v).poisonOf n := by intro n; rw [h]; rfl
  refine ⟨⟨?_, ?_⟩, ?_, ?_, ?_⟩
  · intro n; rw [hg, StrandRegs.gr_setG]
  · intro n; rw [hp, StrandRegs.poisonOf_setG]
  · rw [h]; exact StrandRegs.setG_preds _ _ _
  · rw [h]; exact StrandRegs.setG_hnd _ _ _
  · rw [h]; exact StrandRegs.setG_her _ _ _

theorem keepsControl_setG (d : Nat) (v : Word) : keepsControl (fun r => r.setG d v) := by
  intro r; simp

/-- What a body that writes one g register comes to. -/
theorem strandStep_writes {s : State} (h : Runs s) {i : Instr} {body : M Next} {n : Next} (hn : n.retires = true)
    {d : Reg} {v : Word}
    (hb : body (begin_ s) =
      .ok (n, (begin_ s).modStrand s.sel.task s.sel.strand (fun x => { x with r := x.r.setG d.toNat v }))) :
    ∃ t, strandStep i body s = .next t ∧ WritesG s t d v ∧ KeepsPreds s t ∧ RegsOnly s t ∧ MemoryKept s t
      ∧ (n = .fall → FallsThrough s t (parcels i)) ∧ (∀ p, n = .jump p ∨ n = .skip p → pcOf t = p) := by
  obtain ⟨t, h1, h2, h3, h4, h5⟩ := strandStep_regs h hn (keepsControl_setG d.toNat v) hb
  obtain ⟨hw, hk⟩ := writesG_of h3
  exact ⟨t, h1, hw, hk, h2, h2.memory, h4, h5⟩

/-! ### What a body sees where it begins -/

theorem Ready.begin {s : State} {rs : List Reg} (h : Runs s) (hr : Ready s rs) {r : Reg} (hm : r ∈ rs) :
    r.toNat ∉ (me (begin_ s)).notReady := by
  rw [me_begin h.hasTask]
  exact hr r hm

theorem Clean.begin {s : State} {rs : List Reg} (h : Runs s) (hc : Clean s rs) : Clean (begin_ s) rs := by
  refine ⟨?_, ?_⟩ <;> intro r hr <;> rw [regs_begin h.hasTask]
  · exact hc.1 r hr
  · exact hc.2 r hr

end Sys2Proof.Machine
end

