-- ==== Sys2Proof/Laws/Own.lean ====
section
/-!
SUPPORT. Laws of an access to the own scratchpad: where its address leads, that it performs as it issues in a free launch,
and what it does there.
-/
namespace Sys2Proof.Machine

/-! ### Where an own address leads -/

theorem canonical_low {va : Word} (h : va.toNat < 0x800000) : canonical va = true := by
  unfold canonical sextW
  rw [beq_iff_eq]
  have hm : (va.setWidth 57).toNat = va.toNat := by
    rw [BitVec.toNat_setWidth]; exact Nat.mod_eq_of_lt (by omega)
  have hmsb : (va.setWidth 57).msb = false := by
    rw [BitVec.msb_eq_decide]; simp only [decide_eq_false_iff_not]; omega
  apply BitVec.eq_of_toNat_eq
  rw [BitVec.signExtend_eq_setWidth_of_msb_false hmsb, BitVec.toNat_setWidth, hm]
  exact (Nat.mod_eq_of_lt (by omega)).symm

theorem placeOf_own {s : State} {t : Nat} {her sem : Bool} {wf : Option (Nat × Trap)} {va : Word} {n : Nat} {need : Need}
    (h1 : va.toNat + n ≤ (s.task t).spsize) (h2 : va.toNat < 0x800000) :
    placeOf s t her sem wf va n need = .ok { home := .spad t, addr := va.toNat } := by
  unfold placeOf
  have hc := canonical_low h2
  have hg : isGlobal va = false := by unfold isGlobal; rw [hc]; simp; omega
  have hs : spadTarget s t va = some (t, va.toNat) := by unfold spadTarget; simp [h2]
  have hw : ¬ (0x20000000000 ≤ va.toNat ∧ va.toNat < 0x20001000000) := by omega
  simp only [hc, hg, hs, Bool.not_true, Bool.false_eq_true, if_false, if_neg hw, if_pos h1]

theorem foldVa_own {s : State} {t : Nat} {va : Word} (h2 : va.toNat < 0x800000) : foldVa s t va = va := by
  have hs : spadTarget s t va = some (t, va.toNat) := by unfold spadTarget; simp [h2]
  unfold foldVa
  simp [hs, w64]

/-! ### Issuing it -/

/-- The access an ask makes at the own scratchpad. -/
def ownAcc (s : State) (q : Ask) : Acc :=
  { who := { task := s.sel.task, strand := s.sel.strand, pc := pcOf s }, home := .spad s.sel.task, addr := q.va.toNat,
    va := q.va, size := q.size, cls := q.cls, nr := q.nr, op := q.op }

theorem orderBlocks_quiet {s : State} (hq : Quiet s) (hp : shortOfFault (myTask s) s.sel.strand = false) (a : Acc)
    (lazy : Bool) : orderBlocks s s.sel.task s.sel.strand a lazy = false := by
  have h1 : ((s.task s.sel.task).strand s.sel.strand).outs = [] := hq.outs
  have h2 : ((s.task s.sel.task).strand s.sel.strand).fences = [] := hq.fences
  have h3 : vecAccesses (s.task s.sel.task) s.sel.strand = [] := hq.vecs
  have h4 : shortOfFault (s.task s.sel.task) s.sel.strand = false := hp
  unfold orderBlocks
  simp only [h1, h2, h3, h4, hq.forked, List.any_nil, Bool.or_self]

theorem checkPlace_own {s : State} {q : Ask} (hf : FreeLaunch s) (ho : OwnBytes s q.va q.size) (hz : 0 < q.size) :
    checkPlace s s.sel.task s.sel.strand q = .ok { home := .spad s.sel.task, addr := q.va.toNat } := by
  have hd : (s.launchOf s.sel.task).det = false := hf.free
  obtain ⟨h1, h2⟩ := ho
  have hp : ∀ her sem wf need, placeOf s s.sel.task her sem wf q.va q.size need =
      .ok { home := .spad s.sel.task, addr := q.va.toNat } :=
    fun her sem wf need => placeOf_own h1 (by omega)
  unfold checkPlace checkPlaceFor
  simp [hd, hp]

/-- In a free launch, with nothing of the strand on its way, an access to the own scratchpad performs as it issues. -/
theorem issueAcc_own {s : State} {q : Ask} (hf : FreeLaunch s) (hq : Quiet s)
    (hp : shortOfFault (myTask s) s.sel.strand = false) (ho : OwnBytes s q.va q.size) (hz : 0 < q.size)
    (hl : s.sel.lazy = false) (hr : q.remote = false) : issueAcc q s = performNow (ownAcc s q) s := by
  have hd : (s.launchOf s.sel.task).det = false := hf.free
  obtain ⟨h1, h2⟩ := id ho
  have hh : isHeritage q.va.toNat = false := by unfold isHeritage; simp; omega
  have hacc : mkAcc s s.sel.task s.sel.strand q { home := .spad s.sel.task, addr := q.va.toNat } = ownAcc s q := by
    unfold mkAcc ownAcc
    simp [foldVa_own (show q.va.toNat < 0x800000 by omega), hh, pcOf, regs, me, hd]
  unfold issueAcc
  simp only [M.getS_bind]
  rw [checkPlace_own hf ho hz]
  simp only [hacc]
  have hfoot : footGate q.va q.size (ownAcc s q).stores s = .ok ((), s) := by
    unfold footGate
    simp only [M.curLaunch_bind, M.curTask_bind, M.getS_bind, hf.free, Bool.false_eq_true, if_false, M.pure_run]
  rw [M.bind_ok hfoot]
  have hown : ((ownAcc s q).home == Home.spad s.sel.task) = true := by simp [ownAcc]
  simp only [hd, Bool.false_and, Bool.false_eq_true, if_false, orderBlocks_quiet hq hp, hl, hr, hown,
    Bool.true_and, Bool.not_false, if_true]
  split
  · rw [M.bind_ok (M.takeReports_run hq.reports)]
  · rfl

/-! ### What it does there -/

theorem homeBad_own {s : State} {va : Word} {n : Nat} (h : OwnSound s va n) :
    homeBad s (.spad s.sel.task) va.toNat n = false := by
  unfold homeBad
  rw [List.any_eq_false]
  intro w hw
  have := h w hw
  simp only [Bool.and_eq_true, decide_eq_true_eq, not_and]
  omega

/-- In a free launch no sector's stamp is checked. -/
theorem stampSectors_free {s : State} (n : Nat) : ∀ {a : Acc}, (s.launchOf a.who.task).det = false →
    stampSectors n s a = .ok s := by
  induction n with
  | zero => intro a _; rfl
  | succ n ih =>
    intro a hd
    have h : stampSector s a = .ok s := by simp [stampSector, hd]
    unfold stampSectors
    rw [h]
    exact ih (a := nextSector a) hd

/-- In a free launch an access to what no fetch reads performs by its effect alone: no stamp and no record. -/
theorem performAt_free {s : State} {a : Acc} (hf : FreeLaunch s) (hw : a.who.task = s.sel.task) (hx : a.exec = false)
    (hb : homeBad s a.home a.addr a.size = false) : performAt s a = .ok (accEffect s a).1 (accEffect s a).2 := by
  have hd : (s.launchOf s.sel.task).det = false := hf.free
  have hl : (s.launchOf s.sel.task).log = false := hf.unlogged
  have hs : stampCheck s a = .ok s := stampSectors_free _ (by rw [hw]; exact hd)
  have hg : logAccess s a = .go s := by unfold logAccess needsRecord; simp [hw, hl]
  unfold performAt noteCode
  simp only [hb, hs, hg, hx, Bool.and_false, Bool.false_eq_true, Bool.not_false, if_true, if_false]

theorem performNow_own {s : State} {q : Ask} (hf : FreeLaunch s) (hb : OwnSound s q.va q.size) :
    performNow (ownAcc s q) s = .ok (.done (accEffect s (ownAcc s q)).2, (accEffect s (ownAcc s q)).1) := by
  unfold performNow
  rw [M.getS_bind, performAt_free hf rfl rfl (homeBad_own hb)]
  rfl

/-- A load of the own scratchpad reads its bytes. -/
theorem accEffect_load {s : State} {q : Ask} (hop : q.op = .load) (ho : OwnBytes s q.va q.size) (hz : 0 < q.size) :
    accEffect s (ownAcc s q) = (s, .data (readNat (myTask s).spad q.va.toNat q.size)) := by
  obtain ⟨h1, h2⟩ := ho
  have hs : isSemAddr q.va.toNat = false := by unfold isSemAddr; simp; omega
  have hh : isHeritage q.va.toNat = false := by unfold isHeritage; simp; omega
  simp [accEffect, ownAcc, hop, hs, homeRead, hh, myTask]

/-! ### The conditions where a body begins -/

theorem FreeLaunch.begin {s : State} (h : Runs s) (hf : FreeLaunch s) : FreeLaunch (begin_ s) := by
  have : myLaunch (begin_ s) = myLaunch s := launchOf_begin h.hasTask
  exact ⟨by rw [this]; exact hf.free, by rw [this]; exact hf.unlogged⟩

theorem strand_begin {s : State} (h : s.hasTask s.sel.task = true) (j : Nat) :
    (begin_ s).strand s.sel.task j = if j = s.sel.strand then { turned s (me s) with undoUsed := 0 }
      else turned s (s.strand s.sel.task j) := by
  rw [State.strand, show (begin_ s).task s.sel.task = beginTask s.sel.strand (s.task s.sel.task) from
    State.task_modTask_same h _, beginTask_strand]
  rfl

/-- Taking the turn changes nothing that a forked strand waits for. -/
theorem forkHeld_begin {s : State} (h : s.hasTask s.sel.task = true) :
    forkHeld (begin_ s) s.sel.task s.sel.strand = forkHeld s s.sel.task s.sel.strand := by
  have hst : ∀ j, ((begin_ s).strand s.sel.task j).after = (s.strand s.sel.task j).after
      ∧ ((begin_ s).strand s.sel.task j).outs = (s.strand s.sel.task j).outs := by
    intro j
    rw [strand_begin h]
    split
    · rename_i hj; subst hj; exact ⟨rfl, rfl⟩
    · exact ⟨rfl, rfl⟩
  have hq : ((begin_ s).task s.sel.task).queue 0 = (s.task s.sel.task).queue 0 := by
    rw [show (begin_ s).task s.sel.task = beginTask s.sel.strand (s.task s.sel.task) from State.task_modTask_same h _]
    rfl
  unfold forkHeld
  rw [(hst _).1, hq]
  cases (s.strand s.sel.task s.sel.strand).after with
  | none => rfl
  | some f =>
    simp only [(hst _).2]
    rfl

theorem Quiet.begin {s : State} (h : Runs s) (hq : Quiet s) : Quiet (begin_ s) := by
  refine ⟨?_, ?_, ?_, ?_, ?_, ?_⟩
  · rw [me_begin h.hasTask]; exact hq.reports
  · rw [me_begin h.hasTask]; exact hq.outs
  · rw [myTask_begin h.hasTask]; exact hq.vecs
  · rw [me_begin h.hasTask]; exact hq.arrivals
  · rw [me_begin h.hasTask]; exact hq.fences
  · rw [begin_sel, forkHeld_begin h.hasTask]; exact hq.forked

theorem OwnBytes.begin {s : State} (h : Runs s) {va : Word} {n : Nat} (ho : OwnBytes s va n) : OwnBytes (begin_ s) va n := by
  unfold OwnBytes
  rw [myTask_begin h.hasTask]; exact ho

theorem OwnSound.begin {s : State} (h : Runs s) {va : Word} {n : Nat} (ho : OwnSound s va n) : OwnSound (begin_ s) va n := by
  unfold OwnSound
  rw [myTask_begin h.hasTask]; exact ho

theorem Runs.passed_begin {s : State} (h : Runs s) : shortOfFault (myTask (begin_ s)) (begin_ s).sel.strand = false := by
  rw [myTask_begin h.hasTask]; exact h.passed

/-! ### Loads -/

theorem M.needAligned_run {s : State} {ea : Word} {n : Nat} (h : ea.toNat % n = 0) : needAligned ea n s = .ok ((), s) := by
  unfold needAligned
  rw [if_neg (by omega)]; rfl

/-- A load of the own scratchpad in a free launch: the register gets the extended bytes. -/
theorem loadFrom_own {s : State} (h : Runs s) {d : Reg} {ea : Word} {size : Nat} (hz : 0 < size) (signed : Bool)
    (oc : BitVec 4) (ilen : Nat) (defers : Bool) (hr : Ready s [d]) (hf : FreeLaunch s) (hq : Quiet s)
    (hl : s.sel.lazy = false) (ha : ea.toNat % size = 0) (ho : OwnBytes s ea size) (hb : OwnSound s ea size) :
    loadFrom d ea size signed oc ilen defers (begin_ s) = .ok (.fall, (begin_ s).modStrand s.sel.task s.sel.strand
      (fun x => { x with r := x.r.setG d.toNat (extendTo (readNat (myTask s).spad ea.toNat size) size signed) })) := by
  have hrd : d.toNat ∉ (me (begin_ s)).notReady := Ready.begin h hr (by simp)
  have hspad : (myTask (begin_ s)).spad = (myTask s).spad := by rw [myTask_begin h.hasTask]; rfl
  unfold loadFrom
  rw [M.bind_ok (M.needAligned_run ha), M.bind_ok (M.needReady_run hrd)]
  rw [M.bind_ok (a := Issued.done (.data (readNat (myTask s).spad ea.toNat size))) (s' := begin_ s)]
  · simp only
    rw [M.bind_ok (M.wr_run hrd)]; rfl
  · rw [issueAcc_own (hf.begin h) (hq.begin h) h.passed_begin (ho.begin h) hz hl rfl, performNow_own (hf.begin h) (hb.begin h),
      accEffect_load rfl (ho.begin h) hz, hspad]

theorem extendTo_loaded {n : Nat} (hn : n = 1 ∨ n = 2 ∨ n = 4 ∨ n = 8) (v : Nat) (signed : Bool) :
    extendTo v n signed = loadedWord v n signed := by
  unfold extendTo loadedWord sextW zextW w64
  have h : (BitVec.ofNat 64 v).setWidth (8 * n) = BitVec.ofNat (8 * n) v := by
    apply BitVec.eq_of_toNat_eq
    simp only [BitVec.toNat_setWidth, BitVec.toNat_ofNat]
    rcases hn with h | h | h | h <;> subst h <;> omega
  rw [h]

/-! ### Stores -/

theorem writeEnabled_all (bs : List Byte) : ∀ (m : SMap Byte) (a : Nat),
    writeEnabled m a (bs.map some) = writeBytes m a bs := by
  induction bs with
  | nil => intro m a; rfl
  | cons b bs ih => intro m a; exact ih _ _

theorem homeWrite_own {s : State} {fn t addr : Nat} (h : addr < 0x600000) (v n : Nat) :
    homeWrite s fn (.spad t) addr (enabledBytes v n) =
      s.modTask t (fun x => { x.wake with spad := writeBytes x.spad addr (bytesOf v n) }) := by
  have hh : isHeritage addr = false := by unfold isHeritage; simp; omega
  unfold homeWrite
  simp only [hh, Bool.false_eq_true, if_false, enabledBytes, writeEnabled_all]
  rfl

theorem bytesOf_length (v n : Nat) : (bytesOf v n).length = n := by
  unfold bytesOf
  induction n generalizing v with
  | zero => rfl
  | succ n ih => simp [wordBytes, ih]

/-- A store to the own scratchpad. -/
theorem accEffect_store {s : State} {q : Ask} {v : Nat} (hop : q.op = .store (enabledBytes v q.size))
    (ho : OwnBytes s q.va q.size) (hz : 0 < q.size) :
    accEffect s (ownAcc s q) = (storeOwn s q.va q.size v, .ack false) := by
  obtain ⟨h1, h2⟩ := ho
  have hall : (enabledBytes v q.size).all Option.isSome = true := by simp [enabledBytes]
  have hlen : (enabledBytes v q.size).length = q.size := by simp [enabledBytes, bytesOf_length]
  unfold accEffect ownAcc
  simp only [hop, doStore, hall, hlen, if_true, countWrite]
  rw [homeWrite_own (by omega)]
  simp only [clearBad, storeOwn, State.modTask_modTask]
  rfl

/-! ### Effects that commute with the books of issuing -/

theorem SMap.map_del {α β : Type} (g : α → β) (k : Nat) (m : SMap α) :
    (SMap.del k m).map (fun (j, y) => (j, g y)) = SMap.del k (m.map (fun (j, y) => (j, g y))) := by
  induction m with
  | nil => rfl
  | cons e r ih =>
    simp only [SMap.del, List.map_cons]
    split
    · exact ih
    · simp [ih]

theorem SMap.map_ins {α β : Type} (g : α → β) (k : Nat) (v : α) (m : SMap α) :
    (SMap.ins k v m).map (fun (j, y) => (j, g y)) = SMap.ins k (g v) (m.map (fun (j, y) => (j, g y))) := by
  induction m with
  | nil => rfl
  | cons e r ih =>
    simp only [SMap.ins, List.map_cons]
    split
    · rfl
    · simp [ih]

theorem SMap.map_put {α β : Type} (g : α → β) (k : Nat) (v : α) (m : SMap α) :
    (SMap.put k v m).map (fun (j, y) => (j, g y)) = SMap.put k (g v) (m.map (fun (j, y) => (j, g y))) := by
  unfold SMap.put
  rw [SMap.map_ins, SMap.map_del]

/-- A strand whose IDLE has ended. -/
def woken (y : Strand) : Strand := { y with idle := none }

theorem Task.wake_strands (x : Task) : x.wake.strands = x.strands.map (fun (j, y) => (j, woken y)) := rfl

theorem Task.wake_strand (x : Task) (k : Nat) : x.wake.strand k = woken (x.strand k) := by
  show (SMap.find k (x.strands.map (fun e => (e.1, (fun _ y => woken y) e.1 e.2)))).getD {} = _
  rw [SMap.find_map k (fun _ y => woken y) x.strands]
  unfold Task.strand
  cases SMap.find k x.strands <;> rfl

/-- Waking every strand commutes with a change of one strand that leaves its IDLE alone. -/
theorem Task.wake_modStrand (x : Task) (k : Nat) {f : Strand → Strand} (hf : ∀ y, woken (f y) = f (woken y)) :
    (x.modStrand k f).wake = x.wake.modStrand k f := by
  have h : (x.modStrand k f).wake.strands = (x.wake.modStrand k f).strands := by
    rw [Task.wake_strands]
    show (SMap.put k (f (x.strand k)) x.strands).map _ = SMap.put k (f (x.wake.strand k)) x.wake.strands
    rw [SMap.map_put woken, Task.wake_strand, hf]
    rfl
  show { x.modStrand k f with strands := (x.modStrand k f).wake.strands } = _
  rw [h]
  rfl

/-- Having the turn commutes with a change of the strand that leaves alone what it passes over. -/
theorem turnTask_modStrand (k : Nat) (x : Task) {f : Strand → Strand} (hp : ∀ y, passFor k (f y) = f (passFor k y)) :
    turnTask k (x.modStrand k f) = (turnTask k x).modStrand k f := by
  have h : (turnTask k (x.modStrand k f)).strands = ((turnTask k x).modStrand k f).strands := by
    show (SMap.put k (f (x.strand k)) x.strands).map (fun (j, y) => (j, passFor k y)) =
      SMap.put k (f ((turnTask k x).strand k)) (turnTask k x).strands
    rw [SMap.map_put (passFor k), turnTask_strand, hp]
    rfl
  show ({ x.modStrand k f with lastIssued := k, strands := (turnTask k (x.modStrand k f)).strands } : Task) = _
  rw [h]
  rfl

/-- Waking every strand commutes with having the turn. -/
theorem Task.wake_turnTask (x : Task) (k : Nat) : (turnTask k x).wake = turnTask k x.wake := by
  have h : (turnTask k x).wake.strands = (turnTask k x.wake).strands := by
    rw [Task.wake_strands]
    show (x.strands.map (fun e => (e.1, passFor k e.2))).map _ = x.wake.strands.map (fun e => (e.1, passFor k e.2))
    rw [Task.wake_strands, List.map_map, List.map_map]
    rfl
  show ({ x with lastIssued := k, strands := (turnTask k x).wake.strands } : Task) = _
  rw [h]
  rfl

/-- Beginning an instruction commutes with a change of the strand that leaves alone the count and what it passes over. -/
theorem beginTask_modStrand (k : Nat) (x : Task) {f : Strand → Strand}
    (hp : ∀ y, passFor k (f y) = f (passFor k y)) (hf : ∀ y, f { y with undoUsed := 0 } = { f y with undoUsed := 0 }) :
    (beginTask k x).modStrand k f = beginTask k (x.modStrand k f) := by
  unfold beginTask
  rw [turnTask_modStrand k x hp, Task.modStrand_modStrand, Task.modStrand_modStrand]
  congr 1
  funext y
  exact hf y

/-- A change of the task that commutes with the beginning of an instruction. -/
theorem begin_modTask {s : State} {f : Task → Task}
    (hf : ∀ x : Task, f (beginTask s.sel.strand x) = beginTask s.sel.strand (f x)) :
    (begin_ s).modTask s.sel.task f = begin_ (s.modTask s.sel.task f) := by
  unfold begin_
  rw [State.modTask_modTask]
  show _ = (s.modTask s.sel.task f).modTask s.sel.task _
  rw [State.modTask_modTask]
  congr 1
  funext x
  exact hf x

theorem storeOwn_begin (s : State) (va : Word) (n v : Nat) : storeOwn (begin_ s) va n v = begin_ (storeOwn s va n v) := by
  unfold storeOwn
  apply begin_modTask
  intro x
  unfold beginTask
  rw [Task.wake_modStrand _ s.sel.strand (f := fun y => { y with undoUsed := 0 }) (fun _ => rfl), Task.wake_turnTask]
  rfl

theorem setReg_begin (s : State) (d : Reg) (v : Word) : setReg (begin_ s) d v = begin_ (setReg s d v) := by
  show (begin_ s).modTask s.sel.task _ = begin_ (s.modTask s.sel.task _)
  apply begin_modTask
  intro x
  exact beginTask_modStrand _ x (fun _ => rfl) (fun _ => rfl)

/-- A store to the own scratchpad in a free launch. -/
theorem storeTo_own {s : State} (h : Runs s) {v ea : Word} {size : Nat} (hz : 0 < size) (oc : BitVec 4) (ilen : Nat)
    (hf : FreeLaunch s) (hq : Quiet s) (hl : s.sel.lazy = false) (ha : ea.toNat % size = 0) (ho : OwnBytes s ea size) :
    storeTo v ea size oc ilen (begin_ s) = .ok (.fall, begin_ (storeOwn s ea size v.toNat)) := by
  unfold storeTo
  rw [M.bind_ok (M.needAligned_run ha)]
  rw [M.bind_ok (a := Issued.done (.ack false)) (s' := begin_ (storeOwn s ea size v.toNat))]
  · rfl
  · rw [issueAcc_own (hf.begin h) (hq.begin h) h.passed_begin (ho.begin h) hz hl rfl]
    have hfb := hf.begin h
    unfold performNow
    rw [M.getS_bind]
    have hp : performAt (begin_ s) (ownAcc (begin_ s) { va := ea, size, cls := oc.toNat, need := .write, op := .store (enabledBytes v.toNat size), ilen, nr := true }) = .ok (storeOwn (begin_ s) ea size v.toNat) (.ack false) := by
      have he := accEffect_store (s := begin_ s) (q := { va := ea, size, cls := oc.toNat, need := .write, op := .store (enabledBytes v.toNat size), ilen, nr := true }) (v := v.toNat) rfl (ho.begin h) hz
      have hd : ((begin_ s).launchOf s.sel.task).det = false := hfb.free
      have hlg : ((begin_ s).launchOf s.sel.task).log = false := hfb.unlogged
      unfold performAt
      have hs : ∀ a : Acc, a.who.task = s.sel.task → stampCheck (begin_ s) a = .ok (begin_ s) := by
        intro a ha; exact stampSectors_free _ (by rw [ha]; exact hd)
      have hg : ∀ a : Acc, a.who.task = s.sel.task → logAccess (begin_ s) a = .go (begin_ s) := by
        intro a ha; unfold logAccess needsRecord; simp [ha, hlg]
      rw [hs _ rfl]
      simp only
      rw [hg _ rfl]
      simp only [he]
      rfl
    rw [hp, storeOwn_begin]
    rfl

/-! ### Atomics -/

theorem OwnSound.filter {s : State} {va : Word} {n : Nat} (h : OwnSound s va n) :
    (myTask s).badWords.filter (fun w => !(va.toNat ≤ 8 * w && 8 * w + 8 ≤ va.toNat + n)) = (myTask s).badWords := by
  rw [List.filter_eq_self]
  intro w hw
  have := h w hw
  simp only [Bool.not_eq_true', Bool.and_eq_false_imp, decide_eq_true_eq, decide_eq_false_iff_not]
  omega

theorem modTask_congr {s : State} {t : Nat} {f g : Task → Task} (h : f (s.task t) = g (s.task t)) :
    s.modTask t f = s.modTask t g := by
  unfold State.modTask State.task at *
  congr 1
  unfold SMap.upd
  cases hx : SMap.find t s.tasks with
  | none => rfl
  | some x => rw [hx] at h; simp only [Option.getD_some] at h; simp only [h]

/-- A read-modify-write of a sound word writes the bytes as a store does. -/
theorem doAtomic_own {s : State} {a : Acc} {va : Word} (hh : a.home = .spad s.sel.task) (ha : a.addr = va.toNat) {n : Nat}
    (ho : OwnBytes s va n) (hz : 0 < n) (hb : OwnSound s va n) (v : Nat) : doAtomic s a n v = storeOwn s va n v := by
  obtain ⟨h1, h2⟩ := ho
  unfold doAtomic countWrite
  simp only [hh, ha]
  rw [homeWrite_own (by omega)]
  unfold storeOwn
  apply modTask_congr
  have := hb.filter
  unfold myTask at this
  rw [this]
  rfl

theorem homeRead_own {s : State} {va : Word} {n : Nat} (ho : OwnBytes s va n) (hz : 0 < n) :
    homeRead s (.spad s.sel.task) va.toNat n = readNat (myTask s).spad va.toNat n := by
  obtain ⟨h1, h2⟩ := ho
  have hh : isHeritage va.toNat = false := by unfold isHeritage; simp; omega
  simp [homeRead, hh, myTask]

/-- What an atomic of the own scratchpad leaves: the old value, and the state with the new one. -/
structure AtomicEffect (s : State) (op : AccOp) (va : Word) (n : Nat) (nr : Bool) (old : Nat) (u : State) : Prop where
  acts : ∀ a : Acc, a.op = op → a.home = .spad s.sel.task → a.addr = va.toNat → a.size = n → a.nr = nr →
    accEffect s a = (u, if nr then .ack false else .data old)

theorem atomicEffect_amo {s : State} {va : Word} {n : Nat} (ho : OwnBytes s va n) (hz : 0 < n) (hb : OwnSound s va n)
    (f : AtomFn) (v : Nat) (nr : Bool) :
    AtomicEffect s (.atomic f v) va n nr (readNat (myTask s).spad va.toNat n)
      (storeOwn s va n (atomOp f (8 * n) (readNat (myTask s).spad va.toNat n) v)) := by
  constructor
  intro a h1 h2 h3 h4 h5
  unfold accEffect
  simp only [h1, h2, h3, h4, h5, homeRead_own ho hz]
  rw [doAtomic_own h2 h3 ho hz hb]

theorem atomicEffect_cas {s : State} {va : Word} {n : Nat} (ho : OwnBytes s va n) (hz : 0 < n) (hb : OwnSound s va n)
    (cmp new : Nat) :
    AtomicEffect s (.cas cmp new) va n false (readNat (myTask s).spad va.toNat n)
      (if readNat (myTask s).spad va.toNat n = cmp then storeOwn s va n new else s) := by
  constructor
  intro a h1 h2 h3 h4 h5
  unfold accEffect
  simp only [h1, h2, h3, h4, homeRead_own ho hz]
  split
  · rw [doAtomic_own h2 h3 ho hz hb]; rfl
  · rfl

/-- AMO, RED and CAS at the own scratchpad in a free launch. -/
theorem atomicBody_own {s u : State} (h : Runs s) {ea : Word} {n : Nat} (hz : 0 < n) {op : AccOp} {d : Option Reg}
    (hf : FreeLaunch s) (hq : Quiet s) (hl : s.sel.lazy = false) (ha : ea.toNat % n = 0) (ho : OwnBytes s ea n)
    (hb : OwnSound s ea n) (hr : Ready s d.toList) {old : Nat} (hu : u.sel = s.sel) (huT : u.hasTask s.sel.task = true)
    (hun : (me u).notReady = (me s).notReady)
    (he : AtomicEffect (begin_ s) op ea n d.isNone old (begin_ u)) :
    atomicBody ea n op d (begin_ s) = .ok (.fall, begin_ (match d with
      | some g => setReg u g (extendTo old n true)
      | none => u)) := by
  have hrd : ∀ g, d = some g → g.toNat ∉ (me (begin_ s)).notReady := by
    intro g hg; exact Ready.begin h hr (by simp [hg])
  have hrd' : ∀ g, d = some g → g.toNat ∉ (me (begin_ u)).notReady := by
    intro g hg
    rw [me_begin (by rw [hu]; exact huT)]
    show g.toNat ∉ (me u).notReady
    rw [hun]
    have := hrd g hg
    rw [me_begin h.hasTask] at this
    exact this
  have hiss : ∀ q : Ask, q.va = ea → q.size = n → q.op = op → q.nr = d.isNone → q.remote = false →
      issueAcc q (begin_ s) = .ok (.done (if d.isNone then .ack false else .data old), begin_ u) := by
    intro q h1 h2 h3 h4 h5
    subst h1 h2
    rw [issueAcc_own (hf.begin h) (hq.begin h) h.passed_begin (ho.begin h) hz hl h5, performNow_own (hf.begin h) (hb.begin h)]
    rw [he.acts _ h3 rfl rfl rfl h4]
  unfold atomicBody
  rw [M.bind_ok (M.needAligned_run ha)]
  cases d with
  | none =>
    simp only
    rw [M.bind_ok (hiss _ rfl rfl rfl rfl rfl)]
    rfl
  | some g =>
    simp only
    rw [M.bind_ok (M.needReady_run (hrd g rfl)), M.bind_ok (hiss _ rfl rfl rfl rfl rfl)]
    simp only [Option.isNone_some, Bool.false_eq_true, if_false, Reply.value]
    rw [M.bind_ok (M.wr_run (hrd' g rfl)), ← setReg_begin]
    rfl

/-! ### What statements about the own scratchpad say -/

theorem readByte_writeBytes (bs : List Byte) : ∀ (m : SMap Byte) (a x : Nat),
    readByte (writeBytes m a bs) x = if a ≤ x ∧ x < a + bs.length then (bs.getD (x - a) 0) else readByte m x := by
  induction bs with
  | nil => intro m a x; simp [writeBytes]
  | cons b bs ih =>
    intro m a x
    show readByte (writeBytes (writeByte m a b) (a + 1) bs) x = _
    rw [ih]
    by_cases hx : x = a
    · subst hx
      have : ¬ (x + 1 ≤ x ∧ x < x + 1 + bs.length) := by omega
      rw [if_neg this, if_pos (by simp)]
      simp [readByte, writeByte]
    · have h2 : readByte (writeByte m a b) x = readByte m x := SMap.get_set_other _ _ hx _
      by_cases h3 : a + 1 ≤ x ∧ x < a + 1 + bs.length
      · rw [if_pos h3, if_pos (by simp; omega)]
        obtain ⟨k, hk⟩ : ∃ k, x - a = k + 1 := ⟨x - a - 1, by omega⟩
        rw [hk, show x - (a + 1) = k by omega]; simp
      · rw [if_neg h3, if_neg (by simp; omega), h2]

theorem wordBytes_getD (n : Nat) : ∀ v k, k < n → (wordBytes v n).getD k 0 = BitVec.ofNat 8 (v / 256 ^ k) := by
  induction n with
  | zero => intro v k h; omega
  | succ n ih =>
    intro v k h
    cases k with
    | zero => simp [wordBytes]
    | succ k =>
      simp only [wordBytes, List.getD_cons_succ]
      rw [ih _ _ (by omega), Nat.pow_succ', Nat.div_div_eq_div_mul]

theorem storeOwn_stored {s t : State} {va : Word} {n v : Nat} (hT : s.hasTask s.sel.task = true)
    (h : (myTask t).spad = (myTask (storeOwn s va n v)).spad) : OwnStored s t va n v := by
  intro a
  rw [h]
  have : (myTask (storeOwn s va n v)).spad = writeBytes (myTask s).spad va.toNat (bytesOf v n) := by
    unfold storeOwn myTask
    show ((s.modTask s.sel.task _).task s.sel.task).spad = _
    rw [State.task_modTask_same hT]
  rw [this, readByte_writeBytes, bytesOf_length]
  split
  · rename_i hx
    rw [bytesOf, wordBytes_getD _ _ _ (by omega)]
  · rfl

theorem myTask_storeOwn {s : State} {va : Word} {n v : Nat} (hT : s.hasTask s.sel.task = true) :
    myTask (storeOwn s va n v) = { (myTask s).wake with
      spad := writeBytes (myTask s).spad va.toNat (bytesOf v n),
      badWords := (myTask s).badWords.filter (fun w => !(va.toNat ≤ 8 * w && 8 * w + 8 ≤ va.toNat + n)) } := by
  unfold storeOwn myTask
  show ((s.modTask s.sel.task _).task s.sel.task) = _
  rw [State.task_modTask_same hT]

theorem me_storeOwn {s : State} {va : Word} {n v : Nat} (hT : s.hasTask s.sel.task = true) :
    me (storeOwn s va n v) = woken (me s) := by
  show (myTask (storeOwn s va n v)).strand s.sel.strand = _
  rw [myTask_storeOwn hT]
  exact Task.wake_strand _ _

theorem hasTask_storeOwn {s : State} {va : Word} {n v j : Nat} :
    (storeOwn s va n v).hasTask j = s.hasTask j := by simp [storeOwn]

theorem Retired.keeps {s u t : State} {len : Nat} (h : Retired u t len) (hr : regs u = regs s) : KeepsG s t ∧ KeepsPreds s t := by
  have h1 := h.registers
  rw [hr] at h1
  refine ⟨⟨fun n => ?_, fun n => ?_⟩, ?_, ?_, ?_⟩ <;> rw [h1] <;> rfl

end Sys2Proof.Machine
end

