-- ==== Sys2Proof/Laws/Trap.lean ====
section
/-!
SUPPORT. Laws of taking a trap: what is written on the way leaves the tasks, and what the trap leaves in its task.
-/
namespace Sys2Proof.Machine

/-- Who acts, the tasks, the launches, the functions but for their events, and the clock are the same. -/
structure SameCore (s t : State) : Prop where
  sel : t.sel = s.sel
  tasks : t.tasks = s.tasks
  launches : t.launches = s.launches
  clock : t.clock = s.clock

theorem SameCore.refl (s : State) : SameCore s s := ⟨rfl, rfl, rfl, rfl⟩

theorem SameCore.trans {s t u : State} (h1 : SameCore s t) (h2 : SameCore t u) : SameCore s u :=
  ⟨h2.sel.trans h1.sel, h2.tasks.trans h1.tasks, h2.launches.trans h1.launches, h2.clock.trans h1.clock⟩

theorem writePa_core (s : State) (fn pa : Nat) (bs : List (Option Byte)) : SameCore s (writePa s fn pa bs) := by
  unfold writePa
  simp only
  split <;> exact ⟨rfl, rfl, rfl, rfl⟩

theorem modDie_core (s : State) (d : Nat) (f : Die → Die) : SameCore s (s.modDie d f) := ⟨rfl, rfl, rfl, rfl⟩

theorem directWrite_core (fn : Nat) (sup : Bool) : ∀ (bs : List Byte) (s s' : State) (va : Word),
    directWrite s fn va sup bs = .ok s' → SameCore s s' := by
  intro bs
  induction bs with
  | nil => intro s s' va h; cases h; exact SameCore.refl _
  | cons b bs ih =>
    intro s s' va h
    simp only [directWrite] at h
    cases hp : directPa s fn va .write sup with
    | error e => rw [hp] at h; cases h
    | ok pa =>
      rw [hp] at h
      exact (writePa_core _ _ _ _).trans (ih _ _ _ h)

theorem writeSlot_core (s : State) (t off : Nat) (bs : List Byte) :
    SameCore (s.modTask t (fun x => { x with context := writeBytes x.context (0x800 + off) bs }))
      (writeSlot s t off bs) := by
  unfold writeSlot
  simp only
  split
  · exact SameCore.refl _
  · split
    · exact directWrite_core _ _ _ _ _ _ ‹_›
    · exact SameCore.refl _

theorem slog_core (s : State) (die launch kind lcore pcore arg : Nat) :
    SameCore s (slog s die launch kind lcore pcore arg) := by
  unfold slog slogAt
  simp only
  split
  · exact (writePa_core _ _ _ _).trans (modDie_core _ _ _)
  · exact SameCore.refl _

theorem drainHost_core (s : State) (fn : Nat) : SameCore s (drainHost s fn) := ⟨rfl, rfl, rfl, rfl⟩

theorem foldl_core {α : Type} (f : State → α → State) (h : ∀ s a, SameCore s (f s a)) (l : List α) :
    ∀ s, SameCore s (l.foldl f s) := by
  induction l with
  | nil => intro s; exact SameCore.refl _
  | cons a l ih => intro s; exact (h s a).trans (ih _)

theorem sendMsix_core (s : State) (fn vec : Nat) : SameCore s (sendMsix s fn vec) := by
  unfold sendMsix drainLink
  simp only
  have := foldl_core drainHost (fun s a => drainHost_core s a)
    ((s.toHost.map (·.1)).dedup.filter (fun f => linkOfFn f == linkOfFn fn)) s
  exact ⟨this.sel, this.tasks, this.launches, this.clock⟩

theorem raiseEvent_core (s : State) (fn bit : Nat) : SameCore s (raiseEvent s fn bit) := by
  unfold raiseEvent
  simp only
  split
  · exact SameCore.refl _
  · split
    · exact SameCore.trans (t := s.modFunction fn _) ⟨rfl, rfl, rfl, rfl⟩ (sendMsix_core _ _ _)
    · exact ⟨rfl, rfl, rfl, rfl⟩

theorem SameCore.task {s t : State} (h : SameCore s t) (k : Nat) : t.task k = s.task k := by
  unfold State.task; rw [h.tasks]

/-- The state in which a strand-origin trap's action is carried out: the trap CSRs and the freeze are set, and the record's
bytes `bs` stand in the context header. -/
def trapped (s : State) (t k : Nat) (tr : Trap) (tpc : Word) (ilen : Nat) (bs : List Byte) : State :=
  (((s.modTask t (fun x => { x with
    freeze := some { strand := k, queue := none, stamp := s.clock },
    trap := { x.trap with
      tcause := tcauseOf tr none ilen, tpc, tval := tr.tval,
      tstatus := if (s.strand t k).r.hnd || (s.strand t k).r.her then x.trap.tstatus
        else statusWord (s.strand t k).r (s.launchOf t), trec := recordSlot s t } })).modTask t
    (fun x => { x with context := writeBytes x.context (0x800 + 0) bs })).modStrand t k
    (fun x => { x with
      r := { x.r with pc := if (s.strand t k).r.hnd || (s.strand t k).r.her then x.r.pc else tpc },
      wait := none, lastWait := none, walkFault := none, stepDue := false })).modTask t (fun x => x.guardCatch k)

theorem SameCore.modTask {s t : State} (h : SameCore s t) (k : Nat) (f : Task → Task) :
    SameCore (s.modTask k f) (t.modTask k f) := by
  refine ⟨h.sel, ?_, h.launches, h.clock⟩
  show SMap.upd k _ t.tasks = SMap.upd k _ s.tasks
  rw [h.tasks]

theorem SameCore.modStrand {s t : State} (h : SameCore s t) (k j : Nat) (f : Strand → Strand) :
    SameCore (s.modStrand k j f) (t.modStrand k j f) := h.modTask k _

theorem core_if (c : Prop) [Decidable c] {s t : State} (h : SameCore s t) : SameCore s (if c then t else s) := by
  split
  · exact h
  · exact SameCore.refl _

/-- A strand-origin trap: its record leaves the tasks as `trapped` has them, and its action is decided. -/
theorem takeTrap_strand (s : State) (t k : Nat) (tr : Trap) (tpc : Word) (ilen : Nat) (extra : List Byte) :
    ∃ u bs, SameCore (trapped s t k tr tpc ilen bs) u ∧ takeTrap s t k none tr tpc ilen extra =
      decideAction u t {
        strand := k, queue := none, trap := tr, tpc,
        action := actionOf s t ((s.strand t k).r.hnd || (s.strand t k).r.her) (isRepeated s t k none tr tpc) tr } := by
  exact ⟨_, _, (((writeSlot_core _ _ _ _).modStrand _ _ _).modTask t (fun x => x.guardCatch k)).trans
    (core_if (tr.cause = 20) (modDie_core _ _ _)), rfl⟩

/-! ### What the actions do -/

@[simp] theorem State.task_modLaunch (s : State) (l : Nat) (f : Launch → Launch) (k : Nat) :
    (s.modLaunch l f).task k = s.task k := rfl

theorem killTask_task {s : State} {t : Nat} (h : s.hasTask t = true) : (killTask s t).task t = { s.task t with
    killed := true, freeze := none, pendingResume := none, leaving := none, heldAction := none,
    strands := (s.task t).strands.map (fun (k, y) =>
      (k, { y with live := false, wait := none, idle := none, saved := none, arming := none, stepDue := false, routine := none })),
    loops := (s.task t).loops.map (fun (n, y) => (n, { y with act := false })),
    feWaiters := (s.task t).feWaiters.filter (fun w => w.req.isSome),
    queues := (s.task t).queues.map (fun (q, l) =>
      (q, (l.filter (fun e => e.started && !e.pauses)).map (fun e => { e with fault := none }))) } := by
  unfold killTask
  simp only [State.task_modLaunch]
  rw [State.task_modTask_same h]

theorem startHandler_task {s : State} {t : Nat} (h : s.hasTask t = true) (k : Nat) :
    (startHandler s t k).task t = ((s.task t).modStrand k (fun x => { x with
      live := true, used := true, savedEnded := !x.live,
      saved := some x.r, savedNotReady := x.notReady, notReady := [], wait := none, idle := none,
      savedArming := x.arming, arming := none,
      outs := x.outs.map (fun o => { o with forSaved := true }),
      r := handlerRegs (s.task t).trap.tvec (s.task t).trap.trec })).syncStrand k := by
  unfold startHandler State.modStrand
  simp only
  rw [State.modTask_modTask, State.task_modTask_same h]

/-- No action touches the trap CSRs. -/
theorem applyAction_trap {s : State} {t : Nat} (h : s.hasTask t = true) (k : Nat) (tr : Trap) (tpc : Word) (a : Nat) :
    ((applyAction s t k none tr tpc a).task t).trap = (s.task t).trap := by
  unfold applyAction
  simp only
  split
  · rw [killTask_task h]
  · unfold noteReplay
    rw [State.task_modTask_same (by simpa using h)]
    simp only [State.modStrand]
    rw [State.task_modTask_same h]; rfl
  · split
    · rw [State.task_modTask_same h]
    · rw [(raiseEvent_core _ _ _).task, State.task_modTask_same h]
  · rw [startHandler_task h]; rfl

theorem applyAction_sel (s : State) (t k : Nat) (tr : Trap) (tpc : Word) (a : Nat) :
    (applyAction s t k none tr tpc a).sel = s.sel := by
  unfold applyAction
  simp only
  split
  · rfl
  · rfl
  · split
    · rfl
    · rw [(raiseEvent_core _ _ _).sel]; rfl
  · rfl

theorem SameCore.hasTask {s t : State} (h : SameCore s t) (k : Nat) : t.hasTask k = s.hasTask k := by
  unfold State.hasTask; rw [h.tasks]

/-- Deciding an action, or holding it back, leaves the trap CSRs (R169). -/
theorem decideAction_trap {s : State} {t : Nat} (h : s.hasTask t = true) {a : HeldAction} (hq : a.queue = none) :
    ((decideAction s t a).task t).trap = (s.task t).trap := by
  unfold decideAction
  simp only [hq]
  split
  · have hc := slog_core s (s.task t).die (s.task t).launch 6 (s.task t).lcore ((s.task t).core?.getD 0)
      (a.trap.cause + 2 ^ 8 * a.action)
    rw [applyAction_trap (by rw [hc.hasTask]; exact h), hc.task]
  · rw [(raiseEvent_core _ _ _).task, State.task_modTask_same h]

theorem decideAction_sel (s : State) (t : Nat) {a : HeldAction} (hq : a.queue = none) : (decideAction s t a).sel = s.sel := by
  unfold decideAction
  simp only [hq]
  split
  · rw [applyAction_sel, (slog_core _ _ _ _ _ _ _).sel]
  · rw [(raiseEvent_core _ _ _).sel]; rfl

theorem trapped_task {s : State} {t : Nat} (h : s.hasTask t = true) (k : Nat) (tr : Trap) (tpc : Word) (ilen : Nat) (bs : List Byte) :
    ((trapped s t k tr tpc ilen bs).task t).trap = { (s.task t).trap with
      tcause := tcauseOf tr none ilen, tpc, tval := tr.tval,
      tstatus := if (s.strand t k).r.hnd || (s.strand t k).r.her then (s.task t).trap.tstatus
        else statusWord (s.strand t k).r (s.launchOf t), trec := recordSlot s t } := by
  unfold trapped State.modStrand
  rw [State.task_modTask_same (by simpa using h)]
  show ((State.modTask _ _ _).task t).trap = _
  rw [State.task_modTask_same (by simpa using h)]
  show ((State.modTask _ _ _).task t).trap = _
  rw [State.task_modTask_same (by simpa using h)]
  show ((State.modTask _ _ _).task t).trap = _
  rw [State.task_modTask_same h]

theorem tcauseOf_strand (tr : Trap) (ilen : Nat) (hs : tr.stage = false) (hr : tr.res = false) :
    tcauseOf tr none ilen = w64 (tr.cause % 64 + 64 * b2n tr.chk + 2 ^ 13 * (ilen % 8)) := by
  unfold tcauseOf packFields
  simp only [hs, hr, packFields, b2n, Option.isSome_none, Option.getD_none]
  congr 1
  cases tr.chk <;> simp <;> omega

/-- A strand-origin trap of the strand, outside handlers, whatever its action: the trap CSRs hold it. -/
theorem takeTrap_held {s : State} (hT : s.hasTask s.sel.task = true) (hh : (regs s).hnd = false) (hr : (regs s).her = false)
    (tr : Trap) (hs : tr.stage = false) (hres : tr.res = false) (ilen : Nat) (extra : List Byte) :
    TrapHeld s (takeTrap s s.sel.task s.sel.strand none tr (pcOf s) ilen extra) tr.cause tr.tval tr.chk ilen := by
  obtain ⟨u, bs, hu, he⟩ := takeTrap_strand s s.sel.task s.sel.strand tr (pcOf s) ilen extra
  have huT : u.hasTask s.sel.task = true := by
    rw [hu.hasTask]; simp [trapped, hT]
  have hm : ∀ a : HeldAction, a.queue = none → (myTask (decideAction u s.sel.task a)).trap =
      ((trapped s s.sel.task s.sel.strand tr (pcOf s) ilen bs).task s.sel.task).trap := by
    intro a ha
    unfold myTask
    rw [decideAction_sel _ _ ha, hu.sel]
    show ((decideAction u s.sel.task _).task s.sel.task).trap = _
    rw [decideAction_trap huT ha, hu.task]
  have h1 : (s.strand s.sel.task s.sel.strand).r.hnd = false := hh
  have h2 : (s.strand s.sel.task s.sel.strand).r.her = false := hr
  rw [he]
  constructor <;> rw [hm _ rfl, trapped_task hT]
  · exact tcauseOf_strand tr ilen hs hres
  · simp only [h1, h2, Bool.or_self, Bool.false_eq_true, if_false]; rfl
  · rfl

/-- A body that ends in a trap: the strand takes it, where its instruction is not the trap itself. -/
theorem strandStep_traps {s : State} (h : Runs s) {i : Instr} {body : M Next} {tr : Trap} (hi : trapsAlways i = false)
    (hb : body (begin_ s) = .error (.trap tr)) :
    strandStep i body s = .next (takeTrap (begin_ s) s.sel.task s.sel.strand none tr (pcOf s) (parcels i)) := by
  have hp : shortOfFault ((begin_ s).task s.sel.task) s.sel.strand = false := by
    have := h.passed
    rw [show (begin_ s).task s.sel.task = beginTask s.sel.strand (myTask s) from myTask_begin h.hasTask]
    exact this
  have hpc : ((begin_ s).strand s.sel.task s.sel.strand).r.pc = pcOf s := by
    show (regs (begin_ s)).pc = _
    rw [regs_begin h.hasTask]; rfl
  rw [strandStep_runs h, hb]
  unfold conclude bodyNext applyStop
  simp only [hi, hp, hpc, Bool.false_eq_true, if_false]

end Sys2Proof.Machine
end

