-- ==== Sys2Proof/Tests/Slice0.lean ====
section
/-!
SUPPORT. Tests: words written out from the encodings, ill-formed terms refused, single steps, and states that meet the
hypotheses of the statements.
-/
namespace Sys2Proof.Tests
open Sys2Proof.Machine
set_option Elab.async false

/-! ### The formats of R58, field by field from bit 8 upward; LEN 0, 1 or 2 in bits 1:0, OP in bits 7:2 -/

def s3 (op fn d a b : Nat) : Nat := 4 * op + 2 ^ 8 * d + 2 ^ 14 * a + 2 ^ 20 * b + 2 ^ 26 * fn
def si (op d a imm : Nat) : Nat := 4 * op + 2 ^ 8 * d + 2 ^ 14 * a + 2 ^ 20 * imm
def sb (op p neg disp : Nat) : Nat := 4 * op + 2 ^ 8 * p + 2 ^ 12 * neg + 2 ^ 13 * disp
def sl (op d disp : Nat) : Nat := 4 * op + 2 ^ 8 * d + 2 ^ 14 * disp
def sm (op d a oc disp : Nat) : Nat := 4 * op + 2 ^ 8 * d + 2 ^ 14 * a + 2 ^ 20 * oc + 2 ^ 24 * disp
def sa (op d a b fn sz nr : Nat) : Nat :=
  4 * op + 2 ^ 8 * d + 2 ^ 14 * a + 2 ^ 20 * b + 2 ^ 26 * fn + 2 ^ 30 * sz + 2 ^ 31 * nr
def ss (op d a idx fn : Nat) : Nat := 4 * op + 2 ^ 8 * d + 2 ^ 14 * a + 2 ^ 20 * idx + 2 ^ 28 * fn
def sc (op d a fn csr : Nat) : Nat := 4 * op + 2 ^ 8 * d + 2 ^ 14 * a + 2 ^ 20 * fn + 2 ^ 22 * csr
def sf (op mask scope eng : Nat) : Nat := 4 * op + 2 ^ 8 * mask + 2 ^ 24 * scope + 2 ^ 27 * eng
def v3 (op fn vd va vb m et z x rm sat ft : Nat) : Nat :=
  1 + 4 * op + 2 ^ 8 * fn + 2 ^ 14 * vd + 2 ^ 23 * va + 2 ^ 32 * vb + 2 ^ 41 * m + 2 ^ 45 * et + 2 ^ 49 * z + 2 ^ 50 * x
    + 2 ^ 51 * rm + 2 ^ 54 * sat + 2 ^ 55 * ft
def vm (op vd a oc m et b disp : Nat) : Nat :=
  1 + 4 * op + 2 ^ 14 * vd + 2 ^ 23 * a + 2 ^ 29 * oc + 2 ^ 33 * m + 2 ^ 37 * et + 2 ^ 41 * b + 2 ^ 47 * disp
def ec (op fn ws wt ss si e a b c : Nat) : Nat :=
  1 + 4 * op + 2 ^ 8 * fn + 2 ^ 14 * ws + 2 ^ 22 * wt + 2 ^ 30 * ss + 2 ^ 38 * si + 2 ^ 42 * e + 2 ^ 44 * a + 2 ^ 50 * b
    + 2 ^ 56 * c
def ex (op slot ws wt ss si a b c : Nat) : Nat :=
  1 + 4 * op + 2 ^ 8 * slot + 2 ^ 18 * ws + 2 ^ 26 * wt + 2 ^ 34 * ss + 2 ^ 42 * si + 2 ^ 46 * a + 2 ^ 52 * b + 2 ^ 58 * c
def sr64 (op fn sz nr d a b k n anch : Nat) : Nat :=
  1 + 4 * op + 2 ^ 8 * fn + 2 ^ 12 * sz + 2 ^ 13 * nr + 2 ^ 14 * d + 2 ^ 20 * a + 2 ^ 26 * b + 2 ^ 32 * k + 2 ^ 38 * n
    + 2 ^ 44 * anch
def lh (op d a oc lit : Nat) : Nat := 2 + 4 * op + 2 ^ 8 * d + 2 ^ 14 * a + 2 ^ 20 * oc + 2 ^ 64 * lit
def mc (e lv fld a lit : Nat) : Nat := 2 + 4 * 0x08 + 2 ^ 8 * e + 2 ^ 10 * lv + 2 ^ 13 * fld + 2 ^ 17 * a + 2 ^ 64 * lit

/-- Every word decodes to its instruction. -/
def decodesAll (bits : Nat) (rows : List (Nat × Instr)) : Bool :=
  rows.all (fun r => decide (decodeTableWord bits r.1 = some r.2))

/-- R66, R69: SYS 0x00, FN 1 to 7; TRET reads A. -/
theorem test_decode_sys : decodesAll 32 [
    (s3 0x00 1 0 0 0, .nop),
    (s3 0x00 2 0 0 0, .brk),
    (s3 0x00 3 0 0 0, .yield),
    (s3 0x00 4 0 0 0, .sexit),
    (s3 0x00 6 0 0 0, .idle),
    (s3 0x00 7 0 0 0, .drain),
    (s3 0x00 5 0 0 0, .tret false),
    (s3 0x00 5 0 1 0, .tret true)] = true := by decide

/-- R69: ALU 0x01, FN 0 to 17. -/
theorem test_decode_alu : decodesAll 32 [
    (s3 0x01 0 1 60 63, .add 1 60 63),
    (s3 0x01 1 2 59 63, .sub 2 59 63),
    (s3 0x01 2 3 58 63, .and 3 58 63),
    (s3 0x01 3 4 57 63, .or 4 57 63),
    (s3 0x01 4 5 56 63, .xor 5 56 63),
    (s3 0x01 5 6 55 63, .andn 6 55 63),
    (s3 0x01 6 7 54 63, .sll 7 54 63),
    (s3 0x01 7 8 53 63, .srl 8 53 63),
    (s3 0x01 8 9 52 63, .sra 9 52 63),
    (s3 0x01 9 10 51 63, .ror 10 51 63),
    (s3 0x01 10 11 50 63, .min 11 50 63),
    (s3 0x01 11 12 49 63, .max 12 49 63),
    (s3 0x01 12 13 48 63, .minu 13 48 63),
    (s3 0x01 13 14 47 63, .maxu 14 47 63),
    (s3 0x01 14 15 46 63, .addsc1 15 46 63),
    (s3 0x01 15 16 45 63, .addsc2 16 45 63),
    (s3 0x01 16 17 44 63, .addsc3 17 44 63),
    (s3 0x01 17 18 43 63, .addsc4 18 43 63)] = true := by decide

/-- R69: MULDIV 0x02, FN 0 to 6. -/
theorem test_decode_muldiv : decodesAll 32 [
    (s3 0x02 0 63 0 9, .mul 63 0 9),
    (s3 0x02 1 63 1 10, .mulh 63 1 10),
    (s3 0x02 2 63 2 11, .mulhu 63 2 11),
    (s3 0x02 3 63 3 12, .div 63 3 12),
    (s3 0x02 4 63 4 13, .divu 63 4 13),
    (s3 0x02 5 63 5 14, .rem 63 5 14),
    (s3 0x02 6 63 6 15, .remu 63 6 15)] = true := by decide

/-- R69: BITS 0x03, FN 0 to 8. -/
theorem test_decode_bits : decodesAll 32 [
    (s3 0x03 0 1 40 0, .clz 1 40),
    (s3 0x03 1 2 40 0, .ctz 2 40),
    (s3 0x03 2 3 40 0, .popc 3 40),
    (s3 0x03 3 4 40 0, .sextB 4 40),
    (s3 0x03 4 5 40 0, .sextH 5 40),
    (s3 0x03 5 6 40 0, .sextW 6 40),
    (s3 0x03 6 7 40 0, .zextB 7 40),
    (s3 0x03 7 8 40 0, .zextH 8 40),
    (s3 0x03 8 9 40 0, .zextW 9 40)] = true := by decide

/-- R66, R69: ADDI to XORI, and SHI 0x08 with IMM12[7:6]. -/
theorem test_decode_immediates : decodesAll 32 [
    (si 0x04 7 8 0x801, .addi 7 8 0x801),
    (si 0x05 7 8 0x802, .andi 7 8 0x802),
    (si 0x06 7 8 0x803, .ori 7 8 0x803),
    (si 0x07 7 8 0x804, .xori 7 8 0x804),
    (si 0x08 7 8 63, .slli 7 8 63),
    (si 0x08 7 8 126, .srli 7 8 62),
    (si 0x08 7 8 189, .srai 7 8 61)] = true := by decide

/-- R69: CMP 0x09, FN 0 to 5, the predicate in D[3:0]; CMPI 0x0A, D[5:4]. -/
theorem test_decode_compares : decodesAll 32 [
    (s3 0x09 0 15 20 30, .cmpEq 15 20 30),
    (s3 0x09 1 14 20 31, .cmpNe 14 20 31),
    (s3 0x09 2 13 20 32, .cmpLt 13 20 32),
    (s3 0x09 3 12 20 33, .cmpGe 12 20 33),
    (s3 0x09 4 11 20 34, .cmpLtu 11 20 34),
    (s3 0x09 5 10 20 35, .cmpGeu 10 20 35),
    (si 0x0A 9 20 0xFFF, .cmpiEq 9 20 0xFFF),
    (si 0x0A 25 20 0xFFF, .cmpiNe 9 20 0xFFF),
    (si 0x0A 41 20 0xFFF, .cmpiLt 9 20 0xFFF),
    (si 0x0A 57 20 0xFFF, .cmpiLtu 9 20 0xFFF)] = true := by decide

/-- R69: PLOG 0x0B, FN 0 to 3; SEL 0x0C, the predicate in FN. -/
theorem test_decode_predicates : decodesAll 32 [
    (s3 0x0B 0 1 14 15, .pand 1 14 15),
    (s3 0x0B 1 2 14 15, .por 2 14 15),
    (s3 0x0B 2 3 14 15, .pxor 3 14 15),
    (s3 0x0B 3 4 14 15, .pandn 4 14 15),
    (s3 0x0C 15 1 2 3, .sel 15 1 2 3)] = true := by decide

/-- R66: B, BL, JALR, LOOPS. -/
theorem test_decode_branches : decodesAll 32 [
    (sb 0x0D 15 1 0x40000, .b 15 true 0x40000),
    (sl 0x0E 63 0x20001, .bl 63 0x20001),
    (si 0x0F 1 2 0x7FC, .jalr 1 2 0x7FC),
    (si 0x10 3 9 0xABC, .loops 3 9 0xABC)] = true := by decide

/-- R66: CHK, SFORK, CAS with SZ. -/
theorem test_decode_strands : decodesAll 32 [
    (s3 0x11 0 0 33 0, .chk 33),
    (s3 0x12 0 1 2 3, .sfork 1 2 3),
    (sa 0x13 1 2 3 0 1 0, .cas true 1 2 3),
    (sa 0x13 1 2 3 0 0 0, .cas false 1 2 3)] = true := by decide

/-- R66: LDB 0x14 to STD 0x1F. -/
theorem test_decode_loads_stores : decodesAll 32 [
    (sm 0x14 1 50 0 0x80, .ldb 1 50 0 0x80),
    (sm 0x15 2 50 1 0x81, .ldh 2 50 1 0x81),
    (sm 0x16 3 50 2 0x82, .ldw 3 50 2 0x82),
    (sm 0x17 4 50 3 0x83, .ldd 4 50 3 0x83),
    (sm 0x18 5 50 4 0x84, .ldbu 5 50 4 0x84),
    (sm 0x19 6 50 5 0x85, .ldhu 6 50 5 0x85),
    (sm 0x1a 7 50 6 0x86, .ldwu 7 50 6 0x86),
    (sm 0x1b 8 50 7 0x87, .lds 8 50 7 0x87),
    (sm 0x1c 9 50 8 0x88, .stb 9 50 8 0x88),
    (sm 0x1d 10 50 9 0x89, .sth 10 50 9 0x89),
    (sm 0x1e 11 50 10 0x8a, .stw 11 50 10 0x8a),
    (sm 0x1f 12 50 11 0x8b, .std 12 50 11 0x8b)] = true := by decide

/-- R66, R69: LDFE 0x20 to STFL 0x23 with OC 15 (R110), FEOP 0x24. -/
theorem test_decode_full_empty : decodesAll 32 [
    (sm 0x20 1 50 15 0x7F, .ldfe 1 50 0x7F),
    (sm 0x21 2 50 15 0x7F, .ldff 2 50 0x7F),
    (sm 0x22 3 50 15 0x7F, .stef 3 50 0x7F),
    (sm 0x23 4 50 15 0x7F, .stfl 4 50 0x7F),
    (s3 0x24 0 0 9 0, .sete 9),
    (s3 0x24 1 0 9 0, .setf 9),
    (s3 0x24 2 8 9 0, .feq 8 9)] = true := by decide

/-- R69: AMO 0x25, FN 0 to 11, SZ; NR gives RED, whose D is a zero field. -/
theorem test_decode_atomics : decodesAll 32 [
    (sa 0x25 1 2 3 0 0 0, .amoAdd false 1 2 3),
    (sa 0x25 1 2 3 1 1 0, .amoAnd true 1 2 3),
    (sa 0x25 1 2 3 2 0 0, .amoOr false 1 2 3),
    (sa 0x25 1 2 3 3 1 0, .amoXor true 1 2 3),
    (sa 0x25 1 2 3 4 0 0, .amoMin false 1 2 3),
    (sa 0x25 1 2 3 5 1 0, .amoMax true 1 2 3),
    (sa 0x25 1 2 3 6 0 0, .amoMinu false 1 2 3),
    (sa 0x25 1 2 3 7 1 0, .amoMaxu true 1 2 3),
    (sa 0x25 1 2 3 8 0 0, .amoSwap false 1 2 3),
    (sa 0x25 1 2 3 9 0 0, .amoFadd32 1 2 3),
    (sa 0x25 1 2 3 10 0 0, .amoFmin32 1 2 3),
    (sa 0x25 1 2 3 11 0 0, .amoFmax32 1 2 3),
    (sa 0x25 0 2 3 0 1 1, .redAdd true 2 3),
    (sa 0x25 0 2 3 1 0 1, .redAnd false 2 3),
    (sa 0x25 0 2 3 2 1 1, .redOr true 2 3),
    (sa 0x25 0 2 3 3 0 1, .redXor false 2 3),
    (sa 0x25 0 2 3 4 1 1, .redMin true 2 3),
    (sa 0x25 0 2 3 5 0 1, .redMax false 2 3),
    (sa 0x25 0 2 3 6 1 1, .redMinu true 2 3),
    (sa 0x25 0 2 3 7 0 1, .redMaxu false 2 3),
    (sa 0x25 0 2 3 8 1 1, .redSwap true 2 3),
    (sa 0x25 0 2 3 9 0 1, .redFadd32 2 3),
    (sa 0x25 0 2 3 10 0 1, .redFmin32 2 3),
    (sa 0x25 0 2 3 11 0 1, .redFmax32 2 3)] = true := by decide

/-- R66, R69: FENCE, BAR 0x27, SEM 0x28, POP 0x29. -/
theorem test_decode_synchronisation : decodesAll 32 [
    (sf 0x26 0x8001 5 1, .fence 0x8001 5 true),
    (s3 0x27 0 0 7 0, .bar 7),
    (s3 0x27 1 0 7 0, .bara 7),
    (s3 0x27 2 0 7 0, .barw 7),
    (ss 0x28 1 2 255 0, .swait 1 2 255),
    (ss 0x28 0 2 255 1, .ssig 2 255),
    (ss 0x28 1 0 254 2, .srd 1 254),
    (ss 0x28 1 0 254 3, .srdc 1 254),
    (ss 0x28 1 2 3 4, .sset 1 2 3),
    (ss 0x28 9 10 0 1, .ssigRemote 9 10),
    (s3 0x29 0 5 0 0, .pop 5 0),
    (s3 0x29 1 5 0 0, .pop 5 1)] = true := by decide

/-- R66, R69, R245: CSR 0x2A, TRAP, LAUNCH, TINV, LOGM, MON 0x2F. -/
theorem test_decode_system : decodesAll 32 [
    (sc 0x2A 1 0 0 0x11, .csrr 1 0x11),
    (sc 0x2A 1 2 1 0x40, .csrw 1 2 0x40),
    (sc 0x2A 1 2 2 0x40, .csrs 1 2 0x40),
    (sc 0x2A 1 2 3 0x40, .csrc 1 2 0x40),
    (0x2B * 4 + 0xBEEF * 2 ^ 16, .trap 0xBEEF),
    (s3 0x2C 0 0 6 0, .launch 6),
    (s3 0x2D 0 0 6 7, .tinvPage 6 7),
    (s3 0x2D 1 0 0 7, .tinvFunction 7),
    (s3 0x2D 2 0 0 0, .tinvAll),
    (s3 0x2E 0 0 6 0, .logm 6),
    (s3 0x2F 56 0 6 0, .monset 7 6),
    (s3 0x2F 57 0 6 0, .monref 7 6),
    (s3 0x2F 58 0 6 0, .monrd 7 6),
    (s3 0x2F 59 0 0 0, .monclr 7)] = true := by decide

/-- R69: VARITH 0x01, FN 0 to 11. -/
theorem test_decode_varith : decodesAll 64 [
    (v3 0x01 0 383 1 2 15 7 1 0 5 0 0, .vadd { vd := 383, va := 1, vb := 2, m := 15, et := 7, rm := 5, z := true }),
    (v3 0x01 1 383 1 2 15 7 1 0 5 0 0, .vsub { vd := 383, va := 1, vb := 2, m := 15, et := 7, rm := 5, z := true }),
    (v3 0x01 2 383 1 2 15 7 1 0 5 0 0, .vmul { vd := 383, va := 1, vb := 2, m := 15, et := 7, rm := 5, z := true }),
    (v3 0x01 3 383 1 2 15 7 1 0 5 0 0, .vfma { vd := 383, va := 1, vb := 2, m := 15, et := 7, rm := 5, z := true }),
    (v3 0x01 4 383 1 2 15 7 1 0 5 0 0, .vfms { vd := 383, va := 1, vb := 2, m := 15, et := 7, rm := 5, z := true }),
    (v3 0x01 5 383 1 2 15 7 1 0 0 0 0, .vmin { vd := 383, va := 1, vb := 2, m := 15, et := 7, z := true }),
    (v3 0x01 6 383 1 2 15 7 1 0 0 0 0, .vmax { vd := 383, va := 1, vb := 2, m := 15, et := 7, z := true }),
    (v3 0x01 7 3 1 0 1 7 0 0 0 0 0, .vabs { vd := 3, va := 1, m := 1, et := 7 }),
    (v3 0x01 8 3 1 0 1 7 0 0 0 0 0, .vneg { vd := 3, va := 1, m := 1, et := 7 }),
    (v3 0x01 9 3 1 63 0 8 0 0 1 0 0, .vscale { vd := 3, va := 1, vb := 63, et := 8, rm := 1 }),
    (v3 0x01 10 3 1 2 2 0 0 0 0 0 0, .vdot4 { vd := 3, va := 1, vb := 2, m := 2 }),
    (v3 0x01 11 3 1 2 2 2 0 0 0 0 0, .vtacc { vd := 3, va := 1, vb := 2, m := 2, et := 2 })] = true := by decide

/-- R69: VLOGIC 0x02, VCMP 0x03 with the mask in VD[3:0], VSEL 0x04. -/
theorem test_decode_vlogic : decodesAll 64 [
    (v3 0x02 0 5 6 7 1 2 1 0 0 0 0, .vand { vd := 5, va := 6, vb := 7, m := 1, et := 2, z := true }),
    (v3 0x02 1 5 6 7 1 2 1 0 0 0 0, .vor { vd := 5, va := 6, vb := 7, m := 1, et := 2, z := true }),
    (v3 0x02 2 5 6 7 1 2 1 0 0 0 0, .vxor { vd := 5, va := 6, vb := 7, m := 1, et := 2, z := true }),
    (v3 0x02 3 5 6 7 1 2 1 0 0 0 0, .vsll { vd := 5, va := 6, vb := 7, m := 1, et := 2, z := true }),
    (v3 0x02 4 5 6 7 1 2 1 0 0 0 0, .vsrl { vd := 5, va := 6, vb := 7, m := 1, et := 2, z := true }),
    (v3 0x02 5 5 6 7 1 2 1 0 0 0 0, .vsra { vd := 5, va := 6, vb := 7, m := 1, et := 2, z := true }),
    (v3 0x03 0 15 6 7 1 8 0 0 0 0 0, .vcmpEq { vd := 15, va := 6, vb := 7, m := 1, et := 8 }),
    (v3 0x03 1 14 6 7 1 8 0 0 0 0 0, .vcmpNe { vd := 14, va := 6, vb := 7, m := 1, et := 8 }),
    (v3 0x03 2 13 6 7 1 8 0 0 0 0 0, .vcmpLt { vd := 13, va := 6, vb := 7, m := 1, et := 8 }),
    (v3 0x03 3 12 6 7 1 8 0 0 0 0 0, .vcmpLe { vd := 12, va := 6, vb := 7, m := 1, et := 8 }),
    (v3 0x03 4 11 6 7 1 8 0 0 0 0 0, .vcmpGt { vd := 11, va := 6, vb := 7, m := 1, et := 8 }),
    (v3 0x03 5 10 6 7 1 8 0 0 0 0 0, .vcmpGe { vd := 10, va := 6, vb := 7, m := 1, et := 8 }),
    (v3 0x03 6 9 6 7 1 8 0 0 0 0 0, .vcmpUnord { vd := 9, va := 6, vb := 7, m := 1, et := 8 }),
    (v3 0x04 0 1 2 3 4 6 0 0 0 0 0, .vsel { vd := 1, va := 2, vb := 3, m := 4, et := 6 })] = true := by decide

/-- R69: VCVT 0x05 with the source type in FN, VFUNC 0x06, VRED 0x07 with operation and direction. -/
theorem test_decode_vconvert : decodesAll 64 [
    (v3 0x05 8 1 2 0 0 7 0 0 2 0 0, .vcvt 8 { vd := 1, va := 2, et := 7, rm := 2 }),
    (v3 0x06 0 1 2 0 0 8 0 0 0 0 0, .vrcp { vd := 1, va := 2, et := 8 }),
    (v3 0x06 1 1 2 0 0 8 0 0 0 0 0, .vrsq { vd := 1, va := 2, et := 8 }),
    (v3 0x06 2 1 2 0 0 8 0 0 0 0 0, .vsqrt { vd := 1, va := 2, et := 8 }),
    (v3 0x06 3 1 2 0 0 8 0 0 0 0 0, .vexp2 { vd := 1, va := 2, et := 8 }),
    (v3 0x06 4 1 2 0 0 8 0 0 0 0 0, .vlog2 { vd := 1, va := 2, et := 8 }),
    (v3 0x07 0 1 2 0 0 8 0 0 0 0 0, .vredSum 0 { vd := 1, va := 2, et := 8 }),
    (v3 0x07 5 1 2 0 0 8 0 0 0 0 0, .vredMax 1 { vd := 1, va := 2, et := 8 }),
    (v3 0x07 10 1 2 0 0 8 0 0 0 0 0, .vredMin 2 { vd := 1, va := 2, et := 8 }),
    (v3 0x07 11 1 2 0 0 8 0 0 0 0 0, .vredSumx 2 { vd := 1, va := 2, et := 8 })] = true := by decide

/-- R69: VXLANE 0x08, VCOMP 0x09, VUNPK3 0x0A, VBLK 0x0B. -/
theorem test_decode_vlanes : decodesAll 64 [
    (v3 0x08 0 1 2 3 0 7 0 1 0 0 0, .vperm { vd := 1, va := 2, vb := 3, et := 7, x := true }),
    (v3 0x08 1 1 2 9 0 7 0 0 0 0 0, .vrot { vd := 1, va := 2, vb := 9, et := 7 }),
    (v3 0x08 2 1 2 9 0 7 0 1 0 0 0, .vxl { vd := 1, va := 2, vb := 9, et := 7, x := true }),
    (v3 0x08 3 1 2 9 0 7 0 0 0 0 0, .vbcast { vd := 1, va := 2, vb := 9, et := 7 }),
    (v3 0x08 4 1 2 0 0 8 0 0 0 0 0, .vscan { vd := 1, va := 2, et := 8 }),
    (v3 0x09 0 1 2 9 3 7 0 0 0 0 0, .vpack { vd := 1, va := 2, vb := 9, m := 3, et := 7 }),
    (v3 0x09 1 1 2 9 3 7 0 0 0 0 0, .vexpand { vd := 1, va := 2, vb := 9, m := 3, et := 7 }),
    (v3 0x09 6 4 2 0 0 7 0 0 0 0 0, .vsparse true false { vd := 4, va := 2, et := 7 }),
    (v3 0x09 10 4 2 0 0 7 0 0 0 0 0, .vsparse false true { vd := 4, va := 2, et := 7 }),
    (v3 0x0a 0 4 2 3 0 14 0 0 0 0 0, .vunpk3 { vd := 4, va := 2, vb := 3, et := 14 }),
    (v3 0x0b 0 1 2 8 0 10 0 0 1 0 0, .vqb { vd := 1, va := 2, vb := 8, et := 10, rm := 1 }),
    (v3 0x0b 1 1 2 13 0 7 0 0 0 0 0, .vdqb { vd := 1, va := 2, vb := 13, et := 7 })] = true := by decide

/-- R66, R69: VMOVE 0x12, VSHAPE, VNSET, VNX, MASK 0x16, FTLD, POPV. -/
theorem test_decode_vmoves : decodesAll 64 [
    (v3 0x12 0 1 2 0 3 0 0 0 0 0 0, .vmov { vd := 1, va := 2, m := 3 }),
    (v3 0x12 1 1 2 3 0 8 0 0 0 0 0, .vmvs { vd := 1, va := 2, vb := 3, et := 8 }),
    (v3 0x12 2 1 2 3 0 8 0 0 0 0 0, .vmvg { vd := 1, va := 2, vb := 3, et := 8 }),
    (v3 0x13 0 0 9 0 0 0 0 0 0 0 0, .vshape { va := 9 }),
    (v3 0x14 0 7 2 3 0 0 0 0 0 0 0, .vnset { vd := 7, va := 2, vb := 3 }),
    (v3 0x15 2 0 0 0 0 0 0 0 0 0 0, .vnx 2 { }),
    (v3 0x16 0 1 2 3 0 0 0 0 0 0 0, .mlogAnd { vd := 1, va := 2, vb := 3 }),
    (v3 0x16 1 1 2 3 0 0 0 0 0 0 0, .mlogOr { vd := 1, va := 2, vb := 3 }),
    (v3 0x16 2 1 2 3 0 0 0 0 0 0 0, .mlogXor { vd := 1, va := 2, vb := 3 }),
    (v3 0x16 3 1 2 3 0 0 0 0 0 0 0, .mlogAndn { vd := 1, va := 2, vb := 3 }),
    (v3 0x16 4 9 2 0 0 0 0 0 0 0 0, .mpopc { vd := 9, va := 2 }),
    (v3 0x16 5 9 2 0 0 0 0 0 0 0 0, .mfirst { vd := 9, va := 2 }),
    (v3 0x17 0 15 9 0 0 0 0 0 0 0 0, .ftld { vd := 15, va := 9 }),
    (v3 0x18 0 5 1 9 0 0 0 0 0 0 0, .popv { vd := 5, va := 1, vb := 9 })] = true := by decide

/-- R66: VLD 0x0C to VSCAT 0x11; VGATH and VSCAT name an index register in DISP17. -/
theorem test_decode_vmemory : decodesAll 64 [
    (vm 0x0c 383 63 14 1 7 0 131071, .vld { vd := 383, a := 63, oc := 14, m := 1, et := 7, disp := 131071 }),
    (vm 0x0d 1 2 3 4 8 0 5, .vst { vd := 1, a := 2, oc := 3, m := 4, et := 8, disp := 5 }),
    (vm 0x0e 1 2 3 4 8 9 5, .vlds { vd := 1, a := 2, oc := 3, m := 4, et := 8, b := 9, disp := 5 }),
    (vm 0x0f 1 2 3 4 8 9 5, .vsts { vd := 1, a := 2, oc := 3, m := 4, et := 8, b := 9, disp := 5 }),
    (vm 0x10 1 2 3 4 8 0 383, .vgath { vd := 1, a := 2, oc := 3, m := 4, et := 8, disp := 383 }),
    (vm 0x11 1 2 3 4 8 0 383, .vscat { vd := 1, a := 2, oc := 3, m := 4, et := 8, disp := 383 })] = true := by decide

/-- R60, R64, R67: matrix commands 0x20 to 0x28. -/
theorem test_decode_matrix : decodesAll 64 [
    (ec 0x20 0 200 255 201 15 1 31 0 0, .mclaim { e := 1, a := 31, ws := 200, wt := 255, ss := 201, si := 15 }),
    (ec 0x21 0 200 255 201 15 2 31 0 0, .mrel { e := 2, a := 31, ws := 200, wt := 255, ss := 201, si := 15 }),
    (ec 0x22 0 200 255 201 15 1 9 0 0, .mstat { e := 1, a := 9, ws := 200, wt := 255, ss := 201, si := 15 }),
    (ec 0x23 0 200 255 201 15 2 0 0 3, .mgo 0 { e := 2, c := 3, ws := 200, wt := 255, ss := 201, si := 15 }),
    (ec 0x24 4 200 255 201 15 1 3 4 2,
      .mtile 4 { e := 1, a := 3, b := 4, c := 2, ws := 200, wt := 255, ss := 201, si := 15 }),
    (ec 0x25 0 200 255 201 15 1 0 0 3, .mzero { e := 1, c := 3, ws := 200, wt := 255, ss := 201, si := 15 }),
    (ec 0x26 55 200 255 201 15 1 3 4 2,
      .mdrain 55 { e := 1, a := 3, b := 4, c := 2, ws := 200, wt := 255, ss := 201, si := 15 }),
    (ec 0x27 9 200 255 201 15 1 3 4 2,
      .mldacc 9 { e := 1, a := 3, b := 4, c := 2, ws := 200, wt := 255, ss := 201, si := 15 }),
    (ec 0x28 4 200 255 201 15 1 3 4 2,
      .mspgo 4 { e := 1, a := 3, b := 4, c := 2, ws := 200, wt := 255, ss := 201, si := 15 })] = true := by decide

/-- R60, R67, R69: CPY 0x30 to GSCAT 0x37. -/
theorem test_decode_copies : decodesAll 64 [
    (ec 0x30 1 200 255 201 15 3 1 2 3,
      .cpy true { e := 3, a := 1, b := 2, c := 3, ws := 200, wt := 255, ss := 201, si := 15 }),
    (ec 0x31 0 200 255 201 15 2 1 2 3,
      .cpy2d false { e := 2, a := 1, b := 2, c := 3, ws := 200, wt := 255, ss := 201, si := 15 }),
    (0x004040C9, .cpyslot { ws := 1, wt := 1 }),
    (0x0920344000000000 + 0x000001C9, .cpyslotClaim { si := 1, e := 1, a := 3, b := 8, c := 9 }),
    (ec 0x32 2 200 255 201 15 2 3 4 0, .cpyslotOut { e := 2, a := 3, b := 4, ws := 200, wt := 255, ss := 201, si := 15 }),
    (ec 0x33 0 200 255 201 15 1 1 2 3,
      .fill { e := 1, a := 1, b := 2, c := 3, ws := 200, wt := 255, ss := 201, si := 15 }),
    (ec 0x34 5 200 255 201 15 1 0 0 0, .flush 5 { e := 1, ws := 200, wt := 255, ss := 201, si := 15 }),
    (ec 0x35 8 200 255 201 15 0 1 2 0, .grow 8 { a := 1, b := 2, ws := 200, wt := 255, ss := 201, si := 15 }),
    (ec 0x36 56 200 255 201 15 0 1 2 0, .gbag 8 3 { a := 1, b := 2, ws := 200, wt := 255, ss := 201, si := 15 }),
    (ec 0x37 8 200 255 201 15 0 1 2 0,
      .gscat 8 { a := 1, b := 2, ws := 200, wt := 255, ss := 201, si := 15 })] = true := by decide

/-- R67: XSTEP 0x38 to XRED 0x3B. -/
theorem test_decode_collectives : decodesAll 64 [
    (ex 0x38 0 200 255 201 15 1 0 0, .xstep { a := 1, ws := 200, wt := 255, ss := 201, si := 15 }),
    (ex 0x39 1023 200 255 201 15 1 2 63,
      .xsend { slot := 1023, a := 1, b := 2, c := 63, ws := 200, wt := 255, ss := 201, si := 15 }),
    (ex 0x3a 0 200 255 201 15 1 2 63, .xrecv { a := 1, b := 2, c := 63, ws := 200, wt := 255, ss := 201, si := 15 }),
    (ex 0x3b 512 200 255 201 15 1 2 62,
      .xred { slot := 512, a := 1, b := 2, c := 62, ws := 200, wt := 255, ss := 201, si := 15 })] = true := by decide

/-- R67, R69: AMOR 0x3C with the AMO codes, AMOX 0x3D with SZ 1. -/
theorem test_decode_ranked : decodesAll 64 [
    (sr64 0x3c 0 0 0 1 2 3 4 5 0, .amorAdd { d := 1, a := 2, b := 3, k := 4, n := 5 }),
    (sr64 0x3c 1 1 0 1 2 3 4 5 0, .amorAnd { sz := true, d := 1, a := 2, b := 3, k := 4, n := 5 }),
    (sr64 0x3c 2 0 0 1 2 3 4 5 0, .amorOr { d := 1, a := 2, b := 3, k := 4, n := 5 }),
    (sr64 0x3c 3 1 0 1 2 3 4 5 0, .amorXor { sz := true, d := 1, a := 2, b := 3, k := 4, n := 5 }),
    (sr64 0x3c 4 0 0 1 2 3 4 5 0, .amorMin { d := 1, a := 2, b := 3, k := 4, n := 5 }),
    (sr64 0x3c 5 1 0 1 2 3 4 5 0, .amorMax { sz := true, d := 1, a := 2, b := 3, k := 4, n := 5 }),
    (sr64 0x3c 6 0 0 1 2 3 4 5 0, .amorMinu { d := 1, a := 2, b := 3, k := 4, n := 5 }),
    (sr64 0x3c 7 1 0 1 2 3 4 5 0, .amorMaxu { sz := true, d := 1, a := 2, b := 3, k := 4, n := 5 }),
    (sr64 0x3c 8 0 0 1 2 3 4 5 0, .amorSwap { d := 1, a := 2, b := 3, k := 4, n := 5 }),
    (sr64 0x3c 9 0 1 0 2 3 4 5 0, .amorFadd32 { nr := true, a := 2, b := 3, k := 4, n := 5 }),
    (sr64 0x3c 10 0 1 0 2 3 4 5 0, .amorFmin32 { nr := true, a := 2, b := 3, k := 4, n := 5 }),
    (sr64 0x3c 11 0 1 0 2 3 4 5 0, .amorFmax32 { nr := true, a := 2, b := 3, k := 4, n := 5 }),
    (sr64 0x3d 0 1 0 1 2 3 4 0 128,
      .amox { sz := true, d := 1, a := 2, b := 3, k := 4, anch := 128 })] = true := by decide

/-- R68: the 96-bit map. -/
theorem test_decode_literals : decodesAll 96 [
    (lh 0x01 9 0 0 0x12345678, .li 9 0x12345678),
    (lh 0x02 9 0 0 0x80000000, .lih 9 0x80000000),
    (lh 0x03 9 8 0 7, .addil 9 8 7),
    (lh 0x04 9 8 15 7, .lddl 9 8 15 7),
    (lh 0x05 9 8 14 7, .stdl 9 8 14 7),
    (0x0000C01A + 0x0000E000 * 2 ^ 32 + 0x00003F80 * 2 ^ 64, .vbcastl { vd := 3, et := 7 } 0x3F80),
    (v3 0x07 4 5 6 7 0 7 0 0 0 0 0 + 1 + 0x08 * 2 ^ 56 + 3 * 2 ^ 64 + 0x10 * 2 ^ 76 + 0x20 * 2 ^ 84,
      .vsweep 4 { v := { vd := 5, va := 6, vb := 7, et := 7 }, stepb := 8, count := 3, stepd := 16, stepa := 32 }),
    (mc 1 5 7 7 0xFFFFFFFF, .mcfg { e := 1, lv := 5, fld := 7, a := 7, lit := 0xFFFFFFFF }),
    (0x00010022 + 0x0C200100 * 2 ^ 64, .mcfg { fld := 8, lit := 0x0C200100 })] = true := by decide

/-! ### Ill-formed terms: one for each check, with a neighbour that is well-formed -/

/-- No term of the list is well-formed. -/
def refusedAll (l : List Instr) : Bool := l.all (fun i => !i.wellFormed)

/-- Every term of the list is well-formed. -/
def acceptedAll (l : List Instr) : Bool := l.all Instr.wellFormed

/-- R214: IMM12 = 0; R107, R234: scopes 6 and 7; R193: CSR numbers that name no CSR; R61: SSIG with D = 0 is the local form. -/
theorem test_ill_scalar : refusedAll [.loops 0 1 0, .fence 0 6 false, .fence 0xFFFF 7 true, .csrr 1 0x0C1,
  .csrw 1 2 0x3FF,
    .csrs 1 2 0x0DF, .csrc 1 2 0x0C1, .ssigRemote 0 1] = true := by decide
theorem test_well_scalar : acceptedAll [.loops 0 1 1, .fence 0 5 false, .csrr 1 0x0C0, .csrw 1 2 0x40,
  .ssigRemote 1 0] = true := by
  decide

/-- R61: RM and SAT where they are unused. -/
theorem test_ill_vector_modes : refusedAll [.vmin { et := 7, rm := 5 }, .vmax { et := 0, sat := true },
  .vperm { et := 7, rm := 1 },
    .vrot { et := 7, sat := true }, .vxl { et := 7, rm := 2 }, .vbcast { et := 7, rm := 3 },
      .vpack { et := 7, sat := true },
    .vexpand { et := 7, rm := 1 }, .vsparse true false { et := 7, rm := 1 }, .vredMax 0 { et := 8, rm := 1 },
      .vdot4 { et := 0, rm := 1 },
    .vtacc { et := 2, rm := 1 }, .vqb { vb := 8, et := 10, sat := true }] = true := by decide
theorem test_well_vector_modes : acceptedAll [.vmin { et := 7 }, .vmax { et := 0 }, .vredSum 0 { et := 8, rm := 1 },
    .vqb { vb := 8, et := 10, rm := 1 }] = true := by decide

/-- R231 to R233: SZ of the FP32 forms, SZ of AMOX, ANCH of AMOR, D, K and N where they are unused. -/
theorem test_ill_ranked : refusedAll [.amorFadd32 { sz := true }, .amorFmin32 { sz := true }, .amorFmax32 { sz := true },
    .amox { sz := false }, .amorAdd { anch := 1 }, .amorSwap { nr := true, d := 1 }, .amox { sz := true, n := 1 },
    .amox { sz := true, nr := true, k := 1 }] = true := by decide
theorem test_well_ranked : acceptedAll [.amorFadd32 {}, .amox { sz := true, anch := 1, d := 1, k := 2 },
  .amorAdd { d := 1 },
    .amorSwap { nr := true }] = true := by decide

/-- R62, R251: v384 and above; R63: types an instruction does not accept; R61: fields it does not use. -/
theorem test_ill_vector_registers : refusedAll [.vadd { vd := 384, et := 7 }, .vadd { va := 400, et := 7 },
    .vadd { vb := 511, et := 7 }, .vld { vd := 384, et := 7 }, .vgath { et := 8, disp := 384 },
      .vscat { vd := 384, et := 8 },
    .vst { vd := 500, et := 7 }] = true := by decide
theorem test_ill_vector_types : refusedAll [.vadd { et := 15 }, .vtacc { et := 3 }, .vdot4 { et := 7 },
  .vunpk3 { et := 0 },
    .vqb { vb := 6, et := 10 }, .vqb { vb := 8, et := 8 }, .vdqb { vb := 9, et := 7 }, .vcvt 10 { et := 7 },
      .vld { et := 14 },
    .vgath { et := 10 }, .vredSum 3 { et := 8 }, .vsweep 9 { v := { et := 7 } }, .vrcp { et := 3 },
      .vscale { et := 10 }] = true := by
  decide
theorem test_ill_vector_zero : refusedAll [.vabs { vb := 1, et := 7 }, .vadd { x := true, et := 7 },
  .vsel { z := true, et := 7 },
    .vshape { vb := 1 }, .vnset { vd := 8 }, .vnx 0 { vd := 1 }, .ftld { vd := 16 }, .popv { va := 2 },
      .vld { b := 1, et := 7 },
    .vgath { b := 1, et := 8 }, .vscat { disp := 512, et := 8 }, .vadd { ft := true, et := 7 },
      .vadd { ft := true, rm := 1 }] =
    true := by decide
theorem test_well_vector : acceptedAll [.vadd { vd := 383, va := 383, vb := 383, m := 15, et := 7, rm := 5 },
  .vtacc { et := 2 },
    .vunpk3 { et := 14 }, .vqb { vb := 7, et := 13 }, .vdqb { vb := 13, et := 8 }, .vcvt 9 { et := 7 },
      .vnset { vd := 7 },
    .ftld { vd := 15, va := 63 }, .popv { va := 1, vb := 63 }, .vgath { et := 8, disp := 383 }, .vadd { ft := true },
    .vsweep 8 { v := { et := 7 } }] = true := by decide

/-- R60, R64, R302, R309, R322: E = 3, a bank the engine does not have, formats, odd banks of exact windows, slots, zero
fields. -/
theorem test_ill_matrix : refusedAll [.mclaim { e := 3 }, .mrel { e := 3 }, .mstat { e := 3 }, .mzero { e := 3 },
    .mzero { e := 0, c := 2 }, .mtile 0 { e := 1, c := 1 }, .mtile 9 {}, .mtile 14 {}, .mspgo 5 {},
      .mtile 0x10 { c := 1 },
    .mtile 0x20 {}, .mtile 0x28 { a := 31 }, .mdrain 2 {}, .mdrain 10 {}, .mldacc 4 {}, .mldacc 0x13 {}, .mgo 0x1F {},
    .mclaim { a := 32 }, .mclaim { b := 1 }, .mrel { c := 1 }, .mstat { b := 1 }, .mzero { a := 1 }, .mzero { c := 4 },
    .mgo 0 { a := 1 }, .mtile 0 { a := 32 }, .mtile 0 { c := 16 }, .mspgo 0 { c := 8 }, .mdrain 0x2F {},
      .mdrain 8 { c := 4 }] =
    true := by decide
theorem test_well_matrix : acceptedAll [.mclaim { e := 2, a := 31 }, .mzero { e := 1, c := 3 },
  .mtile 0 { e := 2, c := 13 },
    .mtile 0x28 { a := 30, b := 30 }, .mtile 0x10 { c := 0 }, .mspgo 4 { c := 5 }, .mdrain 0x1F { a := 63 },
    .mldacc 9 {}, .mgo 0x0F {}] = true := by decide

/-- R331: E, LV, FLD; R340, R341: registers above g63, scopes, slots, gather commands at E other than 0, types; R377: zero
fields. -/
theorem test_ill_engines : refusedAll [.mcfg { e := 3 }, .mcfg { lv := 6 }, .mcfg { fld := 14 },
  .mcfg { lv := 1, fld := 8 },
    .cpy true { c := 63 }, .cpy2d false { c := 63 }, .cpy2d true { c := 62 }, .flush 6 {}, .flush 0 { a := 1 },
      .grow 8 { e := 1 },
    .grow 14 {}, .gbag 0 0 {}, .gscat 4 {}, .grow 8 { c := 1 }, .cpyslot { a := 32 }, .cpyslotClaim { a := 32 },
    .cpyslotOut { a := 63 }, .xred { c := 63 }, .xstep { slot := 1 }, .xstep { b := 1 },
      .xstep { c := 1 }] = true := by decide
theorem test_well_engines : acceptedAll [.mcfg { e := 2, lv := 5, fld := 7 }, .mcfg { fld := 13 }, .cpy false { c := 63 },
    .cpy2d true { c := 61 }, .flush 5 { e := 3 }, .grow 0 {}, .gbag 10 3 {}, .gscat 3 {}, .cpyslot { a := 31 },
    .xred { slot := 1023, c := 62 }, .xstep { a := 63 }] = true := by decide

/-- R70: the fates of words that are no instruction, in their order: zero word, LEN, OP, FN, zero fields, privilege. -/
theorem test_fates : decode DecodeCtx.permissive 0 = .fate .zeroWord
    ∧ decode DecodeCtx.permissive 3 = .fate (.illegalLength 3)
    ∧ decode DecodeCtx.permissive (4 * 0x30) = .fate (.illegalOpcode 0xC0)
    ∧ decode DecodeCtx.permissive (s3 0x01 18 1 2 3) = .fate (.illegalOpcode (BitVec.ofNat 32 (s3 0x01 18 1 2 3)))
    ∧ decode DecodeCtx.permissive (s3 0x00 1 1 0 0) = .fate (.reservedField (BitVec.ofNat 32 (s3 0x00 1 1 0 0)))
    ∧ decode { sup := false, vregs := 384 } (s3 0x2D 2 0 0 0) =
      .fate (.privilege (BitVec.ofNat 32 (s3 0x2D 2 0 0 0))) := by decide

/-! ### Single steps on a small state: one task on core 0 of die 0 with one strand -/

/-- One task with one strand; the strand's record, the task's and the launch's may be changed. -/
def machine (r : StrandRegs) (st : Strand → Strand := id) (f : Task → Task := id) (l : Launch → Launch := id) : State :=
  { State.reset with
    sel := { State.reset.sel with task := 1, strand := 0 }
    tasks := [(1, f { launch := 1, place := .running 0, placed := true, spsize := 0x600000,
                      strands := [(0, st { live := true, used := true, r := r })] })]
    launches := [(1, l { fn := 1, vregs := 384, strands := 8, phaseOf := .accepted, width := 1, height := 1 })]
    nextTask := 2
    nextLaunch := 2 }

/-- The instruction goes on to a state with a property. -/
def after (i : Instr) (s : State) (p : State → Bool) : Bool :=
  match exec i s with
  | .next t => p t
  | _ => false

/-- Strand 0 at 0x1000 with g1 = x and g2 = y. -/
def two (x y : Word) : State := machine { pc := 0x1000, g := [(1, x), (2, y)] }

/-- The instruction leaves v in g3 and the pc n parcels further. -/
def gives (i : Instr) (x y v : Word) (n : Nat := 1) : Bool :=
  after i (two x y) (fun t => decide ((regs t).gr 3 = v) && decide (pcOf t = 0x1000 + w64 (4 * n)))

/-- R201. -/
theorem test_exec_alu_arithmetic : (gives (.add 3 1 2) 0xFFFFFFFFFFFFFFFF 2 1 && gives (.sub 3 1 2) 1 2 0xFFFFFFFFFFFFFFFF
    && gives (.min 3 1 2) 0xFFFFFFFFFFFFFFFF 1 0xFFFFFFFFFFFFFFFF && gives (.max 3 1 2) 0xFFFFFFFFFFFFFFFF 1 1
    && gives (.minu 3 1 2) 0xFFFFFFFFFFFFFFFF 1 1 && gives (.maxu 3 1 2) 0xFFFFFFFFFFFFFFFF 1 0xFFFFFFFFFFFFFFFF
    && gives (.addsc1 3 1 2) 5 1 11 && gives (.addsc2 3 1 2) 5 1 21 && gives (.addsc3 3 1 2) 5 1 41
    && gives (.addsc4 3 1 2) 0xF000000000000005 1 81) = true := by decide
theorem test_exec_alu_bits : (gives (.and 3 1 2) 0xFC 0x0F 0x0C && gives (.or 3 1 2) 0xF0 0x0F 0xFF
    && gives (.xor 3 1 2) 0xFF 0x0F 0xF0 && gives (.andn 3 1 2) 0xFF 0x0F 0xF0 && gives (.sll 3 1 2) 1 65 2
    && gives (.srl 3 1 2) 0x8000000000000000 63 1 && gives (.sra 3 1 2) 0x8000000000000000 63 0xFFFFFFFFFFFFFFFF
    && gives (.ror 3 1 2) 1 4 0x1000000000000000 && gives (.ror 3 1 2) 5 64 5) = true := by decide

/-- R202, R24: division by zero, and the most negative value by -1. -/
theorem test_exec_mul : (gives (.mul 3 1 2) 0x8000000000000000 2 0 && gives (.mulh 3 1 2) 0xFFFFFFFFFFFFFFFF 2
  0xFFFFFFFFFFFFFFFF
    && gives (.mulhu 3 1 2) 0xFFFFFFFFFFFFFFFF 2 1) = true := by decide
theorem test_exec_div : (gives (.div 3 1 2) 7 0 0xFFFFFFFFFFFFFFFF && gives (.div 3 1 2) 0xFFFFFFFFFFFFFFF9 2
  0xFFFFFFFFFFFFFFFD
    && gives (.div 3 1 2) 0x8000000000000000 0xFFFFFFFFFFFFFFFF 0x8000000000000000
    && gives (.divu 3 1 2) 7 0 0xFFFFFFFFFFFFFFFF && gives (.rem 3 1 2) 0xFFFFFFFFFFFFFFF9 2 0xFFFFFFFFFFFFFFFF
    && gives (.rem 3 1 2) 0x8000000000000000 0xFFFFFFFFFFFFFFFF 0 && gives (.rem 3 1 2) 7 0 7
    && gives (.remu 3 1 2) 7 0 7 && gives (.remu 3 1 2) 7 4 3) = true := by decide

/-- R203. -/
theorem test_exec_bits : (gives (.clz 3 1) 0 0 64 && gives (.clz 3 1) 1 0 63 && gives (.ctz 3 1) 0 0 64 && gives (.ctz
  3 1) 8 0 3
    && gives (.popc 3 1) 0xFF00FF 0 16 && gives (.sextB 3 1) 0x80 0 0xFFFFFFFFFFFFFF80 && gives (.sextH 3 1) 0x18000 0
      0xFFFFFFFFFFFF8000
    && gives (.sextW 3 1) 0x7FFFFFFF 0 0x7FFFFFFF && gives (.zextB 3 1) 0x1FF 0 0xFF && gives (.zextH 3 1) 0x1FFFF 0
      0xFFFF
    && gives (.zextW 3 1) 0xFFFFFFFFFFFFFFFF 0 0xFFFFFFFF) = true := by decide

/-- R204 to R206. -/
theorem test_exec_immediates : (gives (.addi 3 0 0xFFF) 0 0 0xFFFFFFFFFFFFFFFF && gives (.andi 3 1 0x800) 0xFFFF 0 0xF800
    && gives (.ori 3 1 0x7FF) 0x1000 0 0x17FF && gives (.xori 3 1 0xFFF) 5 0 0xFFFFFFFFFFFFFFFA && gives (.slli 3 1 63)
      3 0 0x8000000000000000
    && gives (.srli 3 1 63) 0x8000000000000000 0 1 && gives (.srai 3 1 5) 0xFFFFFFFFFFFFFFC0 0 0xFFFFFFFFFFFFFFFE) =
      true := by decide
theorem test_exec_literals : (gives (.li 3 0x80000000) 0 0 0xFFFFFFFF80000000 3 && gives (.lih 3 1) 0 0 0x100000000 3
    && gives (.addil 3 1 0xFFFFFFFF) 1 0 0 3) = true := by decide

/-- R207 to R210: predicates; p0 reads true and discards writes. -/
theorem test_exec_predicates : (after (.cmpLt 3 1 2) (two 0xFFFFFFFFFFFFFFFF 0) (fun t => (regs t).pred 3)
    && after (.cmpLtu 3 1 2) (two 0xFFFFFFFFFFFFFFFF 0) (fun t => !(regs t).pred 3)
    && after (.cmpNe 0 1 2) (two 5 5) (fun t => (regs t).pred 0) && after (.cmpGe 4 1 2) (two 5 5) (fun t => (regs
      t).pred 4)
    && after (.cmpiEq 3 1 0xFFF) (two 0xFFFFFFFFFFFFFFFF 0) (fun t => (regs t).pred 3)
    && after (.cmpiLtu 3 1 100) (two 99 0) (fun t => (regs t).pred 3)
    && after (.pandn 3 0 5) (two 0 0) (fun t => (regs t).pred 3) && after (.pxor 3 0 0) (two 0 0) (fun t => !(regs
      t).pred 3)
    && gives (.sel 0 3 1 2) 7 8 7 && gives (.sel 4 3 1 2) 7 8 8) = true := by decide

/-- R211 to R213. -/
theorem test_exec_branches : (after (.b 0 false 0x7FFFF) (two 0 0) (fun t => pcOf t == 0xFFC)
    && after (.b 0 true 5) (two 0 0) (fun t => pcOf t == 0x1004)
    && after (.bl 3 0x20000) (two 0 0) (fun t => pcOf t == 0x1000 - 0x80000 && (regs t).gr 3 == 0x1004)
    && after (.jalr 1 1 0xFFC) (two 0x2000 0) (fun t => pcOf t == 0x1FFC && (regs t).gr 1 == 0x1004)) = true := by decide

/-- R213, R173: a misaligned target traps MISALIGNED, and g[D] is as before. -/
theorem test_exec_jalr_misaligned : after (.jalr 3 1 2) (two 0x2000 0)
    (fun t => (myTask t).trap.tval == 0x2002 && (myTask t).trap.tcause == 6 + 2 ^ 13 && (regs t).gr 3 == 0) = true :=
      by decide

/-- R214, R215: a loop of two iterations whose body is one instruction at 0x1004. -/
theorem test_exec_loops : after (.loops 2 1 1) (two 2 0) (fun t => pcOf t == 0x1004 && ((myTask t).loop 2).stop == 0x1004
      && after .nop t (fun u => pcOf u == 0x1004 && ((myTask u).loop 2).value == 1
        && after .nop u (fun v => pcOf v == 0x1008 && !((myTask v).loop 2).act))) = true := by decide

/-- R219, R220: little-endian, sign and zero extension, displacements by size. -/
def mem8 (x : Word) : State :=
  machine { pc := 0x1000, g := [(1, x), (2, 0x1122334455667788)] } id
    (fun t => { t with spad := [(0x100, 0x80), (0x101, 0xFF), (0x103, 0x7F), (0x107, 0x91)] })
theorem test_exec_loads : (after (.ldb 3 1 0 0) (mem8 0x100) (fun t => (regs t).gr 3 == 0xFFFFFFFFFFFFFF80)
    && after (.ldbu 3 1 0 0xFF) (mem8 0x101) (fun t => (regs t).gr 3 == 0x80)
    && after (.ldh 3 1 0 0x80) (mem8 0x200) (fun t => (regs t).gr 3 == 0xFFFFFFFFFFFFFF80)
    && after (.ldhu 3 1 0 0) (mem8 0x102) (fun t => (regs t).gr 3 == 0x7F00)
    && after (.ldw 3 1 0 1) (mem8 0x100) (fun t => (regs t).gr 3 == 0xFFFFFFFF91000000)
    && after (.ldwu 3 1 0 0) (mem8 0x104) (fun t => (regs t).gr 3 == 0x91000000)
    && after (.ldd 3 1 0 0) (mem8 0x100) (fun t => (regs t).gr 3 == 0x910000007F00FF80)
    && after (.lddl 3 1 0 0xFFFF0000) (mem8 0x10100) (fun t => (regs t).gr 3 == 0x910000007F00FF80 && pcOf t ==
      0x100C)) = true := by
  decide
theorem test_exec_stores : (after (.stb 2 1 0 1) (mem8 0x100) (fun t => readNat (myTask t).spad 0x100 8 ==
  0x910000007F008880)
    && after (.sth 2 1 0 1) (mem8 0x100) (fun t => readNat (myTask t).spad 0x100 8 == 0x910000007788FF80)
    && after (.stw 2 1 0 1) (mem8 0x100) (fun t => readNat (myTask t).spad 0x100 8 == 0x556677887F00FF80)
    && after (.std 2 1 0 0xFF) (mem8 0x108) (fun t => readNat (myTask t).spad 0x100 8 == 0x1122334455667788)
    && after (.stdl 2 1 0 8) (mem8 0xF8) (fun t => readNat (myTask t).spad 0x100 8 == 0x1122334455667788)) = true := by
      decide

/-- R227 to R230: the old value comes back sign-extended, 32-bit forms leave the other half. -/
theorem test_exec_atomics : (after (.amoAdd false 3 1 2) (mem8 0x100) (fun t =>
        (regs t).gr 3 == 0x7F00FF80 && readNat (myTask t).spad 0x100 8 == 0x91000000D4677708)
    && after (.amoMin true 3 1 2) (mem8 0x100) (fun t =>
        (regs t).gr 3 == 0x910000007F00FF80 && readNat (myTask t).spad 0x100 8 == 0x910000007F00FF80)
    && after (.redMinu true 1 2) (mem8 0x100) (fun t => readNat (myTask t).spad 0x100 8 == 0x1122334455667788)
    && after (.amoSwap false 3 1 2) (mem8 0x104) (fun t =>
        (regs t).gr 3 == 0xFFFFFFFF91000000 && readNat (myTask t).spad 0x104 4 == 0x55667788)
    && after (.cas true 0 1 2) (mem8 0x100) (fun t => readNat (myTask t).spad 0x100 8 == 0x910000007F00FF80)
    && after (.cas true 0 1 2) (mem8 0x108) (fun t => readNat (myTask t).spad 0x108 8 == 0x1122334455667788)) = true :=
      by decide

/-- R231, R32: AMOX adds with sign to 128 bits. -/
theorem test_exec_amox : after (.amox { sz := true, d := 4, k := 5, a := 1, b := 3 })
    (machine { pc := 0x1000, g := [(1, 0x100), (3, 0xFFFFFFFFFFFFFFFF)] } id (fun t => { t with spad := [(0x108, 1)] }))
    (fun t => readNat (myTask t).spad 0x100 16 == 2 ^ 64 - 1 && (regs t).gr 4 == 0 && (regs t).gr 5 == 1 && pcOf t ==
      0x1008)
      = true := by decide

/-- R113, R225, R226. -/
theorem test_exec_full_empty : (after (.stef 2 1 0) (mem8 0x108) (fun t => isFull (myTask t) 0x21
      && after (.ldfe 3 1 0) t (fun u => !isFull (myTask u) 0x21 && (regs u).gr 3 == 0x1122334455667788))
    && after (.setf 1) (mem8 0x100) (fun t => isFull (myTask t) 0x20
      && after (.ldff 3 1 0) t (fun u => isFull (myTask u) 0x20 && (regs u).gr 3 == 0x910000007F00FF80)
      && after (.feq 3 1) t (fun u => (regs u).gr 3 == 1) && after (.sete 1) t (fun u => !isFull (myTask u) 0x20))
    && after (.ldfe 3 1 0) (mem8 0x100) (fun t => pcOf t == 0x1000 && (me t).wait.isSome)
    && after (.stfl 2 1 0) (mem8 0x100) (fun t => isFull (myTask t) 0x20)) = true := by decide

/-- R238, R240, R65. -/
def sems : State :=
  machine { pc := 0x1000, g := [(1, 3), (2, 0x80000001)] } id
    (fun t => { t with sems := [(7, { count := 5 }),
      (8, { count := 0x7FFFFFFF })], eng := { t.eng with fifo1 := [9, 10] } })
theorem test_exec_semaphores : (after (.swait 3 1 7) sems (fun t => ((myTask t).sem 7).count == 2 && (regs t).gr 3 == 5)
    && after (.swait 3 1 9) sems (fun t => pcOf t == 0x1000 && (me t).wait.isSome)
    && after (.ssig 1 8) sems (fun t => ((myTask t).sem 8).count == 0x7FFFFFFF && ((myTask t).sem 8).e)
    && after (.sset 3 2 7) sems (fun t => ((myTask t).sem 7).count == 1 && ((myTask t).sem 7).e && (regs t).gr 3 == 5
      && after (.srdc 3 7) t (fun u => (regs u).gr 3 == 0x80000001 && !((myTask u).sem 7).e)
      && after (.srd 3 7) t (fun u => (regs u).gr 3 == 0x80000001 && ((myTask u).sem 7).e))
    && after (.pop 3 1) sems (fun t => (regs t).gr 3 == 9 && (myTask t).fifo 1 == [10])
    && after (.pop 3 0) sems (fun t => pcOf t == 0x1000)) = true := by decide

/-- R199, R256: VCTL has three bits; the old value comes back, and CSRS and CSRC change bits. -/
theorem test_exec_csr : (after (.csrw 3 1 0x41) (two 7 4) (fun t => (regs t).gr 3 == 0 && (myTask t).vec.vctl == 7
      && after (.csrc 3 2 0x41) t (fun u => (regs u).gr 3 == 7 && (myTask u).vec.vctl == 3)
      && after (.csrs 3 0 0x41) t (fun u => (regs u).gr 3 == 7 && (myTask u).vec.vctl == 7)
      && after (.csrr 3 0x41) t (fun u => (regs u).gr 3 == 7))
    && after (.csrw 3 1 0x41) (two 0xFFF 0) (fun t => (myTask t).vec.vctl == 7)) = true := by decide

/-- R70, R172 to R174, R241, R222, R182: traps hold their cause, ILEN and TVAL. -/
theorem test_exec_traps : (after (.trap 0x42) (two 0 0) (fun t => (myTask t).trap.tcause == 32 + 2 ^ 13 && (myTask
  t).trap.tval == 0x42
        && (myTask t).trap.tpc == 0x1000)
    && after .brk (two 0 0) (fun t => (myTask t).trap.tcause == 29 + 2 ^ 13)
    && after (.encodingNotInstruction .zeroWord) (two 0 0) (fun t => (myTask t).trap.tcause == 3 + 2 ^ 13)
    && after (.chk 1) (machine { pc := 0x1000, g := [(1, 9)], poison := [(1, 6)] }) (fun t =>
        (myTask t).trap.tcause == 6 + 64 + 2 ^ 13 && (myTask t).trap.tval == 9)
    && after (.ldd 3 1 0 0) (two 0x104 0) (fun t => (myTask t).trap.tcause == 6 + 2 ^ 13 && (myTask t).trap.tval ==
      0x104)) = true := by
  decide
/-- R182: poison passes on. -/
theorem test_exec_poison : after (.add 3 2 1) (machine { pc := 0x1000, g := [(1, 9), (2, 1)], poison := [(1, 6)] })
    (fun t => (regs t).gr 3 == 9 && (regs t).poisonOf 3 == 6) = true := by decide

/-- R223, R200: SFORK takes slot 1, SEXIT ends the strand. -/
theorem test_exec_strands : (after (.sfork 3 1 2) (two 0x2000 5) (fun t => (regs t).gr 3 == 1 && ((myTask t).strand
  1).live
        && ((myTask t).strand 1).r.pc == 0x2000 && ((myTask t).strand 1).r.gr 1 == 5)
    && after .sexit (two 0 0) (fun t => !(me t).live)) = true := by decide

/-- R259, R265, R268: a vector instruction enters queue 0, and the vector engine computes it: INT8 127 + 1 wraps, and
saturates with SAT; the shape is one row of 4 bytes. -/
def vecs : State :=
  machine { pc := 0x1000 } id
    (fun t => { t with vec := { t.vec with vsh := 0x401, v := [(1, 0x807F01), (2, 0xFF01FF)] } })
theorem test_exec_vadd : after (.vadd { vd := 3, va := 1, vb := 2, et := 0 }) vecs (fun t => ((myTask t).queue
  0).length == 1
    && pcOf t == 0x1008 && after .veExecute t (fun u => (myTask u).vreg 3 == 0x7F8000 && (myTask u).queue 0 == [])) =
      true := by
  decide +kernel
theorem test_exec_vadd_sat : after (.vadd { vd := 3, va := 1, vb := 2, et := 0, sat := true }) vecs (fun t =>
    after .veExecute t (fun u => (myTask u).vreg 3 == 0x807F00)) = true := by decide +kernel

/-- R335: the slices, P and the A80 sums of its worked values; 1.0 + 2^-69 is a tie that goes to 1.0. -/
theorem test_slices : sliceA 0x3FC0 = [0x74, 0x74, 0, 0] ∧ sliceB 0x3FA2 = [0x72, 0x40, 0x72, 0x40]
    ∧ sliceA 0xC000 = [0xF0, 0xF0, 0x80, 0x80] ∧ sliceP 0x6000 0x3FC0 0x3F00 = (.num false 0x6000 1 (-15), 0)
    ∧ sliceP (-20736) 0xC000 0x3FA2 = (.num true 20736 1 (-13),
      0) ∧ (sliceP 0 0x7F80 0x0000).2 = fInvalid := by decide +kernel
theorem test_slice_sums : sliceAdd 0 0x4000 0x3F80 0x3F80 = (0x3FF00000000000000000, 0)
    ∧ sliceAdd 0x3FF00000000000000000 0x4000 0x2E00 0x2E80 = (0x3FF00000000000000000, fInexact) := by decide +kernel

/-- R399: a store of four of a word's eight bytes counts the one FP32 element it touches, at offset 4; through a mapping made
after MONSET it counts none. -/
theorem test_monitor_touches :
    let m : Monitor := { base := 0x100000000000, limit := 0x100000000010, rec_ := 4, fmt := 0, pages := [(2 ^ 27,
      0x20000)],
                         maps := [(2 ^ 27, 0x20000)] }
    monElems m 0x100000000000 0x20000 [4, 5, 6, 7] = [(4, 0x20004)] ∧ monElems m 0x100000100000 0x20000 [4, 5, 6,
      7] = [] :=
  by decide +kernel

/-- R437: a channel goes one stage down: from full rate to half rate, although spares are left. -/
theorem test_channel_half_rate :
    (match exec .channelSubstitution ({ State.reset with sel := { item := 70 } } : State) with
      | .next t => t.service.channels
      | .fault _ => []
      | .refused _ => []) = [(70, 1)] := by decide +kernel

/-! ### States that meet the hypotheses of the statements, clause by clause -/

/-- A second task, a second strand, registers, predicates, poison in g9, an uncorrectable word 0 of the scratchpad. -/
def w : State :=
  let g : SMap Word := [(1, 0x100), (2, 0x80000001), (5, 0x5FFFF8), (6, 0x200)]
  let other : Strand := { live := true, used := true, r := { pc := 0x2000 } }
  let spad : SMap Byte := [(0x100, 0x80), (0x101, 0xFF), (0x103, 0x7F), (0x107, 0x91)]
  let s := machine { pc := 0x1000, g := g, preds := 2, poison := [(9, 6)] } id
    (fun t => { t with spad := spad, badWords := [0], strands := SMap.put 1 other t.strands })
  { s with tasks := SMap.put 3 { launch := 1, spad := [(5, 5)], badWords := [0] } s.tasks, nextTask := 4 }

/-- The strand's g1 holds a base. -/
def wbase (v : Word) : State := withStrand w (fun x => { x with r := x.r.setG 1 v })

/-- A translation of a host page in total store order. -/
def whome : State :=
  w.modDie 0 (fun d => { d with coreTlb := [(0, [{ fn := 1, page := pageOf 0x102000000000, pa := 2 ^ 46, vr := true, hr := true, user := true, tso := true }])] })

theorem witness_TwoSourceResult_g0 : ∃ f, alu2 (.div 0 1 63) = some (0, 1, 63, f) ∧ Runs w ∧ Ready w [0, 1, 63] ∧
    Clean w [1, 63] :=
  ⟨_, rfl, by constructor <;> decide, by unfold Ready; decide, by unfold Clean Sound; decide⟩

theorem witness_TwoSourceResult_g63 : ∃ f, alu2 (.add 63 2 2) = some (63, 2, 2, f) ∧ Runs w ∧ Ready w [63, 2, 2] ∧
    Clean w [2, 2] :=
  ⟨_, rfl, by constructor <;> decide, by unfold Ready; decide, by unfold Clean Sound; decide⟩

theorem witness_OneSourceResult : ∃ f, alu1 (.addil 63 0 0x80000000) = some (63, 0, f) ∧ Runs w ∧ Ready w [63, 0] ∧
    Clean w [0] :=
  ⟨_, rfl, by constructor <;> decide, by unfold Ready; decide, by unfold Clean Sound; decide⟩

theorem witness_OneSourceResult_literals : Runs w ∧ Ready w [0] ∧ Ready w [9] :=
  ⟨by constructor <;> decide, by unfold Ready; decide, by unfold Ready; decide⟩

theorem witness_PoisonPassesOn_two : (∃ a b f, alu2 (.sub 0 9 1) = some (0, a, b, f) ∧ [9, 1] = [a, b]) ∧ Runs w ∧
    Ready w [0, 9, 1] ∧ Sound w [9, 1] ∧
    ([9, 1] : List Reg).find? (fun r => (regs w).poisonOf r.toNat != 0) = some 9 :=
  ⟨⟨_, _, _, rfl, rfl⟩, by constructor <;> decide, by unfold Ready; decide, by unfold Sound; decide, by decide⟩

theorem witness_PoisonPassesOn_one : (∃ a f, alu1 (.clz 63 9) = some (63, a, f) ∧ [9] = [a]) ∧ Runs w ∧
    Ready w [63, 9] ∧ Sound w [9] ∧ ([9] : List Reg).find? (fun r => (regs w).poisonOf r.toNat != 0) = some 9 :=
  ⟨⟨_, _, rfl, rfl⟩, by constructor <;> decide, by unfold Ready; decide, by unfold Sound; decide, by decide⟩

theorem witness_PoisonPassesOn_sel : (∃ p a b, Instr.sel 0 3 1 9 = .sel p 3 a b ∧ [1, 9] = [a, b]) ∧ Runs w ∧
    Ready w [3, 1, 9] ∧ Sound w [1, 9] ∧
    ([1, 9] : List Reg).find? (fun r => (regs w).poisonOf r.toNat != 0) = some 9 :=
  ⟨⟨_, _, _, rfl, rfl⟩, by constructor <;> decide, by unfold Ready; decide, by unfold Sound; decide, by decide⟩

theorem witness_PoisonPassesOn_lds_copy : Runs w ∧ Ready w [0, 9] ∧ Sound w [9] ∧ FreeLaunch w ∧
    (regs w).poisonOf (9 : Reg).toNat ≠ 0 :=
  ⟨by constructor <;> decide, by unfold Ready; decide, by unfold Sound; decide, by constructor <;> decide,
    by decide⟩

theorem witness_PoisonPassesOn_lds_defer : Clean w [1] ∧
    ((regs w).gr (5 : Reg).toNat + (1 : BitVec 8).signExtend 64 * 8).toNat % 8 = 0 ∧
    placeOf w w.sel.task (regs w).her false (me w).walkFault ((regs w).gr (5 : Reg).toNat + (1 : BitVec 8).signExtend 64 * 8) 8 .read = .error (.trap { cause := 9, tval := 0x600000 })
    ∧ ((regs (wbase 0x104)).gr 1 + (0 : BitVec 8).signExtend 64 * 8).toNat % 8 ≠ 0 ∧
    (0xFFFFFFFFFFFFFFF8 + (1 : BitVec 8).signExtend 64 * 8 : Word).toNat / 8 ∈ (myTask w).badWords ∧
    OwnBytes w (0xFFFFFFFFFFFFFFF8 + (1 : BitVec 8).signExtend 64 * 8) 8 ∧ w.sel.lazy = false ∧ Quiet w :=
  ⟨by unfold Clean Sound; decide, by decide, rfl, by decide, by decide, by unfold OwnBytes; decide, by decide,
    by constructor <;> decide⟩

theorem witness_PoisonPassesOn_lds_host : ∃ p,
    placeOf whome whome.sel.task false false none 0x102000000040 8 .read = .ok p ∧ p.tso = true :=
  ⟨_, by rfl, by decide⟩

theorem witness_PoisonPassesOn_escapes : (me w).notReady = [] ∧ (regs w).hnd = false ∧ (regs w).her = false ∧
    Sound w (passedOut w (.std 9 1 0 0)) ∧
    (passedOut w (.std 9 1 0 0)).find? (fun r => (regs w).poisonOf r.toNat != 0) = some 9 ∧
    (passedOut w (.cmpEq 1 9 2)).find? (fun r => (regs w).poisonOf r.toNat != 0) = some 9 ∧
    (passedOut w (.csrw 1 9 0x41)).find? (fun r => (regs w).poisonOf r.toNat != 0) = some 9 ∧
    (passedOut w (.loops 1 9 1)).find? (fun r => (regs w).poisonOf r.toNat != 0) = some 9 ∧
    (passedOut w (.ssig 9 1)).find? (fun r => (regs w).poisonOf r.toNat != 0) = some 9 ∧
    (passedOut w (.cpy true { a := 1, b := 9 })).find? (fun r => (regs w).poisonOf r.toNat != 0) = some 9 ∧
    (passedOut w (.mclaim {})).find? (fun r => (regs w).poisonOf r.toNat != 0) = none :=
  ⟨by decide, by decide, by decide, by unfold Sound; decide, by decide, by decide, by decide, by decide, by decide,
    by decide, by decide⟩

theorem witness_PredicateResult_cmp : ∃ f, cmpTable (.cmpLt 0 1 2) = some (0, 1, .inl 2, f) ∧ Runs w ∧
    Ready w (1 :: operandRegs (.inl 2)) ∧ Clean w (1 :: operandRegs (.inl 2)) :=
  ⟨_, rfl, by constructor <;> decide, by unfold Ready; decide, by unfold Clean Sound; decide⟩

theorem witness_PredicateResult_cmpi : ∃ f,
    cmpTable (.cmpiLtu 15 0 0xFFF) = some (15, 0, .inr 0xFFFFFFFFFFFFFFFF, f) ∧ Runs w ∧
    Ready w (0 :: operandRegs (.inr 0xFFFFFFFFFFFFFFFF)) ∧ Clean w (0 :: operandRegs (.inr 0xFFFFFFFFFFFFFFFF)) :=
  ⟨_, rfl, by constructor <;> decide, by unfold Ready; decide, by unfold Clean Sound; decide⟩

theorem witness_PredicateResult_plog : ∃ f, plog (.pandn 15 0 1) = some (15, 0, 1, f) ∧ Runs w :=
  ⟨_, rfl, by constructor <;> decide⟩

theorem witness_PredicateResult_sel : Runs w ∧ Ready w [0, 1, 2] ∧ Clean w [1, 2] :=
  ⟨by constructor <;> decide, by unfold Ready; decide, by unfold Clean Sound; decide⟩

theorem witness_BranchResult_b : Runs w ∧ Bool.xor ((regs w).pred (0 : BitVec 4).toNat) false = true ∧
    Bool.xor ((regs w).pred (15 : BitVec 4).toNat) false = false :=
  ⟨by constructor <;> decide, by decide, by decide⟩

theorem witness_BranchResult_jalr : Runs w ∧ Ready w [6, 6] ∧ Clean w [6] ∧
    ((regs w).gr (6 : Reg).toNat + (0x800 : BitVec 12).signExtend 64).toNat % 4 = 0 :=
  ⟨by constructor <;> decide, by unfold Ready; decide, by unfold Clean Sound; decide, by decide⟩

theorem witness_BranchResult_bl : Runs w ∧ Ready w [0] :=
  ⟨by constructor <;> decide, by unfold Ready; decide⟩

theorem witness_BranchResult_jalr_traps : Runs w ∧ Ready w [6] ∧ (regs w).hnd = false ∧ (regs w).her = false ∧
    (me w).saved = none ∧ Clean w [6] ∧ ((regs w).gr (6 : Reg).toNat + (1 : BitVec 12).signExtend 64).toNat % 4 ≠ 0
    ∧ Ready w [9] ∧ Sound w [9] ∧ (regs w).poisonOf (9 : Reg).toNat ≠ 0 :=
  ⟨by constructor <;> decide, by unfold Ready; decide, by decide, by decide, by decide,
    by unfold Clean Sound; decide, by decide, by unfold Ready; decide, by unfold Sound; decide, by decide⟩

theorem witness_LoadResult : ∃ ea, loadTable (.ldd 3 5 15 0) = some (3, 5, 15, 8, false, ea) ∧ Runs w ∧
    Ready w [3, 5] ∧ Clean w [5] ∧ FreeLaunch w ∧ Quiet w ∧ w.sel.lazy = false ∧
    ((regs w).gr (5 : Reg).toNat + (0 : BitVec 8).signExtend 64 * 8).toNat % 8 = 0 ∧
    OwnBytes w ((regs w).gr (5 : Reg).toNat + (0 : BitVec 8).signExtend 64 * 8) 8 ∧
    OwnSound w ((regs w).gr (5 : Reg).toNat + (0 : BitVec 8).signExtend 64 * 8) 8 :=
  ⟨_, rfl, by constructor <;> decide, by unfold Ready; decide, by unfold Clean Sound; decide,
    by constructor <;> decide, by constructor <;> decide, by decide, by decide, by unfold OwnBytes; decide,
    by unfold OwnSound; decide⟩

theorem witness_StoreResult : ∃ ea, storeTable (.stdl 2 5 15 0) = some (2, 5, 15, 8, ea) ∧ Runs w ∧ Ready w [2, 5]
    ∧ Clean w [5, 2] ∧ FreeLaunch w ∧ Quiet w ∧ w.sel.lazy = false ∧
    ((regs w).gr (5 : Reg).toNat + (0 : BitVec 32).signExtend 64).toNat % 8 = 0 ∧
    OwnBytes w ((regs w).gr (5 : Reg).toNat + (0 : BitVec 32).signExtend 64) 8 :=
  ⟨_, rfl, by constructor <;> decide, by unfold Ready; decide, by unfold Clean Sound; decide,
    by constructor <;> decide, by constructor <;> decide, by decide, by decide, by unfold OwnBytes; decide⟩

theorem witness_AtomicResult_amo : ∃ f, atomicTable (.amoMin true 1 5 2) = some (some 1, 5, 2, true, f) ∧ Runs w ∧
    Ready w ((some 1 : Option Reg).toList ++ [5, 2]) ∧ Clean w [5, 2] ∧ FreeLaunch w ∧ Quiet w ∧ w.sel.lazy = false
    ∧ ((regs w).gr (5 : Reg).toNat).toNat % 8 = 0 ∧ OwnBytes w ((regs w).gr (5 : Reg).toNat) 8 ∧
    OwnSound w ((regs w).gr (5 : Reg).toNat) 8 :=
  ⟨_, rfl, by constructor <;> decide, by unfold Ready; decide, by unfold Clean Sound; decide,
    by constructor <;> decide, by constructor <;> decide, by decide, by decide, by unfold OwnBytes; decide,
    by unfold OwnSound; decide⟩

theorem witness_AtomicResult_red : ∃ f, atomicTable (.redFadd32 1 2) = some (none, 1, 2, false, f) ∧ Runs w ∧
    Ready w ((none : Option Reg).toList ++ [1, 2]) ∧ Clean w [1, 2] ∧ FreeLaunch w ∧ Quiet w ∧ w.sel.lazy = false ∧
    ((regs w).gr (1 : Reg).toNat).toNat % 4 = 0 ∧ OwnBytes w ((regs w).gr (1 : Reg).toNat) 4 ∧
    OwnSound w ((regs w).gr (1 : Reg).toNat) 4 :=
  ⟨_, rfl, by constructor <;> decide, by unfold Ready; decide, by unfold Clean Sound; decide,
    by constructor <;> decide, by constructor <;> decide, by decide, by decide, by unfold OwnBytes; decide,
    by unfold OwnSound; decide⟩

theorem witness_AtomicResult_cas : Runs w ∧ Ready w [0, 5, 2] ∧ Clean w [5, 2, 0] ∧ FreeLaunch w ∧ Quiet w ∧
    w.sel.lazy = false ∧ ((regs w).gr (5 : Reg).toNat).toNat % 8 = 0 ∧ OwnBytes w ((regs w).gr (5 : Reg).toNat) 8 ∧
    OwnSound w ((regs w).gr (5 : Reg).toNat) 8 ∧
    readNat (myTask w).spad ((regs w).gr (5 : Reg).toNat).toNat 8 = ((regs w).gr (0 : Reg).toNat).toNat % 2 ^ 64 ∧
    readNat (myTask w).spad ((regs w).gr (5 : Reg).toNat).toNat 8 ≠ ((regs w).gr (1 : Reg).toNat).toNat % 2 ^ 64 :=
  ⟨by constructor <;> decide, by unfold Ready; decide, by unfold Clean Sound; decide, by constructor <;> decide,
    by constructor <;> decide, by decide, by decide, by unfold OwnBytes; decide, by unfold OwnSound; decide,
    by decide, by decide⟩

theorem witness_AtomicResult_function : ((32 = 32 ∨ 32 = 64) ∧ 0x80000000 < 2 ^ 32 ∧ 1 < 2 ^ 32) ∧
    (atomOp .min 32 0x80000000 1 = 0x80000000 ∧ atomOp .minu 32 0x80000000 1 = 1 ∧ atomOp .fmin32 32 0xFFC00000
      0xFF800000 = 0xFFC00000)
    :=
  ⟨by decide, by decide +kernel⟩

/-- A loop of the strand on counter 1 that ends at its instruction, in iteration v of 2; loop 3 of the other strand. -/
def wl (v : Nat) : State :=
  let l1 : LoopState := { act := true, own := 0, stop := 0x1000, start := 0xF00, count := 2, value := w64 v }
  let l3 : LoopState := { act := true, own := 1, stop := 0x1000 }
  withTask w (fun t => { t with loops := [(1, l1), (3, l3)] })

/-- A strand whose code page is mapped; everything it fetches past its first instruction reads 0. -/
def wf : State := { State.reset.withFetchWord 32 (si 0x10 0 0 1) with sel := w.sel }

/-- Eight bytes of a table. -/
def put8 (m : SMap Byte) (a v : Nat) : SMap Byte := writeBytes m a (bytesOf v 8)

/-- Tables that map 128 GiB of HBM from 2^44 and of host memory, in total store order, from 2^44 + 2^37. -/
def tables : SMap Byte :=
  [(0x10000, 1), (0x10001, 0x20), (0x10002, 1), (0x12000, 0x1F), (0x13000, 0x1F), (0x13005, 0x40), (0x14000, 1),
    (0x14001, 0x60), (0x14002, 1),
   (0x16400, 0x3F), (0x16401, 1), (0x16408, 0x3F), (0x16409, 1), (0x1640D, 0x40)]

/-- A state with these tables for function 1, whose trap records lie at 2^44 + 0x8000. -/
def mapped (s : State) : State :=
  let f : Function := { s.function 1 with hostroot := 0x10000, vfroot := 0x14000, recbase := 0x100000008000 }
  { s with mem := tables, functions := SMap.put 1 f s.functions }

/-- The launch changed. -/
def withLaunch (s : State) (f : Launch → Launch) : State := s.modLaunch 1 f

/-- The launch's action for a software trap; TVEC is set. -/
def wt (a : Nat) : State :=
  let s := withTask (mapped w) (fun t => { t with trap := { t.trap with tvec := 0x100000002000 } })
  withLaunch { s with mem := writeBytes s.mem 0x110 [BitVec.ofNat 8 a] } (fun l => { l with actions := 0x100000000100 })

/-- FORWARD for a software trap with a TVEC and a RECBASE of a choice. -/
def wtv (tvec recbase : Word) : State :=
  (withTask (wt 3) (fun t => { t with trap := { t.trap with tvec := tvec } })).modFunction 1 (fun f => { f with recbase := recbase })

/-- REPLAY for a software trap that was replayed before. -/
def wtagain : State := withStrand (wt 1) (fun x => { x with lastReplay := some (32, 0x1000) })

/-- A handler of the strand, which the freeze of its trap lets run. -/
def wh : State :=
  let saved : StrandRegs := { regs w with pc := 0x3000 }
  let s := withStrand w (fun x => { x with saved := some saved, savedNotReady := [7], r := { x.r with hnd := true } })
  let trap : TrapRegs := { tpc := 0x3000, tcause := w64 (2 ^ 13 * 2) }
  withTask s (fun t => { t with freeze := some { strand := 0, queue := none, stamp := 0 }, trap := trap })

/-- No slot is free. -/
def wfull : State := withLaunch w (fun l => { l with strands := 2 })

/-- The launch is deterministic; a strand holds CSR 0x041. -/
def wdet1 (h : Option (Nat × Bool)) : State :=
  withTask (withLaunch w (fun l => { l with det := true })) (fun t =>
    { t with recs := { t.recs with csrHolder := h.elim [] (fun x => [(0x041, x)]) } })

/-- An access of the strand to another scratchpad is on its way. -/
def wouts : State :=
  withStrand w (fun x => { x with outs := [{ id := 7, acc := { home := .spad 3, addr := 8, size := 8, cls := 0 } }] })

/-- Register g5 holds an uncorrectable error, in the lead or in the guard. -/
def wbad : State := withStrand w (fun x => { x with r := { x.r with bad := [5] } })
def wguard : State := withStrand w (fun x => { x with r := { x.r with guardBad := [5] } })

/-- Loops of the strand on counters 1, the inner one, and 3 that end at its instruction. -/
def wl2 (v1 v3 : Nat) : State :=
  let l1 : LoopState := { act := true, own := 0, stop := 0x1000, start := 0xF00, count := 2, value := w64 v1, depth := 1 }
  let l3 : LoopState := { act := true, own := 0, stop := 0x1000, start := 0xE00, count := 5, value := w64 v3 }
  withTask w (fun t => { t with loops := [(1, l1), (3, l3)], vec := { t.vec with vsh := 0x401 } })

/-- The launch writes a log, and the scheduler log of its die has no room. -/
def wnoroom : State := withLaunch w (fun l => { l with log := true })

/-- A handler of the strand, for a trap of the head of copy queue 0. -/
def whe : State :=
  let e : Entry := { cmd := .fill { ss := 9, si := 1 }, pc := 0x900, started := true, progress := 3, serial := 4 }
  withTask wh (fun t => { t with trap := { t.trap with tcause := w64 (8 + 2 ^ 8 + 2 ^ 9 * 3) }, queues := [(3, [e, { serial := 5 }])] })

/-- A strand in heritage state whose command is done, with an error when err is set. -/
def whr (err : Bool) : State :=
  let e : Entry := { cmd := .mzero { ss := 9, si := 1 }, pc := 0x3000, started := true, finished := true, err := err }
  withStrand w (fun x => { x with saved := some { regs w with pc := 0x3000 }, routine := some e, r := { x.r with her := true } })

theorem witness_CountedLoops_start : Runs (wl 0) ∧ Ready (wl 0) [1] ∧ Clean (wl 0) [1] ∧
    (((myTask (wl 0)).loop (1 : BitVec 2).toNat).act = true → ((myTask (wl 0)).loop (1 : BitVec 2).toNat).own = (wl
      0).sel.strand)
    ∧ (regs (wl 0)).gr (1 : Reg).toNat ≠ 0 :=
  ⟨by constructor <;> decide, by unfold Ready; decide, by unfold Clean Sound; decide, by decide, by decide⟩

theorem witness_CountedLoops_none : ∃ p, Runs wf ∧ Ready wf [0] ∧ Clean wf [0] ∧
    (((myTask wf).loop (0 : BitVec 2).toNat).act = true → ((myTask wf).loop (0 : BitVec 2).toNat).own = wf.sel.strand)
    ∧ (regs wf).gr (0 : Reg).toNat = 0 ∧
    fetchParcel wf wf.sel.task wf.sel.strand (pcOf wf + 4 * (1 : BitVec 12).setWidth 64) = .ok p ∧ p % 4 ≠ 3 :=
  ⟨_, by constructor <;> decide, by unfold Ready; decide, by unfold Clean Sound; decide, by decide, by decide, rfl,
    by decide⟩

theorem witness_CountedLoops_end : Runs (wl 0) ∧ (regs (wl 0)).hnd = false ∧ (regs (wl 0)).her = false ∧
    OnlyLoopEnd (wl 0) 1 ∧ (wl 0).sel.task = 1 ∧
    ((myTask (wl 0)).loop 1).value.toNat + 1 < ((myTask (wl 0)).loop 1).count.toNat ∧ Runs (wl 1) ∧
    OnlyLoopEnd (wl 1) 1 ∧ ¬ ((myTask (wl 1)).loop 1).value.toNat + 1 < ((myTask (wl 1)).loop 1).count.toNat :=
  ⟨by constructor <;> decide, by decide, by decide, by unfold OnlyLoopEnd; decide, by decide, by decide,
    by constructor <;> decide, by unfold OnlyLoopEnd; decide, by decide⟩

theorem witness_CountedLoops_falls_two : FallsOn (wl2 0 0) (.add 3 1 2) :=
  .two _ _ _ _ _ rfl (by unfold Ready; decide) (by unfold Clean Sound; decide)

theorem witness_CountedLoops_falls_one : FallsOn (wl2 0 0) (.clz 63 1) :=
  .one _ _ _ _ rfl (by unfold Ready; decide) (by unfold Clean Sound; decide)

theorem witness_CountedLoops_falls_load : FallsOn (wl2 0 0) (.ldd 3 5 15 0) :=
  .load _ _ _ _ _ _ _ rfl (by unfold Ready; decide) (by unfold Clean Sound; decide) (by constructor <;> decide)
    (by constructor <;> decide) (by decide) (by decide) (by unfold OwnBytes; decide) (by unfold OwnSound; decide)

theorem witness_CountedLoops_falls_store : FallsOn (wl2 0 0) (.std 2 5 15 0) :=
  .store _ _ _ _ _ _ rfl (by unfold Ready; decide) (by unfold Clean Sound; decide) (by constructor <;> decide)
    (by constructor <;> decide) (by decide) (by decide) (by unfold OwnBytes; decide)

theorem witness_CountedLoops_falls_vector : FallsOn (wl2 0 0) (.vmov { vd := 1 }) :=
  .vector _ none none none _ rfl rfl (by constructor <;> decide) (by unfold Ready; decide)
    (by unfold Clean Sound; decide) ⟨fun e h => (nomatch (show (none : Option Word) = some e from h)), by decide,
      fun n h => (nomatch h), fun fn f h => (nomatch h), by decide⟩

theorem witness_CountedLoops_falls_copy : FallsOn (wl2 0 0) (.flush 0 {}) :=
  .copy _ rfl (by intro f h; cases h) (by constructor <;> decide) (by unfold Ready; decide)
    (by unfold Clean Sound; decide) (by decide)

theorem witness_CountedLoops_two : Runs (wl2 1 4) ∧ TwoLoopEnds (wl2 0 0) 1 3 ∧ TwoLoopEnds (wl2 1 0) 1 3 ∧
    TwoLoopEnds (wl2 1 4) 1 3 ∧
    (goesBack ((myTask (wl2 0 0)).loop 1) = true ∧ goesBack ((myTask (wl2 1 0)).loop 1) = false ∧ goesBack ((myTask
      (wl2 1 4)).loop 3) = false)
    ∧ OnlyLoopEnd (wl 0) 1 :=
  ⟨by constructor <;> decide, by constructor <;> decide, by constructor <;> decide, by constructor <;> decide,
    by decide, by unfold OnlyLoopEnd; decide⟩

theorem witness_PlainSystem : Runs w ∧ Ready w [5] ∧ Clean w [5] :=
  ⟨by constructor <;> decide, by unfold Ready; decide, by unfold Clean Sound; decide⟩

theorem witness_TrapTaken : Runs w ∧ (regs w).hnd = false ∧ (regs w).her = false ∧ Ready w [9] ∧ Sound w [9] ∧
    (regs w).poisonOf (9 : Reg).toNat ≠ 0 :=
  ⟨by constructor <;> decide, by decide, by decide, by unfold Ready; decide, by unfold Sound; decide, by decide⟩

theorem witness_TrapTaken_bad : Runs wbad ∧ (regs wbad).hnd = false ∧ (regs wbad).her = false ∧ Ready wbad [5] ∧
    (5 : Reg).toNat ∈ (regs wbad).bad ∧ Runs wguard ∧ (5 : Reg).toNat ∈ (regs wguard).guardBad :=
  ⟨by constructor <;> decide, by decide, by decide, by unfold Ready; decide, by decide, by constructor <;> decide,
    by decide⟩

theorem witness_TrapActions_kill : Runs w ∧ (regs w).hnd = false ∧ (regs w).her = false ∧
    tableAction w (myLaunch w) 32 = 0 ∧ Runs (wt 0) ∧ tableAction (wt 0) (myLaunch (wt 0)) 32 = 0 ∧
    slogRoom w (myTask w).die (myTask w).launch = true ∧
    slogRoom (wt 0) (myTask (wt 0)).die (myTask (wt 0)).launch = true :=
  ⟨by constructor <;> decide, by decide, by decide, by decide, by constructor <;> decide +kernel,
    by decide +kernel, by decide, by decide +kernel⟩

theorem witness_TrapActions_no_tvec : tableAction (wtv 0 1) (myLaunch (wtv 0 1)) 32 = 3 ∧
    (myTask (wtv 0 1)).trap.tvec = 0 ∧ Runs (wtv 0 1) :=
  ⟨by decide +kernel, by decide +kernel, by constructor <;> decide +kernel⟩

theorem witness_TrapActions_no_recbase : tableAction (wtv 4 0) (myLaunch (wtv 4 0)) 32 = 3 ∧
    (myTask (wtv 4 0)).trap.tvec ≠ 0 ∧ ((wtv 4 0).function (myLaunch (wtv 4 0)).fn).recbase = 0 ∧ Runs (wtv 4 0) :=
  ⟨by decide +kernel, by decide +kernel, by decide +kernel, by constructor <;> decide +kernel⟩

theorem witness_TrapActions_again : tableAction wtagain (myLaunch wtagain) 32 = 1 ∧
    (me wtagain).lastReplay = some (32, pcOf wtagain) ∧ Runs wtagain :=
  ⟨by decide +kernel, by decide +kernel, by constructor <;> decide +kernel⟩

theorem witness_TrapActions_held : Runs wnoroom ∧
    slogRoom wnoroom (myTask wnoroom).die (myTask wnoroom).launch = false :=
  ⟨by constructor <;> decide, by decide⟩

theorem witness_TrapActions_forward : Runs (wt 3) ∧ (regs (wt 3)).hnd = false ∧ (regs (wt 3)).her = false ∧
    tableAction (wt 3) (myLaunch (wt 3)) 32 = 3 ∧ (myTask (wt 3)).trap.tvec ≠ 0 ∧
    ((wt 3).function (myLaunch (wt 3)).fn).recbase ≠ 0 :=
  ⟨by constructor <;> decide +kernel, by decide +kernel, by decide +kernel, by decide +kernel, by decide +kernel,
    by decide +kernel⟩

theorem witness_TrapActions_park : Runs (wt 2) ∧ (regs (wt 2)).hnd = false ∧ (regs (wt 2)).her = false ∧
    tableAction (wt 2) (myLaunch (wt 2)) 32 = 2 :=
  ⟨by constructor <;> decide +kernel, by decide +kernel, by decide +kernel, by decide +kernel⟩

theorem witness_TrapActions_replay : Runs (wt 1) ∧ (regs (wt 1)).hnd = false ∧ (regs (wt 1)).her = false ∧
    tableAction (wt 1) (myLaunch (wt 1)) 32 = 1 ∧ (me (wt 1)).lastReplay ≠ some (32, pcOf (wt 1)) :=
  ⟨by constructor <;> decide +kernel, by decide +kernel, by decide +kernel, by decide +kernel, by decide +kernel⟩

theorem witness_TrapReturn : ∃ r, Runs wh ∧ (regs wh).hnd = true ∧ (me wh).saved = some r ∧
    (myTask wh).trap.tcause.getLsbD 8 = false ∧
    (myTask wh).trap.tstatus = w64 (4 * b2n (myLaunch wh).det + 8 * b2n (myLaunch wh).log + 16 * b2n (myLaunch wh).sup)
    ∧ (∀ q, q < 9 → ∀ e ∈ (myTask wh).queue q, e.fault = none) ∧ (myTask wh).feWaiters = [] ∧
    (true = true → loopAt (myTask wh) wh.sel.strand (myTask wh).trap.tpc = none) ∧ (regs wh).her = false :=
  ⟨_, by constructor <;> decide, by decide, rfl, by decide, by decide, by decide, by decide, by decide, by decide⟩

theorem witness_TrapReturn_engine : ∃ r e rest, Runs whe ∧ (regs whe).hnd = true ∧ (regs whe).her = false ∧
    (me whe).saved = some r ∧ (myTask whe).trap.tcause.getLsbD 8 = true ∧
    3 = bitsOf (myTask whe).trap.tcause.toNat 9 4 ∧ (myTask whe).queue 3 = e :: rest ∧
    (myTask whe).trap.tstatus = w64 (4 * b2n (myLaunch whe).det + 8 * b2n (myLaunch whe).log + 16 * b2n (myLaunch
      whe).sup)
    ∧ (∀ q, q < 9 → ∀ e ∈ (myTask whe).queue q, e.fault = none) ∧ (myTask whe).feWaiters = [] :=
  ⟨_, _, _, by constructor <;> decide, by decide, by decide, rfl, by decide, by decide, rfl, by decide, by decide,
    by decide⟩

theorem witness_TrapReturn_heritage : ∃ r, Runs (whr false) ∧ (regs (whr false)).her = true ∧
    (me (whr false)).saved = some r ∧ (myTask (whr false)).trap.tcause.getLsbD 8 = false :=
  ⟨_, by constructor <;> decide, by decide, rfl, by decide⟩

theorem witness_TrapReturn_routine : ∃ r e, Runs (whr true) ∧ (me (whr true)).saved = some r ∧
    (me (whr true)).routine = some e ∧ ((me (whr true)).routine.map (fun e => e.finished)) = some true ∧
    (me (whr true)).routine.all (fun e => !e.skip && e.uses == [] && decide ((linkOf e.cmd).si ≠ 0) && !lateTaint
      (myTask (whr true)) e) = true
    ∧ enabledTrap false false none none = none ∧ loopAt (myTask (whr true)) (whr true).sel.strand 0x3000 = none :=
  ⟨_, _, by constructor <;> decide, rfl, rfl, by decide, by decide +kernel, by decide, by decide⟩

theorem witness_CsrResult : Runs w ∧ Ready w [0, 1] ∧ Clean w [1] ∧ FreeLaunch w :=
  ⟨by constructor <;> decide, by unfold Ready; decide, by unfold Clean Sound; decide, by constructor <;> decide⟩

theorem witness_CsrResult_readOnly : (0x006 : BitVec 10) ∈ csrReadOnly ∧ csrValue w 0x00A = some 0 ∧
    ((wh : State).sel.task = 1 ∧ (regs wh).hnd = true) :=
  ⟨by decide, by rfl, by decide⟩

theorem witness_CsrResult_det : Runs (wdet1 none) ∧ Ready (wdet1 none) [0, 3, 2] ∧ Clean (wdet1 none) [2] ∧
    (myLaunch (wdet1 none)).det = true ∧ (regs (wdet1 none)).hnd = false ∧
    SMap.find 0x041 (myTask (wdet1 (some (1, false)))).recs.csrHolder = some (1, false) ∧
    SMap.find 0x041 (myTask (wdet1 none)).recs.csrHolder = none :=
  ⟨by constructor <;> decide, by unfold Ready; decide, by unfold Clean Sound; decide, by decide, by decide,
    by decide, by decide⟩

theorem witness_CsrResult_noStep :
    (myTask (setReg (csrWrite w w.sel.task w.sel.strand true 0x41 ((regs w).gr 1)) 0 (csrRead w w.sel.task w.sel.strand
      0x41))).dbgctl.getLsbD 0 = false
    :=
  by decide

theorem witness_StrandStartAndEnd_fork : Runs w ∧ Ready w [0, 1, 2] ∧ Clean w [1, 2] ∧ FreeLaunch w ∧
    (regs w).hnd = false ∧ (regs w).her = false ∧ ((regs w).gr (1 : Reg).toNat).toNat % 4 = 0 ∧
    2 < (myLaunch w).strands ∧ ((myTask w).strand 2).live = false ∧
    (∀ j, j < 2 → ((myTask w).strand j).live = true) :=
  ⟨by constructor <;> decide, by unfold Ready; decide, by unfold Clean Sound; decide, by constructor <;> decide,
    by decide, by decide, by decide, by decide, by decide, by decide⟩

theorem witness_StrandStartAndEnd_full : Runs wfull ∧
    (∀ k, k < (myLaunch wfull).strands → k < 8 → ((myTask w).strand k).live = true) :=
  ⟨by constructor <;> decide, by decide⟩

theorem witness_StrandStartAndEnd_exit : Runs (wl 0) ∧ (me (wl 0)).reports = [] ∧ AllNear (wl 0) ∧
    (regs (wl 0)).hnd = false ∧ (regs (wl 0)).her = false ∧ Runs wouts ∧
    (∃ o ∈ (me wouts).outs, o.acc.home ≠ .spad wouts.sel.task) :=
  ⟨by constructor <;> decide, by decide, by constructor <;> decide, by decide, by decide,
    by constructor <;> decide, by decide⟩

/-- Both global pages are cached at the core; g7 names HBM, g8 host memory, g10 and g11 the ranks 32767 of 32768. -/
def wg : State :=
  let e : TlbEntry := { fn := 1, vr := true, vw := true, vx := true, hr := true, hw := true, hx := true, user := true }
  let here : TlbEntry := { e with page := pageOf 0x100000000000, pa := 0 }
  let host : TlbEntry := { e with page := pageOf 0x102000000000, pa := 2 ^ 46, tso := true }
  let s := (mapped w).modDie 0 (fun d => { d with coreTlb := SMap.put 0 [here, host] d.coreTlb })
  let g : SMap Word := [(1, 0x100), (2, 7), (5, 0x5FFFF8), (7, 0x100000004000), (8, 0x102000000040), (10, 0x7FFF), (11,
    0x8000)]
  withStrand s (fun x => { x with r := { x.r with g := g } })

/-- The word at 0x100 is full. -/
def wfe : State := withTask wg (fun t => { t with full := [0x20] })

/-- The largest value stands in the 128-bit word at 0x100. -/
def wx : State := withTask wg (fun t => { t with spad := writeBytes [] 0x100 (bytesOf (2 ^ 127 - 1) 16) })

/-- An access of class 2 to HBM is under way, and a fence of class 3 covers it. -/
def outOf (cls : Nat) : Outstanding := { id := 5, acc := { home := .hbm 0, addr := 0x40, cls := cls } }
def wo (cls : Nat) : State :=
  let f : FenceRec := { mask := 8, scope := 5, outs := [5], entries := [] }
  withStrand wg (fun x => { x with outs := [outOf cls], fences := [f] })

/-- A command of the strand stands in the queue of channel 0. -/
def wq : State := withTask wg (fun t => { t with queues := [(3, [{ cmd := .flush 0 {}, strand := 0 }])] })

/-- A started vector store of the strand stands in its queue. -/
def eVst : Entry := { cmd := .vst { et := 8 }, strand := 0, started := true, pending := [5] }
def wqv : State := withTask wg (fun t => { t with queues := [(0, [eVst])] })

/-- g1 names the launch team; one barrier of it is complete when c is 1; the strand has arrived at barrier 0. -/
def wb (c : Nat) (open_ : Bool) : State :=
  let s := withLaunch w (fun l => { l with barriers := [(0x80 * 64 * 64, c)] })
  let x : Arrival := { shape := 0x80, index := 0, open_ := open_, pc := 0x1000 }
  withStrand s (fun y => { y with r := { y.r with g := [(1, 0x80)] }, arrivals := [x] })

/-- The same before the strand arrives. -/
def wb0 : State := withStrand (wb 0 false) (fun y => { y with arrivals := [] })

/-- Semaphores 7 and 255, FIFO 1 with an element; g1 = 3, g2 the largest increment, g3 the address of s7. -/
def ws : State :=
  let g : SMap Word := [(1, 3), (2, 0xFFFFFFFF), (3, 0x70001C), (4, 4)]
  withTask (withStrand w (fun x => { x with r := { x.r with g := g } }))
    (fun t => { t with sems := [(7, { count := 3 }), (255, { count := 0x7FFFFFFF, e := true })], eng := { t.eng with fifo1 := [9] } })

/-- The head of a copy queue waits for two of s7; strand 1 issues while strand 0 waits for FIFO 1. -/
def wturn : State :=
  let e : Entry := { cmd := .flush 0 { ws := 7, wt := 2 }, wait := some { kind := 2, object := 7, amount := 2 } }
  withTask ws (fun t => { t with queues := [(3, [e])] })
def wpops : State :=
  let s := withStrand ws (fun x => { x with wait := some { kind := 4, object := 1 } })
  { s with sel := { s.sel with strand := 1 } }

/-- A launch block at 0x140, a monitor descriptor at 0x180, a reference at 0x1C0. -/
def wm : State :=
  let block := put8 (put8 (put8 [] 0x140 0x100000005000) 0x148 0x100000001000) 0x150 0x100000006000
  let desc := put8 (put8 (put8 block 0x180 0x100000000000) 0x188 0x100000001000) 0x190 8
  withTask (withStrand wg (fun x => { x with r := { x.r with g := [(1, 0x138), (2, 0x180), (3, 0x1C0)] } })) (fun t => { t with spad := desc })

/-- A deterministic launch, with an alias window and a stamp of the sector at 0x100. -/
def wda (al : List AliasEntry) (st : Option Stamp) : State :=
  let s := withLaunch w (fun l => { l with det := true })
  withTask (withStrand s (fun x => { x with alias_ := al })) (fun t => { t with recs := { t.recs with stamps := st.toList.map (fun x => (4, x)) } })
def aliasOf (writes : Bool) (fences : List (BitVec 16)) : AliasEntry := { ranges := [(0x107, 8)], cls := 3, writes := writes, fences := fences }
def stampOf (k kind party : Nat) : Stamp := { bits := BitVec.ofNat 24 (party + 2 ^ 15 * k), kind := kind }

/-- The smallest and the largest value stand in the word at 0x100, the enable for XW_OVERFLOW is set or clear; g3 = -1. -/
def wxs (low en : Bool) : State :=
  let v : Nat := if low then 2 ^ 127 else 2 ^ 127 - 1
  withTask (withStrand wg (fun x => { x with r := { x.r with g := SMap.set 0 x.r.g 3 0xFFFFFFFFFFFFFFFF } }))
    (fun t => { t with spad := writeBytes [] 0x100 (bytesOf v 16), vec := { t.vec with vctl := if en then 4 else 0 } })

/-- The strand has been forked behind an access of strand 1. -/
def wfk : State :=
  withStrand (wg.modStrand 1 1 (fun x => { x with outs := [outOf 2] })) (fun x => { x with after := some { issuer := 1, outs := [5], entries := [] } })

/-- An access of the strand to a TSO page is under way. -/
def wtso (op : AccOp) : State := withStrand wg (fun x => { x with outs := [{ id := 5, acc := { home := .host 1, addr := 0x40, cls := 2, tso := true, op := op } }] })

/-- A peer, the task of coordinates (1, 0), stands in the team of the strand's launch; g3 names its semaphore 255. -/
def wpeer : State :=
  let s := withLaunch ws (fun l => { l with width := 2 })
  let s2 := s.modTask 3 (fun t => { t with lx := 1 })
  withStrand s2 (fun x => { x with r := { x.r with g := SMap.set 0 x.r.g 3 (w64 (0x10000000000 + 0x800000 + 0x7003FC)) } })

/-- A deterministic launch in which a strand has waited for s7. -/
def wsd (p : Option Nat) : State :=
  withTask (withLaunch ws (fun l => { l with det := true })) (fun t => { t with recs := { t.recs with semWaiter := p.toList.map (fun k => (7, k)) } })

/-- Launches wait on the queue of the strand's launch. -/
def wmq : State := { wm with launches := SMap.put 4 { queue := (myLaunch wm).queue, serial := 2, fn := 1, width := 1, height := 1 } wm.launches }

theorem witness_AccessLeavesOrTraps_leaves_load : ∃ ea p,
    loadTable (.ldwu 3 7 15 0) = some (3, 7, 15, 4, false, ea) ∧
    (∀ d a oc disp, Instr.ldwu 3 7 15 0 ≠ .lds d a oc disp) ∧ Runs wg ∧ Ready wg [3, 7] ∧ Clean wg [7] ∧
    FreeLaunch wg ∧ Quiet wg ∧ (ea ((regs wg).gr (7 : Reg).toNat)).toNat % 4 = 0 ∧
    placeOf wg wg.sel.task (regs wg).her ((4 == 4) && ((15 : BitVec 4) == 15)) (me wg).walkFault (ea ((regs wg).gr (7 :
      Reg).toNat)) 4 .read = .ok p
    ∧ p.home ≠ .spad wg.sel.task ∧ buffersUsed (myTask wg) < 64 :=
  ⟨_, _, rfl, by intros; exact nofun, by constructor <;> decide +kernel, by unfold Ready; decide +kernel,
    by unfold Clean Sound; decide +kernel, by constructor <;> decide +kernel, by constructor <;> decide +kernel,
    by decide +kernel, rfl, by decide +kernel, by decide +kernel⟩

theorem witness_AccessLeavesOrTraps_leaves_store : ∃ ea p, storeTable (.std 2 8 0 0xFF) = some (2, 8, 0, 8, ea) ∧
    Runs wg ∧ Ready wg [2, 8] ∧ Clean wg [8, 2] ∧ FreeLaunch wg ∧ Quiet wg ∧
    (ea ((regs wg).gr (8 : Reg).toNat)).toNat % 8 = 0 ∧
    placeOf wg wg.sel.task (regs wg).her false (me wg).walkFault (ea ((regs wg).gr (8 : Reg).toNat)) 8 .write = .ok p
    ∧ p.home ≠ .spad wg.sel.task ∧ buffersUsed (myTask wg) < 64 :=
  ⟨_, _, rfl, by constructor <;> decide +kernel, by unfold Ready; decide +kernel,
    by unfold Clean Sound; decide +kernel, by constructor <;> decide +kernel, by constructor <;> decide +kernel,
    by decide +kernel, rfl, by decide +kernel, by decide +kernel⟩

theorem witness_AccessLeavesOrTraps_traps :
    (∃ d a oc sg ea, loadTable (.ldh 3 1 0 0xFF) = some (d, a, oc, 2, sg, ea) ∧ (∀ d a oc disp,
      Instr.ldh 3 1 0 0xFF ≠ .lds d a oc disp) ∧ (0xFE : Word) = ea ((regs w).gr a.toNat) ∧ Ready w [a] ∧ Clean w [a])
    ∧
    (∃ d a oc ea, storeTable (.std 2 5 0 0) = some (d, a, oc, 8,
      ea) ∧ (0x5FFFF8 : Word) = ea ((regs w).gr a.toNat) ∧ Ready w [a, d] ∧ Clean w [a, d])
    ∧
    (∃ d a b sz f, atomicTable (.redAdd true 2 1) = some (d, a, b, sz,
      f) ∧ (8 : Nat) = (if sz then 8 else 4) ∧ (0x80000001 : Word) = (regs w).gr a.toNat ∧ Ready w [a, b] ∧ Clean w [a,
      b])
    ∧ (0x80000001 : Word).toNat % 8 ≠ 0 ∧ Runs w ∧ (regs w).hnd = false ∧ (regs w).her = false :=
  ⟨⟨_, _, _, _, _, rfl, by intros; exact nofun, by decide, by unfold Ready; decide, by unfold Clean Sound; decide⟩,
    ⟨_, _, _, _, rfl, by decide, by unfold Ready; decide, by unfold Clean Sound; decide⟩,
    ⟨_, _, _, _, _, rfl, by decide, by decide, by unfold Ready; decide, by unfold Clean Sound; decide⟩, by decide,
    by constructor <;> decide, by decide, by decide⟩

theorem witness_AccessLeavesOrTraps_det_alias : ∃ ea, loadTable (.ldd 3 1 2 0) = some (3, 1, 2, 8, false, ea) ∧
    Runs (wda [aliasOf true [4]] none) ∧ (myLaunch (wda [aliasOf true [4]] none)).det = true ∧
    (myLaunch (wda [aliasOf true [4]] none)).log = false ∧ Quiet (wda [aliasOf true [4]] none) ∧
    (∀ q, 3 ≤ q → q ≤ 7 → ∀ e ∈ (myTask (wda [aliasOf true [4]] none)).queue q,
      e.strand ≠ (wda [aliasOf true [4]] none).sel.strand)
    ∧ Ready (wda [aliasOf true [4]] none) [3, 1] ∧ Clean (wda [aliasOf true [4]] none) [1] ∧
    OwnBytes (wda [aliasOf true [4]] none) 0x100 8 ∧ OwnSound (wda [aliasOf true [4]] none) 0x100 8 ∧
    (me (wda [aliasOf true [4]] none)).alias_.length < 32 ∧
    MeetsAlias (wda [aliasOf true [4]] none) 0x100 8 2 false ∧
    MeetsAlias (wda [aliasOf false []] none) 0x100 8 2 true :=
  ⟨_, rfl, by constructor <;> decide, by decide, by decide, by constructor <;> decide,
    (by intro q h1 h2; interval_cases q <;> decide), by unfold Ready; decide, by unfold Clean Sound; decide,
    by unfold OwnBytes; decide, by unfold OwnSound; decide, by decide,
    ⟨aliasOf true [4], by decide, by decide, by decide, List.forall_mem_singleton.mpr (by decide), (0x107, 8),
      by decide +kernel, by decide +kernel⟩,
    ⟨aliasOf false [], by decide, by decide, by decide, fun _ h => (nomatch h), (0x107, 8), by decide +kernel,
      by decide +kernel⟩⟩

theorem witness_AccessLeavesOrTraps_det_stamps : ∃ x y z,
    stampAt (wda [] (some (stampOf 3 1 0x1000))) 0x100 = some x ∧
    keptFromRead (wda [] (some (stampOf 3 1 0x1000))) x ∧ keptFromWrite (wda [] (some (stampOf 3 1 0x1000))) x ∧
    stampAt (wda [] (some (stampOf 2 1 0))) 0x100 = some y ∧ keptFromWrite (wda [] (some (stampOf 2 1 0))) y ∧
    stampAt (wda [] (some (stampOf 1 2 0))) 0x100 = some z ∧ 2 ≤ z.kind ∧
    (me (wda [] (some (stampOf 2 1 0)))).alias_ = [] ∧ stampAt (wda [] none) 0x100 = none :=
  ⟨_, _, _, rfl, by unfold keptFromRead; decide, by unfold keptFromWrite; decide, rfl,
    by unfold keptFromWrite; decide, rfl, by decide, by decide, by decide⟩

theorem witness_FullEmptyResult_full : Runs wfe ∧ Ready wfe [0, 1] ∧ Clean wfe [1] ∧ FreeLaunch wfe ∧ Quiet wfe ∧
    ((regs wfe).gr (1 : Reg).toNat + (0 : BitVec 8).signExtend 64 * 8).toNat % 8 = 0 ∧
    OwnBytes wfe ((regs wfe).gr (1 : Reg).toNat + (0 : BitVec 8).signExtend 64 * 8) 8 ∧
    OwnSound wfe ((regs wfe).gr (1 : Reg).toNat + (0 : BitVec 8).signExtend 64 * 8) 8 ∧
    NoWaiter wfe ((regs wfe).gr (1 : Reg).toNat + (0 : BitVec 8).signExtend 64 * 8) ∧
    isFull (myTask wfe) 0x20 = true :=
  ⟨by constructor <;> decide +kernel, by unfold Ready; decide +kernel, by unfold Clean Sound; decide +kernel,
    by constructor <;> decide +kernel, by constructor <;> decide +kernel, by decide +kernel,
    by unfold OwnBytes; decide +kernel, by unfold OwnSound; decide +kernel, by unfold NoWaiter; decide +kernel,
    by decide +kernel⟩

theorem witness_FullEmptyResult_empty : Runs wfe ∧ Ready wfe [2, 5] ∧ Clean wfe [5] ∧
    ((regs wfe).gr (5 : Reg).toNat + (0 : BitVec 8).signExtend 64 * 8).toNat % 8 = 0 ∧
    OwnBytes wfe ((regs wfe).gr (5 : Reg).toNat + (0 : BitVec 8).signExtend 64 * 8) 8 ∧
    OwnSound wfe ((regs wfe).gr (5 : Reg).toNat + (0 : BitVec 8).signExtend 64 * 8) 8 ∧
    NoWaiter wfe ((regs wfe).gr (5 : Reg).toNat + (0 : BitVec 8).signExtend 64 * 8) ∧
    isFull (myTask wfe) (0x5FFFF8 / 8) = false ∧ Clean wfe [2] :=
  ⟨by constructor <;> decide +kernel, by unfold Ready; decide +kernel, by unfold Clean Sound; decide +kernel,
    by decide +kernel, by unfold OwnBytes; decide +kernel, by unfold OwnSound; decide +kernel,
    by unfold NoWaiter; decide +kernel, by decide +kernel, by unfold Clean Sound; decide +kernel⟩

theorem witness_ExactAndRankedAtomics_exact : Runs wx ∧ Ready wx [0, 0, 1, 0] ∧ Clean wx [1, 0] ∧ FreeLaunch wx ∧
    Quiet wx ∧ wx.sel.lazy = false ∧ ((regs wx).gr (1 : Reg).toNat).toNat % 16 = 0 ∧
    OwnBytes wx ((regs wx).gr (1 : Reg).toNat) 16 ∧ OwnSound wx ((regs wx).gr (1 : Reg).toNat) 16 ∧
    sintOf 128 (readNat (myTask wx).spad 0x100 16) + ((regs wx).gr (0 : Reg).toNat).toInt = 2 ^ 127 - 1 ∧
    2 ^ 127 ≤ sintOf 128 (readNat (myTask wx).spad 0x100 16) + ((regs wx).gr (2 : Reg).toNat).toInt ∧
    (myTask wx).vec.vctl.getLsbD 2 = false :=
  ⟨by constructor <;> decide +kernel, by unfold Ready; decide +kernel, by unfold Clean Sound; decide +kernel,
    by constructor <;> decide +kernel, by constructor <;> decide +kernel, by decide +kernel, by decide +kernel,
    by unfold OwnBytes; decide +kernel, by unfold OwnSound; decide +kernel, by decide +kernel, by decide +kernel,
    by decide +kernel⟩

theorem witness_ExactAndRankedAtomics_saturates : Runs (wxs true true) ∧ Ready (wxs true true) [0, 0, 1, 3] ∧
    Clean (wxs true true) [1, 3] ∧
    sintOf 128 (readNat (myTask (wxs true true)).spad 0x100 16) + ((regs (wxs true true)).gr (3 : Reg).toNat).toInt <
      -2 ^ 127
    ∧ (myTask (wxs true true)).vec.vctl.getLsbD 2 = true ∧
    ((regs (wxs true true)).hnd = false ∧ (regs (wxs true true)).her = false) ∧ (me (wxs true true)).saved = none ∧
    (myTask (wxs true false)).vec.vctl.getLsbD 2 = false :=
  ⟨by constructor <;> decide +kernel, by unfold Ready; decide +kernel, by unfold Clean Sound; decide +kernel,
    by decide +kernel, by decide +kernel, by decide +kernel, by decide +kernel, by decide +kernel⟩

theorem witness_ExactAndRankedAtomics_ranked : ∃ fn,
    amorTable (.amorFadd32 { a := 1, b := 2, k := 10, n := 11 }) = some (fn, { a := 1, b := 2, k := 10, n := 11 })
    ∧ Runs wg ∧ Ready wg [1, 2, 10, 11, 0] ∧ Clean wg [1, 2, 10, 11] ∧ FreeLaunch wg ∧ Quiet wg ∧
    0 < ((regs wg).gr (11 : Reg).toNat).toNat ∧ ((regs wg).gr (11 : Reg).toNat).toNat ≤ 32768 ∧
    ((regs wg).gr (10 : Reg).toNat).toNat < ((regs wg).gr (11 : Reg).toNat).toNat ∧
    ((regs wg).gr (1 : Reg).toNat).toNat % 4 = 0 ∧ OwnBytes wg ((regs wg).gr (1 : Reg).toNat) 4 :=
  ⟨_, rfl, by constructor <;> decide +kernel, by unfold Ready; decide +kernel,
    by unfold Clean Sound; decide +kernel, by constructor <;> decide +kernel, by constructor <;> decide +kernel,
    by decide +kernel, by decide +kernel, by decide +kernel, by decide +kernel, by unfold OwnBytes; decide +kernel⟩

theorem witness_OrderingPoints_fence : Runs (wo 2) ∧ (me (wo 2)).reports = [] ∧
    (true = true → pendingCommands (myTask (wo 2)) (wo 2).sel.strand = false) :=
  ⟨by constructor <;> decide +kernel, by decide +kernel, by decide +kernel⟩

theorem witness_OrderingPoints_commands : Runs wq ∧ (me wq).reports = [] ∧
    pendingCommands (myTask wq) wq.sel.strand = true :=
  ⟨by constructor <;> decide +kernel, by decide +kernel, by decide +kernel⟩

theorem witness_OrderingPoints_idle : Runs wg ∧ Idle wg :=
  ⟨by constructor <;> decide +kernel, ⟨by constructor <;> decide +kernel, by decide +kernel, by decide +kernel⟩⟩

theorem witness_OrderingPoints_out : (me (wo 2)).outs ≠ [] :=
  by decide +kernel

theorem witness_OrderingPoints_vector : Runs wqv ∧ (me wqv).reports = [] ∧
    (∃ e ∈ (myTask wqv).queue 0, e.strand = wqv.sel.strand ∧ e.orphaned = false) :=
  ⟨by constructor <;> decide +kernel, by decide +kernel, ⟨eVst, by decide +kernel⟩⟩

theorem witness_OrderingPoints_store : ∃ p, Runs (wo 2) ∧ Ready (wo 2) [2, 1] ∧ Clean (wo 2) [1, 2] ∧
    FreeLaunch (wo 2) ∧ (me (wo 2)).reports = [] ∧
    ((regs (wo 2)).gr (1 : Reg).toNat + (0 : BitVec 8).signExtend 64 * 8).toNat % 8 = 0 ∧
    placeOf (wo 2) (wo 2).sel.task (regs (wo 2)).her false (me (wo 2)).walkFault ((regs (wo 2)).gr (1 : Reg).toNat + (0
      : BitVec 8).signExtend 64 * 8) 8 .write = .ok p
    ∧ outOf 2 ∈ (me (wo 2)).outs ∧ (outOf 15).acc.cls = 15 ∧
    ((outOf 2).acc.cls = (2 : BitVec 4).toNat ∧ (outOf 2).acc.home ≠ p.home) ∧
    (∃ f ∈ (me (wo 2)).fences,
      f.mask.getLsbD (3 : BitVec 4).toNat = true ∧ inScope (wo 2) (wo 2).sel.task f.scope p.home = true ∧ (outOf 2).id
      ∈ f.outs)
    :=
  ⟨_, by constructor <;> decide +kernel, by unfold Ready; decide +kernel, by unfold Clean Sound; decide +kernel,
    by constructor <;> decide +kernel, by decide +kernel, by decide +kernel, rfl, by decide +kernel, by decide,
    by decide +kernel, ⟨_, List.mem_cons_self, by decide +kernel, by decide +kernel, by decide +kernel⟩⟩

theorem witness_OrderingPoints_load : ∃ p ea, loadTable (.ldd 3 7 2 0) = some (3, 7, 2, 8, false, ea) ∧
    (∀ d a oc disp, Instr.ldd 3 7 2 0 ≠ .lds d a oc disp) ∧ Runs wfk ∧ FreeLaunch wfk ∧ (me wfk).reports = [] ∧
    Ready wfk [3, 7] ∧ Clean wfk [7] ∧
    placeOf wfk wfk.sel.task (regs wfk).her ((8 == 4) && ((2 : BitVec 4) == 15)) (me wfk).walkFault (ea ((regs wfk).gr
      (7 : Reg).toNat)) 8 .read = .ok p
    ∧ HeldBack wfk 2 p false :=
  ⟨_, _, rfl, by intros; exact nofun, by constructor <;> decide +kernel, by constructor <;> decide +kernel,
    by decide +kernel, by unfold Ready; decide +kernel, by unfold Clean Sound; decide +kernel, rfl,
    .inr ⟨_, rfl, outOf 2, by decide +kernel, by decide +kernel, by decide +kernel⟩⟩

theorem witness_OrderingPoints_tso : ∃ p,
    placeOf (wtso .load) (wtso .load).sel.task (regs (wtso .load)).her false (me (wtso .load)).walkFault ((regs (wtso
      .load)).gr (8 : Reg).toNat) 8 .read = .ok p
    ∧ HeldBack (wtso .load) 3 p false :=
  ⟨_, rfl, .inl ⟨_, List.mem_cons_self, .inr (.inr (.inr (.inl (by decide +kernel))))⟩⟩

theorem witness_OrderingPoints_atomic : ∃ p, atomicTable (.amoAdd true 3 1 2) = some (some 3, 1, 2, true, .add) ∧
    Runs (wo 2) ∧
    placeOf (wo 2) (wo 2).sel.task (regs (wo 2)).her false (me (wo 2)).walkFault ((regs (wo 2)).gr (1 : Reg).toNat) 8
      .readWrite = .ok p
    ∧ (∀ j, p.home ≠ .host j) ∧ HeldBack (wo 2) 15 p true ∧ feTable (.stfl 2 1 0) = some (1, 2, 0) ∧
    OwnBytes (wo 2) ((regs (wo 2)).gr (1 : Reg).toNat + 0) 8 :=
  ⟨_, by decide, by constructor <;> decide +kernel, rfl, (by intro j h; cases h),
    .inl ⟨_, List.mem_cons_self, .inr (.inl rfl)⟩, by decide, by unfold OwnBytes; decide +kernel⟩

theorem witness_BarrierResult_arrive : Runs wb0 ∧ Ready wb0 [1] ∧ Clean wb0 [1] ∧ (regs wb0).hnd = false ∧
    (regs wb0).her = false ∧ ((regs wb0).gr (1 : Reg).toNat).toNat < 256 ∧
    bitOf ((regs wb0).gr (1 : Reg).toNat).toNat 6 = false ∧ bitOf ((regs wb0).gr (1 : Reg).toNat).toNat 7 = true ∧
    Idle wb0 :=
  ⟨by constructor <;> decide, by unfold Ready; decide, by unfold Clean Sound; decide, by decide, by decide,
    by decide, by decide, by decide, ⟨by constructor <;> decide, by decide, by decide⟩⟩

theorem witness_BarrierResult_done : ∃ x, Runs (wb 1 false) ∧ (me (wb 1 false)).arrivals = [x] ∧
    x.shape = shapeKey (myLaunch (wb 1 false)) 0x80 ∧
    x.index < completed (myLaunch (wb 1 false)) (myTask (wb 1 false)) 0x80 ∧ x.open_ = false ∧
    x.pc = pcOf (wb 1 false) ∧ x.left = false :=
  ⟨_, by constructor <;> decide, rfl, by decide, by decide, by decide, by decide, by decide⟩

theorem witness_BarrierResult_open : ∃ x, Runs (wb 1 true) ∧ (me (wb 1 true)).arrivals = [x] ∧
    x.shape = shapeKey (myLaunch (wb 1 true)) 0x80 ∧
    x.index < completed (myLaunch (wb 1 true)) (myTask (wb 1 true)) 0x80 ∧ x.open_ = true :=
  ⟨_, by constructor <;> decide, rfl, by decide, by decide, by decide⟩

theorem witness_BarrierResult_waits : ∃ x, Runs (wb 0 true) ∧ (me (wb 0 true)).arrivals = [x] ∧
    completed (myLaunch (wb 0 true)) (myTask (wb 0 true)) 0x80 ≤ x.index ∧ x.open_ = true :=
  ⟨_, by constructor <;> decide, rfl, by decide, by decide⟩

theorem witness_SemaphoreResult_wait : Runs ws ∧ Ready ws [0, 1] ∧ Clean ws [1] ∧ FreeLaunch ws ∧ Quiet ws ∧
    ((regs ws).gr (1 : Reg).toNat).toNat ≤ ((myTask ws).sem (7 : BitVec 8).toNat).count ∧
    (((regs ws).gr (1 : Reg).toNat).toNat = 0 ∨ FirstInTurn ws 1 (7 : BitVec 8).toNat) ∧
    ((myTask ws).sem (7 : BitVec 8).toNat).count < ((regs ws).gr (4 : Reg).toNat).toNat ∧
    ((regs ws).gr (4 : Reg).toNat).toNat < 2 ^ 31 :=
  ⟨by constructor <;> decide, by unfold Ready; decide, by unfold Clean Sound; decide, by constructor <;> decide,
    by constructor <;> decide, by decide, Or.inr (by unfold FirstInTurn; decide), by decide, by decide⟩

theorem witness_SemaphoreResult_turn : Runs wturn ∧ Ready wturn [0, 1] ∧ Clean wturn [1] ∧ FreeLaunch wturn ∧
    Quiet wturn ∧ (((regs wturn).gr (1 : Reg).toNat).toNat ≠ 0 ∧ ¬FirstInTurn wturn 1 (7 : BitVec 8).toNat) :=
  ⟨by constructor <;> decide, by unfold Ready; decide, by unfold Clean Sound; decide, by constructor <;> decide,
    by constructor <;> decide, ⟨by decide, by unfold FirstInTurn; decide⟩⟩

theorem witness_SemaphoreResult_signal : Ready ws [3, 2] ∧ Clean ws [2] ∧ Clean ws [3] ∧
    ((regs ws).gr (2 : Reg).toNat).toNat < 2 ^ 32 ∧
    (regs ws).gr (3 : Reg).toNat = w64 (0x700000 + 4 * (7 : BitVec 8).toNat) ∧ ws.sel.lazy = false :=
  ⟨by unfold Ready; decide, by unfold Clean Sound; decide, by unfold Clean Sound; decide, by decide, by decide,
    by decide⟩

theorem witness_SemaphoreResult_peer : Runs wpeer ∧ Ready wpeer [3, 2] ∧ Clean wpeer [2] ∧ FreeLaunch wpeer ∧
    Quiet wpeer ∧ ((regs wpeer).gr (2 : Reg).toNat).toNat < 2 ^ 32 ∧ Clean wpeer [3] ∧
    ((regs wpeer).gr (3 : Reg).toNat).toNat % 4 = 0 ∧
    spadTarget wpeer wpeer.sel.task ((regs wpeer).gr (3 : Reg).toNat) = some (3, 0x7003FC) ∧
    isSemAddr 0x7003FC = true ∧
    placeOf wpeer wpeer.sel.task (regs wpeer).her true (me wpeer).walkFault ((regs wpeer).gr (3 : Reg).toNat) 4 .write = .ok { home := .spad 3, addr := 0x7003FC }
    ∧ Home.spad 3 ≠ .spad wpeer.sel.task ∧ buffersUsed (myTask wpeer) < 64 :=
  ⟨by constructor <;> decide, by unfold Ready; decide, by unfold Clean Sound; decide, by constructor <;> decide,
    by constructor <;> decide, by decide, by unfold Clean Sound; decide, by decide, by decide +kernel, by decide,
    by decide +kernel, by decide, by decide⟩

theorem witness_SemaphoreResult_det : ∃ q, Runs (wsd (some 1)) ∧ Ready (wsd (some 1)) [5, 1] ∧
    Clean (wsd (some 1)) [1] ∧ Quiet (wsd (some 1)) ∧ (myLaunch (wsd (some 1))).det = true ∧
    (regs (wsd (some 1))).hnd = false ∧ (regs (wsd (some 1))).her = false ∧
    SMap.find (7 : BitVec 8).toNat (myTask (wsd (some 1))).recs.semWaiter = some q ∧ q ≠ (wsd (some 1)).sel.strand
    ∧ ((regs (wsd (some 1))).gr (1 : Reg).toNat).toNat % 2 ^ 31 ≠ 0 ∧
    SMap.find (7 : BitVec 8).toNat (myTask (wsd none)).recs.semWaiter = none ∧
    ((regs (wsd none)).gr (1 : Reg).toNat).toNat ≤ ((myTask (wsd none)).sem (7 : BitVec 8).toNat).count ∧
    FirstInTurn (wsd none) 1 (7 : BitVec 8).toNat :=
  ⟨_, by constructor <;> decide, by unfold Ready; decide, by unfold Clean Sound; decide, by constructor <;> decide,
    by decide, by decide, by decide, rfl, by decide, by decide, by decide, by decide,
    by unfold FirstInTurn; decide⟩

theorem witness_SemaphoreResult_pop : (myTask ws).fifo (1 : BitVec 1).toNat = [9] ∧
    (myTask ws).fifo (0 : BitVec 1).toNat = ([] : List Word) ∧ FirstInTurn ws 4 (1 : BitVec 1).toNat :=
  ⟨by decide, by decide, by unfold FirstInTurn; decide⟩

theorem witness_SemaphoreResult_pop_turn : Runs wpops ∧ Ready wpops [5, 1] ∧ Clean wpops [1] ∧ FreeLaunch wpops ∧
    Quiet wpops ∧ (myTask wpops).fifo (1 : BitVec 1).toNat = [9] ∧ ¬FirstInTurn wpops 4 (1 : BitVec 1).toNat :=
  ⟨by constructor <;> decide, by unfold Ready; decide, by unfold Clean Sound; decide, by constructor <;> decide,
    by constructor <;> decide, by decide, by unfold FirstInTurn; decide⟩

theorem witness_LaunchChild : Runs wm ∧ Ready wm [1] ∧ Clean wm [1] ∧ FreeLaunch wm ∧ Quiet wm ∧
    ((regs wm).gr (1 : Reg).toNat).toNat % 8 = 0 ∧ OwnBytes wm ((regs wm).gr (1 : Reg).toNat) 64 ∧
    OwnSound wm ((regs wm).gr (1 : Reg).toNat) 64 ∧
    doneOk wm (myLaunch wm).fn (launchOfBlock (myLaunch wm).fn (myLaunch wm).queue false false 0 true 0 (ownWords wm
      ((regs wm).gr (1 : Reg).toNat + 8) 7)).done true = true
    :=
  ⟨by constructor <;> decide +kernel, by unfold Ready; decide +kernel, by unfold Clean Sound; decide +kernel,
    by constructor <;> decide +kernel, by constructor <;> decide +kernel, by decide +kernel,
    by unfold OwnBytes; decide +kernel, by unfold OwnSound; decide +kernel, by decide +kernel⟩

/-- A LOG launch whose home has room for records at 2^44 + 0x9000. -/
def wlog : State :=
  let g : OrderLog := { base := 0x100000009000, limit := 0x100000009020, wp := 0x100000009000 }
  withLaunch (wg.modDie 0 (fun d => { d with logs := [(1, g)] })) (fun l => { l with log := true })

/-- Monitor 2 armed and monitor 3 pending. -/
def wmon : State := withLaunch wm (fun l => { l with monitors := [(2, { armed := true }), (3, { pending := true })] })

/-- A format table whose entry 0 gives BF16 and rounding 1, and entry 1 the same; nest 1 of three iterations. -/
def wv : State :=
  let v : VecState := { vsh := 0x401, ft := [(0, w64 (16 * 7 + 2 ^ 12)), (15, 0)], n := [(1, 3)] }
  withTask (withStrand w (fun x => { x with r := { x.r with g := [(1, 0x100), (5, 0x7FF), (6, 1), (7, 0x100)] } })) (fun t => { t with vec := v })

/-- The strand is armed with nest 1. -/
def wv1 : State := withStrand wv (fun x => { x with arming := some { nest := some 1, resume := 0 } })

/-- What the instruction captures there. -/
def capOf (s : State) (a b : Word) (i : Instr) (nest : Option Nat) : Captured :=
  vectorCaptured s a b ((vuse i).bind (formatTaken s)) nest

/-- Both matrix engines are at their last stage. -/
def wh1 : State :=
  w.modDie 0 (fun d => { d with cores := SMap.put 0 { d.core 0 with me0 := 3, me1 := 3 } d.cores })

theorem witness_InvalidateMarkMonitor_tinv : Runs wg ∧ Ready wg [7, 1] ∧ Clean wg [7, 1] ∧ Quiet wg :=
  ⟨by constructor <;> decide +kernel, by unfold Ready; decide +kernel, by unfold Clean Sound; decide +kernel,
    by constructor <;> decide +kernel⟩

theorem witness_InvalidateMarkMonitor_logm : Runs wg ∧ Ready wg [7] ∧ Clean wg [7] ∧ Quiet wg ∧
    (myLaunch wg).det = false ∧ (myLaunch wg).log = false :=
  ⟨by constructor <;> decide +kernel, by unfold Ready; decide +kernel, by unfold Clean Sound; decide +kernel,
    by constructor <;> decide +kernel, by decide +kernel, by decide +kernel⟩

theorem witness_InvalidateMarkMonitor_logm_log : Runs wlog ∧ Ready wlog [7] ∧ Clean wlog [7] ∧ Quiet wlog ∧
    (myLaunch wlog).det = false ∧ (myLaunch wlog).log = true ∧
    (orderLog wlog (myTask wlog).die (myLaunch wlog).fn).replay = false ∧
    (writeRecord (classed wlog) (myTask wlog).die (myLaunch wlog).fn (orderRecord wlog { who := { task := wlog.sel.task, strand := wlog.sel.strand }, home := .spad wlog.sel.task, va := (regs wlog).gr (7 : Reg).toNat } { task := wlog.sel.task, strand := wlog.sel.strand } 6 0 0 false)).2 = true
    :=
  ⟨by constructor <;> decide +kernel, by unfold Ready; decide +kernel, by unfold Clean Sound; decide +kernel,
    by constructor <;> decide +kernel, by decide +kernel, by decide +kernel, by decide +kernel, by decide +kernel⟩

theorem witness_InvalidateMarkMonitor_monset : Runs wm ∧ Ready wm [2] ∧ Clean wm [2] ∧ FreeLaunch wm ∧ Quiet wm ∧
    ((regs wm).gr (2 : Reg).toNat).toNat % 64 = 0 ∧ OwnBytes wm ((regs wm).gr (2 : Reg).toNat) 64 ∧
    OwnSound wm ((regs wm).gr (2 : Reg).toNat) 64 ∧ descOk (ownWords wm ((regs wm).gr (2 : Reg).toNat) 8) = true ∧
    ((myLaunch wm).mon 7).armed = false ∧ ((myLaunch wm).mon 7).pending = false ∧
    rangePages (descMonitor (ownWords wm ((regs wm).gr (2 : Reg).toNat) 8)) = [pageOf 0x100000000000] ∧
    (walk wm (myLaunch wm).fn (pageOf 0x100000000000)).toOption.map (fun e => (e.pa, homeOfPa wm e.pa)) = some (0,
      some (.hbm 0))
    ∧ (∀ die, portUse wm die < 64) :=
  ⟨by constructor <;> decide +kernel, by unfold Ready; decide +kernel, by unfold Clean Sound; decide +kernel,
    by constructor <;> decide +kernel, by constructor <;> decide +kernel, by decide +kernel,
    by unfold OwnBytes; decide +kernel, by unfold OwnSound; decide +kernel, by decide +kernel, by decide +kernel,
    by decide +kernel, by decide +kernel, by decide +kernel, (fun _ => Nat.zero_lt_succ 63)⟩

theorem witness_InvalidateMarkMonitor_monref : Runs wmon ∧ Ready wmon [3] ∧ Clean wmon [3] ∧ FreeLaunch wmon ∧
    Quiet wmon ∧ ((regs wmon).gr (3 : Reg).toNat).toNat % 32 = 0 ∧
    OwnBytes wmon ((regs wmon).gr (3 : Reg).toNat) 32 ∧ OwnSound wmon ((regs wmon).gr (3 : Reg).toNat) 32 ∧
    (ownWords wmon ((regs wmon).gr (3 : Reg).toNat) 4).getD 3 0 < 2 ∧ ((myLaunch wmon).mon 2).armed = true ∧
    ((myLaunch wmon).mon 3).pending = true :=
  ⟨by constructor <;> decide +kernel, by unfold Ready; decide +kernel, by unfold Clean Sound; decide +kernel,
    by constructor <;> decide +kernel, by constructor <;> decide +kernel, by decide +kernel,
    by unfold OwnBytes; decide +kernel, by unfold OwnSound; decide +kernel, by decide +kernel, by decide +kernel,
    by decide +kernel⟩

theorem witness_InvalidateMarkMonitor_monrd : ((regs wmon).gr (3 : Reg).toNat).toNat % 64 = 0 ∧
    OwnBytes wmon ((regs wmon).gr (3 : Reg).toNat) 64 :=
  ⟨by decide +kernel, by unfold OwnBytes; decide +kernel⟩

theorem witness_VectorPush_plain : ∃ u, vectorTable (.mfirst { vd := 9, va := 1 }) = some (none, none, some 9) ∧
    vuse (.mfirst { vd := 9, va := 1 }) = some u ∧ FreeLaunch wv ∧
    Ready wv ((none : Option Reg).toList ++ (none : Option Reg).toList ++ (some 9 : Option Reg).toList) ∧
    Clean wv ((none : Option Reg).toList ++ (none : Option Reg).toList) ∧ Runs wv ∧
    PushOk wv (.mfirst { vd := 9, va := 1 }) u (capOf wv 0 0 (.mfirst { vd := 9, va := 1 }) none) :=
  ⟨_, rfl, rfl, by constructor <;> decide, by unfold Ready; decide, by unfold Clean Sound; decide,
    by constructor <;> decide,
    ⟨fun e h => (nomatch (show (none : Option Word) = some e from h)), by decide, fun n h => (nomatch h),
      fun fn f h => (nomatch h), by decide⟩⟩

theorem witness_VectorPush_table : ∃ u,
    vectorTable (.vscale { vd := 3, va := 1, vb := 5, ft := true }) = some (none, some 5, none) ∧
    vuse (.vscale { vd := 3, va := 1, vb := 5, ft := true }) = some u ∧
    Ready wv ((none : Option Reg).toList ++ (some 5 : Option Reg).toList ++ (none : Option Reg).toList) ∧
    Clean wv ((none : Option Reg).toList ++ (some 5 : Option Reg).toList) ∧
    PushOk wv (.vscale { vd := 3, va := 1, vb := 5, ft := true }) u (capOf wv 0 0x7FF (.vscale { vd := 3, va := 1, vb := 5, ft := true }) none)
    :=
  ⟨_, rfl, rfl, by unfold Ready; decide, by unfold Clean Sound; decide,
    ⟨(by intro e h; have h' : some (0x1070 : Word) = some e := h; cases h'; exact ⟨(by intro p hp; cases hp; decide),
      by decide, by decide⟩), by decide, fun n h => (nomatch h), fun fn f h => (nomatch h), by decide⟩⟩

theorem witness_VectorPush_nest : ∃ u, (me wv1).arming = some { nest := some 1, resume := 0 } ∧
    nestBody (.vadd { vd := 381, va := 1, vb := 2, et := 7 }) = true ∧
    vectorTable (.vadd { vd := 381, va := 1, vb := 2, et := 7 }) = some (none, none, none) ∧
    vuse (.vadd { vd := 381, va := 1, vb := 2, et := 7 }) = some u ∧
    Runs (withStrand wv1 (fun x => { x with arming := none })) ∧
    PushOk wv1 (.vadd { vd := 381, va := 1, vb := 2, et := 7 }) u (capOf wv1 0 0 (.vadd { vd := 381, va := 1, vb := 2, et := 7 }) (some 1))
    :=
  ⟨_, rfl, by decide, rfl, rfl, by constructor <;> decide,
    ⟨fun e h => (nomatch (show (none : Option Word) = some e from h)), by decide, (by intro n h; cases h; decide),
      fun fn f h => (nomatch h), by decide⟩⟩

theorem witness_VectorPush_memory :
    vectorMemoryTable (.vlds { vd := 3, a := 1, b := 5, et := 8 }) = some ({ vd := 3, a := 1, b := 5, et := 8 }, true)
    ∧ Runs wv ∧ FreeLaunch wv ∧ (me wv).reports = [] ∧ Ready wv [1, 5] ∧ Clean wv [1, 5] ∧
    shapeOk (.vlds { vd := 3, a := 1, b := 5, et := 8 }) 8 (bitsOf (vectorCaptured wv 0 0 none none).vsh.toNat 0 5) (bitsOf (vectorCaptured wv 0 0 none none).vsh.toNat 8 11) (myLaunch wv).vregs 0x100 0x7FF = true
    ∧ ((myTask wv).queue 0).length < 32 :=
  ⟨rfl, by constructor <;> decide, by constructor <;> decide, by decide, by unfold Ready; decide,
    by unfold Clean Sound; decide, by decide, by decide⟩

theorem witness_TableWrites_vector : Runs wv ∧ FreeLaunch wv ∧ Ready wv [0, 1] ∧ Clean wv [1] :=
  ⟨by constructor <;> decide, by constructor <;> decide, by unfold Ready; decide, by unfold Clean Sound; decide⟩

theorem witness_TableWrites_mcfg : Runs w ∧ FreeLaunch w ∧ Ready w [2] ∧ Clean w [2] :=
  ⟨by constructor <;> decide, by constructor <;> decide, by unfold Ready; decide, by unfold Clean Sound; decide⟩

theorem witness_MatrixPush : ∃ q steered, isMatrix (.mtile 15 { e := 2, a := 30, b := 31, c := 3 }) = true ∧ Runs w
    ∧ FreeLaunch w ∧ Ready w [] ∧ Clean w [] ∧ matrixPushOk wv (.mtile 15 { e := 2, a := 30, b := 31, c := 3 }) ∧
    dispatchMatrix (coreOf wv wv.sel.task) (.mtile 15 { e := 2, a := 30, b := 31, c := 3 }) (matrixTaken wv (.mtile 15 { e := 2, a := 30, b := 31, c := 3 })) ((myTask wv).eng.mesteer.getLsbD 0) = some (q, steered)
    ∧ ((myTask wv).queue (1 + 1)).length < 64 :=
  ⟨_, _, by decide, by constructor <;> decide, by constructor <;> decide, by unfold Ready; decide,
    by unfold Clean Sound; decide, (by intro e h; have h' : some (0x1070 : Word) = some e := h; cases h'; decide),
    rfl, by decide⟩

theorem witness_HeritageEntry : isMatrix (.mtile 0 { e := 2, a := 30, b := 31, c := 3 }) = true ∧ Runs wh1 ∧
    FreeLaunch wh1 ∧ matrixPushOk wh1 (.mtile 0 { e := 2, a := 30, b := 31, c := 3 }) ∧
    dispatchMatrix (coreOf wh1 wh1.sel.task) (.mtile 0 { e := 2, a := 30, b := 31, c := 3 }) (matrixTaken wh1 (.mtile 0 { e := 2, a := 30, b := 31, c := 3 })) ((myTask wh1).eng.mesteer.getLsbD 0) = none
    ∧ (classBearing (.mtile 0 { e := 2, a := 30, b := 31, c := 3 })).isSome = true :=
  ⟨by decide, by constructor <;> decide +kernel, by constructor <;> decide +kernel,
    (by intro e h; have h' : (none : Option Word) = some e := h; cases h'), by decide +kernel, by decide⟩

theorem witness_CopyGatherPush_copy : isCopy (.cpy2d true { e := 3, a := 1, b := 5, c := 6 }) = true ∧ Runs wv ∧
    FreeLaunch wv ∧ Ready wv ((copyRegs (.cpy2d true { e := 3, a := 1, b := 5, c := 6 })).filterMap id) ∧
    Clean wv ((copyRegs (.cpy2d true { e := 3, a := 1, b := 5, c := 6 })).filterMap id) ∧
    (∀ f, Instr.cpy2d true { e := 3, a := 1, b := 5, c := 6 } = .cpyslotOut f → (regs wv).her = true) ∧
    ((myTask wv).queue (copyQueue (.cpy2d true { e := 3, a := 1, b := 5, c := 6 }))).length < 64 :=
  ⟨by decide, by constructor <;> decide, by constructor <;> decide, by unfold Ready; decide,
    by unfold Clean Sound; decide, (by intro f h; cases h), by decide⟩

theorem witness_CopyGatherPush_out : Runs w ∧ (regs w).her = false ∧ Ready w [1, 2] ∧ Clean w [1, 2] ∧
    (regs w).hnd = false :=
  ⟨by constructor <;> decide, by decide, by unfold Ready; decide, by unfold Clean Sound; decide, by decide⟩

theorem witness_CopyGatherPush_gather : gatherTable (.grow 8 { a := 5, b := 1 }) = some (5, 1) ∧ Runs wv ∧
    FreeLaunch wv ∧ Quiet wv ∧ Ready wv [5, 1] ∧ Clean wv [5, 1] ∧ (regs wv).her = false ∧
    ((regs wv).gr (1 : Reg).toNat).toNat % 64 = 0 ∧ OwnBytes wv ((regs wv).gr (1 : Reg).toNat) 64 ∧
    OwnSound wv ((regs wv).gr (1 : Reg).toNat) 64 ∧ ((myTask wv).queue 7).length < 64 :=
  ⟨rfl, by constructor <;> decide, by constructor <;> decide, by constructor <;> decide, by unfold Ready; decide,
    by unfold Clean Sound; decide, by decide, by decide, by unfold OwnBytes; decide, by unfold OwnSound; decide,
    by decide⟩

theorem witness_CollectivePush : ∃ b,
    collectiveTable wv (.xred { slot := 1023, a := 1, b := 5, c := 6 }) = some (some 1, b, some 6, some 7) ∧
    Runs wv ∧ FreeLaunch wv ∧ Ready wv [1, 5, 6, 7] ∧ Clean wv [1, 5, 6, 7] ∧ ((myTask wv).queue 8).length < 64 :=
  ⟨_, rfl, by constructor <;> decide, by constructor <;> decide, by unfold Ready; decide,
    by unfold Clean Sound; decide, by decide⟩

/-- An entry at the head of a queue that the step names. -/
def headed (s : State) (q : Nat) (e : Entry) : State :=
  withTask { s with sel := { s.sel with queue := q } } (fun t => { t with queues := [(q, [e, { cmd := .vmov {}, serial := 99 }])] })

/-- Registers of the vector engine: one row of 4 bytes; f1 with 128 elements. -/
def wve : State :=
  let v : VecState := { vsh := 0x401, v := [(1, 0x807F01), (2, 0xFF01FF), (3, 0x55)], m := [(1, 5), (2, 3)], n := [(1, 3)] }
  withTask w (fun t => { t with vec := v, eng := { t.eng with fifo1 := (List.range 128).map (fun k => w64 (k + 1)) } })

/-- Vector entries: a VADD of INT8, a VCMP into m2 under m1, a POPV of 128 elements, a VNSET of level 4, an MPOPC. -/
def eAdd : Entry := { cmd := .vadd { vd := 3, va := 1, vb := 2, m := 1 }, serial := 1, cap := { vsh := 0x401 } }
def eCmp : Entry := { cmd := .vcmpLt { vd := 2, va := 1, vb := 2, m := 1 }, serial := 1, cap := { vsh := 0x401 } }
def ePop : Entry := { cmd := .popv { vd := 4, va := 1, vb := 9 }, serial := 1, cap := { b := 128 } }
def eNset : Entry := { cmd := .vnset { vd := 7 }, serial := 1, cap := { a := 0xFFFFFFFFFFFF, b := 4 } }
def eCount : Entry := { cmd := .mpopc { vd := 9, va := 2 }, serial := 1, cap := { vsh := 0x401 } }

/-- A load whose replies are in. -/
def eLoad : Entry :=
  { cmd := .vld { vd := 3, a := 1, et := 8 }, serial := 1, started := true, cap := { a := 0x100, vsh := 0x401 }, inbox := [(0, 0xAA)],
    pieces := [{ e := 0, va := 0x100, off := 0, size := 4 }] }

/-- Register v2 holds an uncorrectable error; a strand waits for FIFO 1. -/
def wveBad : State := withTask wve (fun t => { t with vec := { t.vec with bad := [2] } })

/-- A started store of words on TSO pages: one is still to be sent. -/
def aTso : Acc := { who := { task := 1, strand := 0 }, home := .hbm 0, addr := 0x40, size := 8, op := .store [some 1] }
def eTso : Entry := { cmd := .vst { vd := 3, a := 1, et := 8 }, serial := 1, started := true, tso := true, rest := [aTso] }

/-- 1 + 2^−24, to nearest even. -/
def cHalf : FloatCase := { op := 0, a := 0x3F800000, b := 0x33800000, d := 0, rm := 0, sat := false, et := 8, result := 0x3F800000, flags := 16 }

/-- The operands of a case stand in element k of v1, v2 and v3 under mask m1; the entry that computes it. -/
def eFloat (c : FloatCase) (vsh : Word) : Entry :=
  let f : V3 := { vd := 3, va := 1, vb := 2, m := 1, et := BitVec.ofNat 4 c.et, rm := BitVec.ofNat 3 c.rm, sat := c.sat }
  { cmd := floatInstr c.op f, serial := 1, cap := { vsh := vsh } }
def wfl (c : FloatCase) (k : Nat) (vsh : Word) : State :=
  let v : VecState := { vsh := vsh, v := [(1, c.a * 2 ^ (32 * k)), (2, c.b * 2 ^ (32 * k)), (3, c.d * 2 ^ (32 * k))], m := [(1, 2 ^ k)] }
  headed (withTask w (fun t => { t with vec := v })) 0 (eFloat c vsh)

/-- A load of the own scratchpad whose replies are in, behind one that is still short of its fault point; a store with no active
element. -/
def eLoad1 : Entry := { cmd := .vld { vd := 5, a := 1, et := 8 }, serial := 1, started := true, pending := [7], cap := { a := 0x200, vsh := 0x401 } }
def eLoad2 : Entry := { eLoad with serial := 2 }
def wbehind : State := withTask (headed wve 0 eLoad1) (fun t => { t with queues := [(0, [eLoad1, eLoad2])] })
def eNone : Entry := { cmd := .vst { vd := 3, a := 1, m := 4, et := 8 }, serial := 1, cap := { a := 0x100, vsh := 0x401 } }

/-- The computing goes on, and no flag traps. -/
def computes (s : State) (e : Entry) : Bool :=
  match vCompute e.cmd (entryCtx (myTask s) e) (vectorReads (myTask s) e) with
  | .ok o => (enabledTrap (e.cap.vctl.getLsbD 1) (e.cap.vctl.getLsbD 2) (firstFlag o.flags 0) (firstFlag o.flags
    5)).isNone
  | .error _ => false

/-- Slots 3 and 4 are READY, 5 EMPTY; s9 counts 2, s10 counts 2 with E. -/
def wme : State :=
  let a : SMap Byte := [(0, 0x80), (1, 0x3F), (256, 0x00), (257, 0x40)]
  let slots : SMap Slot := [(3, { state := 2, bytes := a }), (4, { state := 2, rc := 1, bytes := a })]
  withTask w (fun t => { t with eng := { t.eng with slots := slots }, sems := [(9, { count := 2 }), (10, { count := 2, e := true })] })

/-- Slot 5 has lost data, and so has slot 4 when a bit says so, or bank 1. -/
def wmet : State := withTask wme (fun t => t.setSlot 5 { t.slot 5 with taint := true })
def wlate (bank : Bool) (e : Entry) : State :=
  withTask (headed wme 1 e) (fun t => if bank then t.setBank 1 { t.bank 1 with taint := true } else t.setSlot 4 { t.slot 4 with taint := true })

/-- Matrix entries. -/
def eM (i : Instr) : Entry := { cmd := i, serial := 1 }
def fM (f : EC) : EC := { f with ss := 9, si := 2 }

def eLateB : Entry := { eM (.mtile 0 (fM { a := 3, b := 4, c := 1 })) with started := true, finished := true, uses := [(3, false), (4, true)] }

/-- Queue 1's head waits for two of s9; the entry heads queue 2. -/
def wmt (e : Entry) : State :=
  let o : Entry := { cmd := .mclaim { a := 6, ws := 9, wt := 2 }, serial := 7, wait := some { kind := 2, object := 9, amount := 2 } }
  withTask (headed wme 2 e) (fun t => { t with queues := SMap.put 1 [o] t.queues })

theorem witness_VectorExecutes : NextVector (headed wve 0 eAdd) eAdd ∧
    readsBad (myTask (headed wve 0 eAdd)) eAdd = false ∧ vectorTable eAdd.cmd ≠ none ∧ (∀ f, eAdd.cmd ≠ .popv f) ∧
    (∀ f, eAdd.cmd ≠ .vnset f) ∧ (∀ fn f, eAdd.cmd ≠ .vsweep fn f) ∧ eAdd.cap.nest = none ∧ eAdd.progress = 0 ∧
    computes (headed wve 0 eAdd) eAdd = true :=
  ⟨by constructor <;> decide +kernel, by decide +kernel, by decide,
    (fun f h => (nomatch (show Instr.vadd _ = .popv f from h))),
    (fun f h => (nomatch (show Instr.vadd _ = .vnset f from h))),
    (fun fn f h => (nomatch (show Instr.vadd _ = .vsweep fn f from h))), by decide, by decide, by decide +kernel⟩

theorem witness_VectorExecutes_mask : NextVector (headed wve 0 eCmp) eCmp ∧
    readsBad (myTask (headed wve 0 eCmp)) eCmp = false ∧ maskDest eCmp.cmd = some 2 ∧
    computes (headed wve 0 eCmp) eCmp = true :=
  ⟨by constructor <;> decide +kernel, by decide +kernel, by decide, by decide +kernel⟩

theorem witness_VectorExecutes_g : NextVector (headed wve 0 eCount) eCount ∧
    readsBad (myTask (headed wve 0 eCount)) eCount = false ∧ gDest eCount.cmd = some 9 ∧
    computes (headed wve 0 eCount) eCount = true :=
  ⟨by constructor <;> decide +kernel, by decide +kernel, by decide, by decide +kernel⟩

theorem witness_VectorExecutes_bad : NextVector (headed wveBad 0 eAdd) eAdd ∧
    readsBad (myTask (headed wveBad 0 eAdd)) eAdd = true ∧
    behindLoad (headed wveBad 0 eAdd) (headed wveBad 0 eAdd).sel.task eAdd = false :=
  ⟨by constructor <;> decide +kernel, by decide +kernel, by decide +kernel⟩

theorem witness_VectorExecutes_float : cHalf ∈ sumCases ++ otherCases ∧
    NextVector (wfl cHalf 0 0x401) (eFloat cHalf 0x401) ∧
    readsBad (myTask (wfl cHalf 0 0x401)) (eFloat cHalf 0x401) = false ∧
    (eFloat cHalf 0x401).cmd = floatInstr cHalf.op { vd := 3, va := 1, vb := 2, m := 1, et := 8 } ∧
    bitsOf (eFloat cHalf 0x401).cap.vsh.toNat 0 5 * bitsOf (eFloat cHalf 0x401).cap.vsh.toNat 8 11 ≤ 1024 ∧
    0 < bitsOf (eFloat cHalf 0x401).cap.vsh.toNat 0 5 * (bitsOf (eFloat cHalf 0x401).cap.vsh.toNat 8 11 / 4) ∧
    bitOf ((myTask (wfl cHalf 0 0x401)).mreg (1 : BitVec 4).toNat) 0 = true ∧
    elem 8 ((myTask (wfl cHalf 0 0x401)).vreg (1 : BitVec 9).toNat) 0 = cHalf.a ∧
    elem 8 ((myTask (wfl cHalf 0 0x401)).vreg (2 : BitVec 9).toNat) 0 = cHalf.b ∧
    elem 8 ((myTask (wfl cHalf 0 0x401)).vreg (3 : BitVec 9).toNat) 0 = cHalf.d :=
  ⟨.head _, by constructor <;> decide +kernel, by decide +kernel, rfl, by decide +kernel, by decide +kernel,
    by decide +kernel, by decide +kernel, by decide +kernel, by decide +kernel⟩

theorem witness_VectorExecutes_popv : NextVector (headed wve 0 ePop) ePop ∧
    readsBad (myTask (headed wve 0 ePop)) ePop = false ∧ ePop.cmd = .popv { vd := 4, va := 1, vb := 9 } ∧
    ePop.progress = 0 ∧ ePop.work = [] ∧ 0 < ePop.cap.b.toNat ∧
    ePop.cap.b.toNat ≤ ((myTask (headed wve 0 ePop)).fifo ((1 : BitVec 9).toNat % 2)).length ∧
    ePop.cap.b.toNat ≤ 128 ∧
    popFirst (headed wve 0 ePop) (headed wve 0 ePop).sel.task ((1 : BitVec 9).toNat % 2) = false :=
  ⟨by constructor <;> decide +kernel, by decide +kernel, rfl, by decide, by decide, by decide, by decide +kernel,
    by decide, by decide +kernel⟩

theorem witness_VectorExecutes_vnset : NextVector (headed wve 0 eNset) eNset ∧
    readsBad (myTask (headed wve 0 eNset)) eNset = false ∧ eNset.cmd = .vnset { vd := 7 } ∧ eNset.cap.b.toNat < 5
    :=
  ⟨by constructor <;> decide +kernel, by decide +kernel, rfl, by decide⟩

theorem witness_IntegerElements : ∃ g, NextVector (headed wve 0 eAdd) eAdd ∧
    readsBad (myTask (headed wve 0 eAdd)) eAdd = false ∧ eAdd.cap.nest = none ∧ eAdd.cap.ft = none ∧
    eAdd.progress = 0 ∧ bitsOf eAdd.cap.vsh.toNat 0 5 * bitsOf eAdd.cap.vsh.toNat 8 11 ≤ 1024 ∧
    integerTable eAdd.cmd = some ({ vd := 3, va := 1, vb := 2, m := 1 }, g) :=
  ⟨_, by constructor <;> decide +kernel, by decide +kernel, by decide, by decide, by decide, by decide, rfl⟩

theorem witness_IntegerElements_compare : ∃ g, NextVector (headed wve 0 eCmp) eCmp ∧
    readsBad (myTask (headed wve 0 eCmp)) eCmp = false ∧ eCmp.cap.nest = none ∧ eCmp.cap.ft = none ∧
    integerCompare eCmp.cmd = some ({ vd := 2, va := 1, vb := 2, m := 1 }, g) ∧ (2 : BitVec 9).toNat % 16 ≠ 0 :=
  ⟨_, by constructor <;> decide +kernel, by decide +kernel, by decide, by decide, rfl, by decide⟩

theorem witness_VectorMemoryDone : (headed wve 0 eLoad).hasTask (headed wve 0 eLoad).sel.task = true ∧
    ((myTask (headed wve 0 eLoad)).queue 0).find? (fun y => y.started && y.pending.isEmpty && (vmOf y.cmd).isSome &&
      !(y.rest.isEmpty && isVecLoad y.cmd && behindLoad (headed wve 0 eLoad) (headed wve 0 eLoad).sel.task y)) = some
      eLoad
    ∧ vmOf eLoad.cmd = some ({ vd := 3, a := 1, et := 8 }, false, false, false) ∧ eLoad.fault = none ∧
    eLoad.rest = [] ∧ (myLaunch (headed wve 0 eLoad)).det = false :=
  ⟨by decide +kernel, by decide +kernel, by decide +kernel, by decide, by decide, by decide +kernel⟩

theorem witness_VectorMemoryDone_behind : behindLoad wbehind wbehind.sel.task eLoad2 = true :=
  by decide +kernel

theorem witness_VectorMemoryDone_none : NextVector (headed wve 0 eNone) eNone ∧
    vmOf eNone.cmd = some ({ vd := 3, a := 1, m := 4, et := 8 }, false, false, true) ∧
    vectorPieces (myTask (headed wve 0 eNone)) eNone { vd := 3, a := 1, m := 4, et := 8 } false false = [] ∧
    readsBad (myTask (headed wve 0 eNone)) eNone = false ∧
    vectorHeld (headed wve 0 eNone) (headed wve 0 eNone).sel.task eNone [] = false :=
  ⟨by constructor <;> decide +kernel, by decide +kernel, by decide +kernel, by decide +kernel, by decide +kernel⟩

theorem witness_VectorMemoryDone_next : (headed wve 0 eTso).hasTask (headed wve 0 eTso).sel.task = true ∧
    ((myTask (headed wve 0 eTso)).queue 0).find? (fun y => y.started && y.pending.isEmpty && (vmOf y.cmd).isSome &&
      !(y.rest.isEmpty && isVecLoad y.cmd && behindLoad (headed wve 0 eTso) (headed wve 0 eTso).sel.task y)) = some eTso
    ∧ vmOf eTso.cmd = some ({ vd := 3, a := 1, et := 8 }, false, false, true) ∧
    (eTso.fault = none ∧ eTso.rest = [aTso]) :=
  ⟨by decide +kernel, by decide +kernel, by decide +kernel, by decide⟩

theorem witness_MatrixStarts_wait :
    Head (headed wme 1 (eM (.mclaim { a := 5, ws := 9, wt := 3 }))) 1 (eM (.mclaim { a := 5, ws := 9, wt := 3 })) ∧
    Fresh (eM (.mclaim { a := 5, ws := 9, wt := 3 })) ∧
    matrixOrder (myTask (headed wme 1 (eM (.mclaim { a := 5, ws := 9, wt := 3 })))) (eM (.mclaim { a := 5, ws := 9, wt := 3 })) = none
    ∧ ((myTask wme).sem 9).count < 3 :=
  ⟨by constructor <;> decide +kernel, by constructor <;> decide, by decide +kernel, by decide +kernel⟩

theorem witness_MatrixStarts_error :
    Head (headed wme 2 (eM (.mtile 0 (fM { e := 1, a := 3, b := 4, c := 2, ws := 10, wt := 2 })))) 2 (eM (.mtile 0 (fM { e := 1, a := 3, b := 4, c := 2, ws := 10, wt := 2 })))
    ∧
    matrixOrder (myTask (headed wme 2 (eM (.mtile 0 (fM { e := 1, a := 3, b := 4, c := 2, ws := 10, wt := 2 }))))) (eM (.mtile 0 (fM { e := 1, a := 3, b := 4, c := 2, ws := 10, wt := 2 }))) = none
    ∧ (2 ≤ ((myTask wme).sem 10).count ∧ ((myTask wme).sem 10).e = true) ∧
    headFirst (myTask (headed wme 2 (eM (.mtile 0 (fM { e := 1, a := 3, b := 4, c := 2, ws := 10, wt := 2 }))))) (min 2 9) 10 = false
    :=
  ⟨by constructor <;> decide +kernel, by decide +kernel, by decide +kernel, by decide +kernel⟩

theorem witness_MatrixStarts_turn :
    Head (wmt (eM (.mclaim { a := 5, ws := 9, wt := 2 }))) 2 (eM (.mclaim { a := 5, ws := 9, wt := 2 })) ∧
    matrixOrder (myTask (wmt (eM (.mclaim { a := 5, ws := 9, wt := 2 })))) (eM (.mclaim { a := 5, ws := 9, wt := 2 })) = none
    ∧ headFirst (myTask (wmt (eM (.mclaim { a := 5, ws := 9, wt := 2 })))) (min 2 9) 9 = true :=
  ⟨by constructor <;> decide +kernel, by decide +kernel, by decide +kernel⟩

theorem witness_MatrixStarts_claim :
    Head (headed wme 1 (eM (.mclaim (fM { a := 5 })))) 1 (eM (.mclaim (fM { a := 5 }))) ∧
    Goes (headed wme 1 (eM (.mclaim (fM { a := 5 })))) (eM (.mclaim (fM { a := 5 }))) ∧
    mayClaim (myTask (headed wme 1 (eM (.mclaim (fM { a := 5 }))))) 1 (eM (.mclaim (fM { a := 5 }))) 5 = true ∧
    ((myTask (headed wme 1 (eM (.mclaim (fM { a := 5 }))))).slot 5).taint = false :=
  ⟨by constructor <;> decide +kernel, by constructor <;> decide +kernel, by decide +kernel, by decide +kernel⟩

theorem witness_MatrixStarts_claim_tainted :
    Head (headed wmet 1 (eM (.mclaim (fM { a := 5 })))) 1 (eM (.mclaim (fM { a := 5 }))) ∧
    Goes (headed wmet 1 (eM (.mclaim (fM { a := 5 })))) (eM (.mclaim (fM { a := 5 }))) ∧
    mayClaim (myTask (headed wmet 1 (eM (.mclaim (fM { a := 5 }))))) 1 (eM (.mclaim (fM { a := 5 }))) 5 = true ∧
    ((myTask (headed wmet 1 (eM (.mclaim (fM { a := 5 }))))).slot 5).taint = true ∧
    (linkOf (eM (.mclaim (fM { a := 5 }))).cmd).si ≠ 0 :=
  ⟨by constructor <;> decide +kernel, by constructor <;> decide +kernel, by decide +kernel, by decide +kernel,
    by decide⟩

theorem witness_MatrixStarts_claim_waits :
    Head (headed wme 1 (eM (.mclaim (fM { a := 3 })))) 1 (eM (.mclaim (fM { a := 3 }))) ∧
    Goes (headed wme 1 (eM (.mclaim (fM { a := 3 })))) (eM (.mclaim (fM { a := 3 }))) ∧
    mayClaim (myTask (headed wme 1 (eM (.mclaim (fM { a := 3 }))))) 1 (eM (.mclaim (fM { a := 3 }))) 3 = false :=
  ⟨by constructor <;> decide +kernel, by constructor <;> decide +kernel, by decide +kernel⟩

theorem witness_MatrixStarts_release : Goes (headed wme 1 (eM (.mrel { a := 4 }))) (eM (.mrel { a := 4 })) ∧
    ((myTask wme).slot 4).state = 2 ∧ ((myTask wme).slot 3).state = 2 ∧
    (((myTask wme).slot 4).taint = true → ((myTask wme).slot 4).rc ≠ 0 → (linkOf (eM (.mrel { a := 4 })).cmd).si ≠ 0)
    :=
  ⟨by constructor <;> decide +kernel, by decide +kernel, by decide +kernel, by decide +kernel⟩

theorem witness_MatrixStarts_zero : Goes (headed wme 1 (eM (.mzero { c := 1 }))) (eM (.mzero { c := 1 })) ∧
    matrixOrder (myTask (headed wme 1 (eM (.mzero { c := 1 })))) (eM (.mzero { c := 1 })) = none :=
  ⟨by constructor <;> decide +kernel, by decide +kernel⟩

theorem witness_MatrixStarts_tile :
    Goes (headed wme 1 (eM (.mtile 0 { a := 3, b := 4, c := 9 }))) (eM (.mtile 0 { a := 3, b := 4, c := 9 })) ∧
    Head (headed wme 1 (eM (.mtile 0 { a := 3, b := 4, c := 9 }))) 1 (eM (.mtile 0 { a := 3, b := 4, c := 9 })) ∧
    matrixOrder (myTask (headed wme 1 (eM (.mtile 0 { a := 3, b := 4, c := 9 })))) (eM (.mtile 0 { a := 3, b := 4, c := 9 })) = none
    ∧ mfBlock (matMf (0 : BitVec 6).toNat none) = false ∧ TileSound (myTask wme) false 1 3 4 ∧
    TileSound (myTask wme) true 0 3 4 :=
  ⟨by constructor <;> decide +kernel, by constructor <;> decide +kernel, by decide +kernel, by decide,
    by unfold TileSound; decide +kernel, by unfold TileSound; decide +kernel⟩

theorem witness_MatrixCompletes_done :
    Head (headed wme 1 { eM (.mtile 0 (fM { a := 3, b := 4 })) with started := true, finished := true, uses := [(3, false), (4, true)] }) 1 { eM (.mtile 0 (fM { a := 3, b := 4 })) with started := true, finished := true, uses := [(3, false), (4, true)] }
    ∧ enabledTrap ((0 : Word).getLsbD 1) ((0 : Word).getLsbD 2) none none = none ∧
    lateTaint (myTask (headed wme 1 { eM (.mtile 0 (fM { a := 3, b := 4 })) with started := true, finished := true, uses := [(3, false), (4, true)] })) { eM (.mtile 0 (fM { a := 3, b := 4 })) with started := true, finished := true, uses := [(3, false), (4, true)] } = false
    :=
  ⟨by constructor <;> decide +kernel, by decide, by decide +kernel⟩

theorem witness_MatrixCompletes_late : Head (wlate true eLateB) 1 eLateB ∧
    lateTaint (myTask (wlate true eLateB)) eLateB = true ∧ Head (wlate false eLateB) 1 eLateB ∧
    lateTaint (myTask (wlate false eLateB)) eLateB = true ∧ (linkOf eLateB.cmd).si ≠ 0 :=
  ⟨by constructor <;> decide +kernel, by decide +kernel, by constructor <;> decide +kernel, by decide +kernel,
    by decide⟩

/-- A table of two by two iterations: level 1 toggles the bank, both rings advance, A and B release. -/
def tabM : SMap (BitVec 32) :=
  [(0, 2), (1, 1), (2, 1), (8, 3 + 2 * 32 + 2 ^ 21 + 2 ^ 26 + 2 ^ 27), (16, 2), (19, 1), (32, 1), (48, 1), (64, 1),
    (80, 1)]

/-- An MGO whose tile steps stand before its action n. -/
def eGo (n : Nat) (tab : SMap (BitVec 32)) : Entry :=
  { cmd := .mgo 2 (fM { e := 1, c := 1 }), serial := 1, started := true, progress := n, cap := { table := tab } }

/-- Copy entries. -/
def eC (i : Instr) (a b c : Word) : Entry := { cmd := i, serial := 1, cap := { a, b, c } }

/-- Queue 1's head waits for two of s9; the entry heads queue 6. -/
def wct (e : Entry) : State :=
  let o : Entry := { cmd := .mclaim { a := 6, ws := 9, wt := 2 }, serial := 7, wait := some { kind := 2, object := 9, amount := 2 } }
  withTask (headed wme 6 e) (fun t => { t with queues := SMap.put 1 [o] t.queues })

/-- A claiming fill of slot 5 that its handler has skipped. -/
def wmf : State := withTask wme (fun t => t.setSlot 5 { state := 1, fb := true })
def eSkip : Entry :=
  { eM (.cpyslotClaim { a := 5, ss := 9, si := 2 }) with started := true, finished := true, skip := true, err := true, uses := [(5, false)] }

/-- A GROW of two rows of four bytes from global memory; the index list at 0x100. -/
def eGrow (n fl : Nat) : Entry :=
  let d := 0x100000004000 + 2 ^ 64 * 16 + 2 ^ 96 * 8 + 2 ^ 128 * 0x100 + 2 ^ 160 * 2 + 2 ^ 256 * 4 + 2 ^ 280 * fl
  { cmd := .grow 0 { ss := 9, si := 2 }, serial := 1, started := true, progress := n, cap := { a := 0x200, desc := d } }
def wgr (n fl f0 : Nat) : State :=
  let s := withTask wg (fun t => { t with spad := [(0x100, 3)], eng := { t.eng with fifo0 := List.replicate f0 9 } })
  headed s 7 (eGrow n fl)

/-- The unit's index, row and store succeed. -/
def gatherGoes (s : State) (e : Entry) : Bool :=
  let g := gatherOf e.cap.desc
  match rowIndex (onHead s s.sel.task 7 (fun e => { e with unitErr := false, work := SMap.set 0 (SMap.set 0 e.work 0 0) 5 0 })) s.sel.task 7 e g e.progress with
  | .ok (u1, v, false) =>
    SMap.get 0 e.work (16 + v) == 0 && (match readRow u1 s.sel.task 7 e (tableRow g v) (rowSize 0 g.relem) with
      | .ok (u2, bs, false) =>
        (match engWrite u2 s.sel.task 7 e (localRow e.cmd e g e.progress) bs with
          | .ok u3 => u3.hasTask s.sel.task
          | .error _ => false)
      | _ => false)
  | _ => false

/-- Collective entries: XSTEP; XSEND of 16 bytes from 0x100 to 0x400 of the own window in slot 2. -/
def eX (i : Instr) (c : Word) : Entry := { cmd := i, serial := 1, cap := { a := 0x400, b := 0x100, c := c } }
def eSend : Entry := eX (.xsend { slot := 2, ss := 9, si := 2 }) 16
def wxe (clock : Word) (e : Entry) : State :=
  let s := headed wme 8 e
  { withTask s (fun t => { t with eng := { t.eng with wbase := 1000, xlate := 5, xcount := 7 } }) with clock := clock }

theorem witness_MatrixCompletes_mgo : Head (headed wme 1 (eGo 3 tabM)) 1 (eGo 3 tabM) ∧ mgoAction tabM 3 = .tile 3
    ∧ mfBlock (matMf (2 : BitVec 6).toNat none) = false ∧ mgoSlots tabM 3 = (4, 3) ∧
    mgoStepBank (eGo 3 tabM) 2 (fM { e := 1, c := 1 }) 3 = 0 ∧ TileSound (myTask wme) false 0 4 3 :=
  ⟨by constructor <;> decide +kernel, by decide +kernel, by decide, by decide +kernel, by decide +kernel,
    by unfold TileSound; decide +kernel⟩

theorem witness_MatrixCompletes_mgo_empty : mgoAction [] 0 = .tile 0 :=
  by decide +kernel

theorem witness_CopyRuns_wait :
    Head (headed wme 3 (eM (.flush 0 { ws := 9, wt := 3 }))) 3 (eM (.flush 0 { ws := 9, wt := 3 })) ∧
    Fresh (eM (.flush 0 { ws := 9, wt := 3 })) ∧ (myLaunch wme).det = false ∧
    notifyAddr (eM (.flush 0 { ws := 9, wt := 3 })) = none ∧ ((myTask wme).sem 9).count < 3 :=
  ⟨by constructor <;> decide +kernel, by constructor <;> decide, by decide +kernel, by decide, by decide +kernel⟩

theorem witness_CopyRuns_turn : headFirst (myTask (wct (eC (.fill { ws := 9, wt := 2 }) 0 5 8))) (min 6 9) 9 = true
    :=
  by decide +kernel

theorem witness_CopyRuns_error : (2 ≤ ((myTask wme).sem 10).count ∧ ((myTask wme).sem 10).e = true) ∧
    headFirst (myTask (headed wme 6 (eC (.fill { ws := 10, wt := 2 }) 0 5 8))) (min 6 9) 10 = false :=
  ⟨by decide +kernel, by decide +kernel⟩

theorem witness_CopyRuns_copy :
    Head (headed wme 3 (eC (.cpy false {}) 0x200 0x100 0xFFFFFFFFFF)) 3 (eC (.cpy false {}) 0x200 0x100 0xFFFFFFFFFF)
    ∧
    Goes (headed wme 3 (eC (.cpy false {}) 0x200 0x100 0xFFFFFFFFFF)) (eC (.cpy false {}) 0x200 0x100 0xFFFFFFFFFF)
    ∧ (0xFFFFFFFFFF : Word).toNat < 2 ^ 40 :=
  ⟨by constructor <;> decide +kernel, by constructor <;> decide +kernel, by decide⟩

theorem witness_CopyRuns_flush : Goes (headed wme 4 (eM (.flush 4 {}))) (eM (.flush 4 {})) ∧
    (4 : BitVec 3).toNat < 5 :=
  ⟨by constructor <;> decide +kernel, by decide⟩

theorem witness_CopyRuns_slot :
    Head (headed wme 5 (eC (.cpyslotClaim { a := 37 }) 0 0x100 256)) 5 (eC (.cpyslotClaim { a := 37 }) 0 0x100 256)
    ∧ Goes (headed wme 5 (eC (.cpyslotClaim { a := 37 }) 0 0x100 256)) (eC (.cpyslotClaim { a := 37 }) 0 0x100 256)
    ∧
    mayClaim (myTask (headed wme 5 (eC (.cpyslotClaim { a := 37 }) 0 0x100 256))) 5 (eC (.cpyslotClaim { a := 37 }) 0 0x100 256) ((37 : Reg).toNat % 32) = true
    :=
  ⟨by constructor <;> decide +kernel, by constructor <;> decide +kernel, by decide +kernel⟩

theorem witness_CopyRuns_complete :
    Head (headed wme 7 { eM (.gscat 8 { ss := 9, si := 2 }) with started := true, finished := true, err := true }) 7 { eM (.gscat 8 { ss := 9, si := 2 }) with started := true, finished := true, err := true }
    ∧ (myTask wme).eng.gecc.getLsbD 48 = false :=
  ⟨by constructor <;> decide +kernel, by decide +kernel⟩

theorem witness_CopyRuns_complete_skipped : Head (headed wmf 5 eSkip) 5 eSkip ∧
    (eSkip.skip = true ∧ eSkip.uses ≠ []) :=
  ⟨by constructor <;> decide +kernel, by decide⟩

theorem witness_CopyRuns_fill :
    Head (headed wme 3 { eC (.fill { ss := 9, si := 2 }) 0x5FFFF5 0x8877665544332211 11 with started := true }) 3 { eC (.fill { ss := 9, si := 2 }) 0x5FFFF5 0x8877665544332211 11 with started := true }
    ∧
    FreeLaunch (headed wme 3 { eC (.fill { ss := 9, si := 2 }) 0x5FFFF5 0x8877665544332211 11 with started := true })
    ∧ (myTask wme).spsize % 8 = 0 ∧ 0x5FFFF5 + 11 ≤ (myTask wme).spsize :=
  ⟨by constructor <;> decide +kernel, by constructor <;> decide +kernel, by decide +kernel, by decide +kernel⟩

theorem witness_GatherUnits_end : (wgr 2 0 0).hasTask (wgr 2 0 0).sel.task = true ∧
    ((myTask (wgr 2 0 0)).queue 7).head? = some (eGrow 2 0) ∧ (gatherOf (eGrow 2 0).cap.desc).nidx ≤ 2 :=
  ⟨by decide +kernel, by decide +kernel, by decide +kernel⟩

theorem witness_GatherUnits_full : bitOf (gatherOf (eGrow 0 1).cap.desc).flags 0 = true ∧
    64 ≤ ((myTask (wgr 0 1 64)).fifo 0).length ∧ (myTask (wgr 0 1 64)).killed = false :=
  ⟨by decide +kernel, by decide +kernel, by decide +kernel⟩

theorem witness_GatherUnits_row : ((myTask (wgr 0 1 63)).queue 7).head? = some (eGrow 0 1) ∧
    ((myTask (wgr 0 1 63)).fifo 0).length < 64 ∧ gatherGoes (wgr 0 1 63) (eGrow 0 1) = true ∧
    tsoTable (wgr 0 1 63) (wgr 0 1 63).sel.task (eGrow 0 1) = false ∧
    ((eGrow 0 1).order = [] ∧ SMap.get 0 (eGrow 0 1).work 3 = 0 ∧ SMap.get 0 (eGrow 0 1).work (16 + 3) = 0) :=
  ⟨by decide +kernel, by decide +kernel, by decide +kernel, by decide +kernel, by decide⟩

theorem witness_CollectiveRuns_step : (wxe 0 (eX (.xstep { ss := 9, si := 2 }) 0)).hasTask 1 = true ∧
    mayStart (myTask (wxe 0 (eX (.xstep { ss := 9, si := 2 }) 0))) = true ∧
    ((myTask (wxe 0 (eX (.xstep { ss := 9, si := 2 }) 0))).queue 8).head? = some (eX (.xstep { ss := 9, si := 2 }) 0)
    ∧ Fresh (eX (.xstep { ss := 9, si := 2 }) 0) ∧
    Goes (wxe 0 (eX (.xstep { ss := 9, si := 2 }) 0)) (eX (.xstep { ss := 9, si := 2 }) 0) :=
  ⟨by decide +kernel, by decide +kernel, by decide +kernel, by constructor <;> decide,
    by constructor <;> decide +kernel⟩

theorem witness_CollectiveRuns_slot : Goes (wxe 1128 eSend) eSend ∧ transmits eSend = true ∧
    collectiveBad (wxe 1128 eSend) (wxe 1128 eSend).sel.task eSend = none ∧
    (wxe 1128 eSend).clock.toNat ≤ (myTask (wxe 1128 eSend)).eng.wbase.toNat + 64 * slotOf eSend.cmd :=
  ⟨by constructor <;> decide +kernel, by decide, by decide +kernel, by decide +kernel⟩

theorem witness_CollectiveRuns_late : collectiveBad (wxe 1129 eSend) (wxe 1129 eSend).sel.task eSend = none ∧
    (myTask (wxe 1129 eSend)).eng.wbase.toNat + 64 * slotOf eSend.cmd < (wxe 1129 eSend).clock.toNat ∧
    bitsOf (myTask (wxe 1129 eSend)).eng.xlate.toNat 0 24 < 0xFFFFFF :=
  ⟨by decide +kernel, by decide +kernel, by decide +kernel⟩

theorem witness_CollectiveRuns_begin :
    ((myTask (wxe 1128 { eSend with slotTime := some 1128 })).queue 8).head? = some { eSend with slotTime := some 1128 }
    :=
  by decide +kernel

theorem witness_CollectiveRuns_held :
    ((myTask (wxe 1129 { eSend with slotTime := some 1128 })).queue 8).head? = some { eSend with slotTime := some 1128 }
    ∧ bitsOf (myTask (wxe 1129 { eSend with slotTime := some 1128 })).eng.xlate.toNat 0 24 < 0xFFFFFF ∧
    nextBoundary (myTask (wxe 1129 { eSend with slotTime := some 1128 })).eng.wbase.toNat (wxe 1129 { eSend with slotTime := some 1128 }).clock.toNat ≠ (wxe 1129 { eSend with slotTime := some 1128 }).clock.toNat
    :=
  ⟨by decide +kernel, by decide +kernel, by decide +kernel⟩

theorem witness_CollectiveRuns_done :
    ((myTask (wxe 0 { eSend with started := true, finished := true, cap := { c := 2 ^ 36 } })).queue 8).head? = some { eSend with started := true, finished := true, cap := { c := 2 ^ 36 } }
    ∧ (ctlFifo (2 ^ 36) = true ∧ ctlRinc (2 ^ 36) = 0) ∧
    ((myTask (wxe 0 { eSend with started := true, finished := true, cap := { c := 2 ^ 36 } })).fifo 1).length < 64
    :=
  ⟨by decide +kernel, by decide, by decide +kernel⟩

/-- A strand's request, its identity 5, at die 0's HBM. -/
def party : Party := { task := 1, strand := 0 }
def req5 (h : Home) (a : Nat) (op : AccOp) : Msg :=
  { req := .acc party 5, acc := { who := party, home := h, addr := a, va := w64 a, op := op } }

/-- The message travels; the scratchpad of task 3 has no core. -/
def wn (m : Msg) : State := { wg with net := [(5, m)], nextMsg := 9, sel := { wg.sel with msg := 5 } }

/-- Thirty-two requests hold the forward-pending entries of the station. -/
def wfw (m : Msg) : State :=
  { wn m with net := (5, m) :: (List.range 32).map (fun i => (10 + i, { chan := 1, acc := { home := .spad 3 }, forwarded := true, pendingFwd := true })) }

/-- Task 3's word at 0x20 is full, its word at 0x28 empty. -/
def wfr (m : Msg) : State := (wn m).modTask 3 (fun t => { t with spad := writeBytes [] 0x20 (bytesOf 300 8), full := [4], badWords := [] })

/-- A round of four at die 0's HBM holds ranks 3 and 0 or 3, 2 and 0; a contribution of ranks comes. -/
def partOf (r v : Nat) (nr : Bool) : RoundPart :=
  { lo := r, hi := r, v := v, req := .acc party (20 + r), station := r, acc := { who := party, home := .hbm 0, addr := 0x4000, va := w64 0x4000, op := .amor .swap 4 r r v, nr := nr } }
def wround (ranks : List Nat) (nr : Bool) (m : Msg) : State :=
  { wn m with rounds := [(locKey (.hbm 0) 0x4000, { acc := m.acc, fn := .swap, n := 4, parts := ranks.map (fun r => partOf r (100 + r) nr) })] }
def mround (lo hi : Nat) : Msg := req5 (.hbm 0) 0x4000 (.amor .swap 4 lo hi 55)

/-- The strand waits for the reply of access 5; message 6 is its answer. -/
def outNow (d : Option Dest) (parks : Bool) (op : AccOp) : Outstanding :=
  { id := 5, acc := { who := party, home := .hbm 0, addr := 0x4000, va := 0x100000004000, nr := d.isNone, op := op }, dest := d, parks := parks,
    pc := 0x1000 }
def ans (o : Outstanding) (r : Reply) : Msg := { chan := 2, req := .acc party 5, acc := o.acc, reply := some r }
def wa (o : Outstanding) (r : Reply) : State :=
  { withStrand wg (fun x => { x with outs := [outOf 2, o].map (fun y => if y = o then o else { y with id := 8 }) }) with
    net := [(6, ans o r)], nextMsg := 9, sel := { wg.sel with msg := 6 } }
def oLoad : Outstanding := outNow (some { reg := 7, width := 16, signed := true }) true .load
def oStore : Outstanding := outNow none false (.store [some 1])

/-- The strand waits for the old value of a contribution, parked at its AMOR. -/
def oAmor : Outstanding := { outNow (some { reg := 7, width := 32, signed := true }) true (.amor .add 4 1 1 9) with ilen := 2 }

/-- The request stands at station 0, its home's station at hop outcome h; another message of its stream in the crossbar. -/
def wnh (h : HopOutcome) (m : Msg) : State := { wn m with sel := { wg.sel with msg := 5, hop := h } }
def mh : Msg := { req5 (.hbm 0) 0x4000 .load with dstStation := 1, fails := 14 }
def mx : Msg := { mh with xbar := true }
def wx2 : State := { wnh .good mx with net := [(5, mx), (7, { mx with req := .acc party 7 })] }
def mp : Msg := { mh with pendingFwd := true }
def mw : Msg := { mh with acc := { mh.acc with op := .store [some 1] }, nfl := 1 }
def wfull2 (h : HopOutcome) (m : Msg) : State := wnh h m

/-- A walk of the strand for a page stands with die 0. -/
def walkOf (page : Nat) : Walk := { fn := 1, page := page, stamp := 0, source := 0, waiters := [.strand 1 0] }
def ww (page : Nat) : State :=
  (withStrand (mapped w) (fun x => { x with wait := some { kind := 0, object := page } })).modDie 0 (fun d => { d with walks := [walkOf page] })

/-- The walk answers, or faults. -/
def walks (s : State) (page : Nat) : Bool :=
  match walk s 1 page with
  | .ok _ => true
  | .error _ => false

theorem witness_RequestsPerform_load : AtHome (wn (req5 (.hbm 0) 0x4000 .load)) (req5 (.hbm 0) 0x4000 .load) ∧
    Arrived (wn (req5 (.hbm 0) 0x4000 .load)) (req5 (.hbm 0) 0x4000 .load) 0 ∧ (∀ j, Home.hbm 0 ≠ .host j) :=
  ⟨by constructor <;> decide +kernel, ⟨by decide +kernel, rfl, by decide +kernel, nofun, rfl⟩,
    (fun _ h => nomatch h)⟩

theorem witness_RequestsPerform_host : AtHome (wn (req5 (.host 0) (2 ^ 46) .load)) (req5 (.host 0) (2 ^ 46) .load)
    ∧ Arrived (wn (req5 (.host 0) (2 ^ 46) .load)) (req5 (.host 0) (2 ^ 46) .load) 0 :=
  ⟨by constructor <;> decide +kernel, ⟨by decide +kernel, rfl, by decide +kernel, nofun, rfl⟩⟩

theorem witness_RequestsPerform_host_data :
    SMap.find 5 (wn { req5 (.host 0) (2 ^ 46) .load with chan := 3 }).net = some { req5 (.host 0) (2 ^ 46) .load with chan := 3 }
    ∧ AtHome (wn { req5 (.host 0) (2 ^ 46) .load with chan := 3 }) { req5 (.host 0) (2 ^ 46) .load with chan := 3 }
    ∧
    streamWaits (wn { req5 (.host 0) (2 ^ 46) .load with chan := 3 }) { req5 (.host 0) (2 ^ 46) .load with chan := 3 } = false
    :=
  ⟨by decide +kernel, by constructor <;> decide +kernel, by decide +kernel⟩

theorem witness_RequestsPerform_store :
    AtHome (wn (req5 (.spad 3) 0x100 (.store [some 1, none]))) (req5 (.spad 3) 0x100 (.store [some 1, none])) ∧
    Arrived (wn (req5 (.spad 3) 0x100 (.store [some 1, none]))) (req5 (.spad 3) 0x100 (.store [some 1, none])) 0 ∧
    isHeritage 0x100 = false :=
  ⟨by constructor <;> decide +kernel, ⟨by decide +kernel, rfl, by decide +kernel, nofun, rfl⟩, by decide⟩

theorem witness_RequestsPerform_atomic :
    AtHome (wn (req5 (.hbm 0) 0x4000 (.atomic .maxu 9))) (req5 (.hbm 0) 0x4000 (.atomic .maxu 9)) ∧
    Arrived (wn (req5 (.hbm 0) 0x4000 (.atomic .maxu 9))) (req5 (.hbm 0) 0x4000 (.atomic .maxu 9)) 0 :=
  ⟨by constructor <;> decide +kernel, ⟨by decide +kernel, rfl, by decide +kernel, nofun, rfl⟩⟩

theorem witness_RequestsPerform_cas :
    Arrived (wn (req5 (.hbm 0) 0x4000 (.cas 0 9))) (req5 (.hbm 0) 0x4000 (.cas 0 9)) 0 :=
  ⟨by decide +kernel, rfl, by decide +kernel, nofun, rfl⟩

theorem witness_RequestsPerform_signal :
    AtHome (wn (req5 (.spad 3) 0x7003FC (.signal 15 true))) (req5 (.spad 3) 0x7003FC (.signal 15 true)) ∧
    Arrived (wn (req5 (.spad 3) 0x7003FC (.signal 15 true))) (req5 (.spad 3) 0x7003FC (.signal 15 true)) 0 :=
  ⟨by constructor <;> decide +kernel, ⟨by decide +kernel, rfl, by decide +kernel, nofun, rfl⟩⟩

theorem witness_RequestsPerform_collective :
    AtHome (wn { req5 (.spad 3) 0x100 (.coll [some 7]) with chan := 2 }) { req5 (.spad 3) 0x100 (.coll [some 7]) with chan := 2 }
    ∧
    deliverable (wn { req5 (.spad 3) 0x100 (.coll [some 7]) with chan := 2 }) { req5 (.spad 3) 0x100 (.coll [some 7]) with chan := 2 } = true
    :=
  ⟨by constructor <;> decide +kernel, by decide +kernel⟩

theorem witness_RequestsPerform_moved :
    Arrived (wn { req5 (.spad 3) 0x100 (.store [some 7]) with core := some 35 }) { req5 (.spad 3) 0x100 (.store [some 7]) with core := some 35 } 0
    ∧
    movedAway (wn { req5 (.spad 3) 0x100 (.store [some 7]) with core := some 35 }) { req5 (.spad 3) 0x100 (.store [some 7]) with core := some 35 } = true
    ∧
    pendingForwards (wn { req5 (.spad 3) 0x100 (.store [some 7]) with core := some 35 }) { req5 (.spad 3) 0x100 (.store [some 7]) with core := some 35 }.at_ < 32
    :=
  ⟨⟨by decide +kernel, rfl, by decide +kernel, nofun, rfl⟩, by decide +kernel, by decide +kernel⟩

theorem witness_RequestsPerform_moved_full :
    Arrived (wfw { req5 (.spad 3) 0x100 (.store [some 7]) with core := some 35 }) { req5 (.spad 3) 0x100 (.store [some 7]) with core := some 35 } 0
    ∧
    movedAway (wfw { req5 (.spad 3) 0x100 (.store [some 7]) with core := some 35 }) { req5 (.spad 3) 0x100 (.store [some 7]) with core := some 35 } = true
    ∧
    32 ≤ pendingForwards (wfw { req5 (.spad 3) 0x100 (.store [some 7]) with core := some 35 }) { req5 (.spad 3) 0x100 (.store [some 7]) with core := some 35 }.at_
    :=
  ⟨⟨by decide +kernel, rfl, by decide +kernel, nofun, rfl⟩, by decide +kernel, by decide +kernel⟩

theorem witness_RequestsPerform_forwarded :
    Arrived (wn { req5 (.spad 3) 0x100 (.store [some 7]) with chan := 1 }) { req5 (.spad 3) 0x100 (.store [some 7]) with chan := 1 } 1
    ∧
    AtHome (wn { req5 (.spad 3) 0x100 (.store [some 7]) with chan := 1 }) { req5 (.spad 3) 0x100 (.store [some 7]) with chan := 1 }
    :=
  ⟨⟨by decide +kernel, rfl, by decide +kernel, nofun, rfl⟩, by constructor <;> decide +kernel⟩

theorem witness_RequestsPerform_redirected :
    Arrived (wn { req5 (.spad 3) 0x100 (.store [some 7]) with chan := 1, core := some 35 }) { req5 (.spad 3) 0x100 (.store [some 7]) with chan := 1, core := some 35 } 1
    ∧
    movedAway (wn { req5 (.spad 3) 0x100 (.store [some 7]) with chan := 1, core := some 35 }) { req5 (.spad 3) 0x100 (.store [some 7]) with chan := 1, core := some 35 } = true
    :=
  ⟨⟨by decide +kernel, rfl, by decide +kernel, nofun, rfl⟩, by decide +kernel⟩

theorem witness_RequestsPerform_forwarded_kinds :
    Arrived (wn { req5 (.spad 3) 0x7003FC (.signal 15 true) with chan := 1 }) { req5 (.spad 3) 0x7003FC (.signal 15 true) with chan := 1 } 1
    ∧
    AtHome (wn { req5 (.spad 3) 0x7003FC (.signal 15 true) with chan := 1 }) { req5 (.spad 3) 0x7003FC (.signal 15 true) with chan := 1 }
    ∧ AtHome (wn { req5 (.spad 3) 0x100 .load with chan := 1 }) { req5 (.spad 3) 0x100 .load with chan := 1 } ∧
    AtHome (wn { req5 (.spad 3) 0x100 (.cas 0 9) with chan := 1 }) { req5 (.spad 3) 0x100 (.cas 0 9) with chan := 1 }
    ∧ isSemAddr 0x100 = false ∧
    ((∀ op ∈ [AccOp.load, .store [], .atomic .add 1, .cas 0 1, .amox 1 0, .amor .add 2 0 0 1, .signal 1 true,
      .fe .stfl 1], requestStep op ≠ none))
    :=
  ⟨⟨by decide +kernel, rfl, by decide +kernel, nofun, rfl⟩, by constructor <;> decide +kernel,
    by constructor <;> decide +kernel, by constructor <;> decide +kernel, by decide, by decide⟩

theorem witness_WaitersAndRounds_stfl :
    Arrived (wfr (req5 (.spad 3) 0x28 (.fe .stfl 9))) (req5 (.spad 3) 0x28 (.fe .stfl 9)) 0 ∧
    AtHome (wfr (req5 (.spad 3) 0x28 (.fe .stfl 9))) (req5 (.spad 3) 0x28 (.fe .stfl 9)) ∧ isHeritage 0x28 = false
    ∧ ((wfr (req5 (.spad 3) 0x28 (.fe .stfl 9))).task 3).feWaiters = [] ∧
    homeBad (wfr (req5 (.spad 3) 0x28 (.fe .stfl 9))) (.spad 3) 0x28 8 = false :=
  ⟨⟨by decide +kernel, rfl, by decide +kernel, nofun, rfl⟩, by constructor <;> decide +kernel, by decide,
    by decide +kernel, by decide +kernel⟩

theorem witness_WaitersAndRounds_ldfe :
    Arrived (wfr (req5 (.spad 3) 0x20 (.fe .ldfe 0))) (req5 (.spad 3) 0x20 (.fe .ldfe 0)) 0 ∧
    AtHome (wfr (req5 (.spad 3) 0x20 (.fe .ldfe 0))) (req5 (.spad 3) 0x20 (.fe .ldfe 0)) ∧
    isFull ((wfr (req5 (.spad 3) 0x20 (.fe .ldfe 0))).task 3) 4 = true :=
  ⟨⟨by decide +kernel, rfl, by decide +kernel, nofun, rfl⟩, by constructor <;> decide +kernel, by decide +kernel⟩

theorem witness_WaitersAndRounds_waits :
    Arrived (wfr (req5 (.spad 3) 0x28 (.fe .ldfe 0))) (req5 (.spad 3) 0x28 (.fe .ldfe 0)) 0 ∧
    isFull ((wfr (req5 (.spad 3) 0x28 (.fe .ldfe 0))).task 3) 5 = false :=
  ⟨⟨by decide +kernel, rfl, by decide +kernel, nofun, rfl⟩, by decide +kernel⟩

theorem witness_WaitersAndRounds_opens :
    Arrived (wn (req5 (.hbm 0) 0x4000 (.amor .add 4 1 3 9))) (req5 (.hbm 0) 0x4000 (.amor .add 4 1 3 9)) 0 ∧
    AtHome (wn (req5 (.hbm 0) 0x4000 (.amor .add 4 1 3 9))) (req5 (.hbm 0) 0x4000 (.amor .add 4 1 3 9)) ∧
    SMap.find (locKey (.hbm 0) 0x4000) (wn (req5 (.hbm 0) 0x4000 (.amor .add 4 1 3 9))).rounds = none :=
  ⟨⟨by decide +kernel, rfl, by decide +kernel, nofun, rfl⟩, by constructor <;> decide +kernel, by decide +kernel⟩

theorem witness_WaitersAndRounds_completes :
    Arrived (wn (req5 (.hbm 0) 0x4000 (.amor .add 1 0 0 9))) (req5 (.hbm 0) 0x4000 (.amor .add 1 0 0 9)) 0 ∧
    AtHome (wn (req5 (.hbm 0) 0x4000 (.amor .add 1 0 0 9))) (req5 (.hbm 0) 0x4000 (.amor .add 1 0 0 9)) :=
  ⟨⟨by decide +kernel, rfl, by decide +kernel, nofun, rfl⟩, by constructor <;> decide +kernel⟩

theorem witness_ExactAndRankedAtomics_round : ∃ r, Arrived (wround [0, 3] false (mround 1 2)) (mround 1 2) 0 ∧
    AtHome (wround [0, 3] false (mround 1 2)) (mround 1 2) ∧
    SMap.find (locKey (.hbm 0) 0x4000) (wround [0, 3] false (mround 1 2)).rounds = some r ∧
    (r.fn = .swap ∧ r.n = 4 ∧ r.acc.size = (mround 1 2).acc.size) ∧ rangeFree r 1 2 = true ∧ Ascending r.parts ∧
    (∀ p ∈ r.parts, p.lo ≤ p.hi ∧ ((wround [0, 3] false (mround 1 2)).launchOf p.acc.who.task).det = false) ∧
    ranksIn r + (2 - 1 + 1) = 4 ∧ ranksIn r + (2 - 2 + 1) < 4 :=
  ⟨_, ⟨by decide +kernel, rfl, by decide +kernel, nofun, rfl⟩, by constructor <;> decide +kernel, rfl, by decide,
    by decide, by unfold Ascending; decide +kernel, by decide +kernel, by decide, by decide⟩

theorem witness_ExactAndRankedAtomics_answer :
    amorTable (.amorAdd { d := 7, a := 1, b := 2, k := 10, n := 11 }) = some (.add, { d := 7, a := 1, b := 2, k := 10, n := 11 })
    ∧ Answers (wa oAmor (.data 0x80000001)) (ans oAmor (.data 0x80000001)) (.data 0x80000001) party oAmor ∧
    (oAmor.dest = some { reg := (7 : Reg).toNat, width := 8 * 4, signed := true } ∧ oAmor.parks = true ∧ oAmor.forSaved = false ∧ oAmor.ilen = 2)
    ∧ ((wa oAmor (.data 0x80000001)).strand 1 0).live = true ∧
    ((wa oAmor (.data 0x80000001)).task 1).dbgctl.getLsbD 0 = false ∧
    loopAt ((wa oAmor (.data 0x80000001)).task 1) 0 ((wa oAmor (.data 0x80000001)).strand 1 0).r.pc = none :=
  ⟨by decide, by constructor <;> decide +kernel, by decide, by decide +kernel, by decide +kernel,
    by decide +kernel⟩

theorem witness_AnswersArrive_data :
    Answers (wa oLoad (.data 0x8001)) (ans oLoad (.data 0x8001)) (.data 0x8001) party oLoad ∧
    ((wa oLoad (.data 0x8001)).strand 1 0).live = true ∧
    ((wa oLoad (.data 0x8001)).task 1).dbgctl.getLsbD 0 = false ∧
    loopAt ((wa oLoad (.data 0x8001)).task 1) 0 ((wa oLoad (.data 0x8001)).strand 1 0).r.pc = none :=
  ⟨by constructor <;> decide +kernel, by decide +kernel, by decide +kernel, by decide +kernel⟩

theorem witness_AnswersArrive_ack :
    Answers (wa oStore (.ack false)) (ans oStore (.ack false)) (.ack false) party oStore ∧
    (oStore.parks = false ∧ oStore.dest = none ∧ oStore.forSaved = false) :=
  ⟨by constructor <;> decide +kernel, by decide⟩

theorem witness_AnswersArrive_fault :
    Answers (wa oStore (.fault { cause := 9 })) (ans oStore (.fault { cause := 9 })) (.fault { cause := 9 }) party oStore
    ∧ (ans oStore (.fault { cause := 9 })).acc.nr = true :=
  ⟨by constructor <;> decide +kernel, by decide⟩

theorem witness_AnswersArrive_link :
    Answers (wa oStore (.fault { cause := 39 })) (ans oStore (.fault { cause := 39 })) (.fault { cause := 39 }) party oStore
    :=
  by constructor <;> decide +kernel

theorem witness_AnswersArrive_redirect :
    Answers (wa oLoad (.redirect (.spad 3))) (ans oLoad (.redirect (.spad 3))) (.redirect (.spad 3)) party oLoad :=
  by constructor <;> decide +kernel

theorem witness_FlitsHop_crossbar : SMap.find 5 wx2.net = some mx ∧ (mx.chan ≤ 2 ∧ mx.xbar = true) ∧
    (∀ e ∈ wx2.net, e.2.xbar = true → sameStream e.2 mx = true → ∀ i ∈ e.2.req.id?, ∀ j ∈ mx.req.id?, j ≤ i) :=
  ⟨by decide +kernel, by decide, by decide +kernel⟩

theorem witness_FlitsHop_pending : SMap.find 5 (wnh .good mp).net = some mp ∧
    (mp.xbar = false ∧ mp.pendingFwd = true) :=
  ⟨by decide +kernel, by decide⟩

theorem witness_FlitsHop_good : SMap.find 5 (wnh .good mh).net = some mh ∧
    (mh.xbar = false ∧ mh.pendingFwd = false ∧ mh.at_ ≠ mh.dstStation) ∧ (wnh .good mh).sel.hop = .good ∧
    HopFree (wnh .good mh) 5 mh (mh.slot.getD (laneSlot (wnh .good mh) (hopOf (wnh .good mh) mh))) ∧
    mh.nfl ≤ mh.seq :=
  ⟨by decide +kernel, by decide, by decide, by unfold HopFree; decide +kernel, by decide⟩

theorem witness_FlitsHop_flit : SMap.find 5 (wnh .good mw).net = some mw ∧
    (mw.xbar = false ∧ mw.pendingFwd = false ∧ mw.at_ ≠ mw.dstStation) ∧
    HopFree (wnh .good mw) 5 mw (mw.slot.getD (laneSlot (wnh .good mw) (hopOf (wnh .good mw) mw))) ∧
    mw.seq < mw.nfl :=
  ⟨by decide +kernel, by decide, by unfold HopFree; decide +kernel, by decide⟩

theorem witness_FlitsHop_again : (wnh .crcBad mh).sel.hop = .crcBad ∧ mh.fails < 15 :=
  ⟨by decide, by decide⟩

theorem witness_FlitsHop_failed :
    SMap.find 5 (wnh .crcBad { mh with fails := 15 }).net = some { mh with fails := 15 } ∧
    (∀ ids, mh.req ≠ .list ids) :=
  ⟨by decide +kernel, (fun _ h => nomatch h)⟩

theorem witness_FlitsHop_refused : (wnh .refuse mh).sel.hop = .refuse ∧
    (mh.chan ≤ 1 ∧ endsRing (podModules (wnh .refuse mh)) (hopOf (wnh .refuse mh) mh) mh.dstStation = true) ∧
    refusal mh (hopOf (wnh .refuse mh) mh).next = none ∧ pairAhead (wnh .refuse mh) mh = false ∧
    (mh.slot = none → slotTaken (wnh .refuse mh) 5 mh (hopOf (wnh .refuse mh) mh) (laneSlot (wnh .refuse mh) (hopOf
      (wnh .refuse mh) mh)) = false)
    ∧ (∀ inc e, mh.acc.op ≠ .signal inc e) :=
  ⟨by decide, by decide +kernel, by decide +kernel, by decide +kernel, by decide +kernel, (fun _ _ h => nomatch h)⟩

theorem witness_WalksEnd_ok : nextWalk ((ww (2 ^ 27)).die (ww (2 ^ 27)).sel.die) = some (walkOf (2 ^ 27)) ∧
    (ww (2 ^ 27)).hasTask 1 = true ∧ (((ww (2 ^ 27)).strand 1 0).wait.map (·.kind)) = some 0 ∧
    walks (ww (2 ^ 27)) (2 ^ 27) = true :=
  ⟨by decide +kernel, by decide +kernel, by decide +kernel, by decide +kernel⟩

theorem witness_WalksEnd_fault : nextWalk ((ww (2 ^ 28)).die (ww (2 ^ 28)).sel.die) = some (walkOf (2 ^ 28)) ∧
    walks (ww (2 ^ 28)) (2 ^ 28) = false :=
  ⟨by decide +kernel, by decide +kernel⟩

/-- The bytes of a packet at 0x20000 that are not 0. -/
def packetBytes (p : Nat) : SMap Byte :=
  (List.range 64).filterMap (fun i => if p / 256 ^ i % 256 = 0 then none else some (0x20000 + i,
    BitVec.ofNat 8 (p / 256 ^ i)))

/-- A queue of function 1 whose packet at QRDIX is p, with other fields as f sets them. -/
def wpk (p : Nat) (f : HostQueue → HostQueue := id) : State :=
  let q : HostQueue := { qbase := 0x100000020000, qctl := 1, rdix := 0, wrix := 1 }
  let s := mapped w
  { s with mem := tables ++ packetBytes p, queues := [(18, f q)], sel := { w.sel with fn := 1, queue := 2, task := 1 } }

/-- Packets: WAITSIG at most 5 and SIGNAL 9 at 0x30000, COPY of 16 bytes, LAUNCH of one task. -/
def pWait : Nat := 1 + 2 ^ 8 * 2 + 2 ^ 64 * 0x100000030000 + 2 ^ 128 * 5
def pSig (add : Nat) : Nat := 1 + 2 ^ 8 * 3 + 2 ^ 64 * 0x100000030000 + 2 ^ 128 * 9 + 2 ^ 192 * add
def pCopy : Nat := 1 + 2 ^ 8 * 4 + 2 ^ 64 * 0x100000030000 + 2 ^ 128 * 0x100000030040 + 2 ^ 192 * 16 + 2 ^ 256 *
  0x100000030080
def pLaunch : Nat :=
  1 + 2 ^ 8 + 2 ^ 64 * 0x100000005000 + 2 ^ 128 * 7 + 2 ^ 192 * 0x100000030000 + 2 ^ 256 * (1 + 128) + 2 ^ 320 * 1

/-- The word at 0x30000. -/
def wword (s : State) (v : Nat) : State := { s with mem := writeBytes s.mem 0x30000 (bytesOf v 8) }

/-- The packet's first word can be written. -/
def writable (u : State) (k p : Nat) : Bool :=
  match directWrite u (k / 16) (packetAddr (u.hostQueue k) (u.hostQueue k).rdix) true (bytesOf (p % 2 ^ 32 - 1) 4) with
  | .ok _ => true
  | .error _ => false

/-- Bytes of one page are read where its walk leads. -/
theorem directRead_page {s : State} {fn p : Nat} {sup : Bool} {e : TlbEntry} (hw : walk s fn p = .ok e)
    (hd : denied e .read sup = none) : ∀ (n : Nat) (va : Word), (∀ i < n,
      isGlobal (va + w64 i) = true ∧ pageOf (va + w64 i) = p) →
    directRead s fn va sup n = .ok ((List.range n).map (fun i => readByte s.mem (e.pa + (va + w64 i).toNat % 2 ^ 17)))
      := by
  intro n
  induction n with
  | zero => intro va _; rfl
  | succ n ih =>
    intro va h
    have h0 := h 0 (by omega)
    have hz : va + w64 0 = va := by simp [w64]
    have hs : ∀ i, va + 1 + w64 i = va + w64 (i + 1) := by
      intro i; simp only [w64]; rw [BitVec.ofNat_add, BitVec.add_comm (BitVec.ofNat 64 i), ← BitVec.add_assoc]; rfl
    rw [hz] at h0
    have hr := ih (va + 1) (fun i hi => by rw [hs]; exact h (i + 1) (by omega))
    have hpa : directPa s fn va .read sup = .ok (e.pa + va.toNat % 2 ^ 17) := by
      simp [directPa, h0.1, h0.2, hw, hd, bind, Except.bind, pure, Except.pure]
    simp only [directRead, hpa, hr, bind, Except.bind, pure, Except.pure, hs]
    rw [List.range_succ_eq_map, List.map_cons, List.map_map, hz]
    rfl

/-- The page of the packets, as a walk finds it. -/
def pageHbm : TlbEntry :=
  { fn := 1, page := 2 ^ 27 + 1, pa := 0x20000, vr := true, vw := true, vx := true, hr := true, hw := true, hx := true, user := true, tso := true }

/-- A packet stands at QRDIX when its page's walk, its bytes and its form say so. -/
theorem packetAt_page {s : State} {k type p : Nat} (hf : mayFetch s k = true) (hq : queueTurn s k = true)
    (hw : (walk s (k / 16) (2 ^ 27 + 1)).toOption = some pageHbm)
    (hp : ∀ i < 64, isGlobal (packetAddr (s.hostQueue k) (s.hostQueue k).rdix + w64 i) = true
      ∧ pageOf (packetAddr (s.hostQueue k) (s.hostQueue k).rdix + w64 i) = 2 ^ 27 + 1)
    (hb : leNat ((List.range 64).map (fun i => readByte s.mem
      (pageHbm.pa + (packetAddr (s.hostQueue k) (s.hostQueue k).rdix + w64 i).toNat % 2 ^ 17))) = p)
    (hm : malformed p = false) (ht : packetType p = type) : PacketAt s k type p := by
  have hw' : walk s (k / 16) (2 ^ 27 + 1) = .ok pageHbm := by
    cases h : walk s (k / 16) (2 ^ 27 + 1) with
    | error f => rw [h] at hw; simp [Except.toOption] at hw
    | ok e => rw [h] at hw; simp [Except.toOption] at hw; rw [hw]
  have h0 : pageOf (packetAddr (s.hostQueue k) (s.hostQueue k).rdix) = 2 ^ 27 + 1 := by
    have := (hp 0 (by omega)).2; simpa [w64] using this
  have hr : ringPage s (k / 16) (packetAddr (s.hostQueue k) (s.hostQueue k).rdix) = true := by
    unfold ringPage; rw [h0, hw']; decide
  refine ⟨hf, hq, ?_, hm, ht⟩
  unfold readPacket
  simp only [directRead_page hw' (show denied pageHbm .read true = none by decide) 64 _ hp, hb, hr, if_true]

/-- The launch waits to be judged. -/
def lWait : Launch :=
  { launchOfBlock 1 18 false false 0 false 0 ((List.range 7).map (fun i => bitsOf pLaunch (64 + 64 * i) 64)) with serial := 2 }
def wjudge : State :=
  let s := wpk pLaunch (fun q => { q with busy := some 2 })
  { s with launches := SMap.put 2 lWait s.launches }

/-- A register write of function 1. -/
def wreg (off : Nat) (v : Word) (f : HostQueue → HostQueue := id) : State :=
  let q : HostQueue := { qctl := 1, rdix := 0xFFFFFFFE, wrix := 0xFFFFFFFF }
  { w with queues := [(31, f q)], sel := { w.sel with fn := 1, addr := off, size := 8, val := v } }

/-- The host's window and aperture accesses of function 1. -/
def whw (addr size : Nat) (v : Word) (flag : Bool) : State :=
  let f : Function := { (mapped w).function 1 with apbase := 0x100000000000 }
  { mapped w with
    functions := [(1, f)], wown := [(1, 257), (255, 257)], win := [(0x10001, 9)],
    sel := { w.sel with fn := 1, addr := addr, size := size, val := v, flag := flag } }

/-- Task 1 waits for a core of die 0, whose core 0 is taken by task 3. -/
def wready (placed : Bool) (f : Task → Task := id) : State :=
  let s := withTask w (fun t => f { t with place := if placed then .saved else .ready, placed := placed })
  (s.modTask 3 (fun t => { t with place := .running 0, placed := true })).modDie 0 (fun d => { d with levels := [(0, { level := 3 })] })

/-- The one launch of queue 0 that waits is not accepted yet. -/
def wunacc : State :=
  { w.modTask 3 (fun t => { t with place := .parked }) with
           launches := SMap.put 2 { fn := 1, queue := 0, serial := 5, width := 1, height := 1 } w.launches,
           dies := (w.modDie 0 (fun d => { d with levels := [(0, { level := 3, since := 5 })] })).dies }

/-- Task 1 runs while task 3 waits on its die. -/
def wrun (clock : Word) (f : Task → Task := id) : State :=
  let s := withTask w (fun t => f { t with quantum := 5 })
  { s.modTask 3 (fun t => { t with place := .ready }) with clock := clock }

/-- Task 1 sets out, and the guard of strand 0, whose sync point is behind it, does not agree. -/
def wguardOut (rp : Bool) : State :=
  let s := wrun 7 (fun t => { t with leaving := some 3 })
  let s2 := s.modStrand 1 0 (fun x => { x with replaying := rp, sync := { x.sync with regs := { x.r with pc := 0xFF0, g := [(2, 5)] }, seq := 3 } })
  { s2 with sel := { s2.sel with guard := .mismatch } }

/-- Every core of die 0 is out of service but core 0; function 1's queue 0 stands at level 0, task 3's queue at 3. -/
def wvictim : State :=
  let s := wrun 0
  let cores : SMap Core := (List.range 36).map (fun c => (c, { (s.die 0).core c with inService := decide (c = 0) }))
  let l : Launch := { s.launch 1 with queue := 9, prio := 3 }
  ({ s with launches := SMap.put 4 l s.launches }.modTask 3 (fun t => { t with launch := 4 })).modDie 0 (fun d => { d with cores := cores })

/-- Task 1 is saved with a command in its first matrix queue; a resume of a trap is due when r is set. -/
def wsaved (r : Bool) : State :=
  wready true (fun t => { t with queues := [(1, [eM (.mtile 0 {})]), (3, [eM (.fill {})])],
                                 freeze := if r then some { strand := 0, queue := none, stamp := 0 } else none,
                                 pendingResume := if r then some { strand := 0, queue := none, stamp := 0 } else none })

/-- No core of die 0 has a matrix engine left. -/
def wparked : State :=
  let s := (wsaved false).modTask 1 (fun t => { t with spsize := 0x1000 })
  s.modDie 0 (fun d => { d with cores := (List.range 36).map (fun c => (c, { d.core c with me0 := 3, me1 := 3 })) })

theorem witness_PacketsTaken_waitsig : PacketAt (wword (wpk pWait) 5) 18 2 pWait ∧
    hostPlace (wword (wpk pWait) 5) 1 (w64 (bitsOf pWait 64 64)) .read = some (.hbm 0, 0x30000) ∧
    homeRead (wword (wpk pWait) 5) (.hbm 0) 0x30000 8 = 5 ∧ writable (wword (wpk pWait) 5) 18 pWait = true :=

    ⟨packetAt_page (by decide +kernel) (by decide +kernel) (by decide +kernel) (by decide +kernel) (by decide +kernel)
      (by decide +kernel) (by decide +kernel),
    by decide +kernel, by decide +kernel, by decide +kernel⟩

theorem witness_PacketsTaken_waitsig_other : homeRead (wword (wpk pWait) 6) (.hbm 0) 0x30000 8 = 6 ∧
    homeRead (wword (wpk pWait) (2 ^ 63)) (.hbm 0) 0x30000 8 = 2 ^ 63 :=
  ⟨by decide +kernel, by decide +kernel⟩

theorem witness_PacketsTaken_signal : PacketAt (wword (wpk (pSig 1)) 5) 18 3 (pSig 1) ∧
    hostPlace (wword (wpk (pSig 1)) 5) 1 (w64 (bitsOf (pSig 1) 64 64)) .readWrite = some (.hbm 0, 0x30000) ∧
    writable (wword (wpk (pSig 1)) 5) 18 (pSig 1) = true ∧
    hostPlace (wword (wpk (pSig 0)) 5) 1 (w64 (bitsOf (pSig 0) 64 64)) .write = some (.hbm 0, 0x30000) :=

    ⟨packetAt_page (by decide +kernel) (by decide +kernel) (by decide +kernel) (by decide +kernel) (by decide +kernel)
      (by decide +kernel) (by decide +kernel),
    by decide +kernel, by decide +kernel, by decide +kernel⟩

theorem witness_PacketsTaken_copy : PacketAt (wpk pCopy) 18 4 pCopy ∧ bitsOf pCopy 192 64 < 2 ^ 40 ∧
    bitsOf pCopy 256 64 % 8 = 0 :=

    ⟨packetAt_page (by decide +kernel) (by decide +kernel) (by decide +kernel) (by decide +kernel) (by decide +kernel)
      (by decide +kernel) (by decide +kernel),
    by decide +kernel, by decide +kernel⟩

theorem witness_PacketsTaken_launch : PacketAt (wpk pLaunch) 18 1 pLaunch ∧
    ((wpk pLaunch).hostQueue 18).busy = none ∧ doneOk (wpk pLaunch) 1 0x100000030000 false = true :=

    ⟨packetAt_page (by decide +kernel) (by decide +kernel) (by decide +kernel) (by decide +kernel) (by decide +kernel)
      (by decide +kernel) (by decide +kernel),
    by decide +kernel, by decide +kernel⟩

theorem witness_PacketsTaken_accepted : PacketAt wjudge 18 1 pLaunch ∧ SMap.find 2 wjudge.launches = some lWait ∧
    (∀ e ∈ wjudge.launches, e.2.queue = lWait.queue → e.2.phaseOf = .waiting → lWait.serial ≤ e.2.serial) ∧
    (lWait.width = 1 ∧ lWait.height = 1 ∧ lWait.det = false ∧ lWait.log = false) ∧
    judge wjudge lWait 0 wjudge.sel.flag = .accept ∧ gridDie wjudge lWait.fn lWait.ox lWait.oy 0 = some 0 ∧
    (wjudge.die 0).remap.length < 1024 ∧ writable wjudge 18 pLaunch = true :=

    ⟨packetAt_page (by decide +kernel) (by decide +kernel) (by decide +kernel) (by decide +kernel) (by decide +kernel)
      (by decide +kernel) (by decide +kernel),
    by decide +kernel, by decide +kernel, by decide +kernel, by decide +kernel, by decide +kernel,
    by decide +kernel, by decide +kernel⟩

theorem witness_PacketWorkCompletes_launch :
    SMap.find 0 ((wpk pLaunch (fun q => { q with launches := [(0, 1)] })).hostQueue 18).launches = some 1 :=
  by decide +kernel

theorem witness_PacketWorkCompletes_copy :
    SMap.find 0 ((wpk pCopy (fun q => { q with copies := [(0, { ended := true, failed := true, done := 0x100000030000 })] })).hostQueue 18).copies = some { ended := true, failed := true, done := 0x100000030000 }
    :=
  by decide +kernel

theorem witness_HostRegisters_notify : RegisterWrite (wreg 120 14) 120 ∧
    ((wreg 120 14).hostQueue 31).qctl.getLsbD 0 = true ∧ idxDiff 0xFFFFFFFF 0xFFFFFFFE ≤ idxDiff 14 0xFFFFFFFE ∧
    idxDiff 14 0xFFFFFFFE ≤ 2 ^ ((wreg 120 14).hostQueue 31).qsize :=
  ⟨by constructor <;> decide +kernel, by decide +kernel, by decide +kernel, by decide +kernel⟩

theorem witness_HostRegisters_notify_stops : 2 ^ ((wreg 120 15).hostQueue 31).qsize < idxDiff 15 0xFFFFFFFE :=
  by decide +kernel

theorem witness_HostRegisters_queue : RegisterWrite (wreg 0x13D0 0x3FF) 0x13D0 ∧
    (((wreg 0x13D0 0x3FE).hostQueue 31).qctl.getLsbD 0 = true ∧ (0x3FE : Word).getLsbD 0 = false ∧ (0x3FE :
      Word).getLsbD 8 = true ∧ (0x3FE : Word).getLsbD 9 = true)
    ∧ ((wreg 0x13D0 0x303).hostQueue 31).qctl.getLsbD 0 = (0x303 : Word).getLsbD 0 ∧
    ((wreg 0x13D0 1 (fun q => { q with qctl := 2 })).hostQueue 31).qctl.getLsbD 0 = false :=
  ⟨by constructor <;> decide +kernel, by decide +kernel, by decide +kernel, by decide +kernel⟩

theorem witness_HostRegisters_base : RegisterWrite (wreg 0x13C0 0xFFC0) 0x13C0 ∧ (0xFFC0 : Word).toNat % 64 = 0 :=
  ⟨by constructor <;> decide +kernel, by decide⟩

theorem witness_HostRegisters_event : RegisterWrite (wreg 0x2000 3) 0x2000 :=
  by constructor <;> decide +kernel

theorem witness_HostRegisters_window : (whw 0xFFFFFC 8 0x1122334455667788 true).sel.flag = true ∧
    (whw 0xFFFFFC 8 0x1122334455667788 true).service.resetting = false ∧
    (whw 0xFFFFFC 8 0x1122334455667788 true).service.recovery = false :=
  ⟨by decide +kernel, by decide +kernel, by decide +kernel⟩

theorem witness_HostRegisters_aperture : aperturePlaces (whw 0x123 1 0xAB true) 1 0x123 1 = some [0x123] ∧
    aperturePlaces ((whw 0x123 1 0xAB true).modFunction 1 (fun f => { f with apbase := 0 })) 1 0x123 1 = none ∧
    ((whw 0x123 1 0xAB true).function 1).apdeny ≠ 0xFFFFFFFFFFFFFFFF ∧
    aperturePlaces (whw 0x1FFFE 2 0xABCD true) 1 0x1FFFE 2 = some [0x1FFFE, 0x1FFFF] :=
  ⟨by decide +kernel, by decide +kernel, by decide +kernel, by decide +kernel⟩

theorem witness_PlacementByLevel : pickTask (wready false) (wready false).sel.die = some 1 ∧
    TakesCore (wready false) 0 ((wready false).task 1) 1 ∧ ((wready false).task 1).placed = false ∧
    (wready false).service.resetting = false ∧ ((wready false).launchOf 1).log = false ∧
    ((wready false).task 1).die = 0 ∧ Candidate (wready false) 0 1 ((wready false).task 1) :=
  ⟨by decide +kernel, ⟨by decide, by unfold CoreFor; decide +kernel⟩, by decide +kernel, by decide +kernel,
    by decide +kernel, by decide +kernel,
    ⟨by decide +kernel, by decide +kernel, by decide +kernel, by decide +kernel, 1, by decide,
      by unfold CoreFor; decide +kernel⟩⟩

theorem witness_PlacementByLevel_ageing : ∃ l, headLaunch (wready false) 0 0 = some l ∧
    effLevel (wready false) 0 l < 7 ∧
    (∀ x ∈ waitingLaunches (wready false) 0 0, ((wready false).launch x.1).log = false) ∧
    ((SMap.find 0 ((wready false).die 0).levels).getD {}).since.toNat + 1000 * SMap.get 1000 ((wready false).die 0).age (effLevel (wready false) 0 l) ≤ 1000000
    :=
  ⟨_, rfl, by decide +kernel, by decide +kernel, by decide +kernel⟩

theorem witness_PlacementByLevel_ageing_unaccepted : ∃ l, headLaunch wunacc 0 0 = some l ∧
    (wunacc.tasks.any (fun e => waitsForCore e.2)) = false ∧ effLevel wunacc 0 l < 7 :=
  ⟨_, rfl, by decide +kernel, by decide +kernel⟩

theorem witness_SwitchOut_quantum : ((wrun 50005).hasTask 1 = true ∧ (myLaunch (wrun 50005)).log = false) ∧
    ((myTask (wrun 50005)).place = .running 0 ∧ (myTask (wrun 50005)).leaving = none) ∧
    (myTask (wrun 50005)).quantum.toNat + 1000 * ((wrun 50005).die 0).sliceq ≤ (wrun 50005).clock.toNat ∧
    waiterAt (wrun 50005) 0 (levelOf (wrun 50005) (myTask (wrun 50005))) = true :=
  ⟨by decide +kernel, by decide +kernel, by decide +kernel, by decide +kernel⟩

theorem witness_SwitchOut_blocked : (∃ k, k < 8 ∧ ((myTask (wrun 4000)).strand k).live = true) ∧
    (∀ e ∈ (myTask (wrun 4000 (fun t => { t with strands := t.strands.map (fun (p : Nat × Strand) => (p.1, { p.2 with wait := some { kind := 1, object := 1 } })) }))).strands, e.2.live = true → blockedSince e.2 0 = true)
    ∧ waiterAt (wrun 4000) 0 0 = true :=
  ⟨⟨0, by decide +kernel⟩, by decide +kernel, by decide +kernel⟩

theorem witness_SwitchOut_saved : (myTask (wrun 0 (fun t => { t with leaving := some 3 }))).leaving = some 3 ∧
    drained (myTask (wrun 0 (fun t => { t with leaving := some 3 }))) = true ∧
    (myTask (wrun 0 (fun t => { t with leaving := some 3 }))).feWaiters = [] :=
  ⟨by decide +kernel, by decide +kernel, by decide +kernel⟩

theorem witness_SwitchOut_mismatch : (wguardOut false).sel.guard = .mismatch ∧
    (myTask (wguardOut false)).freeze = none ∧
    (∀ k, k < 8 → ((myTask (wguardOut false)).strand k).live = true → ((myTask (wguardOut false)).strand k).replaying =
      false)
    ∧
    ((myTask (wguardOut false)).place = .running 0 ∧ (myTask (wguardOut false)).leaving = some 3 ∧ drained (myTask
      (wguardOut false)) = true)
    ∧ ((myTask (wguardOut false)).feWaiters = [] ∧ (myTask (wguardOut false)).killed = false) :=
  ⟨by decide +kernel, by decide +kernel, by decide +kernel, by decide +kernel, by decide +kernel⟩

theorem witness_SwitchOut_draining :
    drained (myTask (wrun 0 (fun t => { t with leaving := some 3, queues := [(3, [{ started := true }])] }))) = false
    :=
  by decide +kernel

theorem witness_SwitchOut_victim : victim wvictim 0 = some 1 ∧ pickTask wvictim 0 = none ∧
    waiterAt wvictim 0 (effLevel wvictim 0 (wvictim.launchOf 1) + 1) = true ∧ (wvictim.launchOf 1).log = false :=
  ⟨by decide +kernel, by decide +kernel, by decide +kernel, by decide +kernel⟩

theorem witness_SwitchInRestores : pickTask (wsaved false) 0 = some 1 ∧ ((wsaved false).task 1).placed = true ∧
    (wsaved false).service.resetting = false ∧ ((wsaved false).launchOf 1).log = false ∧
    ((wsaved false).task 1).die = 0 ∧
    (∀ e ∈ (wsaved false).tasks, e.2.die = 0 → waitsForCore e.2 = true → e.2.placed = true → ∃ n,
      n < 36 ∧ CoreFor (wsaved false) 0 e.2 n)
    ∧ TakesCore (wsaved false) 0 ((wsaved false).task 1) 1 ∧
    (∀ q, q < 9 → ∀ e ∈ ((wsaved false).task 1).queue q, e.fault = none) :=
  ⟨by decide +kernel, by decide +kernel, by decide +kernel, by decide +kernel, by decide +kernel,
    by unfold CoreFor; decide +kernel, ⟨by decide, by unfold CoreFor; decide +kernel⟩, by decide +kernel⟩

theorem witness_SwitchInRestores_park : (1, wparked.task 1) ∈ wparked.tasks ∧ waitsForCore (wparked.task 1) = true
    ∧ (wparked.task 1).placed = true ∧ (∀ n, n < 36 → ¬CoreFor wparked 0 (wparked.task 1) n) ∧
    (∀ e ∈ wparked.tasks, e.1 ≠ 1 → e.2.die = 0 → waitsForCore e.2 = true → e.2.placed = true → ∃ n,
      n < 36 ∧ CoreFor wparked 0 e.2 n)
    :=
  ⟨by decide +kernel, by decide +kernel, by decide +kernel, by unfold CoreFor; decide +kernel,
    by unfold CoreFor; decide +kernel⟩

/-- The strand waits. -/
def wwait (x : Wait) : State := withStrand w (fun y => { y with wait := some x })

/-- Strand 0 is not live; strand 1 waits at 0x2000. -/
def whang (clock : Word) : State :=
  let s := withTask w (fun t => { t with strands := SMap.upd 0 (fun x => { x with live := false }) t.strands })
  let x : Wait := { kind := 5, object := 3, since := 7 }
  { withTask s (fun t => { t with strands := SMap.upd 1 (fun y => { y with wait := some x }) t.strands }) with clock := clock }

/-- A forced sync point is due. -/
def wsync (rp : Bool) (g : GuardOutcome) : State :=
  let r : StrandRegs := { pc := 0x4000, g := [(4, 4)] }
  let s := withStrand w (fun x => { x with
    sinceSync := 64, seq := 7, replaying := rp, outs := [outOf 2], alias_ := [aliasOf true []], guard := { r with pc := 0x4004 },
    sync := { regs := r, seq := 3, undo := [(1, 2, 5), (5, 1, 0)] } })
  let s2 := withTask (s.modDie 0 (fun d => d.modCore 0 (fun c => { c with corrected := 9 }))) (fun t => { t with lvq := [{ strand := 0, value := 4 }, { strand := 1, value := 5 }] })
  { s2 with sel := { s2.sel with guard := g } }

/-- Task 1 is parked. -/
def wpark (f : Task → Task := id) : State := withTask w (fun t => f { t with place := .parked, parkedSince := some 5 })

/-- Both tasks of the launch have arrived at barrier 0 of a shape. -/
def wbar (shape a b : Nat) : State :=
  let s := withTask w (fun t => { t with arrived := [(shape, a)], recs := { t.recs with stamps := [(4, {})] } })
  { s.modTask 3 (fun t => { t with arrived := [(shape, b)] }) with sel := { w.sel with item := if shape = 0x80 then 1 else shape } }

/-- Every task of the launch has ended; DONE lies in the window. -/
def wdone (by_ failed : Bool) : State :=
  let s := withLaunch w (fun l => { l with byLaunch := by_, failed := failed, done := 0x2000000FFF0 })
  let e : SMap Task := s.tasks.map (fun e => (e.1, { e.2 with ended := true }))
  { s with tasks := e, wown := [(0, 257)], win := [(0xFFF0, 3)], sel := { w.sel with item := 1 } }

/-- The launch is touched by a reset under way. -/
def wtouched : State := let s := wdone false false; { s with service := { s.service with resetting := true, touched := [1] } }

/-- The privileged blocks hold values. -/
def wpf : State :=
  let q : HostQueue := { qbase := 64, qctl := 7, rdix := 3 }
  let s := (w.modFunction 0 (fun f => { f with fcfg := 1, hostroot := 0x10000 })).modDie 0 (fun d => { d with
    sliceq := 9, blockt := 9, vfmax := [(1, 2)], cores := SMap.upd 0 (fun c => { c with corrected := 5 }) d.cores })
  { s with
    queues := [(18, q), (3, q)], qmap := [(3, 4)], wown := [(0, 257)], sel := { w.sel with fn := 0, flag := false },
    service := { w.service with mtperiod := 3, pcap := 7, rcause := 9, suspbase := 0x1000, susplen := 4, fwstat := 5 } }

/-- Service states: a register write of function 0, and a state with a queue and a launch to reset. -/
def wsvc (off : Nat) (v : Word) (f : Service → Service := id) : State :=
  { w with service := f w.service, sel := { w.sel with fn := 0, addr := off, size := 8, val := v } }
def wreset : State :=
  let q : HostQueue := { qbase := 64, qctl := 7, rdix := 3, wrix := 5, qstat := 9, stopped := true, launches := [(2, 1)], copies := [(0, { len := 16 })] }
  let f : Function := { w.function 1 with fevctl := 0x7F, recbase := 0x800, ptmctl := 1, fevent := 3 }
  { w with queues := [(18, q), (33, q)], functions := SMap.put 1 f w.functions, sel := { w.sel with fn := 1, flag := true }, wown := [(0, 257)] }

/-- A margin test of core 35 of die 7, and a channel. -/
def wtest (flag : Bool) (val : Word) : State := { w with clock := 3600000000000 * 24 + 5, sel := { w.sel with die := 7, item := 35, flag := flag, val := val } }
/-- The core of task 1 is due for its test. -/
def wbusy : State := { w with clock := 3600000000000 * 24, sel := { w.sel with die := 0, item := 0, flag := true } }
def wchan (flag : Bool) (stage : Nat) : State :=
  { w with service := { w.service with channels := [(128 * 7 + 123, stage)] }, sel := { w.sel with die := 7, item := 123, flag := flag } }

/-- The machine after reset with an instruction placed, a strand about to issue it. -/
def wstep (i : Instr) : State := State.reset.withFetchWord (32 * parcels i) (encode i)

/-- The first move of an agenda is taken. -/
def taken (s : State) : State :=
  match s.agenda with
  | .issue sel :: r => { s with agenda := r, sel := sel }
  | .event _ sel :: r => { s with agenda := r, sel := sel }
  | _ => s

/-- What the step fetches there. -/
def stepWord (s : State) : Option Nat :=
  match fetchParcel s s.sel.task s.sel.strand (pcOf s) with
  | .ok p => (fetchParcels s s.sel.task s.sel.strand (parcelCount p) 0 (pcOf s)).toOption
  | .error _ => none

/-- What it decodes to. -/
def stepDecodes (s : State) : Option Decoded :=
  (stepWord s).map (decode { sup := (myLaunch s).sup, vregs := (myLaunch s).vregs })

/-- A copy command with a poisoned operand g1, whose reserved bits are not zero. -/
def wstepBad (poison : SMap Nat) : State :=
  withStrand (taken (State.reset.withFetchWord 64 (encode (.fill { a := 1, b := 2, c := 3 }) + 2 ^ 8))) (fun x =>
    { x with r := { x.r with poison := poison } })

/-- A step that stores goes on. -/
def stepGoes (s : State) : Bool :=
  match step s with
  | .next _ => true
  | _ => false

theorem witness_WaitsEnd_met :
    (wwait { kind := 10, object := 2 }).hasTask (wwait { kind := 10, object := 2 }).sel.task = true ∧
    (me (wwait { kind := 10, object := 2 })).wait = some { kind := 10, object := 2 } ∧
    waitOver (wwait { kind := 10, object := 2 }) 1 0 { kind := 10, object := 2 } = true :=
  ⟨by decide +kernel, by decide +kernel, by decide +kernel⟩

theorem witness_WaitsEnd_semaphore :
    (me (wwait { kind := 1, object := 9, amount := 1 })).wait = some { kind := 1, object := 9, amount := 1 } ∧
    waitOver (wwait { kind := 1, object := 9, amount := 1 }) 1 0 { kind := 1, object := 9, amount := 1 } = false :=
  ⟨by decide +kernel, by decide +kernel⟩

theorem witness_WaitsEnd_idle : (me (withStrand w (fun x => { x with idle := some 5 }))).idle = some 5 ∧
    (5 : Word).toNat + 10000 ≤ (10005 : Word).toNat :=
  ⟨by decide +kernel, by decide⟩

theorem witness_WaitsEnd_hang :
    ((whang 100000007).hasTask 1 = true ∧ (myTask (whang 100000007)).ended = false ∧ (myTask (whang 100000007)).freeze
      = none)
    ∧ (myTask (whang 100000007)).place ≠ .parked ∧
    (∀ j, j < 1 → ((myTask (whang 100000007)).strand j).live = false) ∧
    ((myTask (whang 100000007)).strand 1).live = true ∧
    ((myTask (whang 100000007)).strand 1).wait = some { kind := 5, object := 3, since := 7 } ∧
    (7 : Word).toNat + 1000000 * ((whang 100000007).die 0).hangto ≤ (whang 100000007).clock.toNat ∧
    (((myTask (whang 100000007)).strand 1).r.hnd = false ∧ ((myTask (whang 100000007)).strand 1).r.her = false) :=
  ⟨by decide +kernel, by decide +kernel, by decide +kernel, by decide +kernel, by decide +kernel,
    by decide +kernel, by decide +kernel⟩

theorem witness_WaitsEnd_park :
    ((myTask (wpark id)).place = .parked ∧ (myTask (wpark id)).ended = false ∧ (myTask (wpark id)).killed = false)
    :=
  by decide +kernel

theorem witness_WaitsEnd_sync : (me (withStrand w (fun x => { x with sinceSync := 64 }))).live = true ∧
    64 ≤ (me (withStrand w (fun x => { x with sinceSync := 64 }))).sinceSync ∧
    (me (withStrand w (fun x => { x with sinceSync := 64 }))).replaying = false :=
  ⟨by decide +kernel, by decide +kernel, by decide +kernel⟩

theorem witness_WaitsEnd_sync_replay :
    ((me (wsync true .agree)).replaying = true ∧ (me (wsync true .agree)).live = true ∧ 64 ≤ (me (wsync true
      .agree)).sinceSync)
    ∧ SMap.find (myTask (wsync true .agree)).die (wsync true .agree).dies ≠ none :=
  ⟨by decide +kernel, by decide +kernel⟩

theorem witness_WaitsEnd_sync_mismatch :
    ((me (wsync false .mismatch)).replaying = false ∧ (wsync false .mismatch).sel.guard = .mismatch) ∧
    (∀ u ∈ (me (wsync false .mismatch)).sync.undo, u.1 ≠ 0 ∧ u.1 < 6) :=
  ⟨by decide +kernel, by decide +kernel⟩

theorem witness_BarriersAndEnds_team : ((wbar 0x81 1 1).hasTask 1 = true ∧ (myTask (wbar 0x81 1 1)).ended = false)
    ∧ SMap.find (myTask (wbar 0x81 1 1)).launch (wbar 0x81 1 1).launches ≠ none ∧
    (∀ e ∈ (wbar 0x81 1 1).tasks,
      e.2.launch = 1 → teamOf e.2 0x81 = teamOf (myTask (wbar 0x81 1 1)) 0x81 → e.2.ended = false → completed (myLaunch
      (wbar 0x81 1 1)) (myTask (wbar 0x81 1 1)) 0x81 < SMap.get 0 e.2.arrived 0x81)
    :=
  ⟨by decide +kernel, by decide +kernel, by decide +kernel⟩

theorem witness_BarriersAndEnds_team_waits :
    (∃ e ∈ (wbar 0x81 1 0).tasks,
      e.2.launch = 1 ∧ teamOf e.2 0x81 = teamOf (myTask (wbar 0x81 1 0)) 0x81 ∧ e.2.ended = false ∧ SMap.get 0
      e.2.arrived 0x81 ≤ completed (myLaunch (wbar 0x81 1 0)) (myTask (wbar 0x81 1 0)) 0x81)
    :=
  by decide +kernel

theorem witness_BarriersAndEnds_phase :
    ((wbar 0x80 1 1).sel.item = 1 ∧ ((wbar 0x80 1 1).launch 1).log = false ∧ ((wbar 0x80 1 1).launch 1).monitors = [])
    ∧ (∀ e ∈ (wbar 0x80 1 1).tasks.filter (fun e => e.2.launch == 1), (wbar 0x80 1 1).task e.1 = e.2) ∧
    (∃ e ∈ (wbar 0x80 1 1).tasks.filter (fun e => e.2.launch == 1), e.2.ended = false) ∧
    (∀ e ∈ (wbar 0x80 1 1).tasks.filter (fun e => e.2.launch == 1),
      (e.2.ended = true ∨ SMap.get 0 ((wbar 0x80 1 1).launch 1).barriers (0x80 * 64 * 64) < SMap.get 0 e.2.arrived
      0x80) ∧ e.2.freeze = none ∧ unreadSem e.2 = none ∧ ∀ k ∈ e.2.strands, k.2.closing = false ∧ k.2.reports = [])
    :=
  ⟨by decide +kernel, by decide +kernel, by decide +kernel, by decide +kernel⟩

theorem witness_BarriersAndEnds_task : ((w.modTask 3 id).hasTask 3 = true ∧ (w.task 3).ended = false) ∧
    (∀ e ∈ (w.task 3).strands, e.2.live = false) ∧ (∀ e ∈ (w.task 3).queues, e.2 = []) :=
  ⟨by decide +kernel, by decide +kernel, by decide +kernel⟩

theorem witness_BarriersAndEnds_launch :
    SMap.find 1 (wdone true false).launches = some ((wdone true false).launch 1) ∧
    (((wdone true false).launch 1).phaseOf = .accepted ∧ ((wdone true false).launch 1).log = false) ∧
    (((wdone true false).launch 1).byLaunch = true ∧ ((wdone false false).launch 1).byLaunch = false) ∧
    launchQuiet (wdone true false) 1 = true ∧ heldByReset (wdone true false) 1 = false ∧
    (∀ e ∈ (wdone true false).tasks, e.2.launch = 1 → e.2.ended = true ∧ unreadSem e.2 = none ∧ ∀ k ∈ e.2.strands,
      k.2.reports = [])
    ∧
    (0x20000000000 ≤ ((wdone true false).launch 1).done.toNat ∧ ((wdone true false).launch 1).done.toNat -
      0x20000000000 ≤ 65520)
    ∧ SMap.get 0 (wdone true false).wown 0 = 257 :=
  ⟨by decide +kernel, by decide +kernel, by decide +kernel, by decide +kernel, by decide +kernel,
    by decide +kernel, by decide +kernel, by decide +kernel⟩

theorem witness_Resets_held :
    ((wtouched).service.resetting = true ∧ 1 ∈ wtouched.service.touched ∧ wtouched.sel.item = 1 ∧ (myTask
      wtouched).launch = 1)
    :=
  by decide +kernel

theorem witness_Resets_function : (1 < wreset.sel.fn ∨ wreset.sel.flag = true) :=
  Or.inr rfl

theorem witness_Resets_key : RegisterWrite (wsvc 0x509008 0x00575253) 0x509008 ∧
    ((wsvc 0x509008 0x00575253).sel.fn ≤ 1 ∧ (wsvc 0x509008 0x00575253).sel.val = 0x00575253) :=
  ⟨by constructor <;> decide +kernel, by decide +kernel⟩

theorem witness_Resets_warm : w.service.resetting = false ∧ (2 ≤ 6 ∧ 6 ≤ 6 ∧ 2 ≤ 4 ∧ 4 ≤ 6) :=
  ⟨by decide +kernel, by decide⟩

theorem witness_Resets_end :
    (wsvc 0 0 (fun v => { v with resetting := true, activate := true })).service.resetting = true ∧
    (wsvc 0 0 (fun v => { v with resetting := true, activate := true })).sel.item = 0 :=
  ⟨by decide +kernel, by decide +kernel⟩

theorem witness_Resets_power : w.service.activate = false :=
  by decide +kernel

theorem witness_Resets_pf : ((wpf).sel.fn ≤ 1 ∧ (wpf).sel.flag = false) ∧
    (∀ e ∈ wpf.launches, wpf.launch e.1 = e.2) :=
  ⟨by decide +kernel, by decide +kernel⟩

theorem witness_FirmwareAndDialogs_command :
    RegisterWrite (wsvc 0x509038 2 (fun v => { v with fwstat := 2 })) 0x509038 ∧
    RegisterWrite (wsvc 0x509038 1) 0x509038 ∧
    ((wsvc 0x509038 1).sel.fn ≤ 1 ∧ (wsvc 0x509038 1).service.fwstat ≠ 1) ∧
    (wsvc 0x509038 2 (fun v => { v with fwstat := 2 })).service.fwstat = 2 :=
  ⟨by constructor <;> decide +kernel, by constructor <;> decide +kernel, by decide +kernel, by decide +kernel⟩

theorem witness_FirmwareAndDialogs_staging :
    (wsvc 0 0 (fun v => { v with staging := some [1, 2] })).service.staging = some [1, 2] :=
  by decide +kernel

theorem witness_FirmwareAndDialogs_clock :
    ((w.modFunction 0 (fun f => { f with ptmctl := 1, ptmsc := 5 })).function 0).ptmctl.getLsbD 0 = true ∧
    (5 : Word).toNat + 10000000 ≤ (10000005 : Word).toNat :=
  ⟨by decide +kernel, by decide⟩

theorem witness_FirmwareAndDialogs_request : (w.service.resetting = false ∧ w.service.recovery = false) :=
  by decide +kernel

theorem witness_LaddersScrubAndClock_due :
    (((wtest true 0x15).die 7).core 35).tested.toNat + 3600000000000 * (wtest true 0x15).service.mtperiod.toNat ≤
      (wtest true 0x15).clock.toNat
    ∧ ((wtest true 0x15).sel.count = 0 ∧ (((wtest true 0x15).die 7).core 35).retired = false) ∧
    (coreBusy wbusy 0 0 = true ∧ ((wbusy.die 0).core 0).tested.toNat + 3600000000000 * wbusy.service.mtperiod.toNat ≤
      wbusy.clock.toNat)
    :=
  ⟨by decide +kernel, by decide +kernel, by decide +kernel⟩

theorem witness_LaddersScrubAndClock_test : SMap.find 7 w.dies ≠ none ∧
    (((w.die 7).core 35).retired = false ∧ coreBusy w 7 35 = false) ∧
    ((wtest true 0x15).sel.flag = true ∧ (wtest false 0x15).sel.flag = false) :=
  ⟨by decide +kernel, by decide +kernel, by decide +kernel⟩

theorem witness_LaddersScrubAndClock_channel : SMap.get 0 (wchan true 0).service.channels (128 * 7 + 123) = 0 ∧
    ((123 : Nat) < 128 ∧ 123 % 64 < 60) ∧ sparesUsed (wchan false 1) 7 1 < 4 ∧
    SMap.get 0 (wchan false 2).service.channels (128 * 7 + 123) = 2 :=
  ⟨by decide +kernel, by decide, by decide +kernel, by decide +kernel⟩

theorem witness_LaddersScrubAndClock_scrub :
    ({ w with sel := { w.sel with scrub := .hbmUncorrectable 0x108 } } : State).sel.scrub = .hbmUncorrectable 0x108
    :=
  by decide

theorem witness_FatesInOrder : (0x2AAAAAA8 + 3) % 4 = 3 ∧ ((0x30 * 4) % 4 = 0 ∧ 0x30 ≤ 0x30 * 4 / 4 % 64) ∧
    ((9 * 4 + 2) % 4 = 2 ∧ 9 ≤ (9 * 4 + 2) / 4 % 64) ∧
    ((0x2A * 4 + 0x0E0 * 2 ^ 22) % 4 = 0 ∧ 0x0E0 ≤ (0x2A * 4 + 0x0E0 * 2 ^ 22) / 2 ^ 22 % 1024) ∧
    decode { sup := false, vregs := 384 } (encode (.add 5 6 7)) = .instr (.add 5 6 7) :=
  ⟨by decide, by decide, by decide, by decide, by decide +kernel⟩

theorem witness_DecodeGivesBack : (Instr.vld { vd := 383, a := 63, et := 8 }).wellFormed = true ∧
    (Instr.vld { vd := 383, a := 63, et := 8 }).hasWords = true ∧
    (Instr.encodingNotInstruction .zeroWord).hasWords = false :=
  ⟨by decide +kernel, by decide +kernel, by decide +kernel⟩

theorem witness_StepRunsDecoded_issue :
    canIssue (taken (wstep (.addi 1 2 3))) (taken (wstep (.addi 1 2 3))).sel.task (taken (wstep (.addi 1 2
      3))).sel.strand = true
    ∧ (regs (taken (wstep (.addi 1 2 3)))).struck = none ∧ (me (taken (wstep (.addi 1 2 3)))).routine = none ∧
    stepDecodes (taken (wstep (.addi 1 2 3))) = some (.instr (.addi 1 2 3)) :=
  ⟨by decide +kernel, by decide +kernel, by decide +kernel, by decide +kernel⟩

theorem witness_StepRunsDecoded_fate :
    canIssue (wstepBad []) (wstepBad []).sel.task (wstepBad []).sel.strand = true ∧
    (stepDecodes (wstepBad [])).any (fun x => match x with | .fate (.reservedField _) => true | _ => false) = true
    ∧ (stepWord (wstepBad [])).map (commandRegs (regs (wstepBad []))) = some [1, 2, 3] ∧
    (∀ n ∈ [1, 2, 3], n ∉ (me (wstepBad [])).notReady) :=
  ⟨by decide +kernel, by decide +kernel, by decide +kernel, by decide +kernel⟩

theorem witness_StepRunsDecoded_poison :
    ([1, 2, 3] : List Nat).find? (fun n => (regs (wstepBad [(2, 6)])).poisonOf n != 0) = some 2 :=
  by decide +kernel

theorem witness_StepRunsDecoded_struck :
    (regs (withStrand (taken (wstep .nop)) (fun x => { x with r := { x.r with struck := some { trap := { cause := 9 }, pc := 0, ilen := 1 } } }))).struck = some { trap := { cause := 9 }, pc := 0, ilen := 1 }
    :=
  by decide +kernel

theorem witness_StepRunsDecoded_routine :
    (me (withStrand (taken (wstep .nop)) (fun x => { x with routine := some { cmd := .mtile 0 {} } }))).routine ≠ none
    :=
  by decide +kernel

theorem witness_StepRunsDecoded_held :
    canIssue { State.reset with sel := { State.reset.sel with task := 1 } } 1 0 = false :=
  by decide +kernel

theorem witness_StepRunsDecoded_event : encode .requestRead = 0 ∧
    (∀ f, Instr.requestRead ≠ .encodingNotInstruction f) :=
  ⟨by decide +kernel, (fun _ h => nomatch h)⟩

theorem witness_StepKeepsMemories : memoriesWf (wstep (.stb 1 2 0 0)) ∧ spadsWf (wstep (.stb 1 2 0 0)) ∧
    stepGoes (wstep (.stb 1 2 0 0)) = true :=
  ⟨by constructor <;> decide +kernel, by unfold spadsWf; decide +kernel, by decide +kernel⟩

end Sys2Proof.Tests
end

section
/-!
PROOFS. No instruction, no event and no step stops the machine: every branch of every meaning answers a next state (R5, R172).
-/
namespace Sys2Proof.Machine

theorem goesOn_next (s : State) : goesOn (.next s) := ⟨s, rfl⟩

theorem goesOn_ite {c : Prop} [Decidable c] {a b : Host.Outcome State Fault Refusal} (ha : goesOn a) (hb : goesOn b) :
    goesOn (if c then a else b) := by
  split
  · exact ha
  · exact hb

/-- A condition on which either next state is answered. -/
theorem goesOn_choice {c : Prop} [Decidable c] (s t : State) :
    goesOn (if c then .next s else .next t) := goesOn_ite (goesOn_next s) (goesOn_next t)

/-! ### Strands -/

theorem execEncodingNotInstruction_goesOn (f : Fate) (s : State) : goesOn (execEncodingNotInstruction f s) :=
  goesOn_ite (goesOn_next _) (goesOn_ite (goesOn_next _) (goesOn_choice _ _))

theorem execWaitUntilMet_goesOn (s : State) : goesOn (execWaitUntilMet s) := by
  simp only [execWaitUntilMet]
  split
  · exact goesOn_next _
  · exact goesOn_choice _ _

theorem execIdleTimeout_goesOn (s : State) : goesOn (execIdleTimeout s) := by
  simp only [execIdleTimeout]
  split
  · exact goesOn_next _
  · exact goesOn_choice _ _

theorem execHang_goesOn (s : State) : goesOn (execHang s) := by
  simp only [execHang]
  refine goesOn_ite (goesOn_next _) ?_
  split
  · exact goesOn_next _
  · exact goesOn_next _
  · split <;> exact goesOn_next _

theorem execForcedSyncPoint_goesOn (s : State) : goesOn (execForcedSyncPoint s) := by
  refine goesOn_ite ?_ (goesOn_next _)
  split <;> exact goesOn_next _

/-! ### The vector engine -/

theorem execVeExecute_goesOn (s : State) : goesOn (execVeExecute s) := by
  refine goesOn_ite (goesOn_next _) ?_
  split
  · exact goesOn_next _
  · extract_lets det seen
    split
    · exact goesOn_next _
    · refine goesOn_ite (goesOn_next _) ?_
      split
      · exact goesOn_next _
      · exact goesOn_next _
      · exact goesOn_choice _ _

theorem execVectorMemoryComplete_goesOn (s : State) : goesOn (execVectorMemoryComplete s) := by
  simp only [execVectorMemoryComplete]
  split
  · exact goesOn_next _
  · refine goesOn_ite (goesOn_next _) ?_
    split <;> exact goesOn_next _

/-! ### The matrix engines -/

theorem execMatrixCommandStart_goesOn (s : State) : goesOn (execMatrixCommandStart s) := by
  simp only [execMatrixCommandStart]
  split
  · exact goesOn_next _
  · refine goesOn_ite ?held (goesOn_ite (goesOn_next _) ?start)
    case held =>
      split
      · exact goesOn_choice _ _
      · exact goesOn_next _
    case start =>
      split
      · exact goesOn_next _
      · split
        · exact goesOn_next _
        · exact goesOn_next _
        · split
          · exact goesOn_next _
          · exact goesOn_choice _ _

theorem execMgoAction_goesOn (s : State) : goesOn (execMgoAction s) := by
  simp only [execMgoAction]
  split
  · exact goesOn_next _
  · refine goesOn_ite (goesOn_next _) ?_
    split
    · split <;> exact goesOn_next _
    · exact goesOn_next _

theorem execMatrixCommandComplete_goesOn (s : State) : goesOn (execMatrixCommandComplete s) := by
  simp only [execMatrixCommandComplete]
  split
  · exact goesOn_next _
  · refine goesOn_ite (goesOn_next _) ?_
    split <;> exact goesOn_next _

/-! ### The copy and gather engines -/

theorem execCopyGatherCommandStart_goesOn (s : State) : goesOn (execCopyGatherCommandStart s) := by
  simp only [execCopyGatherCommandStart]
  split
  · exact goesOn_next _
  · refine goesOn_ite (goesOn_next _) (goesOn_ite (goesOn_next _) ?_)
    split
    · exact goesOn_next _
    · split
      · exact goesOn_next _
      · split
        · exact goesOn_next _
        · exact goesOn_next _
        · exact goesOn_choice _ _

theorem execGatherUnit_goesOn (s : State) : goesOn (execGatherUnit s) := by
  simp only [execGatherUnit]
  split
  · exact goesOn_next _
  · refine goesOn_ite (goesOn_next _) (goesOn_ite (goesOn_next _) (goesOn_ite (goesOn_choice _ _)
      (goesOn_ite (goesOn_next _) (goesOn_ite ?order ?unit))))
    case order => split <;> exact goesOn_next _
    case unit => split <;> exact goesOn_next _

theorem execCopyGatherCommandComplete_goesOn (s : State) : goesOn (execCopyGatherCommandComplete s) := by
  simp only [execCopyGatherCommandComplete]
  split
  · exact goesOn_next _
  · refine goesOn_ite (goesOn_next _) ?_
    split
    · exact goesOn_next _
    · exact goesOn_choice _ _

/-! ### The collective engine -/

theorem execXeCommandStart_goesOn (s : State) : goesOn (execXeCommandStart s) := by
  simp only [execXeCommandStart]
  split
  · exact goesOn_next _
  · refine goesOn_ite (goesOn_next _) (goesOn_ite (goesOn_next _) ?_)
    split
    · exact goesOn_next _
    · split
      · exact goesOn_next _
      · split <;> exact goesOn_next _
    · refine goesOn_ite (goesOn_next _) ?_
      split
      · exact goesOn_next _
      · split
        · exact goesOn_next _
        · exact goesOn_choice _ _

theorem execXeTransmissionStart_goesOn (s : State) : goesOn (execXeTransmissionStart s) := by
  simp only [execXeTransmissionStart]
  split
  · exact goesOn_next _
  · split
    · exact goesOn_next _
    · exact goesOn_choice _ _

theorem execXeCommandComplete_goesOn (s : State) : goesOn (execXeCommandComplete s) := by
  simp only [execXeCommandComplete]
  split
  · exact goesOn_next _
  · refine goesOn_ite (goesOn_next _) ?_
    split
    · exact goesOn_next _
    · exact goesOn_choice _ _

/-! ### The network and the walker -/

theorem execFlitHop_goesOn (s : State) : goesOn (execFlitHop s) := by
  simp only [execFlitHop]
  split
  · exact goesOn_next _
  · refine goesOn_ite (goesOn_next _) (goesOn_ite (goesOn_next _) (goesOn_ite (goesOn_next _) (goesOn_ite (goesOn_next _) ?_)))
    split
    · exact goesOn_next _
    · exact goesOn_choice _ _
    · exact goesOn_choice _ _

theorem execRequestRead_goesOn (s : State) : goesOn (execRequestRead s) := by
  simp only [execRequestRead]
  split
  · exact goesOn_next _
  · split <;> exact goesOn_next _

theorem execHostLinkCompletion_goesOn (s : State) : goesOn (execHostLinkCompletion s) := by
  simp only [execHostLinkCompletion]
  split <;> exact goesOn_next _

theorem execForwardedRequest_goesOn (s : State) : goesOn (execForwardedRequest s) := by
  simp only [execForwardedRequest]
  split
  · exact goesOn_next _
  · exact goesOn_ite (goesOn_next _) (goesOn_choice _ _)

theorem execCollectiveData_goesOn (s : State) : goesOn (execCollectiveData s) := by
  simp only [execCollectiveData]
  split
  · exact goesOn_next _
  · split <;> exact goesOn_next _

theorem execTranslationWalk_goesOn (s : State) : goesOn (execTranslationWalk s) := by
  simp only [execTranslationWalk]
  split
  · exact goesOn_next _
  · split <;> exact goesOn_next _

/-! ### The signal box -/

theorem execPlacement_goesOn (s : State) : goesOn (execPlacement s) := by
  simp only [execPlacement]
  split
  · split <;> exact goesOn_next _
  · split
    · exact goesOn_next _
    · exact goesOn_choice _ _

theorem execAgeing_goesOn (s : State) : goesOn (execAgeing s) := by
  simp only [execAgeing]
  split
  · exact goesOn_next _
  · refine goesOn_ite ?_ (goesOn_next _)
    split <;> exact goesOn_next _

theorem execPreEmption_goesOn (s : State) : goesOn (execPreEmption s) := by
  refine goesOn_ite (goesOn_choice _ _) ?_
  split
  · exact goesOn_next _
  · exact goesOn_choice _ _

theorem execSwitchIn_goesOn (s : State) : goesOn (execSwitchIn s) := by
  refine goesOn_ite (goesOn_next _) ?_
  split
  · exact goesOn_next _
  · split
    · exact goesOn_next _
    · split
      · exact goesOn_next _
      · exact goesOn_choice _ _

theorem execPhaseClose_goesOn (s : State) : goesOn (execPhaseClose s) :=
  goesOn_ite (goesOn_next _) (goesOn_ite (goesOn_next _) (goesOn_ite (goesOn_next _)
    (goesOn_ite (goesOn_next _) (goesOn_choice _ _))))

/-! ### The host's queues, window and aperture -/

theorem execNotify_goesOn (s : State) : goesOn (execNotify s) :=
  goesOn_ite (goesOn_next _) (goesOn_ite (goesOn_next _) (goesOn_choice _ _))

theorem execHostApertureAccess_goesOn (s : State) : goesOn (execHostApertureAccess s) := by
  refine goesOn_ite (goesOn_next _) ?_
  split
  · exact goesOn_next _
  · exact goesOn_choice _ _

theorem execPacketLaunch_goesOn (s : State) : goesOn (execPacketLaunch s) := by
  refine goesOn_ite (goesOn_next _) ?_
  dsimp only
  split
  · exact goesOn_next _
  · split <;> exact goesOn_next _

theorem execPacketWaitsig_goesOn (s : State) : goesOn (execPacketWaitsig s) := by
  simp only [execPacketWaitsig]
  split
  · exact goesOn_next _
  · refine goesOn_ite (goesOn_next _) ?_
    split
    · exact goesOn_next _
    · exact goesOn_ite (goesOn_next _) (goesOn_choice _ _)

theorem execPacketSignal_goesOn (s : State) : goesOn (execPacketSignal s) := by
  simp only [execPacketSignal]
  split
  · exact goesOn_next _
  · refine goesOn_ite (goesOn_next _) ?_
    split <;> exact goesOn_next _

theorem execPacketCopy_goesOn (s : State) : goesOn (execPacketCopy s) := by
  refine goesOn_ite (goesOn_next _) ?_
  split <;> exact goesOn_next _

theorem execPacketCompletion_goesOn (s : State) : goesOn (execPacketCompletion s) := by
  simp only [execPacketCompletion]
  split
  · split <;> exact goesOn_next _
  · split
    · exact goesOn_next _
    · split <;> exact goesOn_next _

/-! ### Resets, service and the clock -/

theorem execFwStageComplete_goesOn (s : State) : goesOn (execFwStageComplete s) := by
  simp only [execFwStageComplete]
  split
  · exact goesOn_next _
  · exact goesOn_ite (goesOn_next _) (goesOn_ite (goesOn_next _) (goesOn_choice _ _))

theorem execChannelSubstitution_goesOn (s : State) : goesOn (execChannelSubstitution s) :=
  goesOn_ite (goesOn_next _) (goesOn_ite (goesOn_next _) (goesOn_ite (goesOn_next _) (goesOn_choice _ _)))

theorem execPatrolScrub_goesOn (s : State) : goesOn (execPatrolScrub s) := by
  simp only [execPatrolScrub]
  split <;> exact goesOn_next _

/-! ### Every instruction, every step -/

/-- An instruction of a strand answers the next state of its frame (`strandStep`), as an event without branches does; an event
with branches goes on by its own lemma, or by the shape its branches share. -/
theorem exec_goesOn (i : Instr) (s : State) : goesOn (exec i s) := by
  cases i with
  | encodingNotInstruction f => exact execEncodingNotInstruction_goesOn f s
  | waitUntilMet => exact execWaitUntilMet_goesOn s
  | idleTimeout => exact execIdleTimeout_goesOn s
  | hang => exact execHang_goesOn s
  | forcedSyncPoint => exact execForcedSyncPoint_goesOn s
  | veExecute => exact execVeExecute_goesOn s
  | vectorMemoryComplete => exact execVectorMemoryComplete_goesOn s
  | matrixCommandStart => exact execMatrixCommandStart_goesOn s
  | mgoAction => exact execMgoAction_goesOn s
  | matrixCommandComplete => exact execMatrixCommandComplete_goesOn s
  | copyGatherCommandStart => exact execCopyGatherCommandStart_goesOn s
  | gatherUnit => exact execGatherUnit_goesOn s
  | copyGatherCommandComplete => exact execCopyGatherCommandComplete_goesOn s
  | xeCommandStart => exact execXeCommandStart_goesOn s
  | xeTransmissionStart => exact execXeTransmissionStart_goesOn s
  | xeCommandComplete => exact execXeCommandComplete_goesOn s
  | flitHop => exact execFlitHop_goesOn s
  | requestRead => exact execRequestRead_goesOn s
  | hostLinkCompletion => exact execHostLinkCompletion_goesOn s
  | forwardedRequest => exact execForwardedRequest_goesOn s
  | collectiveData => exact execCollectiveData_goesOn s
  | translationWalk => exact execTranslationWalk_goesOn s
  | placement => exact execPlacement_goesOn s
  | ageing => exact execAgeing_goesOn s
  | preEmption => exact execPreEmption_goesOn s
  | switchIn => exact execSwitchIn_goesOn s
  | phaseClose => exact execPhaseClose_goesOn s
  | notify => exact execNotify_goesOn s
  | hostApertureAccess => exact execHostApertureAccess_goesOn s
  | packetLaunch => exact execPacketLaunch_goesOn s
  | packetWaitsig => exact execPacketWaitsig_goesOn s
  | packetSignal => exact execPacketSignal_goesOn s
  | packetCopy => exact execPacketCopy_goesOn s
  | packetCompletion => exact execPacketCompletion_goesOn s
  | fwStageComplete => exact execFwStageComplete_goesOn s
  | channelSubstitution => exact execChannelSubstitution_goesOn s
  | patrolScrub => exact execPatrolScrub_goesOn s
  | parkResume | parkKill | debugPathWrite | quantumExpiry | blockedTimeout | taskEnd | teamBarrierCompletion
  | hostWindowAccess | ptmDialog | spdmRequest =>
    exact goesOn_choice _ _
  | warmReset | powerOn | marginTest | launchCompletion => exact goesOn_ite (goesOn_next _) (goesOn_choice _ _)
  | _ => exact goesOn_next _

theorem issue_goesOn (s : State) : goesOn (issue s) := by
  refine goesOn_ite (goesOn_next _) ?_
  split
  · exact goesOn_next _
  · refine goesOn_ite (goesOn_next _) ?_
    split
    · exact exec_goesOn _ s
    · exact exec_goesOn _ s
    · exact goesOn_next _

theorem act_goesOn (p : Pick) (s : State) : goesOn (act p s) := by
  cases p with
  | issue sel => exact issue_goesOn _
  | event i sel =>
    refine goesOn_ite (goesOn_next _) ?_
    split
    · exact goesOn_next _
    · exact exec_goesOn _ _
  | tick ns =>
    simp only [act]
    split
    · exact execXeTransmissionStart_goesOn _
    · exact goesOn_next _
  | _ => exact goesOn_next _

theorem step_goesOn (s : State) : goesOn (step s) := by
  unfold step
  split
  · exact act_goesOn _ _
  · exact act_goesOn _ _

/-- Settles O59, by the branches of every meaning, then of a pick, then of the step. -/
theorem everyStepGoesOn : Obligations.EveryStepGoesOn := ⟨exec_goesOn, step_goesOn⟩

end Sys2Proof.Machine
end

section
/-!
PROOFS. A wait, an IDLE and a stall end, the driver and the debugger act, and the pair compares at a forced sync point
(R6, R171, R178, R185, R243, R394, R395).
-/
namespace Sys2Proof.Machine

/-! ### What updates of a task leave alone -/

/-- A projection that an update of a task leaves alone reads as before in every task. -/
theorem State.task_modTask_proj {β : Type} {p : Task → β} {f : Task → Task} (hf : ∀ x, p (f x) = p x) (s : State) (k j : Nat) :
    p ((s.modTask k f).task j) = p (s.task j) := by
  unfold State.task State.modTask
  by_cases hj : j = k
  · subst hj
    rw [SMap.find_upd_same]
    cases SMap.find j s.tasks with
    | none => rfl
    | some x => exact hf x
  · rw [SMap.find_upd_other hj]

/-- Reading a map whose values have been mapped with a function that keeps the default. -/
theorem SMap.getD_find_map {α β : Type} (g : α → β) (k : Nat) (m : SMap α) (d : α) :
    (SMap.find k (m.map (fun (j, y) => (j, g y)))).getD (g d) = g ((SMap.find k m).getD d) := by
  rw [SMap.find_map k (fun _ => g) m]
  cases SMap.find k m <;> rfl

theorem OutsideKept.trans {s u t : State} (h1 : OutsideKept s u) (h2 : OutsideKept u t) : OutsideKept s t := by
  unfold OutsideKept at *
  rw [h2, h1]

theorem MemoryKept.refl (s : State) : MemoryKept s s := ⟨fun _ => rfl, fun _ => rfl, fun _ _ => rfl, fun _ _ => rfl⟩

theorem MemoryKept.trans {s u t : State} (h1 : MemoryKept s u) (h2 : MemoryKept u t) : MemoryKept s t where
  mem a := (h2.mem a).trans (h1.mem a)
  win a := (h2.win a).trans (h1.win a)
  spad k a := (h2.spad k a).trans (h1.spad k a)
  heritage k a := (h2.heritage k a).trans (h1.heritage k a)

/-- An update of a task that leaves its scratchpad and heritage region alone keeps every memory. -/
theorem MemoryKept.modTask {f : Task → Task} (hs : ∀ x, (f x).spad = x.spad) (hh : ∀ x, (f x).heritage = x.heritage)
    (s : State) (t : Nat) : MemoryKept s (s.modTask t f) where
  mem _ := rfl
  win _ := rfl
  spad k a := congrArg (readByte · a) (State.task_modTask_proj (p := Task.spad) hs s t k)
  heritage k a := congrArg (readByte · a) (State.task_modTask_proj (p := Task.heritage) hh s t k)

/-! ### Waits and IDLE (R6, R243) -/

theorem execWaitUntilMet_over {s : State} (hT : s.hasTask s.sel.task = true) {w : Wait} (hw : (me s).wait = some w)
    (ho : waitOver s s.sel.task s.sel.strand w = true) :
    exec .waitUntilMet s = .next (withStrand s (fun x => { x with wait := none, lastWait := some w })) := by
  unfold me at hw
  simp [exec, execWaitUntilMet, hw, hT, ho, withStrand]

theorem execWaitUntilMet_pending {s : State} {w : Wait} (hw : (me s).wait = some w)
    (ho : waitOver s s.sel.task s.sel.strand w = false) : exec .waitUntilMet s = .next s := by
  unfold me at hw
  simp [exec, execWaitUntilMet, hw, ho]

/-- A wait for a semaphore is over once its count has come to the amount waited for. -/
theorem waitOver_semaphore {s : State} {t k : Nat} {w : Wait} (hk : w.kind = 1) :
    waitOver s t k w = true ↔ w.amount ≤ ((s.task t).sem w.object).count := by
  simp [waitOver, hk]

theorem execIdleTimeout_late {s : State} (hT : s.hasTask s.sel.task = true) {c : Word} (hc : (me s).idle = some c)
    (hl : c.toNat + 10000 ≤ s.clock.toNat) :
    exec .idleTimeout s = .next (withStrand s (fun x => { x with idle := none })) := by
  unfold me at hc
  simp [exec, execIdleTimeout, hc, hT, hl, withStrand]

theorem execIdleTimeout_early {s : State} {c : Word} (hc : (me s).idle = some c)
    (hl : s.clock.toNat < c.toNat + 10000) : exec .idleTimeout s = .next s := by
  unfold me at hc
  simp [exec, execIdleTimeout, hc, Nat.not_le.mpr hl]

/-! ### HANG (R185) -/

/-- The lowest live strand, when its wait has reached the stall time-out, is the one that hangs. -/
theorem hung_strand {s : State} {t k : Nat} {w : Wait} (hfz : (s.task t).freeze = none) (hk : k < 8)
    (hbelow : ∀ j, j < k → ((s.task t).strand j).live = false) (hlive : ((s.task t).strand k).live = true)
    (hw : ((s.task t).strand k).wait = some w) (hkind : w.kind ≠ 0)
    (hlate : w.since.toNat + 1000000 * (s.die (s.task t).die).hangto ≤ s.clock.toNat) :
    hung s t = some (k, none) := by
  have hfind : ∀ p : Nat → Bool, p k = true → (∀ j, j < k → p j = false) → (List.range 8).find? p = some k := by
    intro p hp hq
    rw [List.find?_range_eq_some]
    exact ⟨hp, List.mem_range.mpr hk, fun j hj => by simp [hq j hj]⟩
  unfold hung
  simp only
  rw [hfind]
  · simp [hlive, hw, hkind, hlate, freezeLets, hfz]
  · intro j hj
    simp [hbelow j hj]

/-- The trap CSRs of the task after a strand-origin trap of a strand outside handlers and heritage routines. -/
theorem takeTrap_csrs {s : State} {t k : Nat} (hT : s.hasTask t = true) (hh : (s.strand t k).r.hnd = false)
    (hr : (s.strand t k).r.her = false) (tr : Trap) (tpc : Word) (ilen : Nat) (extra : List Byte) :
    ((takeTrap s t k none tr tpc ilen extra).task t).trap = { (s.task t).trap with
      tcause := tcauseOf tr none ilen, tpc, tval := tr.tval,
      tstatus := statusWord (s.strand t k).r (s.launchOf t), trec := recordSlot s t } := by
  obtain ⟨u, bs, hu, he⟩ := takeTrap_strand s t k tr tpc ilen extra
  have huT : u.hasTask t = true := by rw [hu.hasTask]; simp [trapped, hT]
  rw [he, decideAction_trap huT rfl, hu.task, trapped_task hT]
  simp only [hh, hr, Bool.or_self, Bool.false_eq_true, if_false]

theorem takeTrap_sel (s : State) (t k : Nat) (tr : Trap) (tpc : Word) (ilen : Nat) (extra : List Byte) :
    (takeTrap s t k none tr tpc ilen extra).sel = s.sel := by
  obtain ⟨u, bs, hu, he⟩ := takeTrap_strand s t k tr tpc ilen extra
  rw [he, decideAction_sel _ _ rfl, hu.sel]
  rfl

theorem execHang_strand {s : State} {k : Nat} (hT : s.hasTask s.sel.task = true) (he : (myTask s).ended = false)
    (hk : (myTask s).killed = false) (hp : (myTask s).place ≠ .parked) (hh : hung s s.sel.task = some (k, none)) :
    exec .hang s = .next (takeTrap s s.sel.task k none { cause := 24 } ((myTask s).strand k).r.pc
      (lengthAt s s.sel.task k) (hangBytes s s.sel.task)) := by
  unfold myTask at *
  simp [exec, execHang, hT, he, hk, hp, hh, State.strand]

/-! ### The driver (R178) -/

/-- A strand whose waits, once its task has been parked for a while, begin that much later (R185). -/
def shiftedStrand (d : Word) (y : Strand) : Strand :=
  { y with
    routine := y.routine.map (fun e => { e with wait := e.wait.map (fun w => { w with since := w.since + d }) }),
    lastWait := (y.wait.orElse (fun _ => y.lastWait)).map (fun w => { w with since := w.since + d }), wait := none,
    outs := y.outs.map (fun o => { o with since := o.since + d }) }

theorem shiftWaits_strand (x : Task) (d : Word) (k : Nat) : (shiftWaits x d).strand k = shiftedStrand d (x.strand k) :=
  SMap.getD_find_map (shiftedStrand d) k x.strands {}

theorem shiftWaits_strand_regs (x : Task) (d : Word) (k : Nat) : ((shiftWaits x d).strand k).r = (x.strand k).r := by
  rw [shiftWaits_strand]
  rfl

/-- A task that begins to wait changes nothing but its die. -/
theorem beginWait_eq (s u : State) (die queue : Nat) :
    beginWait s u die queue = { u with dies := (beginWait s u die queue).dies } := by
  unfold beginWait
  split <;> rfl

theorem execParkResume_parked {s : State} (hT : s.hasTask s.sel.task = true) (hp : (myTask s).place = .parked)
    (he : (myTask s).ended = false) (hk : (myTask s).killed = false) :
    exec .parkResume s = .next (beginWait s (withTask s (fun x =>
      { shiftWaits x (s.clock - x.parkedSince.getD s.clock) with place := .saved, parkedSince := none }))
      (myTask s).die (myLaunch s).queue) := by
  unfold myTask at *
  simp [exec, execParkResume, hT, hp, he, hk, withTask, myLaunch, State.launchOf]

theorem execParkKill_parked {s : State} (hT : s.hasTask s.sel.task = true) (hp : (myTask s).place = .parked)
    (he : (myTask s).ended = false) (hk : (myTask s).killed = false) :
    exec .parkKill s = .next (killTask s s.sel.task) := by
  unfold myTask at *
  simp [exec, execParkKill, hT, hp, he, hk]

/-- A strand that KILL has ended. -/
def killedStrand (y : Strand) : Strand :=
  { y with live := false, wait := none, idle := none, saved := none, arming := none, stepDue := false, routine := none }

/-- What KILL leaves of a queue: the started commands that do not pause. -/
def killedQueue (l : List Entry) : List Entry :=
  (l.filter (fun e => e.started && !e.pauses)).map (fun e => { e with fault := none })

theorem killedQueue_started {l : List Entry} {e : Entry} (he : e ∈ killedQueue l) : e.started = true := by
  unfold killedQueue at he
  obtain ⟨e0, h0, rfl⟩ := List.mem_map.mp he
  have hs := (List.mem_filter.mp h0).2
  rw [Bool.and_eq_true] at hs
  exact hs.1

theorem killTask_strand {s : State} {t : Nat} (h : s.hasTask t = true) (k : Nat) :
    ((killTask s t).task t).strand k = killedStrand ((s.task t).strand k) := by
  rw [killTask_task h]
  exact SMap.getD_find_map killedStrand k (s.task t).strands {}

theorem killTask_loop {s : State} {t : Nat} (h : s.hasTask t = true) (n : Nat) :
    ((killTask s t).task t).loop n = { (s.task t).loop n with act := false } := by
  rw [killTask_task h]
  exact SMap.getD_find_map (fun y : LoopState => { y with act := false }) n (s.task t).loops {}

theorem killTask_queue {s : State} {t : Nat} (h : s.hasTask t = true) (q : Nat) :
    ((killTask s t).task t).queue q = killedQueue ((s.task t).queue q) := by
  rw [killTask_task h]
  exact SMap.getD_find_map killedQueue q (s.task t).queues []

/-- KILL marks the launch of the task as failed. -/
theorem killTask_launches {s : State} {t : Nat} (h : s.hasTask t = true) :
    (killTask s t).launches = SMap.upd ((killTask s t).task t).launch (fun l => { l with failed := true }) s.launches := by
  rw [killTask_task h]
  unfold killTask State.modLaunch
  simp only [State.task_modTask_same h, State.modTask_launches]

theorem killedTask_killTask {s : State} (hT : s.hasTask s.sel.task = true) : KilledTask (killTask s s.sel.task) where
  killed := congrArg Task.killed (killTask_task hT)
  frozen := congrArg Task.freeze (killTask_task hT)
  strands k := congrArg Strand.live (killTask_strand hT k)
  loops n := congrArg LoopState.act (killTask_loop hT n)
  queues q e he := killedQueue_started (by rw [← killTask_queue hT q]; exact he)
  failed hf := by
    rw [killTask_launches hT] at hf
    rw [show (myTask (killTask s s.sel.task)).launch = ((killTask s s.sel.task).task s.sel.task).launch from rfl,
      SMap.find_upd_same, Option.map_eq_some_iff] at hf
    obtain ⟨l, -, hl⟩ := hf
    rw [← hl]

/-! ### Forced sync points (R394, R395) -/

/-- A replay that got as far as a sync point counts as a corrected mismatch of its core (R395). -/
def countCorrected (s : State) (t : Nat) : State :=
  s.modDie (s.task t).die (fun d =>
    d.modCore ((s.task t).core?.getD 0) (fun c => { c with corrected := min (c.corrected + 1) 65535 }))

theorem guardAgree_eq (s : State) (t k : Nat) :
    guardAgree s t k = (if (s.strand t k).replaying then countCorrected s t else s).modTask t (agreeTask k) := by
  unfold guardAgree
  simp only [State.modStrand, State.modTask_modTask]
  rfl

theorem guardAgree_task {s : State} {t : Nat} (h : s.hasTask t = true) (k : Nat) :
    (guardAgree s t k).task t = agreeTask k (s.task t) := by
  rw [guardAgree_eq]
  split <;> exact State.task_modTask_same h _

theorem guardAgree_others (s : State) (t k : Nat) {j : Nat} (hj : j ≠ t) :
    SMap.find j (guardAgree s t k).tasks = SMap.find j s.tasks := by
  rw [guardAgree_eq]
  split <;> exact SMap.find_upd_other hj _ _

theorem guardAgree_sel (s : State) (t k : Nat) : (guardAgree s t k).sel = s.sel := by
  rw [guardAgree_eq]
  split <;> rfl

/-- Only values that wait for the strand's own guard leave the load-value queue. -/
theorem agreeTask_lvq (k : Nat) (x : Task) : (agreeTask k x).lvq = x.lvq.filter (fun e => e.strand != k || e.bad) := rfl

theorem Die.core_modCore_same (d : Die) (c : Nat) (f : Core → Core) : (d.modCore c f).core c = f (d.core c) := by
  simp [Die.core, Die.modCore]

theorem guardAgree_corrected {s : State} {t k : Nat} (hr : (s.strand t k).replaying = true) :
    (((guardAgree s t k).die (s.task t).die).core ((s.task t).core?.getD 0)).corrected =
      min (((s.die (s.task t).die).core ((s.task t).core?.getD 0)).corrected + 1) 65535 := by
  rw [guardAgree_eq, if_pos hr, State.die_modTask, countCorrected, State.die_modDie_same, Die.core_modCore_same]

/-! ### Rolling back (R395) -/

/-- Writing back a CSR of a task leaves its scratchpad and heritage region alone. -/
theorem undoTaskCsr_memory (x : Task) (c : Nat) (w : Word) :
    (undoTaskCsr x c w).spad = x.spad ∧ (undoTaskCsr x c w).heritage = x.heritage := by
  unfold undoTaskCsr
  split
  case h_14 => -- the loop counters whose ACT bits are set, one after the other
    refine List.foldlRecOn (motive := fun y : Task => y.spad = x.spad ∧ y.heritage = x.heritage) _ _ ⟨rfl, rfl⟩ ?_
    intro y hy n _
    split <;> exact hy
  all_goals exact ⟨rfl, rfl⟩

/-- Undoing values of a strand of task `t` leaves who acts, the other tasks and every memory alone, and the task stands. -/
structure UndoFrame (t : Nat) (s u : State) : Prop where
  sel : u.sel = s.sel
  hasTask : u.hasTask t = s.hasTask t
  others : ∀ j, j ≠ t → SMap.find j u.tasks = SMap.find j s.tasks
  memory : MemoryKept s u

theorem UndoFrame.refl (t : Nat) (s : State) : UndoFrame t s s := ⟨rfl, rfl, fun _ _ => rfl, MemoryKept.refl s⟩

theorem UndoFrame.trans {t : Nat} {s u v : State} (h1 : UndoFrame t s u) (h2 : UndoFrame t u v) : UndoFrame t s v where
  sel := h2.sel.trans h1.sel
  hasTask := h2.hasTask.trans h1.hasTask
  others j hj := (h2.others j hj).trans (h1.others j hj)
  memory := h1.memory.trans h2.memory

theorem UndoFrame.modTask {f : Task → Task} (hs : ∀ x, (f x).spad = x.spad) (hh : ∀ x, (f x).heritage = x.heritage)
    (s : State) (t : Nat) : UndoFrame t s (s.modTask t f) where
  sel := rfl
  hasTask := State.hasTask_modTask s t t f
  others _ hj := SMap.find_upd_other hj f s.tasks
  memory := MemoryKept.modTask hs hh s t

/-- A change outside the tasks and the memories. -/
theorem UndoFrame.outside (t : Nat) {s u : State} (hsel : u.sel = s.sel) (htasks : u.tasks = s.tasks) (hmem : u.mem = s.mem)
    (hwin : u.win = s.win) : UndoFrame t s u := by
  have htask : ∀ k, u.task k = s.task k := fun k => by unfold State.task; rw [htasks]
  refine ⟨hsel, ?_, fun j _ => by rw [htasks], ⟨fun a => by rw [hmem], fun a => by rw [hwin], fun k a => ?_, fun k a => ?_⟩⟩
  · unfold State.hasTask; rw [htasks]
  · rw [htask]
  · rw [htask]

theorem undoCsr_frame (s : State) (t c : Nat) (w : Word) : UndoFrame t s (undoCsr s t c w) := by
  unfold undoCsr
  simp only
  split
  case h_9 =>
    exact UndoFrame.modTask (fun x => (undoTaskCsr_memory x c w).1) (fun x => (undoTaskCsr_memory x c w).2) s t
  all_goals exact UndoFrame.outside t rfl rfl rfl rfl

theorem undoOne_frame (t k : Nat) (s : State) (u : Nat × Nat × Nat) : UndoFrame t s (undoOne t k s u) := by
  unfold undoOne
  split
  case h_1 => exact undoCsr_frame s t _ _
  case h_7 => exact UndoFrame.outside t rfl rfl rfl rfl
  all_goals exact UndoFrame.modTask (fun _ => by rfl) (fun _ => by rfl) s t

/-- What a strand writes outside CSRs and its function's order log is undone in its task. -/
theorem undoOne_outside {t k : Nat} (s : State) {u : Nat × Nat × Nat} (hu : u.1 ≠ 0 ∧ u.1 < 6) :
    OutsideKept s (undoOne t k s u) := by
  obtain ⟨kind, n, v⟩ := u
  obtain ⟨h0, h6⟩ : kind ≠ 0 ∧ kind < 6 := hu
  have h1 : 1 ≤ kind := Nat.pos_of_ne_zero h0
  interval_cases kind <;> rfl

/-- All that a rollback has to undo, undone. -/
theorem undoAll_frame (t k : Nat) (l : List (Nat × Nat × Nat)) (s : State) : UndoFrame t s (l.foldl (undoOne t k) s) :=
  List.foldlRecOn (motive := UndoFrame t s) l _ (UndoFrame.refl t s) (fun u hu e _ => hu.trans (undoOne_frame t k u e))

theorem undoAll_outside {t k : Nat} {l : List (Nat × Nat × Nat)} (hl : ∀ u ∈ l, u.1 ≠ 0 ∧ u.1 < 6) (s : State) :
    OutsideKept s (l.foldl (undoOne t k) s) :=
  List.foldlRecOn (motive := OutsideKept s) l _ rfl (fun u hu e he => hu.trans (undoOne_outside u (hl e he)))

/-- A task whose strand `k` goes back to its last sync point `p`, once the values written since are undone. -/
def backAt (k : Nat) (p : SyncPoint) (y : Task) : Task :=
  ({ y with loops := undoLoops y.loops p.loops k }).modStrand k (fun x => { x with
    r := p.regs, seq := p.seq, sinceSync := 0, sync := { p with undo := [] }, replaying := true, wait := none, idle := none,
    outs := x.outs.filter (fun o => p.outs.contains o.id || o.dest.isNone), notReady := p.notReady, alias_ := p.alias_,
    guard := p.regs, arming := p.arming, routine := if p.regs.her then x.routine else none })

theorem rollback_eq (s : State) (t k : Nat) :
    rollback s t k = ((s.strand t k).sync.undo.foldl (undoOne t k) s).modTask t (backAt k (s.strand t k).sync) := by
  unfold rollback State.modStrand
  simp only [State.modTask_modTask]
  rfl

theorem rollback_frame (s : State) (t k : Nat) : UndoFrame t s (rollback s t k) := by
  rw [rollback_eq]
  exact (undoAll_frame t k _ s).trans (UndoFrame.modTask (fun _ => by rfl) (fun _ => by rfl) _ t)

theorem rollback_outside {s : State} {t k : Nat} (h : ∀ u ∈ (s.strand t k).sync.undo, u.1 ≠ 0 ∧ u.1 < 6) :
    OutsideKept s (rollback s t k) := by
  rw [rollback_eq]
  exact (undoAll_outside h s).trans rfl

/-- The strand is back at its last sync point, and replays. -/
theorem rollback_strand {s : State} {t : Nat} (h : s.hasTask t = true) (k : Nat) :
    ((rollback s t k).strand t k).r = (s.strand t k).sync.regs
      ∧ ((rollback s t k).strand t k).seq = (s.strand t k).sync.seq
      ∧ ((rollback s t k).strand t k).replaying = true
      ∧ ((rollback s t k).strand t k).sinceSync = 0 := by
  have hT : ((s.strand t k).sync.undo.foldl (undoOne t k) s).hasTask t = true :=
    ((undoAll_frame t k _ s).hasTask).trans h
  rw [rollback_eq, State.strand, State.task_modTask_same hT, backAt, Task.strand_modStrand_same]
  exact ⟨rfl, rfl, rfl, rfl⟩

theorem execForcedSyncPoint_agree {s : State} (hT : s.hasTask s.sel.task = true) (hl : (me s).live = true)
    (h64 : 64 ≤ (me s).sinceSync) (hg : s.sel.guard = .agree) :
    exec .forcedSyncPoint s = .next (guardAgree s s.sel.task s.sel.strand) := by
  unfold me at hl h64
  simp [exec, execForcedSyncPoint, hT, hl, h64, hg]

theorem execForcedSyncPoint_mismatch {s : State} (hT : s.hasTask s.sel.task = true) (hl : (me s).live = true)
    (h64 : 64 ≤ (me s).sinceSync) (hg : s.sel.guard = .mismatch) (hr : (me s).replaying = false) :
    exec .forcedSyncPoint s = .next (rollback s s.sel.task s.sel.strand) := by
  unfold me at hl h64 hr
  simp [exec, execForcedSyncPoint, hT, hl, h64, hg, guardMismatch, hr]

/-! ### The clauses together -/

/-- A wait without bound of the lowest live strand traps HANG (R185). -/
theorem hang_traps {s : State} (hT : s.hasTask s.sel.task = true) {k : Nat} {w : Wait} (he : (myTask s).ended = false)
    (hkill : (myTask s).killed = false) (hfz : (myTask s).freeze = none) (hp : (myTask s).place ≠ .parked) (hk : k < 8)
    (hbelow : ∀ j, j < k → ((myTask s).strand j).live = false) (hlive : ((myTask s).strand k).live = true)
    (hw : ((myTask s).strand k).wait = some w) (hkind : w.kind ≠ 0)
    (hlate : w.since.toNat + 1000000 * (s.die (myTask s).die).hangto ≤ s.clock.toNat)
    (hh : ((myTask s).strand k).r.hnd = false) (hr : ((myTask s).strand k).r.her = false) :
    ∃ t, exec .hang s = .next t ∧ (myTask t).trap.tcause = w64 (24 + 2 ^ 13 * (lengthAt s s.sel.task k % 8))
      ∧ (myTask t).trap.tval = 0 ∧ (myTask t).trap.tpc = ((myTask s).strand k).r.pc
      ∧ (myTask t).trap.tstatus = statusWord ((myTask s).strand k).r (myLaunch s) := by
  have hcsrs := takeTrap_csrs (k := k) hT hh hr { cause := 24 } ((myTask s).strand k).r.pc (lengthAt s s.sel.task k)
    (hangBytes s s.sel.task)
  refine ⟨_, execHang_strand hT he hkill hp (hung_strand hfz hk hbelow hlive hw hkind hlate), ?_⟩
  unfold myTask at hcsrs ⊢
  rw [takeTrap_sel, hcsrs]
  exact ⟨tcauseOf_strand _ _ rfl rfl, rfl, rfl, rfl⟩

/-- A parked task that the driver resumes waits for a core again, its strands and scratchpad as they were (R178). -/
theorem parkResume_waitsAgain {s : State} (hT : s.hasTask s.sel.task = true) (hp : (myTask s).place = .parked)
    (he : (myTask s).ended = false) (hk : (myTask s).killed = false) :
    ∃ t, exec .parkResume s = .next t ∧ t = { s with tasks := t.tasks, dies := t.dies } ∧ OthersKept s t
      ∧ (myTask t).place = .saved ∧ (myTask t).parkedSince = none
      ∧ (∀ k, ((myTask t).strand k).r = ((myTask s).strand k).r) ∧ (myTask t).spad = (myTask s).spad := by
  refine ⟨_, execParkResume_parked hT hp he hk, ?_⟩
  rw [beginWait_eq]
  have hm : ∀ (f : Task → Task) (d : SMap Die), myTask { withTask s f with dies := d } = f (myTask s) :=
    fun f _ => State.task_modTask_same hT f
  refine ⟨rfl, fun j hj => SMap.find_upd_other hj _ _, ?_⟩
  rw [hm]
  exact ⟨rfl, rfl, shiftWaits_strand_regs (myTask s) _, rfl⟩

/-- The pair agrees: the rollback point is here, and a replay counts as corrected (R394, R395). -/
theorem forcedSyncPoint_syncs {s : State} (hT : s.hasTask s.sel.task = true) (hl : (me s).live = true)
    (h64 : 64 ≤ (me s).sinceSync) (hg : s.sel.guard = .agree) :
    ∃ t, exec .forcedSyncPoint s = .next t ∧ OthersKept s t ∧ ((me s).replaying = false → OutsideKept s t)
      ∧ me t = { (me s).syncNow (myTask s).loops with replaying := false }
      ∧ (∀ j, j ≠ s.sel.strand → (myTask t).strand j = (myTask s).strand j)
      ∧ myTask t = { myTask s with strands := (myTask t).strands, lvq := (myTask t).lvq }
      ∧ (∀ e ∈ (myTask t).lvq, e ∈ (myTask s).lvq)
      ∧ (∀ e ∈ (myTask s).lvq, e.strand ≠ s.sel.strand → e ∈ (myTask t).lvq)
      ∧ ((me s).replaying = true →
          ((t.die (myTask s).die).core ((myTask s).core?.getD 0)).corrected =
            min (((s.die (myTask s).die).core ((myTask s).core?.getD 0)).corrected + 1) 65535) := by
  have hm : myTask (guardAgree s s.sel.task s.sel.strand) = agreeTask s.sel.strand (myTask s) := by
    unfold myTask
    rw [guardAgree_sel, guardAgree_task hT]
  have hme : me (guardAgree s s.sel.task s.sel.strand) = (agreeTask s.sel.strand (myTask s)).strand s.sel.strand := by
    unfold me State.strand
    rw [guardAgree_sel, guardAgree_task hT]
    rfl
  refine ⟨_, execForcedSyncPoint_agree hT hl h64 hg, fun j hj => guardAgree_others s _ _ hj, ?_, ?_, ?_, ?_, ?_, ?_, ?_⟩
  · intro hr
    rw [guardAgree_first hr]
    rfl
  · rw [hme, agreeTask_strand_same]
    rfl
  · intro j hj
    rw [hm, agreeTask_strand_other hj]
  · rw [hm]
    exact agreeTask_eq _ _
  · intro e he
    rw [hm, agreeTask_lvq] at he
    exact (List.mem_filter.mp he).1
  · intro e he hne
    rw [hm, agreeTask_lvq]
    exact List.mem_filter.mpr ⟨he, by simp [hne]⟩
  · exact guardAgree_corrected

/-- The pair does not agree for the first time: the strand is back at its last sync point (R395). -/
theorem forcedSyncPoint_rollsBack {s : State} (hT : s.hasTask s.sel.task = true) (hl : (me s).live = true)
    (h64 : 64 ≤ (me s).sinceSync) (hg : s.sel.guard = .mismatch) (hr : (me s).replaying = false) :
    ∃ t, exec .forcedSyncPoint s = .next t ∧ OthersKept s t ∧ regs t = (me s).sync.regs ∧ (me t).seq = (me s).sync.seq
      ∧ (me t).replaying = true ∧ (me t).sinceSync = 0 ∧ MemoryKept s t
      ∧ ((∀ u ∈ (me s).sync.undo, u.1 ≠ 0 ∧ u.1 < 6) → OutsideKept s t) := by
  obtain ⟨hsel, -, hothers, hmemory⟩ := rollback_frame s s.sel.task s.sel.strand
  obtain ⟨hregs, hseq, hrep, hsince⟩ := rollback_strand hT s.sel.strand
  refine ⟨_, execForcedSyncPoint_mismatch hT hl h64 hg hr, hothers, ?_⟩
  unfold regs me
  rw [hsel]
  exact ⟨hregs, hseq, hrep, hsince, hmemory, rollback_outside⟩

/-- Settles O49, an event at a time: each clause is the event's own lemma. -/
theorem waitsEnd : Obligations.WaitsEnd := by
  unfold Obligations.WaitsEnd
  refine ⟨fun s hT => ⟨?wait, ?semaphore, ?pending, ?idle, ?hang, ?park, ?debug⟩, fun s hT hl h64 => ⟨?agree, ?mismatch⟩⟩
  case wait => exact fun w hw ho => execWaitUntilMet_over hT hw ho
  case semaphore => exact fun w _ hk => waitOver_semaphore hk
  case pending => exact fun w hw ho => execWaitUntilMet_pending hw ho
  case idle => exact fun c hc => ⟨execIdleTimeout_late hT hc, execIdleTimeout_early hc⟩
  case hang =>
    intro k w he hkill hfz hp hk hbelow hlive hw hkind hlate hh hr
    exact hang_traps hT he hkill hfz hp hk hbelow hlive hw hkind hlate hh hr
  case park =>
    exact fun hp he hk =>
      ⟨parkResume_waitsAgain hT hp he hk, _, execParkKill_parked hT hp he hk, killedTask_killTask hT⟩
  case debug => simp [exec, execDebugPathWrite, hT, withTask]
  case agree =>
    intro hg
    obtain ⟨t, hx, hothers, houtside, hme, hsiblings, htask, hsub, hkept, hcount⟩ := forcedSyncPoint_syncs hT hl h64 hg
    exact ⟨t, hx, hothers, houtside, hme, hsiblings, htask, hsub, hkept, fun hr _ => hcount hr⟩
  case mismatch => exact fun hg hr => forcedSyncPoint_rollsBack hT hl h64 hg hr

end Sys2Proof.Machine
end

section
/-!
PROOFS. Words written out from the encodings (R56, R58, R70).
-/
namespace Sys2Proof

/-- Settles O55: the words are closed terms, and the decoder runs on each. -/
theorem workedWords : Obligations.WorkedWords := by
  unfold Obligations.WorkedWords
  decide

end Sys2Proof
end

section
/-!
PROOFS. What reset leaves (R13, R167, R415, R417, R422, R437, R441).
-/
namespace Sys2Proof.Machine

/-- What the default and every entry of a map have, every value read from it has. -/
theorem SMap.getD_find_of_all {α : Type} {p : α → Prop} {m : SMap α} {d : α} (hd : p d) (hm : ∀ e ∈ m, p e.2) (k : Nat) :
    p ((SMap.find k m).getD d) := by
  induction m with
  | nil => exact hd
  | cons e r ih =>
    obtain ⟨j, v⟩ := e
    by_cases hj : j = k
    · simpa [SMap.find, hj] using hm (j, v) List.mem_cons_self
    · simpa [SMap.find, hj] using ih (fun e he => hm e (List.mem_cons_of_mem _ he))

theorem reset_die {d : Nat} (hd : d < 8) : State.reset.die d = Die.reset := by
  interval_cases d <;> rfl

/-- The 32 cores that serve are the first 32 of the 36 of a die (R13). -/
theorem dieReset_inService : ((List.range 36).filter (fun c => (Die.reset.core c).inService)).length = 32 := by decide

/-- No core of a die has an engine demoted or a scratchpad bank retired. -/
theorem dieReset_core (c : Nat) : (Die.reset.core c).me0 = 0 ∧ (Die.reset.core c).me1 = 0 ∧ (Die.reset.core c).spareBanks = 2
    ∧ (Die.reset.core c).retiredBanks = 0 :=
  SMap.getD_find_of_all (p := fun x : Core => x.me0 = 0 ∧ x.me1 = 0 ∧ x.spareBanks = 2 ∧ x.retiredBanks = 0)
    ⟨rfl, rfl, rfl, rfl⟩ (by decide) c

theorem dieReset_age {n : Nat} (hn : n < 7) : SMap.get 1000 Die.reset.age n = 1000 := by
  interval_cases n <;> rfl

/-- At reset every queue number is its own (QMAP, R413). -/
theorem reset_queueNumber {k : Nat} (hk : k < 4096) : queueNumber State.reset k = k := Nat.mod_eq_of_lt hk

/-- Settles O54: the values of a die are those of `Die.reset`, whichever of the eight it is; all else is read off the state. -/
theorem resetValues : Obligations.ResetValues := by
  unfold Obligations.ResetValues
  refine ⟨rfl, rfl, rfl, rfl, rfl, rfl, rfl, ⟨rfl, rfl⟩, fun e he => absurd he List.not_mem_nil, rfl, fun d hd => ?die,
    fun _ => ⟨rfl, rfl, rfl, rfl, rfl, rfl⟩, fun _ => ⟨rfl, rfl, rfl, rfl, rfl⟩, fun k hk => reset_queueNumber hk, rfl, rfl,
    rfl, rfl⟩
  case die =>
    simp only [vfLevel, reset_die hd]
    exact ⟨dieReset_inService, dieReset_core, fun n hn => dieReset_age hn, rfl, rfl, fun _ => rfl, rfl, rfl⟩

end Sys2Proof.Machine
end

section
/-!
PROOFS. Laws of an engine's work on its own task: what the head of a queue waits for, how it changes, and how it completes
(R16 to R18, R65, R243, R320, R340, R377).
-/
namespace Sys2Proof.Machine

/-! ### A state but for one task -/

/-- `u` is `s` but for task `k`, which is `x`. -/
structure TaskIs (s u : State) (k : Nat) (x : Task) : Prop where
  outside : OutsideKept s u
  others : ∀ j, j ≠ k → SMap.find j u.tasks = SMap.find j s.tasks
  found : SMap.find k u.tasks = some x

theorem TaskIs.refl {s : State} {k : Nat} (h : s.hasTask k = true) : TaskIs s s k (s.task k) :=
  ⟨rfl, fun _ _ => rfl, State.find_task h⟩

theorem TaskIs.mine {s : State} (h : s.hasTask s.sel.task = true) : TaskIs s s s.sel.task (myTask s) := TaskIs.refl h

theorem TaskIs.modTask {s u : State} {k : Nat} {x : Task} (h : TaskIs s u k x) (f : Task → Task) :
    TaskIs s (u.modTask k f) k (f x) where
  outside := h.outside.trans rfl
  others j hj := (SMap.find_upd_other hj _ _).trans (h.others j hj)
  found := by
    show SMap.find k (SMap.upd k f u.tasks) = some (f x)
    rw [SMap.find_upd_same, h.found]
    rfl

theorem TaskIs.task {s u : State} {k : Nat} {x : Task} (h : TaskIs s u k x) : u.task k = x := by
  unfold State.task
  rw [h.found]
  rfl

theorem TaskIs.sel {s u : State} {k : Nat} {x : Task} (h : TaskIs s u k x) : u.sel = s.sel := h.outside.sel

theorem TaskIs.clock {s u : State} {k : Nat} {x : Task} (h : TaskIs s u k x) : u.clock = s.clock := by rw [h.outside]

theorem TaskIs.myTask {s u : State} {x : Task} (h : TaskIs s u s.sel.task x) : myTask u = x := by
  unfold Machine.myTask
  rw [h.sel]
  exact h.task

theorem TaskIs.hasTask {s u : State} {k : Nat} {x : Task} (h : TaskIs s u k x) : u.hasTask k = true :=
  (State.hasTask_iff u k).mpr ⟨x, h.found⟩

/-- Two states that are each `s` but for one task differ in that task alone. -/
theorem TaskIs.rebase {s u t : State} {k : Nat} {x y : Task} (hu : TaskIs s u k x) (ht : TaskIs s t k y) : TaskIs u t k y where
  outside := by
    have h1 := hu.outside
    have h2 := ht.outside
    unfold OutsideKept at h1 h2 ⊢
    rw [h1, h2]
  others j hj := (ht.others j hj).trans (hu.others j hj).symm
  found := ht.found

/-- A task whose scratchpad and heritage region are as before: every memory is. -/
theorem TaskIs.memoryKept {s u : State} {k : Nat} {x : Task} (h : TaskIs s u k x) (hs : x.spad = (s.task k).spad)
    (hh : x.heritage = (s.task k).heritage) : MemoryKept s u where
  mem a := by rw [h.outside]
  win a := by rw [h.outside]
  spad j a := by
    by_cases hj : j = k
    · subst hj; rw [h.task, hs]
    · rw [task_of_find (h.others j hj)]
  heritage j a := by
    by_cases hj : j = k
    · subst hj; rw [h.task, hh]
    · rw [task_of_find (h.others j hj)]

/-! ### The head of a queue -/

@[simp] theorem Task.setQueue_setQueue (x : Task) (q : Nat) (l m : List Entry) :
    (x.setQueue q l).setQueue q m = x.setQueue q m := by
  simp [Task.setQueue]

@[simp] theorem Task.setQueue_sem (x : Task) (q n : Nat) (l : List Entry) : (x.setQueue q l).sem n = x.sem n := rfl

@[simp] theorem Task.setQueue_slot (x : Task) (q n : Nat) (l : List Entry) : (x.setQueue q l).slot n = x.slot n := rfl

theorem Task.queue_setQueue (x : Task) (q n : Nat) (l : List Entry) :
    (x.setQueue q l).queue n = if n = q then l else x.queue n := by
  split
  · rename_i h; subst h; exact Task.queue_setQueue_same x n l
  · rename_i h; exact Task.queue_setQueue_other x h l

/-- Changing the head of an engine queue that has one. -/
theorem Task.modHead_cons {x : Task} {q : Nat} {e : Entry} {r : List Entry} (hq : q < 16) (h : x.queue q = e :: r)
    (f : Entry → Entry) : x.modHead q f = x.setQueue q (f e :: r) := by
  unfold Task.modHead
  rw [if_neg (by omega), h]

theorem Task.modHead_nil {x : Task} {q : Nat} (hq : q < 16) (h : x.queue q = []) (f : Entry → Entry) : x.modHead q f = x := by
  unfold Task.modHead
  rw [if_neg (by omega), h]

theorem Task.modHead_modHead {q : Nat} (hq : q < 16) (x : Task) (f g : Entry → Entry) :
    (x.modHead q f).modHead q g = x.modHead q (fun e => g (f e)) := by
  cases h : x.queue q with
  | nil => rw [Task.modHead_nil hq h, Task.modHead_nil hq h, Task.modHead_nil hq h]
  | cons e r =>
    rw [Task.modHead_cons hq h, Task.modHead_cons hq (Task.queue_setQueue_same x q _), Task.setQueue_setQueue,
      Task.modHead_cons hq h]

theorem TaskIs.onHead {s u : State} {k : Nat} {x : Task} (h : TaskIs s u k x) (q : Nat) (f : Entry → Entry) :
    TaskIs s (onHead u k q f) k (x.modHead q f) := h.modTask _

/-- A head that waits; a wait that goes on keeps its beginning (R185). -/
def waitingHead (now : Word) (w : Wait) (e : Entry) : Entry :=
  { e with wait := some { w with since := match e.wait with
      | some o => if o.kind = w.kind ∧ o.object = w.object then o.since else now
      | none => now } }

theorem waitingHead_first {e : Entry} (h : e.wait = none) (now : Word) (w : Wait) :
    waitingHead now w e = { e with wait := some { w with since := now } } := by
  unfold waitingHead
  rw [h]

theorem headWait_eq (s : State) (t q : Nat) (w : Wait) : headWait s t q w = onHead s t q (waitingHead s.clock w) := rfl

theorem TaskIs.headWait {s u : State} {k : Nat} {x : Task} (h : TaskIs s u k x) (q : Nat) (w : Wait) :
    TaskIs s (headWait u k q w) k (x.modHead q (waitingHead s.clock w)) := by
  rw [headWait_eq, h.clock]
  exact h.onHead q _

theorem queue_of_head {x : Task} {q : Nat} {e : Entry} (h : (x.queue q).head? = some e) :
    x.queue q = e :: (x.queue q).drop 1 := by
  rw [List.drop_one]
  exact List.eq_cons_of_mem_head? h

/-- The head changed, where it is known. -/
theorem Task.modHead_of_head {x : Task} {q : Nat} {e : Entry} (hq : q < 16) (h : (x.queue q).head? = some e)
    (f : Entry → Entry) : x.modHead q f = x.setQueue q (f e :: (x.queue q).drop 1) :=
  Task.modHead_cons hq (queue_of_head h) f

/-- Another entry at the head, and nothing else. -/
theorem HeadNow.of_taskIs {s u t : State} {q : Nat} {e : Entry} {x : Task} (hu : TaskIs s u s.sel.task x)
    (ht : TaskIs s t s.sel.task (x.setQueue q (e :: (x.queue q).drop 1))) : HeadNow u t q e := by
  have h := hu.rebase ht
  have hx : myTask u = x := hu.myTask
  have hy := ht.myTask
  refine ⟨h.outside, fun j hj => h.others j (by rw [hu.sel] at hj; exact hj), ?_, fun n => ?_⟩
  · rw [hx, hy]
    rfl
  · rw [hx, hy, Task.queue_setQueue]

/-! ### Completion (R18, R243) -/

/-- A task whose command with the fields `l` has signalled. -/
def signalled (l : Link) (err : Bool) (x : Task) : Task :=
  if l.si = 0 then x.wake else (x.setSem l.ss ((x.sem l.ss).add l.si err)).wake

/-- A task whose command with the fields `l` at the head of a queue has completed. -/
def doneTask (q : Nat) (l : Link) (err : Bool) (x : Task) : Task := signalled l err (x.setQueue q ((x.queue q).drop 1))

theorem TaskIs.finishHead {s u : State} {k : Nat} {x : Task} (h : TaskIs s u k x) (q : Nat) (e : Entry) (err : Bool) :
    TaskIs s (finishHead u k q e err) k (doneTask q (linkOf e.cmd) err x) := by
  have hp : TaskIs s (popHead u k q) k (x.setQueue q ((x.queue q).drop 1)) := h.modTask _
  unfold Machine.finishHead signalLocal doneTask signalled
  split
  · exact hp.modTask _
  · exact hp.modTask _

@[simp] theorem Task.wake_queue (x : Task) (q : Nat) : x.wake.queue q = x.queue q := rfl

@[simp] theorem Task.wake_sem (x : Task) (n : Nat) : x.wake.sem n = x.sem n := rfl

theorem signalled_queue (l : Link) (err : Bool) (x : Task) (q : Nat) : (signalled l err x).queue q = x.queue q := by
  unfold signalled
  split <;> rfl

theorem signalled_sem (l : Link) (err : Bool) (x : Task) (n : Nat) : (signalled l err x).sem n =
    if l.si ≠ 0 ∧ n = l.ss then (x.sem n).add l.si err else x.sem n := by
  unfold signalled
  by_cases hs : l.si = 0
  · simp [hs]
  · by_cases hn : n = l.ss
    · subst hn; simp [hs]
    · simp [hs, hn, Task.sem_setSem_other x hn]

theorem signalled_strand (l : Link) (err : Bool) (x : Task) (k : Nat) : (signalled l err x).strand k = woken (x.strand k) := by
  unfold signalled
  split
  · exact Task.wake_strand x k
  · exact Task.wake_strand (x.setSem l.ss ((x.sem l.ss).add l.si err)) k

theorem signalled_eq (l : Link) (err : Bool) (x : Task) :
    signalled l err x = { x with sems := (signalled l err x).sems, strands := (signalled l err x).strands } := by
  unfold signalled
  split <;> rfl

theorem doneTask_eq (q : Nat) (l : Link) (err : Bool) (x : Task) : doneTask q l err x =
    { x with queues := (doneTask q l err x).queues, sems := (doneTask q l err x).sems,
             strands := (doneTask q l err x).strands } := by
  unfold doneTask
  rw [signalled_eq]
  rfl

/-- What became of a head before it completed is gone with it. -/
theorem doneTask_modHead {q : Nat} (hq : q < 16) (l : Link) (err : Bool) (x : Task) (f : Entry → Entry) :
    doneTask q l err (x.modHead q f) = doneTask q l err x := by
  unfold doneTask
  congr 1
  cases hx : x.queue q with
  | nil => rw [Task.modHead_nil hq hx, hx]
  | cons e r => rw [Task.modHead_cons hq hx, Task.queue_setQueue_same, Task.setQueue_setQueue]; rfl

theorem doneTask_setQueue_cons (q : Nat) (l : Link) (err : Bool) (x : Task) (e : Entry) :
    doneTask q l err (x.setQueue q (e :: (x.queue q).drop 1)) = doneTask q l err x := by
  unfold doneTask
  rw [Task.queue_setQueue_same, Task.setQueue_setQueue]
  rfl

theorem Task.wake_wake (x : Task) : x.wake.wake = x.wake := by
  have h : x.wake.wake.strands = x.wake.strands := by
    simp only [Task.wake_strands, List.map_map]
    rfl
  show { x.wake with strands := x.wake.wake.strands } = x.wake
  rw [h]

/-- Completion ends every IDLE, whether or not something else has just done so. -/
theorem doneTask_wake (q : Nat) (l : Link) (err : Bool) (x : Task) : doneTask q l err x.wake = doneTask q l err x := by
  unfold doneTask signalled
  split
  · exact Task.wake_wake (x.setQueue q ((x.queue q).drop 1))
  · exact Task.wake_wake ((x.setQueue q ((x.queue q).drop 1)).setSem l.ss ((x.sem l.ss).add l.si err))

theorem HeadDone.of_taskIs {s u t : State} {q : Nat} {e : Entry} {err : Bool} {x : Task} (hu : TaskIs s u s.sel.task x)
    (ht : TaskIs s t s.sel.task (doneTask q (linkOf e.cmd) err x)) : HeadDone u t q e err := by
  have h := hu.rebase ht
  have hx : myTask u = x := hu.myTask
  have hy := ht.myTask
  refine ⟨h.outside, fun j hj => h.others j (by rw [hu.sel] at hj; exact hj), ?_, fun n => ?_, fun n => ?_, fun k => ?_⟩
  · rw [hx, hy]
    exact doneTask_eq _ _ _ _
  · rw [hx, hy, doneTask, signalled_queue, Task.queue_setQueue]
  · rw [hx, hy, doneTask, signalled_sem, Task.setQueue_sem]
  · rw [hx, hy, doneTask, signalled_strand]
    rfl

/-! ### WT (R17, R18) -/

/-- A head whose WT is taken. -/
def tookHead (e : Entry) : Entry := { e with tookWt := true }

theorem takeWt_taken {e : Entry} (h : e.tookWt = true ∨ (linkOf e.cmd).wt = 0) (s : State) (t q : Nat) :
    takeWt s t q e = (onHead s t q tookHead, .go) := by
  unfold takeWt
  rw [if_pos (by simpa using h)]
  rfl

theorem takeWt_waits {s : State} {t q : Nat} {e : Entry} (ht : e.tookWt = false) (hw : (linkOf e.cmd).wt ≠ 0)
    (h : ((s.task t).sem (linkOf e.cmd).ws).count < (linkOf e.cmd).wt
      ∨ headFirst (s.task t) (min q 9) (linkOf e.cmd).ws = true) :
    takeWt s t q e =
      (headWait s t q { kind := 2, object := (linkOf e.cmd).ws, amount := (linkOf e.cmd).wt }, .wait) := by
  unfold takeWt
  rw [if_neg (by simp [ht, hw]), if_pos (by simpa using h)]

/-- A semaphore after WT is taken. -/
def lessWt (n : Nat) (x : Sem) : Sem := { x with count := x.count - n }

/-- A head that took WT and met E. -/
def skippedAtWt (e : Entry) : Entry := { e with tookWt := true, wait := none, skip := true }

theorem takeWt_skips {s : State} {t q : Nat} {e : Entry} (ht : e.tookWt = false) (hw : (linkOf e.cmd).wt ≠ 0)
    (hc : (linkOf e.cmd).wt ≤ ((s.task t).sem (linkOf e.cmd).ws).count)
    (hf : headFirst (s.task t) (min q 9) (linkOf e.cmd).ws = false)
    (he : ((s.task t).sem (linkOf e.cmd).ws).e = true) :
    takeWt s t q e =
      (onHead (s.modTask t (fun x => x.setSem (linkOf e.cmd).ws (lessWt (linkOf e.cmd).wt (x.sem (linkOf e.cmd).ws)))) t q
        skippedAtWt, .skip) := by
  unfold takeWt
  rw [if_neg (by simp [ht, hw]), if_neg (by simp [hf]; omega)]
  show (onHead (s.modTask t (fun x => x.setSem (linkOf e.cmd).ws (lessWt (linkOf e.cmd).wt ((s.task t).sem (linkOf e.cmd).ws))))
      t q (fun e' => { e' with tookWt := true, wait := none, skip := ((s.task t).sem (linkOf e.cmd).ws).e }),
    if ((s.task t).sem (linkOf e.cmd).ws).e then WtAnswer.skip else WtAnswer.go) = _
  rw [he, modTask_congr (g := fun x => x.setSem (linkOf e.cmd).ws (lessWt (linkOf e.cmd).wt (x.sem (linkOf e.cmd).ws))) rfl]
  rfl

/-! ### Data errors (R156, R315) -/

/-- Absorbing a data error changes the launch of the task, and the task no further. -/
theorem TaskIs.absorbError {s u : State} {k : Nat} {x : Task} (h : TaskIs s u k x) (hl : x.launch = (s.task k).launch) :
    TaskIs (absorbError s k) (absorbError u k) k x where
  outside := by
    have ho := h.outside
    unfold OutsideKept Machine.absorbError at *
    rw [h.task, hl, ho]
    rfl
  others := h.others
  found := h.found

theorem Task.modHead_launch {x : Task} {q : Nat} (hq : q < 16) (f : Entry → Entry) : (x.modHead q f).launch = x.launch := by
  cases h : x.queue q with
  | nil => rw [Task.modHead_nil hq h]
  | cons e r => rw [Task.modHead_cons hq h]; rfl

/-! ### Claims (R300) -/

/-- What the head has become does not matter to its own claim, as long as it is the same command of the same push. -/
theorem mayClaim_head {x : Task} {q : Nat} {e e' : Entry} {r : List Entry} (h : x.queue q = e :: r)
    (hs : e'.serial = e.serial) (hc : e'.cmd = e.cmd) (n : Nat) :
    mayClaim (x.setQueue q (e' :: r)) q e' n = mayClaim x q e n := by
  unfold mayClaim
  rw [Task.setQueue_slot, hs, hc]
  congr 3
  funext p
  by_cases hp : p = q
  · subst hp
    rw [Task.queue_setQueue_same, h]
    simp [hs]
  · rw [Task.queue_setQueue_other x hp]

end Sys2Proof.Machine
end

section
/-!
PROOFS. The collective engine's steps: windows, start times and completions (R18, R377 to R379, R385).
-/
namespace Sys2Proof.Machine

/-! ### XE_COMMAND_START -/

/-- A window opened: its base, and no command of it completed (R377). -/
def openWindow (base : Word) (x : Task) : Task := { x with eng := { x.eng with wbase := base, xcount := 0 } }

section
variable {s : State} {e : Entry} (hT : s.hasTask s.sel.task = true) (hm : mayStart (myTask s) = true)
  (hq : ((myTask s).queue 8).head? = some e)
include hT hm hq

/-- The head takes no WT: an XSTEP opens its window at once (R377, step 6). -/
theorem execXeCommandStart_xstep {f : EX} (hc : e.cmd = .xstep f) (hf : Fresh e) (hn : e.slotTime = none) (hg : Goes s e) :
    exec .xeCommandStart s = .next (finishHead ((onHead s s.sel.task 8 tookHead).modTask s.sel.task
      (openWindow e.cap.a)) s.sel.task 8 e false) := by
  have hcons := queue_of_head hq
  have hrel := hg.released
  unfold myTask at *
  simp only [exec, execXeCommandStart]
  rw [hcons]
  simp [hT, hm, hf.started, hf.finished, hn, takeWt_taken hg.taken, hrel, hc, hf.err]
  rfl

/-- A command that transmits and whose operands are good waits for its slot (R378). -/
theorem execXeCommandStart_transmits (hf : Fresh e) (hn : e.slotTime = none) (hg : Goes s e) (htr : transmits e = true)
    (hw : SMap.get 0 e.work 1 = 0) (hb : collectiveBad s s.sel.task e = none) :
    exec .xeCommandStart s = .next (awaitSlot (onHead s s.sel.task 8 tookHead) s.sel.task e) := by
  have hcons := queue_of_head hq
  have hrel := hg.released
  unfold myTask at *
  simp only [exec, execXeCommandStart]
  rw [hcons]
  simp only [hT, hm, hf.started, hf.finished, hn, takeWt_taken hg.taken, hrel, Bool.not_true, Option.isSome_none, Bool.or_self,
    Bool.false_eq_true, if_false]
  split
  · rename_i hc
    unfold transmits at htr
    rw [hc] at htr
    cases htr
  · simp [hb, htr, hw]

end

/-! ### Start times (R378) -/

/-- A head that waits for its start time. -/
def slotHead (time : Nat) (e : Entry) : Entry := { e with slotTime := some time, wait := none }

/-- A head that is late and waits for a window boundary. -/
def lateHead (time : Nat) (e : Entry) : Entry := { e with late := true, slotTime := some time }

/-- One more late command. -/
def countLate (x : Task) : Task := { x with eng := { x.eng with xlate := x.eng.xlate + 1 } }

theorem TaskIs.makeLate {s u : State} {k : Nat} {x : Task} {e : Entry} (h : TaskIs s u k x) (hl : e.late = false)
    (hc : bitsOf x.eng.xlate.toNat 0 24 < 0xFFFFFF) :
    TaskIs s (makeLate u k e) k
      (countLate (x.modHead 8 (lateHead (nextBoundary x.eng.wbase.toNat s.clock.toNat)))) := by
  have h2 := (h.onHead 8 (lateHead (nextBoundary x.eng.wbase.toNat s.clock.toNat))).modTask (fun x =>
    if bitsOf x.eng.xlate.toNat 0 24 < 0xFFFFFF then countLate x else x)
  have hx : (x.modHead 8 (lateHead (nextBoundary x.eng.wbase.toNat s.clock.toNat))).eng = x.eng := by
    cases hq : x.queue 8 with
    | nil => rw [Task.modHead_nil (by omega) hq]
    | cons y r => rw [Task.modHead_cons (by omega) hq]; rfl
  rw [hx, if_pos hc] at h2
  unfold Machine.makeLate
  rw [h.task, h.clock, hl]
  exact h2

theorem TaskIs.awaitSlot_onTime {s u : State} {k : Nat} {x : Task} {e : Entry} (h : TaskIs s u k x)
    (ht : s.clock.toNat ≤ x.eng.wbase.toNat + 64 * slotOf e.cmd) :
    TaskIs s (awaitSlot u k e) k (x.modHead 8 (slotHead (x.eng.wbase.toNat + 64 * slotOf e.cmd))) := by
  unfold awaitSlot
  rw [h.task, h.clock]
  simp only [ht, if_true]
  exact h.onHead 8 _

theorem awaitSlot_late {s : State} {t : Nat} {e : Entry}
    (ht : (s.task t).eng.wbase.toNat + 64 * slotOf e.cmd < s.clock.toNat) : awaitSlot s t e = makeLate s t e := by
  unfold awaitSlot
  simp only [Nat.not_le.mpr ht, if_false]

/-! ### XE_TRANSMISSION_START -/

/-- A head that has begun to transmit. -/
def begunHead (e : Entry) : Entry :=
  { e with started := true, slotTime := none, wait := none, work := SMap.put 1 1 e.work }

section
variable {s : State} {e : Entry} (hT : s.hasTask s.sel.task = true) (hm : mayStart (myTask s) = true)
  (hq : ((myTask s).queue 8).head? = some e)
include hT hm hq

theorem execXeTransmissionStart_due (ha : e.slotTime = some s.clock.toNat) (hs : e.started = false) (hc : s.sel.count = 0) :
    exec .xeTransmissionStart s = .next (onHead s s.sel.task 8 begunHead) := by
  have hcons := queue_of_head hq
  unfold myTask at *
  simp only [exec, execXeTransmissionStart]
  rw [hcons]
  simp [ha, hT, hm, hs, hq, hc, collectiveUnits, beginCollective]
  rfl

/-- Held beyond its start time, and not at a window boundary now (R378). -/
theorem execXeTransmissionStart_held {a : Nat} (ha : e.slotTime = some a) (hlt : a < s.clock.toNat) (hs : e.started = false)
    (hl : e.late = false) (hc : bitsOf (myTask s).eng.xlate.toNat 0 24 < 0xFFFFFF)
    (hb : nextBoundary (myTask s).eng.wbase.toNat s.clock.toNat ≠ s.clock.toNat) :
    exec .xeTransmissionStart s = .next (makeLate s s.sel.task e) := by
  have hcons := queue_of_head hq
  unfold myTask at *
  have hlate := (TaskIs.refl hT).makeLate hl hc
  rw [Task.modHead_of_head (by omega) hq] at hlate
  have hhead : (((makeLate s s.sel.task e).task s.sel.task).queue 8).head? =
      some (lateHead (nextBoundary (s.task s.sel.task).eng.wbase.toNat s.clock.toNat) e) := by
    rw [hlate.task]
    show (((s.task s.sel.task).setQueue 8 _).queue 8).head? = _
    rw [Task.queue_setQueue_same]
    rfl
  simp only [exec, execXeTransmissionStart]
  rw [hcons]
  simp [ha, hT, hm, hs, Nat.not_lt.mpr hlt.le, hlt.ne, hhead, lateHead, hb]

end

/-! ### XE_COMMAND_COMPLETE -/

theorem enabledTrap_none (inve xwe : Bool) : enabledTrap inve xwe none none = none := by
  cases inve <;> cases xwe <;> rfl

/-- One more completed command, announced in f1 when its control word asks for it (R385). -/
def countDone (e : Entry) (x : Task) : Task :=
  let y := { x with eng := { x.eng with xcount := x.eng.xcount + 1 } }
  if ctlFifo e.cap.c then y.setFifo 1 (y.fifo 1
    ++ [w64 ((x.eng.xcount + 1).toNat + 2 ^ 32 * b2n e.err + 2 ^ 40 * collectiveOp e.cmd)]) else y

theorem TaskIs.endCollective {s u : State} {k : Nat} {x : Task} {e : Entry} (h : TaskIs s u k x) (hs : e.skip = false)
    (he : e.err = true → (linkOf e.cmd).si ≠ 0) (hf : ctlFifo e.cap.c = true → x.eng.fifo1.length < 64) :
    TaskIs s (endCollective u k e) k (doneTask 8 (linkOf e.cmd) e.err (countDone e x)) := by
  have hx : ∀ v : State, noteXeErr v k e = v := by
    intro v
    unfold noteXeErr
    rw [if_neg]
    simp only [Bool.and_eq_true, decide_eq_true_eq, not_and]
    exact fun h1 => absurd h1.2 (he h1.1)
  have h1 := h.modTask (fun y => { y with eng := { y.eng with xcount := x.eng.xcount + 1 } })
  unfold Machine.endCollective countDone
  simp only [h.task, hx, hs, Bool.not_false, Bool.and_true, Bool.or_false]
  cases hc : ctlFifo e.cap.c with
  | false => exact h1.finishHead 8 e e.err
  | true =>
    simp only [Bool.true_and, decide_eq_true_eq, Nat.not_le.mpr (hf hc), if_true, if_false]
    have h2 := (h1.modTask (fun x' => (x'.setFifo 1 (x'.eng.fifo1 ++ [w64 ((x.eng.xcount + 1).toNat + 2 ^ 32 * b2n e.err
      + 2 ^ 40 * collectiveOp e.cmd)])).wake)).finishHead 8 e e.err
    rw [doneTask_wake] at h2
    exact h2

/-- A command with nothing left to send and no signal of a remote semaphore is counted and signals (R377, R379, R385). -/
theorem execXeCommandComplete_ends {s : State} {e : Entry} (hT : s.hasTask s.sel.task = true)
    (hq : ((myTask s).queue 8).head? = some e) (hs : e.started = true) (hf : e.finished = true) (hp : e.pending = [])
    (hw : e.walkFault = none) (hk : e.skip = false) (hr : ctlRinc e.cap.c = 0) (hi : e.firstInvalid = none)
    (hx : e.firstXw = none) : exec .xeCommandComplete s = .next (endCollective s s.sel.task e) := by
  have hcons := queue_of_head hq
  have hrem : remoteSem s s.sel.task e = none := by
    unfold remoteSem
    rw [if_pos (by simp [hr])]
  unfold myTask at *
  simp only [exec, execXeCommandComplete]
  rw [hcons]
  simp only [hT, hs, hf, Bool.not_true, Bool.or_self, Bool.false_eq_true, if_false, if_true]
  rw [hcons]
  simp [hs, hf, hp, finishCollective, hw, hk, hi, hx, enabledTrap_none, hrem]

/-- Settles O37: each clause is its step's lemma, read as what it makes of the head. -/
theorem collectiveRuns : Obligations.CollectiveRuns := by
  unfold Obligations.CollectiveRuns
  refine ⟨fun e s hT hm hq => ⟨?step, ?slot, ?begins, ?held⟩, ?done⟩
  case step =>
    intro f hc hf hn hg
    have h := (((TaskIs.mine hT).onHead 8 tookHead).modTask (openWindow e.cap.a)).finishHead 8 e false
    rw [Task.modHead_of_head (by omega) hq] at h
    exact ⟨_, execXeCommandStart_xstep hT hm hq hc hf hn hg, HeadDone.of_taskIs ((TaskIs.mine hT).modTask _)
      (doneTask_setQueue_cons 8 _ _ (openWindow e.cap.a (myTask s)) (tookHead e) ▸ h)⟩
  case slot =>
    intro hf hn hg htr hw hl hb time
    have hstart := execXeCommandStart_transmits hT hm hq hf hn hg htr hw hb
    have htook := (TaskIs.mine hT).onHead 8 tookHead
    rw [Task.modHead_of_head (by omega) hq] at htook
    have hsame := Task.queue_setQueue_same (myTask s) 8 (tookHead e :: ((myTask s).queue 8).drop 1)
    refine ⟨fun ht => ⟨_, hstart, ?_⟩, fun ht hc => ⟨_, hstart, ?_⟩⟩
    · have h := htook.awaitSlot_onTime (e := e) ht
      rw [Task.modHead_cons (by omega) hsame, Task.setQueue_setQueue] at h
      have he : slotHead time (tookHead e) = { e with tookWt := true, slotTime := some time } := by
        simp [slotHead, tookHead, hf.wait]
      exact HeadNow.of_taskIs (TaskIs.mine hT) (he ▸ h)
    · have h := htook.makeLate hl hc
      rw [Task.modHead_cons (by omega) hsame, Task.setQueue_setQueue] at h
      rw [awaitSlot_late (by rw [htook.task, htook.clock]; exact ht)]
      exact HeadNow.of_taskIs ((TaskIs.mine hT).modTask countLate) h
  case begins =>
    intro ha hs hc
    have h := (TaskIs.mine hT).onHead 8 begunHead
    rw [Task.modHead_of_head (by omega) hq] at h
    exact ⟨_, execXeTransmissionStart_due hT hm hq ha hs hc, HeadNow.of_taskIs (TaskIs.mine hT) h⟩
  case held =>
    intro a ha hlt hs hl hc b hb
    have h := (TaskIs.mine hT).makeLate hl hc
    rw [Task.modHead_of_head (by omega) hq] at h
    exact ⟨_, execXeTransmissionStart_held hT hm hq ha hlt hs hl hc hb,
      HeadNow.of_taskIs ((TaskIs.mine hT).modTask countLate) h⟩
  case done =>
    intro e s hT hq hs hf hp hw hk hr hi hx he hfifo
    exact ⟨_, execXeCommandComplete_ends hT hq hs hf hp hw hk hr hi hx, HeadDone.of_taskIs
      ((TaskIs.mine hT).modTask (countDone e)) ((TaskIs.mine hT).endCollective hk he hfifo)⟩

end Sys2Proof.Machine
end

section
/-!
PROOFS. The matrix engines' steps: starts and claims (R300, R301, R320), tile steps (R43 to R46, R315), the actions of an
MGO (R307, R308) and completions (R313, R315).
-/
namespace Sys2Proof.Machine

/-! ### Slots and their uses (R300) -/

@[simp] theorem Task.setSlot_slot_same (x : Task) (n : Nat) (v : Slot) : (x.setSlot n v).slot n = v := by
  simp [Task.slot, Task.setSlot]

theorem Task.setSlot_slot_other (x : Task) {n m : Nat} (h : m ≠ n) (v : Slot) : (x.setSlot n v).slot m = x.slot m := by
  simp [Task.slot, Task.setSlot, SMap.find_put_other h]

@[simp] theorem Task.setBank_bank_same (x : Task) (n : Nat) (v : Bank) : (x.setBank n v).bank n = v := by
  simp [Task.bank, Task.setBank]

theorem Task.setBank_bank_other (x : Task) {n m : Nat} (h : m ≠ n) (v : Bank) : (x.setBank n v).bank m = x.bank m := by
  simp [Task.bank, Task.setBank, SMap.find_put_other h]

/-- A slot with one use more. -/
def usedSlot (x : Slot) (release : Bool) : Slot := { x with rc := x.rc + 1, state := if release then 3 else x.state }

theorem useSlot_eq (t : Task) (n : Nat) (release : Bool) : useSlot t n release = t.setSlot n (usedSlot (t.slot n) release) := rfl

/-- A slot with one use less; the last one of a DRAINING slot empties it. -/
def unusedSlot (x : Slot) : Slot :=
  if x.state = 3 ∧ x.rc - 1 = 0 then { x with rc := 0, state := 0, taint := false } else { x with rc := x.rc - 1 }

theorem endUse_eq (t : Task) (n : Nat) : endUse t n = t.setSlot n (unusedSlot (t.slot n)) := by
  unfold endUse unusedSlot
  simp only
  split <;> rfl

/-- A use of a READY sound slot that begins and ends within a tile step. -/
theorem unusedSlot_usedSlot {x : Slot} (hs : x.state = 2) (ht : x.taint = false) (release : Bool) :
    unusedSlot (usedSlot x release) = slotAfter x release := by
  unfold unusedSlot usedSlot slotAfter
  cases release
  · cases x; simp_all
  · by_cases hr : x.rc = 0 <;> simp [hr, ht]

/-- The uses of a step without Q8: one of each slot, and one with either release where both sides name one slot. -/
theorem usesOf_pair (a b : Nat) (ra rb : Bool) :
    usesOf false a b ra rb = if a = b then [(a, ra || rb)] else [(a, ra), (b, rb)] := by
  unfold usesOf slotsOf addUse
  by_cases h : a = b
  · subst h; simp
  · simp [h, Ne.symm h]

/-- What a task keeps when slots of it change. -/
structure SlotsOnly (x y : Task) : Prop where
  task : y = { x with eng := { x.eng with slots := y.eng.slots } }

theorem SlotsOnly.refl (x : Task) : SlotsOnly x x := ⟨rfl⟩

theorem SlotsOnly.setSlot {x y : Task} (h : SlotsOnly x y) (n : Nat) (v : Slot) : SlotsOnly x (y.setSlot n v) := by
  constructor
  have hy := h.task
  unfold Task.setSlot
  rw [hy]

theorem SlotsOnly.bank {x y : Task} (h : SlotsOnly x y) (n : Nat) : y.bank n = x.bank n := by rw [h.task]; rfl

theorem SlotsOnly.queue {x y : Task} (h : SlotsOnly x y) (q : Nat) : y.queue q = x.queue q := by rw [h.task]; rfl

theorem SlotsOnly.sem {x y : Task} (h : SlotsOnly x y) (n : Nat) : y.sem n = x.sem n := by rw [h.task]; rfl

theorem SlotsOnly.spad {x y : Task} (h : SlotsOnly x y) : y.spad = x.spad := by rw [h.task]

theorem SlotsOnly.heritage {x y : Task} (h : SlotsOnly x y) : y.heritage = x.heritage := by rw [h.task]

/-- The uses of a command begun. -/
def withUses (uses : List (Nat × Bool)) (x : Task) : Task := uses.foldl (fun x u => useSlot x u.1 u.2) x

/-- The uses of a command ended. -/
def withoutUses (uses : List (Nat × Bool)) (x : Task) : Task := uses.foldl (fun x u => endUse x u.1) x

theorem withUses_slotsOnly (uses : List (Nat × Bool)) (x : Task) : SlotsOnly x (withUses uses x) :=
  List.foldlRecOn (motive := SlotsOnly x) uses _ (SlotsOnly.refl x) (fun _ h u _ => h.setSlot u.1 _)

theorem withoutUses_slotsOnly (uses : List (Nat × Bool)) (x : Task) : SlotsOnly x (withoutUses uses x) :=
  List.foldlRecOn (motive := SlotsOnly x) uses _ (SlotsOnly.refl x)
    (fun y h u _ => by rw [endUse_eq]; exact h.setSlot u.1 _)

/-- A use that begins changes no data of a slot. -/
theorem withUses_data (uses : List (Nat × Bool)) (x : Task) (n : Nat) :
    ((withUses uses x).slot n).bytes = (x.slot n).bytes ∧ ((withUses uses x).slot n).taint = (x.slot n).taint := by
  refine List.foldlRecOn (motive := fun y : Task => (y.slot n).bytes = (x.slot n).bytes ∧ (y.slot n).taint = (x.slot n).taint)
    uses _ ⟨rfl, rfl⟩ (fun y h u _ => ?_)
  rw [useSlot_eq]
  by_cases hn : n = u.1
  · subst hn
    rw [Task.setSlot_slot_same]
    exact h
  · rw [Task.setSlot_slot_other y hn]
    exact h

end Sys2Proof.Machine
end

section
/-!
PROOFS. One tile step: the bank or pair it adds to, and what else of the task it changes (R43 to R46, R313, R315).
-/
namespace Sys2Proof.Machine

/-! ### Flags of a tile step (R313) -/

/-- What a task keeps when flags are noted for the head of a queue. -/
structure Noted (q : Nat) (x y : Task) : Prop where
  bank : ∀ n, y.bank n = x.bank n
  slot : ∀ n, y.slot n = x.slot n
  spad : y.spad = x.spad
  heritage : y.heritage = x.heritage
  head : ∀ e r, x.queue q = e :: r → ∃ fl i w, y.queue q = { e with flags := fl, firstInvalid := i, firstXw := w } :: r

theorem Noted.refl (q : Nat) (x : Task) : Noted q x x := ⟨fun _ => rfl, fun _ => rfl, rfl, rfl, fun e _ h => ⟨e.flags, _, _, h⟩⟩

theorem raiseFlags_noted (q : Nat) (x : Task) (k bank fl : Nat) : Noted q x (raiseFlags x k (bankFlags bank) fl) := by
  unfold raiseFlags bankFlags
  split <;> exact ⟨fun _ => rfl, fun _ => rfl, rfl, rfl, fun e _ h => ⟨e.flags, e.firstInvalid, e.firstXw, h⟩⟩

/-- Flags noted at the head, after others of the task. -/
theorem Noted.modHead {q : Nat} {x y : Task} (hq : q < 16) (h : Noted q x y) {f : Entry → Entry}
    (hf : ∀ e, ∃ fl i w, f e = { e with flags := fl, firstInvalid := i, firstXw := w }) : Noted q x (y.modHead q f) := by
  cases hy : y.queue q with
  | nil => rw [Task.modHead_nil hq hy]; exact h
  | cons e r =>
    rw [Task.modHead_cons hq hy]
    refine ⟨h.bank, h.slot, h.spad, h.heritage, fun e0 r0 h0 => ?_⟩
    obtain ⟨fl0, i0, w0, h1⟩ := h.head e0 r0 h0
    rw [hy] at h1
    obtain ⟨rfl, rfl⟩ := List.cons.inj h1
    obtain ⟨fl, i, w, h2⟩ := hf { e0 with flags := fl0, firstInvalid := i0, firstXw := w0 }
    exact ⟨fl, i, w, by rw [Task.queue_setQueue_same, h2]⟩

theorem TaskIs.noteFlags {s u : State} {k q : Nat} {x : Task} (hq : q < 16) (h : TaskIs s u k x) (strand bank : Nat)
    (l : List (Nat × Nat)) : ∃ y, TaskIs s (noteFlags u k q strand bank l) k y ∧ Noted q x y := by
  unfold Machine.noteFlags
  simp only
  split
  · exact ⟨x, h, Noted.refl q x⟩
  · exact ⟨_, (h.modTask _).onHead q _, (raiseFlags_noted q x strand bank _).modHead hq (fun _ => ⟨_, _, _, rfl⟩)⟩

/-! ### The step -/

theorem tiled_slotsEtc (x : Task) (e : Entry) (mf : Nat) (xw : Bool) (bank a b : Nat) :
    (∀ n, (tiled x e mf xw bank a b).slot n = x.slot n) ∧ (tiled x e mf xw bank a b).spad = x.spad
      ∧ (tiled x e mf xw bank a b).heritage = x.heritage
      ∧ ∀ q, (tiled x e mf xw bank a b).queue q = x.queue q := by
  unfold tiled setPair
  split <;> exact ⟨fun _ => rfl, rfl, rfl, fun _ => rfl⟩

theorem tilePair_congr {x y : Task} (h : ∀ n, x.bank n = y.bank n) (mf bank : Nat) (anch : Int) (a b : SMap Byte) (sc : Scales) :
    tilePair mf x bank anch a b sc = tilePair mf y bank anch a b sc := by
  have hp : pairElem x bank = pairElem y bank := by
    funext k
    unfold pairElem
    rw [h, h]
  unfold tilePair
  rw [hp]

theorem setPair_bank_congr {x y : Task} (h : ∀ n, x.bank n = y.bank n) (bank : Nat) (vs : List (Nat × Int)) (taint : Bool)
    (n : Nat) : (setPair x bank vs taint).bank n = (setPair y bank vs taint).bank n := by
  unfold setPair
  by_cases h1 : n = bank / 2 * 2 + 1
  · rw [h1, Task.setBank_bank_same, Task.setBank_bank_same]
  · rw [Task.setBank_bank_other _ h1, Task.setBank_bank_other _ h1]
    by_cases h0 : n = bank / 2 * 2
    · rw [h0, Task.setBank_bank_same, Task.setBank_bank_same]
    · rw [Task.setBank_bank_other _ h0, Task.setBank_bank_other _ h0, h]

/-- What a tile step makes of the banks depends on the banks and on the data of the two slots alone. -/
theorem tiled_bank_congr {x y : Task} (h : ∀ n, x.bank n = y.bank n) {a b : Nat} (ha : (x.slot a).bytes = (y.slot a).bytes)
    (hb : (x.slot b).bytes = (y.slot b).bytes) (e : Entry) (mf : Nat) (xw : Bool) (bank n : Nat) :
    (tiled x e mf xw bank a b).bank n = (tiled y e mf xw bank a b).bank n := by
  unfold tiled
  rw [ha, hb]
  cases xw with
  | true => rw [if_pos rfl, if_pos rfl, tilePair_congr h]; exact setPair_bank_congr h _ _ _ _
  | false =>
    rw [if_neg Bool.false_ne_true, if_neg Bool.false_ne_true, h]
    by_cases hn : n = bank
    · rw [hn, Task.setBank_bank_same, Task.setBank_bank_same]
    · rw [Task.setBank_bank_other _ hn, Task.setBank_bank_other _ hn, h]

theorem noteErr_false (s : State) (t q : Nat) : noteErr s t q false = s := rfl

/-- No data that a tile step reads are lost (R315). -/
structure TileUntainted (x : Task) (xw : Bool) (bank a b : Nat) : Prop where
  left : (x.slot a).taint = false
  right : (x.slot b).taint = false
  banks : ∀ n ∈ bankSet bank xw, (x.bank n).taint = false

/-- A tile step on sound data: slot a × slot b is added, flags are noted, nothing else of the task changes. -/
theorem TaskIs.runTile {s u : State} {k q : Nat} {x : Task} (hq : q < 16) (h : TaskIs s u k x) {xw : Bool} {bank a b : Nat}
    (hs : TileUntainted x xw bank a b) (e : Entry) (mf : Nat) :
    ∃ y, TaskIs s (runTile u k q e mf xw bank a b {}) k y ∧ Noted q (tiled x e mf xw bank a b) y := by
  have htaint : ((bankSet bank xw).any (fun n => (x.bank n).taint) || (x.slot a).taint || (x.slot b).taint
      || ({} : Scales).lost) = false := by
    have hb : (bankSet bank xw).any (fun n => (x.bank n).taint) = false := by
      rw [List.any_eq_false]
      intro n hn
      rw [hs.banks n hn]
      exact Bool.false_ne_true
    rw [hb, hs.left, hs.right]
    rfl
  unfold Machine.runTile
  rw [h.task]
  simp only [htaint, noteErr_false]
  cases xw with
  | true => exact (h.modTask _).noteFlags hq _ _ _
  | false => exact (h.modTask _).noteFlags hq _ _ _

/-- The uses of a command begun do not change what its tile step reads. -/
theorem TileUntainted.withUses {x : Task} {xw : Bool} {bank a b : Nat} (h : TileUntainted x xw bank a b)
    (uses : List (Nat × Bool)) : TileUntainted (withUses uses x) xw bank a b where
  left := (withUses_data uses x a).2.trans h.left
  right := (withUses_data uses x b).2.trans h.right
  banks n hn := by rw [(withUses_slotsOnly uses x).bank]; exact h.banks n hn

theorem TileUntainted.setQueue {x : Task} {xw : Bool} {bank a b : Nat} (h : TileUntainted x xw bank a b) (q : Nat)
    (l : List Entry) : TileUntainted (x.setQueue q l) xw bank a b := ⟨h.left, h.right, h.banks⟩

theorem TileSound.untainted {x : Task} {xw : Bool} {bank a b : Nat} (h : TileSound x xw bank a b) :
    TileUntainted x xw bank a b := by
  obtain ⟨-, -, ha, hb, hbanks⟩ := h
  exact ⟨ha, hb, hbanks⟩

theorem TileSound.ready {x : Task} {xw : Bool} {bank a b : Nat} (h : TileSound x xw bank a b) :
    notReadySlot x (slotsOf false a b) = none := by
  obtain ⟨ha, hb, -, -, -⟩ := h
  simp [notReadySlot, slotsOf, ha, hb]

/-- Unblocked formats have no scales to read (R299). -/
theorem tileScales_unblocked {mf : Nat} (h : mfBlock mf = false) (s : State) (t q : Nat) (e : Entry) (pa pb : Word) :
    tileScales s t q e mf false pa pb = .ok (s, [{}]) := by
  simp [tileScales, pairScales, h]

/-- The task after a tile step within its uses: the banks as `tiled` has them, the slots in use, and the head as it was but
for its flags. -/
structure TileDone (q : Nat) (x y : Task) (e : Entry) (uses : List (Nat × Bool)) (mf : Nat) (xw : Bool) (bank a b : Nat) :
    Prop where
  bank : ∀ n, y.bank n = (tiled x e mf xw bank a b).bank n
  slot : ∀ n, y.slot n = (withUses uses x).slot n
  spad : y.spad = x.spad
  heritage : y.heritage = x.heritage
  head : ∀ e0 r, x.queue q = e0 :: r → ∃ fl i w, y.queue q = { e0 with flags := fl, firstInvalid := i, firstXw := w } :: r

theorem TaskIs.tileWithUses {s u : State} {k q : Nat} {x : Task} (hq : q < 16) (h : TaskIs s u k x) {xw : Bool}
    {bank a b : Nat} (hs : TileUntainted x xw bank a b) (e : Entry) (mf : Nat) (uses : List (Nat × Bool)) :
    ∃ y, TaskIs s (runTiles (startUses u k uses) k q e mf xw bank a b [{}]) k y ∧ TileDone q x y e uses mf xw bank a b := by
  obtain ⟨y, hy, hn⟩ := (show TaskIs s (startUses u k uses) k (withUses uses x) from h.modTask _).runTile hq
    (hs.withUses uses) e mf
  have hu := withUses_slotsOnly uses x
  obtain ⟨tslot, tspad, theritage, tqueue⟩ := tiled_slotsEtc (withUses uses x) e mf xw bank a b
  refine ⟨y, hy, fun n => ?_, fun n => (hn.slot n).trans (tslot n), (hn.spad.trans tspad).trans hu.spad,
    (hn.heritage.trans theritage).trans hu.heritage, fun e0 r h0 => hn.head e0 r ?_⟩
  · rw [hn.bank, tiled_bank_congr hu.bank (withUses_data uses x a).1 (withUses_data uses x b).1]
  · rw [tqueue, hu.queue, h0]

end Sys2Proof.Machine
end

section
/-!
PROOFS. Matrix commands start (R17, R18, R300, R301, R315, R320).
-/
namespace Sys2Proof.Machine

/-! ### MATRIX_COMMAND_START -/

section
variable {s : State} {q : Nat} {e : Entry} (hH : Head s q e) (hq : q = 1 ∨ q = 2) (hf : Fresh e)
  (ho : matrixOrder (myTask s) e = none)
include hH hq hf ho

theorem execMatrixCommandStart_waits {u : State} (h : takeWt s s.sel.task q e = (u, .wait)) :
    exec .matrixCommandStart s = .next u := by
  obtain ⟨hT, hm, hhead, hqueue⟩ := hH
  have hcons := queue_of_head hhead
  unfold myTask at *
  simp only [exec, execMatrixCommandStart, hqueue]
  rw [hcons]
  dsimp only
  rw [if_neg (by rcases hq with rfl | rfl <;> simp [hT, hm, hf.started]), if_neg (by simp [hf.finished])]
  simp only [ho, h]

theorem execMatrixCommandStart_skips {u : State} (h : takeWt s s.sel.task q e = (u, .skip)) :
    exec .matrixCommandStart s = .next (finishHead u s.sel.task q e true) := by
  obtain ⟨hT, hm, hhead, hqueue⟩ := hH
  have hcons := queue_of_head hhead
  unfold myTask at *
  simp only [exec, execMatrixCommandStart, hqueue]
  rw [hcons]
  dsimp only
  rw [if_neg (by rcases hq with rfl | rfl <;> simp [hT, hm, hf.started]), if_neg (by simp [hf.finished])]
  simp only [ho, h]

/-- The head goes on to its command (R320, steps 9 and 10). -/
theorem execMatrixCommandStart_runs (hg : Goes s e) (hw : mgoSlotsWait (myTask s) e = none) :
    exec .matrixCommandStart s = .next (runMatrix (onHead s s.sel.task q tookHead) s.sel.task q (tookHead e)) := by
  obtain ⟨hT, hm, hhead, hqueue⟩ := hH
  have hcons := queue_of_head hhead
  have hrel := hg.released
  unfold myTask at *
  simp only [exec, execMatrixCommandStart, hqueue]
  rw [hcons]
  dsimp only
  rw [if_neg (by rcases hq with rfl | rfl <;> simp [hT, hm, hf.started]), if_neg (by simp [hf.finished])]
  simp only [ho, takeWt_taken hg.taken, hw, hrel, if_true]
  rfl

end

/-- The task once WT of its head is taken or none. -/
theorem Head.took {s : State} {q : Nat} {e : Entry} (hH : Head s q e) (hq : q < 16) :
    TaskIs s (onHead s s.sel.task q tookHead) s.sel.task
      ((myTask s).setQueue q (tookHead e :: ((myTask s).queue q).drop 1)) := by
  have h := (TaskIs.mine hH.task).onHead q tookHead
  rwa [Task.modHead_of_head hq hH.head] at h

/-! ### Commands (R300, R301, R320) -/

/-- A slot claimed by MCLAIM (R300). -/
def claimedSlot (x : Slot) : Slot := { x with state := 1, fb := false }

/-- A slot released by MREL while READY (R300). -/
def releasedSlot (x : Slot) : Slot := if x.rc = 0 then { x with state := 0, taint := false } else { x with state := 3 }

theorem releaseSlot_ready {x : Slot} (h : x.state = 2) : releaseSlot x = some (releasedSlot x) := by
  unfold releaseSlot releasedSlot
  simp only [h]
  split <;> rfl

/-- A command with no error, or with a signal to carry E, leaves MESTAT alone (R315). -/
theorem noteMestat_silent {e : Entry} (h : e.err = true → (linkOf e.cmd).si ≠ 0) (s : State) (t : Nat) :
    noteMestat s t e = s := by
  unfold noteMestat
  rw [if_neg]
  simp only [Bool.and_eq_true, decide_eq_true_eq, not_and]
  exact h

section
variable {s : State} {t q : Nat} {e : Entry} {f : EC}

theorem runMatrix_mclaim_waits (hc : e.cmd = .mclaim f) (h : mayClaim (s.task t) q e (f.a.toNat % 32) = false) :
    runMatrix s t q e = headWait s t q { kind := 5, object := f.a.toNat % 32 } := by
  unfold runMatrix
  simp only [hc]
  rw [h]
  rfl

theorem runMatrix_mclaim_sound (hc : e.cmd = .mclaim f) (he : e.err = false)
    (h : mayClaim (s.task t) q e (f.a.toNat % 32) = true) (ht : ((s.task t).slot (f.a.toNat % 32)).taint = false) :
    runMatrix s t q e = finishHead (s.modTask t (fun x => x.setSlot (f.a.toNat % 32) (claimedSlot (x.slot (f.a.toNat % 32)))))
      t q e false := by
  have hm := fun v : State => noteMestat_silent (e := { e with err := false }) (fun h => absurd h Bool.false_ne_true) v t
  unfold runMatrix
  simp only [hc]
  rw [h, ht, he]
  exact congrArg (fun v => finishHead v t q e false) (hm _)

/-- A claim of a slot that has lost data signals E (R315). -/
theorem runMatrix_mclaim_tainted (hc : e.cmd = .mclaim f) (he : e.err = false) (hs : (linkOf e.cmd).si ≠ 0)
    (h : mayClaim (s.task t) q e (f.a.toNat % 32) = true) (ht : ((s.task t).slot (f.a.toNat % 32)).taint = true) :
    runMatrix s t q e = finishHead (absorbError (onHead (s.modTask t (fun x => x.setSlot (f.a.toNat % 32)
      (claimedSlot (x.slot (f.a.toNat % 32))))) t q (fun e => { e with err := true })) t) t q e true := by
  have hm := fun v : State => noteMestat_silent (e := { e with cmd := .mclaim f, err := true }) (fun _ => hc ▸ hs) v t
  unfold runMatrix
  simp only [hc]
  rw [h, ht, he]
  exact congrArg (fun v => finishHead v t q e true) (hm _)

theorem runMatrix_mrel (hc : e.cmd = .mrel f) (he : e.err = false) (h : ((s.task t).slot (f.a.toNat % 32)).state = 2)
    (hs : ((s.task t).slot (f.a.toNat % 32)).taint = true → ((s.task t).slot (f.a.toNat % 32)).rc ≠ 0 →
      (linkOf e.cmd).si ≠ 0) :
    runMatrix s t q e = finishHead (s.modTask t (fun x => x.setSlot (f.a.toNat % 32) (releasedSlot (x.slot (f.a.toNat % 32)))))
      t q e (decide (((s.task t).slot (f.a.toNat % 32)).rc ≠ 0) && ((s.task t).slot (f.a.toNat % 32)).taint) := by
  have herr : (e.err || ((releasedSlot ((s.task t).slot (f.a.toNat % 32))).state == 3
      && (releasedSlot ((s.task t).slot (f.a.toNat % 32))).taint))
      = (decide (((s.task t).slot (f.a.toNat % 32)).rc ≠ 0) && ((s.task t).slot (f.a.toNat % 32)).taint) := by
    rw [he]
    unfold releasedSlot
    by_cases hr : ((s.task t).slot (f.a.toNat % 32)).rc = 0 <;> simp [hr]
  have hm := fun v : State => noteMestat_silent
    (e := { e with cmd := .mrel f, err :=
      (decide (((s.task t).slot (f.a.toNat % 32)).rc ≠ 0) && ((s.task t).slot (f.a.toNat % 32)).taint) })
    (fun hx => by
      obtain ⟨hr, ht⟩ := Bool.and_eq_true_iff.mp hx
      exact hc ▸ hs ht (of_decide_eq_true hr)) v t
  unfold runMatrix
  simp only [hc, releaseSlot_ready h, herr]
  exact congrArg (fun v => finishHead v t q e _) ((hm _).trans (modTask_congr rfl))

theorem runMatrix_mzero (hc : e.cmd = .mzero f) :
    runMatrix s t q e = startedDone (s.modTask t (fun x => x.setBank (f.c.toNat % 4) {})) t q [] := by
  simp only [runMatrix, hc]

/-- A tile step on READY slots, of formats without scales, runs at once (R320, step 10). -/
theorem runMatrix_mtile {fn : BitVec 6} (hc : e.cmd = .mtile fn f) (hb : mfBlock (matMf fn.toNat e.cap.ft) = false)
    (h8 : fn.getLsbD 5 = false) (hr : notReadySlot (s.task t) (slotsOf false (f.a.toNat % 32) (f.b.toNat % 32)) = none) :
    let uses := usesOf false (f.a.toNat % 32) (f.b.toNat % 32) (f.c.getLsbD 2) (f.c.getLsbD 3)
    runMatrix s t q e = startedDone (runTiles (startUses s t uses) t q e (matMf fn.toNat e.cap.ft) (matXw fn.toNat e.cap.ft)
      (f.c.toNat % 4) (f.a.toNat % 32) (f.b.toNat % 32) [{}]) t q uses := by
  simp only [runMatrix, hc, startMtile, h8, hr, hb, Bool.false_eq_true, if_false, tileScales_unblocked hb]

end

/-! ### The obligation -/

/-- A task with one slot changed. -/
def onSlot (n : Nat) (g : Slot → Slot) (x : Task) : Task := x.setSlot n (g (x.slot n))

/-- A head that completes at its start with a change of a slot. -/
theorem Head.slotDone {s : State} {q : Nat} {e : Entry} (hH : Head s q e) (hq : q < 16) (n : Nat) (g : Slot → Slot)
    (err : Bool) : HeadDone (withTask s (onSlot n g))
      (finishHead ((onHead s s.sel.task q tookHead).modTask s.sel.task (onSlot n g)) s.sel.task q (tookHead e) err) q e err := by
  have h := ((hH.took hq).modTask (onSlot n g)).finishHead q (tookHead e) err
  exact HeadDone.of_taskIs ((TaskIs.mine hH.task).modTask (onSlot n g))
    (doneTask_setQueue_cons q _ err (onSlot n g (myTask s)) (tookHead e) ▸ h)

/-- A head that has done its work at its start. -/
def startedHead (uses : List (Nat × Bool)) (e : Entry) : Entry :=
  { e with started := true, wait := none, walkFault := none, finished := true, uses := uses }

theorem startedDone_eq (s : State) (t q : Nat) (uses : List (Nat × Bool)) :
    startedDone s t q uses = onHead s t q (startedHead uses) := rfl

/-- A tile step does not depend on the queues, nor on whether the head took WT. -/
theorem tiled_bank_took (x : Task) (q : Nat) (l : List Entry) (e : Entry) (mf : Nat) (xw : Bool) (bank a b n : Nat) :
    (tiled (x.setQueue q l) (tookHead e) mf xw bank a b).bank n = (tiled x e mf xw bank a b).bank n :=
  (tiled_bank_congr (x := x.setQueue q l) (y := x) (fun _ => rfl) (a := a) (b := b) rfl rfl (tookHead e) mf xw bank n).trans
    (by unfold tiled matAnchor tookHead; rfl)

theorem mgoSlotsWait_none {x : Task} {e : Entry} (h : ∀ fn f, e.cmd ≠ .mgo fn f) : mgoSlotsWait x e = none := by
  unfold mgoSlotsWait
  split
  · rename_i hc
    exact absurd hc (h _ _)
  · rfl

/-- Settles O33, command by command over the one start rule of R320: WT and its turn, then steps 9 and 10. -/
theorem matrixStarts : Obligations.MatrixStarts := by
  unfold Obligations.MatrixStarts
  intro q e s hH hq hf ho
  have hq16 : q < 16 := by omega
  have hT := hH.task
  have htook := hH.took hq16
  have hx := htook.task
  have hsame := Task.queue_setQueue_same (myTask s) q (tookHead e :: ((myTask s).queue q).drop 1)
  have hclaim := mayClaim_head (queue_of_head hH.head) (e' := tookHead e) rfl rfl
  refine ⟨fun ht hw hx => ?waits, fun ht hw hc htn hE => ?skips, fun hg => ?runs⟩
  case waits =>
    have h := (TaskIs.mine hT).headWait q { kind := 2, object := (linkOf e.cmd).ws, amount := (linkOf e.cmd).wt }
    rw [Task.modHead_of_head hq16 hH.head, waitingHead_first hf.wait] at h
    exact ⟨_, execMatrixCommandStart_waits hH hq hf ho (takeWt_waits ht hw hx), HeadNow.of_taskIs (TaskIs.mine hT) h⟩
  case skips =>
    have hsem := (TaskIs.mine hT).modTask
      (fun x => x.setSem (linkOf e.cmd).ws (lessWt (linkOf e.cmd).wt (x.sem (linkOf e.cmd).ws)))
    have h := (hsem.onHead q skippedAtWt).finishHead q e true
    rw [doneTask_modHead hq16] at h
    exact ⟨_, execMatrixCommandStart_skips hH hq hf ho (takeWt_skips ht hw hc htn hE), HeadDone.of_taskIs hsem h⟩
  case runs =>
    have hstart := fun h => execMatrixCommandStart_runs hH hq hf ho hg (mgoSlotsWait_none h)
    refine ⟨fun f hcmd => ⟨fun hcl hnt => ?claims, fun hcl htn hsi => ?tainted, fun hcl => ?full⟩,
      fun f hcmd hst hsi => ?releases, fun f hcmd => ?zero, fun fn f hcmd hb h8 hs => ?tile⟩
    case claims =>
      rw [hstart (by simp [hcmd]), runMatrix_mclaim_sound (e := tookHead e) hcmd hf.err (by rw [hx]; exact (hclaim _).trans hcl)
        (by rw [hx]; exact hnt)]
      exact ⟨_, rfl, hH.slotDone hq16 _ claimedSlot false⟩
    case tainted =>
      rw [hstart (by simp [hcmd]), runMatrix_mclaim_tainted (e := tookHead e) hcmd hf.err hsi
        (by rw [hx]; exact (hclaim _).trans hcl) (by rw [hx]; exact htn)]
      have hmine := (TaskIs.mine hT).modTask (onSlot (f.a.toNat % 32) claimedSlot)
      have herr := ((htook.modTask (onSlot (f.a.toNat % 32) claimedSlot)).onHead q
        (fun e => { e with err := true })).absorbError (Task.modHead_launch hq16 _)
      have h := herr.finishHead q (tookHead e) true
      rw [doneTask_modHead hq16] at h
      exact ⟨_, rfl, HeadDone.of_taskIs (hmine.absorbError rfl) (doneTask_setQueue_cons q _ true
        (onSlot (f.a.toNat % 32) claimedSlot (myTask s)) (tookHead e) ▸ h)⟩
    case full =>
      rw [hstart (by simp [hcmd]), runMatrix_mclaim_waits (e := tookHead e) hcmd (by rw [hx]; exact (hclaim _).trans hcl)]
      have h := htook.headWait q { kind := 5, object := f.a.toNat % 32 }
      rw [Task.modHead_cons hq16 hsame, Task.setQueue_setQueue, waitingHead_first (show (tookHead e).wait = none from hf.wait)]
        at h
      exact ⟨_, rfl, HeadNow.of_taskIs (TaskIs.mine hT) h⟩
    case releases =>
      rw [hstart (by simp [hcmd]), runMatrix_mrel (e := tookHead e) hcmd hf.err (by rw [hx]; exact hst)
        (by rw [hx]; exact hsi), hx]
      exact ⟨_, rfl, hH.slotDone hq16 _ releasedSlot _⟩
    case zero =>
      rw [hstart (by simp [hcmd]), runMatrix_mzero (e := tookHead e) hcmd, startedDone_eq]
      have hbank : TaskIs s _ _ (((myTask s).setBank (f.c.toNat % 4) {}).setQueue q
          (tookHead e :: ((myTask s).queue q).drop 1)) :=
        htook.modTask (fun x => x.setBank (f.c.toNat % 4) {})
      have h := hbank.onHead q (startedHead [])
      rw [Task.modHead_cons hq16 (Task.queue_setQueue_same _ _ _), Task.setQueue_setQueue] at h
      have he : startedHead [] (tookHead e) =
          { e with tookWt := true, started := true, finished := true, walkFault := none } := by
        simp [startedHead, tookHead, hf.wait, hf.uses]
      rw [he] at h
      exact ⟨_, rfl, HeadNow.of_taskIs ((TaskIs.mine hT).modTask (fun x => x.setBank (f.c.toNat % 4) {})) h⟩
    case tile =>
      obtain ⟨y, hy, hd⟩ := htook.tileWithUses hq16 (hs.untainted.setQueue q _) (tookHead e)
        (matMf fn.toNat e.cap.ft) (usesOf false (f.a.toNat % 32) (f.b.toNat % 32) (f.c.getLsbD 2) (f.c.getLsbD 3))
      obtain ⟨fl, i, w, hhead⟩ := hd.head _ _ hsame
      have h := hy.onHead q (startedHead (usesOf false (f.a.toNat % 32) (f.b.toNat % 32) (f.c.getLsbD 2) (f.c.getLsbD 3)))
      rw [Task.modHead_cons hq16 hhead] at h
      rw [hstart (by simp [hcmd]), runMatrix_mtile (e := tookHead e) hcmd hb h8 (by rw [hx]; exact hs.ready), startedDone_eq]
      refine ⟨_, rfl, h.outside, h.memoryKept hd.spad hd.heritage, fun n => ?_, _, _,
        (congrArg (fun x => x.queue q) h.myTask).trans (Task.queue_setQueue_same _ _ _), rfl, rfl, rfl⟩
      exact (congrArg (fun x => x.bank n) h.myTask).trans ((hd.bank n).trans (tiled_bank_took _ _ _ _ _ _ _ _ _ n))

end Sys2Proof.Machine
end

section
/-!
PROOFS. Tile-step actions of an MGO (R307, R308), and completions of matrix commands (R313, R315, R320).
-/
namespace Sys2Proof.Machine

/-! ### Uses that begin and end (R300) -/

/-- The slots a list of uses names, each changed for its use. -/
def onSlots (g : Bool → Slot → Slot) (uses : List (Nat × Bool)) (x : Task) : Task :=
  uses.foldl (fun x u => onSlot u.1 (g u.2) x) x

theorem withUses_eq (uses : List (Nat × Bool)) (x : Task) : withUses uses x = onSlots (fun r v => usedSlot v r) uses x := rfl

theorem withoutUses_eq (uses : List (Nat × Bool)) (x : Task) : withoutUses uses x = onSlots (fun _ => unusedSlot) uses x := by
  unfold withoutUses onSlots
  congr
  funext y u
  exact endUse_eq y u.1

theorem onSlots_other {g : Bool → Slot → Slot} {uses : List (Nat × Bool)} {n : Nat} (h : n ∉ uses.map Prod.fst) (x : Task) :
    (onSlots g uses x).slot n = x.slot n := by
  induction uses generalizing x with
  | nil => rfl
  | cons u l ih =>
    rw [List.map_cons, List.mem_cons, not_or] at h
    exact (ih h.2 _).trans (Task.setSlot_slot_other x h.1 _)

/-- Each of several uses of different slots changes its own slot. -/
theorem onSlots_mem {g : Bool → Slot → Slot} {uses : List (Nat × Bool)} (hd : (uses.map Prod.fst).Nodup) {n : Nat} {r : Bool}
    (h : (n, r) ∈ uses) (x : Task) : (onSlots g uses x).slot n = g r (x.slot n) := by
  induction uses generalizing x with
  | nil => cases h
  | cons u l ih =>
    rw [List.map_cons, List.nodup_cons] at hd
    rcases List.mem_cons.mp h with rfl | hl
    · exact (onSlots_other hd.1 _).trans (Task.setSlot_slot_same x n _)
    · have hn : n ≠ u.1 := fun hu => hd.1 (hu ▸ List.mem_map_of_mem hl)
      exact (ih hd.2 hl _).trans (congrArg (g r) (Task.setSlot_slot_other x hn _))

theorem usesOf_nodup (a b : Nat) (ra rb : Bool) : ((usesOf false a b ra rb).map Prod.fst).Nodup := by
  rw [usesOf_pair]
  split
  · simp
  · rename_i h
    simp [h]

theorem usesOf_names {a b n : Nat} {ra rb : Bool} (h : n ∈ (usesOf false a b ra rb).map Prod.fst) : n = a ∨ n = b := by
  rw [usesOf_pair] at h
  split at h
  · exact .inl (by simpa using h)
  · simpa using h

/-! ### MGO_ACTION -/

/-- A head with one more action of its nest done (R307). -/
def countedHead (tab : SMap (BitVec 32)) (e : Entry) : Entry :=
  { e with progress := e.progress + 1, wait := none, walkFault := none,
           finished := decide (mgoActions tab ≤ e.progress + 1) }

section
variable {s : State} {q i : Nat} {e : Entry} {fn : BitVec 6} {f : EC}

theorem execMgoAction_tile (hH : Head s q e) (hq : q = 1 ∨ q = 2) (hst : e.started = true) (hfin : e.finished = false)
    (hc : e.cmd = .mgo fn f) (ha : mgoAction e.cap.table e.progress = .tile i) :
    exec .mgoAction s = .next (mgoTile s s.sel.task q e fn f i) := by
  obtain ⟨hT, hm, hhead, hqueue⟩ := hH
  have hcons := queue_of_head hhead
  unfold myTask at *
  simp only [exec, execMgoAction, hqueue]
  rw [hcons]
  dsimp only
  rw [if_neg (by rcases hq with rfl | rfl <;> simp [hT, hm, hst, hfin])]
  simp only [hc, ha]

/-- A tile-step action on READY slots, of formats without scales: the step within its uses, then the count. -/
theorem mgoTile_runs {t : Nat} (hb : mfBlock (matMf fn.toNat e.cap.ft) = false) (h8 : fn.getLsbD 5 = false)
    (hr : notReadySlot (s.task t) (slotsOf false (mgoSlots e.cap.table i).1 (mgoSlots e.cap.table i).2) = none) :
    let a := (mgoSlots e.cap.table i).1
    let b := (mgoSlots e.cap.table i).2
    let uses := usesOf false a b (mgoReleases e.cap.table i).1 (mgoReleases e.cap.table i).2
    mgoTile s t q e fn f i = onHead (endUses (runTiles (startUses s t uses) t q e (matMf fn.toNat e.cap.ft)
      (matXw fn.toNat e.cap.ft) (mgoStepBank e fn f i) a b [{}]) t uses) t q (countedHead e.cap.table) := by
  unfold mgoTile
  simp only [h8, hr, tileScales_unblocked hb]
  rfl

end

/-! ### MATRIX_COMMAND_COMPLETE -/

/-- Banks of a command on a slot that has lost data since its start (R315). -/
def taintBanks (l : List Nat) (x : Task) : Task := l.foldl (fun x b => x.setBank b { x.bank b with taint := true }) x

theorem taintBanks_kept (l : List Nat) (x : Task) :
    (∀ q, (taintBanks l x).queue q = x.queue q) ∧ (∀ n, (taintBanks l x).sem n = x.sem n)
      ∧ (taintBanks l x).launch = x.launch :=
  List.foldlRecOn (motive := fun y : Task => (∀ q, y.queue q = x.queue q) ∧ (∀ n, y.sem n = x.sem n) ∧ y.launch = x.launch)
    l _ ⟨fun _ => rfl, fun _ => rfl, rfl⟩ (fun _ h _ _ => h)

section
variable {s : State} {q : Nat} {e : Entry}

theorem execMatrixCommandComplete_signals (hH : Head s q e) (hq : q = 1 ∨ q = 2) (hst : e.started = true)
    (hfin : e.finished = true)
    (htr : enabledTrap (e.cap.vctl.getLsbD 1) (e.cap.vctl.getLsbD 2) e.firstInvalid e.firstXw = none) :
    exec .matrixCommandComplete s = .next (finishHead (onHead (endWork s s.sel.task q e) s.sel.task q
      (fun e => { e with uses := [] })) s.sel.task q e (e.err || e.skip || lateTaint (myTask s) e)) := by
  obtain ⟨hT, -, hhead, hqueue⟩ := hH
  have hcons := queue_of_head hhead
  unfold myTask at *
  simp only [exec, execMatrixCommandComplete, hqueue]
  rw [hcons]
  dsimp only
  rw [if_neg (by rcases hq with rfl | rfl <;> simp [hT, hst, hfin])]
  simp only [htr]

/-- With nothing lost since its start a command only ends its uses. -/
theorem endWork_sound (t : Nat) (hl : lateTaint (s.task t) e = false) (he : e.err = true → (linkOf e.cmd).si ≠ 0) :
    endWork s t q e = endUses s t e.uses := by
  have hu : e.uses.any (fun u => ((s.task t).slot u.1).taint) = false := (Bool.or_eq_false_iff.mp hl).1
  have hm := noteMestat_silent (e := { e with err := e.err || false }) (by simpa using he) s t
  unfold endWork
  simp only [hu, hl]
  exact congrArg (fun v => endUses v t e.uses) hm

/-- With data lost since its start a command has met an error; the head and the semaphores are as before (R315). -/
theorem endWork_late (hH : Head s q e) (hq : q < 16) (hl : lateTaint (myTask s) e = true)
    (hs : (linkOf e.cmd).si ≠ 0) : ∃ u x, TaskIs u (endWork s s.sel.task q e) s.sel.task x ∧ u.sel = s.sel
      ∧ (x.queue q).drop 1 = ((myTask s).queue q).drop 1 ∧ ∀ n, x.sem n = (myTask s).sem n := by
  have hT := hH.task
  have hm := fun v => noteMestat_silent (e := { e with err := e.err || true }) (fun _ => hs) v s.sel.task
  obtain ⟨v, x, hv, hx, hvq, hvs, hvl⟩ : ∃ v x, v = (if e.uses.any (fun u => ((myTask s).slot u.1).taint) then
      s.modTask s.sel.task (taintBanks (matBanks e.cmd e.cap.ft e.cap.table)) else s) ∧ TaskIs s v s.sel.task x
      ∧ x.queue q = (myTask s).queue q ∧ (∀ n, x.sem n = (myTask s).sem n) ∧ x.launch = (myTask s).launch := by
    obtain ⟨kq, ks, kl⟩ := taintBanks_kept (matBanks e.cmd e.cap.ft e.cap.table) (myTask s)
    split
    · exact ⟨_, _, rfl, (TaskIs.mine hT).modTask _, kq q, ks, kl⟩
    · exact ⟨_, _, rfl, TaskIs.mine hT, rfl, fun _ => rfl, rfl⟩
  have hend : endWork s s.sel.task q e = endUses (noteErr v s.sel.task q (!e.err)) s.sel.task e.uses := by
    rw [hv]
    unfold myTask at *
    unfold endWork
    simp only [hl]
    exact congrArg (fun u => endUses u s.sel.task e.uses) (hm _)
  rw [hend]
  have hkept := withoutUses_slotsOnly e.uses
  cases e.err with
  | true =>
    exact ⟨s, _, hx.modTask (withoutUses e.uses), rfl, by rw [(hkept x).queue, hvq],
      fun n => ((hkept x).sem n).trans (hvs n)⟩
  | false =>
    obtain ⟨y, r, hcons⟩ : ∃ y r, (myTask s).queue q = y :: r := ⟨_, _, queue_of_head hH.head⟩
    have herr := (hx.onHead q (fun e => { e with err := true })).absorbError ((Task.modHead_launch hq _).trans hvl)
    rw [Task.modHead_cons hq (hvq.trans hcons)] at herr
    exact ⟨_, _, herr.modTask (withoutUses e.uses), rfl,
      by rw [(hkept _).queue, Task.queue_setQueue_same, hcons]; rfl, fun n => ((hkept _).sem n).trans (hvs n)⟩

end

/-- Settles O34: the tile step within its uses, and the completion with and without data lost since the start. -/
theorem matrixCompletes : Obligations.MatrixCompletes := by
  unfold Obligations.MatrixCompletes
  refine ⟨?tile, fun q e s hH hq hst hfin htr he => ⟨fun hl => ?sound, fun hl hs => ?late⟩⟩
  case tile =>
    intro q i fn f e s hH hq hst hfin hc ha hb h8 xw a b c hs
    have hq16 : q < 16 := by omega
    generalize huses : usesOf false a b (mgoReleases e.cap.table i).1 (mgoReleases e.cap.table i).2 = uses
    have hnd : (uses.map Prod.fst).Nodup := huses ▸ usesOf_nodup ..
    obtain ⟨y, hy, hd⟩ := (TaskIs.mine hH.task).tileWithUses hq16 hs.untainted e (matMf fn.toNat e.cap.ft) uses
    obtain ⟨fl, j, w, hhead⟩ := hd.head _ _ (queue_of_head hH.head)
    have hkept := withoutUses_slotsOnly uses y
    have h := (hy.modTask (withoutUses uses)).onHead q (countedHead e.cap.table)
    rw [Task.modHead_cons hq16 ((hkept.queue q).trans hhead)] at h
    have hslot : ∀ n, n ∉ uses.map Prod.fst → (withoutUses uses y).slot n = (myTask s).slot n := fun n hn => by
      rw [withoutUses_eq, onSlots_other hn, hd.slot, withUses_eq, onSlots_other hn]
    have hstates : ∀ n, n = a ∨ n = b → ((myTask s).slot n).state = 2 ∧ ((myTask s).slot n).taint = false := by
      obtain ⟨sa, sb, ta, tb, -⟩ := hs
      rintro n (rfl | rfl)
      · exact ⟨sa, ta⟩
      · exact ⟨sb, tb⟩
    have hend : ∀ n r, (n, r) ∈ uses → (withoutUses uses y).slot n = slotAfter ((myTask s).slot n) r := fun n r hn => by
      obtain ⟨h2, h0⟩ := hstates n (usesOf_names (huses ▸ List.mem_map_of_mem hn))
      rw [withoutUses_eq, onSlots_mem hnd hn, hd.slot, withUses_eq, onSlots_mem hnd hn, unusedSlot_usedSlot h2 h0]
    refine ⟨_, (execMgoAction_tile hH hq hst hfin hc ha).trans (congrArg Host.Outcome.next (mgoTile_runs hb h8 hs.ready)), ?_⟩
    rw [huses]
    refine ⟨h.outside, h.memoryKept (hkept.spad.trans hd.spad) (hkept.heritage.trans hd.heritage), fun n => ?_, fun n r hn => ?_,
      fun n hna hnb => ?_, countedHead e.cap.table { e with flags := fl, firstInvalid := j, firstXw := w }, _,
      (congrArg (fun x => x.queue q) h.myTask).trans (Task.queue_setQueue_same _ _ _), rfl, hst, rfl⟩
    · exact (congrArg (fun x => x.bank n) h.myTask).trans ((hkept.bank n).trans (hd.bank n))
    · exact (congrArg (fun x => x.slot n) h.myTask).trans (hend n r hn)
    · refine (congrArg (fun x => x.slot n) h.myTask).trans (hslot n fun hn => ?_)
      exact (usesOf_names (huses ▸ hn)).elim hna hnb
  case sound =>
    have h := (((TaskIs.mine hH.task).modTask (withoutUses e.uses)).onHead q (fun e => { e with uses := [] })).finishHead q e
      (e.err || e.skip)
    rw [doneTask_modHead (by omega)] at h
    rw [execMatrixCommandComplete_signals hH hq hst hfin htr, endWork_sound _ hl he, hl, Bool.or_false]
    exact ⟨_, rfl, HeadDone.of_taskIs ((TaskIs.mine hH.task).modTask (withoutUses e.uses)) h⟩
  case late =>
    obtain ⟨u, x, hx, hsel, hqueue, hsem⟩ := endWork_late hH (by omega) hl hs
    have h := (hx.onHead q (fun e => { e with uses := [] })).finishHead q e true
    rw [doneTask_modHead (by omega), ← hsel] at h
    rw [execMatrixCommandComplete_signals hH hq hst hfin htr, hl, Bool.or_true]
    refine ⟨_, rfl, ?_, fun n => ?_⟩
    · rw [← hsel, h.myTask, doneTask, signalled_queue, Task.queue_setQueue_same, hqueue]
    · rw [← hsel, h.myTask, doneTask, signalled_sem, Task.setQueue_sem, hsem]
      simp [hs]

end Sys2Proof.Machine
end

section
/-!
PROOFS. An engine's store to the scratchpad of its own task in a free launch (R102, R105, log entry 32).
-/
namespace Sys2Proof.Machine

theorem writeEnabled_append (l1 l2 : List (Option Byte)) : ∀ (m : SMap Byte) (a : Nat),
    writeEnabled m a (l1 ++ l2) = writeEnabled (writeEnabled m a l1) (a + l1.length) l2 := by
  induction l1 with
  | nil => intro m a; rfl
  | cons b l ih =>
    intro m a
    cases b with
    | none =>
      show writeEnabled m (a + 1) (l ++ l2) = _
      rw [ih, List.length_cons, Nat.add_right_comm, Nat.add_assoc a]
      rfl
    | some b =>
      show writeEnabled (writeByte m a b) (a + 1) (l ++ l2) = _
      rw [ih, List.length_cons, Nat.add_right_comm, Nat.add_assoc a]
      rfl

theorem writeEnabled_none (n : Nat) : ∀ (m : SMap Byte) (a : Nat), writeEnabled m a (List.replicate n none) = m := by
  induction n with
  | zero => intro m a; rfl
  | succ n ih => intro m a; exact ih m (a + 1)

/-- Bytes that begin `o` bytes into a word, as a write of that word has them. -/
def wordWrite (o : Nat) (bs : List Byte) : List (Option Byte) :=
  List.replicate o none ++ bs.map some ++ List.replicate (8 - o - bs.length) none

theorem writeEnabled_wordWrite (m : SMap Byte) (a o : Nat) (bs : List Byte) :
    writeEnabled m a (wordWrite o bs) = writeBytes m (a + o) bs := by
  unfold wordWrite
  rw [writeEnabled_append, writeEnabled_none, writeEnabled_append, writeEnabled_none, writeEnabled_all, List.length_replicate]

/-- In a free, unlogged launch an access that reads no data performs by its effect alone. -/
theorem performAt_blind {s : State} {a : Acc} (hd : (s.launchOf a.who.task).det = false)
    (hl : (s.launchOf a.who.task).log = false) (hx : a.exec = false) (hr : readsData a = false) :
    performAt s a = .ok (accEffect s a).1 (accEffect s a).2 := by
  have hs : stampCheck s a = .ok s := stampSectors_free _ hd
  have hg : logAccess s a = .go s := by unfold logAccess needsRecord; simp [hl]
  unfold performAt noteCode
  simp only [hr, hs, hg, hx, Bool.false_and, Bool.false_eq_true, Bool.not_false, if_true, if_false]

/-- A task after bytes of its scratchpad are written: every IDLE ends, and whole words hold no uncorrectable data any more. -/
structure SpadWritten (x y : Task) (a : Nat) (bs : List Byte) : Prop where
  task : y = { x.wake with spad := writeBytes x.spad a bs, badWords := y.badWords }

section
variable {s u : State} {k : Nat} {x : Task}

theorem TaskIs.launchOf (h : TaskIs s u k x) (hl : x.launch = (s.task k).launch) : u.launchOf k = s.launchOf k := by
  unfold State.launchOf
  rw [h.task, hl, h.outside]
  rfl

theorem TaskIs.doStore_own (h : TaskIs s u k x) {a : Acc} {o : Nat} {bs : List Byte} (hh : a.home = .spad k)
    (ha : a.addr < 0x600000) :
    ∃ y, TaskIs s (doStore u a (wordWrite o bs)) k y ∧ SpadWritten x y (a.addr + o) bs := by
  have hher : isHeritage a.addr = false := by unfold isHeritage; simp; omega
  unfold doStore homeWrite countWrite clearBad
  simp only [hh, hher, Bool.false_eq_true, if_false, writeEnabled_wordWrite]
  split
  · exact ⟨_, (h.modTask _).modTask _, ⟨rfl⟩⟩
  · exact ⟨_, h.modTask _, ⟨rfl⟩⟩

/-- The access an engine makes to a word of its own scratchpad. -/
def engOwnAcc (k q : Nat) (e : Entry) (va : Word) (op : AccOp) : Acc :=
  { who := { task := k, strand := e.strand, queue := some q, pc := e.pc }, home := .spad k, addr := va.toNat, va := va,
    size := 8, cls := 0, op := op }

theorem engAcc_own {q : Nat} {e : Entry} {va : Word} {need : Need} {op : AccOp} (hd : (s.launchOf k).det = false)
    (hq : q < 16) (h1 : va.toNat + 8 ≤ (s.task k).spsize) (h2 : va.toNat < 0x600000) :
    engAcc s k q e va 8 need op = .ok (engOwnAcc k q e va op) := by
  have hher : isHeritage va.toNat = false := by unfold isHeritage; simp; omega
  unfold engAcc checkPlaceFor engOwnAcc
  simp [placeOf_own h1 (show va.toNat < 0x800000 by omega), foldVa_own (show va.toNat < 0x800000 by omega), hd, hher,
    Nat.not_le.mpr hq]

/-- Bytes within one word of the own scratchpad are written by one access. -/
theorem TaskIs.engWrite_own (h : TaskIs s u k x) (hlaunch : x.launch = (s.task k).launch)
    (hd : (s.launchOf k).det = false) (hlog : (s.launchOf k).log = false) {q : Nat} (hq : q < 16) (e : Entry) {va : Word}
    {bs : List Byte} (hne : bs ≠ []) (hw : va.toNat % 8 + bs.length ≤ 8) (hsp : va.toNat / 8 * 8 + 8 ≤ x.spsize)
    (hlow : va.toNat < 0x600000) :
    ∃ t y, engWrite u k q e va bs = .ok t ∧ TaskIs s t k y ∧ SpadWritten x y va.toNat bs := by
  have hlen : 0 < bs.length := List.length_pos_iff.mpr hne
  have hn : (va.toNat % 8 + bs.length + 7) / 8 = 1 := by omega
  have hlo : (va - w64 (va.toNat % 8)).toNat = va.toNat / 8 * 8 := by
    unfold w64
    rw [BitVec.toNat_sub, BitVec.toNat_ofNat]
    omega
  have hu := h.launchOf hlaunch
  have hacc := engAcc_own (s := u) (k := k) (q := q) (e := e) (va := va - w64 (va.toNat % 8)) (need := .write)
    (op := .store (wordWrite (va.toNat % 8) bs)) (by rw [hu]; exact hd) hq (by rw [h.task, hlo]; exact hsp) (by rw [hlo]; omega)
  have hpart : (wordWrite (va.toNat % 8) bs).all Option.isNone = false := by
    obtain ⟨b, l, rfl⟩ := List.exists_cons_of_ne_nil hne
    simp [wordWrite]
  have htake : (wordWrite (va.toNat % 8) bs).take 8 = wordWrite (va.toNat % 8) bs :=
    List.take_of_length_le (by simp [wordWrite]; omega)
  obtain ⟨y, hy, hwr⟩ := h.doStore_own (a := engOwnAcc k q e (va - w64 (va.toNat % 8)) (.store (wordWrite (va.toNat % 8) bs))) (o := va.toNat % 8) (bs := bs) rfl
    (show (va - w64 (va.toNat % 8)).toNat < 0x600000 by rw [hlo]; omega)
  have hat : (va - w64 (va.toNat % 8)).toNat + va.toNat % 8 = va.toNat := by rw [hlo]; omega
  have hperf : engPerform u (engOwnAcc k q e (va - w64 (va.toNat % 8)) (.store (wordWrite (va.toNat % 8) bs))) =
      .ok (doStore u (engOwnAcc k q e (va - w64 (va.toNat % 8)) (.store (wordWrite (va.toNat % 8) bs)))
        (wordWrite (va.toNat % 8) bs), .ack false) := by
    unfold engPerform
    rw [performAt_blind (by rw [← hd, ← hu]; rfl) (by rw [← hlog, ← hu]; rfl) rfl rfl]
    rfl
  refine ⟨_, y, ?_, hy, hat ▸ hwr⟩
  unfold engWrite
  simp only [List.isEmpty_eq_false_iff.mpr hne, hn, Nat.mul_one, Bool.false_eq_true, if_false]
  rw [← wordWrite]
  simp only [engWriteWords, htake, hpart, hacc, hperf, Bool.false_eq_true, if_false]

/-- No link lies between a task and its own scratchpad. -/
theorem writeLinkFails_own {va : Word} (h : va.toNat < 0x800000) : writeLinkFails s k va = false := by
  have hs : spadTarget s k va = some (k, va.toNat) := by unfold spadTarget; simp [h]
  simp [writeLinkFails, remote, homeAt, hs, crossesLinks, homeStation]

end

end Sys2Proof.Machine
end

section
/-!
PROOFS. FILL of the own scratchpad: one destination word after the other, each byte by its place in the eight (R345).
-/
namespace Sys2Proof.Machine

section
variable {x y : Task} {a : Nat} {bs : List Byte} (h : SpadWritten x y a bs)
include h

theorem SpadWritten.queue (q : Nat) : y.queue q = x.queue q := congrArg (fun z => z.queue q) h.task

theorem SpadWritten.sem (n : Nat) : y.sem n = x.sem n := congrArg (fun z => z.sem n) h.task

theorem SpadWritten.launch : y.launch = x.launch := congrArg (fun z => z.launch) h.task

theorem SpadWritten.spsize : y.spsize = x.spsize := congrArg (fun z => z.spsize) h.task

theorem SpadWritten.spad : y.spad = writeBytes x.spad a bs := congrArg (fun z => z.spad) h.task

end

/-! ### One destination word (R345) -/

/-- Bytes FILL writes at an address within one word. -/
def fillPart (v : Word) (a n : Nat) : List Byte := ((bytesOf v.toNat 8).drop (a % 8)).take n

theorem fillPart_length (v : Word) {a n : Nat} (h : a % 8 + n ≤ 8) : (fillPart v a n).length = n := by
  simp [fillPart, bytesOf_length]
  omega

theorem fillPart_getD (v : Word) {a n i : Nat} (h : a % 8 + n ≤ 8) (hi : i < n) : (fillPart v a n).getD i 0 = fillByte v (a + i) := by
  have hb := wordBytes_getD 8 v.toNat (a % 8 + i) (by omega)
  have hm : (a + i) % 8 = a % 8 + i := by omega
  unfold fillPart fillByte bytesOf
  rw [hm, ← hb]
  simp [List.getD_eq_getElem?_getD, List.getElem?_drop, hi]

/-- The bytes FILL makes of the word at byte p of its range. -/
def fillStep (e : Entry) (p : Nat) : Nat := min (8 - (e.cap.a.toNat + p) % 8) (e.cap.c.toNat - p)

section
variable {s : State} {k q : Nat} {e : Entry} (hd : (s.launchOf k).det = false) (hlog : (s.launchOf k).log = false)
  (hq : q < 16) (hsp8 : (s.task k).spsize % 8 = 0) (hrange : e.cap.a.toNat + e.cap.c.toNat ≤ (s.task k).spsize)
  (hlow : e.cap.a.toNat + e.cap.c.toNat ≤ 0x600000)
include hd hlog hq hsp8 hrange hlow

theorem TaskIs.fillChunk_own {u : State} {x : Task} (h : TaskIs s u k x) (hl : x.launch = (s.task k).launch)
    (hsp : x.spsize = (s.task k).spsize) {y : Entry} (hy : y.cap = e.cap) {p : Nat} (hp : p < e.cap.c.toNat) :
    ∃ t z, fillChunk u k q y p = .ok (t, fillStep e p) ∧ TaskIs s t k z
      ∧ SpadWritten x z (e.cap.a.toNat + p) (fillPart e.cap.b (e.cap.a.toNat + p) (fillStep e p)) := by
  have ha : (e.cap.a + w64 p).toNat = e.cap.a.toNat + p := by
    unfold w64
    rw [BitVec.toNat_add, BitVec.toNat_ofNat]
    omega
  have hw : (w64 (e.cap.a.toNat + p)).toNat = e.cap.a.toNat + p := by
    unfold w64
    rw [BitVec.toNat_ofNat]
    omega
  have hstep : (e.cap.a.toNat + p) % 8 + fillStep e p ≤ 8 ∧ 0 < fillStep e p := by
    unfold fillStep
    omega
  have hlen := fillPart_length e.cap.b hstep.1
  obtain ⟨t, z, hwr, hz, hs⟩ := h.engWrite_own hl hd hlog hq y (va := w64 (e.cap.a.toNat + p))
    (bs := fillPart e.cap.b (e.cap.a.toNat + p) (fillStep e p)) (List.length_pos_iff.mp (by rw [hlen]; exact hstep.2))
    (by rw [hw, hlen]; exact hstep.1) (by rw [hw, hsp]; omega) (by rw [hw]; omega)
  rw [hw] at hs
  refine ⟨t, z, ?_, hz, hs⟩
  unfold fillChunk linkWrite
  simp only [hy, ha]
  rw [← fillStep, ← fillPart, hwr, writeLinkFails_own (by rw [hw]; omega)]
  rfl

end

/-! ### The range (R345) -/

/-- A FILL of which `p` bytes are written; `done` when only its completion is left. -/
structure Filling (s u : State) (k q : Nat) (e : Entry) (p : Nat) (done : Bool) (x : Task) : Prop where
  task : TaskIs s u k x
  head : ∃ w f, x.queue q = { e with progress := p, finished := done, wait := w, walkFault := f } :: ((s.task k).queue q).drop 1
  launch : x.launch = (s.task k).launch
  sem : ∀ n, x.sem n = (s.task k).sem n
  spsize : x.spsize = (s.task k).spsize
  bytes : ∀ a, readByte x.spad a = if e.cap.a.toNat ≤ a ∧ a < e.cap.a.toNat + p then fillByte e.cap.b a
    else readByte (s.task k).spad a

/-- The head after a chunk of `n` bytes. -/
def movedHead (n : Nat) (e : Entry) : Entry := { e with progress := e.progress + n, wait := none, walkFault := none }

/-- A FILL moves in its own order only. -/
theorem takeOrder_fill {s : State} {k : Nat} {e : Entry} {f : EC} (hc : e.cmd = .fill f) : takeOrder s k e = e := by
  unfold takeOrder
  rw [hc]

section
variable {s : State} {k q : Nat} {e : Entry} {f : EC} (hc : e.cmd = .fill f)
include hc

/-- With every byte written the FILL has finished. -/
theorem Filling.ends {u : State} {x : Task} (h : Filling s u k q e e.cap.c.toNat false x) (hq : q < 16) (n : Nat) :
    ∃ z, Filling s (copyUnits k q (n + 1) u) k q e e.cap.c.toNat true z := by
  obtain ⟨w, g, hhead⟩ := h.head
  have hrun : copyUnits k q (n + 1) u = onHead u k q (fun e => { e with finished := true }) := by
    simp [copyUnits, h.task.task, hhead, copyTotal, fillDone, hc]
  have ht := h.task.onHead q (fun e => { e with finished := true })
  rw [Task.modHead_cons hq hhead] at ht
  rw [hrun]
  exact ⟨_, ht, ⟨w, g, Task.queue_setQueue_same _ _ _⟩, h.launch, h.sem, h.spsize, h.bytes⟩

section
variable (hd : (s.launchOf k).det = false) (hlog : (s.launchOf k).log = false)
  (hq : q < 16) (hsp8 : (s.task k).spsize % 8 = 0) (hrange : e.cap.a.toNat + e.cap.c.toNat ≤ (s.task k).spsize)
  (hlow : e.cap.a.toNat + e.cap.c.toNat ≤ 0x600000)
include hd hlog hq hsp8 hrange hlow

/-- One more destination word is written. -/
theorem Filling.chunk {u : State} {x : Task} {p : Nat} (h : Filling s u k q e p false x) (hp : p < e.cap.c.toNat) (n : Nat) :
    ∃ v z, copyUnits k q (n + 1) u = copyUnits k q n v ∧ Filling s v k q e (p + fillStep e p) false z := by
  obtain ⟨w, g, hhead⟩ := h.head
  generalize hy : ({ e with progress := p, finished := false, wait := w, walkFault := g } : Entry) = y at hhead
  obtain ⟨hcmd, hcap, hprog, hfin⟩ : y.cmd = .fill f ∧ y.cap = e.cap ∧ y.progress = p ∧ y.finished = false := by
    subst hy
    exact ⟨hc, rfl, rfl, rfl⟩
  have hsame : TaskIs s (onHead u k q (fun _ => y)) k (x.setQueue q (y :: ((s.task k).queue q).drop 1)) := by
    have ht := h.task.onHead q (fun _ => y)
    rwa [Task.modHead_cons hq hhead] at ht
  obtain ⟨t, z, hrun, hz, hw⟩ := hsame.fillChunk_own hd hlog hq hsp8 hrange hlow h.launch h.spsize hcap hp
  have hlen : (e.cap.a.toNat + p) % 8 + fillStep e p ≤ 8 := by unfold fillStep; omega
  have hzq : z.queue q = y :: ((s.task k).queue q).drop 1 := (hw.queue q).trans (Task.queue_setQueue_same _ _ _)
  have hmoved := hz.onHead q (movedHead (fillStep e p))
  rw [Task.modHead_cons hq hzq] at hmoved
  refine ⟨_, _, ?_, hmoved, ⟨none, none, ?_⟩, hw.launch.trans h.launch, fun m => (hw.sem m).trans (h.sem m),
    hw.spsize.trans h.spsize, fun a => ?_⟩
  · have htotal : ¬ copyTotal y ≤ p := by rw [copyTotal, hcmd, hcap]; exact Nat.not_le.mpr hp
    simp only [copyUnits, h.task.task, hhead, hfin, takeOrder_fill hcmd, htotal, copyStep, hcmd, hprog, hrun,
      Bool.false_eq_true, if_false]
    rfl
  · rw [Task.queue_setQueue_same, ← hy]
    rfl
  · show readByte z.spad a = _
    rw [hw.spad, readByte_writeBytes, fillPart_length _ hlen]
    by_cases hin : e.cap.a.toNat + p ≤ a ∧ a < e.cap.a.toNat + p + fillStep e p
    · rw [if_pos hin, if_pos (by omega), fillPart_getD _ hlen (by omega)]
      congr 1
      omega
    · rw [if_neg hin]
      refine (h.bytes a).trans ?_
      by_cases hold : e.cap.a.toNat ≤ a ∧ a < e.cap.a.toNat + p
      · rw [if_pos hold, if_pos (by omega)]
      · rw [if_neg hold, if_neg (by omega)]

/-- A FILL with a chunk for every byte it has left ends with every byte written. -/
theorem Filling.runs (n : Nat) : ∀ {u : State} {x : Task} {p : Nat}, Filling s u k q e p false x → p ≤ e.cap.c.toNat →
    e.cap.c.toNat - p < n → ∃ z, Filling s (copyUnits k q n u) k q e e.cap.c.toNat true z := by
  induction n with
  | zero => intro u x p _ _ hn; omega
  | succ n ih =>
    intro u x p h hp hn
    by_cases hend : p = e.cap.c.toNat
    · subst hend
      exact h.ends hc hq n
    · obtain ⟨v, z, hrun, hv⟩ := h.chunk hc hd hlog hq hsp8 hrange hlow (show p < e.cap.c.toNat by omega) n
      have hstep : 0 < fillStep e p ∧ p + fillStep e p ≤ e.cap.c.toNat := by unfold fillStep; omega
      rw [hrun]
      exact ih hv hstep.2 (by omega)

end

end

end Sys2Proof.Machine
end

section
/-!
PROOFS. Copy commands start and complete (R17, R18, R300, R340, R342, R344 to R346).
-/
namespace Sys2Proof.Machine

/-! ### COPY_GATHER_COMMAND_START -/

section
variable {s : State} {q : Nat} {e : Entry} (hH : Head s q e) (hq : 3 ≤ q ∧ q ≤ 6) (hf : Fresh e)
  (hd : (myLaunch s).det = false) (hn : notifyAddr e = none)
include hH hq hf hd hn

theorem execCopyGatherCommandStart_waits {u : State} (h : takeWt s s.sel.task q e = (u, .wait)) :
    exec .copyGatherCommandStart s = .next u := by
  obtain ⟨hT, hm, hhead, hqueue⟩ := hH
  have hcons := queue_of_head hhead
  have hfree : (s.launchOf s.sel.task).det = false := hd
  unfold myTask at *
  simp only [exec, execCopyGatherCommandStart, hqueue]
  rw [hcons]
  dsimp only
  rw [if_neg (by simp [hT, hm, hf.started]; omega), if_neg (by simp [hf.finished])]
  simp [notifyBad, hn, footBlocks, hfree, h]

/-- A command that passes an E on has only its signals left (R18). -/
theorem execCopyGatherCommandStart_skips {u : State} (h : takeWt s s.sel.task q e = (u, .skip)) :
    exec .copyGatherCommandStart s =
      .next (onHead u s.sel.task q (fun e => { e with started := true, finished := true, wait := none })) := by
  obtain ⟨hT, hm, hhead, hqueue⟩ := hH
  have hcons := queue_of_head hhead
  have hfree : (s.launchOf s.sel.task).det = false := hd
  unfold myTask at *
  simp only [exec, execCopyGatherCommandStart, hqueue]
  rw [hcons]
  dsimp only
  rw [if_neg (by simp [hT, hm, hf.started]; omega), if_neg (by simp [hf.finished])]
  simp [notifyBad, hn, footBlocks, hfree, h]

/-- The head goes on to its start checks; the step makes no chunk of it yet (R340, steps 9 and 10). -/
theorem execCopyGatherCommandStart_starts (hg : Goes s e) (hc : s.sel.count = 0) :
    exec .copyGatherCommandStart s = .next (startCopy (onHead s s.sel.task q tookHead) s.sel.task q (tookHead e)) := by
  obtain ⟨hT, hm, hhead, hqueue⟩ := hH
  have hcons := queue_of_head hhead
  have hrel := hg.released
  have hfree : (s.launchOf s.sel.task).det = false := hd
  unfold myTask at *
  simp only [exec, execCopyGatherCommandStart, hqueue]
  rw [hcons]
  dsimp only
  rw [if_neg (by simp [hT, hm, hf.started]; omega), if_neg (by simp [hf.finished])]
  simp only [notifyBad, hn, footBlocks, hfree, takeWt_taken hg.taken, hrel, hc, copyUnits, ite_self, Bool.not_true,
    Bool.false_eq_true, if_false]
  rfl

end

/-! ### Start checks (R342 to R346) -/

/-- A head whose copy begins in the order its ranges give. -/
def begunCopy (s : State) (k : Nat) (e : Entry) : Entry := takeOrder s k { e with started := true, wait := none }

/-- A copy's order is all that its start judges. -/
theorem takeOrder_kept (s : State) (k : Nat) (e : Entry) : ∃ o, takeOrder s k e = { e with copyOrder := o } := by
  unfold takeOrder
  split
  · exact ⟨_, rfl⟩
  · split
    split
    · exact ⟨e.copyOrder, rfl⟩
    · split
      · exact ⟨e.copyOrder, rfl⟩
      · exact ⟨_, rfl⟩
  · exact ⟨e.copyOrder, rfl⟩

section
variable {s : State} {k q : Nat} {e : Entry} {f : EC} (hf : e.progress = 0 ∧ e.uses = [])
include hf

/-- CPY and FILL of fewer than 2^40 bytes begin. -/
theorem startCopy_begins {n : Bool} (hc : e.cmd = .cpy n f ∨ e.cmd = .fill f) (hl : e.cap.c.toNat < 2 ^ 40) :
    startCopy s k q e = onHead s k q (begunCopy s k) := by
  obtain ⟨hp, hu⟩ := hf
  have hbad : copyBad s k e = none := by
    rcases hc with hc | hc <;> simp only [copyBad, hc, if_neg (Nat.not_le.mpr hl)]
  have hslot : slotCondition (s.task k) q e = .ok none := by
    rcases hc with hc | hc <;> simp only [slotCondition, hc]
  unfold startCopy
  rw [if_neg (by simp [hp, hu])]
  simp only [hbad, hslot]
  rcases hc with hc | hc <;> simp only [hc] <;> rfl

/-- A FLUSH has done its work at its start; one for the host brings out the writes of its function (R346). -/
theorem startCopy_flush {scope : BitVec 3} (hc : e.cmd = .flush scope f) :
    startCopy s k q e = onHead (if scope = 5 then drainHost s (s.launchOf k).fn else s) k q
      (fun e => { e with started := true, wait := none, finished := true }) := by
  obtain ⟨hp, hu⟩ := hf
  unfold startCopy
  rw [if_neg (by simp [hp, hu])]
  simp only [copyBad, slotCondition, hc]

/-- A slot claimed for a fill by its own copy (R300, R344). -/
def fillClaimed (x : Slot) : Slot := { x with state := 1, fb := true }

/-- A head that holds the slot it fills. -/
def filling (n : Nat) (e : Entry) : Entry := { e with uses := [(n, false)] }

/-- A CPYSLOT that claims takes its slot and begins (R344). -/
theorem startCopy_claims (hc : e.cmd = .cpyslotClaim f) (hl : e.cap.c.toNat < 2 ^ 32)
    (hm : mayClaim (s.task k) q e (f.a.toNat % 32) = true) :
    let u := onHead (s.modTask k (onSlot (f.a.toNat % 32) fillClaimed)) k q (filling (f.a.toNat % 32))
    startCopy s k q e = onHead u k q (begunCopy u k) := by
  obtain ⟨hp, hu⟩ := hf
  have hbad : copyBad s k e = none := by simp only [copyBad, hc, if_neg (Nat.not_le.mpr hl)]
  have hslot : slotCondition (s.task k) q e =
      .ok (some (f.a.toNat % 32, fillClaimed ((s.task k).slot (f.a.toNat % 32)))) := by
    simp only [slotCondition, hc, hm, if_true]
    rfl
  have htake : s.modTask k (fun y => y.setSlot (f.a.toNat % 32) (fillClaimed ((s.task k).slot (f.a.toNat % 32)))) =
      s.modTask k (onSlot (f.a.toNat % 32) fillClaimed) := modTask_congr rfl
  unfold startCopy
  rw [if_neg (by simp [hp, hu])]
  simp only [hbad, hslot]
  rw [htake]
  rfl

end

/-! ### COPY_GATHER_COMMAND_COMPLETE -/

/-- A copy command with no error, or with a signal to carry E, leaves GECC alone (R354). -/
theorem noteCopyErr_silent {e : Entry} (h : e.err = true → (linkOf e.cmd).si ≠ 0) (s : State) (k : Nat) :
    noteCopyErr s k e = s := by
  unfold noteCopyErr
  rw [if_neg]
  simp only [Bool.and_eq_true, decide_eq_true_eq, not_and]
  exact fun h1 => absurd h1.2 (h h1.1)

/-- A command without notify whose flags raise no trap signals (R340, step 11). -/
theorem finishCopy_signals {s : State} {k q : Nat} {e : Entry} (hn : notifyAddr e = none)
    (hg : (s.task k).eng.gecc.getLsbD 48 = false ∨ e.firstInvalid = none) (he : e.err = true → (linkOf e.cmd).si ≠ 0) :
    finishCopy s k q e = finishHead s k q e (e.err || e.skip) := by
  have htrap : (if (s.task k).eng.gecc.getLsbD 48 then e.firstInvalid else none) = none := by
    rcases hg with hg | hg
    · rw [hg]; rfl
    · rw [hg, ite_self]
  unfold finishCopy
  simp only [hn, ite_self, htrap, noteCopyErr_silent he]

section
variable {s : State} {q : Nat} {e : Entry} (hH : Head s q e) (hq : 3 ≤ q ∧ q ≤ 7) (hst : e.started = true)
include hH hq hst

/-- A finished command, its slot READY when E ended it with the slot taken (R344). -/
theorem execCopyGatherCommandComplete_finished {u : State} {y : Entry} {r : List Entry} (hfin : e.finished = true)
    (hu : u = if e.skip && !e.uses.isEmpty then
      onHead (fillDone s s.sel.task e.cmd) s.sel.task q (fun e => { e with uses := [] }) else s)
    (hy : (u.task s.sel.task).queue q = y :: r) (hys : y.started = true) (hyf : y.finished = true) :
    exec .copyGatherCommandComplete s = .next (finishCopy u s.sel.task q y) := by
  obtain ⟨hT, -, hhead, hqueue⟩ := hH
  have hcons := queue_of_head hhead
  unfold myTask at *
  simp only [exec, execCopyGatherCommandComplete, hqueue]
  rw [hcons]
  dsimp only
  rw [if_neg (by simp [hT, hst]; omega), if_pos hfin, ← hu, hy]
  simp only [hys, hyf, Bool.and_self, if_true]

/-- A copy that has not finished makes all its chunks first (R340, step 11). -/
theorem execCopyGatherCommandComplete_copies {y : Entry} {r : List Entry} (hfin : e.finished = false)
    (hg : isGather e.cmd = false) (hc : s.sel.count = 0)
    (hy : ((copyUnits s.sel.task q (copyTotal e - e.progress + 1) s).task s.sel.task).queue q = y :: r)
    (hys : y.started = true) (hyf : y.finished = true) :
    exec .copyGatherCommandComplete s =
      .next (finishCopy (copyUnits s.sel.task q (copyTotal e - e.progress + 1) s) s.sel.task q y) := by
  obtain ⟨hT, -, hhead, hqueue⟩ := hH
  have hcons := queue_of_head hhead
  unfold myTask at *
  simp only [exec, execCopyGatherCommandComplete, hqueue]
  rw [hcons]
  dsimp only
  rw [if_neg (by simp [hT, hst]; omega), if_neg (by simp [hfin]), if_neg (by simp [hg]), if_pos hc, hy]
  simp only [hys, hyf, Bool.and_self, if_true]

end

/-- A fill that is over leaves its slot READY, and every queue as it was (R300, R344). -/
theorem TaskIs.fillDone {s u : State} {k : Nat} {x : Task} (h : TaskIs s u k x) (i : Instr) :
    ∃ y, TaskIs s (fillDone u k i) k y ∧ (∀ q, y.queue q = x.queue q) ∧ y.eng.gecc = x.eng.gecc := by
  unfold Machine.fillDone
  split
  · exact ⟨_, h.modTask _, fun _ => rfl, rfl⟩
  · exact ⟨_, h.modTask _, fun _ => rfl, rfl⟩
  · exact ⟨x, h, fun _ => rfl, rfl⟩

/-! ### The obligation -/

/-- Settles O35: starts by command, completion once for all of them, and FILL by its destination words. -/
theorem copyRuns : Obligations.CopyRuns := by
  unfold Obligations.CopyRuns
  refine ⟨fun q e s hH hq hf hd hn hcount => ⟨fun ht hw hx => ?waits, fun ht hw hc htn hE => ?skips, fun hg => ?starts⟩,
    fun q e s hH hq hst hfin hn hgecc he => ?done,
    fun q f e s hH hq hc hst hfin hp herr hskip hinv hher hfree hcount hsp8 hrange hlow => ?fill⟩
  case waits =>
    have h := (TaskIs.mine hH.task).headWait q { kind := 2, object := (linkOf e.cmd).ws, amount := (linkOf e.cmd).wt }
    rw [Task.modHead_of_head (by omega) hH.head, waitingHead_first hf.wait] at h
    exact ⟨_, execCopyGatherCommandStart_waits hH hq hf hd hn (takeWt_waits ht hw hx), HeadNow.of_taskIs (TaskIs.mine hH.task) h⟩
  case skips =>
    have hsem := (TaskIs.mine hH.task).modTask
      (fun x => x.setSem (linkOf e.cmd).ws (lessWt (linkOf e.cmd).wt (x.sem (linkOf e.cmd).ws)))
    have h := (hsem.onHead q skippedAtWt).onHead q (fun e => { e with started := true, finished := true, wait := none })
    rw [Task.modHead_modHead (by omega), Task.modHead_cons (by omega) (show (Task.setSem _ _ _).queue q = _ from
      queue_of_head hH.head)] at h
    have he : { skippedAtWt e with started := true, finished := true, wait := none } =
        { e with tookWt := true, started := true, finished := true, skip := true } := by
      simp [skippedAtWt, hf.wait]
    exact ⟨_, execCopyGatherCommandStart_skips hH hq hf hd hn (takeWt_skips ht hw hc htn hE),
      HeadNow.of_taskIs hsem (he ▸ h)⟩
  case starts =>
    have htook := hH.took (show q < 16 by omega)
    have hsame := Task.queue_setQueue_same (myTask s) q (tookHead e :: ((myTask s).queue q).drop 1)
    have hstart := execCopyGatherCommandStart_starts hH hq hf hd hn hg hcount
    have hnew : (tookHead e).progress = 0 ∧ (tookHead e).uses = [] := ⟨hf.progress, hf.uses⟩
    refine ⟨fun f hc hl => ?begins, fun scope f hc hs => ?flush, fun f hc => ?host, fun f hc hl hm => ?claims⟩
    case begins =>
      have h := htook.onHead q (begunCopy (onHead s s.sel.task q tookHead) s.sel.task)
      rw [Task.modHead_cons (by omega) hsame, Task.setQueue_setQueue] at h
      obtain ⟨o, ho⟩ := takeOrder_kept (onHead s s.sel.task q tookHead) s.sel.task
        { tookHead e with started := true, wait := none }
      refine ⟨_, _, hstart.trans (congrArg Host.Outcome.next (startCopy_begins hnew hc hl)),
        HeadNow.of_taskIs (TaskIs.mine hH.task) h, ?_⟩
      rw [begunCopy, ho]
      exact ⟨rfl, hf.finished, rfl, rfl, hf.progress⟩
    case flush =>
      have h := htook.onHead q (fun e => { e with started := true, wait := none, finished := true })
      rw [Task.modHead_cons (by omega) hsame, Task.setQueue_setQueue] at h
      have he : { tookHead e with started := true, wait := none, finished := true } =
          { e with tookWt := true, started := true, finished := true } := by
        simp [tookHead, hf.wait]
      rw [he] at h
      rw [hstart, startCopy_flush hnew hc, if_neg (by rintro rfl; exact absurd hs (by decide))]
      exact ⟨_, rfl, HeadNow.of_taskIs (TaskIs.mine hH.task) h⟩
    case host =>
      rw [hstart, startCopy_flush hnew hc, if_pos rfl, htook.launchOf rfl]
      exact ⟨_, rfl, rfl⟩
    case claims =>
      have hslot : TaskIs s _ _ ((onSlot (f.a.toNat % 32) fillClaimed (myTask s)).setQueue q
          (tookHead e :: ((myTask s).queue q).drop 1)) := htook.modTask (onSlot (f.a.toNat % 32) fillClaimed)
      have huses := hslot.onHead q (filling (f.a.toNat % 32))
      rw [Task.modHead_cons (by omega) (Task.queue_setQueue_same _ _ _), Task.setQueue_setQueue] at huses
      have h := huses.onHead q (begunCopy (onHead ((onHead s s.sel.task q tookHead).modTask s.sel.task
        (onSlot (f.a.toNat % 32) fillClaimed)) s.sel.task q (filling (f.a.toNat % 32))) s.sel.task)
      rw [Task.modHead_cons (by omega) (Task.queue_setQueue_same _ _ _), Task.setQueue_setQueue] at h
      have hmay : mayClaim ((onHead s s.sel.task q tookHead).task s.sel.task) q (tookHead e) (f.a.toNat % 32) = true := by
        rw [htook.task, mayClaim_head (e' := tookHead e) (queue_of_head hH.head) rfl rfl]
        exact hm
      refine ⟨_, _, hstart.trans (congrArg Host.Outcome.next (startCopy_claims hnew hc hl hmay)),
        HeadNow.of_taskIs ((TaskIs.mine hH.task).modTask (onSlot (f.a.toNat % 32) fillClaimed)) h, ?_⟩
      obtain ⟨o, ho⟩ := takeOrder_kept (onHead ((onHead s s.sel.task q tookHead).modTask s.sel.task
        (onSlot (f.a.toNat % 32) fillClaimed)) s.sel.task q (filling (f.a.toNat % 32))) s.sel.task
        { filling (f.a.toNat % 32) (tookHead e) with started := true, wait := none }
      rw [begunCopy, ho]
      exact ⟨rfl, hf.finished, rfl⟩
  case done =>
    by_cases hcase : e.skip = true ∧ e.uses ≠ []
    · obtain ⟨x, hx, hxq, hxg⟩ := (TaskIs.mine hH.task).fillDone e.cmd
      have hu := hx.onHead q (fun e => { e with uses := [] })
      have hhead := (hxq q).trans (queue_of_head hH.head)
      have h := hu.finishHead q { e with uses := [] } (e.err || e.skip)
      rw [doneTask_modHead (by omega)] at h
      rw [Task.modHead_cons (by omega) hhead] at hu
      have hrun := execCopyGatherCommandComplete_finished (y := { e with uses := [] }) hH hq hst hfin
        (by rw [if_pos (by simpa using hcase)])
        (by rw [hu.task]; exact Task.queue_setQueue_same _ _ _) hst hfin
      rw [finishCopy_signals (e := { e with uses := [] }) hn (by rw [hu.task]; exact hxg ▸ hgecc) he] at hrun
      rw [if_pos hcase]
      exact ⟨_, hrun, HeadDone.of_taskIs hx h⟩
    · have hrun := execCopyGatherCommandComplete_finished hH hq hst hfin (by rw [if_neg (by simpa using hcase)])
        (queue_of_head hH.head) hst hfin
      rw [finishCopy_signals hn hgecc he] at hrun
      rw [if_neg hcase]
      exact ⟨_, hrun, HeadDone.of_taskIs (TaskIs.mine hH.task) ((TaskIs.mine hH.task).finishHead q e _)⟩
  case fill =>
    obtain ⟨hfr, hlog⟩ := hfree
    have hcons := queue_of_head hH.head
    have h0 : Filling s s s.sel.task q e 0 false (myTask s) := by
      refine ⟨TaskIs.mine hH.task, ⟨e.wait, e.walkFault, ?_⟩, rfl, fun _ => rfl, rfl, fun a => by rw [if_neg (by omega)]; rfl⟩
      rw [← hp, ← hfin]
      exact hcons
    obtain ⟨z, hz⟩ := h0.runs hc hfr hlog (by omega) hsp8 hrange hlow (e.cap.c.toNat - 0 + 1) (Nat.zero_le _) (by omega)
    have htotal : copyTotal e = e.cap.c.toNat := by rw [copyTotal, hc]
    obtain ⟨w, g, hhead⟩ := hz.head
    have hrun := execCopyGatherCommandComplete_copies hH (by omega) hst hfin (by rw [hc]; rfl) hcount
      (y := { e with progress := e.cap.c.toNat, finished := true, wait := w, walkFault := g }) (by rw [htotal, hp, hz.task.task]; exact hhead) hst rfl
    rw [htotal, hp, finishCopy_signals (e := { e with progress := e.cap.c.toNat, finished := true, wait := w, walkFault := g })
      (by simp [notifyAddr, hc]) (.inr hinv) (by simp [herr])] at hrun
    have h := hz.task.finishHead q { e with progress := e.cap.c.toNat, finished := true, wait := w, walkFault := g }
      (e.err || e.skip)
    refine ⟨_, hrun, h.outside, h.others, fun a => ?_, ?_, ?_⟩
    · rw [h.myTask, doneTask_eq]
      exact hz.bytes a
    · rw [h.myTask, doneTask, signalled_queue, Task.queue_setQueue_same, hhead]
      rfl
    · rw [h.myTask, doneTask, signalled_sem, Task.setQueue_sem, hz.sem, herr, hskip]
      have hsi : f.si.toNat ≠ 0 ↔ f.si ≠ 0 := not_congr (BitVec.toNat_inj (y := 0))
      simp only [hc, linkOf, ecLink, and_true, hsi]
      rfl

end Sys2Proof.Machine
end

section
/-!
PROOFS. Remote signals where two tasks of a launch stand at one position (R102, R238).
-/
namespace Sys2Proof.Machine
open Sys2Proof.Tests

/-- The tasks 3 and 1 of a launch, in this order, both at (0, 0) of its team; task 1 has the turn, and its g3 names
semaphore 255 of the peer window of (0, 0). The list of tasks is not in the order of its keys. -/
def twins : State :=
  let s := withStrand ws (fun x => { x with r := { x.r with g := SMap.set 0 x.r.g 3 (w64 (0x10000000000 + 0x7003FC)) } })
  { s with tasks := s.tasks.reverse }

theorem twins_runs : Runs twins ∧ Ready twins [3, 2] ∧ Clean twins [2] ∧ Clean twins [3] ∧ FreeLaunch twins ∧ Quiet twins
    ∧ buffersUsed (myTask twins) < 64 :=
  ⟨by constructor <;> decide, by unfold Ready; decide, by unfold Clean Sound; decide, by unfold Clean Sound; decide,
    by constructor <;> decide, by constructor <;> decide, by decide⟩

/-- As the instruction begins, the window of (0, 0) is task 3's, which comes first in the list. -/
theorem twins_peer : spadTarget twins twins.sel.task ((regs twins).gr (3 : Reg).toNat) = some (3, 0x7003FC)
    ∧ placeOf twins twins.sel.task (regs twins).her true (me twins).walkFault ((regs twins).gr (3 : Reg).toNat) 4 .write =
      .ok { home := .spad 3, addr := 0x7003FC } :=
  ⟨by decide +kernel, by decide +kernel⟩

/-- In its turn task 1 is put in its place in the order of keys, so the window becomes its own: no message leaves. -/
theorem twins_silent : after (.ssigRemote 3 2) twins (fun t => (SMap.find twins.nextMsg t.net).isNone) = true := by
  decide +kernel

/-- Refutes O21, in its clause on a semaphore of a peer: with two tasks of the launch at one position, kept in a list out of
the order of its keys, the address names the peer before the step and the own task within it, so the signal performs at once
and no request leaves. -/
theorem not_semaphoreResult : ¬ Obligations.SemaphoreResult := by
  unfold Obligations.SemaphoreResult
  rintro ⟨-, h⟩
  obtain ⟨hr, hready, ha, hd, hf, hq, hbuf⟩ := twins_runs
  obtain ⟨htarget, hplace⟩ := twins_peer
  obtain ⟨-, -, -, -, hpeer, -⟩ := h 3 2 0 twins hr hready ha hf hq
  obtain ⟨t, ht, hleaves, -⟩ := hpeer 3 0x7003FC _ (by decide) hd (by decide) htarget (by decide) hplace (by decide) hbuf
  obtain ⟨m, hm, -⟩ := hleaves.message
  have hnone := twins_silent
  unfold after at hnone
  rw [ht] at hnone
  simp only [hm, Option.isNone_some, Bool.false_eq_true] at hnone

end Sys2Proof.Machine
end

section
/-!
PROOFS. A vector push under an armed nest where the strand is listed twice (R13, R294, R392).
-/
namespace Sys2Proof.Machine
open Sys2Proof.Tests

/-- The VADD that `wv1` is armed for. -/
def nestAdd : V3 := { vd := 381, va := 1, vb := 2, et := 7 }

/-- `wv1` with a second record of its strand behind the first: 256 values on their way to it fill the load-value queue. A read
of the strand finds the first record; the room in the queue counts both. -/
def wtwice : State :=
  withTask wv1 (fun t => { t with
    strands := t.strands ++ [(wv1.sel.strand, { notReady := List.replicate 256 1 })] })

/-- What the VADD captures there. -/
def wtwiceCap : Captured :=
  vectorCaptured wtwice (operandG wtwice none) (operandG wtwice none) (formatTaken wtwice (.ternary nestAdd etS)) (some 1)

/-- A change of the strand leaves one record of it, so the strand runs once its arming is dropped. -/
theorem wtwice_runs : Runs (withStrand wtwice (fun x => { x with arming := none })) := by constructor <;> decide

theorem wtwice_pushOk : PushOk wtwice (.vadd nestAdd) (.ternary nestAdd etS) wtwiceCap :=
  ⟨fun e h => (nomatch (show (none : Option Word) = some e from h)), by decide, (by intro n h; cases h; decide),
    fun fn f h => (nomatch h), by decide⟩

/-- As it stands the strand may not issue, for want of room: the queue stays empty. -/
theorem wtwice_waits : after (.vadd nestAdd) wtwice (fun t => ((myTask t).queue 0).isEmpty) = true := by decide +kernel

/-- Refutes O24, in its clause on an armed nest: `Runs` is asked of the state whose strand is written anew without its
arming, and where the list of strands holds a second record of the strand, that write has removed it. Here the second record
fills the load-value queue, so the strand may not issue and no entry is pushed. -/
theorem not_vectorPush : ¬ Obligations.VectorPush := by
  unfold Obligations.VectorPush
  rintro ⟨h, -⟩
  obtain ⟨-, hnest⟩ := h (.vadd nestAdd) none none none (.ternary nestAdd etS) wtwice rfl rfl (by constructor <;> decide)
    (by unfold Ready; decide) (by unfold Clean Sound; decide)
  obtain ⟨t, ht, hret⟩ := hnest 1 0 (by decide) rfl wtwice_runs wtwice_pushOk
  have hwaits := wtwice_waits
  unfold after at hwaits
  rw [ht] at hwaits
  have hqueue := congrArg (fun x => (x.queue 0).isEmpty) hret.task
  have hpushed : ((myTask (counted (withPush (withStrand wtwice (fun x => { x with arming := none })) 0 (.vadd nestAdd)
      wtwiceCap))).queue 0).isEmpty = false := by decide +kernel
  exact absurd (hwaits.symm.trans (hqueue.trans hpushed)) (by decide)

end Sys2Proof.Machine
end

section
/-!
PROOFS. Laws of the vector engine: what a write of a register leaves, what a computing instruction writes, and how an entry
leaves the queue (R256, R259, R261, R265, R291, R293).
-/
namespace Sys2Proof.Machine

/-! ### Registers -/

theorem Task.vreg_setVreg (x : Task) (d v keep n : Nat) :
    (x.setVreg d v keep).vreg n = if n = d then v % 2 ^ 8192 else x.vreg n := by
  unfold Task.vreg Task.setVreg
  by_cases h : n = d
  · subst h
    rw [if_pos rfl, SMap.get_set_same]
    exact BitVec.toNat_ofNat v 8192
  · rw [SMap.get_set_other _ _ h, if_neg h]

theorem Task.mreg_setMreg (x : Task) (d v keep n : Nat) :
    (x.setMreg d v keep).mreg n = if n = d ∧ n ≠ 0 then v % 2 ^ 1024 else x.mreg n := by
  unfold Task.mreg Task.setMreg
  by_cases hd : d = 0
  · rw [if_pos hd, if_neg (show ¬ (n = d ∧ n ≠ 0) by omega)]
  · by_cases hn : n = 0
    · rw [if_pos hn, if_pos hn, if_neg (by omega)]
    · rw [if_neg hn, if_neg hn, if_neg hd]
      by_cases h : n = d
      · subst h
        rw [if_pos ⟨rfl, hn⟩, SMap.get_set_same]
        exact BitVec.toNat_ofNat v 1024
      · rw [SMap.get_set_other _ _ h, if_neg (by omega)]

@[simp] theorem Task.setVreg_mreg (x : Task) (d v keep n : Nat) : (x.setVreg d v keep).mreg n = x.mreg n := rfl

@[simp] theorem Task.setMreg_vreg (x : Task) (d v keep n : Nat) : (x.setMreg d v keep).vreg n = x.vreg n := by
  unfold Task.setMreg
  split <;> rfl

/-! ### What a computing instruction writes -/

def wroteVd (d : Nat) (o : VOut) (t : Task) : Task :=
  match o.vd with
  | some x => t.setVreg d x o.keep
  | none => t

def wroteVd1 (d : Nat) (o : VOut) (t : Task) : Task :=
  match o.vd1 with
  | some x => t.setVreg (d + 1) x
  | none => t

def wroteMask (i : Instr) (o : VOut) (t : Task) : Task :=
  match o.mask, maskDest i with
  | some x, some n => t.setMreg n x o.keepMask
  | _, _ => t

def wroteG (e : Entry) (o : VOut) (t : Task) : Task :=
  match o.g, gDest e.cmd with
  | some x, some r => giveG t e.strand r x
  | _, _ => t

/-- The flags of every element together. -/
def VOut.allFlags (o : VOut) : Nat := o.flags.foldl (fun a x => a ||| x) 0

def wroteFlags (k : Nat) (o : VOut) (t : Task) : Task :=
  if o.allFlags = 0 then t else raiseFlags t k .vstat o.allFlags

/-- The task once the registers of an entry that is neither a sweep nor under a nest are written. -/
def wroteRegs (e : Entry) (o : VOut) (t : Task) : Task :=
  let d := (v3Of e.cmd).1.vd.toNat
  wroteMask e.cmd o (wroteVd1 d o (wroteVd d o t))

/-- The task once all the results `o` of such an entry are written. -/
def computed (e : Entry) (o : VOut) (t : Task) : Task := wroteFlags e.strand o (wroteG e o (wroteRegs e o t))

theorem iterOperands_plain {e : Entry} (hs : ∀ fn f, e.cmd ≠ .vsweep fn f) (hn : e.cap.nest = none) (t : Task) (j : Nat) :
    iterOperands t e j =
      .regs (v3Of e.cmd).1.vd.toNat (v3Of e.cmd).1.va.toNat (v3Of e.cmd).1.vb.toNat := by
  unfold iterOperands
  split
  split
  · exact absurd ‹_› (hs _ _)
  · simp only [*]

theorem iterCount_plain {e : Entry} (hs : ∀ fn f, e.cmd ≠ .vsweep fn f) (hn : e.cap.nest = none) (t : Task) :
    iterCount t e = 1 := by
  unfold iterCount
  split
  · exact absurd ‹_› (hs _ _)
  · rw [hn]

section
variable {t : Task} {e : Entry} {o : VOut} (hs : ∀ fn f, e.cmd ≠ .vsweep fn f) (hn : e.cap.nest = none)
  (hc : vCompute e.cmd (entryCtx t e) (vectorReads t e) = .ok o)
  (ht : enabledTrap (e.cap.vctl.getLsbD 1) (e.cap.vctl.getLsbD 2) (firstFlag o.flags 0) (firstFlag o.flags 5) = none)
include hs hn hc ht

theorem iterate_plain (j : Nat) : iterate t e j = .ok (computed e o t) := by
  unfold vectorReads at hc
  unfold iterate
  simp only [iterOperands_plain hs hn, hc, ht]
  unfold computed wroteRegs wroteVd wroteVd1
  cases o.vd <;> cases o.vd1 <;> rfl

end

/-! ### Field by field -/

@[simp] theorem giveG_vec (t : Task) (k r : Nat) (v : Word) : (giveG t k r v).vec = t.vec := rfl

@[simp] theorem wroteG_vec (e : Entry) (o : VOut) (t : Task) : (wroteG e o t).vec = t.vec := by
  unfold wroteG
  split <;> rfl

/-- Flags change VSTAT, and of the registers nothing. -/
theorem wroteFlags_vec (k : Nat) (o : VOut) (t : Task) :
    (wroteFlags k o t).vec = { t.vec with vstat := t.vec.vstat ||| w64 o.allFlags } := by
  unfold wroteFlags
  split
  · rename_i h
    rw [h]
    simp [w64]
  · rfl

theorem wroteMask_vreg (i : Instr) (o : VOut) (t : Task) (n : Nat) : (wroteMask i o t).vreg n = t.vreg n := by
  unfold wroteMask
  split
  · exact Task.setMreg_vreg ..
  · rfl

theorem wroteMask_mreg (i : Instr) (o : VOut) (t : Task) (n : Nat) :
    (wroteMask i o t).mreg n = match (if maskDest i = some n ∧ n ≠ 0 then o.mask else none) with
      | some v => v % 2 ^ 1024
      | none => t.mreg n := by
  unfold wroteMask
  cases hm : o.mask with
  | none => simp
  | some v =>
    cases hd : maskDest i with
    | none => simp
    | some d =>
      simp only [Option.some.injEq, eq_comm (a := d), Task.mreg_setMreg]
      split <;> rfl

theorem wroteMask_vstat (i : Instr) (o : VOut) (t : Task) : (wroteMask i o t).vec.vstat = t.vec.vstat := by
  unfold wroteMask Task.setMreg
  split
  · split <;> rfl
  · rfl

theorem wroteVd_mreg (d : Nat) (o : VOut) (t : Task) (n : Nat) : (wroteVd1 d o (wroteVd d o t)).mreg n = t.mreg n := by
  unfold wroteVd1 wroteVd
  cases o.vd <;> cases o.vd1 <;> rfl

theorem wroteVd_vstat (d : Nat) (o : VOut) (t : Task) : (wroteVd1 d o (wroteVd d o t)).vec.vstat = t.vec.vstat := by
  unfold wroteVd1 wroteVd
  cases o.vd <;> cases o.vd1 <;> rfl

theorem wroteVd_vreg (d : Nat) (o : VOut) (t : Task) (n : Nat) :
    (wroteVd1 d o (wroteVd d o t)).vreg n =
      match (if n = d then o.vd else if n = d + 1 then o.vd1 else none) with
      | some v => v % 2 ^ 8192
      | none => t.vreg n := by
  unfold wroteVd1 wroteVd
  by_cases h : n = d
  · subst h
    cases o.vd <;> cases o.vd1 <;> simp [Task.vreg_setVreg]
  · by_cases h1 : n = d + 1
    · subst h1
      cases o.vd <;> cases o.vd1 <;> simp [Task.vreg_setVreg]
    · cases o.vd <;> cases o.vd1 <;> simp [Task.vreg_setVreg, h, h1]

theorem wroteRegs_vreg (e : Entry) (o : VOut) (t : Task) (n : Nat) :
    (wroteRegs e o t).vreg n =
      match (if n = (v3Of e.cmd).1.vd.toNat then o.vd else if n = (v3Of e.cmd).1.vd.toNat + 1 then o.vd1 else none) with
      | some v => v % 2 ^ 8192
      | none => t.vreg n := (wroteMask_vreg ..).trans (wroteVd_vreg ..)

theorem wroteRegs_mreg (e : Entry) (o : VOut) (t : Task) (n : Nat) :
    (wroteRegs e o t).mreg n = match (if maskDest e.cmd = some n ∧ n ≠ 0 then o.mask else none) with
      | some v => v % 2 ^ 1024
      | none => t.mreg n :=
  (wroteMask_mreg ..).trans (by rw [wroteVd_mreg])

theorem wroteRegs_vstat (e : Entry) (o : VOut) (t : Task) : (wroteRegs e o t).vec.vstat = t.vec.vstat :=
  (wroteMask_vstat ..).trans (wroteVd_vstat ..)

theorem wroteMask_eq (i : Instr) (o : VOut) (t : Task) : wroteMask i o t = { t with vec := (wroteMask i o t).vec } := by
  unfold wroteMask Task.setMreg
  split
  · split <;> rfl
  · rfl

theorem wroteRegs_eq (e : Entry) (o : VOut) (t : Task) : wroteRegs e o t = { t with vec := (wroteRegs e o t).vec } := by
  unfold wroteRegs
  rw [wroteMask_eq]
  unfold wroteVd1 wroteVd
  cases o.vd <;> cases o.vd1 <;> rfl

theorem computed_vec (e : Entry) (o : VOut) (t : Task) : (computed e o t).vec =
    { (wroteRegs e o t).vec with vstat := (wroteRegs e o t).vec.vstat ||| w64 o.allFlags } := by
  unfold computed
  rw [wroteFlags_vec, wroteG_vec]

theorem computed_vreg (e : Entry) (o : VOut) (t : Task) (n : Nat) :
    (computed e o t).vreg n = (wroteRegs e o t).vreg n := by
  unfold Task.vreg
  rw [computed_vec]

theorem computed_mreg (e : Entry) (o : VOut) (t : Task) (n : Nat) :
    (computed e o t).mreg n = (wroteRegs e o t).mreg n := by
  unfold Task.mreg
  rw [computed_vec]

theorem computed_vstat (e : Entry) (o : VOut) (t : Task) :
    (computed e o t).vec.vstat = t.vec.vstat ||| w64 o.allFlags := by
  rw [computed_vec, wroteRegs_vstat]

/-- A computing instruction touches registers, flags, the pushing strand, its own queue, and what waits for the guard. -/
theorem computed_eq (e : Entry) (o : VOut) (t : Task) :
    computed e o t = { t with vec := (computed e o t).vec, strands := (computed e o t).strands,
                              queues := (computed e o t).queues, lvq := (computed e o t).lvq } := by
  have hg : ∀ y, wroteG e o y = { y with strands := (wroteG e o y).strands, queues := (wroteG e o y).queues,
                                         lvq := (wroteG e o y).lvq } := by
    intro y
    unfold wroteG
    split <;> rfl
  have hflags : ∀ y, wroteFlags e.strand o y = { y with vec := (wroteFlags e.strand o y).vec,
                                                        strands := (wroteFlags e.strand o y).strands } := by
    intro y
    unfold wroteFlags
    split <;> rfl
  unfold computed
  rw [hflags, hg, wroteRegs_eq]

/-! ### What the pushing strand and the queue see -/

/-- A value for a g register changes, of the queue of the engine, what its entries would restore (R260). -/
theorem giveG_serials (t : Task) (k r : Nat) (v : Word) :
    ((giveG t k r v).queue 0).map (·.serial) = (t.queue 0).map (·.serial) := by
  unfold giveG Task.deliver
  rw [Task.queue_setQueue_same, List.map_map]
  refine List.map_congr_left fun e _ => ?_
  dsimp only [Function.comp_apply]
  split <;> rfl

theorem giveG_queue_other (t : Task) {q : Nat} (h : q ≠ 0) (k r : Nat) (v : Word) :
    (giveG t k r v).queue q = t.queue q := Task.queue_setQueue_other _ h _

theorem giveG_strand (t : Task) (k r : Nat) (v : Word) :
    ((giveG t k r v).strand k).r = (t.strand k).r.setG r v
      ∧ ((giveG t k r v).strand k).notReady = (t.strand k).notReady.erase r := by
  have h : (giveG t k r v).strand k = (t.modStrand k (fun x => { x with
      r := x.r.setG r v, notReady := x.notReady.erase r, sync := x.sync.deliver r (fun y => y.setG r v) })).strand k := rfl
  rw [h, Task.strand_modStrand_same]
  exact ⟨rfl, rfl⟩

theorem wroteFlags_strand (k : Nat) (o : VOut) (t : Task) (j : Nat) :
    ((wroteFlags k o t).strand j).r = (t.strand j).r ∧ ((wroteFlags k o t).strand j).notReady = (t.strand j).notReady := by
  unfold wroteFlags
  split
  · exact ⟨rfl, rfl⟩
  · unfold raiseFlags
    by_cases h : j = k
    · subst h
      rw [Task.strand_modStrand_same]
      exact ⟨rfl, rfl⟩
    · rw [Task.strand_modStrand_other _ h]
      exact ⟨rfl, rfl⟩

theorem wroteFlags_queue (k : Nat) (o : VOut) (t : Task) (q : Nat) : (wroteFlags k o t).queue q = t.queue q := by
  unfold wroteFlags
  split <;> rfl

theorem wroteRegs_queue (e : Entry) (o : VOut) (t : Task) (q : Nat) : (wroteRegs e o t).queue q = t.queue q := by
  rw [wroteRegs_eq]
  rfl

theorem wroteRegs_strand (e : Entry) (o : VOut) (t : Task) (k : Nat) : (wroteRegs e o t).strand k = t.strand k := by
  rw [wroteRegs_eq]
  rfl

/-- Without a g destination the entries of every queue are as they were. -/
theorem computed_queue {e : Entry} (o : VOut) (t : Task) {q : Nat} (h : q ≠ 0 ∨ gDest e.cmd = none) :
    (computed e o t).queue q = t.queue q := by
  rw [computed, wroteFlags_queue, ← wroteRegs_queue e o t]
  unfold wroteG
  split
  · rename_i hg
    exact giveG_queue_other _ (h.resolve_right (by rw [hg]; exact Option.some_ne_none _)) _ _ _
  · rfl

theorem computed_serials (e : Entry) (o : VOut) (t : Task) :
    ((computed e o t).queue 0).map (·.serial) = (t.queue 0).map (·.serial) := by
  rw [computed, wroteFlags_queue, ← wroteRegs_queue e o t]
  unfold wroteG
  split
  · exact giveG_serials ..
  · rfl

/-- A g destination takes its value, and the strand waits for it no longer (R259). -/
theorem computed_strand {e : Entry} {o : VOut} {r : Nat} {v : Word} (hr : gDest e.cmd = some r) (hv : o.g = some v)
    (t : Task) :
    ((computed e o t).strand e.strand).r = (t.strand e.strand).r.setG r v
      ∧ ((computed e o t).strand e.strand).notReady = (t.strand e.strand).notReady.erase r := by
  have hg : wroteG e o (wroteRegs e o t) = giveG (wroteRegs e o t) e.strand r v := by
    unfold wroteG
    rw [hr, hv]
  obtain ⟨h1, h2⟩ := wroteFlags_strand e.strand o (wroteG e o (wroteRegs e o t)) e.strand
  obtain ⟨h3, h4⟩ := giveG_strand (wroteRegs e o t) e.strand r v
  rw [wroteRegs_strand] at h3 h4
  rw [hg] at h1 h2
  exact ⟨by rw [computed, hg, h1, h3], by rw [computed, hg, h2, h4]⟩

/-! ### Leaving the queue (R179, R243) -/

/-- A strand once entries have completed: the last REPLAY at the instruction of one of them is over. -/
def replayOver (done : List Entry) (k : Nat) (z : Strand) : Strand :=
  { z with lastReplay :=
      if done.any (fun e => e.strand == k && (z.lastReplay.map (·.2)) == some e.pc) then none else z.lastReplay }

/-- The task once the entry with a serial number has left the queue of the engine. -/
def leftQueue (serial : Nat) (x : Task) : Task :=
  let y := x.setQueue 0 ((x.queue 0).filter (fun e => e.serial != serial))
  let done := (x.queue 0).filter (fun e => e.serial == serial)
  Task.wake { y with strands := y.strands.map (fun e => (e.1, replayOver done e.1 e.2)) }

theorem dropEntry_eq (s : State) (t serial : Nat) : dropEntry s t serial = s.modTask t (leftQueue serial) := rfl

theorem leftQueue_eq (serial : Nat) (x : Task) : leftQueue serial x =
    { x with queues := (leftQueue serial x).queues, strands := (leftQueue serial x).strands } := rfl

@[simp] theorem leftQueue_vec (serial : Nat) (x : Task) : (leftQueue serial x).vec = x.vec := rfl

theorem leftQueue_queue (serial : Nat) (x : Task) (q : Nat) : (leftQueue serial x).queue q =
    if q = 0 then (x.queue 0).filter (fun e => e.serial != serial) else x.queue q := Task.queue_setQueue x 0 q _

theorem leftQueue_strand (serial : Nat) (x : Task) (k : Nat) : ((leftQueue serial x).strand k).r = (x.strand k).r
    ∧ ((leftQueue serial x).strand k).notReady = (x.strand k).notReady := by
  unfold leftQueue
  rw [Task.wake_strand]
  unfold Task.strand
  rw [SMap.find_map k (replayOver ((x.queue 0).filter (fun e => e.serial == serial)))]
  rw [Task.setQueue_strands]
  cases SMap.find k x.strands <;> exact ⟨rfl, rfl⟩

end Sys2Proof.Machine
end

section
/-!
PROOFS. The step of the vector engine in a free launch: which way it goes, and what a computing instruction leaves (R249, R265).
-/
namespace Sys2Proof.Machine

/-! ### The step of the engine in a free launch -/

/-- The register records, written back as they are. -/
def sameRecords (s : State) : State :=
  s.modTask s.sel.task (fun y => { y with recs := { y.recs with regs := (myTask s).recs.regs } })

theorem TaskIs.sameRecords {s : State} (h : s.hasTask s.sel.task = true) :
    TaskIs s (Machine.sameRecords s) s.sel.task (Machine.myTask s) := (TaskIs.mine h).modTask _

section
variable {s : State} {e : Entry} (h : NextVector s e)
include h

theorem execVeExecute_bad (hb : readsBad (myTask s) e = true) :
    exec .veExecute s = .next (startTrap s s.sel.task e { cause := 19 } e.progress) := by
  obtain ⟨hT, hmay, hfree, hnext⟩ := h
  unfold myTask myLaunch at *
  simp only [exec, execVeExecute, hT, hmay, hnext, hfree, hb, Bool.not_true, Bool.or_self, Bool.false_and,
    Bool.false_eq_true, if_false, if_true]

theorem execVeExecute_popv {f : V3} (hb : readsBad (myTask s) e = false) (hc : e.cmd = .popv f) :
    exec .veExecute s = .next (runPopv (sameRecords s) s.sel.task e f) := by
  obtain ⟨hT, hmay, hfree, hnext⟩ := h
  unfold sameRecords
  unfold myTask myLaunch at *
  simp only [exec, execVeExecute, hT, hmay, hnext, hfree, hb, hc, Bool.not_true, Bool.or_self, Bool.false_and,
    Bool.false_eq_true, if_false]

/-- A level of a nest register written (R293). -/
def nestWritten (n : Nat) (v level : Word) (y : Task) : Task :=
  { y with vec := { y.vec with
      n := SMap.set 0 y.vec.n n (BitVec.ofNat 256 (nestSet (SMap.get 0 y.vec.n n).toNat v.toNat level.toNat)),
      bad := dropBad y.vec.bad (0x210 + n) (if level = 5 then 0 else 2 ^ 256 - 1 - fieldSet 48 [level.toNat]) } }

theorem execVeExecute_vnset {f : V3} (hb : readsBad (myTask s) e = false) (hc : e.cmd = .vnset f) :
    exec .veExecute s = .next (dropEntry
      ((sameRecords s).modTask s.sel.task (nestWritten (f.vd.toNat % 8) e.cap.a e.cap.b)) s.sel.task e.serial) := by
  obtain ⟨hT, hmay, hfree, hnext⟩ := h
  unfold sameRecords nestWritten
  unfold myTask myLaunch at *
  simp only [exec, execVeExecute, hT, hmay, hnext, hfree, hb, hc, Bool.not_true, Bool.or_self, Bool.false_and,
    Bool.false_eq_true, if_false]

/-- An instruction that computes runs, whatever its iterations come to. -/
theorem execVeExecute_runs (hb : readsBad (myTask s) e = false) (hp : ∀ f, e.cmd ≠ .popv f) (hv : ∀ f, e.cmd ≠ .vnset f)
    (hm : vmOf e.cmd = none)
    (hz : ((runVector (sameRecords s) s.sel.task e).task s.sel.task).freeze = (myTask s).freeze) :
    exec .veExecute s = .next (runVector (sameRecords s) s.sel.task e) := by
  obtain ⟨hT, hmay, hfree, hnext⟩ := id h
  have hkept : ¬ ((((sameRecords s).task s.sel.task).freeze !=
      ((runVector (sameRecords s) s.sel.task e).task s.sel.task).freeze) = true) := by
    rw [hz, (TaskIs.sameRecords hT).task, bne_self_eq_false]
    exact Bool.false_ne_true
  unfold myTask myLaunch at *
  simp only [exec, execVeExecute, hT, hmay, hnext, hfree, hb, hm, Bool.not_true, Bool.or_self, Bool.false_and,
    Bool.false_eq_true, if_false, Option.isSome_none]
  exact congrArg Host.Outcome.next (if_neg hkept)

end

/-- The vector instructions that enter the queue with g operands access no memory. -/
theorem vmOf_of_vectorTable {i : Instr} (h : vectorTable i ≠ none) : vmOf i = none := by
  unfold vmOf
  split
  case h_7 => rfl
  all_goals exact absurd rfl h

/-- The vector engine has computed `o` for the entry `e`: its registers are written, and it has left the queue. -/
def Computed (s t : State) (e : Entry) (o : VOut) : Prop :=
  TaskIs s t s.sel.task (leftQueue e.serial (computed e o (myTask s)))

/-- A computing instruction that is neither a sweep nor under a nest executes whole, once (R265). -/
theorem veExecute_computes {s : State} {e : Entry} {o : VOut} (h : NextVector s e) (hv : vectorTable e.cmd ≠ none)
    (hb : readsBad (myTask s) e = false) (hp : ∀ f, e.cmd ≠ .popv f) (hn : ∀ f, e.cmd ≠ .vnset f)
    (hs : ∀ fn f, e.cmd ≠ .vsweep fn f) (hnest : e.cap.nest = none) (h0 : e.progress = 0)
    (hc : vCompute e.cmd (entryCtx (myTask s) e) (vectorReads (myTask s) e) = .ok o)
    (ht : enabledTrap (e.cap.vctl.getLsbD 1) (e.cap.vctl.getLsbD 2) (firstFlag o.flags 0) (firstFlag o.flags 5) = none) :
    ∃ t, exec .veExecute s = .next t ∧ Computed s t e o := by
  have hu := TaskIs.sameRecords h.task
  have hit : iterations e 1 0 (myTask s) = (computed e o (myTask s), none) := by
    simp only [iterations, iterate_plain hs hnest hc ht]
  have hrun : runVector (sameRecords s) s.sel.task e =
      dropEntry ((sameRecords s).modTask s.sel.task (fun _ => computed e o (myTask s))) s.sel.task e.serial := by
    unfold runVector
    simp only [hu.task, iterCount_plain hs hnest, h0, Nat.sub_zero, hit]
  have hdone : TaskIs s (runVector (sameRecords s) s.sel.task e) s.sel.task
      (leftQueue e.serial (computed e o (myTask s))) := by
    rw [hrun, dropEntry_eq]
    exact (hu.modTask _).modTask _
  refine ⟨_, execVeExecute_runs h hb hp hn (vmOf_of_vectorTable hv) ?_, hdone⟩
  rw [hdone.task, leftQueue_eq, computed_eq]

section
variable {s t : State} {e : Entry} {o : VOut} (h : Computed s t e o)
include h

theorem Computed.memoryKept : MemoryKept s t := by
  refine TaskIs.memoryKept h ?_ ?_ <;> rw [leftQueue_eq, computed_eq] <;> rfl

theorem Computed.vreg (n : Nat) : (myTask t).vreg n = (wroteRegs e o (myTask s)).vreg n := by
  rw [TaskIs.myTask h, ← computed_vreg]
  rfl

theorem Computed.mreg (n : Nat) : (myTask t).mreg n = (wroteRegs e o (myTask s)).mreg n := by
  rw [TaskIs.myTask h, ← computed_mreg]
  rfl

theorem Computed.vstat : (myTask t).vec.vstat = (myTask s).vec.vstat ||| w64 o.allFlags := by
  rw [TaskIs.myTask h, leftQueue_vec, computed_vstat]

theorem Computed.queue {q : Nat} (hq : q ≠ 0) : (myTask t).queue q = (myTask s).queue q := by
  rw [TaskIs.myTask h, leftQueue_queue, if_neg hq, computed_queue o _ (.inl hq)]

theorem Computed.serials : ((myTask t).queue 0).map (·.serial) =
    (((myTask s).queue 0).map (·.serial)).filter (fun n => n != e.serial) := by
  rw [TaskIs.myTask h, leftQueue_queue, if_pos rfl, ← computed_serials e o, List.filter_map]
  rfl

theorem Computed.left (hg : gDest e.cmd = none) :
    (myTask t).queue 0 = ((myTask s).queue 0).filter (fun y => y.serial != e.serial) := by
  rw [TaskIs.myTask h, leftQueue_queue, if_pos rfl, computed_queue o _ (.inr hg)]

theorem Computed.gives {r : Nat} {v : Word} (hr : gDest e.cmd = some r) (hv : o.g = some v) :
    ((myTask t).strand e.strand).r.gr r = (if r = 0 then 0 else v)
      ∧ ((myTask t).strand e.strand).notReady = ((myTask s).strand e.strand).notReady.erase r := by
  obtain ⟨h1, h2⟩ := leftQueue_strand e.serial (computed e o (myTask s)) e.strand
  obtain ⟨h3, h4⟩ := computed_strand hr hv (myTask s)
  rw [TaskIs.myTask h, h1, h2, h3, h4, StrandRegs.gr_setG]
  refine ⟨?_, rfl⟩
  by_cases h0 : r = 0
  · subst h0; rfl
  · rw [if_pos ⟨rfl, h0⟩, if_neg h0]

end

end Sys2Proof.Machine
end

section
/-!
PROOFS. A trap of the vector engine: what it leaves of the task (R174, R260, R261).
-/
namespace Sys2Proof.Machine

/-! ### A trap of the engine (R174, R260, R261) -/

/-- No action touches the registers of the vector engine. -/
theorem applyAction_vec {s : State} {t : Nat} (h : s.hasTask t = true) (k : Nat) (tr : Trap) (tpc : Word) (a : Nat) :
    ((applyAction s t k none tr tpc a).task t).vec = (s.task t).vec := by
  unfold applyAction
  dsimp only
  split
  · rw [killTask_task h]
  · have hnote : (noteReplay s t k none tr tpc).task t =
        (s.task t).modStrand k (fun x => { x with lastReplay := some (tr.cause, tpc) }) := State.task_modTask_same h _
    rw [State.task_modTask_same (by unfold noteReplay; simpa using h), hnote]
    rfl
  · split
    · rw [State.task_modTask_same h]
    · rw [(raiseEvent_core _ _ _).task, State.task_modTask_same h]
  · rw [startHandler_task h]
    rfl

theorem decideAction_vec {s : State} {t : Nat} (h : s.hasTask t = true) {a : HeldAction} (hq : a.queue = none) :
    ((decideAction s t a).task t).vec = (s.task t).vec := by
  unfold decideAction
  simp only [hq]
  split
  · have hc := slog_core s (s.task t).die (s.task t).launch 6 (s.task t).lcore ((s.task t).core?.getD 0)
      (a.trap.cause + 2 ^ 8 * a.action)
    rw [applyAction_vec (by rw [hc.hasTask]; exact h), hc.task]
  · rw [(raiseEvent_core _ _ _).task, State.task_modTask_same h]

theorem applyAction_hasTask (s : State) (t k : Nat) (tr : Trap) (tpc : Word) (a j : Nat) :
    (applyAction s t k none tr tpc a).hasTask j = s.hasTask j := by
  unfold applyAction
  dsimp only
  split
  · exact State.hasTask_modTask ..
  · unfold noteReplay
    rw [State.hasTask_modTask]
    exact State.hasTask_modStrand ..
  · split
    · exact State.hasTask_modTask ..
    · rw [(raiseEvent_core _ _ _).hasTask, State.hasTask_modTask]
  · unfold startHandler
    rw [State.hasTask_modTask]
    exact State.hasTask_modStrand ..

theorem decideAction_hasTask (s : State) (t : Nat) {a : HeldAction} (hq : a.queue = none) (j : Nat) :
    (decideAction s t a).hasTask j = s.hasTask j := by
  unfold decideAction
  simp only [hq]
  split
  · rw [applyAction_hasTask, (slog_core _ _ _ _ _ _ _).hasTask]
  · rw [(raiseEvent_core _ _ _).hasTask, State.hasTask_modTask]

/-- What a strand-origin trap leaves, whatever its action. -/
theorem takeTrap_leaves {s : State} {t : Nat} (h : s.hasTask t = true) (k : Nat) (tr : Trap) (tpc : Word) (ilen : Nat)
    (extra : List Byte) :
    let u := takeTrap s t k none tr tpc ilen extra
    u.sel = s.sel ∧ u.hasTask t = true ∧ (u.task t).vec = (s.task t).vec
      ∧ (u.task t).trap.tcause = tcauseOf tr none ilen ∧ (u.task t).trap.tval = tr.tval ∧ (u.task t).trap.tpc = tpc := by
  intro u
  obtain ⟨v, bs, hv, he⟩ := takeTrap_strand s t k tr tpc ilen extra
  have hT : (trapped s t k tr tpc ilen bs).hasTask t = true := by simpa [trapped] using h
  have hvT : v.hasTask t = true := by rw [hv.hasTask]; exact hT
  have hvec : ((trapped s t k tr tpc ilen bs).task t).vec = (s.task t).vec := by
    unfold trapped State.modStrand
    rw [State.modTask_modTask, State.modTask_modTask, State.modTask_modTask, State.task_modTask_same h]
    rfl
  have htrap : (u.task t).trap = ((trapped s t k tr tpc ilen bs).task t).trap := by
    show ((takeTrap s t k none tr tpc ilen extra).task t).trap = _
    rw [he, decideAction_trap hvT rfl, hv.task]
  rw [trapped_task h] at htrap
  refine ⟨?_, ?_, ?_, by rw [htrap], by rw [htrap], by rw [htrap]⟩
  · show (takeTrap s t k none tr tpc ilen extra).sel = _
    rw [he, decideAction_sel _ _ rfl, hv.sel]
    rfl
  · show (takeTrap s t k none tr tpc ilen extra).hasTask t = true
    rw [he, decideAction_hasTask _ _ rfl, hvT]
  · show ((takeTrap s t k none tr tpc ilen extra).task t).vec = _
    rw [he, decideAction_vec hvT rfl, hv.task, hvec]

/-- The strand of a vector instruction that traps, as it was before the instruction: what `vectorTrap` restores. -/
theorem vectorTrap_leaves {s : State} {t : Nat} (h : s.hasTask t = true) (e : Entry) (tr : Trap) (k : Nat) :
    let u := vectorTrap s t e tr k
    u.sel = s.sel ∧ (u.task t).vec = (s.task t).vec ∧ (u.task t).trap.tcause = tcauseOf tr none (parcels e.cmd)
      ∧ (u.task t).trap.tval = tr.tval ∧ (u.task t).trap.tpc = e.pc := by
  unfold vectorTrap
  extract_lets sweep arm s1 s2 s3 u
  have h1 : s1.hasTask t = true := (State.hasTask_modTask ..).trans h
  have hv1 : (s1.task t).vec = (s.task t).vec := by
    rw [show s1.task t = _ from State.task_modTask_same h _]
    cases e.cap.before with
    | none => rfl
    | some p => rfl
  have h2 : s2.hasTask t = true := (State.hasTask_modTask ..).trans h1
  have hv2 : (s2.task t).vec = (s1.task t).vec := by
    rw [show s2.task t = _ from State.task_modTask_same h1 _]
    rfl
  obtain ⟨hsel, h3, hv3, hcause, htval, htpc⟩ := takeTrap_leaves (s := s2.modTask t _)
    ((State.hasTask_modTask ..).trans h2) e.strand tr e.pc (parcels e.cmd) []
  have hu : u.task t = _ := State.task_modTask_same h3 _
  rw [hu]
  refine ⟨hsel, (hv3.trans ?_).trans (hv2.trans hv1), hcause, htval, htpc⟩
  rw [State.task_modTask_same h2]
  rfl

end Sys2Proof.Machine
end

section
/-!
PROOFS. Fields of numbers: packed side by side, and one of them replaced.
-/
namespace Sys2Proof.Machine

theorem parcels_lt (i : Instr) : parcels i < 8 := by
  cases i <;> exact of_decide_eq_true rfl

/-! ### Fields packed side by side -/

theorem packBits_lt {w : Nat} : ∀ {l : List Nat}, (∀ x ∈ l, x < 2 ^ w) → packBits w l < 2 ^ (w * l.length)
  | [], _ => by simp [packBits]
  | x :: r, h => by
    have hx := h x List.mem_cons_self
    have hr := packBits_lt (fun y hy => h y (List.mem_cons_of_mem _ hy))
    have hmul : 2 ^ w * (packBits w r + 1) ≤ 2 ^ w * 2 ^ (w * r.length) := Nat.mul_le_mul_left _ hr
    rw [packBits, List.length_cons, Nat.mul_succ, Nat.add_comm (w * r.length), Nat.pow_add]
    rw [Nat.mul_add] at hmul
    omega

/-- Field k of packed fields. -/
theorem packBits_field {w : Nat} : ∀ {l : List Nat}, (∀ x ∈ l, x < 2 ^ w) → ∀ k : Nat,
    packBits w l / 2 ^ (w * k) % 2 ^ w = l.getD k 0
  | [], _, k => by simp [packBits]
  | x :: r, h, 0 => by
    rw [Nat.mul_zero, Nat.pow_zero, Nat.div_one, packBits, Nat.add_mul_mod_self_left,
      Nat.mod_eq_of_lt (h x List.mem_cons_self)]
    rfl
  | x :: r, h, k + 1 => by
    have hx := h x List.mem_cons_self
    rw [Nat.mul_succ, Nat.add_comm (w * k), Nat.pow_add, ← Nat.div_div_eq_div_mul, packBits,
      Nat.add_mul_div_left _ _ (Nat.two_pow_pos w), Nat.div_eq_of_lt hx, Nat.zero_add,
      packBits_field (fun y hy => h y (List.mem_cons_of_mem _ hy)) k]
    rfl

/-- Packed fields that fit a register are not cut. -/
theorem packBits_mod {w m : Nat} {l : List Nat} (h : ∀ x ∈ l, x < 2 ^ w) (hm : w * l.length ≤ m) :
    packBits w l % 2 ^ m = packBits w l :=
  Nat.mod_eq_of_lt (Nat.lt_of_lt_of_le (packBits_lt h) (Nat.pow_le_pow_right Nat.two_pos hm))

/-- A number with field b of `w` bits replaced. -/
def replaceField (w old b v : Nat) : Nat := old - old / 2 ^ (w * b) % 2 ^ w * 2 ^ (w * b) + v * 2 ^ (w * b)

/-- A number is what lies above a field, the field, and what lies below. -/
theorem split_field (w old b : Nat) :
    old = (old / 2 ^ (w * (b + 1)) * 2 ^ w + old / 2 ^ (w * b) % 2 ^ w) * 2 ^ (w * b) + old % 2 ^ (w * b) := by
  have h1 : old / 2 ^ (w * (b + 1)) = old / 2 ^ (w * b) / 2 ^ w := by
    rw [Nat.mul_succ, Nat.pow_add, Nat.div_div_eq_div_mul]
  rw [h1, Nat.div_add_mod', Nat.div_add_mod']

theorem replaceField_eq (w old b v : Nat) : replaceField w old b v =
    (old / 2 ^ (w * (b + 1)) * 2 ^ w + v) * 2 ^ (w * b) + old % 2 ^ (w * b) := by
  have h := split_field w old b
  unfold replaceField
  rw [Nat.add_mul] at h ⊢
  omega

theorem field_replaceField {w v : Nat} (hv : v < 2 ^ w) (old b l : Nat) :
    replaceField w old b v / 2 ^ (w * l) % 2 ^ w = if l = b then v else old / 2 ^ (w * l) % 2 ^ w := by
  have hlow : old % 2 ^ (w * b) < 2 ^ (w * b) := Nat.mod_lt _ (Nat.two_pow_pos _)
  have hdiv : replaceField w old b v / 2 ^ (w * b) = old / 2 ^ (w * (b + 1)) * 2 ^ w + v := by
    rw [replaceField_eq, Nat.mul_comm, Nat.mul_add_div (Nat.two_pow_pos _), Nat.div_eq_of_lt hlow, Nat.add_zero]
  rcases Nat.lt_trichotomy l b with h | h | h
  · rw [if_neg (Nat.ne_of_lt h)]
    have hmod : replaceField w old b v % 2 ^ (w * b) = old % 2 ^ (w * b) := by
      rw [replaceField_eq, Nat.mul_comm, Nat.mul_add_mod, Nat.mod_mod]
    have hdvd : 2 ^ (w * l) * 2 ^ w ∣ 2 ^ (w * b) := by
      rw [← Nat.pow_add, ← Nat.mul_succ]
      exact Nat.pow_dvd_pow 2 (Nat.mul_le_mul_left w h)
    rw [← Nat.mod_mul_right_div_self, ← Nat.mod_mul_right_div_self, ← Nat.mod_mod_of_dvd _ hdvd, hmod,
      Nat.mod_mod_of_dvd _ hdvd]
  · subst h
    rw [if_pos rfl, hdiv, Nat.mul_comm, Nat.mul_add_mod, Nat.mod_eq_of_lt hv]
  · rw [if_neg (Nat.ne_of_gt h)]
    obtain ⟨d, rfl⟩ : ∃ d, l = b + 1 + d := ⟨l - (b + 1), by omega⟩
    have hup : replaceField w old b v / 2 ^ (w * (b + 1)) = old / 2 ^ (w * (b + 1)) := by
      rw [Nat.mul_succ, Nat.pow_add, ← Nat.div_div_eq_div_mul, hdiv, Nat.mul_succ, Nat.pow_add, Nat.mul_comm,
        Nat.mul_add_div (Nat.two_pow_pos _), Nat.div_eq_of_lt hv, Nat.add_zero]
    rw [Nat.mul_add w (b + 1), Nat.pow_add, ← Nat.div_div_eq_div_mul, ← Nat.div_div_eq_div_mul, hup]

/-- A field replaced within `m` bits leaves a number of `m` bits. -/
theorem replaceField_lt {w m old b v : Nat} (hold : old < 2 ^ m) (hv : v < 2 ^ w) (hm : w * (b + 1) ≤ m) :
    replaceField w old b v < 2 ^ m := by
  obtain ⟨d, rfl⟩ : ∃ d, m = w * (b + 1) + d := ⟨m - w * (b + 1), by omega⟩
  have hhigh : old / 2 ^ (w * (b + 1)) < 2 ^ d := by
    rw [Nat.div_lt_iff_lt_mul (Nat.two_pow_pos _), Nat.mul_comm, ← Nat.pow_add]
    exact hold
  have hlow : old % 2 ^ (w * b) < 2 ^ (w * b) := Nat.mod_lt _ (Nat.two_pow_pos _)
  have h1 : old / 2 ^ (w * (b + 1)) * 2 ^ w + v + 1 ≤ 2 ^ d * 2 ^ w := by
    have : (old / 2 ^ (w * (b + 1)) + 1) * 2 ^ w ≤ 2 ^ d * 2 ^ w := Nat.mul_le_mul_right _ hhigh
    rw [Nat.add_mul] at this
    omega
  have h2 := Nat.mul_le_mul_right (2 ^ (w * b)) h1
  rw [Nat.mul_assoc, ← Nat.pow_add, ← Nat.pow_add, Nat.add_comm w, ← Nat.mul_succ, Nat.add_comm d] at h2
  change _ ≤ 2 ^ (w * (b + 1) + d) at h2
  rw [replaceField_eq]
  rw [Nat.add_mul _ 1] at h2
  omega

end Sys2Proof.Machine
end

section
/-!
PROOFS. The vector engine at a bad register, at VNSET and at POPV (R261, R291, R293).
-/
namespace Sys2Proof.Machine

/-! ### A register with an uncorrectable error (R261) -/

theorem veExecute_bad {s : State} {e : Entry} (h : NextVector s e) (hb : readsBad (myTask s) e = true)
    (hl : behindLoad s s.sel.task e = false) :
    ∃ t, exec .veExecute s = .next t ∧ (myTask t).trap.tcause = w64 (19 + 2 ^ 13 * parcels e.cmd)
      ∧ (myTask t).trap.tval = 0 ∧ (myTask t).trap.tpc = e.pc ∧ (myTask t).vec.v = (myTask s).vec.v := by
  obtain ⟨hsel, hvec, hcause, htval, htpc⟩ := vectorTrap_leaves h.task e { cause := 19 } e.progress
  have hm : myTask (vectorTrap s s.sel.task e { cause := 19 } e.progress) =
      (vectorTrap s s.sel.task e { cause := 19 } e.progress).task s.sel.task := by
    unfold myTask
    rw [hsel]
  refine ⟨_, execVeExecute_bad h hb, ?_⟩
  unfold startTrap
  rw [if_neg (by rw [hl]; exact Bool.false_ne_true), hm]
  refine ⟨?_, htval, htpc, congrArg (·.v) hvec⟩
  rw [hcause, tcauseOf_strand _ _ rfl rfl, Nat.mod_eq_of_lt (parcels_lt e.cmd)]
  rfl

/-! ### A level of a nest (R293) -/

theorem nestLevel_nestSet {b : Nat} (hb : b < 5) (old v l : Nat) :
    nestLevel (nestSet old v b) l = if l = b then v % 2 ^ 48 else nestLevel old l := by
  unfold nestSet
  rw [if_neg (Nat.ne_of_lt hb)]
  exact field_replaceField (Nat.mod_lt _ (Nat.two_pow_pos _)) old b l

theorem nestSet_lt {b : Nat} (hb : b < 5) {old : Nat} (hold : old < 2 ^ 256) (v : Nat) : nestSet old v b < 2 ^ 256 := by
  unfold nestSet
  rw [if_neg (Nat.ne_of_lt hb)]
  exact replaceField_lt hold (Nat.mod_lt _ (Nat.two_pow_pos _)) (by omega)

theorem veExecute_vnset {s : State} {e : Entry} {f : V3} (h : NextVector s e) (hb : readsBad (myTask s) e = false)
    (hc : e.cmd = .vnset f) (h5 : e.cap.b.toNat < 5) :
    ∃ t, exec .veExecute s = .next t ∧ OutsideKept s t
      ∧ (∀ l, l < 5 → nestLevel (SMap.get 0 (myTask t).vec.n (f.vd.toNat % 8)).toNat l =
          if l = e.cap.b.toNat then e.cap.a.toNat % 2 ^ 48
          else nestLevel (SMap.get 0 (myTask s).vec.n (f.vd.toNat % 8)).toNat l)
      ∧ (myTask t).queue 0 = ((myTask s).queue 0).filter (fun y => y.serial != e.serial) := by
  have hd := ((TaskIs.sameRecords h.task).modTask (nestWritten (f.vd.toNat % 8) e.cap.a e.cap.b)).modTask
    (leftQueue e.serial)
  refine ⟨_, execVeExecute_vnset h hb hc, hd.outside, fun l _ => ?_, ?_⟩
  · rw [dropEntry_eq, hd.myTask, leftQueue_vec]
    unfold nestWritten
    rw [SMap.get_set_same, BitVec.toNat_ofNat, Nat.mod_eq_of_lt (nestSet_lt h5 (BitVec.isLt _) _), nestLevel_nestSet h5]
  · rw [dropEntry_eq, hd.myTask, leftQueue_queue, if_pos rfl]
    rfl

/-! ### POPV (R291) -/

/-- Whether a strand's POP goes first does not hang on the register records. -/
theorem popFirst_sameRecords {s : State} (h : s.hasTask s.sel.task = true) (q : Nat) :
    popFirst (sameRecords s) s.sel.task q = popFirst s s.sel.task q := by
  have hx : (sameRecords s).task s.sel.task = _ := State.task_modTask_same h _
  have hT : (sameRecords s).hasTask s.sel.task = s.hasTask s.sel.task := State.hasTask_modTask ..
  unfold popFirst strandFirst
  refine congrArg (List.any _) (funext fun j => ?_)
  unfold issuable State.modStrand State.strand
  rw [State.task_modTask_same (hT.trans h), State.task_modTask_same h, State.hasTask_modTask, State.hasTask_modTask, hT, hx]
  rfl

/-- What the elements taken leave in the working memory of the entry. -/
theorem get_foldl_put (l : List Word) (i : Nat) (m : SMap Nat) (j : Nat) :
    SMap.get 0 ((l.zipIdx i).foldl (fun m x => SMap.put x.2 x.1.toNat m) m) j =
      if i ≤ j ∧ j < i + l.length then (l.getD (j - i) 0).toNat else SMap.get 0 m j := by
  induction l generalizing i m with
  | nil => simp
  | cons v r ih =>
    rw [List.zipIdx_cons, List.foldl_cons, ih]
    simp only [List.length_cons]
    by_cases hj : j = i
    · subst hj
      rw [if_neg (by omega), if_pos (by omega), Nat.sub_self, SMap.get, SMap.find_put_same]
      rfl
    · have hget : SMap.get 0 (SMap.put i v.toNat m) j = SMap.get 0 m j := by
        unfold SMap.get
        rw [SMap.find_put_other hj]
      by_cases h : i + 1 ≤ j ∧ j < i + 1 + r.length
      · rw [if_pos h, if_pos (by omega), show j - i = j - (i + 1) + 1 by omega]
        rfl
      · rw [if_neg h, if_neg (by omega), hget]

theorem map_get_foldl_put {l : List Word} {n : Nat} (h : l.length = n) :
    (List.range n).map (fun j => SMap.get 0 (l.zipIdx.foldl (fun m x => SMap.put x.2 x.1.toNat m) []) j) =
      l.map BitVec.toNat := by
  subst h
  refine List.ext_getElem (by simp) fun j h1 h2 => ?_
  have hj : j < l.length := by simpa using h2
  rw [List.getElem_map, List.getElem_map, List.getElem_range, get_foldl_put, if_pos (by omega), Nat.sub_zero,
    List.getD_eq_getElem l 0 hj]

/-- The words at the head of a FIFO, side by side. -/
def packWords (l : List Word) : Nat := packBits 64 (l.map BitVec.toNat)

theorem bitsOf_packWords {l : List Word} (h : l.length ≤ 128) (k : Nat) :
    bitsOf (packWords l % 2 ^ 8192) (64 * k) 64 = (l.getD k 0).toNat := by
  have hlt : ∀ x ∈ l.map BitVec.toNat, x < 2 ^ 64 := by
    intro x hx
    obtain ⟨w, -, rfl⟩ := List.mem_map.mp hx
    exact w.isLt
  unfold packWords bitsOf
  rw [packBits_mod hlt (by rw [List.length_map]; omega), packBits_field hlt]
  exact List.getD_map l 0 BitVec.toNat

/-- The task once a POPV has taken the first `n` elements. -/
def popped (f : V3) (n : Nat) (x : Task) : Task :=
  (x.setFifo (f.va.toNat % 2) ((x.fifo (f.va.toNat % 2)).drop n)).setVreg f.vd.toNat
    (packWords ((x.fifo (f.va.toNat % 2)).take n))

theorem popped_vreg (f : V3) (n : Nat) (x : Task) :
    (popped f n x).vreg f.vd.toNat = packWords ((x.fifo (f.va.toNat % 2)).take n) % 2 ^ 8192 := by
  unfold popped
  rw [Task.vreg_setVreg, if_pos rfl]

theorem bitsOf_popped (f : V3) {n : Nat} (h : n ≤ 128) (x : Task) (k : Nat) :
    bitsOf ((popped f n x).vreg f.vd.toNat) (64 * k) 64 =
      if k < n then ((x.fifo (f.va.toNat % 2)).getD k 0).toNat else 0 := by
  have hlen : ((x.fifo (f.va.toNat % 2)).take n).length ≤ n := List.length_take_le ..
  rw [popped_vreg, bitsOf_packWords (hlen.trans h), List.getD_eq_getElem?_getD, List.getElem?_take]
  split
  · rw [List.getD_eq_getElem?_getD]
  · rfl

theorem popped_fifo (f : V3) (n : Nat) (x : Task) :
    (popped f n x).fifo (f.va.toNat % 2) = (x.fifo (f.va.toNat % 2)).drop n := by
  unfold popped Task.setFifo Task.fifo
  split <;> simp [Task.setVreg, *]

theorem popped_queue (f : V3) (n : Nat) (x : Task) (q : Nat) : (popped f n x).queue q = x.queue q := by
  unfold popped Task.setFifo
  split <;> rfl

theorem runPopv_takes {s : State} {e : Entry} {f : V3} (h : NextVector s e) (h0 : e.progress = 0) (hw : e.work = [])
    (hn : 0 < e.cap.b.toNat) (hl : e.cap.b.toNat ≤ ((myTask s).fifo (f.va.toNat % 2)).length)
    (hpop : popFirst s s.sel.task (f.va.toNat % 2) = false) :
    TaskIs s (runPopv (sameRecords s) s.sel.task e f) s.sel.task
      (leftQueue e.serial (popped f e.cap.b.toNat (myTask s))) := by
  have hu := TaskIs.sameRecords h.task
  unfold runPopv
  simp only [hu.task, popFirst_sameRecords h.task, hpop, h0, hw, Bool.false_eq_true, if_false, Nat.sub_zero, Nat.zero_add,
    Nat.min_eq_right hl, if_true, if_neg (Nat.ne_of_gt hn)]
  rw [map_get_foldl_put (List.length_take_of_le hl)]
  exact ((hu.modTask _).modTask _).modTask _

theorem veExecute_popv {s : State} {e : Entry} {f : V3} (h : NextVector s e) (hb : readsBad (myTask s) e = false)
    (hc : e.cmd = .popv f) (h0 : e.progress = 0) (hw : e.work = []) (hn : 0 < e.cap.b.toNat)
    (hl : e.cap.b.toNat ≤ ((myTask s).fifo (f.va.toNat % 2)).length) (h128 : e.cap.b.toNat ≤ 128)
    (hpop : popFirst s s.sel.task (f.va.toNat % 2) = false) :
    let fifo := (myTask s).fifo (f.va.toNat % 2)
    let n := e.cap.b.toNat
    ∃ t, exec .veExecute s = .next t ∧ OutsideKept s t
      ∧ (myTask t).fifo (f.va.toNat % 2) = fifo.drop n
      ∧ (∀ k, k < 128 → bitsOf ((myTask t).vreg f.vd.toNat) (64 * k) 64 = if k < n then (fifo.getD k 0).toNat else 0)
      ∧ (myTask t).queue 0 = ((myTask s).queue 0).filter (fun y => y.serial != e.serial) := by
  intro fifo n
  have hd := runPopv_takes h h0 hw hn hl hpop
  refine ⟨_, execVeExecute_popv h hb hc, hd.outside, ?_, fun k _ => ?_, ?_⟩
  · rw [hd.myTask, ← popped_fifo]
    rfl
  · rw [hd.myTask, ← bitsOf_popped f h128]
    rfl
  · rw [hd.myTask, leftQueue_queue, if_pos rfl, popped_queue]

end Sys2Proof.Machine
end

section
/-!
PROOFS. Element-wise instructions of the vector engine: elements, flags, and the register written (R252, R265).
-/
namespace Sys2Proof.Machine

/-! ### Element-wise results (R252, R265) -/

/-- Element e of an element-wise result, with its flags. -/
def mapElem (c : VCtx) (n : Nat) (old : Nat → Nat) (f : Nat → Flagged Nat) (e : Nat) : Flagged Nat :=
  if c.act n e then f e else (if c.z then 0 else old e, 0)

/-- The register an element-wise result makes. -/
def mapReg (c : VCtx) (size n : Nat) (old : Nat → Nat) (f : Nat → Flagged Nat) : Nat :=
  packBits (8 * size) ((List.range n).map (fun e => (mapElem c n old f e).1))

theorem VCtx.map_vd (c : VCtx) (size n : Nat) (old : Nat → Nat) (f : Nat → Flagged Nat) :
    (c.map size n old f).vd = some (mapReg c size n old f) := by
  simp only [VCtx.map, packElems, List.map_map]
  rfl

theorem VCtx.map_flags (c : VCtx) (size n : Nat) (old : Nat → Nat) (f : Nat → Flagged Nat) :
    (c.map size n old f).flags = (List.range n).map (fun e => (mapElem c n old f e).2) := by
  simp only [VCtx.map, List.map_map]
  rfl

theorem elemBits_of_le {et : Nat} (h : et ≤ 8) : elemBits et = 8 * typeBytes et := by
  interval_cases et <;> rfl

theorem elem_lt {et : Nat} (h : et ≤ 8) (reg k : Nat) : elem et reg k < 2 ^ (8 * typeBytes et) := by
  unfold elem
  rw [elemBits_of_le h]
  exact Nat.mod_lt _ (Nat.two_pow_pos _)

theorem keepElem_eq {et : Nat} (h : et ≤ 8) (reg k : Nat) : keepElem et reg k = elem et reg k := by
  unfold elem keepElem
  rw [elemBits_of_le h]

/-- The elements of packed elements that fit a register. -/
theorem elem_packBits {et : Nat} (h : et ≤ 8) {l : List Nat} (hl : ∀ x ∈ l, x < 2 ^ (8 * typeBytes et))
    (hn : l.length * typeBytes et ≤ 1024) (k : Nat) :
    elem et (packBits (8 * typeBytes et) l % 2 ^ 8192) k = l.getD k 0 := by
  have hm : 8 * typeBytes et * l.length ≤ 8192 := by
    rw [Nat.mul_assoc, Nat.mul_comm (typeBytes et)]
    omega
  unfold elem
  rw [packBits_mod hl hm, elemBits_of_le h, packBits_field hl]

theorem elem_mapReg {et n : Nat} (h : et ≤ 8) (hn : n * typeBytes et ≤ 1024) (c : VCtx) (reg : Nat)
    {f : Nat → Flagged Nat} (hf : ∀ k, (f k).1 < 2 ^ (8 * typeBytes et)) (k : Nat) :
    elem et (mapReg c (typeBytes et) n (keepElem et reg) f % 2 ^ 8192) k =
      if n ≤ k then 0 else if bitOf c.mask k then (f k).1 else if c.z then 0 else elem et reg k := by
  have hlt : ∀ j, (mapElem c n (keepElem et reg) f j).1 < 2 ^ (8 * typeBytes et) := by
    intro j
    unfold mapElem
    split
    · exact hf j
    · show (if c.z = true then 0 else keepElem et reg j) < _
      split
      · exact Nat.two_pow_pos _
      · rw [keepElem_eq h]
        exact elem_lt h ..
  unfold mapReg
  rw [elem_packBits h (by simpa using fun j _ => hlt j) (by simpa using hn), List.getD_eq_getElem?_getD,
    List.getElem?_map]
  by_cases hk : n ≤ k
  · rw [if_pos hk, List.getElem?_eq_none (by simpa using hk)]
    rfl
  · rw [if_neg hk, List.getElem?_range (Nat.lt_of_not_le hk)]
    unfold mapElem VCtx.act
    simp only [Option.map_some, Option.getD_some, keepElem_eq h, decide_eq_true (Nat.lt_of_not_le hk), Bool.true_and,
      apply_ite Prod.fst]

/-! ### Flags of the elements (R36) -/

theorem firstFlag_none {flags : List Nat} (h : ∀ x ∈ flags, x = 0) (bit : Nat) : firstFlag flags bit = none := by
  unfold firstFlag
  rw [List.findIdx?_eq_none_iff]
  intro x hx
  rw [h x hx]
  simp [bitOf]

theorem testBit_foldl_or (l : List Nat) (a j : Nat) (h : a.testBit j = true ∨ ∃ x ∈ l, x.testBit j = true) :
    (l.foldl (fun a x => a ||| x) a).testBit j = true := by
  induction l generalizing a with
  | nil => simpa using h
  | cons x r ih =>
    refine ih (a ||| x) ?_
    rcases h with h | ⟨y, hy, hj⟩
    · exact .inl (by rw [Nat.testBit_or, h, Bool.true_or])
    · rcases List.mem_cons.mp hy with rfl | hy
      · exact .inl (by rw [Nat.testBit_or, hj, Bool.or_true])
      · exact .inr ⟨y, hy, hj⟩

theorem bitOf_eq_testBit (x j : Nat) : bitOf x j = x.testBit j := by
  rw [Nat.testBit_eq_decide_div_mod_eq]
  rfl

/-- A flag one active element raises is among the flags of the instruction. -/
theorem testBit_allFlags_map (c : VCtx) (size n : Nat) (old : Nat → Nat) (f : Nat → Flagged Nat) {k j : Nat} (hk : k < n)
    (hm : bitOf c.mask k = true) (hj : bitOf (f k).2 j = true) : (c.map size n old f).allFlags.testBit j = true := by
  refine testBit_foldl_or _ _ _ (.inr ⟨(f k).2, ?_, by rwa [← bitOf_eq_testBit]⟩)
  rw [VCtx.map_flags]
  refine List.mem_map.mpr ⟨k, List.mem_range.mpr hk, ?_⟩
  unfold mapElem VCtx.act
  rw [hm, decide_eq_true hk]
  rfl

/-! ### An element-wise instruction executes -/

/-- An instruction that computes in one go: it enters the queue with g operands, and is no POPV, VNSET or VSWEEP. -/
structure Plain (i : Instr) : Prop where
  table : vectorTable i ≠ none
  popv : ∀ f, i ≠ .popv f
  vnset : ∀ f, i ≠ .vnset f
  sweep : ∀ fn f, i ≠ .vsweep fn f

/-- An entry that is the next of the engine, under no nest, whose registers hold no uncorrectable error. -/
structure Whole (s : State) (e : Entry) : Prop where
  next : NextVector s e
  good : readsBad (myTask s) e = false
  nest : e.cap.nest = none
  fresh : e.progress = 0

theorem Whole.computes {s : State} {e : Entry} {o : VOut} (h : Whole s e) (hp : Plain e.cmd)
    (hc : vCompute e.cmd (entryCtx (myTask s) e) (vectorReads (myTask s) e) = .ok o)
    (ht : enabledTrap (e.cap.vctl.getLsbD 1) (e.cap.vctl.getLsbD 2) (firstFlag o.flags 0) (firstFlag o.flags 5) = none) :
    ∃ t, exec .veExecute s = .next t ∧ Computed s t e o :=
  veExecute_computes h.next hp.table h.good hp.popv hp.vnset hp.sweep h.nest h.fresh hc ht

section
variable {s t : State} {e : Entry} {n : Nat} {f : Nat → Flagged Nat} {et : Nat} {old : Nat}
  (h : Computed s t e ((entryCtx (myTask s) e).map (typeBytes et) n (keepElem et old) f))
include h

theorem Computed.elem_map (het : et ≤ 8) (hn : n * typeBytes et ≤ 1024) (hf : ∀ k, (f k).1 < 2 ^ (8 * typeBytes et))
    (k : Nat) :
    elem et ((myTask t).vreg (v3Of e.cmd).1.vd.toNat) k =
      if n ≤ k then 0
      else if bitOf ((myTask s).mreg (v3Of e.cmd).1.m.toNat) k then (f k).1
      else if (v3Of e.cmd).1.z then 0 else elem et old k := by
  rw [h.vreg, wroteRegs_vreg, if_pos rfl, VCtx.map_vd]
  exact elem_mapReg het hn _ old hf k

theorem Computed.vreg_map {r : Nat} (hr : r ≠ (v3Of e.cmd).1.vd.toNat) : (myTask t).vreg r = (myTask s).vreg r := by
  rw [h.vreg, wroteRegs_vreg, if_neg hr]
  split
  · rename_i v hv
    split at hv <;> cases hv
  · rfl

theorem Computed.vstat_map {k j : Nat} (hk : k < n) (hm : bitOf ((myTask s).mreg (v3Of e.cmd).1.m.toNat) k = true)
    (hj : bitOf (f k).2 j = true) (h64 : j < 64) : (myTask t).vec.vstat.getLsbD j = true := by
  rw [h.vstat, BitVec.getLsbD_or, w64, BitVec.getLsbD_ofNat,
    testBit_allFlags_map (entryCtx (myTask s) e) _ _ _ f hk hm hj, decide_eq_true h64]
  exact Bool.or_true _

end

end Sys2Proof.Machine
end

section
/-!
PROOFS. Integer arithmetic of the vector engine, element by element (R23, R268).
-/
namespace Sys2Proof.Machine

/-! ### Integers of the element types (R23) -/

theorem wrapNat_lt (w : Nat) (x : Int) : wrapNat w x < 2 ^ w := by
  unfold wrapNat
  have h := Int.emod_lt_of_pos x (Int.natCast_pos.mpr (Nat.two_pow_pos w))
  have h0 := Int.emod_nonneg x (Int.natCast_ne_zero.mpr (Nat.ne_of_gt (Nat.two_pow_pos w)))
  omega

theorem wrapNat_sintOf {w x : Nat} (h : x < 2 ^ w) : wrapNat w (sintOf w x) = x := by
  have hlt : (x : Int) < ((2 ^ w : Nat) : Int) := Int.ofNat_lt.mpr h
  have hmod : (x : Int) % ((2 ^ w : Nat) : Int) = x := Int.emod_eq_of_lt (Int.natCast_nonneg x) hlt
  unfold sintOf wrapNat
  rw [Nat.mod_eq_of_lt h]
  dsimp only
  split
  · rw [hmod, Int.toNat_natCast]
  · rw [show ((x : Int) - 2 ^ w) = x - ((2 ^ w : Nat) : Int) by push_cast; rfl, Int.sub_emod_right, hmod, Int.toNat_natCast]

theorem wrapNat_intOf {et x : Nat} (hx : x < 2 ^ (8 * typeBytes et)) : wrapNat (8 * typeBytes et) (intOf et x) = x := by
  unfold intOf
  split
  · subst et
    change x < 256 at hx
    change ((x % 256 : Nat) % 256 : Int).toNat = x
    omega
  · exact wrapNat_sintOf hx

theorem intOf_bounds {et : Nat} (h : et ≤ 3) (x : Nat) : intLo et ≤ intOf et x ∧ intOf et x ≤ intHi et := by
  interval_cases et <;> norm_num [typeBytes, intOf, intLo, intHi, sintOf] <;> omega

/-- An integer an element holds is its own result, clamped or not. -/
theorem intResult_intOf {et : Nat} (h : et ≤ 3) (sat : Bool) {x : Nat} (hx : x < 2 ^ (8 * typeBytes et)) :
    intResult et sat (intOf et x) = x := by
  obtain ⟨hlo, hhi⟩ := intOf_bounds h x
  unfold intResult
  rw [min_eq_right hhi, max_eq_right hlo, ite_self, wrapNat_intOf hx]

theorem pickInt_eq {et : Nat} (h : et ≤ 3) (sat larger : Bool) {a b : Nat} (ha : a < 2 ^ (8 * typeBytes et))
    (hb : b < 2 ^ (8 * typeBytes et)) : pickInt et larger a b =
      intResult et sat (if larger then max (intOf et a) (intOf et b) else min (intOf et a) (intOf et b)) := by
  by_cases hab : intOf et a ≤ intOf et b
  · cases larger
    · simp [pickInt, hab, intResult_intOf h sat ha]
    · simp [pickInt, hab, intResult_intOf h sat hb]
  · have hba := Int.le_of_lt (Int.not_le.mp hab)
    cases larger
    · simp [pickInt, hab, min_eq_right hba, intResult_intOf h sat hb]
    · simp [pickInt, hab, max_eq_left hba, intResult_intOf h sat ha]

theorem fmtOf_none {et : Nat} (h : et ≤ 3) : fmtOf et = none := by
  interval_cases et <;> rfl

/-- An operation of `arith` that is the integer function `g`, wrapped or clamped. -/
def IsIntegerOp (op : Nat) (g : Int → Int → Int → Int) : Prop :=
  ∀ et rm sat u a b d, et ≤ 3 → a < 2 ^ (8 * typeBytes et) → b < 2 ^ (8 * typeBytes et) →
    arith op et rm sat u a b d = (intResult et sat (g (intOf et a) (intOf et b) (intOf et d)), 0)

/-- An operation whose result is clamped or wrapped from the exact integer. -/
theorem isIntegerOp_of_result {op : Nat} {g : Int → Int → Int → Int}
    (h : ∀ et rm sat u a b d, fmtOf et = none →
      arith op et rm sat u a b d = (intResult et sat (g (intOf et a) (intOf et b) (intOf et d)), 0)) : IsIntegerOp op g :=
  fun et rm sat u a b d het _ _ => h et rm sat u a b d (fmtOf_none het)

theorem isIntegerOp_min : IsIntegerOp 5 (fun a b _ => min a b) := by
  intro et rm sat u a b d het ha hb
  simp [arith, fmtOf_none het, pickInt_eq het sat false ha hb]

theorem isIntegerOp_max : IsIntegerOp 6 (fun a b _ => max a b) := by
  intro et rm sat u a b d het ha hb
  simp [arith, fmtOf_none het, pickInt_eq het sat true ha hb]

theorem isIntegerOp_abs : IsIntegerOp 7 (fun a _ _ => if a < 0 then -a else a) := by
  refine isIntegerOp_of_result fun et rm sat u a b d h => ?_
  have habs : ((intOf et a).natAbs : Int) = if intOf et a < 0 then -intOf et a else intOf et a := by
    split <;> omega
  simp only [arith, h, habs]

theorem integerTable_plain {i : Instr} {f : V3} {g : Int → Int → Int → Int} (h : integerTable i = some (f, g)) :
    Plain i ∧ (v3Of i).1 = f := by
  unfold integerTable at h
  split at h <;> cases h <;> exact ⟨⟨by simp [vectorTable], nofun, nofun, nofun⟩, rfl⟩

theorem integerTable_arith {i : Instr} {f : V3} {g : Int → Int → Int → Int} (h : integerTable i = some (f, g)) :
    ∃ op, (∀ c v, vCompute i c v = .ok (arithAll op c v)) ∧ IsIntegerOp op g := by
  unfold integerTable at h
  split at h <;> cases h
  case h_1 => exact ⟨0, fun _ _ => rfl, isIntegerOp_of_result fun _ _ _ _ _ _ _ h => by simp only [arith, h]⟩
  case h_2 => exact ⟨1, fun _ _ => rfl, isIntegerOp_of_result fun _ _ _ _ _ _ _ h => by simp only [arith, h]⟩
  case h_3 => exact ⟨2, fun _ _ => rfl, isIntegerOp_of_result fun _ _ _ _ _ _ _ h => by simp only [arith, h]⟩
  case h_4 => exact ⟨3, fun _ _ => rfl, isIntegerOp_of_result fun _ _ _ _ _ _ _ h => by simp only [arith, h]⟩
  case h_5 => exact ⟨4, fun _ _ => rfl, isIntegerOp_of_result fun _ _ _ _ _ _ _ h => by simp only [arith, h]⟩
  case h_6 => exact ⟨5, fun _ _ => rfl, isIntegerOp_min⟩
  case h_7 => exact ⟨6, fun _ _ => rfl, isIntegerOp_max⟩
  case h_8 => exact ⟨7, fun _ _ => rfl, isIntegerOp_abs⟩
  case h_9 => exact ⟨8, fun _ _ => rfl, isIntegerOp_of_result fun _ _ _ _ _ _ _ h => by simp only [arith, h]⟩

/-! ### Integer arithmetic (R268) -/

theorem entryCtx_own {t : Task} {e : Entry} (h : e.cap.ft = none) :
    (entryCtx t e).et = (v3Of e.cmd).1.et.toNat ∧ (entryCtx t e).rm = (v3Of e.cmd).1.rm.toNat
      ∧ (entryCtx t e).sat = (v3Of e.cmd).1.sat := by
  unfold entryCtx
  rw [h]
  refine ⟨rfl, rfl, ?_⟩
  show ((v3Of e.cmd).1.sat.toNat == 1) = (v3Of e.cmd).1.sat
  cases (v3Of e.cmd).1.sat <;> rfl

/-- Elements of a type without blocks in the shape of an entry. -/
theorem count_entryCtx {et : Nat} (h : et ≤ 8) (t : Task) (e : Entry) : (entryCtx t e).count et =
    bitsOf e.cap.vsh.toNat 0 5 * (bitsOf e.cap.vsh.toNat 8 11 / typeBytes et) := by
  have hsize : elemSize et = typeBytes et ∧ isBlock et = false := by interval_cases et <;> exact ⟨rfl, rfl⟩
  obtain ⟨h1, h2⟩ := hsize
  unfold VCtx.count VCtx.cols rowElems
  rw [h1, h2, if_neg Bool.false_ne_true, Nat.mul_one]
  rfl

/-- A shape of at most 1024 bytes has elements of at most 1024 bytes. -/
theorem shape_bytes {rows rb size : Nat} (h : rows * rb ≤ 1024) : rows * (rb / size) * size ≤ 1024 := by
  rw [Nat.mul_assoc]
  exact (Nat.mul_le_mul_left rows (Nat.div_mul_le_self rb size)).trans h

/-- The elements of integer arithmetic, none of which raises a flag. -/
def intElems (et : Nat) (sat : Bool) (g : Int → Int → Int → Int) (v : VIn) (k : Nat) : Flagged Nat :=
  (intResult et sat (g (intOf et (elem et v.a k)) (intOf et (elem et v.b k)) (intOf et (elem et v.d k))), 0)

theorem map_flags_zero {c : VCtx} {size n : Nat} {old : Nat → Nat} {f : Nat → Flagged Nat} (h : ∀ k, (f k).2 = 0) :
    ∀ x ∈ (c.map size n old f).flags, x = 0 := by
  intro x hx
  rw [VCtx.map_flags] at hx
  obtain ⟨k, -, rfl⟩ := List.mem_map.mp hx
  unfold mapElem
  split
  · exact h k
  · rfl

/-- Elements that raise no flag trap under no enables. -/
theorem enabledTrap_zero (inve xwe : Bool) {flags : List Nat} (h : ∀ x ∈ flags, x = 0) :
    enabledTrap inve xwe (firstFlag flags 0) (firstFlag flags 5) = none := by
  rw [firstFlag_none h, firstFlag_none h, enabledTrap_none]

section
variable {s : State} {e : Entry} (h : Whole s e) (hft : e.cap.ft = none)
  (hshape : bitsOf e.cap.vsh.toNat 0 5 * bitsOf e.cap.vsh.toNat 8 11 ≤ 1024)
include h hft hshape

/-- Integer arithmetic of the engine, element by element. -/
theorem Whole.integer {f : V3} {g : Int → Int → Int → Int} (hi : integerTable e.cmd = some (f, g)) (het : f.et.toNat ≤ 3) :
    let et := f.et.toNat
    let n := bitsOf e.cap.vsh.toNat 0 5 * (bitsOf e.cap.vsh.toNat 8 11 / typeBytes et)
    ∃ t, exec .veExecute s = .next t
      ∧ (∀ r, r ≠ f.vd.toNat → (myTask t).vreg r = (myTask s).vreg r)
      ∧ (∀ k, elem et ((myTask t).vreg f.vd.toNat) k =
          if n ≤ k then 0
          else if bitOf ((myTask s).mreg f.m.toNat) k then
            intResult et f.sat (g (intOf et (elem et ((myTask s).vreg f.va.toNat) k))
              (intOf et (elem et ((myTask s).vreg f.vb.toNat) k)) (intOf et (elem et ((myTask s).vreg f.vd.toNat) k)))
          else if f.z then 0 else elem et ((myTask s).vreg f.vd.toNat) k) := by
  intro et n
  obtain ⟨hplain, rfl⟩ := integerTable_plain hi
  obtain ⟨op, hop, hint⟩ := integerTable_arith hi
  obtain ⟨hcet, -, hcsat⟩ := entryCtx_own (t := myTask s) hft
  have het8 : et ≤ 8 := Nat.le_trans het (by decide)
  have hall : vCompute e.cmd (entryCtx (myTask s) e) (vectorReads (myTask s) e) = .ok
      ((entryCtx (myTask s) e).map (typeBytes et) n (keepElem et (vectorReads (myTask s) e).d)
        (intElems et (v3Of e.cmd).1.sat g (vectorReads (myTask s) e))) := by
    rw [hop]
    unfold arithAll
    rw [hcet, hcsat, count_entryCtx het8]
    exact congrArg (fun r => Except.ok (VCtx.map _ _ _ _ r))
      (funext fun k => hint _ _ _ _ _ _ _ het (elem_lt het8 _ _) (elem_lt het8 _ _))
  obtain ⟨t, ht, hc⟩ := h.computes hplain hall (enabledTrap_zero _ _ (map_flags_zero fun _ => rfl))
  exact ⟨t, ht, fun r hr => hc.vreg_map hr, hc.elem_map het8 (shape_bytes hshape) (fun _ => wrapNat_lt ..)⟩

end

end Sys2Proof.Machine
end

section
/-!
PROOFS. Integer compares of the vector engine, bit by bit (R273).
-/
namespace Sys2Proof.Machine

/-! ### Integer compares (R273) -/

/-- Exact integers are ordered as integers. -/
theorem Ex.lt_ofInt (a b : Int) : Ex.lt (.ofInt a) (.ofInt b) = decide (a < b) := by
  unfold Ex.ofInt Ex.lt
  simp only [magLt, pow2Num, pow2Den]
  rw [Bool.eq_iff_iff]
  by_cases ha : a < 0
  · by_cases hb : b < 0
    · simp [ha, hb, ha.ne, hb.ne]
      omega
    · simp [ha, hb]
      omega
  · by_cases hb : b < 0 <;> simp [ha, hb] <;> omega

theorem condElem_int {et : Nat} (h : et ≤ 3) (op a b : Nat) : condElem op et a b =
    match op with
    | 0 => decide (intOf et a = intOf et b)
    | 1 => decide (intOf et a ≠ intOf et b)
    | 2 => decide (intOf et a < intOf et b)
    | 3 => decide (intOf et a ≤ intOf et b)
    | 4 => decide (intOf et b < intOf et a)
    | 5 => decide (intOf et b ≤ intOf et a)
    | _ => false := by
  have hex : ∀ x, exOf et x = .ofInt (intOf et x) := fun x => by
    unfold exOf
    rw [fmtOf_none h]
  unfold condElem
  simp only [hex, Ex.lt_ofInt]
  rw [Bool.eq_iff_iff]
  split
  case h_1 =>
    simp [Ex.ofInt, Ex.isNan]
    omega
  all_goals simp [Ex.ofInt, Ex.isNan]

theorem integerCompare_plain {i : Instr} {f : V3} {g : Int → Int → Bool} (h : integerCompare i = some (f, g)) :
    Plain i ∧ (v3Of i).1 = f ∧ maskDest i = some (f.vd.toNat % 16) := by
  unfold integerCompare at h
  split at h <;> cases h <;> exact ⟨⟨by simp [vectorTable], nofun, nofun, nofun⟩, rfl, rfl⟩

theorem integerCompare_cond {i : Instr} {f : V3} {g : Int → Int → Bool} (h : integerCompare i = some (f, g)) :
    ∃ op, (∀ c v, vCompute i c v = .ok (compare op c v))
      ∧ ∀ et a b, et ≤ 3 → condElem op et a b = g (intOf et a) (intOf et b) := by
  unfold integerCompare at h
  split at h <;> cases h
  case h_1 => exact ⟨0, fun _ _ => rfl, fun et a b het => condElem_int het 0 a b⟩
  case h_2 => exact ⟨1, fun _ _ => rfl, fun et a b het => condElem_int het 1 a b⟩
  case h_3 => exact ⟨2, fun _ _ => rfl, fun et a b het => condElem_int het 2 a b⟩
  case h_4 => exact ⟨3, fun _ _ => rfl, fun et a b het => condElem_int het 3 a b⟩
  case h_5 => exact ⟨4, fun _ _ => rfl, fun et a b het => condElem_int het 4 a b⟩
  case h_6 => exact ⟨5, fun _ _ => rfl, fun et a b het => condElem_int het 5 a b⟩

/-! ### Masks bit by bit -/

/-- The bits of a mask made of booleans. -/
theorem bitOf_packBits {n : Nat} (hn : n ≤ 1024) (p : Nat → Bool) (k : Nat) :
    bitOf (packBits 1 ((List.range n).map (fun e => b2n (p e))) % 2 ^ 1024) k = if n ≤ k then false else p k := by
  have hlt : ∀ x ∈ (List.range n).map (fun e => b2n (p e)), x < 2 ^ 1 := by
    intro x hx
    obtain ⟨j, -, rfl⟩ := List.mem_map.mp hx
    cases p j <;> decide
  have hfield := packBits_field hlt k
  rw [Nat.one_mul, Nat.pow_one, List.getD_eq_getElem?_getD, List.getElem?_map] at hfield
  unfold bitOf
  rw [packBits_mod hlt (by simpa using hn), hfield]
  by_cases hk : n ≤ k
  · rw [if_pos hk, List.getElem?_eq_none (by simpa using hk)]
    rfl
  · rw [if_neg hk, List.getElem?_range (Nat.lt_of_not_le hk)]
    show (b2n (p k) == 1) = p k
    cases p k <;> rfl

/-- Bit e of the mask of a compare. -/
def compareBit (op : Nat) (c : VCtx) (v : VIn) (e : Nat) : Bool :=
  if c.act (c.count c.et) e then condElem op c.et (elem c.et v.a e) (elem c.et v.b e) else !c.z && bitOf v.md e

theorem compare_mask (op : Nat) (c : VCtx) (v : VIn) : (compare op c v).mask =
    some (packBits 1 ((List.range (c.count c.et)).map (fun e => b2n (compareBit op c v e)))) := rfl

theorem typeBytes_pos (et : Nat) : 0 < typeBytes et := by
  unfold typeBytes
  split <;> decide

section
variable {s : State} {e : Entry} (h : Whole s e) (hft : e.cap.ft = none)
  (hshape : bitsOf e.cap.vsh.toNat 0 5 * bitsOf e.cap.vsh.toNat 8 11 ≤ 1024)
include h hft hshape

/-- Integer compares of the engine, bit by bit. -/
theorem Whole.compare {f : V3} {g : Int → Int → Bool} (hi : integerCompare e.cmd = some (f, g)) (het : f.et.toNat ≤ 3)
    (hd : f.vd.toNat % 16 ≠ 0) :
    let et := f.et.toNat
    let n := bitsOf e.cap.vsh.toNat 0 5 * (bitsOf e.cap.vsh.toNat 8 11 / typeBytes et)
    ∃ t, exec .veExecute s = .next t
      ∧ (∀ r, (myTask t).vreg r = (myTask s).vreg r)
      ∧ (∀ k, bitOf ((myTask t).mreg (f.vd.toNat % 16)) k =
          if n ≤ k then false
          else if bitOf ((myTask s).mreg f.m.toNat) k then
            g (intOf et (elem et ((myTask s).vreg f.va.toNat) k)) (intOf et (elem et ((myTask s).vreg f.vb.toNat) k))
          else !f.z && bitOf ((myTask s).mreg (f.vd.toNat % 16)) k) := by
  intro et n
  obtain ⟨hplain, rfl, hmask⟩ := integerCompare_plain hi
  obtain ⟨op, hop, hcond⟩ := integerCompare_cond hi
  obtain ⟨hcet, -, -⟩ := entryCtx_own (t := myTask s) hft
  have het8 : et ≤ 8 := Nat.le_trans het (by decide)
  have hcount : (entryCtx (myTask s) e).count (entryCtx (myTask s) e).et = n := by rw [hcet, count_entryCtx het8]
  have hn : n ≤ 1024 := (Nat.le_mul_of_pos_right n (typeBytes_pos et)).trans (shape_bytes hshape)
  obtain ⟨t, ht, hc⟩ := h.computes hplain (hop _ _) (enabledTrap_zero _ _ nofun)
  refine ⟨t, ht, fun r => ?_, fun k => ?_⟩
  · rw [hc.vreg, wroteRegs_vreg]
    simp only [Machine.compare, ite_self]
  · rw [hc.mreg, wroteRegs_mreg, if_pos ⟨hmask, hd⟩, compare_mask, hcount]
    refine (bitOf_packBits hn _ k).trans (ite_congr rfl (fun _ => rfl) fun hk => ?_)
    unfold compareBit VCtx.act
    rw [hcount, decide_eq_true (Nat.lt_of_not_le hk), Bool.true_and, hcet, hcond _ _ _ het]
    rfl

end

end Sys2Proof.Machine
end

section
/-!
PROOFS. Floats of four bytes: widths, and the worked cases (R34 to R37).
-/
namespace Sys2Proof.Machine

/-! ### Floats of four bytes (R34 to R37) -/

/-- A rounded FP32 pattern has 32 bits. -/
theorem roundTo_fp32_lt (rm : Nat) (sat : Bool) (u : Nat) (x : Ex) : (roundTo fmtFP32 rm sat u x).1 < 2 ^ 32 := by
  have hsigned : ∀ (s : Bool) (m : Nat), m ≤ 255 * 2 ^ 23 → fmtFP32.signed s m < 2 ^ 32 := by
    intro s m hm
    unfold Fmt.signed Fmt.mag
    cases s <;> simp [fmtFP32] <;> omega
  have hmax : fmtFP32.maxCode ≤ 255 * 2 ^ 23 := by decide
  cases x with
  | nan => exact of_decide_eq_true rfl
  | inf s => exact hsigned s _ (by decide)
  | num s n d e =>
    have hcode : ∀ code fl : Nat, (if fmtFP32.maxCode < code then
        (if overflowFinite rm sat s then fmtFP32.signed s fmtFP32.maxCode
          else if fmtFP32.top = 0 then fmtFP32.signed s ((2 ^ fmtFP32.eb - 1) * 2 ^ fmtFP32.F) else fmtFP32.nan,
          fOverflow + fInexact)
        else (fmtFP32.signed s code, fl)).1 < 2 ^ 32 := by
      intro code fl
      split
      · show (if overflowFinite rm sat s = true then _ else _) < 2 ^ 32
        split
        · exact hsigned s _ hmax
        · exact hsigned s _ (by decide)
      · exact hsigned s _ ((Nat.le_of_not_lt ‹_›).trans hmax)
    unfold roundTo
    dsimp only
    by_cases hn : n = 0
    · rw [if_pos hn]
      exact hsigned s 0 (by decide)
    · rw [if_neg hn]
      exact hcode _ _

/-- One element of `floatInstr`. -/
def floatFn (n et rm : Nat) (sat : Bool) (u a b d : Nat) : Flagged Nat :=
  match n with
  | 0 => arith 0 et rm sat u a b d
  | 1 => arith 1 et rm sat u a b d
  | 2 => arith 2 et rm sat u a b d
  | 3 => arith 3 et rm sat u a b d
  | 4 => convertElem 8 et rm sat u a
  | _ => convertElem 3 et rm sat u a

/-- An element of four bytes, whatever it holds, has 32 bits. -/
theorem floatFn_lt {n et : Nat} (h : et = 8 ∨ et = 3) (rm : Nat) (sat : Bool) (u a b d : Nat) :
    (floatFn n et rm sat u a b d).1 < 2 ^ 32 := by
  unfold floatFn
  rcases h with rfl | rfl
  · split <;> exact roundTo_fp32_lt ..
  · split <;> exact wrapNat_lt 32 _

/-- The elements of `floatInstr`, all of four bytes. -/
def floatElems (n : Nat) (c : VCtx) (v : VIn) (k : Nat) : Flagged Nat :=
  floatFn n c.et c.rm c.sat (c.u k) (elem 8 v.a k) (elem 8 v.b k) (elem 8 v.d k)

theorem vCompute_floatInstr (n : Nat) (f : V3) {c : VCtx} (h : c.et = 8 ∨ c.et = 3) (v : VIn) :
    vCompute (floatInstr n f) c v = .ok (c.map (typeBytes 8) (c.count 8) (keepElem 8 v.d) (floatElems n c v)) := by
  obtain ⟨hcount, helem, hkeep, hsize⟩ : c.count c.et = c.count 8 ∧ elem c.et = elem 8 ∧ keepElem c.et = keepElem 8
      ∧ typeBytes c.et = typeBytes 8 := by
    rcases h with h | h <;> rw [h] <;> exact ⟨rfl, rfl, rfl, rfl⟩
  have harith : ∀ op, arithAll op c v = c.map (typeBytes 8) (c.count 8) (keepElem 8 v.d) (fun k =>
      arith op c.et c.rm c.sat (c.u k) (elem 8 v.a k) (elem 8 v.b k) (elem 8 v.d k)) := by
    intro op
    unfold arithAll
    rw [hcount, helem, hkeep, hsize]
  match n with
  | 0 => exact congrArg Except.ok (harith 0)
  | 1 => exact congrArg Except.ok (harith 1)
  | 2 => exact congrArg Except.ok (harith 2)
  | 3 => exact congrArg Except.ok (harith 3)
  | 4 =>
    show Except.ok (c.map (typeBytes c.et) _ (keepElem c.et v.d) _) = _
    rw [hkeep, hsize]
    rfl
  | _ + 5 =>
    show Except.ok (c.map (typeBytes c.et) _ (keepElem c.et v.d) _) = _
    rw [hkeep, hsize]
    rfl

theorem floatInstr_plain (n : Nat) (f : V3) : Plain (floatInstr n f) ∧ (v3Of (floatInstr n f)).1 = f := by
  unfold floatInstr
  split <;> exact ⟨⟨by simp [vectorTable], nofun, nofun, nofun⟩, rfl⟩

/-- What a worked case says: an element type of four bytes, no stochastic rounding, and the result with its flags. -/
def FloatCase.Worked (c : FloatCase) : Prop :=
  (c.et = 8 ∨ c.et = 3) ∧ c.rm ≤ 4 ∧ c.flags < 2 ^ 6
    ∧ floatFn c.op c.et c.rm c.sat 0 c.a c.b c.d = (c.result, c.flags)

theorem floatCases_worked : ∀ c ∈ sumCases ++ otherCases, c.Worked := by
  unfold FloatCase.Worked
  decide +kernel

theorem enabledTrap_off (a b : Option Nat) : enabledTrap false false a b = none := by
  cases a <;> cases b <;> rfl

theorem lt_of_bitOf {x m j : Nat} (hx : x < 2 ^ m) (h : bitOf x j = true) : j < m := by
  rw [bitOf_eq_testBit] at h
  by_contra hj
  rw [Nat.testBit_lt_two_pow (hx.trans_le (Nat.pow_le_pow_right Nat.two_pos (Nat.le_of_not_lt hj)))] at h
  exact Bool.false_ne_true h

/-- A worked element of four bytes, and its flags in VSTAT. -/
theorem Whole.worked {s : State} {e : Entry} (h : Whole s e) (hft : e.cap.ft = none)
    (hshape : bitsOf e.cap.vsh.toNat 0 5 * bitsOf e.cap.vsh.toNat 8 11 ≤ 1024) {c : FloatCase} (hw : c.Worked) {f : V3}
    (hcmd : e.cmd = floatInstr c.op f) (het : f.et.toNat = c.et) (hrm : f.rm.toNat = c.rm) (hsat : f.sat = c.sat)
    (h1 : e.cap.vctl.getLsbD 1 = false) (h2 : e.cap.vctl.getLsbD 2 = false) {k : Nat}
    (hk : k < bitsOf e.cap.vsh.toNat 0 5 * (bitsOf e.cap.vsh.toNat 8 11 / typeBytes 8))
    (hm : bitOf ((myTask s).mreg f.m.toNat) k = true) (ha : elem 8 ((myTask s).vreg f.va.toNat) k = c.a)
    (hb : elem 8 ((myTask s).vreg f.vb.toNat) k = c.b) (hd : elem 8 ((myTask s).vreg f.vd.toNat) k = c.d) :
    ∃ t, exec .veExecute s = .next t ∧ elem 8 ((myTask t).vreg f.vd.toNat) k = c.result
      ∧ ∀ j, bitOf c.flags j = true → (myTask t).vec.vstat.getLsbD j = true := by
  obtain ⟨hcase, hmode, hflags, hfn⟩ := hw
  obtain ⟨hplain, hf⟩ := floatInstr_plain c.op f
  rw [← hcmd] at hplain hf
  obtain ⟨hcet, hcrm, hcsat⟩ := entryCtx_own (t := myTask s) hft
  rw [hf] at hcet hcrm hcsat
  rw [het] at hcet
  rw [hrm] at hcrm
  rw [hsat] at hcsat
  have hall : vCompute e.cmd (entryCtx (myTask s) e) (vectorReads (myTask s) e) = _ :=
    (congrArg (vCompute · _ _) hcmd).trans (vCompute_floatInstr c.op f (by rwa [hcet]) _)
  rw [count_entryCtx (by decide)] at hall
  have helem : floatElems c.op (entryCtx (myTask s) e) (vectorReads (myTask s) e) k = (c.result, c.flags) := by
    have hu : (entryCtx (myTask s) e).u k = 0 := by
      unfold VCtx.u
      rw [if_neg (by rw [hcrm]; omega)]
    unfold floatElems vectorReads
    rw [hcet, hcrm, hcsat, hu, hf, ha, hb, hd, hfn]
  obtain ⟨t, ht, hc⟩ := h.computes hplain hall (by rw [h1, h2, enabledTrap_off])
  have hres := hc.elem_map (et := 8) (by decide) (shape_bytes hshape)
    (fun _ => floatFn_lt (by rwa [hcet]) ..) k
  rw [hf, if_neg (Nat.not_le_of_lt hk), if_pos hm, helem] at hres
  refine ⟨t, ht, hres, fun j hj => hc.vstat_map hk (by rwa [hf]) (by rwa [helem]) ?_⟩
  exact (lt_of_bitOf hflags hj).trans (by decide)

end Sys2Proof.Machine
end

section
/-!
PROOFS. What the vector engine writes: the obligations of its computing step.
-/
namespace Sys2Proof.Machine

/-- Settles O30: `veExecute_computes` says what a computing instruction leaves, `veExecute_bad`, `veExecute_popv` and
`veExecute_vnset` the other three, and `floatCases_worked` what the elements of the worked cases come to. -/
theorem vectorExecutes : Obligations.VectorExecutes := by
  unfold Obligations.VectorExecutes
  refine ⟨?_, fun e s h hb hl => veExecute_bad h hb hl, ?_, ?_⟩
  · intro e o s h hv hb hp hn hs hnest h0 hc ht d flags
    obtain ⟨t, hexec, hdone⟩ := veExecute_computes h hv hb hp hn hs hnest h0 hc ht
    exact ⟨t, hexec, hdone.outside, hdone.others, hdone.memoryKept, fun q hq => hdone.queue hq, hdone.serials, hdone.left,
      fun n => (hdone.vreg n).trans (wroteRegs_vreg ..), fun n => (hdone.mreg n).trans (wroteRegs_mreg ..),
      fun r v hr hv => hdone.gives hr hv, hdone.vstat⟩
  · intro f e s h hb fifo n
    exact ⟨fun hc h0 hw hn hl h128 hpop => veExecute_popv h hb hc h0 hw hn hl h128 hpop,
      fun hc h5 => veExecute_vnset h hb hc h5⟩
  · intro c hc f e s k h hb hcmd hnest hft h0 het hrm hsat h1 h2 rows rb hshape hk hm ha hb' hd
    exact Whole.worked ⟨h, hb, hnest, h0⟩ hft hshape (floatCases_worked c hc) hcmd het hrm hsat h1 h2 hk hm ha hb' hd

/-- Settles O31, by `Whole.integer` and `Whole.compare`: each element is the exact integer, clamped or wrapped. -/
theorem integerElements : Obligations.IntegerElements := by
  unfold Obligations.IntegerElements
  intro e s h hb hnest hft h0 x rows rb hshape
  exact ⟨fun f g hi het => Whole.integer ⟨h, hb, hnest, h0⟩ hft hshape hi het,
    fun f g hi het hd => Whole.compare ⟨h, hb, hnest, h0⟩ hft hshape hi het hd⟩

end Sys2Proof.Machine
end

section
/-!
PROOFS. What the decoder's maps read at an opcode, and the fields of a word (R58, R66 to R68).
-/
namespace Sys2Proof

/-! ### Fields of a number -/

/-- A field of `n` bits, read off a field at the same place that is no narrower. -/
theorem fld_of_field {w lo n k : Nat} {x : BitVec n} (h : w / 2 ^ lo % 2 ^ k = x.toNat) (hk : n ≤ k) :
    fld w lo n = x := by
  apply BitVec.eq_of_toNat_eq
  rw [fld, BitVec.toNat_ofNat, ← Nat.mod_mod_of_dvd _ (Nat.pow_dvd_pow 2 hk), h]
  exact Nat.mod_eq_of_lt x.isLt

/-- A field of `n` bits. -/
theorem fld_eq {w lo n : Nat} {x : BitVec n} (h : w / 2 ^ lo % 2 ^ n = x.toNat) : fld w lo n = x :=
  fld_of_field h le_rfl

theorem bit_eq {w lo : Nat} {x : Bool} (h : w / 2 ^ lo % 2 = x.toNat) : bit w lo = x := by
  cases x <;> simp [bit, h]

/-! ### Rows of the maps (R66 to R68): what an opcode with an FN list, or with fields of its own, decodes to -/

section
variable {w : Nat}

theorem decodeRaw_of_len0 (h : w % 4 = 0) : decodeRaw w = decode32 w := by rw [decodeRaw, h]; rfl

theorem decodeRaw_of_len1 (h : w % 4 = 1) : decodeRaw w = decode64 w := by rw [decodeRaw, h]; rfl

theorem decodeRaw_of_len2 (h : w % 4 = 2) : decodeRaw w = decode96 w := by rw [decodeRaw, h]; rfl

theorem decode32_sys (h : w / 4 % 64 = 0x00) :
    decode32 w = decSys (w / 2 ^ 26 % 64) (fld w 14 6) := by
  rw [decode32, h]; rfl

theorem decode32_alu (h : w / 4 % 64 = 0x01) :
    decode32 w = decAlu (w / 2 ^ 26 % 64) (fld w 8 6) (fld w 14 6) (fld w 20 6) := by
  rw [decode32, h]; rfl

theorem decode32_mulDiv (h : w / 4 % 64 = 0x02) :
    decode32 w = decMulDiv (w / 2 ^ 26 % 64) (fld w 8 6) (fld w 14 6) (fld w 20 6) := by
  rw [decode32, h]; rfl

theorem decode32_bits (h : w / 4 % 64 = 0x03) :
    decode32 w = decBits (w / 2 ^ 26 % 64) (fld w 8 6) (fld w 14 6) := by
  rw [decode32, h]; rfl

theorem decode32_shi (h : w / 4 % 64 = 0x08) :
    decode32 w = decShi (w / 2 ^ 26 % 4) (fld w 8 6) (fld w 14 6) (fld w 20 6) := by
  rw [decode32, h]; rfl

theorem decode32_cmp (h : w / 4 % 64 = 0x09) :
    decode32 w = decCmp (w / 2 ^ 26 % 64) (fld w 8 4) (fld w 14 6) (fld w 20 6) := by
  rw [decode32, h]; rfl

theorem decode32_cmpi (h : w / 4 % 64 = 0x0A) :
    decode32 w = decCmpi (w / 2 ^ 12 % 4) (fld w 8 4) (fld w 14 6) (fld w 20 12) := by
  rw [decode32, h]; rfl

theorem decode32_plog (h : w / 4 % 64 = 0x0B) :
    decode32 w = decPlog (w / 2 ^ 26 % 64) (fld w 8 4) (fld w 14 4) (fld w 20 4) := by
  rw [decode32, h]; rfl

theorem decode32_sel (h : w / 4 % 64 = 0x0C) :
    decode32 w = some (.sel (fld w 26 4) (fld w 8 6) (fld w 14 6) (fld w 20 6)) := by
  rw [decode32, h]; rfl

theorem decode32_b (h : w / 4 % 64 = 0x0D) :
    decode32 w = some (.b (fld w 8 4) (bit w 12) (fld w 13 19)) := by
  rw [decode32, h]; rfl

theorem decode32_bl (h : w / 4 % 64 = 0x0E) :
    decode32 w = some (.bl (fld w 8 6) (fld w 14 18)) := by
  rw [decode32, h]; rfl

theorem decode32_loops (h : w / 4 % 64 = 0x10) :
    decode32 w = some (.loops (fld w 8 2) (fld w 14 6) (fld w 20 12)) := by
  rw [decode32, h]; rfl

theorem decode32_cas (h : w / 4 % 64 = 0x13) :
    decode32 w = some (.cas (bit w 30) (fld w 8 6) (fld w 14 6) (fld w 20 6)) := by
  rw [decode32, h]; rfl

theorem decode32_feop (h : w / 4 % 64 = 0x24) :
    decode32 w = decFeop (w / 2 ^ 26 % 64) (fld w 8 6) (fld w 14 6) := by
  rw [decode32, h]; rfl

theorem decode32_amo (h : w / 4 % 64 = 0x25) :
    decode32 w = decAmo (w / 2 ^ 26 % 16) (bit w 30) (bit w 31) (fld w 8 6) (fld w 14 6) (fld w 20 6) := by
  rw [decode32, h]; rfl

theorem decode32_fence (h : w / 4 % 64 = 0x26) :
    decode32 w = some (.fence (fld w 8 16) (fld w 24 3) (bit w 27)) := by
  rw [decode32, h]; rfl

theorem decode32_bar (h : w / 4 % 64 = 0x27) :
    decode32 w = decBar (w / 2 ^ 26 % 64) (fld w 14 6) := by
  rw [decode32, h]; rfl

theorem decode32_sem (h : w / 4 % 64 = 0x28) :
    decode32 w = decSem (w / 2 ^ 28 % 16) (fld w 8 6) (fld w 14 6) (fld w 20 8) := by
  rw [decode32, h]; rfl

theorem decode32_pop (h : w / 4 % 64 = 0x29) :
    decode32 w = if w / 2 ^ 26 % 64 < 2 then some (.pop (fld w 8 6) (fld w 26 1)) else none := by
  rw [decode32, h]; rfl

theorem decode32_csr (h : w / 4 % 64 = 0x2A) :
    decode32 w = decCsr (w / 2 ^ 20 % 4) (fld w 8 6) (fld w 14 6) (fld w 22 10) := by
  rw [decode32, h]; rfl

theorem decode32_trap (h : w / 4 % 64 = 0x2B) :
    decode32 w = some (.trap (fld w 16 16)) := by
  rw [decode32, h]; rfl

theorem decode32_tinv (h : w / 4 % 64 = 0x2D) :
    decode32 w = decTinv (w / 2 ^ 26 % 4) (fld w 14 6) (fld w 20 6) := by
  rw [decode32, h]; rfl

theorem decode32_mon (h : w / 4 % 64 = 0x2F) :
    decode32 w = decMon (w / 2 ^ 26 % 8) (fld w 29 3) (fld w 14 6) := by
  rw [decode32, h]; rfl

theorem decode64_varith (h : w / 4 % 64 = 0x01) :
    decode64 w = decVarith (w / 2 ^ 8 % 64) (unpackV3 w) := by
  rw [decode64, h]; rfl

theorem decode64_vlogic (h : w / 4 % 64 = 0x02) :
    decode64 w = decVlogic (w / 2 ^ 8 % 64) (unpackV3 w) := by
  rw [decode64, h]; rfl

theorem decode64_vcmp (h : w / 4 % 64 = 0x03) :
    decode64 w = decVcmp (w / 2 ^ 8 % 64) (unpackV3 w) := by
  rw [decode64, h]; rfl

theorem decode64_vcvt (h : w / 4 % 64 = 0x05) :
    decode64 w = some (.vcvt (fld w 8 4) (unpackV3 w)) := by
  rw [decode64, h]; rfl

theorem decode64_vfunc (h : w / 4 % 64 = 0x06) :
    decode64 w = decVfunc (w / 2 ^ 8 % 64) (unpackV3 w) := by
  rw [decode64, h]; rfl

theorem decode64_vred (h : w / 4 % 64 = 0x07) :
    decode64 w = decVred (w / 2 ^ 8 % 4) (fld w 10 2) (unpackV3 w) := by
  rw [decode64, h]; rfl

theorem decode64_vxlane (h : w / 4 % 64 = 0x08) :
    decode64 w = decVxlane (w / 2 ^ 8 % 64) (unpackV3 w) := by
  rw [decode64, h]; rfl

theorem decode64_vcomp (h : w / 4 % 64 = 0x09) :
    decode64 w = decVcomp w (w / 2 ^ 8 % 4) (unpackV3 w) := by
  rw [decode64, h]; rfl

theorem decode64_vblk (h : w / 4 % 64 = 0x0B) :
    decode64 w = decVblk (w / 2 ^ 8 % 64) (unpackV3 w) := by
  rw [decode64, h]; rfl

theorem decode64_vmove (h : w / 4 % 64 = 0x12) :
    decode64 w = decVmove (w / 2 ^ 8 % 64) (unpackV3 w) := by
  rw [decode64, h]; rfl

theorem decode64_vnx (h : w / 4 % 64 = 0x15) :
    decode64 w = some (.vnx (fld w 8 3) (unpackV3 w)) := by
  rw [decode64, h]; rfl

theorem decode64_mask (h : w / 4 % 64 = 0x16) :
    decode64 w = decMask (w / 2 ^ 8 % 64) (unpackV3 w) := by
  rw [decode64, h]; rfl

theorem decode64_cpyslot (h : w / 4 % 64 = 0x32) :
    decode64 w = decCpyslot (w / 2 ^ 8 % 4) (unpackEC w) := by
  rw [decode64, h]; rfl

theorem decode64_gbag (h : w / 4 % 64 = 0x36) :
    decode64 w = some (.gbag (fld w 8 4) (fld w 12 2) (unpackEC w)) := by
  rw [decode64, h]; rfl

theorem decode64_amor (h : w / 4 % 64 = 0x3C) :
    decode64 w = decAmor (w / 2 ^ 8 % 16) (unpackSR64 w) := by
  rw [decode64, h]; rfl

theorem decode64_amox (h : w / 4 % 64 = 0x3D) :
    decode64 w = if w / 2 ^ 8 % 16 = 0 then some (.amox (unpackSR64 w)) else none := by
  rw [decode64, h]; rfl

theorem decode96_vbcastl (h : w / 4 % 64 = 0x06) :
    decode96 w = some (.vbcastl (unpackV3 w) (fld w 64 32)) := by
  rw [decode96, h]; rfl

theorem decode96_vsweep (h : w / 4 % 64 = 0x07) :
    decode96 w = some (.vsweep (fld w 8 6) (unpackVW w)) := by
  rw [decode96, h]; rfl

theorem decode96_mcfg (h : w / 4 % 64 = 0x08) :
    decode96 w = some (.mcfg (unpackMC w)) := by
  rw [decode96, h]; rfl

end

/-- A word of `n` parcels that the maps of R66 to R68 read as an instruction. -/
structure ReadsAs (w n : Nat) (i : Instr) : Prop where
  raw : decodeRaw w = some i
  len : w % 4 + 1 = n
  size : w < 2 ^ (32 * n)

theorem ReadsAs.of32 {w : Nat} {i : Instr} (hlen : w % 4 = 0) (hsize : w < 2 ^ 32) (h : decode32 w = some i) :
    ReadsAs w 1 i := ⟨(decodeRaw_of_len0 hlen).trans h, by omega, hsize⟩

theorem ReadsAs.of64 {w : Nat} {i : Instr} (hlen : w % 4 = 1) (hsize : w < 2 ^ 64) (h : decode64 w = some i) :
    ReadsAs w 2 i := ⟨(decodeRaw_of_len1 hlen).trans h, by omega, hsize⟩

theorem ReadsAs.of96 {w : Nat} {i : Instr} (hlen : w % 4 = 2) (hsize : w < 2 ^ 96) (h : decode96 w = some i) :
    ReadsAs w 3 i := ⟨(decodeRaw_of_len2 hlen).trans h, by omega, hsize⟩

end Sys2Proof
end

section
/-!
PROOFS. The maps read back every word of the formats of one parcel (R58, R66).
-/
namespace Sys2Proof

/-! ### The formats of one parcel -/

section
variable {op fn : Nat} {i : Instr}

/-- Format S3 with the register fields as numbers. -/
theorem packS3_readsAs {d a b : Nat} (hop : op < 64) (hfn : fn < 64) (hd : d < 64) (ha : a < 64) (hb : b < 64)
    (row : ∀ w, w / 4 % 64 = op → w / 2 ^ 26 % 64 = fn → w / 2 ^ 8 % 2 ^ 6 = d → w / 2 ^ 14 % 2 ^ 6 = a →
      w / 2 ^ 20 % 2 ^ 6 = b → decode32 w = some i) :
    ReadsAs (packS3 op fn d a b) 1 i := by
  unfold packS3
  exact .of32 (by omega) (by omega) (row _ (by omega) (by omega) (by omega) (by omega) (by omega))

theorem readsAs_s3 {dec : Nat → Reg → Reg → Reg → Option Instr}
    (row : ∀ {w}, w / 4 % 64 = op → decode32 w = dec (w / 2 ^ 26 % 64) (fld w 8 6) (fld w 14 6) (fld w 20 6))
    (hop : op < 64) (hfn : fn < 64) (d a b : Reg) (h : dec fn d a b = some i) :
    ReadsAs (packS3 op fn d.toNat a.toNat b.toNat) 1 i :=
  packS3_readsAs hop hfn d.isLt a.isLt b.isLt fun w ho hf hd ha hb => by
    rw [row ho, hf, fld_eq hd, fld_eq ha, fld_eq hb, h]

/-- An instruction that has its opcode to itself; FN is a zero field. -/
theorem readsAs_s3Only {mk : Reg → Reg → Reg → Instr} (hop : op < 64) (d a b : Reg)
    (row : ∀ w, w / 4 % 64 = op → decode32 w = some (mk (fld w 8 6) (fld w 14 6) (fld w 20 6))) :
    ReadsAs (packS3 op 0 d.toNat a.toNat b.toNat) 1 (mk d a b) :=
  packS3_readsAs hop (by decide) d.isLt a.isLt b.isLt fun w ho _ hd ha hb => by
    rw [row w ho, fld_eq hd, fld_eq ha, fld_eq hb]

theorem readsAs_sys (a : Reg) (hfn : fn < 64) (h : decSys fn a = some i) : ReadsAs (packS3 0x00 fn 0 a.toNat 0) 1 i :=
  readsAs_s3 (dec := fun fn _ a _ => decSys fn a) decode32_sys (by decide) hfn 0 a 0 h

theorem readsAs_cmp (p : BitVec 4) (a b : Reg) (hfn : fn < 64) (h : decCmp fn p a b = some i) :
    ReadsAs (packS3 0x09 fn p.toNat a.toNat b.toNat) 1 i :=
  packS3_readsAs (by decide) hfn (by omega) a.isLt b.isLt fun w ho hf hd ha hb => by
    rw [decode32_cmp ho, hf, fld_of_field hd (by decide), fld_eq ha, fld_eq hb, h]

theorem readsAs_plog (d a b : BitVec 4) (hfn : fn < 64) (h : decPlog fn d a b = some i) :
    ReadsAs (packS3 0x0B fn d.toNat a.toNat b.toNat) 1 i :=
  packS3_readsAs (by decide) hfn (by omega) (by omega) (by omega) fun w ho hf hd ha hb => by
    rw [decode32_plog ho, hf, fld_of_field hd (by decide), fld_of_field ha (by decide), fld_of_field hb (by decide), h]

theorem readsAs_mon {k : Nat} (mon : BitVec 3) (a : Reg) (hk : k < 8) (h : decMon k mon a = some i) :
    ReadsAs (packS3 0x2F (k + 8 * mon.toNat) 0 a.toNat 0) 1 i :=
  packS3_readsAs (by decide) (by omega) (by decide) a.isLt (by decide) fun w ho hf _ ha _ => by
    have hk' : w / 2 ^ 26 % 8 = k := by omega
    have hm : fld w 29 3 = mon := fld_eq (by omega)
    rw [decode32_mon ho, hk', hm, fld_eq ha, h]

theorem readsAs_tinv (a b : Reg) (hfn : fn < 4) (h : decTinv fn a b = some i) :
    ReadsAs (packS3 0x2D fn 0 a.toNat b.toNat) 1 i :=
  packS3_readsAs (by decide) (by omega) (by decide) a.isLt b.isLt fun w ho hf _ ha hb => by
    have hf' : w / 2 ^ 26 % 4 = fn := by omega
    rw [decode32_tinv ho, hf', fld_eq ha, fld_eq hb, h]

theorem readsAs_sel (p : BitVec 4) (d a b : Reg) :
    ReadsAs (packS3 0x0C p.toNat d.toNat a.toNat b.toNat) 1 (.sel p d a b) :=
  packS3_readsAs (by decide) (by omega) d.isLt a.isLt b.isLt fun w ho hf hd ha hb => by
    rw [decode32_sel ho, fld_of_field (k := 6) hf (by decide), fld_eq hd, fld_eq ha, fld_eq hb]

theorem readsAs_pop (d : Reg) (f : BitVec 1) : ReadsAs (packS3 0x29 f.toNat d.toNat 0 0) 1 (.pop d f) :=
  packS3_readsAs (by decide) (by omega) d.isLt (by decide) (by decide) fun w ho hf hd _ _ => by
    rw [decode32_pop ho, if_pos (by omega), fld_of_field (k := 6) hf (by decide), fld_eq hd]

/-- Format SI with the fields as numbers. -/
theorem packSI_readsAs {d a imm : Nat} (hop : op < 64) (hd : d < 64) (ha : a < 64) (himm : imm < 4096)
    (row : ∀ w, w / 4 % 64 = op → w / 2 ^ 8 % 2 ^ 6 = d → w / 2 ^ 14 % 2 ^ 6 = a → w / 2 ^ 20 % 2 ^ 12 = imm →
      decode32 w = some i) : ReadsAs (packSI op d a imm) 1 i := by
  unfold packSI
  exact .of32 (by omega) (by omega) (row _ (by omega) (by omega) (by omega) (by omega))

theorem readsAs_si {mk : Reg → Reg → BitVec 12 → Instr} (hop : op < 64) (d a : Reg) (imm : BitVec 12)
    (row : ∀ w, w / 4 % 64 = op → decode32 w = some (mk (fld w 8 6) (fld w 14 6) (fld w 20 12))) :
    ReadsAs (packSI op d.toNat a.toNat imm.toNat) 1 (mk d a imm) :=
  packSI_readsAs hop d.isLt a.isLt imm.isLt fun w ho hd ha hi => by rw [row w ho, fld_eq hd, fld_eq ha, fld_eq hi]

theorem readsAs_shi {k : Nat} (d a : Reg) (amt : BitVec 6) (hk : k < 4) (h : decShi k d a amt = some i) :
    ReadsAs (packSI 0x08 d.toNat a.toNat (64 * k + amt.toNat)) 1 i :=
  packSI_readsAs (by decide) d.isLt a.isLt (by omega) fun w ho hd ha hi => by
    have hk' : w / 2 ^ 26 % 4 = k := by omega
    have hm : fld w 20 6 = amt := fld_eq (by omega)
    rw [decode32_shi ho, hk', hm, fld_eq hd, fld_eq ha, h]

theorem readsAs_cmpi {k : Nat} (p : BitVec 4) (a : Reg) (imm : BitVec 12) (hk : k < 4)
    (h : decCmpi k p a imm = some i) : ReadsAs (packSI 0x0A (16 * k + p.toNat) a.toNat imm.toNat) 1 i :=
  packSI_readsAs (by decide) (by omega) a.isLt imm.isLt fun w ho hd ha hi => by
    have hk' : w / 2 ^ 12 % 4 = k := by omega
    have hp : fld w 8 4 = p := fld_eq (by omega)
    rw [decode32_cmpi ho, hk', hp, fld_eq ha, fld_eq hi, h]

theorem readsAs_loops (n : BitVec 2) (a : Reg) (imm : BitVec 12) :
    ReadsAs (packSI 0x10 n.toNat a.toNat imm.toNat) 1 (.loops n a imm) :=
  packSI_readsAs (by decide) (by omega) a.isLt imm.isLt fun w ho hd ha hi => by
    rw [decode32_loops ho, fld_of_field hd (by decide), fld_eq ha, fld_eq hi]

theorem readsAs_b (p : BitVec 4) (neg : Bool) (disp : BitVec 19) :
    ReadsAs (packSB p.toNat neg.toNat disp.toNat) 1 (.b p neg disp) := by
  have hn := neg.toNat_le
  unfold packSB
  refine .of32 (by omega) (by omega) ?_
  rw [decode32_b (by omega), fld_eq (x := p) (by omega), bit_eq (x := neg) (by omega), fld_eq (x := disp) (by omega)]

theorem readsAs_bl (d : Reg) (disp : BitVec 18) : ReadsAs (packSL d.toNat disp.toNat) 1 (.bl d disp) := by
  unfold packSL
  refine .of32 (by omega) (by omega) ?_
  rw [decode32_bl (by omega), fld_eq (x := d) (by omega), fld_eq (x := disp) (by omega)]

/-- Format SM with OC as a number. -/
theorem packSM_readsAs {oc : Nat} (hop : op < 64) (hoc : oc < 16) (d a : Reg) (disp : BitVec 8)
    (row : ∀ w, w / 4 % 64 = op → fld w 8 6 = d → fld w 14 6 = a → w / 2 ^ 20 % 2 ^ 4 = oc → fld w 24 8 = disp →
      decode32 w = some i) : ReadsAs (packSM op d.toNat a.toNat oc disp.toNat) 1 i := by
  unfold packSM
  exact .of32 (by omega) (by omega)
    (row _ (by omega) (fld_eq (by omega)) (fld_eq (by omega)) (by omega) (fld_eq (by omega)))

theorem readsAs_sm {mk : Reg → Reg → BitVec 4 → BitVec 8 → Instr} (hop : op < 64) (d a : Reg) (oc : BitVec 4)
    (disp : BitVec 8)
    (row : ∀ w, w / 4 % 64 = op → decode32 w = some (mk (fld w 8 6) (fld w 14 6) (fld w 20 4) (fld w 24 8))) :
    ReadsAs (packSM op d.toNat a.toNat oc.toNat disp.toNat) 1 (mk d a oc disp) :=
  packSM_readsAs hop oc.isLt d a disp fun w ho hd ha hoc hdisp => by rw [row w ho, hd, ha, fld_eq hoc, hdisp]

/-- The full/empty accesses, whose OC is 15 (R65). -/
theorem readsAs_fullEmpty {mk : Reg → Reg → BitVec 8 → Instr} (hop : op < 64) (d a : Reg) (disp : BitVec 8)
    (row : ∀ w, w / 4 % 64 = op →
      decode32 w = if fld w 20 4 = 15 then some (mk (fld w 8 6) (fld w 14 6) (fld w 24 8)) else none) :
    ReadsAs (packSM op d.toNat a.toNat 15 disp.toNat) 1 (mk d a disp) :=
  packSM_readsAs hop (by decide) d a disp fun w ho hd ha hoc hdisp => by
    rw [row w ho, if_pos (fld_eq hoc), hd, ha, hdisp]

/-- Format SA: SZ and NR are one bit each. -/
theorem packSA_readsAs {d : Nat} (hop : op < 64) (hfn : fn < 16) (sz nr : Bool) (hd : d < 64) (a b : Reg)
    (row : ∀ w, w / 4 % 64 = op → w / 2 ^ 26 % 16 = fn → bit w 30 = sz → bit w 31 = nr → w / 2 ^ 8 % 2 ^ 6 = d →
      fld w 14 6 = a → fld w 20 6 = b → decode32 w = some i) :
    ReadsAs (packSA op fn sz.toNat nr.toNat d a.toNat b.toNat) 1 i := by
  have hs := sz.toNat_le
  have hn := nr.toNat_le
  unfold packSA
  exact .of32 (by omega) (by omega) (row _ (by omega) (by omega) (bit_eq (by omega)) (bit_eq (by omega)) (by omega)
    (fld_eq (by omega)) (fld_eq (by omega)))

theorem readsAs_amo (hfn : fn < 16) (sz : Bool) (d a b : Reg) (h : decAmo fn sz false d a b = some i) :
    ReadsAs (packSA 0x25 fn sz.toNat 0 d.toNat a.toNat b.toNat) 1 i :=
  packSA_readsAs (by decide) hfn sz false d.isLt a b fun w ho hf hs hn hd ha hb => by
    rw [decode32_amo ho, hf, hs, hn, fld_eq hd, ha, hb, h]

theorem readsAs_red (hfn : fn < 16) (sz : Bool) (a b : Reg) (h : decAmo fn sz true 0 a b = some i) :
    ReadsAs (packSA 0x25 fn sz.toNat 1 0 a.toNat b.toNat) 1 i :=
  packSA_readsAs (by decide) hfn sz true (by decide) a b fun w ho hf hs hn hd ha hb => by
    rw [decode32_amo ho, hf, hs, hn, fld_eq (x := 0) hd, ha, hb, h]

theorem readsAs_cas (sz : Bool) (d a b : Reg) :
    ReadsAs (packSA 0x13 0 sz.toNat 0 d.toNat a.toNat b.toNat) 1 (.cas sz d a b) :=
  packSA_readsAs (by decide) (by decide) sz false d.isLt a b fun w ho _ hs _ hd ha hb => by
    rw [decode32_cas ho, hs, fld_eq hd, ha, hb]

theorem readsAs_sem (hfn : fn < 16) (d a : Reg) (idx : BitVec 8) (h : decSem fn d a idx = some i) :
    ReadsAs (packSS fn d.toNat a.toNat idx.toNat) 1 i := by
  unfold packSS
  refine .of32 (by omega) (by omega) ?_
  rw [decode32_sem (by omega), show (_ : Nat) / 2 ^ 28 % 16 = fn by omega, fld_eq (x := d) (by omega),
    fld_eq (x := a) (by omega), fld_eq (x := idx) (by omega), h]

theorem readsAs_csr (hfn : fn < 4) (d a : Reg) (csr : BitVec 10) (h : decCsr fn d a csr = some i) :
    ReadsAs (packSC fn d.toNat a.toNat csr.toNat) 1 i := by
  unfold packSC
  refine .of32 (by omega) (by omega) ?_
  rw [decode32_csr (by omega), show (_ : Nat) / 2 ^ 20 % 4 = fn by omega, fld_eq (x := d) (by omega),
    fld_eq (x := a) (by omega), fld_eq (x := csr) (by omega), h]

theorem readsAs_fence (mask : BitVec 16) (scope : BitVec 3) (eng : Bool) :
    ReadsAs (packSF mask.toNat scope.toNat eng.toNat) 1 (.fence mask scope eng) := by
  have he := eng.toNat_le
  unfold packSF
  refine .of32 (by omega) (by omega) ?_
  rw [decode32_fence (by omega), fld_eq (x := mask) (by omega), fld_eq (x := scope) (by omega),
    bit_eq (x := eng) (by omega)]

theorem readsAs_trap (code : BitVec 16) : ReadsAs (packST code.toNat) 1 (.trap code) := by
  unfold packST
  refine .of32 (by omega) (by omega) ?_
  rw [decode32_trap (by omega), fld_eq (x := code) (by omega)]

end

end Sys2Proof
end

section
/-!
PROOFS. The maps read back every word of the formats of two and three parcels (R58, R67, R68).
-/
namespace Sys2Proof

/-! ### The formats of two parcels -/

section
variable {op fn : Nat} {i : Instr}

theorem packV3_opFn {len : Nat} (f : V3) (hlen : len < 4) (hop : op < 64) (hfn : fn < 64) :
    packV3 len op fn f % 4 = len ∧ packV3 len op fn f / 4 % 64 = op ∧ packV3 len op fn f / 2 ^ 8 % 64 = fn
      ∧ packV3 len op fn f < 2 ^ 56 := by
  have hz := f.z.toNat_le
  have hx := f.x.toNat_le
  have hs := f.sat.toNat_le
  have hf := f.ft.toNat_le
  unfold packV3
  exact ⟨by omega, by omega, by omega, by omega⟩

/-- The fields of a V3 word stand below bit 56, whatever stands above. -/
theorem unpackV3_of_low {len w : Nat} {f : V3} (hlen : len < 4) (hop : op < 64) (hfn : fn < 64)
    (hw : w % 2 ^ 56 = packV3 len op fn f) : unpackV3 w = f := by
  have hz := f.z.toNat_le
  have hx := f.x.toNat_le
  have hs := f.sat.toNat_le
  have hf := f.ft.toNat_le
  unfold packV3 at hw
  rw [unpackV3, fld_eq (x := f.vd), fld_eq (x := f.va), fld_eq (x := f.vb), fld_eq (x := f.m), fld_eq (x := f.et),
    fld_eq (x := f.rm), bit_eq (x := f.z), bit_eq (x := f.x), bit_eq (x := f.sat), bit_eq (x := f.ft)]
    <;> omega

/-- Format V3. -/
theorem packV3_readsAs (hop : op < 64) (hfn : fn < 64) (f : V3)
    (row : ∀ w, w / 4 % 64 = op → w / 2 ^ 8 % 64 = fn → unpackV3 w = f → decode64 w = some i) :
    ReadsAs (packV3 1 op fn f) 2 i := by
  obtain ⟨hlen, ho, hf, hlt⟩ := packV3_opFn f (len := 1) (by decide) hop hfn
  exact .of64 hlen (by omega) (row _ ho hf (unpackV3_of_low (by decide) hop hfn (Nat.mod_eq_of_lt hlt)))

theorem readsAs_v3 {dec : Nat → V3 → Option Instr}
    (row : ∀ {w}, w / 4 % 64 = op → decode64 w = dec (w / 2 ^ 8 % 64) (unpackV3 w)) (hop : op < 64) (hfn : fn < 64)
    (f : V3) (h : dec fn f = some i) : ReadsAs (packV3 1 op fn f) 2 i :=
  packV3_readsAs hop hfn f fun w ho hf hv => by rw [row ho, hf, hv, h]

/-- An instruction that has its opcode to itself; FN is a zero field. -/
theorem readsAs_v3Only {mk : V3 → Instr} (hop : op < 64) (f : V3)
    (row : ∀ w, w / 4 % 64 = op → decode64 w = some (mk (unpackV3 w))) : ReadsAs (packV3 1 op 0 f) 2 (mk f) :=
  packV3_readsAs hop (by decide) f fun w ho _ hv => by rw [row w ho, hv]

theorem readsAs_vcvt (src : BitVec 4) (f : V3) : ReadsAs (packV3 1 0x05 src.toNat f) 2 (.vcvt src f) :=
  packV3_readsAs (by decide) (by omega) f fun w ho hf hv => by
    rw [decode64_vcvt ho, fld_of_field (k := 6) hf (by decide), hv]

theorem readsAs_vnx (nest : BitVec 3) (f : V3) : ReadsAs (packV3 1 0x15 nest.toNat f) 2 (.vnx nest f) :=
  packV3_readsAs (by decide) (by omega) f fun w ho hf hv => by
    rw [decode64_vnx ho, fld_of_field (k := 6) hf (by decide), hv]

theorem readsAs_vred {k : Nat} (hk : k < 4) (dir : BitVec 2) (f : V3) (h : decVred k dir f = some i) :
    ReadsAs (packV3 1 0x07 (k + 4 * dir.toNat) f) 2 i :=
  packV3_readsAs (by decide) (by omega) f fun w ho hf hv => by
    have hk' : w / 2 ^ 8 % 4 = k := by omega
    have hd : fld w 10 2 = dir := fld_eq (by omega)
    rw [decode64_vred ho, hk', hd, hv, h]

theorem readsAs_vpack (f : V3) : ReadsAs (packV3 1 0x09 0 f) 2 (.vpack f) :=
  packV3_readsAs (by decide) (by decide) f fun w ho hf hv => by
    rw [decode64_vcomp ho, show w / 2 ^ 8 % 4 = 0 by omega, hv, decVcomp]

theorem readsAs_vexpand (f : V3) : ReadsAs (packV3 1 0x09 1 f) 2 (.vexpand f) :=
  packV3_readsAs (by decide) (by decide) f fun w ho hf hv => by
    rw [decode64_vcomp ho, show w / 2 ^ 8 % 4 = 1 by omega, hv, decVcomp]

theorem readsAs_vsparse (g8 kBig : Bool) (f : V3) :
    ReadsAs (packV3 1 0x09 (2 + 4 * g8.toNat + 8 * kBig.toNat) f) 2 (.vsparse g8 kBig f) := by
  have hg := g8.toNat_le
  have hb := kBig.toNat_le
  refine packV3_readsAs (by decide) (by omega) f fun w ho hf hv => ?_
  rw [decode64_vcomp ho, show w / 2 ^ 8 % 4 = 2 by omega, hv, decVcomp, bit_eq (x := g8) (by omega),
    bit_eq (x := kBig) (by omega)]

theorem readsAs_vm {mk : VM → Instr} (hop : op < 64) (f : VM)
    (row : ∀ w, w / 4 % 64 = op → decode64 w = some (mk (unpackVM w))) : ReadsAs (packVM op f) 2 (mk f) := by
  have hf : unpackVM (packVM op f) = f := by
    rw [unpackVM, fld_eq (x := f.vd), fld_eq (x := f.a), fld_eq (x := f.oc), fld_eq (x := f.m), fld_eq (x := f.et),
      fld_eq (x := f.b), fld_eq (x := f.disp)] <;> unfold packVM <;> omega
  refine .of64 (by unfold packVM; omega) (by unfold packVM; omega) ?_
  rw [row _ (by unfold packVM; omega), hf]

/-- Format EC. -/
theorem packEC_readsAs (hop : op < 64) (hfn : fn < 64) (f : EC)
    (row : ∀ w, w / 4 % 64 = op → w / 2 ^ 8 % 64 = fn → unpackEC w = f → decode64 w = some i) :
    ReadsAs (packEC op fn f) 2 i := by
  have hf : unpackEC (packEC op fn f) = f := by
    rw [unpackEC, fld_eq (x := f.ws), fld_eq (x := f.wt), fld_eq (x := f.ss), fld_eq (x := f.si), fld_eq (x := f.e),
      fld_eq (x := f.a), fld_eq (x := f.b), fld_eq (x := f.c)] <;> unfold packEC <;> omega
  exact .of64 (by unfold packEC; omega) (by unfold packEC; omega)
    (row _ (by unfold packEC; omega) (by unfold packEC; omega) hf)

/-- A command whose FN is a zero field. -/
theorem readsAs_ecOnly {mk : EC → Instr} (hop : op < 64) (f : EC)
    (row : ∀ w, w / 4 % 64 = op → decode64 w = some (mk (unpackEC w))) : ReadsAs (packEC op 0 f) 2 (mk f) :=
  packEC_readsAs hop (by decide) f fun w ho _ hv => by rw [row w ho, hv]

/-- A command with a field of `n` bits in FN. -/
theorem readsAs_ecField {n : Nat} {mk : BitVec n → EC → Instr} (hop : op < 64) (hn : n ≤ 6) (x : BitVec n) (f : EC)
    (row : ∀ w, w / 4 % 64 = op → decode64 w = some (mk (fld w 8 n) (unpackEC w))) :
    ReadsAs (packEC op x.toNat f) 2 (mk x f) :=
  packEC_readsAs hop (x.isLt.trans_le (Nat.pow_le_pow_right (by decide) hn)) f fun w ho hf hv => by
    rw [row w ho, fld_of_field (k := 6) hf hn, hv]

/-- A copy with or without a notify. -/
theorem readsAs_ecNotify {mk : Bool → EC → Instr} (hop : op < 64) (n : Bool) (f : EC)
    (row : ∀ w, w / 4 % 64 = op → decode64 w = some (mk (bit w 8) (unpackEC w))) :
    ReadsAs (packEC op n.toNat f) 2 (mk n f) := by
  have hn := n.toNat_le
  exact packEC_readsAs hop (by omega) f fun w ho hf hv => by rw [row w ho, bit_eq (x := n) (by omega), hv]

theorem readsAs_cpyslot (hfn : fn < 4) (f : EC) (h : decCpyslot fn f = some i) : ReadsAs (packEC 0x32 fn f) 2 i :=
  packEC_readsAs (by decide) (by omega) f fun w ho hf hv => by
    rw [decode64_cpyslot ho, show w / 2 ^ 8 % 4 = fn by omega, hv, h]

theorem readsAs_gbag (et : BitVec 4) (rm : BitVec 2) (f : EC) :
    ReadsAs (packEC 0x36 (et.toNat + 16 * rm.toNat) f) 2 (.gbag et rm f) :=
  packEC_readsAs (by decide) (by omega) f fun w ho hf hv => by
    rw [decode64_gbag ho, fld_eq (x := et) (by omega), fld_eq (x := rm) (by omega), hv]

theorem readsAs_ex {mk : EX → Instr} (hop : op < 64) (f : EX)
    (row : ∀ w, w / 4 % 64 = op → decode64 w = some (mk (unpackEX w))) : ReadsAs (packEX op f) 2 (mk f) := by
  have hf : unpackEX (packEX op f) = f := by
    rw [unpackEX, fld_eq (x := f.slot), fld_eq (x := f.ws), fld_eq (x := f.wt), fld_eq (x := f.ss), fld_eq (x := f.si),
      fld_eq (x := f.a), fld_eq (x := f.b), fld_eq (x := f.c)] <;> unfold packEX <;> omega
  refine .of64 (by unfold packEX; omega) (by unfold packEX; omega) ?_
  rw [row _ (by unfold packEX; omega), hf]

/-- Format SR64. -/
theorem packSR64_readsAs (hop : op < 64) (hfn : fn < 16) (f : SR64)
    (row : ∀ w, w / 4 % 64 = op → w / 2 ^ 8 % 16 = fn → unpackSR64 w = f → decode64 w = some i) :
    ReadsAs (packSR64 op fn f) 2 i := by
  have hs := f.sz.toNat_le
  have hn := f.nr.toNat_le
  have hf : unpackSR64 (packSR64 op fn f) = f := by
    rw [unpackSR64, bit_eq (x := f.sz), bit_eq (x := f.nr), fld_eq (x := f.d), fld_eq (x := f.a), fld_eq (x := f.b),
      fld_eq (x := f.k), fld_eq (x := f.n), fld_eq (x := f.anch)] <;> unfold packSR64 <;> omega
  exact .of64 (by unfold packSR64; omega) (by unfold packSR64; omega)
    (row _ (by unfold packSR64; omega) (by unfold packSR64; omega) hf)

theorem readsAs_amor (hfn : fn < 16) (f : SR64) (h : decAmor fn f = some i) : ReadsAs (packSR64 0x3C fn f) 2 i :=
  packSR64_readsAs (by decide) hfn f fun w ho hf hv => by rw [decode64_amor ho, hf, hv, h]

theorem readsAs_amox (f : SR64) : ReadsAs (packSR64 0x3D 0 f) 2 (.amox f) :=
  packSR64_readsAs (by decide) (by decide) f fun w ho hf hv => by rw [decode64_amox ho, if_pos hf, hv]

/-! ### The formats of three parcels -/

theorem readsAs_lh {mk : Reg → Reg → BitVec 4 → BitVec 32 → Instr} (hop : op < 64) (d a : Reg) (oc : BitVec 4)
    (lit : BitVec 32)
    (row : ∀ w, w / 4 % 64 = op → decode96 w = some (mk (fld w 8 6) (fld w 14 6) (fld w 20 4) (fld w 64 32))) :
    ReadsAs (packLH op d.toNat a.toNat oc.toNat lit.toNat) 3 (mk d a oc lit) := by
  unfold packLH
  refine .of96 (by omega) (by omega) ?_
  rw [row _ (by omega), fld_eq (x := d) (by omega), fld_eq (x := a) (by omega), fld_eq (x := oc) (by omega),
    fld_eq (x := lit) (by omega)]

theorem readsAs_vbcastl (f : V3) (lit : BitVec 32) :
    ReadsAs (packV3 2 0x06 0 f + 2 ^ 64 * lit.toNat) 3 (.vbcastl f lit) := by
  obtain ⟨hlen, ho, -, hlt⟩ := packV3_opFn (len := 2) (op := 6) (fn := 0) f (by decide) (by decide) (by decide)
  refine .of96 (by omega) (by omega) ?_
  rw [decode96_vbcastl (by omega), fld_eq (x := lit) (by omega),
    unpackV3_of_low (len := 2) (op := 6) (fn := 0) (f := f) (by decide) (by decide) (by decide) (by omega)]

theorem packVW_low (v : BitVec 6) (f : VW) : packVW v.toNat f % 2 ^ 56 = packV3 2 0x07 v.toNat f.v := by
  obtain ⟨-, -, -, hlt⟩ := packV3_opFn (len := 2) (op := 7) f.v (by decide) (by decide) v.isLt
  unfold packVW
  omega

theorem packVW_lt (v : BitVec 6) (f : VW) : packVW v.toNat f < 2 ^ 96 := by
  obtain ⟨-, -, -, hlt⟩ := packV3_opFn (len := 2) (op := 7) f.v (by decide) (by decide) v.isLt
  unfold packVW
  omega

theorem unpackVW_packVW (v : BitVec 6) (f : VW) : unpackVW (packVW v.toNat f) = f := by
  obtain ⟨-, -, -, hlt⟩ := packV3_opFn (len := 2) (op := 7) f.v (by decide) (by decide) v.isLt
  rw [unpackVW, unpackV3_of_low (by decide) (by decide) v.isLt (packVW_low v f), fld_eq (x := f.stepb),
    fld_eq (x := f.count), fld_eq (x := f.stepd), fld_eq (x := f.stepa)] <;> unfold packVW <;> omega

theorem readsAs_vsweep (v : BitVec 6) (f : VW) : ReadsAs (packVW v.toNat f) 3 (.vsweep v f) := by
  obtain ⟨hlen, ho, hfn, -⟩ := packV3_opFn (len := 2) (op := 7) f.v (by decide) (by decide) v.isLt
  have hlow := packVW_low v f
  refine .of96 (by omega) (packVW_lt v f) ?_
  rw [decode96_vsweep (by omega), fld_eq (x := v) (by omega), unpackVW_packVW]

theorem readsAs_mcfg (f : MC) : ReadsAs (packMC f) 3 (.mcfg f) := by
  have hf : unpackMC (packMC f) = f := by
    rw [unpackMC, fld_eq (x := f.e), fld_eq (x := f.lv), fld_eq (x := f.fld), fld_eq (x := f.a), fld_eq (x := f.lit)]
      <;> unfold packMC <;> omega
  refine .of96 (by unfold packMC; omega) (by unfold packMC; omega) ?_
  rw [decode96_mcfg (by unfold packMC; omega), hf]

end

end Sys2Proof
end

section
/-!
PROOFS. The maps read back the word of every instruction, and the bytes of a word give it back (R4, R56).
-/
namespace Sys2Proof

/-! ### Every instruction -/

/-- SSIG of a peer has D other than 0: step 7 of R70 keeps it apart from the SSIG of a semaphore of its own. -/
theorem readsAs_ssigRemote (d a : Reg) (h : zeroOk (.ssigRemote d a) = true) :
    ReadsAs (packSS 1 d.toNat a.toNat 0) 1 (.ssigRemote d a) := by
  have hd : d ≠ 0 := by simpa [zeroOk, vuse] using h
  exact readsAs_sem (by decide) d a 0 (if_neg hd)

theorem encode_readsAs {i : Instr} (hw : i.hasWords = true) (hz : zeroOk i = true) : ReadsAs (encode i) (parcels i) i := by
  cases i
  case nop | brk | yield | sexit | idle | drain => exact readsAs_sys 0 (by decide) rfl
  case tret skip =>
    cases skip
    · exact readsAs_sys 0 (by decide) rfl
    · exact readsAs_sys 1 (by decide) rfl
  case add d a b | sub d a b | and d a b | or d a b | xor d a b | andn d a b | sll d a b | srl d a b | sra d a b
      | ror d a b | min d a b | max d a b | minu d a b | maxu d a b | addsc1 d a b | addsc2 d a b | addsc3 d a b
      | addsc4 d a b =>
    exact readsAs_s3 decode32_alu (by decide) (by decide) d a b rfl
  case mul d a b | mulh d a b | mulhu d a b | div d a b | divu d a b | rem d a b | remu d a b =>
    exact readsAs_s3 decode32_mulDiv (by decide) (by decide) d a b rfl
  case clz d a | ctz d a | popc d a | sextB d a | sextH d a | sextW d a | zextB d a | zextH d a | zextW d a =>
    exact readsAs_s3 (dec := fun fn d a _ => decBits fn d a) decode32_bits (by decide) (by decide) d a 0 rfl
  case addi d a imm | andi d a imm | ori d a imm | xori d a imm | jalr d a imm =>
    exact readsAs_si (by decide) d a imm fun w h => by rw [decode32, h]; rfl
  case slli d a amt => exact readsAs_shi (k := 0) d a amt (by decide) rfl
  case srli d a amt => exact readsAs_shi (k := 1) d a amt (by decide) rfl
  case srai d a amt => exact readsAs_shi (k := 2) d a amt (by decide) rfl
  case cmpEq p a b | cmpNe p a b | cmpLt p a b | cmpGe p a b | cmpLtu p a b | cmpGeu p a b =>
    exact readsAs_cmp p a b (by decide) rfl
  case cmpiEq p a imm => exact readsAs_cmpi (k := 0) p a imm (by decide) rfl
  case cmpiNe p a imm => exact readsAs_cmpi (k := 1) p a imm (by decide) rfl
  case cmpiLt p a imm => exact readsAs_cmpi (k := 2) p a imm (by decide) rfl
  case cmpiLtu p a imm => exact readsAs_cmpi (k := 3) p a imm (by decide) rfl
  case pand d a b | por d a b | pxor d a b | pandn d a b => exact readsAs_plog d a b (by decide) rfl
  case sel p d a b => exact readsAs_sel p d a b
  case b p neg disp => exact readsAs_b p neg disp
  case bl d disp => exact readsAs_bl d disp
  case loops n a imm => exact readsAs_loops n a imm
  case chk a => exact readsAs_s3Only (mk := fun _ a _ => .chk a) (by decide) 0 a 0 fun w h => by rw [decode32, h]; rfl
  case launch a =>
    exact readsAs_s3Only (mk := fun _ a _ => .launch a) (by decide) 0 a 0 fun w h => by rw [decode32, h]; rfl
  case logm a => exact readsAs_s3Only (mk := fun _ a _ => .logm a) (by decide) 0 a 0 fun w h => by rw [decode32, h]; rfl
  case sfork d a b => exact readsAs_s3Only (by decide) d a b fun w h => by rw [decode32, h]; rfl
  case cas sz d a b => exact readsAs_cas sz d a b
  case ldb d a oc disp | ldh d a oc disp | ldw d a oc disp | ldd d a oc disp | ldbu d a oc disp | ldhu d a oc disp
      | ldwu d a oc disp | lds d a oc disp | stb d a oc disp | sth d a oc disp | stw d a oc disp | std d a oc disp =>
    exact readsAs_sm (by decide) d a oc disp fun w h => by rw [decode32, h]; rfl
  case ldfe d a disp | ldff d a disp | stef d a disp | stfl d a disp =>
    exact readsAs_fullEmpty (by decide) d a disp fun w h => by rw [decode32, h]; rfl
  case sete a | setf a =>
    exact readsAs_s3 (dec := fun fn d a _ => decFeop fn d a) decode32_feop (by decide) (by decide) 0 a 0 rfl
  case feq d a =>
    exact readsAs_s3 (dec := fun fn d a _ => decFeop fn d a) decode32_feop (by decide) (by decide) d a 0 rfl
  case amoAdd sz d a b | amoAnd sz d a b | amoOr sz d a b | amoXor sz d a b | amoMin sz d a b | amoMax sz d a b
      | amoMinu sz d a b | amoMaxu sz d a b | amoSwap sz d a b =>
    exact readsAs_amo (by decide) sz d a b rfl
  case amoFadd32 d a b | amoFmin32 d a b | amoFmax32 d a b => exact readsAs_amo (by decide) false d a b rfl
  case redAdd sz a b | redAnd sz a b | redOr sz a b | redXor sz a b | redMin sz a b | redMax sz a b | redMinu sz a b
      | redMaxu sz a b | redSwap sz a b =>
    exact readsAs_red (by decide) sz a b rfl
  case redFadd32 a b | redFmin32 a b | redFmax32 a b => exact readsAs_red (by decide) false a b rfl
  case fence mask scope eng => exact readsAs_fence mask scope eng
  case bar a | bara a | barw a =>
    exact readsAs_s3 (dec := fun fn _ a _ => decBar fn a) decode32_bar (by decide) (by decide) 0 a 0 rfl
  case swait d a idx | sset d a idx => exact readsAs_sem (by decide) d a idx rfl
  case ssig a idx => exact readsAs_sem (by decide) 0 a idx rfl
  case ssigRemote d a => exact readsAs_ssigRemote d a hz
  case srd d idx | srdc d idx => exact readsAs_sem (by decide) d 0 idx rfl
  case pop d f => exact readsAs_pop d f
  case csrr d csr => exact readsAs_csr (by decide) d 0 csr rfl
  case csrw d a csr | csrs d a csr | csrc d a csr => exact readsAs_csr (by decide) d a csr rfl
  case trap code => exact readsAs_trap code
  case tinvPage a b => exact readsAs_tinv a b (by decide) rfl
  case tinvFunction b => exact readsAs_tinv 0 b (by decide) rfl
  case tinvAll => exact readsAs_tinv 0 0 (by decide) rfl
  case monset mon a => exact readsAs_mon (k := 0) mon a (by decide) rfl
  case monref mon a => exact readsAs_mon (k := 1) mon a (by decide) rfl
  case monrd mon a => exact readsAs_mon (k := 2) mon a (by decide) rfl
  case monclr mon => exact readsAs_mon (k := 3) mon 0 (by decide) rfl
  case vadd f | vsub f | vmul f | vfma f | vfms f | vmin f | vmax f | vabs f | vneg f | vscale f | vdot4 f | vtacc f =>
    exact readsAs_v3 decode64_varith (by decide) (by decide) f rfl
  case vand f | vor f | vxor f | vsll f | vsrl f | vsra f =>
    exact readsAs_v3 decode64_vlogic (by decide) (by decide) f rfl
  case vcmpEq f | vcmpNe f | vcmpLt f | vcmpLe f | vcmpGt f | vcmpGe f | vcmpUnord f =>
    exact readsAs_v3 decode64_vcmp (by decide) (by decide) f rfl
  case vcvt src f => exact readsAs_vcvt src f
  case vrcp f | vrsq f | vsqrt f | vexp2 f | vlog2 f => exact readsAs_v3 decode64_vfunc (by decide) (by decide) f rfl
  case vredSum dir f => exact readsAs_vred (k := 0) (by decide) dir f rfl
  case vredMax dir f => exact readsAs_vred (k := 1) (by decide) dir f rfl
  case vredMin dir f => exact readsAs_vred (k := 2) (by decide) dir f rfl
  case vredSumx dir f => exact readsAs_vred (k := 3) (by decide) dir f rfl
  case vperm f | vrot f | vxl f | vbcast f | vscan f => exact readsAs_v3 decode64_vxlane (by decide) (by decide) f rfl
  case vpack f => exact readsAs_vpack f
  case vexpand f => exact readsAs_vexpand f
  case vsparse g8 kBig f => exact readsAs_vsparse g8 kBig f
  case vqb f | vdqb f => exact readsAs_v3 decode64_vblk (by decide) (by decide) f rfl
  case vmov f | vmvs f | vmvg f => exact readsAs_v3 decode64_vmove (by decide) (by decide) f rfl
  case mlogAnd f | mlogOr f | mlogXor f | mlogAndn f | mpopc f | mfirst f =>
    exact readsAs_v3 decode64_mask (by decide) (by decide) f rfl
  case vsel f | vunpk3 f | vshape f | vnset f | ftld f | popv f =>
    exact readsAs_v3Only (by decide) f fun w h => by rw [decode64, h]; rfl
  case vnx nest f => exact readsAs_vnx nest f
  case vld f | vst f | vlds f | vsts f | vgath f | vscat f =>
    exact readsAs_vm (by decide) f fun w h => by rw [decode64, h]; rfl
  case mclaim f | mrel f | mstat f | mzero f | fill f =>
    exact readsAs_ecOnly (by decide) f fun w h => by rw [decode64, h]; rfl
  case mgo fn f | mtile fn f | mdrain fn f | mldacc fn f | mspgo fn f =>
    exact readsAs_ecField (by decide) (by decide) fn f fun w h => by rw [decode64, h]; rfl
  case flush scope f => exact readsAs_ecField (by decide) (by decide) scope f fun w h => by rw [decode64, h]; rfl
  case grow et f | gscat et f => exact readsAs_ecField (by decide) (by decide) et f fun w h => by rw [decode64, h]; rfl
  case gbag et rm f => exact readsAs_gbag et rm f
  case cpy n f | cpy2d n f => exact readsAs_ecNotify (by decide) n f fun w h => by rw [decode64, h]; rfl
  case cpyslot f | cpyslotClaim f | cpyslotOut f => exact readsAs_cpyslot (by decide) f rfl
  case xstep f | xsend f | xrecv f | xred f => exact readsAs_ex (by decide) f fun w h => by rw [decode64, h]; rfl
  case amorAdd f | amorAnd f | amorOr f | amorXor f | amorMin f | amorMax f | amorMinu f | amorMaxu f | amorSwap f
      | amorFadd32 f | amorFmin32 f | amorFmax32 f =>
    exact readsAs_amor (by decide) f rfl
  case amox f => exact readsAs_amox f
  case li d lit =>
    exact readsAs_lh (mk := fun d _ _ lit => .li d lit) (by decide) d 0 0 lit fun w h => by rw [decode96, h]; rfl
  case lih d lit =>
    exact readsAs_lh (mk := fun d _ _ lit => .lih d lit) (by decide) d 0 0 lit fun w h => by rw [decode96, h]; rfl
  case addil d a lit =>
    exact readsAs_lh (mk := fun d a _ lit => .addil d a lit) (by decide) d a 0 lit fun w h => by rw [decode96, h]; rfl
  case lddl d a oc lit | stdl d a oc lit => exact readsAs_lh (by decide) d a oc lit fun w h => by rw [decode96, h]; rfl
  case vbcastl f lit => exact readsAs_vbcastl f lit
  case vsweep fn f => exact readsAs_vsweep fn f
  case mcfg f => exact readsAs_mcfg f
  all_goals exact absurd hw Bool.false_ne_true

/-! ### Little-endian bytes (R4) -/

theorem wordBytes_length (w : Nat) : ∀ n, (wordBytes w n).length = n := by
  intro n
  induction n generalizing w with
  | zero => rfl
  | succ n ih => rw [wordBytes, List.length_cons, ih]

theorem take_wordBytes {k n : Nat} (w : Nat) (h : k ≤ n) : (wordBytes w n).take k = wordBytes w k := by
  induction k generalizing w n with
  | zero => rfl
  | succ k ih =>
    obtain ⟨m, rfl⟩ : ∃ m, n = m + 1 := ⟨n - 1, by omega⟩
    rw [wordBytes, wordBytes, List.take_succ_cons, ih _ (by omega)]

theorem leNat_wordBytes (w : Nat) : ∀ n, leNat (wordBytes w n) = w % 256 ^ n := by
  intro n
  induction n generalizing w with
  | zero => rw [wordBytes, leNat, Nat.pow_zero, Nat.mod_one]
  | succ n ih => rw [wordBytes, leNat, ih, BitVec.toNat_ofNat, Nat.pow_succ' (m := 256), Nat.mod_mul]

/-- The decoder takes as many bytes as the first parcel announces. -/
theorem decodeBytes_wordBytes (c : DecodeCtx) {w n : Nat} (hn : parcelCount w = n) (h0 : 0 < n) (hw : w < 2 ^ (32 * n))
    (rest : List Byte) : decodeBytes c (wordBytes w (4 * n) ++ rest) = (decode c w, rest) := by
  have hlen := wordBytes_length w (4 * n)
  have hfirst : (wordBytes w (4 * n) ++ rest).take 4 = wordBytes w 4 := by
    rw [List.take_append_of_le_length (by omega), take_wordBytes w (by omega)]
  have hcount : parcelCount (leNat (wordBytes w 4)) = n := by
    rw [leNat_wordBytes, ← hn, parcelCount, parcelCount, Nat.mod_mod_of_dvd _ (by decide)]
  have hall : leNat (wordBytes w (4 * n)) = w := by
    rw [leNat_wordBytes, show 256 ^ (4 * n) = 2 ^ (32 * n) by rw [show 256 = 2 ^ 8 by rfl, ← pow_mul]; congr 1; omega]
    exact Nat.mod_eq_of_lt hw
  simp only [decodeBytes, hfirst, hcount, List.take_left' hlen, List.drop_left' hlen, hall]

end Sys2Proof
end

section
/-!
PROOFS. The steps of R70 on a word, the words that each step stops, and the obligations of the encoding.
-/
namespace Sys2Proof

/-! ### The steps of R70 -/

section
variable {c : DecodeCtx} {w : Nat} {i : Instr}

theorem first_eq_zero : BitVec.ofNat 32 w = 0 ↔ w % 2 ^ 32 = 0 := by
  rw [← BitVec.toNat_inj, BitVec.toNat_ofNat]; rfl

theorem op_of_decode32 (h : decode32 w = some i) : w / 4 % 64 ≤ 0x2F ∧ (w / 4 % 64 = 0 → w / 2 ^ 26 % 64 ≠ 0) := by
  constructor
  · unfold decode32 at h
    split at h
    any_goals omega
    cases h
  · intro ho hf
    rw [decode32_sys ho, hf] at h
    cases h

theorem op_of_decode64 (h : decode64 w = some i) :
    (1 ≤ w / 4 % 64 ∧ w / 4 % 64 ≤ 0x18) ∨ (0x20 ≤ w / 4 % 64 ∧ w / 4 % 64 ≤ 0x28) ∨
      (0x30 ≤ w / 4 % 64 ∧ w / 4 % 64 ≤ 0x3D) := by
  unfold decode64 at h
  split at h
  any_goals omega
  cases h

theorem op_of_decode96 (h : decode96 w = some i) : 1 ≤ w / 4 % 64 ∧ w / 4 % 64 ≤ 8 := by
  unfold decode96 at h
  split at h
  any_goals omega
  cases h

theorem opAssigned_of_decodeRaw (h : decodeRaw w = some i) : opAssigned w = true := by
  unfold decodeRaw at h
  split at h
  case h_1 hl =>
    obtain ⟨h1, h2⟩ := op_of_decode32 h
    simp [opAssigned, hl, h1]; omega
  case h_2 hl =>
    have := op_of_decode64 h
    simp [opAssigned, hl]; omega
  case h_3 hl =>
    have := op_of_decode96 h
    simp [opAssigned, hl]; omega
  case h_4 => cases h

/-- A word with an assigned opcode passes steps 2 and 3 of R70. -/
theorem opAssigned_first (h : opAssigned w = true) : w % 4 ≠ 3 ∧ BitVec.ofNat 32 w ≠ 0 := by
  rw [Ne, Ne, first_eq_zero]
  constructor
  · intro h3
    simp [opAssigned, h3] at h
  · intro h0
    have hl : w % 4 = 0 := by omega
    have ho : w / 4 % 64 = 0 := by omega
    have hf : w / 2 ^ 26 % 64 = 0 := by omega
    simp [opAssigned, hl, ho] at h; omega

theorem decode_illegalLength (h : w % 4 = 3) : decode c w = .fate (.illegalLength (BitVec.ofNat 32 w)) := by
  rw [decode, if_pos h]

theorem decode_zeroWord (h : w % 2 ^ 32 = 0) : decode c w = .fate .zeroWord := by
  rw [decode, if_neg (by omega), if_pos (first_eq_zero.mpr h)]

/-- Step 4. -/
theorem decode_unassigned (h3 : w % 4 ≠ 3) (h0 : w % 2 ^ 32 ≠ 0) (h : opAssigned w = false) :
    decode c w = .fate (.illegalOpcode (BitVec.ofNat 32 w)) := by
  rw [decode, if_neg h3, if_neg (mt first_eq_zero.mp h0), h]; rfl

/-- Step 5. -/
theorem decode_privilege (h : opAssigned w = true) (hp : isPrivileged w = true) (hs : c.sup = false) :
    decode c w = .fate (.privilege (BitVec.ofNat 32 w)) := by
  obtain ⟨h3, h0⟩ := opAssigned_first h
  rw [decode, if_neg h3, if_neg h0, h, hp, hs]; rfl

/-- Steps 6 and 7, on a word that has passed the first five. -/
theorem decode_checked (h : opAssigned w = true) (hp : c.sup = true ∨ isPrivileged w = false) :
    decode c w = match decodeRaw w with
      | none => .fate (.illegalOpcode (BitVec.ofNat 32 w))
      | some i =>
        if !legal c i then .fate (.illegalOpcode (BitVec.ofNat 32 w))
        else if encode i ≠ w || !zeroOk i then .fate (.reservedField (BitVec.ofNat 32 w))
        else .instr i := by
  obtain ⟨h3, h0⟩ := opAssigned_first h
  have hp' : (isPrivileged w && !c.sup) = false := by obtain h | h := hp <;> simp [h]
  rw [decode, if_neg h3, if_neg h0, h, hp']; rfl

theorem decode_instr (hp : c.sup = true ∨ isPrivileged w = false) (hr : decodeRaw w = some i) (hl : legal c i = true)
    (he : encode i = w) (hz : zeroOk i = true) : decode c w = .instr i := by
  rw [decode_checked (opAssigned_of_decodeRaw hr) hp, hr]
  simp [hl, he, hz]

theorem decode_noFn (h : opAssigned w = true) (hp : isPrivileged w = false) (hr : decodeRaw w = none) :
    decode c w = .fate (.illegalOpcode (BitVec.ofNat 32 w)) := by
  rw [decode_checked h (.inr hp), hr]

theorem decode_illegalValue (hp : isPrivileged w = false) (hr : decodeRaw w = some i) (hl : legal c i = false) :
    decode c w = .fate (.illegalOpcode (BitVec.ofNat 32 w)) := by
  rw [decode_checked (opAssigned_of_decodeRaw hr) (.inr hp), hr]
  simp [hl]

theorem decode_reservedField (hp : isPrivileged w = false) (hr : decodeRaw w = some i) (hl : legal c i = true)
    (he : encode i ≠ w) : decode c w = .fate (.reservedField (BitVec.ofNat 32 w)) := by
  rw [decode_checked (opAssigned_of_decodeRaw hr) (.inr hp), hr]
  simp [hl, he]

/-- What the decoder answers as an instruction has passed the checks and has that word. -/
theorem decode_gives (h : decode c w = .instr i) : encode i = w ∧ legal c i = true ∧ zeroOk i = true := by
  simp only [decode] at h
  split at h
  · cases h
  split at h
  · cases h
  split at h
  · cases h
  split at h
  · cases h
  split at h
  · cases h
  case _ j hraw =>
    split at h
    · cases h
    case _ hl =>
      split at h
      · cases h
      case _ hz =>
        cases h
        simp_all

end

/-! ### The fates in their order -/

section
variable {c : DecodeCtx} {w : Nat}

/-- A word is privileged for its opcode: TINV, or a CSR instruction at 0x0E0 or above. -/
theorem isPrivileged_iff : isPrivileged w = true ↔
    w % 4 = 0 ∧ (w / 4 % 64 = 0x2D ∨ (w / 4 % 64 = 0x2A ∧ 0x0E0 ≤ w / 2 ^ 22 % 1024)) := by
  simp [isPrivileged]

theorem isPrivileged_of_op (h : w / 4 % 64 ≠ 0x2D ∧ w / 4 % 64 ≠ 0x2A) : isPrivileged w = false := by
  rw [← Bool.not_eq_true, isPrivileged_iff]; omega

theorem isPrivileged_of_len (h : w % 4 ≠ 0) : isPrivileged w = false := by
  rw [← Bool.not_eq_true, isPrivileged_iff]; omega

theorem decAlu_none {fn : Nat} (h : 18 ≤ fn) (d a b : Reg) : decAlu fn d a b = none := by
  unfold decAlu
  split
  any_goals omega
  rfl

theorem decode_alu_noFn (hl : w % 4 = 0) (ho : w / 4 % 64 = 0x01) (hf : 18 ≤ w / 2 ^ 26 % 64) :
    decode c w = .fate (.illegalOpcode (BitVec.ofNat 32 w)) :=
  decode_noFn (by simp [opAssigned, hl, ho]) (isPrivileged_of_op (by omega))
    (by rw [decodeRaw_of_len0 hl, decode32_alu ho, decAlu_none hf])

theorem decode_loops_zero (hl : w % 4 = 0) (ho : w / 4 % 64 = 0x10) (hi : w / 2 ^ 20 % 2 ^ 12 = 0) :
    decode c w = .fate (.illegalOpcode (BitVec.ofNat 32 w)) :=
  decode_illegalValue (isPrivileged_of_op (by omega)) ((decodeRaw_of_len0 hl).trans (decode32_loops ho))
    (by rw [fld_eq (x := 0#12) hi]; rfl)

theorem decode_fence_scope (hl : w % 4 = 0) (ho : w / 4 % 64 = 0x26) (hs : 6 ≤ w / 2 ^ 24 % 8) :
    decode c w = .fate (.illegalOpcode (BitVec.ofNat 32 w)) :=
  decode_illegalValue (isPrivileged_of_op (by omega)) ((decodeRaw_of_len0 hl).trans (decode32_fence ho))
    (by simp [legal, vuse, fld]; omega)

theorem decode_tret_value (hl : w % 4 = 0) (ho : w / 4 % 64 = 0) (hf : w / 2 ^ 26 % 64 = 5) (ha : 2 ≤ w / 2 ^ 14 % 64) :
    decode c w = .fate (.illegalOpcode (BitVec.ofNat 32 w)) :=
  decode_noFn (by simp [opAssigned, hl, ho]; omega) (isPrivileged_of_op (by omega)) (by
    have ha' : ¬ (fld w 14 6).toNat < 2 := by rw [fld, BitVec.toNat_ofNat]; omega
    rw [decodeRaw_of_len0 hl, decode32_sys ho, hf, decSys, if_neg ha'])

/-- The accesses of format VM name vector registers below VREGS (R142). -/
theorem decode_vm_vregs (hl : w % 4 = 1) (ho : 0x0C ≤ w / 4 % 64 ∧ w / 4 % 64 ≤ 0x11) (hv : c.vregs ≤ w / 2 ^ 14 % 512) :
    decode c w = .fate (.illegalOpcode (BitVec.ofNat 32 w)) := by
  have hvd : ¬ (unpackVM w).vd.toNat < c.vregs := by rw [unpackVM, fld, BitVec.toNat_ofNat]; omega
  obtain ⟨i, hr, hi⟩ : ∃ i, decode64 w = some i ∧ legal c i = false := by
    obtain h | h | h | h | h | h : w / 4 % 64 = 0x0C ∨ w / 4 % 64 = 0x0D ∨ w / 4 % 64 = 0x0E ∨ w / 4 % 64 = 0x0F
      ∨ w / 4 % 64 = 0x10 ∨ w / 4 % 64 = 0x11 := by omega
    all_goals
      rw [decode64, h]
      exact ⟨_, rfl, by simp [legal, vuse, hvd]⟩
  exact decode_illegalValue (isPrivileged_of_len (by omega)) ((decodeRaw_of_len1 hl).trans hr) hi

/-- E of a matrix command is not 3 (R302). -/
theorem decode_matrix_e (hl : w % 4 = 1) (ho : 0x20 ≤ w / 4 % 64 ∧ w / 4 % 64 ≤ 0x28) (he : w / 2 ^ 42 % 4 = 3) :
    decode c w = .fate (.illegalOpcode (BitVec.ofNat 32 w)) := by
  have he' : (unpackEC w).e = 3 := by rw [unpackEC]; exact fld_eq he
  obtain ⟨i, hr, hi⟩ : ∃ i, decode64 w = some i ∧ legal c i = false := by
    obtain h | h | h | h | h | h | h | h | h : w / 4 % 64 = 0x20 ∨ w / 4 % 64 = 0x21 ∨ w / 4 % 64 = 0x22
      ∨ w / 4 % 64 = 0x23 ∨ w / 4 % 64 = 0x24 ∨ w / 4 % 64 = 0x25 ∨ w / 4 % 64 = 0x26 ∨ w / 4 % 64 = 0x27
      ∨ w / 4 % 64 = 0x28 := by omega
    all_goals
      rw [decode64, h]
      exact ⟨_, rfl, by simp [legal, vuse, he']⟩
  exact decode_illegalValue (isPrivileged_of_len (by omega)) ((decodeRaw_of_len1 hl).trans hr) hi

theorem decode_nop_reserved (hl : w % 4 = 0) (ho : w / 4 % 64 = 0) (hf : w / 2 ^ 26 % 64 = 1)
    (hz : w / 2 ^ 8 % 2 ^ 18 ≠ 0) : decode c w = .fate (.reservedField (BitVec.ofNat 32 w)) :=
  decode_reservedField (i := .nop) (isPrivileged_of_op (by omega))
    (by rw [decodeRaw_of_len0 hl, decode32_sys ho, hf, decSys]) rfl
    (by rintro rfl; exact hz (by decide))

theorem decode_chk_reserved (hl : w % 4 = 0) (ho : w / 4 % 64 = 0x11) (hz : w / 2 ^ 20 % 2 ^ 12 ≠ 0) :
    decode c w = .fate (.reservedField (BitVec.ofNat 32 w)) :=
  decode_reservedField (i := .chk (fld w 14 6)) (isPrivileged_of_op (by omega))
    (by rw [decodeRaw_of_len0 hl, decode32, ho]; rfl) rfl
    (by rw [encode, packS3]; omega)

theorem decode_li_reserved (hl : w % 4 = 2) (ho : w / 4 % 64 = 1) (hz : w / 2 ^ 14 % 2 ^ 50 ≠ 0) :
    decode c w = .fate (.reservedField (BitVec.ofNat 32 w)) :=
  decode_reservedField (i := .li (fld w 8 6) (fld w 64 32)) (isPrivileged_of_len (by omega))
    (by rw [decodeRaw_of_len2 hl, decode96, ho]; rfl) rfl
    (by rw [encode, packLH]; omega)

end

/-- Settles O57: `encode_readsAs` gives the maps' reading of every word, and the checks of R70 pass by assumption. -/
theorem decodeGivesBack : Obligations.DecodeGivesBack := by
  unfold Obligations.DecodeGivesBack
  intro i rest hw hi
  obtain ⟨hl, hz⟩ : legal DecodeCtx.permissive i = true ∧ zeroOk i = true := by
    simpa [Instr.wellFormed] using hw
  obtain ⟨hraw, hlen, hsize⟩ := encode_readsAs hi hz
  have hdec : ∀ c : DecodeCtx, (c.sup = true ∨ isPrivileged (encode i) = false) → legal c i = true →
      decode c (encode i) = .instr i := fun c hp hl => decode_instr hp hraw hl rfl hz
  have hn3 := (opAssigned_first (opAssigned_of_decodeRaw hraw)).1
  have hcount : parcelCount (encode i) = parcels i := by rw [parcelCount, if_neg hn3, hlen]
  exact ⟨by rw [decodeBytes_wordBytes _ hcount (by omega) hsize, hdec _ (.inl rfl) hl], hdec⟩

/-- Settles O56: each clause is the step of R70 that its words reach first. -/
theorem fatesInOrder : Obligations.FatesInOrder := by
  unfold Obligations.FatesInOrder
  intro c w
  refine ⟨decode_illegalLength, decode_zeroWord, ?_, ?_, ?_, ?_, ?_, ?_, ?_, ?_, ?_, fun i h => decode_gives h⟩
  · intro hl ho
    exact decode_unassigned (by omega) (by omega) (by simp [opAssigned, hl]; omega)
  · intro hl ho hf hz
    exact decode_unassigned (by omega) hz (by simp [opAssigned, hl, ho]; omega)
  · intro hl ho
    exact decode_unassigned (by omega) (by omega) (by simp [opAssigned, hl]; omega)
  · intro hl ho
    exact decode_unassigned (by omega) (by omega) (by simp [opAssigned, hl]; omega)
  · intro hl hs hop
    exact decode_privilege (by simp [opAssigned, hl]; omega) (isPrivileged_iff.mpr ⟨hl, hop⟩) hs
  · rintro hl (⟨ho, hf⟩ | ⟨ho, hi⟩ | ⟨ho, hs⟩ | ⟨ho, hf, ha⟩)
    · exact decode_alu_noFn hl ho hf
    · exact decode_loops_zero hl ho hi
    · exact decode_fence_scope hl ho hs
    · exact decode_tret_value hl ho hf ha
  · rintro hl (⟨h1, h2, hv⟩ | ⟨h1, h2, he⟩)
    · exact decode_vm_vregs hl ⟨h1, h2⟩ hv
    · exact decode_matrix_e hl ⟨h1, h2⟩ he
  · rintro hl (⟨ho, hf, hz⟩ | ⟨ho, hz⟩)
    · exact decode_nop_reserved hl ho hf hz
    · exact decode_chk_reserved hl ho hz
  · exact decode_li_reserved

end Sys2Proof
end

section
/-!
PROOFS. Traps that an instruction or a fetched word always takes: what the trap CSRs hold of it (R70, R174, R222, R241).
-/
namespace Sys2Proof.Machine

/-- `u` is `s` on the way to a trap: what the trap records of the strand, its task and its launch is the same. -/
structure TrapSees (s u : State) : Prop where
  sel : u.sel = s.sel
  hasTask : u.hasTask s.sel.task = true
  regs : Machine.regs u = Machine.regs s
  trap : (myTask u).trap = (myTask s).trap
  launch : myLaunch u = myLaunch s
  slot : recordSlot u s.sel.task = recordSlot s s.sel.task
  passed : shortOfFault (myTask u) s.sel.strand = shortOfFault (myTask s) s.sel.strand

theorem TrapSees.trans {s u v : State} (h1 : TrapSees s u) (h2 : TrapSees u v) : TrapSees s v where
  sel := h2.sel.trans h1.sel
  hasTask := by rw [← h1.sel]; exact h2.hasTask
  regs := h2.regs.trans h1.regs
  trap := h2.trap.trans h1.trap
  launch := h2.launch.trans h1.launch
  slot := by rw [← h1.slot, ← h1.sel]; exact h2.slot
  passed := by rw [← h1.passed, ← h1.sel]; exact h2.passed

/-- A change of the task that leaves its place, its queues, its trap CSRs and the strand's registers alone. -/
theorem TrapSees.modTask {s : State} (hT : s.hasTask s.sel.task = true) {f : Task → Task}
    (hf : f (myTask s) = { myTask s with
      lastIssued := (f (myTask s)).lastIssued, strands := (f (myTask s)).strands, lvq := (f (myTask s)).lvq })
    (hr : ((f (myTask s)).strand s.sel.strand).r = Machine.regs s) : TrapSees s (s.modTask s.sel.task f) := by
  have htask : (s.modTask s.sel.task f).task s.sel.task = f (myTask s) := State.task_modTask_same hT f
  have hlaunch : (f (myTask s)).launch = (myTask s).launch := by rw [hf]
  have hl : (s.modTask s.sel.task f).launchOf s.sel.task = s.launchOf s.sel.task := by
    unfold State.launchOf
    rw [htask, hlaunch]; rfl
  constructor
  · rfl
  · rw [State.hasTask_modTask, hT]
  · show (((s.modTask s.sel.task f).task s.sel.task).strand s.sel.strand).r = _
    rw [htask, hr]
  · show ((s.modTask s.sel.task f).task s.sel.task).trap = _
    rw [htask, hf]
  · exact hl
  · unfold recordSlot
    rw [htask, hl, hf]; rfl
  · show shortOfFault ((s.modTask s.sel.task f).task s.sel.task) _ = _
    rw [htask, hf]; rfl

theorem TrapSees.turn {s : State} (hT : s.hasTask s.sel.task = true) : TrapSees s (takeTurn s s.sel.task s.sel.strand) :=
  .modTask (f := turnTask s.sel.strand) hT rfl (by rw [turnTask_strand]; rfl)

theorem TrapSees.begin_ {s : State} (hT : s.hasTask s.sel.task = true) : TrapSees s (begin_ s) :=
  .modTask (f := beginTask s.sel.strand) hT rfl (by rw [beginTask_strand, if_pos rfl]; rfl)

theorem TrapSees.agree {s : State} (hT : s.hasTask s.sel.task = true) (hr : (me s).replaying = false) :
    TrapSees s (guardAgree s s.sel.task s.sel.strand) := by
  rw [guardAgree_first hr]
  exact .modTask (f := agreeTask s.sel.strand) hT (agreeTask_eq _ _) (by rw [agreeTask_strand_same]; rfl)

/-- A trap of the strand outside handlers, taken on the way: its CSRs (R174). -/
theorem TrapSees.csrs {s u : State} (h : TrapSees s u) (hh : (Machine.regs s).hnd = false)
    (hr : (Machine.regs s).her = false) (tr : Trap) (ilen : Nat) :
    (myTask (takeTrap u s.sel.task s.sel.strand none tr (pcOf s) ilen)).trap = { (myTask s).trap with
      tcause := tcauseOf tr none ilen, tpc := pcOf s, tval := tr.tval, tstatus := statusWord (Machine.regs s) (myLaunch s),
      trec := recordSlot s s.sel.task } := by
  have hregs : (u.strand s.sel.task s.sel.strand).r = Machine.regs s := by rw [← h.regs, ← h.sel]; rfl
  have htrap : (u.task s.sel.task).trap = (myTask s).trap := by rw [← h.trap, ← h.sel]; rfl
  have hlaunch : u.launchOf s.sel.task = myLaunch s := by rw [← h.launch, ← h.sel]; rfl
  unfold myTask
  rw [takeTrap_sel, h.sel, takeTrap_csrs h.hasTask (by rw [hregs, hh]) (by rw [hregs, hr]), hregs, htrap, hlaunch, h.slot]
  rfl

theorem TrapSees.held {s u : State} (h : TrapSees s u) (hh : (Machine.regs s).hnd = false)
    (hr : (Machine.regs s).her = false) {tr : Trap} (hs : tr.stage = false) (hres : tr.res = false) (ilen : Nat) :
    TrapHeld s (takeTrap u s.sel.task s.sel.strand none tr (pcOf s) ilen) tr.cause tr.tval tr.chk ilen := by
  constructor <;> rw [h.csrs hh hr]
  exact tcauseOf_strand tr ilen hs hres

section
variable {s : State} {i : Instr} {body : M Next} {tr : Trap}

/-- A body that ends in a trap, of an instruction that need not. -/
theorem strandStep_held (h : Runs s) (hh : (regs s).hnd = false) (hr : (regs s).her = false) (hi : trapsAlways i = false)
    (hb : body (begin_ s) = .error (.trap tr)) (hs : tr.stage = false) (hres : tr.res = false) :
    ∃ t, strandStep i body s = .next t ∧ TrapHeld s t tr.cause tr.tval tr.chk (parcels i) :=
  ⟨_, strandStep_traps h hi hb, (TrapSees.begin_ h.hasTask).held hh hr hs hres _⟩

/-- An instruction that is its trap: the pair compares it first (R247). -/
theorem strandStep_heldAlways (h : Runs s) (hh : (regs s).hnd = false) (hr : (regs s).her = false)
    (hi : trapsAlways i = true) (hb : body (begin_ s) = .error (.trap tr)) (hs : tr.stage = false) (hres : tr.res = false) :
    ∃ t, strandStep i body s = .next t ∧ TrapHeld s t tr.cause tr.tval tr.chk (parcels i) := by
  have hbegin := TrapSees.begin_ h.hasTask
  have hme : me (begin_ s) = { turned s (me s) with undoUsed := 0 } := me_begin h.hasTask
  have hsees : TrapSees s (guardAgree (begin_ s) s.sel.task s.sel.strand) :=
    hbegin.trans (.agree hbegin.hasTask (by rw [hme]; exact h.settled))
  have hp : shortOfFault ((guardAgree (begin_ s) s.sel.task s.sel.strand).task s.sel.task) s.sel.strand = false := by
    have := hsees.passed.trans h.passed
    unfold myTask at this
    rwa [hsees.sel] at this
  have hpc : ((guardAgree (begin_ s) s.sel.task s.sel.strand).strand s.sel.task s.sel.strand).r.pc = pcOf s := by
    have := congrArg StrandRegs.pc hsees.regs
    unfold regs me at this
    rwa [hsees.sel] at this
  refine ⟨_, ?_, hsees.held hh hr hs hres _⟩
  rw [strandStep_runs h, hb]
  unfold conclude bodyNext applyStop
  simp only [hi, hp, hpc, Bool.false_eq_true, if_false, if_true]

/-- A word with a fate: the strand takes the fate's trap in its turn. -/
theorem execEncodingNotInstruction_traps (h : Runs s) (f : Fate) :
    exec (.encodingNotInstruction f) s =
      .next (takeTrap (takeTurn s s.sel.task s.sel.strand) s.sel.task s.sel.strand none (fateTrap f) (pcOf s)
        (fateLength f)) := by
  have hsees := TrapSees.turn h.hasTask
  have hp : shortOfFault ((takeTurn s s.sel.task s.sel.strand).task s.sel.task) s.sel.strand = false :=
    hsees.passed.trans h.passed
  have hpc : ((takeTurn s s.sel.task s.sel.strand).strand s.sel.task s.sel.strand).r.pc = pcOf s :=
    congrArg StrandRegs.pc hsees.regs
  have hdue : ((takeTurn s s.sel.task s.sel.strand).strand s.sel.task s.sel.strand).stepDue = false := by
    show (((takeTurn s s.sel.task s.sel.strand).task s.sel.task).strand s.sel.strand).stepDue = false
    rw [takeTurn_task h.hasTask, turnTask_strand]
    exact h.noStep
  show execEncodingNotInstruction f s = _
  unfold execEncodingNotInstruction
  simp only [h.issues, hdue, hp, hpc, Bool.not_true, Bool.false_eq_true, if_false]

theorem encodingNotInstruction_held (h : Runs s) (hh : (regs s).hnd = false) (hr : (regs s).her = false) (f : Fate)
    (hs : (fateTrap f).stage = false) :
    ∃ t, exec (.encodingNotInstruction f) s = .next t
      ∧ TrapHeld s t (fateTrap f).cause (fateTrap f).tval (fateTrap f).chk (fateLength f) :=
  ⟨_, execEncodingNotInstruction_traps h f, (TrapSees.turn h.hasTask).held hh hr hs (by cases f <;> rfl) _⟩

theorem tcauseOf_fetchFault (miss stage : Bool) (addr : Word) :
    tcauseOf (fateTrap (.fetchFault miss stage addr)) none 1 = w64 ((if miss then 7 else 8) + 2 ^ 7 * b2n stage + 2 ^ 13) := by
  simp only [tcauseOf, fateTrap, packFields, b2n, Option.isSome_none, Option.getD_none]
  refine congrArg w64 ?_
  cases miss <;> cases stage <;> simp

/-- CHK of a ready register, up to its look at the poison. -/
theorem chk_traps (h : Runs s) {a : Reg} (hready : Ready s [a]) (hsound : Sound s [a])
    (hp : (regs s).poisonOf a.toNat ≠ 0) (hh : (regs s).hnd = false) (hr : (regs s).her = false) :
    ∃ t, exec (.chk a) s = .next t ∧ TrapHeld s t ((regs s).poisonOf a.toNat) ((regs s).gr a.toNat) true 1 := by
  have hregs := regs_begin h.hasTask
  have hnr : a.toNat ∉ (me (begin_ s)).notReady := by rw [me_begin h.hasTask]; exact hready a (by simp)
  have hgood : a.toNat ∉ (regs (begin_ s)).bad ∧ a.toNat ∉ (regs (begin_ s)).guardBad := by
    rw [hregs]; exact hsound a (by simp)
  refine strandStep_held (tr := { cause := (regs s).poisonOf a.toNat, tval := (regs s).gr a.toNat, chk := true })
    h hh hr rfl ?_ rfl rfl
  rw [M.bind_ok (M.rd_run hnr hgood), M.curStrand_bind]
  have hp' : (me (begin_ s)).r.poisonOf a.toNat = (regs s).poisonOf a.toNat := by rw [← hregs]; rfl
  simp only [hp', hregs, ne_eq, hp, not_false_eq_true, if_true]
  rfl

theorem chk_bad (h : Runs s) {a : Reg} (hready : Ready s [a])
    (hbad : a.toNat ∈ (regs s).bad ∨ a.toNat ∈ (regs s).guardBad) (hh : (regs s).hnd = false) (hr : (regs s).her = false) :
    ∃ t, exec (.chk a) s = .next t ∧ TrapHeld s t 19 0 false 1 := by
  have hregs := regs_begin h.hasTask
  have hnr : a.toNat ∉ (me (begin_ s)).notReady := by rw [me_begin h.hasTask]; exact hready a (by simp)
  refine strandStep_held (tr := { cause := 19, tval := 0 }) h hh hr rfl (M.bind_error ?_) rfl rfl
  unfold rd
  rw [M.bind_ok (M.needReady_run hnr)]
  refine M.bind_error ?_
  unfold needGood
  rw [M.curStrand_bind, if_pos (by rw [← hregs] at hbad; exact hbad)]
  rfl

end

/-- Settles O11: each of these steps ends in a trap, whose CSRs are those of `TrapSees.csrs`. -/
theorem trapTaken : Obligations.TrapTaken := by
  unfold Obligations.TrapTaken
  intro s h hh hr
  refine ⟨fun code => ?_, ?_, fun a hready => ⟨fun hsound hp => ?_, fun hbad => ?_⟩, fun p => ?_, fun miss stage addr => ?_⟩
  · exact strandStep_heldAlways (tr := { cause := 32, tval := code.setWidth 64 }) h hh hr rfl rfl rfl rfl
  · exact strandStep_heldAlways (tr := { cause := 29, tval := 0 }) h hh hr rfl rfl rfl rfl
  · exact chk_traps h hready hsound hp hh hr
  · exact chk_bad h hready hbad hh hr
  · exact ⟨encodingNotInstruction_held h hh hr _ rfl, encodingNotInstruction_held h hh hr _ rfl,
      encodingNotInstruction_held h hh hr _ rfl, encodingNotInstruction_held h hh hr _ rfl,
      encodingNotInstruction_held h hh hr _ rfl⟩
  · have hcsrs := (TrapSees.turn h.hasTask).csrs hh hr (fateTrap (.fetchFault miss stage addr)) 1
    refine ⟨_, execEncodingNotInstruction_traps h _, ?_, ?_, ?_, ?_⟩ <;> rw [show fateLength _ = 1 from rfl, hcsrs]
    · exact tcauseOf_fetchFault miss stage addr
    · rfl

end Sys2Proof.Machine
end

section
/-!
PROOFS. A step of an issuing strand: what it fetched and decoded, or what stops it before (R56, R57, R70, R190).
-/
namespace Sys2Proof.Machine

section
variable {sel : Sel} {rest : List Pick} {s : State}

/-- The pick that heads the agenda acts. -/
theorem step_of_agenda {p : Pick} (h : s.agenda = p :: rest) : step s = act p { s with agenda := rest } := by
  unfold step; rw [h]

theorem act_event {i : Instr} (he : encode i = 0) (hi : ∀ f, i ≠ .encodingNotInstruction f) :
    act (.event i sel) s = exec i { s with sel := sel } := by
  unfold act
  simp only [he, ne_eq, not_true, if_false]

theorem issue_held (h : canIssue s s.sel.task s.sel.strand = false) : issue s = .next s := by
  unfold issue; rw [h]; rfl

variable (hc : canIssue s s.sel.task s.sel.strand = true)
include hc

theorem issue_struck {r : FaultReport} (h : (regs s).struck = some r) :
    issue s = .next (takeStruck s s.sel.task s.sel.strand r) := by
  have h' : (s.strand s.sel.task s.sel.strand).r.struck = some r := h
  unfold issue
  simp only [hc, h', Bool.not_true, Bool.false_eq_true, if_false]

theorem issue_routine (h : (regs s).struck = none) (hr : (me s).routine ≠ none) : issue s = .next (routineStep s) := by
  have h' : (s.strand s.sel.task s.sel.strand).r.struck = none := h
  have hr' : (s.strand s.sel.task s.sel.strand).routine.isSome = true := Option.isSome_iff_ne_none.mpr hr
  unfold issue
  simp only [hc, h', hr', Bool.not_true, Bool.false_eq_true, if_false, if_true]

theorem issue_fetches (h : (regs s).struck = none) (hr : (me s).routine = none) :
    issue s = match fetchAt s s.sel.task s.sel.strand with
      | .run i => exec i s
      | .fate f => exec (.encodingNotInstruction f) s
      | .stop x len => .next (fetchStopped x len s) := by
  have h' : (s.strand s.sel.task s.sel.strand).r.struck = none := h
  have hr' : (s.strand s.sel.task s.sel.strand).routine = none := hr
  unfold issue
  simp only [hc, h', hr', Bool.not_true, Bool.false_eq_true, if_false, Option.isSome_none] <;>
    rfl

end

section
variable {s : State} {p w : Nat} (hp : fetchParcel s s.sel.task s.sel.strand (pcOf s) = .ok p)
  (hw : fetchParcels s s.sel.task s.sel.strand (parcelCount p) 0 (pcOf s) = .ok w)
include hp hw

/-- A fetch that succeeds is decoded in the strand's privilege state and VREGS (R142). -/
theorem fetchAt_decodes : fetchAt s s.sel.task s.sel.strand =
    match decode { sup := (myLaunch s).sup, vregs := (myLaunch s).vregs } w with
    | .instr i => .run i
    | .fate f => commandFate (me s) w f := by
  have hp' : fetchParcel s s.sel.task s.sel.strand (s.strand s.sel.task s.sel.strand).r.pc = .ok p := hp
  have hw' : fetchParcels s s.sel.task s.sel.strand (parcelCount p) 0 (s.strand s.sel.task s.sel.strand).r.pc = .ok w := hw
  unfold fetchAt
  simp only [hp', hw']
  rfl

end

section
variable {x : Strand} {w : Nat} {f : Fate} (hready : ∀ n ∈ commandRegs x.r w, n ∉ x.notReady)
include hready

theorem commandRegs_ready : (commandRegs x.r w).find? (fun n => x.notReady.contains n) = none := by
  rw [List.find?_eq_none]
  intro n hn
  simpa using hready n hn

theorem commandFate_clean (h : ∀ n ∈ commandRegs x.r w, x.r.poisonOf n = 0) : commandFate x w f = .fate f := by
  have hclean : (commandRegs x.r w).find? (fun n => x.r.poisonOf n != 0) = none := by
    rw [List.find?_eq_none]
    intro n hn
    simpa using h n hn
  unfold commandFate
  simp only [commandRegs_ready hready, hclean]

theorem commandFate_poisoned {n : Nat} (h : (commandRegs x.r w).find? (fun n => x.r.poisonOf n != 0) = some n) :
    commandFate x w f = .stop (.trap { cause := 11, tval := w64 n }) 2 := by
  unfold commandFate
  simp only [commandRegs_ready hready, h]

end

/-- Settles O58: `issue` is followed case by case, and the fetch by `fetchAt_decodes`. -/
theorem stepRunsDecoded : Obligations.StepRunsDecoded := by
  unfold Obligations.StepRunsDecoded
  intro sel rest s u
  refine ⟨fun ha => ?_, fun i ha he hi => (step_of_agenda ha).trans (act_event he hi)⟩
  have hstep : step s = issue u := step_of_agenda ha
  rw [hstep]
  refine ⟨fun hc => issue_held hc, fun hc => ⟨fun r h => issue_struck hc h, fun h hr => issue_routine hc h hr, ?_⟩⟩
  intro h hr p w hp hw reads
  rw [issue_fetches hc h hr, fetchAt_decodes hp hw]
  refine ⟨fun i hi => by rw [hi], fun f hf hready => ⟨fun hclean => ?_, fun n hn => ?_⟩⟩
  · rw [hf]
    simp only [commandFate_clean (x := me u) hready hclean]
  · rw [hf]
    simp only [commandFate_poisoned (x := me u) hready hn]

end Sys2Proof.Machine
end

section
/-!
PROOFS. A load of a page that its launch may fetch from (R57, R104).
-/
namespace Sys2Proof.Machine
open Sys2Proof.Tests

/-- A load of the word at 0x4000 of die 0's HBM, on a page with the X right. -/
def codeLoad : Msg := { req5 (.hbm 0) 0x4000 .load with acc := { (req5 (.hbm 0) 0x4000 .load).acc with exec := true } }

/-- The load has arrived, and fetches may still see what an earlier store has overwritten in the parcel there. -/
def codeLoaded : State := { wn codeLoad with oldCode := [{ launch := 1, task := 1, strand := 0, pa := 0x4000, old := 0 }] }

theorem codeLoaded_atHome : AtHome codeLoaded codeLoad := by constructor <;> decide +kernel

theorem codeLoaded_arrived : Arrived codeLoaded codeLoad 0 := ⟨by decide +kernel, rfl, by decide +kernel, nofun, rfl⟩

/-- The load adds an old parcel of its own, as if it had stored. -/
theorem codeLoaded_notes : after .requestRead codeLoaded (fun t => t.oldCode.length == 2) = true := by decide +kernel

/-- Refutes O38, in its clause on a load: `performAt` notes the parcels of every access to a page with the X right, a load's
too, where an earlier store to the parcel may still be unseen; so the load changes what fetches may see, which the statement
keeps. -/
theorem not_requestsPerform : ¬ Obligations.RequestsPerform := by
  unfold Obligations.RequestsPerform
  rintro ⟨h, -⟩
  obtain ⟨hload, -⟩ := h codeLoad codeLoaded codeLoaded_atHome
  obtain ⟨t, ht, hanswered⟩ := (hload codeLoaded_arrived rfl).1 nofun nofun
  have hkept : t.oldCode = codeLoaded.oldCode := by rw [hanswered.outside]; rfl
  have hnotes := codeLoaded_notes
  unfold after at hnotes
  rw [ht] at hnotes
  change (t.oldCode.length == 2) = true at hnotes
  rw [hkept] at hnotes
  exact absurd hnotes (by decide)

end Sys2Proof.Machine
end

section
/-!
PROOFS. Memories in canonical form (log entry 3): the invariant of every memory, and how an update keeps it.
-/
namespace Sys2Proof.Machine
-- One proof after another, here and below: many at once wait in threads whose stacks exceed the check's memory limit.
set_option Elab.async false

/-! ### Memories in canonical form -/

theorem writeByte_wf {m : SMap Byte} (h : Memory.wf m = true) (a : Nat) (b : Byte) : Memory.wf
    (writeByte m a b) = true :=
  SMap.wf_set h a b

theorem writeBytes_wf {m : SMap Byte} (h : Memory.wf m = true) (a : Nat) (bs : List Byte) :
    Memory.wf (writeBytes m a bs) = true := by
  induction bs generalizing m a with
  | nil => exact h
  | cons b bs ih => exact ih (writeByte_wf h a b) (a + 1)

theorem writeEnabled_wf {m : SMap Byte} (h : Memory.wf m = true) (a : Nat) (bs : List (Option Byte)) :
    Memory.wf (writeEnabled m a bs) = true := by
  induction bs generalizing m a with
  | nil => exact h
  | cons b bs ih =>
    cases b with
    | none => exact ih h (a + 1)
    | some b => exact ih (writeByte_wf h a b) (a + 1)

theorem SMap.sorted_filter {α : Type} {m : SMap α} (h : SMap.sorted m = true) (p : Nat × α → Bool) :
    SMap.sorted (m.filter p) = true := by
  induction m with
  | nil => rfl
  | cons e r ih =>
    simp only [SMap.sorted, Bool.and_eq_true] at h
    rw [List.filter_cons]
    split
    · simp only [SMap.sorted, Bool.and_eq_true]
      refine ⟨?_, ih h.2⟩
      have habove := h.1
      simp only [SMap.above, List.all_eq_true] at habove ⊢
      exact fun x hx => habove x (List.mem_filter.mp hx).1
    · exact ih h.2

theorem filter_wf {m : SMap Byte} (h : Memory.wf m = true) (p : Nat × Byte → Bool) : Memory.wf
    (m.filter p) = true := by
  simp only [Memory.wf, SMap.wf, Bool.and_eq_true, List.all_eq_true] at h ⊢
  exact ⟨SMap.sorted_filter h.1 p, fun e he => h.2 e (List.mem_filter.mp he).1⟩

/-! ### The invariant -/

/-- The scratchpad and the heritage region of a task are in canonical form. -/
structure TaskWf (x : Task) : Prop where
  spad : Memory.wf x.spad = true
  heritage : Memory.wf x.heritage = true

/-- Every memory of the machine is in canonical form. -/
structure MemWf (s : State) : Prop where
  mem : Memory.wf s.mem = true
  win : Memory.wf s.win = true
  tasks : ∀ e ∈ s.tasks, TaskWf e.2

theorem memWf_iff {s : State} : MemWf s ↔ memoriesWf s ∧ spadsWf s :=
  ⟨fun h => ⟨⟨h.mem, h.win⟩, fun e he => ⟨(h.tasks e he).spad, (h.tasks e he).heritage⟩⟩,
   fun h => ⟨h.1.1, h.1.2, fun e he => ⟨(h.2 e he).1, (h.2 e he).2⟩⟩⟩

section
variable {s u : State} {x y : Task}

/-- What differs from a state outside its memories and tasks keeps the form. -/
theorem MemWf.outside (h : MemWf s) (hm : u.mem = s.mem := by rfl) (hw : u.win = s.win := by rfl)
    (ht : u.tasks = s.tasks := by rfl) : MemWf u := ⟨hm ▸ h.mem, hw ▸ h.win, ht ▸ h.tasks⟩

/-- What differs from a task outside its memories keeps the form. -/
theorem TaskWf.outside (h : TaskWf x) (hs : y.spad = x.spad := by rfl)
    (hh : y.heritage = x.heritage := by rfl) : TaskWf y :=
  ⟨hs ▸ h.spad, hh ▸ h.heritage⟩

theorem TaskWf.default : TaskWf {} := ⟨rfl, rfl⟩

theorem SMap.mem_del {α : Type} {k : Nat} {m : SMap α} {e : Nat × α} (h : e ∈ SMap.del k m) : e ∈ m := by
  induction m with
  | nil => exact h
  | cons d r ih =>
    obtain ⟨j, v⟩ := d
    simp only [SMap.del] at h
    split at h
    · exact List.mem_cons_of_mem _ (ih h)
    · rcases List.mem_cons.mp h with h | h
      · exact h ▸ List.mem_cons_self
      · exact List.mem_cons_of_mem _ (ih h)

theorem SMap.mem_ins {α : Type} {k : Nat} {v : α} {m : SMap α} {e : Nat × α} (h : e ∈ SMap.ins k v m) :
    e = (k, v) ∨ e ∈ m := by
  induction m with
  | nil => exact .inl (List.mem_singleton.mp h)
  | cons d r ih =>
    obtain ⟨j, w⟩ := d
    simp only [SMap.ins] at h
    split at h
    · exact List.mem_cons.mp h
    · rcases List.mem_cons.mp h with h | h
      · exact .inr (h ▸ List.mem_cons_self)
      · exact (ih h).imp_right (List.mem_cons_of_mem _)

theorem SMap.mem_put {α : Type} {k : Nat} {v : α} {m : SMap α} {e : Nat × α} (h : e ∈ SMap.put k v m) :
    e = (k, v) ∨ e ∈ m := (SMap.mem_ins h).imp_right SMap.mem_del

/-- A task put among tasks in the form. -/
theorem MemWf.put {k : Nat} (h : MemWf s) (hx : TaskWf x) (hm : u.mem = s.mem := by rfl)
    (hw : u.win = s.win := by rfl)
    (ht : u.tasks = SMap.put k x s.tasks := by rfl) : MemWf u := by
  refine ⟨hm ▸ h.mem, hw ▸ h.win, fun e he => ?_⟩
  rw [ht] at he
  rcases SMap.mem_put he with rfl | he
  · exact hx
  · exact h.tasks e he

theorem SMap.mem_of_find {α : Type} {k : Nat} {m : SMap α} {v : α} (h : SMap.find k m = some v) : (k, v) ∈ m := by
  induction m with
  | nil => cases h
  | cons d r ih =>
    obtain ⟨j, w⟩ := d
    simp only [SMap.find] at h
    split at h
    · rename_i hj
      cases h
      exact hj ▸ List.mem_cons_self
    · exact List.mem_cons_of_mem _ (ih h)

theorem MemWf.found {k : Nat} (h : MemWf s) (hx : SMap.find k s.tasks = some x) : TaskWf x := h.tasks _
    (SMap.mem_of_find hx)

theorem MemWf.task (h : MemWf s) (k : Nat) : TaskWf (s.task k) := by
  unfold State.task
  cases hx : SMap.find k s.tasks with
  | none => exact TaskWf.default
  | some x => exact h.found hx

/-- A change of one task that leaves its memories in the form. -/
theorem modTask_of {t : Nat} {f : Task → Task} (h : MemWf s) (hf : TaskWf (f (s.task t))) : MemWf
    (s.modTask t f) := by
  refine ⟨h.mem, h.win, fun e he => ?_⟩
  change e ∈ SMap.upd t f s.tasks at he
  unfold SMap.upd at he
  unfold State.task at hf
  split at he
  · rename_i v hv
    rw [hv] at hf
    rcases SMap.mem_put he with rfl | he
    · exact hf
    · exact h.tasks e he
  · exact h.tasks e he

/-- A change of one task outside its memories. -/
theorem modTask_wf {t : Nat} {f : Task → Task} (h : MemWf s) (hs : ∀ x, (f x).spad = x.spad := by exact fun _ => rfl)
    (hh : ∀ x, (f x).heritage = x.heritage := by exact fun _ => rfl) : MemWf (s.modTask t f) :=
  modTask_of h ((h.task t).outside (hs _) (hh _))

theorem modStrand_wf {t k : Nat} {f : Strand → Strand} (h : MemWf s) : MemWf (s.modStrand t k f) := modTask_wf h

theorem modLaunch_wf {l : Nat} {f : Launch → Launch} (h : MemWf s) : MemWf (s.modLaunch l f) := h.outside

theorem modDie_wf {d : Nat} {f : Die → Die} (h : MemWf s) : MemWf (s.modDie d f) := h.outside

theorem modFunction_wf {n : Nat} {f : Function → Function} (h : MemWf s) : MemWf (s.modFunction n f) := h.outside

/-- Every task changed outside its memories. -/
theorem MemWf.map {f : Nat × Task → Nat × Task} (h : MemWf s) (hf : ∀ e, TaskWf e.2 → TaskWf (f e).2)
    (hm : u.mem = s.mem := by rfl) (hw : u.win = s.win := by rfl)
        (ht : u.tasks = s.tasks.map f := by rfl) : MemWf u := by
  refine ⟨hm ▸ h.mem, hw ▸ h.win, fun e he => ?_⟩
  rw [ht] at he
  obtain ⟨d, hd, rfl⟩ := List.mem_map.mp he
  exact hf d (h.tasks d hd)

/-- Some tasks gone. -/
theorem MemWf.filter {p : Nat × Task → Bool} (h : MemWf s) (hm : u.mem = s.mem := by rfl)
    (hw : u.win = s.win := by rfl)
    (ht : u.tasks = s.tasks.filter p := by rfl) : MemWf u := by
  refine ⟨hm ▸ h.mem, hw ▸ h.win, fun e he => ?_⟩
  rw [ht] at he
  exact h.tasks e (List.mem_filter.mp he).1

/-- Steps folded over a list, each of which keeps the form. -/
theorem foldl_wf {α : Type} {f : State → α → State} {l : List α} (h : MemWf s) (hf : ∀ u a, MemWf u → MemWf (f u a)) :
    MemWf (l.foldl f s) :=
  List.foldlRecOn l f h fun u hu a _ => hf u a hu

theorem foldl_taskWf {α : Type} {f : Task → α → Task} {l : List α} (h : TaskWf x) (hf : ∀ y a, TaskWf y → TaskWf
    (f y a)) :
    TaskWf (l.foldl f x) :=
  List.foldlRecOn l f h fun u hu a _ => hf u a hu

/-- Steps folded over a list that carry another value along. -/
theorem foldl_fst_wf {α β : Type} {f : State × β → α → State × β} {l : List α} {p : State × β} (h : MemWf p.1)
    (hf : ∀ q a, MemWf q.1 → MemWf (f q a).1) : MemWf (l.foldl f p).1 :=
  List.foldlRecOn l f h fun u hu a _ => hf u a hu

/-! ### Answers that carry a state -/

theorem of_fst {β : Type} {r : State × β} {b : β} (h : MemWf r.1) (he : r = (u, b)) : MemWf u := by
  rw [he] at h
  exact h

/-- The state of an answer, where there is one, has its memories in canonical form. -/
structure OkWf {ε α : Type} (p : α → State) (r : Except ε α) : Prop where
  ok : ∀ a, r = .ok a → MemWf (p a)

theorem OkWf.of_ok {ε α : Type} {p : α → State} {a : α} (h : MemWf (p a)) : OkWf p (.ok a : Except ε α) :=
  ⟨fun _ he => by cases he; exact h⟩

theorem OkWf.of_error {ε α : Type} {p : α → State} {e : ε} : OkWf p (.error e : Except ε α) := ⟨fun _ he =>
    by cases he⟩

/-- The same of an optional answer. -/
structure SomeWf {α : Type} (p : α → State) (r : Option α) : Prop where
  found : ∀ a, r = some a → MemWf (p a)

theorem SomeWf.of_some {α : Type} {p : α → State} {a : α} (h : MemWf (p a)) : SomeWf p (some a) :=
  ⟨fun _ he => by cases he; exact h⟩

theorem SomeWf.of_none {α : Type} {p : α → State} : SomeWf p (none : Option α) := ⟨fun _ he => by cases he⟩

/-- The same of an engine's work, also where it stops. -/
structure EngWf {α : Type} (p : α → State) (r : Except EngHalt α) : Prop where
  error : ∀ x, r = .error x → MemWf x.state
  ok : ∀ a, r = .ok a → MemWf (p a)

theorem EngWf.of_ok {α : Type} {p : α → State} {a : α} (h : MemWf (p a)) : EngWf p (.ok a) :=
  ⟨fun _ he => (by cases he), fun _ he => by cases he; exact h⟩

theorem EngWf.of_error {α : Type} {p : α → State} {x : EngHalt} (h : MemWf x.state) : EngWf p (.error x) :=
  ⟨fun _ he => (by cases he; exact h), fun _ he => by cases he⟩

/-- The same of an access at its home. -/
def DoneWf : Done → Prop
  | .ok s _ => MemWf s
  | .trap s _ => MemWf s
  | .held => True

theorem DoneWf.ok {d : Done} {r : Reply} (h : DoneWf d) (he : d = .ok u r) : MemWf u := by
  rw [he] at h
  exact h

theorem DoneWf.trap {d : Done} {e : Trap} (h : DoneWf d) (he : d = .trap u e) : MemWf u := by
  rw [he] at h
  exact h

/-- The same of what the order log says. -/
def GoWf : LogAnswer → Prop
  | .go s => MemWf s
  | .full => True
  | .hold => True

theorem GoWf.go {d : LogAnswer} (h : GoWf d) (he : d = .go u) : MemWf u := by
  rw [he] at h
  exact h

/-- The same of the outcome of a step. -/
structure NextWf (o : Host.Outcome State Fault Refusal) : Prop where
  next : ∀ u, o = .next u → MemWf u

theorem NextWf.of_next (h : MemWf s) : NextWf (.next s) := ⟨fun _ he => by cases he; exact h⟩

/-! ### The monad of a strand's instruction -/

/-- Wherever an instruction's part goes on, the memories are in canonical form if they were. -/
def Keeps {α : Type} (m : M α) : Prop := ∀ s, MemWf s → OkWf Prod.snd (m s)

theorem Keeps.pure {α : Type} {a : α} : Keeps (pure a : M α) := fun _ h => .of_ok h

theorem Keeps.bind {α β : Type} {m : M α} {f : α → M β} (hm : Keeps m) (hf : ∀ a, Keeps (f a)) : Keeps (m >>= f) := by
  intro s h
  cases hr : m s with
  | error e =>
    rw [M.bind_error hr]
    exact .of_error
  | ok r =>
    obtain ⟨a, u⟩ := r
    rw [M.bind_ok hr]
    exact hf a u ((hm s h).ok _ hr)

/-- What is done with the state that is read: its memories are in canonical form. -/
theorem Keeps.getS_bind {β : Type} {f : State → M β} (hf : ∀ s, MemWf s → Keeps (f s)) : Keeps (getS >>= f) :=
  fun s h => hf s h s h

theorem Keeps.curTask_bind {β : Type} {f : Task → M β} (hf : ∀ x, TaskWf x → Keeps (f x)) : Keeps (curTask >>= f) :=
  fun s h => hf (s.task s.sel.task) (h.task _) s h

theorem curTask_keeps : Keeps curTask := fun _ h => .of_ok h

theorem curStrand_keeps : Keeps curStrand := fun _ h => .of_ok h

theorem curLaunch_keeps : Keeps curLaunch := fun _ h => .of_ok h

theorem setS_keeps (h : MemWf u) : Keeps (setS u) := fun _ _ => .of_ok h

theorem modS_keeps {f : State → State} (hf : ∀ s, MemWf s → MemWf (f s)) : Keeps (modS f) := fun s h => .of_ok
    (hf s h)

theorem stop_keeps {α : Type} {x : Stop} : Keeps (stop x : M α) := fun _ _ => .of_error

theorem trapM_keeps {α : Type} {c : Nat} {v : Word} : Keeps (trapM c v : M α) := stop_keeps

theorem trapRes_keeps {α : Type} {c v : Nat} {k : BitVec 24} : Keeps (trapRes c v k : M α) := stop_keeps

theorem waitM_keeps {α : Type} {k o a : Nat} : Keeps (waitM k o a : M α) := stop_keeps

theorem modCurTask_of {f : Task → Task} (hf : ∀ x, TaskWf x → TaskWf (f x)) : Keeps (modCurTask f) :=
  modS_keeps fun _ h => modTask_of h (hf _ (h.task _))

theorem modCurTask_keeps {f : Task → Task} (hs : ∀ x, (f x).spad = x.spad := by exact fun _ => rfl)
    (hh : ∀ x, (f x).heritage = x.heritage := by exact fun _ => rfl) : Keeps (modCurTask f) :=
  modS_keeps fun _ h => modTask_wf h hs hh

theorem modCur_keeps {f : Strand → Strand} : Keeps (modCur f) := modS_keeps fun _ h => modStrand_wf h

theorem modRegs_keeps {f : StrandRegs → StrandRegs} : Keeps (modRegs f) := modCur_keeps

end

/-! ### Choices, sequences and loops -/

section
variable {s u : State} {x y : Task}

/-- HBM and host memory written in the form. -/
theorem MemWf.newMem (h : MemWf s) (hm : Memory.wf u.mem = true) (hw : u.win = s.win := by rfl)
    (ht : u.tasks = s.tasks := by rfl) : MemWf u := ⟨hm, hw ▸ h.win, ht ▸ h.tasks⟩

/-- The window written in the form. -/
theorem MemWf.newWin (h : MemWf s) (hw : Memory.wf u.win = true) (hm : u.mem = s.mem := by rfl)
    (ht : u.tasks = s.tasks := by rfl) : MemWf u := ⟨hm ▸ h.mem, hw, ht ▸ h.tasks⟩

theorem MemWf.ite {c : Prop} [Decidable c] (h : MemWf s) (hu : MemWf u) : MemWf (if c then s else u) := by
  split
  · exact h
  · exact hu

theorem TaskWf.ite {c : Prop} [Decidable c] (h : TaskWf x) (hy : TaskWf y) : TaskWf (if c then x else y) := by
  split
  · exact h
  · exact hy

theorem nextIte_wf {c : Prop} [Decidable c] {o p : Host.Outcome State Fault Refusal} (ho : NextWf o) (hp : NextWf p) :
    NextWf (if c then o else p) := by
  split
  · exact ho
  · exact hp

theorem ok_of_ite {ε α : Type} {c : Prop} [Decidable c] {e : ε} {a b : α}
    (h : (if c then .error e else .ok a : Except ε α) = .ok b) : b = a := by
  split at h
  · cases h
  · cases h
    rfl

/-- A stop leaves nothing to what would come after it. -/
theorem stop_bind_keeps {α β : Type} {x : Stop} {f : α → M β} : Keeps ((stop x : M α) >>= f) := fun _ _ => .of_error

theorem illegal_bind_keeps {α β : Type} {i : Instr} {f : α → M β} : Keeps ((illegal i : M α) >>= f) := stop_bind_keeps

theorem Keeps.ite {α : Type} {c : Prop} [Decidable c] {m n : M α} (hm : Keeps m) (hn : Keeps n) :
    Keeps (if c then m else n) := by
  split
  · exact hm
  · exact hn

/-- What is done first only where a condition holds. -/
theorem Keeps.iteFirst {α β : Type} {c : Prop} [Decidable c] {m : M α} {k : M β} (hm : Keeps m) (hk : Keeps k) :
    Keeps (if c then m >>= fun _ => k else k) := .ite (.bind hm fun _ => hk) hk

theorem OkWf.bind {ε α β : Type} {p : β → State} {r : Except ε α} {f : α → Except ε β}
    (hf : ∀ a, r = .ok a → OkWf p (f a)) : OkWf p (r >>= f) := by
  cases r with
  | error e => exact .of_error
  | ok a => exact hf a rfl

/-- An answer's state, or else the state there was. -/
theorem OkWf.getD {ε : Type} {r : Except ε State} (hr : OkWf id r) (h : MemWf s) : MemWf (r.toOption.getD s) := by
  cases r with
  | error e => exact h
  | ok u => exact hr.ok u rfl

theorem SomeWf.bind {α β : Type} {p : β → State} {r : Option α} {f : α → Option β}
    (hf : ∀ a, r = some a → SomeWf p (f a)) : SomeWf p (r >>= f) := by
  cases r with
  | none => exact .of_none
  | some a => exact hf a rfl

theorem EngWf.bind {α β : Type} {p : β → State} {q : α → State} {r : Except EngHalt α} {f : α → Except EngHalt β}
    (hr : EngWf q r) (hf : ∀ a, r = .ok a → EngWf p (f a)) : EngWf p (r >>= f) := by
  cases r with
  | error e => exact .of_error (hr.error e rfl)
  | ok a => exact hf a rfl

theorem Keeps.forM {α : Type} {l : List α} {f : α → M PUnit} (hf : ∀ a, Keeps (f a)) : Keeps (l.forM f) := by
  induction l with
  | nil => exact .pure
  | cons a l ih => exact .bind (hf a) fun _ => ih

theorem Keeps.mapM {α β : Type} {l : List α} {f : α → M β} (hf : ∀ a, Keeps (f a)) : Keeps (l.mapM f) := by
  rw [← List.mapM'_eq_mapM]
  induction l with
  | nil => exact .pure
  | cons a l ih => exact .bind (hf a) fun _ => .bind ih fun _ => .pure

end

end Sys2Proof.Machine
end

section
/-!
PROOFS. Memories in canonical form (log entry 3): records, homes and the accesses that perform there keep it.
-/
namespace Sys2Proof.Machine
set_option Elab.async false

/-! ### Records -/

theorem Task.modStrand_wf {t : Task} {k : Nat} {f : Strand → Strand} (h : TaskWf t) : TaskWf (Task.modStrand t k f) :=
  h.outside

theorem Task.setQueue_wf {t : Task} {q : Nat} {l : List Entry} (h : TaskWf t) : TaskWf (Task.setQueue t q l) :=
  h.outside

theorem Task.modHead_wf {t : Task} {q : Nat} {f : Entry → Entry} (h : TaskWf t) : TaskWf (Task.modHead t q f) := by
  unfold Task.modHead
  refine .ite (Task.modStrand_wf h) ?_
  split
  · exact h
  · exact Task.setQueue_wf h

theorem Task.setLoop_wf {t : Task} {n : Nat} {l : LoopState} (h : TaskWf t) : TaskWf (Task.setLoop t n l) := h.outside

theorem Task.setSlot_wf {t : Task} {n : Nat} {x : Slot} (h : TaskWf t) : TaskWf (Task.setSlot t n x) := h.outside

theorem Task.setBank_wf {t : Task} {n : Nat} {x : Bank} (h : TaskWf t) : TaskWf (Task.setBank t n x) := h.outside

theorem needReady_keeps {r : Reg} : Keeps (needReady r) := .bind curStrand_keeps fun _ => .ite waitM_keeps .pure

theorem needGood_keeps {r : Reg} : Keeps (needGood r) := .bind curStrand_keeps fun _ => .ite trapM_keeps .pure

theorem rd_keeps {r : Reg} : Keeps (rd r) :=
  .bind needReady_keeps fun _ => .bind needGood_keeps fun _ => .bind curStrand_keeps fun _ => .pure

theorem rdOut_keeps {r : Reg} : Keeps (rdOut r) :=
  .bind needReady_keeps fun _ => .bind needGood_keeps fun _ => .bind curStrand_keeps fun _ => .ite trapM_keeps .pure

theorem wr_keeps {r : Reg} {v : Word} : Keeps (wr r v) := .bind needReady_keeps fun _ => modRegs_keeps

theorem wrResult_keeps {d : Reg} {srcs : List Reg} {v : Word} : Keeps (wrResult d srcs v) :=
  .bind needReady_keeps fun _ => modRegs_keeps

/-! ### Bytes of a home, and the walk -/

theorem writePa_wf {s : State} {fn pa : Nat} {bs : List (Option Byte)} (h : MemWf s) : MemWf
    (writePa s fn pa bs) := by
  unfold writePa
  dsimp only
  split
  · exact h.newMem (writeEnabled_wf h.mem _ _)
  · exact h.newMem (writeEnabled_wf h.mem _ _)

theorem drainHost_wf {s : State} {fn : Nat} (h : MemWf s) : MemWf (drainHost s fn) := h.outside

theorem drainLink_wf {s : State} {link : Nat} (h : MemWf s) : MemWf (drainLink s link) :=
  foldl_wf h fun _ _ hu => drainHost_wf hu

theorem sendMsix_wf {s : State} {fn vec : Nat} (h : MemWf s) : MemWf (sendMsix s fn vec) := (drainLink_wf h).outside

theorem directWrite_wf {fn : Nat} {sup : Bool} {l : List Byte} {s : State} {va : Word} (h : MemWf s) :
    OkWf id (directWrite s fn va sup l) := by
  induction l generalizing s va with
  | nil => exact .of_ok h
  | cons b bs ih => exact .bind fun _ _ => ih (writePa_wf h)

/-! ### Sector stamps -/

theorem syncWord_wf {a : Acc} {core : Nat} {t y : Task} {sector : Nat} {st : Stamp} (h : TaskWf t)
    (he : syncWord a core t sector st = .ok y) : TaskWf y := by
  unfold syncWord at he
  obtain rfl := ok_of_ite he
  split
  · exact h.outside
  · exact h.outside

theorem Task.putStamp_wf {t : Task} {sector : Nat} {st : Stamp} (h : TaskWf t) : TaskWf (Task.putStamp t sector st) :=
  h.outside

theorem spadStamp_wf {s : State} {a : Acc} {t y : Task} (h : TaskWf t) (he : spadStamp s a t = .ok y) : TaskWf y := by
  unfold spadStamp at he
  dsimp only at he
  split at he
  · split at he
    · split at he
      · cases he
      · cases he
        exact Task.putStamp_wf h
    · split at he
      · cases he
      · cases he
        exact Task.putStamp_wf h
  · split at he
    · cases he
    · split at he
      · exact syncWord_wf h he
      · split at he
        · cases he
          exact Task.putStamp_wf h
        · cases he

theorem sweepPage_wf {s : State} {page : Nat} (h : MemWf s) : MemWf (sweepPage s page) := h.outside

theorem touchPage_wf {s : State} {pa tag phase : Nat} (h : MemWf s) : MemWf (touchPage s pa tag phase) :=
  .ite h (.ite (sweepPage_wf h.outside) h.outside)

theorem hbmStamp_wf {s : State} {a : Acc} (h : MemWf s) : OkWf id (hbmStamp s a) := by
  unfold hbmStamp
  dsimp only
  split
  · exact .of_ok ((touchPage_wf h).outside)
  · exact .of_error

theorem stampSector_wf {s : State} {a : Acc} (h : MemWf s) : OkWf id (stampSector s a) := by
  unfold stampSector
  split
  · exact .of_ok h
  · split
    · split
      · exact .of_ok h
      · split
        · next he1 => exact .of_ok (modTask_of h (spadStamp_wf (h.task _) he1))
        · exact .of_error
    · split
      · exact .of_ok h
      · exact hbmStamp_wf h
    · exact .of_ok h
    · exact .of_ok h

theorem stampSectors_wf {n : Nat} {s : State} {a : Acc} (h : MemWf s) : OkWf id (stampSectors n s a) := by
  induction n generalizing s a with
  | zero => exact .of_ok h
  | succ n ih =>
    unfold stampSectors
    split
    · exact .of_error
    · rename_i he
      exact ih ((stampSector_wf h).ok _ he)

theorem stampCheck_wf {s : State} {a : Acc} (h : MemWf s) : OkWf id (stampCheck s a) := stampSectors_wf h

/-! ### Monitors and logs -/

theorem retireLane_wf {s : State} {mods a b : Nat} (h : MemWf s) : MemWf (retireLane s mods a b) := h.outside

theorem monWrite_wf {old new : State} {die launch : Nat} {va : Word} {pa : Nat} {written : List Nat} {net : Bool}
    (h : MemWf new) :
    MemWf (monWrite old new die launch va pa written net) :=
  modLaunch_wf h

theorem raiseEvent_wf {s : State} {fn bit : Nat} (h : MemWf s) : MemWf (raiseEvent s fn bit) :=
  .ite h (.ite (sendMsix_wf (modFunction_wf h)) (modFunction_wf h))

theorem modOrderLog_wf {s : State} {die fn : Nat} {f : OrderLog → OrderLog} (h : MemWf s) :
    MemWf (modOrderLog s die fn f) :=
  modDie_wf h

theorem refuseRecord_wf {s : State} {die fn : Nat} (h : MemWf s) : MemWf (refuseRecord s die fn) :=
  raiseEvent_wf (modOrderLog_wf h)

theorem writeRecord_wf {s : State} {die fn rec_ : Nat} (h : MemWf s) : MemWf (writeRecord s die fn rec_).1 := by
  unfold writeRecord
  dsimp only
  split
  · dsimp only
    exact refuseRecord_wf h
  · split
    · rename_i he
      dsimp only
      exact modOrderLog_wf ((directWrite_wf h).ok _ he)
    · dsimp only
      exact refuseRecord_wf h

theorem logAccess_wf {s : State} {a : Acc} (h : MemWf s) : GoWf (logAccess s a) := by
  unfold logAccess
  dsimp only
  split
  · exact h
  · split
    · refine List.foldlRecOn (motive := GoWf) _ _ h fun _ hd _ _ => ?_
      split
      · exact trivial
      · exact trivial
      · split
        · split
          · exact trivial
          · split
            · exact modOrderLog_wf hd
            · exact trivial
        · split
          · rename_i hw
            exact of_fst (writeRecord_wf hd) hw
          · exact trivial
    · exact h

theorem beginWait_wf {before s : State} {die queue : Nat} (h : MemWf s) : MemWf (beginWait before s die queue) :=
  .ite h (modDie_wf h)

theorem slogAt_wf {s : State} {die launch level kind lcore pcore arg : Nat} (h : MemWf s) :
    MemWf (slogAt s die launch level kind lcore pcore arg) :=
  .ite (modDie_wf (writePa_wf h)) h

theorem slog_wf {s : State} {die launch kind lcore pcore arg : Nat} (h : MemWf s) :
    MemWf (slog s die launch kind lcore pcore arg) :=
  slogAt_wf h

theorem logged_wf {s : State} {die launch n : Nat} {f : State → State} (h : MemWf s) (hf : ∀ u, MemWf u → MemWf
    (f u)) :
    MemWf (logged s die launch n f) := by
  unfold logged
  split
  · exact hf s h
  · exact raiseEvent_wf h

/-! ### Accesses at their home -/

theorem Task.wake_wf {t : Task} (h : TaskWf t) : TaskWf (Task.wake t) := h.outside

theorem homeWrite_wf {s : State} {fn : Nat} {h : Home} {addr : Nat} {bs : List (Option Byte)} (hs : MemWf s) :
    MemWf (homeWrite s fn h addr bs) := by
  unfold homeWrite
  split
  · rename_i t
    have hx := hs.task t
    refine modTask_of hs ?_
    split
    · exact ⟨hx.spad, writeEnabled_wf hx.heritage _ _⟩
    · exact Task.wake_wf ⟨writeEnabled_wf hx.spad _ _, hx.heritage⟩
  · exact writePa_wf hs
  · exact writePa_wf hs
  · exact hs.newWin (writeEnabled_wf hs.win _ _)

theorem clearBad_wf {s : State} {h : Home} {addr n : Nat} (hs : MemWf s) : MemWf (clearBad s h addr n) := by
  unfold clearBad
  dsimp only
  split
  · exact modTask_wf hs
  · exact hs.outside
  · exact hs.outside
  · exact hs

theorem signalSem_wf {s : State} {t n inc : Nat} {e : Bool} (h : MemWf s) : MemWf (signalSem s t n inc e) :=
  modTask_wf h

theorem countWrite_wf {old new : State} {a : Acc} {written : List Nat} {net : Bool} (h : MemWf new) :
    MemWf (countWrite old new a written net) := by
  unfold countWrite
  split
  · exact .ite h (monWrite_wf h)
  · exact h
  · exact h
  · exact h

theorem doStore_wf {s : State} {a : Acc} {bs : List (Option Byte)} (h : MemWf s) : MemWf (doStore s a bs) :=
  countWrite_wf (.ite (clearBad_wf (homeWrite_wf h)) (homeWrite_wf h))

theorem doAtomic_wf {s : State} {a : Acc} {n v : Nat} (h : MemWf s) : MemWf (doAtomic s a n v) :=
  countWrite_wf (homeWrite_wf h)

theorem doRowAdd_wf {a : Acc} {et : Nat} {l : List Nat} {s : State} {n : Nat} (h : MemWf s) : MemWf
    (doRowAdd s a et n l) := by
  induction l generalizing s n with
  | nil => exact h
  | cons v vs ih => exact ih (doAtomic_wf h)

theorem accEffect_wf {s : State} {a : Acc} (h : MemWf s) : MemWf (accEffect s a).1 := by
  unfold accEffect
  dsimp only
  split
  · split
    · split
      · dsimp only
        exact h
      · dsimp only
        exact h
    · dsimp only
      exact h
    · dsimp only
      exact h
    · dsimp only
      exact h
  · dsimp only
    exact h
  · dsimp only
    exact doStore_wf h
  · dsimp only
    exact doStore_wf h
  · dsimp only
    exact doAtomic_wf h
  · dsimp only
    exact .ite (doAtomic_wf h) h
  · dsimp only
    exact doAtomic_wf h
  · split
    · dsimp only
      exact signalSem_wf h
    · dsimp only
      exact h
    · dsimp only
      exact h
    · dsimp only
      exact h
  · dsimp only
    exact doRowAdd_wf h
  · dsimp only
    exact h
  · dsimp only
    exact h

theorem logFull_wf {s : State} {a : Acc} (h : MemWf s) : MemWf (logFull s a) := refuseRecord_wf h

theorem noteCode_wf {old new : State} {a : Acc} (h : MemWf new) : MemWf (noteCode old new a) := .ite h h.outside

theorem performAt_wf {s : State} {a : Acc} (h : MemWf s) : DoneWf (performAt s a) := by
  unfold performAt
  split
  · exact h
  · split
    · exact h
    · rename_i he
      split
      · exact trivial
      · exact logFull_wf h
      · rename_i he1
        split
        · rename_i he2
          exact noteCode_wf (of_fst (accEffect_wf ((logAccess_wf ((stampCheck_wf h).ok _ he)).go he1)) he2)

theorem setFull_wf {t : Task} {w : Nat} {b : Bool} (h : TaskWf t) : TaskWf (setFull t w b) := h.outside

/-- The mark of a word that a full/empty operation changed. -/
theorem markFull_wf {s : State} {t w : Nat} {b c : Bool} (h : MemWf s) :
    MemWf (s.modTask t fun x => if c then (setFull x w b).wake else x) := by
  refine modTask_of h ?_
  split
  · exact Task.wake_wf (setFull_wf (h.task t))
  · exact h.task t

theorem feStep_wf {s : State} {a : Acc} {op : FeOp} {v : Nat} (h : MemWf s) : DoneWf (feStep s a op v) := by
  unfold feStep
  dsimp only
  split
  · exact h
  · split
    · exact h
    · rename_i he
      split
      · exact trivial
      · exact logFull_wf h
      · rename_i u hu
        have hgo := (logAccess_wf ((stampCheck_wf h).ok _ he)).go hu
        refine markFull_wf ?_
        split
        · exact homeWrite_wf hgo
        · exact homeWrite_wf hgo
        · exact hgo
        · exact hgo
        · exact hgo
        · exact hgo
        · exact hgo

theorem serveWord_wf {t w n : Nat} {s : State} {out : List Answer} (h : MemWf s) : MemWf
    (serveWord t w n s out).1 := by
  induction n generalizing s out with
  | zero => exact h
  | succ n ih =>
    unfold serveWord
    split
    · exact h
    · rename_i x _
      dsimp only
      have hd := feStep_wf (a := x.acc) (op := x.acc.feOp.1) (v := x.acc.feOp.2) h
      split
      · exact h
      · rename_i he
        exact ih (modTask_wf (hd.trap he))
      · rename_i he
        exact ih (modTask_wf (hd.ok he))
      · rename_i he
        exact ih (modTask_wf (hd.trap he))
      · rename_i he
        exact ih (modTask_wf (hd.ok he))

theorem serve_wf {s : State} {t w : Nat} (h : MemWf s) : MemWf (serve s t w).1 := serveWord_wf h

theorem stampParts_wf {l : List RoundPart} {s : State} (h : MemWf s) : MemWf (stampParts s l).1 := by
  induction l generalizing s with
  | nil => exact h
  | cons p r ih =>
    unfold stampParts
    split
    · rename_i he
      exact ih ((stampCheck_wf h).ok _ he)
    · exact ih h

theorem performRound_wf {s : State} {key : Nat} {r : Round} {a : Acc} (h : MemWf s) :
    MemWf (performRound s key r a).1 := by
  unfold performRound
  dsimp only
  split
  · dsimp only
    exact h.outside
  · split
    · dsimp only
      exact h
    · dsimp only
      exact logFull_wf h
    · rename_i he
      dsimp only
      exact (noteCode_wf (doAtomic_wf ((logAccess_wf (stampParts_wf h)).go he))).outside

end Sys2Proof.Machine
end

section
/-!
PROOFS. Memories in canonical form: issuing an access, traps, rollbacks and the frame of an instruction keep it.
-/
namespace Sys2Proof.Machine
set_option Elab.async false

/-! ### Issuing an access -/

theorem footGate_keeps {va : Word} {n : Nat} {writes : Bool} : Keeps (footGate va n writes) := by
  unfold footGate
  refine .bind curLaunch_keeps fun _ => .bind curTask_keeps fun _ => .getS_bind fun _ _ => .ite ?_ .pure
  split
  · exact waitM_keeps
  · exact .pure

theorem sendReq_wf {s : State} {a : Acc} {req : Requester} {station source : Nat} (h : MemWf s) :
    MemWf (sendReq s a req station source) :=
  h.outside

theorem sendResponse_wf {s : State} {m : Msg} (h : MemWf s) : MemWf (sendResponse s m) := h.outside

theorem sendAnswer_wf {s : State} {a : Answer} (h : MemWf s) : MemWf (sendAnswer s a) := sendResponse_wf h

theorem sendAnswers_wf {s : State} {l : List Answer} (h : MemWf s) : MemWf (sendAnswers s l) :=
  foldl_wf h fun _ _ hu => sendAnswer_wf hu

theorem performNow_keeps {a : Acc} : Keeps (performNow a) := by
  unfold performNow
  refine .getS_bind fun _ hs => ?_
  split
  · next he => exact .bind (setS_keeps ((performAt_wf hs).ok he)) fun _ => .pure
  · exact stop_keeps
  · exact waitM_keeps

theorem takeReports_keeps : Keeps (takeReports) := by
  unfold takeReports
  refine .bind curStrand_keeps fun _ => ?_
  split
  · exact stop_keeps
  · exact .pure

/-- The end of an access's issue: it performs here, waits for room, or leaves as a request. -/
theorem issueHere_keeps {c d : Prop} [Decidable c] [Decidable d] {a : Acc} {r : State → Requester} {n m : State → Nat}
    {f : State → Strand → Strand} {g : State → Issued} :
    Keeps (if c then performNow a else if d then waitM 12 0 else do
      let s ← getS
      setS (sendReq s a (r s) (n s) (m s))
      modCur (f s)
      pure (g s)) :=
  .ite performNow_keeps (.ite waitM_keeps (.getS_bind fun _ hs => .bind (setS_keeps (sendReq_wf hs)) fun _ =>
    .bind modCur_keeps fun _ => .pure))

theorem issueAcc_keeps {q : Ask} : Keeps (issueAcc q) := by
  unfold issueAcc
  refine .getS_bind fun _ _ => ?_
  dsimp only
  split
  · exact stop_keeps
  · refine .bind footGate_keeps fun _ => .ite ?_
      (.ite (.bind takeReports_keeps fun _ => .ite stop_bind_keeps issueHere_keeps)
          (.ite stop_bind_keeps issueHere_keeps))
    split
    · exact stop_bind_keeps
    · exact stop_bind_keeps
    · exact .bind modCur_keeps fun _ =>
        .ite (.bind takeReports_keeps fun _ => .ite stop_bind_keeps issueHere_keeps)
            (.ite stop_bind_keeps issueHere_keeps)

/-! ### Traps, rollbacks and retirement -/

theorem writeSlot_wf {s : State} {t off : Nat} {bs : List Byte} (h : MemWf s) : MemWf (writeSlot s t off bs) := by
  unfold writeSlot
  refine .ite (modTask_wf h) ?_
  split
  · next he => exact (directWrite_wf (modTask_wf h)).ok _ he
  · exact modTask_wf h

theorem serveTask_wf {s : State} {t : Nat} (h : MemWf s) : MemWf (serveTask s t) := by
  unfold serveTask
  refine sendAnswers_wf (foldl_fst_wf h fun _ _ hq => ?_)
  split
  · split
    · rename_i he
      dsimp only
      exact of_fst (serve_wf hq) he

theorem killTask_wf {s : State} {t : Nat} (h : MemWf s) : MemWf (killTask s t) := modLaunch_wf (modTask_wf h)

theorem startHandler_wf {s : State} {t k : Nat} (h : MemWf s) : MemWf (startHandler s t k) :=
  modTask_wf (modStrand_wf h)

theorem noteReplay_wf {s : State} {t k : Nat} {queue : Option Nat} {tr : Trap} {tpc : Word} (h : MemWf s) :
    MemWf (noteReplay s t k queue tr tpc) := by
  unfold noteReplay
  split
  · exact modStrand_wf h
  · exact modTask_of h (Task.modHead_wf (h.task _))

theorem applyAction_wf {s : State} {t k : Nat} {queue : Option Nat} {tr : Trap} {tpc : Word} {action : Nat}
    (h : MemWf s) :
    MemWf (applyAction s t k queue tr tpc action) := by
  unfold applyAction
  dsimp only
  split
  · exact killTask_wf h
  · exact modTask_wf (noteReplay_wf h)
  · exact .ite (modTask_wf h) (raiseEvent_wf (modTask_wf h))
  · exact startHandler_wf h

theorem decideAction_wf {s : State} {t : Nat} {h : HeldAction} (hs : MemWf s) : MemWf (decideAction s t h) :=
  .ite (applyAction_wf (slog_wf hs)) (raiseEvent_wf (modTask_wf hs))

theorem resumeActions_wf {s : State} {die : Nat} (h : MemWf s) : MemWf (resumeActions s die) := by
  unfold resumeActions
  refine foldl_wf h fun _ _ hu => ?_
  split
  · exact decideAction_wf (modTask_wf hu)
  · exact hu

theorem takeTrap_wf {s : State} {t k : Nat} {queue : Option Nat} {tr : Trap} {tpc : Word} {ilen : Nat} {extra :
    optParam (List Byte) []} (h : MemWf s) :
    MemWf (takeTrap s t k queue tr tpc ilen extra) := by
  unfold takeTrap
  refine decideAction_wf (.ite (modDie_wf (modTask_wf ?_)) (modTask_wf ?_))
  · dsimp only
    split
    · exact modStrand_wf (writeSlot_wf (modTask_wf h))
    · exact modStrand_wf (modTask_of (writeSlot_wf (modTask_of (modTask_wf h) (Task.modHead_wf
          ((modTask_wf h).task _)))) (Task.modHead_wf ((writeSlot_wf (modTask_of (modTask_wf h) (Task.modHead_wf
          ((modTask_wf h).task _)))).task _)))
  · dsimp only
    split
    · exact modStrand_wf (writeSlot_wf (modTask_wf h))
    · exact modStrand_wf (modTask_of (writeSlot_wf (modTask_of (modTask_wf h) (Task.modHead_wf
          ((modTask_wf h).task _)))) (Task.modHead_wf ((writeSlot_wf (modTask_of (modTask_wf h) (Task.modHead_wf
          ((modTask_wf h).task _)))).task _)))

theorem engineFault_wf {s : State} {t q : Nat} {tr : Trap} (h : MemWf s) : MemWf (engineFault s t q tr) := by
  unfold engineFault
  dsimp only
  split
  · exact h
  · exact .ite (modTask_wf h) (.ite (writeSlot_wf (modTask_of h (Task.modHead_wf (h.task _)))) (takeTrap_wf h))

theorem Task.dropWalks_wf {t : Task} (h : TaskWf t) : TaskWf (Task.dropWalks t) := h.outside

theorem Task.feed_wf {t : Task} {k : Nat} {v : Word} (h : TaskWf t) : TaskWf (Task.feed t k v) := h.outside

theorem Task.deliver_wf {t : Task} {k d : Nat} {f : StrandRegs → StrandRegs} (h : TaskWf t) :
    TaskWf (Task.deliver t k d f) :=
  Task.setQueue_wf (Task.feed_wf (Task.modStrand_wf h))

theorem vectorTrap_wf {s : State} {t : Nat} {e : Entry} {tr : Trap} {k : Nat} (h : MemWf s) :
    MemWf (vectorTrap s t e tr k) := by
  unfold vectorTrap
  refine modTask_wf (takeTrap_wf (modTask_wf (modTask_wf (modTask_of h ?_))))
  dsimp only
  split
  · exact (h.task _).outside
  · exact Task.modStrand_wf (h.task _)

theorem liftFreeze_wf {s : State} {t : Nat} (h : MemWf s) : MemWf (liftFreeze s t) := by
  unfold liftFreeze
  dsimp only
  split
  · exact modTask_wf h
  · exact .ite (vectorTrap_wf (modTask_wf h)) (takeTrap_wf (modTask_wf h))

theorem enterHeritage_wf {s : State} {t k : Nat} {i : Instr} (h : MemWf s) : MemWf (enterHeritage s t k i) := by
  have hx := h.task t
  unfold enterHeritage
  exact modStrand_wf (modTask_of h ⟨hx.spad, writeBytes_wf hx.heritage _ _⟩)

theorem undoTaskCsr_wf {x : Task} {c : Nat} {w : Word} (h : TaskWf x) : TaskWf (undoTaskCsr x c w) := by
  unfold undoTaskCsr
  dsimp only
  split
  · exact h.outside
  · exact h.outside
  · exact h.outside
  · exact h.outside
  · exact h.outside
  · exact h.outside
  · exact h.outside
  · exact h.outside
  · exact h.outside
  · exact Task.setLoop_wf h
  · exact Task.setLoop_wf h
  · exact Task.setLoop_wf h
  · exact Task.setLoop_wf h
  · next a => exact foldl_taskWf h fun _ _ hy => .ite (Task.setLoop_wf hy) hy
  · exact h.outside
  · exact h.outside
  · exact h.outside
  · exact h.outside
  · exact h.outside
  · exact h.outside
  · exact h.outside
  · exact h.outside
  · exact h

theorem undoCsr_wf {s : State} {t c : Nat} {w : Word} (h : MemWf s) : MemWf (undoCsr s t c w) := by
  unfold undoCsr
  dsimp only
  split
  · exact modOrderLog_wf h
  · exact modOrderLog_wf h
  · exact modOrderLog_wf h
  · exact modOrderLog_wf h
  · exact modOrderLog_wf h
  · exact modFunction_wf h
  · exact modFunction_wf h
  · exact modDie_wf h
  · exact modTask_of h (undoTaskCsr_wf (h.task _))

theorem undoOne_wf {t k : Nat} {s : State} {u : Nat × Nat × Nat} (h : MemWf s) : MemWf (undoOne t k s u) := by
  unfold undoOne
  dsimp only
  split
  · exact undoCsr_wf h
  · exact modTask_wf h
  · exact modTask_wf h
  · exact modTask_wf h
  · exact modTask_wf h
  · exact modStrand_wf h
  · exact modOrderLog_wf h

theorem rollback_wf {s : State} {t k : Nat} (h : MemWf s) : MemWf (rollback s t k) :=
  modStrand_wf (modTask_wf (foldl_wf h fun _ _ hu => undoOne_wf hu))

theorem guardMismatch_wf {s : State} {t k : Nat} {pc : Word} {ilen : Nat} (h : MemWf s) :
    MemWf (guardMismatch s t k pc ilen) :=
  .ite (takeTrap_wf h) (rollback_wf h)

theorem guardAgree_wf {s : State} {t k : Nat} (h : MemWf s) : MemWf (guardAgree s t k) :=
  modStrand_wf (modTask_wf (.ite (modDie_wf h) h))

theorem loopBack_wf {k : Nat} {a next : Word} {n : Nat} {t : Task} (h : TaskWf t) : TaskWf
    (loopBack t k a next n).1 := by
  induction n generalizing t with
  | zero => exact h
  | succ n ih =>
    unfold loopBack
    split
    · exact h
    · dsimp only
      split
      · exact Task.setLoop_wf h
      · exact ih (Task.setLoop_wf h)

theorem stepStop_wf {s : State} {t k : Nat} (h : MemWf s) : MemWf (stepStop s t k) :=
  .ite (.ite (modStrand_wf h) (takeTrap_wf (modStrand_wf h))) h

theorem retireAs_wf {s : State} {t k len : Nat} {pushes logged side : Bool} {next : Next} (h : MemWf s) :
    MemWf (retireAs s t k len pushes logged side next) := by
  unfold retireAs
  refine stepStop_wf ?_
  dsimp only
  split
  · refine guardAgree_wf (modStrand_wf ?_)
    split
    · split
      · dsimp only
        exact h
      · dsimp only
        exact modTask_of h (loopBack_wf (h.task _))
    · dsimp only
      exact h
    · dsimp only
      exact h
    · dsimp only
      exact h
    · dsimp only
      exact h
    · dsimp only
      exact h
    · dsimp only
      exact h
    · dsimp only
      exact h
  · refine modStrand_wf ?_
    split
    · split
      · dsimp only
        exact h
      · dsimp only
        exact modTask_of h (loopBack_wf (h.task _))
    · dsimp only
      exact h
    · dsimp only
      exact h
    · dsimp only
      exact h
    · dsimp only
      exact h
    · dsimp only
      exact h
    · dsimp only
      exact h
    · dsimp only
      exact h

theorem feedGuard_wf {s : State} {t k : Nat} {i : Instr} (h : MemWf s) : MemWf (feedGuard s t k i) := by
  unfold feedGuard
  split
  · exact h
  · next a _ => exact modTask_of h (foldl_taskWf (h.task _) fun _ _ hy => .ite hy (Task.feed_wf hy))

theorem retire_wf {s : State} {t k : Nat} {i : Instr} {next : Next} (h : MemWf s) : MemWf (retire s t k i next) :=
  retireAs_wf (feedGuard_wf h)

theorem setWait_wf {s : State} {t k : Nat} {w : Wait} (h : MemWf s) : MemWf (setWait s t k w) := modStrand_wf h

theorem addWalk_wf {s : State} {die fn page source : Nat} {who : Walker} (h : MemWf s) :
    MemWf (addWalk s die fn page source who) :=
  modDie_wf h

theorem applyStop_wf {s : State} {t k len : Nat} {a : Stop} (h : MemWf s) : MemWf (applyStop s t k len a) := by
  unfold applyStop
  split
  · exact .ite (setWait_wf h) (takeTrap_wf h)
  · exact setWait_wf h
  · exact addWalk_wf (setWait_wf h)
  · exact takeTrap_wf (modStrand_wf h)
  · exact takeTrap_wf (logFull_wf h)

theorem takeTurn_wf {s : State} {t k : Nat} (h : MemWf s) : MemWf (takeTurn s t k) := modTask_wf h

theorem lvqFault_wf {s : State} {t k len : Nat} (h : MemWf s) : MemWf (lvqFault s t k len) :=
  takeTrap_wf (modTask_wf h)

theorem compareSend_wf {s : State} {t : Nat} {e : Entry} {send : State → State} (h : MemWf s)
    (hf : ∀ u, MemWf u → MemWf (send u)) :
    MemWf (compareSend s t e send) :=
  .ite (.ite (guardMismatch_wf h) h) (.ite (guardAgree_wf (hf _ h)) (hf _ h))

theorem bodyNext_wf {s : State} {t k : Nat} {i : Instr} {r : Except Stop (Next × State)} (h : MemWf s)
    (hr : OkWf Prod.snd r) :
    MemWf (bodyNext s t k i r) := by
  unfold bodyNext
  split
  · refine applyStop_wf ?_
    split
    · exact guardAgree_wf h
    · exact h
  · exact modStrand_wf (hr.ok _ rfl)
  · exact stepStop_wf (modStrand_wf (hr.ok _ rfl))
  · exact setWait_wf (guardAgree_wf (hr.ok _ rfl))
  · exact takeTrap_wf (guardAgree_wf (hr.ok _ rfl))
  · exact guardAgree_wf (enterHeritage_wf (hr.ok _ rfl))
  · exact retire_wf (hr.ok _ rfl)

theorem strandNext_wf {i : Instr} {body : M Next} {s : State} (hb : Keeps body) (h : MemWf s) : MemWf
    (strandNext i body s) := by
  have ht := takeTurn_wf (t := s.sel.task) (k := s.sel.strand) h
  unfold strandNext
  dsimp only
  split
  · exact h
  · split
    · exact stepStop_wf ht
    · split
      · exact lvqFault_wf ht
      · split
        · exact setWait_wf ht
        · split
          · exact guardMismatch_wf ht
          · split
            · split
              · exact setWait_wf ht
              · exact takeTrap_wf (modStrand_wf ht)
            · split
              · exact bodyNext_wf ht (hb _ ht)
              · exact bodyNext_wf (modStrand_wf ht) (hb _ (modStrand_wf ht))

theorem strandStep_wf {i : Instr} {body : M Next} {s : State} (hbody : Keeps body) (h1 : MemWf s) :
    NextWf (strandStep i body s) :=
  .of_next (strandNext_wf hbody h1)

theorem pushEntry_keeps {q : Nat} {i : Instr} {cap : Captured} {done : optParam Nat 0} {footprint : optParam
    (List Foot) []} :
    Keeps (pushEntry q i cap done footprint) :=
  .bind curTask_keeps fun _ => .bind curStrand_keeps fun _ => .getS_bind fun _ _ => .ite stop_bind_keeps
      (.ite stop_bind_keeps modCurTask_keeps)

theorem logUndo_keeps {kind number old : Nat} : Keeps (logUndo kind number old) := modCur_keeps

theorem takeStruck_wf {s : State} {t k : Nat} {r : FaultReport} (h : MemWf s) : MemWf (takeStruck s t k r) :=
  takeTrap_wf (modStrand_wf h)

theorem leaveWords_wf {s : State} {t k : Nat} (h : MemWf s) : MemWf (leaveWords s t k) := serveTask_wf (modTask_wf h)

end Sys2Proof.Machine
end

section
/-!
PROOFS. Memories in canonical form: the scalar and the system instructions keep it.
-/
namespace Sys2Proof.Machine
set_option Elab.async false

/-! ### Operands -/

theorem needAligned_keeps {ea : Word} {size : Nat} : Keeps (needAligned ea size) := .ite trapM_keeps .pure

theorem curPc_keeps : Keeps (curPc) := .bind curStrand_keeps fun _ => .pure

theorem illegal_keeps {α : Type} {i : Instr} : Keeps (illegal i : M α) := trapM_keeps

theorem notInHandler_keeps {i : Instr} : Keeps (notInHandler i) :=
  .bind curStrand_keeps fun _ => .ite illegal_keeps .pure

/-! ### Integer arithmetic -/

theorem aluBody_keeps {d a b : Reg} {f : Word → Word → Word} : Keeps (aluBody d a b f) :=
  .bind rd_keeps fun _ => .bind rd_keeps fun _ => .bind wrResult_keeps fun _ => .pure

theorem unaryBody_keeps {d a : Reg} {f : Word → Word} : Keeps (unaryBody d a f) :=
  .bind rd_keeps fun _ => .bind wrResult_keeps fun _ => .pure

theorem cmpBody_keeps {p : BitVec 4} {a b : Reg} {f : Word → Word → Bool} : Keeps (cmpBody p a b f) :=
  .bind rdOut_keeps fun _ => .bind rdOut_keeps fun _ => .bind modRegs_keeps fun _ => .pure

theorem cmpiBody_keeps {p : BitVec 4} {a : Reg} {imm : BitVec 12} {f : Word → Word → Bool} :
    Keeps (cmpiBody p a imm f) :=
  .bind rdOut_keeps fun _ => .bind modRegs_keeps fun _ => .pure

theorem plogBody_keeps {d a b : BitVec 4} {f : Bool → Bool → Bool} : Keeps (plogBody d a b f) :=
  .bind modRegs_keeps fun _ => .pure

theorem execLi_wf {d : Reg} {lit : BitVec 32} {s : State} (h : MemWf s) : NextWf (execLi d lit s) :=
  strandStep_wf (.bind wr_keeps fun _ => .pure) h

theorem execLih_wf {d : Reg} {lit : BitVec 32} {s : State} (h : MemWf s) : NextWf (execLih d lit s) :=
  strandStep_wf (.bind rd_keeps fun _ => .bind wr_keeps fun _ => .pure) h

theorem execSel_wf {p : BitVec 4} {d a b : Reg} {s : State} (h : MemWf s) : NextWf (execSel p d a b s) :=
  strandStep_wf (.bind rd_keeps fun _ => .bind rd_keeps fun _ => .bind curStrand_keeps fun _ =>
      .bind wrResult_keeps fun _ => .pure) h

/-! ### Sticky flags -/

theorem FlagReg.write_wf {t : Task} {v : Word} {a : FlagReg} (h : TaskWf t) : TaskWf (FlagReg.write t v a) := by
  unfold FlagReg.write
  dsimp only
  split
  · exact h.outside
  · exact h.outside
  · exact h.outside
  · exact h.outside
  · exact h.outside

theorem raiseFlags_wf {t : Task} {k : Nat} {r : FlagReg} {flags : Nat} (h : TaskWf t) :
    TaskWf (raiseFlags t k r flags) := by
  unfold raiseFlags
  exact Task.modStrand_wf (FlagReg.write_wf h)

theorem joinFlags_wf {t : Task} (h : TaskWf t) : TaskWf (joinFlags t) := h.outside

theorem csrImplicit_keeps {n : Nat} : Keeps (csrImplicit n) := by
  unfold csrImplicit
  refine .bind curLaunch_keeps fun _ => .getS_bind fun _ _ => .bind curTask_keeps fun _ => .ite ?_ .pure
  split
  · exact .ite trapRes_keeps .pure
  · exact .pure

/-! ### Loads and stores -/

theorem loadFrom_keeps {d : Reg} {ea : Word} {size : Nat} {signed : Bool} {oc : BitVec 4} {ilen : Nat} {defers :
    optParam Bool false} :
    Keeps (loadFrom d ea size signed oc ilen defers) := by
  unfold loadFrom
  refine .bind needAligned_keeps fun _ => .bind needReady_keeps fun _ => .bind issueAcc_keeps fun _ => ?_
  split
  · exact .bind wr_keeps fun _ => .pure
  · exact .bind curStrand_keeps fun _ => .ite .pure (.bind modCur_keeps fun _ => .pure)

theorem sentNext_keeps : Keeps (sentNext) := .bind curStrand_keeps fun _ => .pure

theorem storeTo_keeps {v ea : Word} {size : Nat} {oc : BitVec 4} {ilen : Nat} :
    Keeps (storeTo v ea size oc ilen) := by
  unfold storeTo
  refine .bind needAligned_keeps fun _ => .bind issueAcc_keeps fun _ => ?_
  split
  · exact .pure
  · exact sentNext_keeps

theorem loadSM_keeps {d a : Reg} {oc : BitVec 4} {disp : BitVec 8} {size : Nat} {signed : Bool} :
    Keeps (loadSM d a oc disp size signed) :=
  .bind rdOut_keeps fun _ => loadFrom_keeps

theorem storeSM_keeps {d a : Reg} {oc : BitVec 4} {disp : BitVec 8} {size : Nat} : Keeps (storeSM d a oc disp size) :=
  .bind rdOut_keeps fun _ => .bind rdOut_keeps fun _ => storeTo_keeps

theorem execLddl_wf {d a : Reg} {oc : BitVec 4} {lit : BitVec 32} {s : State} (h : MemWf s) :
    NextWf (execLddl d a oc lit s) :=
  strandStep_wf (.bind rdOut_keeps fun _ => loadFrom_keeps) h

theorem execStdl_wf {d a : Reg} {oc : BitVec 4} {lit : BitVec 32} {s : State} (h : MemWf s) :
    NextWf (execStdl d a oc lit s) :=
  strandStep_wf (.bind rdOut_keeps fun _ => .bind rdOut_keeps fun _ => storeTo_keeps) h

theorem poisonWith_keeps {d : Reg} {v : Word} {cause : Nat} : Keeps (poisonWith d v cause) :=
  .bind needReady_keeps fun _ => .bind modRegs_keeps fun _ => .pure

theorem deferFaults_keeps {d : Reg} {ea : Word} {body : M Next} (hbody : Keeps body) : Keeps
    (deferFaults d ea body) := by
  intro s h
  unfold deferFaults
  split
  · split
    · exact poisonWith_keeps s h
    · exact .of_error
  · exact hbody s h

theorem ldsBody_keeps {d a : Reg} {oc : BitVec 4} {disp : BitVec 8} : Keeps (ldsBody d a oc disp) := by
  unfold ldsBody
  refine .bind needReady_keeps fun _ => .bind rd_keeps fun _ => .bind curStrand_keeps fun _ => .ite poisonWith_keeps
      (deferFaults_keeps (.bind needAligned_keeps fun _ => .getS_bind fun _ _ => ?_))
  split
  · exact stop_keeps
  · exact .ite poisonWith_keeps loadFrom_keeps

theorem execChk_wf {a : Reg} {s : State} (h : MemWf s) : NextWf (execChk a s) :=
  strandStep_wf (.bind rd_keeps fun _ => .bind curStrand_keeps fun _ => .ite stop_keeps .pure) h

/-! ### Synchronisation -/

theorem classGate_keeps : Keeps (classGate) :=
  .getS_bind fun _ _ => .bind curStrand_keeps fun _ => .bind curTask_keeps fun _ => .ite stop_bind_keeps
      (.bind takeReports_keeps fun _ => .ite stop_bind_keeps modCur_keeps)

theorem feFinish_keeps {d : Option Reg} {r : Reply} : Keeps (feFinish d r) := by
  unfold feFinish
  dsimp only
  split
  · exact .bind wr_keeps fun _ => .pure
  · exact .pure

theorem feLocal_keeps {a : Acc} {op : FeOp} {v : Nat} {d : Option Reg} : Keeps (feLocal a op v d) := by
  unfold feLocal
  refine .bind classGate_keeps fun _ => .bind footGate_keeps fun _ => .getS_bind fun s hs => ?_
  dsimp only
  split
  · exact .bind modCurTask_keeps fun _ => .pure
  · exact .bind modCurTask_keeps fun _ => feFinish_keeps
  · refine .ite (.iteFirst modCurTask_keeps .pure) ?_
    split
    · exact waitM_keeps
    · rename_i he
      exact .ite stop_bind_keeps (.bind (setS_keeps ((feStep_wf hs).trap he)) fun _ =>
          .bind modCurTask_keeps fun _ => .bind (modS_keeps fun s h => sendAnswers_wf (serve_wf h)) fun _ => .pure)
    · rename_i he
      exact .bind (setS_keeps ((feStep_wf hs).ok he)) fun _ => .bind modCurTask_keeps fun _ => .bind
          (modS_keeps fun _ h => sendAnswers_wf (serve_wf h)) fun _ => feFinish_keeps

theorem feBody_keeps {ea : Word} {op : FeOp} {v : Word} {d : Option Reg} : Keeps (feBody ea op v d) := by
  unfold feBody
  refine .bind needAligned_keeps fun _ => ?_
  dsimp only
  split
  · refine .bind needReady_keeps fun _ => .getS_bind fun s hs => ?_
    split
    · exact trapM_keeps
    · exact .ite trapM_keeps (.ite (.bind curStrand_keeps fun st => feLocal_keeps) (.bind issueAcc_keeps fun _ =>
          .pure))
  · refine .getS_bind fun _ _ => ?_
    split
    · exact trapM_keeps
    · exact .ite trapM_keeps (.ite (.bind curStrand_keeps fun _ => feLocal_keeps) (.bind issueAcc_keeps fun _ =>
          .pure))

theorem execLdfe_wf {d a : Reg} {disp : BitVec 8} {s : State} (h : MemWf s) : NextWf (execLdfe d a disp s) :=
  strandStep_wf (.bind rdOut_keeps fun _ => feBody_keeps) h

theorem execLdff_wf {d a : Reg} {disp : BitVec 8} {s : State} (h : MemWf s) : NextWf (execLdff d a disp s) :=
  strandStep_wf (.bind rdOut_keeps fun _ => feBody_keeps) h

theorem execStef_wf {d a : Reg} {disp : BitVec 8} {s : State} (h : MemWf s) : NextWf (execStef d a disp s) :=
  strandStep_wf (.bind rdOut_keeps fun _ => .bind rdOut_keeps fun _ => feBody_keeps) h

theorem execStfl_wf {d a : Reg} {disp : BitVec 8} {s : State} (h : MemWf s) : NextWf (execStfl d a disp s) :=
  strandStep_wf (.bind rdOut_keeps fun _ => .bind rdOut_keeps fun _ => feBody_keeps) h

theorem execSete_wf {a : Reg} {s : State} (h : MemWf s) : NextWf (execSete a s) :=
  strandStep_wf (.bind rdOut_keeps fun _ => feBody_keeps) h

theorem execSetf_wf {a : Reg} {s : State} (h : MemWf s) : NextWf (execSetf a s) :=
  strandStep_wf (.bind rdOut_keeps fun _ => feBody_keeps) h

theorem execFeq_wf {d a : Reg} {s : State} (h : MemWf s) : NextWf (execFeq d a s) :=
  strandStep_wf (.bind rdOut_keeps fun _ => feBody_keeps) h

theorem atomicBody_keeps {ea : Word} {n : Nat} {op : AccOp} {d : Option Reg} : Keeps (atomicBody ea n op d) := by
  unfold atomicBody
  refine .bind needAligned_keeps fun _ => ?_
  dsimp only
  split
  · refine .bind needReady_keeps fun _ => .bind issueAcc_keeps fun r => ?_
    split
    · exact .bind wr_keeps fun _ => .pure
    · exact .pure
    · exact .pure
    · exact sentNext_keeps
  · refine .bind issueAcc_keeps fun _ => ?_
    split
    · exact .bind wr_keeps fun _ => .pure
    · exact .pure
    · exact .pure
    · exact sentNext_keeps

theorem amoBody_keeps {fn : AtomFn} {sz : Bool} {d a b : Reg} : Keeps (amoBody fn sz d a b) :=
  .bind rdOut_keeps fun _ => .bind rdOut_keeps fun _ => atomicBody_keeps

theorem redBody_keeps {fn : AtomFn} {sz : Bool} {a b : Reg} : Keeps (redBody fn sz a b) :=
  .bind rdOut_keeps fun _ => .bind rdOut_keeps fun _ => atomicBody_keeps

theorem execCas_wf {sz : Bool} {d a b : Reg} {s : State} (h : MemWf s) : NextWf (execCas sz d a b s) :=
  strandStep_wf (.bind rdOut_keeps fun _ => .bind rdOut_keeps fun _ => .bind rdOut_keeps fun _ => atomicBody_keeps) h

theorem amorBody_keeps {fn : AtomFn} {f : SR64} : Keeps (amorBody fn f) :=
  .bind rdOut_keeps fun _ => .bind rdOut_keeps fun _ => .bind rdOut_keeps fun _ => .bind rdOut_keeps fun _ =>
      .ite stop_bind_keeps (.bind needAligned_keeps fun _ => .ite (.bind needReady_keeps fun _ =>
      .bind issueAcc_keeps fun _ => .pure) (.bind issueAcc_keeps fun _ => .pure))

theorem execAmox_wf {f : SR64} {s : State} (h : MemWf s) : NextWf (execAmox f s) := by
  unfold execAmox
  refine strandStep_wf (.bind rdOut_keeps fun _ => .bind rdOut_keeps fun _ => .bind needAligned_keeps fun _ => .ite
      (.bind needReady_keeps fun _ => .bind needReady_keeps fun _ => .bind csrImplicit_keeps fun _ =>
      .bind curStrand_keeps fun st => .bind issueAcc_keeps fun r => ?_) (.bind csrImplicit_keeps fun _ =>
      .bind curStrand_keeps fun _ => .bind issueAcc_keeps fun _ => ?_)) h
  · dsimp only
    split
    · exact .ite sentNext_keeps .pure
    · refine .bind curTask_keeps fun t => .getS_bind fun s hs => .ite (.bind wr_keeps fun _ =>
          .bind wr_keeps fun _ => .ite ?_ .pure) (.ite ?_ .pure)
      · split
        · exact .bind modCurTask_keeps fun _ => .pure
        · exact .ite (.bind modCur_keeps fun _ => .pure) .pure
      · split
        · exact .bind modCurTask_keeps fun _ => .pure
        · exact .ite (.bind modCur_keeps fun _ => .pure) .pure
  · dsimp only
    split
    · exact .ite sentNext_keeps .pure
    · refine .bind curTask_keeps fun _ => .getS_bind fun _ _ => .ite (.bind wr_keeps fun _ =>
          .bind wr_keeps fun _ => .ite ?_ .pure) (.ite ?_ .pure)
      · split
        · exact .bind modCurTask_keeps fun _ => .pure
        · exact .ite (.bind modCur_keeps fun _ => .pure) .pure
      · split
        · exact .bind modCurTask_keeps fun _ => .pure
        · exact .ite (.bind modCur_keeps fun _ => .pure) .pure

theorem execFence_wf {mask : BitVec 16} {scope : BitVec 3} {eng : Bool} {s : State} (h : MemWf s) :
    NextWf (execFence mask scope eng s) :=
  strandStep_wf (.bind takeReports_keeps fun _ => .getS_bind fun _ _ => .ite stop_bind_keeps
      (.bind modCur_keeps fun _ => .pure)) h

theorem drainAll_keeps : Keeps (drainAll) :=
  .bind takeReports_keeps fun _ => .getS_bind fun _ _ => .bind curTask_keeps fun _ =>
      .ite stop_bind_keeps modCur_keeps

theorem execDrain_wf {s : State} (h : MemWf s) : NextWf (execDrain s) :=
  strandStep_wf (.bind drainAll_keeps fun _ => .pure) h

theorem advanceArrivals_wf {t : Task} {key : Nat} (h : TaskWf t) : TaskWf (advanceArrivals t key) := .ite h.outside h

theorem checkShape_keeps {shape : Word} : Keeps (checkShape shape) := .ite stop_bind_keeps (.ite trapM_keeps .pure)

theorem arrive_keeps {key : Nat} {isOpen : Bool} : Keeps (arrive key isOpen) :=
  .bind drainAll_keeps fun _ => .bind curStrand_keeps fun _ => .bind curTask_keeps fun _ =>
      .bind modCur_keeps fun _ => .bind (modCurTask_of fun _ hx => advanceArrivals_wf hx) fun _ => .pure

theorem dropArrivals_keeps {key index : Nat} : Keeps (dropArrivals key index) := modCur_keeps

theorem awaitBarrier_keeps {key index : Nat} : Keeps (awaitBarrier key index) :=
  .bind curTask_keeps fun _ => .bind curLaunch_keeps fun _ => .ite (.bind dropArrivals_keeps fun _ => .pure) .pure

theorem execBar_wf {a : Reg} {s : State} (h : MemWf s) : NextWf (execBar a s) := by
  unfold execBar
  refine strandStep_wf (.bind rdOut_keeps fun _ => .bind notInHandler_keeps fun _ => .bind checkShape_keeps fun _ =>
      .bind curLaunch_keeps fun _ => .bind curStrand_keeps fun _ => .ite illegal_bind_keeps ?_) h
  split
  · exact awaitBarrier_keeps
  · exact .bind arrive_keeps fun _ => awaitBarrier_keeps

theorem execBara_wf {a : Reg} {s : State} (h : MemWf s) : NextWf (execBara a s) :=
  strandStep_wf (.bind rdOut_keeps fun _ => .bind notInHandler_keeps fun _ => .bind checkShape_keeps fun _ =>
      .bind curLaunch_keeps fun _ => .bind curStrand_keeps fun _ => .ite illegal_bind_keeps
      (.bind arrive_keeps fun _ => .pure)) h

theorem execBarw_wf {a : Reg} {s : State} (h : MemWf s) : NextWf (execBarw a s) := by
  unfold execBarw
  refine strandStep_wf (.bind rdOut_keeps fun _ => .bind notInHandler_keeps fun _ => .bind checkShape_keeps fun _ =>
      .bind curLaunch_keeps fun _ => .bind curStrand_keeps fun _ => ?_) h
  dsimp only
  split
  · exact awaitBarrier_keeps
  · exact illegal_keeps

theorem recordWaiter_keeps {n party : Nat} : Keeps (recordWaiter n party) := by
  unfold recordWaiter
  refine .bind curLaunch_keeps fun _ => .bind curTask_keeps fun _ => .ite ?_ .pure
  dsimp only
  split
  · exact .ite trapRes_keeps .pure
  · exact modCurTask_keeps

theorem execSwait_wf {d a : Reg} {idx : BitVec 8} {s : State} (h : MemWf s) : NextWf (execSwait d a idx s) :=
  strandStep_wf (.bind rdOut_keeps fun _ => .bind needReady_keeps fun _ => .ite illegal_bind_keeps
      (.bind classGate_keeps fun _ => .bind curLaunch_keeps fun _ => .ite (.bind recordWaiter_keeps fun _ =>
      .bind curTask_keeps fun t => .getS_bind fun s hs => .ite .pure (.bind modCurTask_keeps fun _ =>
      .bind wr_keeps fun _ => .pure)) (.bind curTask_keeps fun _ => .getS_bind fun _ _ => .ite .pure
      (.bind modCurTask_keeps fun _ => .bind wr_keeps fun _ => .pure)))) h

theorem execSsig_wf {a : Reg} {idx : BitVec 8} {s : State} (h : MemWf s) : NextWf (execSsig a idx s) :=
  strandStep_wf (.bind rdOut_keeps fun _ => .ite illegal_bind_keeps (.bind classGate_keeps fun _ => .bind
      (modS_keeps fun _ h => signalSem_wf h) fun _ => .pure)) h

theorem execSsigRemote_wf {d a : Reg} {s : State} (h : MemWf s) : NextWf (execSsigRemote d a s) := by
  unfold execSsigRemote
  refine strandStep_wf (.bind rdOut_keeps fun _ => .bind rdOut_keeps fun _ => .ite illegal_bind_keeps
      (.bind needAligned_keeps fun _ => .getS_bind fun _ _ => ?_)) h
  split
  · exact trapM_keeps
  · exact .ite trapM_keeps (.bind issueAcc_keeps fun _ => .pure)

theorem execSrd_wf {d : Reg} {idx : BitVec 8} {s : State} (h : MemWf s) : NextWf (execSrd d idx s) :=
  strandStep_wf (.bind needReady_keeps fun _ => .bind classGate_keeps fun _ => .bind curLaunch_keeps fun _ =>
      .bind curTask_keeps fun _ => .bind modCurTask_keeps fun _ => .bind wr_keeps fun _ => .pure) h

theorem execSrdc_wf {d : Reg} {idx : BitVec 8} {s : State} (h : MemWf s) : NextWf (execSrdc d idx s) :=
  strandStep_wf (.bind needReady_keeps fun _ => .bind classGate_keeps fun _ => .bind curLaunch_keeps fun _ =>
      .bind curTask_keeps fun _ => .bind modCurTask_keeps fun _ => .bind wr_keeps fun _ => .pure) h

theorem execSset_wf {d a : Reg} {idx : BitVec 8} {s : State} (h : MemWf s) : NextWf (execSset d a idx s) :=
  strandStep_wf (.bind rdOut_keeps fun _ => .bind needReady_keeps fun _ => .ite illegal_bind_keeps
      (.bind curLaunch_keeps fun _ => .ite stop_bind_keeps (.bind classGate_keeps fun _ =>
      .bind curTask_keeps fun _ => .bind modCurTask_keeps fun _ => .bind wr_keeps fun _ => .pure))) h

theorem Task.setFifo_wf {t : Task} {n : Nat} {l : List Word} (h : TaskWf t) : TaskWf (Task.setFifo t n l) :=
  .ite h.outside h.outside

theorem recordPopper_keeps {n : Nat} : Keeps (recordPopper n) := by
  unfold recordPopper
  refine .bind curLaunch_keeps fun _ => .bind curTask_keeps fun _ => .getS_bind fun _ _ => .ite ?_ .pure
  dsimp only
  split
  · exact .ite trapRes_keeps .pure
  · exact modCurTask_keeps

theorem execPop_wf {d : Reg} {f : BitVec 1} {s : State} (h : MemWf s) : NextWf (execPop d f s) := by
  unfold execPop
  refine strandStep_wf (.bind needReady_keeps fun _ => .bind recordPopper_keeps fun _ =>
      .bind curTask_keeps fun _ => ?_) h
  split
  · exact .pure
  · exact .getS_bind fun _ _ => .ite .pure (.bind (modCurTask_of fun _ hx => Task.setFifo_wf hx) fun _ =>
        .bind wr_keeps fun _ => .pure)

/-! ### CSRs -/

theorem writeFlags_wf {t : Task} {k : Nat} {det : Bool} {r : FlagReg} {v : Word} (h : TaskWf t) :
    TaskWf (writeFlags t k det r v) := by
  unfold writeFlags
  dsimp only
  split
  · exact FlagReg.write_wf h.outside
  · exact FlagReg.write_wf h

theorem endLoops_wf {t : Task} {v : Word} (h : TaskWf t) : TaskWf (endLoops t v) :=
  foldl_taskWf h fun _ _ hy => .ite (Task.setLoop_wf hy) hy

theorem csrWriteTask_wf {t : Task} {k : Nat} {det w1c : Bool} {n : Nat} {v : Word} (h : TaskWf t) :
    TaskWf (csrWriteTask t k det w1c n v) := by
  unfold csrWriteTask
  dsimp only
  split
  · exact .ite h.outside h
  · exact .ite h.outside h
  · exact .ite h.outside h
  · exact .ite h.outside h
  · exact h.outside
  · exact writeFlags_wf h
  · exact h.outside
  · exact h.outside
  · exact h.outside
  · exact Task.setLoop_wf h
  · exact Task.setLoop_wf h
  · exact Task.setLoop_wf h
  · exact Task.setLoop_wf h
  · exact .ite (endLoops_wf h) h
  · exact h.outside
  · exact writeFlags_wf h
  · exact writeFlags_wf h
  · exact h.outside
  · exact writeFlags_wf h
  · exact writeFlags_wf h
  · exact h.outside
  · exact h.outside
  · exact h

theorem csrWrite_wf {s : State} {t k : Nat} {w1c : Bool} {n : Nat} {v : Word} (h : MemWf s) :
    MemWf (csrWrite s t k w1c n v) := by
  unfold csrWrite
  dsimp only
  split
  · exact modOrderLog_wf h
  · exact modOrderLog_wf h
  · exact modOrderLog_wf h
  · exact modOrderLog_wf h
  · exact modOrderLog_wf h
  · exact modFunction_wf h
  · exact modFunction_wf h
  · exact .ite h (modDie_wf h)
  · exact modTask_of h (csrWriteTask_wf (h.task _))

theorem csrHold_keeps {n : Nat} {writes : Bool} : Keeps (csrHold n writes) := by
  unfold csrHold
  refine .bind curLaunch_keeps fun _ => .getS_bind fun _ _ => .bind curTask_keeps fun _ => .ite ?_ .pure
  dsimp only
  split
  · exact .ite stop_bind_keeps (.bind modCurTask_keeps fun _ => .ite trapRes_keeps .pure)
  · exact .bind modCurTask_keeps fun _ => .ite trapRes_keeps .pure

theorem csrBody_keeps {kind : Nat} {d a : Reg} {csr : BitVec 10} : Keeps (csrBody kind d a csr) :=
  .bind needReady_keeps fun _ => .bind needReady_keeps fun _ => .bind curLaunch_keeps fun _ => .ite stop_bind_keeps
      (.bind csrHold_keeps fun _ => .bind (.ite .pure rdOut_keeps) fun _ => .getS_bind fun _ _ => .ite (.bind
      (.forM fun _ => logUndo_keeps) fun _ => .bind (modS_keeps fun _ h => csrWrite_wf h) fun _ =>
      .bind wr_keeps fun _ => .pure) (.bind wr_keeps fun _ => .pure))

/-! ### System instructions -/

theorem execNop_wf {s : State} (h : MemWf s) : NextWf (execNop s) := strandStep_wf .pure h

theorem execYield_wf {s : State} (h : MemWf s) : NextWf (execYield s) :=
  strandStep_wf (.bind curTask_keeps fun _ => .bind modCur_keeps fun _ => .pure) h

theorem leaveCode_wf {s : State} {t k : Nat} (h : MemWf s) : MemWf (leaveCode s t k) := h.outside

theorem execSexit_wf {s : State} (h : MemWf s) : NextWf (execSexit s) := by
  refine strandStep_wf (.bind notInHandler_keeps fun _ => .bind takeReports_keeps fun _ => .getS_bind fun s _ =>
    .ite stop_bind_keeps ?_) h
  refine .bind (modS_keeps fun _ h => leaveCode_wf (guardAgree_wf h)) fun _ =>
    .bind (modCurTask_of fun _ hx => ?_) fun _ => .pure
  exact foldl_taskWf hx.outside fun _ _ hy => advanceArrivals_wf hy

theorem execIdle_wf {s : State} (h : MemWf s) : NextWf (execIdle s) :=
  strandStep_wf (.getS_bind fun _ _ => .bind modCur_keeps fun _ => .pure) h

theorem execSfork_wf {d a b : Reg} {s : State} (h : MemWf s) : NextWf (execSfork d a b s) := by
  unfold execSfork
  refine strandStep_wf (.bind notInHandler_keeps fun _ => .bind rdOut_keeps fun _ => .bind rdOut_keeps fun _ =>
      .bind needReady_keeps fun _ => .bind needAligned_keeps fun _ => .bind curLaunch_keeps fun _ =>
      .bind curTask_keeps fun _ => .ite stop_bind_keeps ?_) h
  dsimp only
  split
  · exact .bind wr_keeps fun _ => .pure
  · exact .bind modCurTask_keeps fun _ => .bind wr_keeps fun _ => .pure

theorem returnFrom_wf {s : State} {t k : Nat} {skip : Bool} (h : MemWf s) : MemWf (returnFrom s t k skip) := by
  unfold returnFrom
  refine .ite (guardAgree_wf (leaveWords_wf (.ite (modTask_of (modStrand_wf h) (Task.modHead_wf
      ((modStrand_wf h).task _))) (.ite (modStrand_wf (modTask_of (modStrand_wf h) ?_)) (modStrand_wf h)))))
      (liftFreeze_wf (guardAgree_wf (leaveWords_wf (.ite (modTask_of (modStrand_wf h) (Task.modHead_wf
      ((modStrand_wf h).task _))) (.ite (modStrand_wf (modTask_of (modStrand_wf h) ?_)) (modStrand_wf h))))))
  · dsimp only
    split
    · dsimp only
      exact (modStrand_wf h).task _
    · split
      · dsimp only
        exact Task.setLoop_wf ((modStrand_wf h).task _)
      · exact loopBack_wf (Task.setLoop_wf ((modStrand_wf h).task _))
  · dsimp only
    split
    · dsimp only
      exact (modStrand_wf h).task _
    · split
      · dsimp only
        exact Task.setLoop_wf ((modStrand_wf h).task _)
      · exact loopBack_wf (Task.setLoop_wf ((modStrand_wf h).task _))

theorem execTret_wf {skip : Bool} {s : State} (h : MemWf s) : NextWf (execTret skip s) :=
  strandStep_wf (.bind curStrand_keeps fun _ => .bind curTask_keeps fun _ => .bind curLaunch_keeps fun _ =>
      .ite stop_bind_keeps (.ite stop_bind_keeps (.bind (modS_keeps fun _ h => returnFrom_wf h) fun _ => .pure))) h

theorem blockAcc_keeps {q : Ask} : Keeps (blockAcc q) := by
  unfold blockAcc
  refine .getS_bind fun _ _ => ?_
  split
  · exact stop_keeps
  · exact .bind footGate_keeps fun _ => .pure

theorem performHere_keeps {a : Acc} : Keeps (performHere a) := by
  unfold performHere
  refine .getS_bind fun _ hs => ?_
  split
  · next he => exact .bind (setS_keeps ((performAt_wf hs).ok he)) fun _ => .pure
  · exact stop_keeps
  · exact waitM_keeps

theorem readWords_keeps {va : Word} {cls n : Nat} : Keeps (readWords va cls n) :=
  .bind (.mapM fun _ => blockAcc_keeps) fun _ => .mapM fun _ => .bind performHere_keeps fun _ => .pure

theorem writeWords_keeps {va : Word} {cls : Nat} {vs : List Nat} : Keeps (writeWords va cls vs) := by
  unfold writeWords
  refine .bind (.mapM fun _ => ?_) fun _ => .forM fun _ => .bind performHere_keeps fun _ => .pure
  split
  · exact blockAcc_keeps

theorem enqueueLaunch_wf {s : State} {l : Launch} (h : MemWf s) : MemWf (enqueueLaunch s l) :=
  foldl_wf h.outside fun _ _ hu => .ite hu (beginWait_wf hu)

theorem execLaunch_wf {a : Reg} {s : State} (h : MemWf s) : NextWf (execLaunch a s) :=
  strandStep_wf (.bind rdOut_keeps fun _ => .bind curLaunch_keeps fun _ => .ite stop_bind_keeps
      (.bind needAligned_keeps fun _ => .bind classGate_keeps fun _ => .bind readWords_keeps fun _ =>
      .getS_bind fun _ hs => .ite illegal_bind_keeps (.bind (setS_keeps (enqueueLaunch_wf hs)) fun _ => .pure))) h

theorem dropTlb_wf {s : State} {m : Nat} {keep : TlbEntry → Bool} (h : MemWf s) : MemWf (dropTlb s m keep) :=
  h.outside

theorem tinvBody_keeps {keep : TlbEntry → Bool} : Keeps (tinvBody keep) := by
  refine .bind takeReports_keeps fun _ => .getS_bind fun s _ => .bind curStrand_keeps fun _ =>
      .bind curTask_keeps fun _ =>
    .ite stop_bind_keeps ?_
  exact .bind (modS_keeps fun s h => foldl_wf h fun _ _ hu => dropTlb_wf hu) fun _ =>
    .bind (modS_keeps fun _ h => h.map fun _ he => Task.dropWalks_wf he) fun _ => .pure

theorem execTinvPage_wf {a b : Reg} {s : State} (h : MemWf s) : NextWf (execTinvPage a b s) :=
  strandStep_wf (.bind rdOut_keeps fun _ => .bind rdOut_keeps fun _ => tinvBody_keeps) h

theorem execTinvFunction_wf {b : Reg} {s : State} (h : MemWf s) : NextWf (execTinvFunction b s) :=
  strandStep_wf (.bind rdOut_keeps fun _ => tinvBody_keeps) h

theorem execLogm_wf {a : Reg} {s : State} (h : MemWf s) : NextWf (execLogm a s) := by
  unfold execLogm
  refine strandStep_wf (.bind rdOut_keeps fun _ => .bind classGate_keeps fun _ => .getS_bind fun _ hs =>
      .bind curLaunch_keeps fun _ => .bind curTask_keeps fun _ => .ite .pure (.ite ?_ ?_)) h
  · split
    · exact .ite (.bind (setS_keeps (modOrderLog_wf hs)) fun _ => .pure) waitM_keeps
    · exact waitM_keeps
  · split
    · next he => exact .bind (setS_keeps (of_fst (writeRecord_wf hs) he)) fun _ => .pure
    · next he => exact .bind (setS_keeps (of_fst (writeRecord_wf hs) he)) fun _ => .pure

theorem execEncodingNotInstruction_wf {fate : Fate} {s : State} (h : MemWf s) :
    NextWf (execEncodingNotInstruction fate s) := by
  unfold execEncodingNotInstruction
  dsimp only
  refine nextIte_wf (.of_next h) ?_
  refine nextIte_wf (.of_next (stepStop_wf (takeTurn_wf h))) ?_
  exact nextIte_wf (.of_next (setWait_wf (takeTurn_wf h))) (.of_next (takeTrap_wf (takeTurn_wf h)))

theorem fetchStopped_wf {x : Stop} {len : Nat} {s : State} (h : MemWf s) : MemWf (fetchStopped x len s) :=
  .ite h (.ite (stepStop_wf (takeTurn_wf h)) (applyStop_wf (takeTurn_wf h)))

theorem evictTlb_wf {s : State} {die core place : Nat} (h : MemWf s) : MemWf (evictTlb s die core place) :=
  modDie_wf h

theorem hostStoreByte_wf {s : State} {addr : Nat} {b : Byte} (h : MemWf s) : MemWf (hostStoreByte s addr b) :=
  .ite (h.newMem (writeByte_wf h.mem _ _)) h

theorem strikePa_wf {s : State} {addr : Nat} (h : MemWf s) : MemWf (strikePa s addr) := .ite h.outside h

theorem strikeSpad_wf {s : State} {t addr : Nat} (h : MemWf s) : MemWf (strikeSpad s t addr) :=
  modTask_of h (.ite (.ite ((h.task _).outside) (h.task _)) (.ite (Task.setSlot_wf (h.task _)) (.ite
      (Task.setBank_wf (h.task _)) (h.task _))))

theorem strikeReg_wf {s : State} {t reg : Nat} (h : MemWf s) : MemWf (strikeReg s t reg) :=
  modTask_of h (.ite (.ite (h.task _) (Task.modStrand_wf (h.task _))) (.ite (h.task _) ((h.task _).outside)))

theorem strikeGuard_wf {s : State} {t reg : Nat} (h : MemWf s) : MemWf (strikeGuard s t reg) :=
  .ite h (modStrand_wf h)

theorem strikeLvq_wf {s : State} {t place : Nat} (h : MemWf s) : MemWf (strikeLvq s t place) := modTask_wf h

theorem runGuard_wf {s : State} {t k : Nat} (h : MemWf s) : MemWf (runGuard s t k) := .ite (modTask_wf h) h

theorem meetWatch_wf {s : State} {t k : Nat} {addr : Word} (h : MemWf s) : MemWf (meetWatch s t k addr) :=
  .ite (takeTrap_wf h) h

end Sys2Proof.Machine
end

section
/-!
PROOFS. Memories in canonical form: vector instructions and the vector engine keep it.
-/
namespace Sys2Proof.Machine
set_option Elab.async false

/-! ### Vector pushes -/

theorem formatIndex_keeps : Keeps (formatIndex) := by
  unfold formatIndex
  refine .bind curTask_keeps fun _ => .bind curLaunch_keeps fun _ => .getS_bind fun _ _ =>
      .bind csrImplicit_keeps fun _ => .ite stop_bind_keeps (.bind csrImplicit_keeps fun _ => .ite ?_ .pure)
  split
  · exact .ite stop_bind_keeps .pure
  · exact .pure

theorem formatEntry_keeps {idx : Nat} : Keeps (formatEntry idx) := .bind curTask_keeps fun _ => .pure

theorem vectorFormat_keeps {types : Nat → Bool} : Keeps (vectorFormat types) :=
  .bind formatIndex_keeps fun _ => .bind formatEntry_keeps fun _ => .ite stop_bind_keeps (.ite stop_bind_keeps .pure)

theorem countSeq_keeps : Keeps (countSeq) := modCur_keeps

theorem awaitG_keeps {d : Nat} : Keeps (awaitG d) := modCur_keeps

theorem vectorCapture_keeps {shape ctl rm5 sumx : Bool} : Keeps (vectorCapture shape ctl rm5 sumx) :=
  .bind curTask_keeps fun _ => .bind curStrand_keeps fun _ => .bind curLaunch_keeps fun _ => .ite
      (.bind csrImplicit_keeps fun _ => .ite (.bind csrImplicit_keeps fun _ => .ite
      (.bind csrImplicit_keeps fun _ => .ite (.bind csrImplicit_keeps fun _ => .pure) .pure) (.ite
      (.bind csrImplicit_keeps fun _ => .pure) .pure)) (.ite (.bind csrImplicit_keeps fun _ => .ite
      (.bind csrImplicit_keeps fun _ => .pure) .pure) (.ite (.bind csrImplicit_keeps fun _ => .pure) .pure))) (.ite
      (.bind csrImplicit_keeps fun _ => .ite (.bind csrImplicit_keeps fun _ => .ite
      (.bind csrImplicit_keeps fun _ => .pure) .pure) (.ite (.bind csrImplicit_keeps fun _ => .pure) .pure)) (.ite
      (.bind csrImplicit_keeps fun _ => .ite (.bind csrImplicit_keeps fun _ => .pure) .pure) (.ite
      (.bind csrImplicit_keeps fun _ => .pure) .pure)))

theorem pushV3_keeps {i : Instr} {ga gb gd : Option Reg} : Keeps (pushV3 i ga gb gd) := by
  unfold pushV3
  dsimp only
  split
  · exact illegal_keeps
  · rename_i a _ _
    refine .bind ?_ fun _ => .bind ?_ fun _ => ?_
    · split
      · exact rdOut_keeps
      · exact .pure
    · split
      · exact rdOut_keeps
      · exact .pure
    · split
      · refine .bind needReady_keeps fun _ => .bind curLaunch_keeps fun l => .bind curTask_keeps fun t =>
            .bind curStrand_keeps fun st => .bind (.ite (.bind vectorFormat_keeps fun e => .pure) .pure) fun ft =>
            .bind vectorCapture_keeps fun cap => .ite illegal_bind_keeps ?_
        split
        · refine .ite illegal_bind_keeps ?_
          split
          · refine .ite illegal_bind_keeps (.bind pushEntry_keeps fun _ => .bind modCur_keeps fun _ =>
                .bind countSeq_keeps fun _ => ?_)
            split
            · exact .bind awaitG_keeps fun _ => .pure
            · exact .pure
          · refine .bind pushEntry_keeps fun _ => .bind modCur_keeps fun _ => .bind countSeq_keeps fun _ => ?_
            split
            · exact .bind awaitG_keeps fun _ => .pure
            · exact .pure
        · split
          · refine .ite illegal_bind_keeps (.bind pushEntry_keeps fun _ => .bind modCur_keeps fun _ =>
                .bind countSeq_keeps fun _ => ?_)
            split
            · exact .bind awaitG_keeps fun _ => .pure
            · exact .pure
          · refine .bind pushEntry_keeps fun _ => .bind modCur_keeps fun _ => .bind countSeq_keeps fun _ => ?_
            split
            · exact .bind awaitG_keeps fun _ => .pure
            · exact .pure
      · refine .bind curLaunch_keeps fun _ => .bind curTask_keeps fun _ => .bind curStrand_keeps fun _ => .bind
            (.ite (.bind vectorFormat_keeps fun _ => .pure) .pure) fun _ => .bind vectorCapture_keeps fun _ =>
            .ite illegal_bind_keeps ?_
        split
        · refine .ite illegal_bind_keeps ?_
          split
          · refine .ite illegal_bind_keeps (.bind pushEntry_keeps fun _ => .bind modCur_keeps fun _ =>
                .bind countSeq_keeps fun _ => ?_)
            split
            · exact .bind awaitG_keeps fun _ => .pure
            · exact .pure
          · refine .bind pushEntry_keeps fun _ => .bind modCur_keeps fun _ => .bind countSeq_keeps fun _ => ?_
            split
            · exact .bind awaitG_keeps fun _ => .pure
            · exact .pure
        · split
          · refine .ite illegal_bind_keeps (.bind pushEntry_keeps fun _ => .bind modCur_keeps fun _ =>
                .bind countSeq_keeps fun _ => ?_)
            split
            · exact .bind awaitG_keeps fun _ => .pure
            · exact .pure
          · refine .bind pushEntry_keeps fun _ => .bind modCur_keeps fun _ => .bind countSeq_keeps fun _ => ?_
            split
            · exact .bind awaitG_keeps fun _ => .pure
            · exact .pure

theorem pushVM_keeps {i : Instr} {f : VM} {stride : Bool} : Keeps (pushVM i f stride) :=
  .bind rdOut_keeps fun _ => .bind (.ite rdOut_keeps .pure) fun _ => .ite (.bind takeReports_keeps fun _ =>
      .bind vectorCapture_keeps fun _ => .bind curLaunch_keeps fun _ => .ite illegal_bind_keeps
      (.bind pushEntry_keeps fun _ => .pure)) (.bind vectorCapture_keeps fun _ => .bind curLaunch_keeps fun _ =>
      .ite illegal_bind_keeps (.bind pushEntry_keeps fun _ => .pure))

theorem execVshape_wf {f : V3} {s : State} (h : MemWf s) : NextWf (execVshape f s) :=
  strandStep_wf (.bind csrBody_keeps fun _ => .bind countSeq_keeps fun _ => .pure) h

theorem execFtld_wf {f : V3} {s : State} (h : MemWf s) : NextWf (execFtld f s) := by
  unfold execFtld
  refine strandStep_wf (.bind rdOut_keeps fun _ => .bind curLaunch_keeps fun _ => .bind curTask_keeps fun _ =>
      .ite ?_ (.bind logUndo_keeps fun _ => .bind modCurTask_keeps fun _ => .bind countSeq_keeps fun _ => .pure)) h
  dsimp only
  split
  · exact .ite stop_bind_keeps (.bind logUndo_keeps fun _ => .bind modCurTask_keeps fun _ =>
        .bind countSeq_keeps fun _ => .pure)
  · exact .bind logUndo_keeps fun _ => .bind modCurTask_keeps fun _ => .bind countSeq_keeps fun _ => .pure

theorem execVnx_wf {nest : BitVec 3} {f : V3} {s : State} (h : MemWf s) : NextWf (execVnx nest f s) :=
  strandStep_wf (.bind modCur_keeps fun _ => .bind countSeq_keeps fun _ => .pure) h

theorem execPopv_wf {f : V3} {s : State} (h : MemWf s) : NextWf (execPopv f s) :=
  strandStep_wf (.bind recordPopper_keeps fun _ => pushV3_keeps) h

/-! ### The vector engine -/

theorem Task.setVreg_wf {t : Task} {n v : Nat} {keep : optParam Nat 0} (h : TaskWf t) :
    TaskWf (Task.setVreg t n v keep) :=
  h.outside

theorem Task.setMreg_wf {t : Task} {n v : Nat} {keep : optParam Nat 0} (h : TaskWf t) :
    TaskWf (Task.setMreg t n v keep) :=
  .ite h h.outside

theorem dropEntry_wf {s : State} {t serial : Nat} (h : MemWf s) : MemWf (dropEntry s t serial) := modTask_wf h

theorem giveG_wf {t : Task} {k r : Nat} {v : Word} (h : TaskWf t) : TaskWf (giveG t k r v) := Task.deliver_wf h

theorem setWindow_wf {t : Task} {byte len v : Nat} {keep : optParam Nat 0} (h : TaskWf t) :
    TaskWf (setWindow t byte len v keep) :=
  .ite (Task.setVreg_wf (Task.setVreg_wf h)) (Task.setVreg_wf h)

/-- The first vector an iteration writes. -/
theorem iterateVd_wf {t : Task} {v : Option Nat} {ops : Operands} {n keep : Nat} (h : TaskWf t) :
    TaskWf (match v, ops with
      | some x, .regs d _ _ => t.setVreg d x keep
      | some x, .windows d _ _ => setWindow t d n x keep
      | none, _ => t) := by
  split
  · exact Task.setVreg_wf h
  · exact setWindow_wf h
  · exact h

/-- The second vector an iteration writes. -/
theorem iterateVd1_wf {t : Task} {v : Option Nat} {ops : Operands} (h : TaskWf t) :
    TaskWf (match v, ops with
      | some x, .regs d _ _ => t.setVreg (d + 1) x
      | _, _ => t) := by
  split
  · exact Task.setVreg_wf h
  · exact h

/-- The mask an iteration writes. -/
theorem iterateMask_wf {t : Task} {v dest : Option Nat} {keep : Nat} (h : TaskWf t) :
    TaskWf (match v, dest with
      | some x, some n => t.setMreg n x keep
      | _, _ => t) := by
  split
  · exact Task.setMreg_wf h
  · exact h

/-- The scalar an iteration gives. -/
theorem iterateG_wf {t : Task} {k : Nat} {v : Option Word} {dest : Option Nat} (h : TaskWf t) :
    TaskWf (match v, dest with
      | some x, some r => giveG t k r x
      | _, _ => t) := by
  split
  · exact giveG_wf h
  · exact h

theorem iterate_wf {t y : Task} {e : Entry} {j : Nat} (h : TaskWf t) (he : iterate t e j = .ok y) : TaskWf y := by
  unfold iterate at he
  dsimp only at he
  split at he
  · cases he
  · split at he
    · cases he
    · simp only [Except.ok.injEq] at he
      subst he
      split
      · exact iterateG_wf (iterateMask_wf (iterateVd1_wf (iterateVd_wf h)))
      · exact raiseFlags_wf (iterateG_wf (iterateMask_wf (iterateVd1_wf (iterateVd_wf h))))

theorem iterations_wf {e : Entry} {n j : Nat} {t : Task} (h : TaskWf t) : TaskWf (iterations e n j t).1 := by
  induction n generalizing j t with
  | zero => exact h
  | succ n ih =>
    unfold iterations
    split
    · exact h
    · rename_i he
      exact ih (iterate_wf h he)

theorem runVector_wf {s : State} {t : Nat} {e : Entry} (h : MemWf s) : MemWf (runVector s t e) := by
  unfold runVector
  dsimp only
  split
  · exact vectorTrap_wf (modTask_of h (iterations_wf (h.task _)))
  · exact dropEntry_wf (modTask_of h (iterations_wf (h.task _)))

theorem performWords_wf {l : List Acc} {s : State} {got : SMap Byte} (h : MemWf s) : OkWf Prod.fst
    (performWords s l got) := by
  induction l generalizing s got with
  | nil => exact .of_ok h
  | cons a r ih =>
    unfold performWords
    split
    · exact .of_error
    · exact .of_error
    · rename_i he
      exact ih ((performAt_wf h).ok he)

theorem sendWords_wf {t : Nat} {l : List Acc} {s : State} (h : MemWf s) : MemWf (sendWords t s l).1 := by
  induction l generalizing s with
  | nil => exact h
  | cons a r ih => exact ih (sendReq_wf h)

theorem modEntry_wf {s : State} {t serial : Nat} {f : Entry → Entry} (h : MemWf s) : MemWf (modEntry s t serial f) :=
  modTask_wf h

theorem vectorFault_wf {s : State} {t : Nat} {e : Entry} {tr : Trap} (h : MemWf s) :
    MemWf (vectorFault s t e tr) := by
  unfold vectorFault
  refine .ite (dropEntry_wf h) (.ite (writeSlot_wf ?_) (vectorTrap_wf h))
  split
  · exact modStrand_wf (modEntry_wf h)
  · exact modEntry_wf h

theorem noteRegs_wf {s : State} {t : Nat} {e : Entry} (h : MemWf s) : OkWf id (noteRegs s t e) := by
  unfold noteRegs
  dsimp only
  split
  · rename_i he
    refine .bind fun _ _ => ?_
    exact .of_ok (modTask_wf h)
  · exact .of_ok h

theorem startTrap_wf {s : State} {t : Nat} {e : Entry} {tr : Trap} {k : Nat} (h : MemWf s) :
    MemWf (startTrap s t e tr k) :=
  .ite h (vectorTrap_wf h)

theorem finishVectorMemory_wf {s : State} {t : Nat} {e : Entry} (h : MemWf s) : MemWf (finishVectorMemory s t e) := by
  unfold finishVectorMemory
  split
  · exact vectorFault_wf h
  · split
    · exact h
    · refine .ite (dropEntry_wf h) ?_
      split
      · exact vectorFault_wf h
      · next he2 => exact dropEntry_wf (modTask_wf ((noteRegs_wf h).ok _ he2))

theorem vectorWalk_wf {s : State} {t : Nat} {e : Entry} {fn page : Nat} (h : MemWf s) :
    MemWf (vectorWalk s t e fn page) :=
  addWalk_wf (modEntry_wf h)

theorem entryWait_wf {s : State} {t : Nat} {e : Entry} {kind n : Nat} (h : MemWf s) :
    MemWf (entryWait s t e kind n) :=
  modEntry_wf h

theorem launchWords_wf {s : State} {t : Nat} {e : Entry} {ps : List VPiece} {accs : List Acc} {w : List AliasEntry}
    (h : MemWf s) :
    MemWf (launchWords s t e ps accs w) := by
  unfold launchWords
  dsimp only
  split
  · exact entryWait_wf h
  · split
    · exact h
    · exact vectorTrap_wf (logFull_wf h)
  · exact startTrap_wf h
  · exact h
  · rename_i he
    have hp := (performWords_wf h).ok _ he
    have hs := fun l => modStrand_wf (t := t) (k := e.strand) (f := fun z => { z with alias_ := w }) (sendWords_wf
        (l := l) (t := t) hp)
    have hn := fun l => (noteRegs_wf (t := t) (e := e) (hs l)).getD (hs l)
    exact .ite (finishVectorMemory_wf (modEntry_wf (.ite (hs _) (hn _)))) (modEntry_wf (.ite (hs _) (hn _)))

theorem startVectorMemory_wf {s : State} {t : Nat} {e : Entry} (h : MemWf s) : MemWf (startVectorMemory s t e) := by
  unfold startVectorMemory
  dsimp only
  split
  · exact h
  · split
    · split
      · exact h
      · split
        · exact dropEntry_wf ((noteRegs_wf (modStrand_wf h)).getD (modStrand_wf h))
        · exact dropEntry_wf ((noteRegs_wf h).getD h)
    · split
      · exact startTrap_wf h
      · split
        · exact vectorWalk_wf h
        · exact startTrap_wf h
        · exact h
        · split
          · exact h
          · split
            · exact entryWait_wf h
            · split
              · exact modEntry_wf h
              · split
                · exact startTrap_wf h
                · exact h
                · exact launchWords_wf h

theorem runPopv_wf {s : State} {t : Nat} {e : Entry} {f : V3} (h : MemWf s) : MemWf (runPopv s t e f) :=
  .ite (dropEntry_wf (.ite (modTask_of h (Task.setFifo_wf (h.task _))) (modTask_wf (modTask_of h (Task.setFifo_wf
      (h.task _)))))) (modEntry_wf (modTask_of h (Task.setFifo_wf (h.task _))))

theorem execVeExecute_wf {s : State} (h : MemWf s) : NextWf (execVeExecute s) := by
  unfold execVeExecute
  dsimp only
  refine nextIte_wf (.of_next h) ?_
  split
  · exact .of_next h
  · split
    · exact .of_next (startTrap_wf h)
    · refine nextIte_wf (.of_next (startTrap_wf h)) ?_
      split
      · exact .of_next (runPopv_wf (modTask_wf h))
      · exact .of_next (dropEntry_wf (modTask_wf (modTask_wf h)))
      · exact nextIte_wf (.of_next (startVectorMemory_wf h)) (.of_next (.ite (modTask_wf (runVector_wf
            (modTask_wf h))) (runVector_wf (modTask_wf h))))

theorem execVectorMemoryComplete_wf {s : State} (h : MemWf s) : NextWf (execVectorMemoryComplete s) := by
  unfold execVectorMemoryComplete
  dsimp only
  split
  · exact .of_next h
  · refine nextIte_wf (.of_next h) ?_
    split
    · exact .of_next (modEntry_wf (sendWords_wf h))
    · exact .of_next (finishVectorMemory_wf h)

end Sys2Proof.Machine
end

section
/-!
PROOFS. Memories in canonical form: matrix instructions and the matrix engines keep it.
-/
namespace Sys2Proof.Machine
set_option Elab.async false

/-! ### What the command engines share -/

theorem headWait_wf {s : State} {t q : Nat} {w : Wait} (h : MemWf s) : MemWf (headWait s t q w) :=
  modTask_of h (Task.modHead_wf (h.task _))

theorem onHead_wf {s : State} {t q : Nat} {f : Entry → Entry} (h : MemWf s) : MemWf (onHead s t q f) :=
  modTask_of h (Task.modHead_wf (h.task _))

theorem popHead_wf {s : State} {t q : Nat} (h : MemWf s) : MemWf (popHead s t q) := modTask_wf h

theorem absorbError_wf {s : State} {t : Nat} (h : MemWf s) : MemWf (absorbError s t) := modLaunch_wf h

theorem takeWt_wf {s : State} {t q : Nat} {e : Entry} (h : MemWf s) : MemWf (takeWt s t q e).1 := by
  unfold takeWt
  dsimp only
  split
  · dsimp only
    exact onHead_wf h
  · split
    · dsimp only
      exact headWait_wf h
    · dsimp only
      exact onHead_wf (modTask_wf h)

theorem signalLocal_wf {s : State} {t : Nat} {l : Link} {e : Bool} (h : MemWf s) : MemWf (signalLocal s t l e) :=
  .ite (modTask_wf h) (signalSem_wf h)

theorem finishHead_wf {s : State} {t q : Nat} {e : Entry} {err : Bool} (h : MemWf s) :
    MemWf (finishHead s t q e err) :=
  signalLocal_wf (popHead_wf h)

theorem faultHead_wf {s : State} {t q : Nat} {tr : Trap} {progress : Nat} {held : Bool} (h : MemWf s) :
    MemWf (faultHead s t q tr progress held) :=
  .ite (takeTrap_wf h) (.ite (popHead_wf h) (.ite (popHead_wf (engineFault_wf (onHead_wf h))) (onHead_wf
      (engineFault_wf (onHead_wf h)))))

theorem parityFault_wf {s : State} {t q : Nat} (h : MemWf s) : MemWf (parityFault s t q) := by
  unfold parityFault
  dsimp only
  split
  · exact h
  · exact .ite (.ite (vectorTrap_wf h) h) (faultHead_wf h)

theorem engTrap_wf {α : Type} {p : α → State} {s : State} {tr : Trap} (h : MemWf s) :
    EngWf p (engTrap s tr : Except EngHalt α) := .of_error h

theorem engPerform_wf {s : State} {a : Acc} (h : MemWf s) : OkWf Prod.fst (engPerform s a) := by
  unfold engPerform
  split
  · next he => exact .of_ok ((performAt_wf h).ok he)
  · exact .of_error
  · exact .of_error

theorem withoutBad_wf {s : State} {h : Home} (hs : MemWf s) : MemWf (withoutBad s h) := by
  unfold withoutBad
  split
  · exact modTask_wf hs
  · exact hs.outside
  · exact hs.outside
  · exact hs

theorem restoreBad_wf {old s : State} {h : Home} (hs : MemWf s) : MemWf (restoreBad old s h) := by
  unfold restoreBad
  split
  · exact modTask_wf hs
  · exact hs.outside
  · exact hs.outside
  · exact hs

theorem loseLink_wf {s : State} {t : Nat} {h : Home} (hs : MemWf s) : MemWf (loseLink s t h) := retireLane_wf hs

theorem engReadWord_wf {s : State} {t q gran : Nat} {e : Entry} {op : AccOp} {a : Word} (h : MemWf s) :
    EngWf Prod.fst (engReadWord s t q gran e op a) := by
  unfold engReadWord
  dsimp only
  split
  · exact .of_error h
  · split
    · exact .of_error h
    · rename_i he1
      exact .of_ok (.ite (restoreBad_wf ((engPerform_wf (.ite (withoutBad_wf h) h)).ok _ he1)) ((engPerform_wf (.ite
          (withoutBad_wf h) h)).ok _ he1))

theorem engReadWords_wf {t q gran : Nat} {e : Entry} {op : AccOp} {n : Nat} {s : State} {va : Word} (h : MemWf s) :
    EngWf Prod.fst (engReadWords t q gran e op n s va) := by
  induction n generalizing s va with
  | zero => exact .of_ok h
  | succ n ih =>
    unfold engReadWords
    split
    · rename_i he
      exact .of_error ((engReadWord_wf h).error _ he)
    · rename_i he
      have hr := (engReadWord_wf h).ok _ he
      split
      · rename_i he
        exact .of_error ((ih hr).error _ he)
      · rename_i he
        have hs := (ih hr).ok _ he
        exact .of_ok hs

theorem fromByte_wf {low va : Word} {x : EngHalt} (h : MemWf x.state) : MemWf (fromByte low va x).state := by
  unfold fromByte
  split
  · exact h
  · exact h
  · exact h
  · exact h

theorem engRead_wf {s : State} {t q gran : Nat} {e : Entry} {va : Word} {n : Nat} {op : optParam AccOp AccOp.load}
    (h : MemWf s) :
    EngWf Prod.fst (engRead s t q gran e va n op) := by
  unfold engRead
  dsimp only
  split
  · exact .of_ok h
  · split
    · next he => exact .of_error (fromByte_wf ((engReadWords_wf h).error _ he))
    · rename_i he
      refine .of_ok ?_
      dsimp only
      split
      · exact .ite (loseLink_wf ((engReadWords_wf h).ok _ he)) ((engReadWords_wf h).ok _ he)
      · exact (engReadWords_wf h).ok _ he

theorem engWriteWords_wf {t q : Nat} {e : Entry} {n : Nat} {s : State} {va : Word} {l : List (Option Byte)}
    (h : MemWf s) :
    EngWf id (engWriteWords t q e n s va l) := by
  induction n generalizing s va l with
  | zero => exact .of_ok h
  | succ n ih =>
    unfold engWriteWords
    dsimp only
    split
    · exact ih h
    · split
      · exact .of_error h
      · split
        · exact .of_error h
        · rename_i he
          exact ih ((engPerform_wf h).ok _ he)

theorem engWrite_wf {s : State} {t q : Nat} {e : Entry} {va : Word} {bs : List Byte} (h : MemWf s) :
    EngWf id (engWrite s t q e va bs) := by
  unfold engWrite
  dsimp only
  split
  · exact .of_ok h
  · split
    · next he => exact .of_error (fromByte_wf ((engWriteWords_wf h).error _ he))
    · next he => exact .of_ok ((engWriteWords_wf h).ok _ he)

theorem engStopped_wf {s : State} {t q progress : Nat} {x : EngHalt} (h : MemWf s) (hx : MemWf x.state) :
    MemWf (engStopped s t q progress x) := by
  unfold engStopped
  split
  · exact faultHead_wf hx
  · exact addWalk_wf (onHead_wf h)
  · exact headWait_wf (onHead_wf h)
  · exact faultHead_wf (logFull_wf hx)

/-! ### Matrix pushes -/

theorem matrixFormat_keeps {i : Instr} : Keeps (matrixFormat i) := by
  unfold matrixFormat
  dsimp only
  split
  · exact .pure
  · exact .ite .pure (.bind formatIndex_keeps fun _ => .bind formatEntry_keeps fun _ => .ite stop_bind_keeps
        (.ite stop_bind_keeps (.ite illegal_bind_keeps .pure)))

theorem ownSlot_keeps {n : Nat} : Keeps (ownSlot n) := by
  unfold ownSlot
  refine .bind curTask_keeps fun _ => .getS_bind fun _ _ => ?_
  dsimp only
  split
  · exact .ite trapRes_keeps .pure
  · exact modCurTask_keeps

theorem ownBank_keeps {n : Nat} : Keeps (ownBank n) := by
  unfold ownBank
  refine .bind curTask_keeps fun _ => .getS_bind fun _ _ => ?_
  dsimp only
  split
  · exact .ite trapRes_keeps .pure
  · exact modCurTask_keeps

theorem claimSlot_keeps {n kind : Nat} : Keeps (claimSlot n kind) := by
  unfold claimSlot
  refine .bind curTask_keeps fun _ => ?_
  dsimp only
  split
  · exact .ite trapRes_keeps .pure
  · exact modCurTask_keeps

theorem readTable_keeps {e : Nat} : Keeps (readTable e) := by
  unfold readTable
  refine .bind curTask_keeps fun _ => .getS_bind fun _ _ => ?_
  split
  · exact .ite trapRes_keeps .pure
  · exact .pure

theorem matrixDet_keeps {i : Instr} {ft : Option Word} {tab : SMap (BitVec 32)} {queue : Nat} :
    Keeps (matrixDet i ft tab queue) := by
  unfold matrixDet
  refine .bind curLaunch_keeps fun _ => .ite .pure ?_
  dsimp only
  split
  · exact stop_bind_keeps
  · refine .bind (.forM fun _ => ownSlot_keeps) fun _ => .bind (.forM fun _ => ownBank_keeps) fun _ => ?_
    split
    · exact .bind claimSlot_keeps fun _ => .iteFirst readTable_keeps (.ite recordWaiter_keeps .pure)
    · exact .bind claimSlot_keeps fun _ => .iteFirst readTable_keeps (.ite recordWaiter_keeps .pure)
    · exact .iteFirst readTable_keeps (.ite recordWaiter_keeps .pure)

theorem optReg_keeps {r : Option Reg} : Keeps (optReg r) := by
  unfold optReg
  split
  · exact rdOut_keeps
  · exact .pure

theorem matrixCapture_keeps {i : Instr} {a b : Word} {ft : Option Word} {tab : SMap (BitVec 32)} :
    Keeps (matrixCapture i a b ft tab) :=
  .bind curTask_keeps fun _ => .bind curStrand_keeps fun _ => .bind curLaunch_keeps fun _ => .pure

theorem pushMatrix_keeps {i : Instr} : Keeps (pushMatrix i) := by
  unfold pushMatrix
  dsimp only
  refine .bind optReg_keeps fun _ => .bind optReg_keeps fun _ => .bind matrixFormat_keeps fun _ =>
      .bind curTask_keeps fun _ => .getS_bind fun _ _ => .iteFirst csrImplicit_keeps ?_
  split
  · refine .iteFirst csrImplicit_keeps (.iteFirst csrImplicit_keeps (.bind matrixDet_keeps fun _ => ?_))
    split
    · exact .bind matrixCapture_keeps fun cap => .bind curStrand_keeps fun st => .bind modCurTask_keeps fun _ =>
          .bind modCur_keeps fun _ => .pure
    · exact .bind matrixCapture_keeps fun cap => .bind pushEntry_keeps fun _ => .iteFirst countSeq_keeps .pure
  · refine .iteFirst csrImplicit_keeps (.bind matrixDet_keeps fun _ => ?_)
    split
    · exact .bind matrixCapture_keeps fun cap => .bind curStrand_keeps fun _ => .bind modCurTask_keeps fun _ =>
          .bind modCur_keeps fun _ => .pure
    · exact .bind matrixCapture_keeps fun _ => .bind pushEntry_keeps fun _ => .iteFirst countSeq_keeps .pure

theorem holdTable_keeps {e : Nat} : Keeps (holdTable e) := by
  unfold holdTable
  refine .bind curTask_keeps fun _ => .getS_bind fun _ _ => ?_
  dsimp only
  split
  · exact .ite stop_bind_keeps modCurTask_keeps
  · exact modCurTask_keeps

theorem writeTable_keeps {e key : Nat} {v : BitVec 32} : Keeps (writeTable e key v) :=
  .bind curTask_keeps fun _ => .bind logUndo_keeps fun _ => modCurTask_of fun _ hx => .ite hx.outside hx.outside

theorem execMcfg_wf {f : MC} {s : State} (h : MemWf s) : NextWf (execMcfg f s) :=
  strandStep_wf (.bind rdOut_keeps fun _ => .bind curLaunch_keeps fun _ => .ite (.bind (.forM fun _ =>
      holdTable_keeps) fun _ => .bind (.forM fun _ => writeTable_keeps) fun _ => .pure) (.bind (.forM fun _ =>
      writeTable_keeps) fun _ => .pure)) h

/-! ### The matrix engines -/

theorem useSlot_wf {t : Task} {n : Nat} {release : Bool} (h : TaskWf t) : TaskWf (useSlot t n release) :=
  Task.setSlot_wf h

theorem endUse_wf {t : Task} {n : Nat} (h : TaskWf t) : TaskWf (endUse t n) :=
  .ite (Task.setSlot_wf h) (Task.setSlot_wf h)

theorem setPair_wf {t : Task} {bank : Nat} {vs : List (Nat × Int)} {taint : Bool} (h : TaskWf t) :
    TaskWf (setPair t bank vs taint) :=
  Task.setBank_wf (Task.setBank_wf h)

theorem noteFlags_wf {s : State} {t q strand bank : Nat} {l : List (Nat × Nat)} (h : MemWf s) :
    MemWf (noteFlags s t q strand bank l) :=
  .ite h (onHead_wf (modTask_of h (raiseFlags_wf (h.task _))))

theorem noteErr_wf {s : State} {t q : Nat} {err : Bool} (h : MemWf s) : MemWf (noteErr s t q err) :=
  .ite (absorbError_wf (onHead_wf h)) h

theorem readScales_wf {s : State} {t q : Nat} {e : Entry} {base : Word} {n : Nat} (h : MemWf s) :
    EngWf Prod.fst (readScales s t q e base n) := by
  unfold readScales
  split
  · exact engTrap_wf h
  · split
    · next he => exact .of_error ((engRead_wf h).error _ he)
    · next he => exact .of_ok ((engRead_wf h).ok _ he)

theorem pairScales_wf {s : State} {t q : Nat} {e : Entry} {mf : Nat} {pa pb : Word} (h : MemWf s) :
    EngWf Prod.fst (pairScales s t q e mf pa pb) := by
  unfold pairScales
  dsimp only
  split
  · exact .of_ok h
  · split
    · next he => exact .of_error ((readScales_wf h).error _ he)
    · rename_i he
      split
      · next he1 => exact .of_error ((readScales_wf ((readScales_wf h).ok _ he)).error _ he1)
      · next he1 => exact .of_ok ((readScales_wf ((readScales_wf h).ok _ he)).ok _ he1)

theorem tileScales_wf {s : State} {t q : Nat} {e : Entry} {mf : Nat} {q8 : Bool} {pa pb : Word} (h : MemWf s) :
    EngWf Prod.fst (tileScales s t q e mf q8 pa pb) := by
  unfold tileScales
  dsimp only
  split
  · next he => exact .of_error ((pairScales_wf h).error _ he)
  · rename_i he
    split
    · exact .of_ok ((pairScales_wf h).ok _ he)
    · split
      · next he1 => exact .of_error ((pairScales_wf ((pairScales_wf h).ok _ he)).error _ he1)
      · next he1 => exact .of_ok ((pairScales_wf ((pairScales_wf h).ok _ he)).ok _ he1)

theorem runTile_wf {s : State} {t q : Nat} {e : Entry} {mf : Nat} {xw : Bool} {bank a b : Nat} {sc : Scales}
    (h : MemWf s) :
    MemWf (runTile s t q e mf xw bank a b sc) := by
  unfold runTile
  refine noteErr_wf (noteFlags_wf ?_)
  cases xw with
  | true => exact modTask_of h (setPair_wf (h.task t))
  | false => exact modTask_wf h

theorem runTiles_wf {t q : Nat} {e : Entry} {mf : Nat} {xw : Bool} {bank : Nat} {l : List Scales} {s : State} {a b :
    Nat} (h : MemWf s) :
    MemWf (runTiles s t q e mf xw bank a b l) := by
  induction l generalizing s a b with
  | nil => exact h
  | cons sc r ih => exact ih (runTile_wf h)

theorem drainRows_wf {t q : Nat} {e : Entry} {rows : List (List Nat)} {size : Nat} {pitch : Word} {s : State} {va :
    Word} (h : MemWf s) :
    EngWf id (drainRows t q e rows size pitch s va) := by
  induction rows generalizing s va with
  | nil => exact .of_ok h
  | cons r rest ih =>
    unfold drainRows
    split
    · rename_i he
      exact .of_error ((engWrite_wf h).error _ he)
    · rename_i he
      exact ih ((engWrite_wf h).ok _ he)

theorem runDrain_wf {s : State} {t q : Nat} {e : Entry} {f : DrainFmt} {bank : Nat} {base pitch : Word} {zad : Bool}
    (h : MemWf s) :
    EngWf id (runDrain s t q e f bank base pitch zad) := by
  unfold runDrain
  dsimp only
  split
  · next he => exact .of_error ((drainRows_wf h).error _ he)
  · rename_i he
    exact .of_ok (noteErr_wf (.ite (modTask_of (noteFlags_wf ((drainRows_wf h).ok _ he)) (foldl_taskWf
        ((noteFlags_wf ((drainRows_wf h).ok _ he)).task _) fun _ _ hy => Task.setBank_wf hy)) (noteFlags_wf
        ((drainRows_wf h).ok _ he))))

theorem loadRows_wf {t q : Nat} {e : Entry} {size : Nat} {pitch : Word} {n : Nat} {s : State} {va : Word}
    (h : MemWf s) :
    EngWf Prod.fst (loadRows t q e size pitch n s va) := by
  induction n generalizing s va with
  | zero => exact .of_ok h
  | succ n ih =>
    unfold loadRows
    split
    · rename_i he
      exact .of_error ((engRead_wf h).error _ he)
    · rename_i he
      have hr := (engRead_wf h).ok _ he
      split
      · rename_i he
        exact .of_error ((ih hr).error _ he)
      · rename_i he
        have hs := (ih hr).ok _ he
        exact .of_ok hs

theorem runLoad_wf {s : State} {t q : Nat} {e : Entry} {f : DrainFmt} {bank : Nat} (h : MemWf s) :
    EngWf id (runLoad s t q e f bank) := by
  unfold runLoad
  dsimp only
  split
  · next he => exact .of_error ((loadRows_wf h).error _ he)
  · rename_i he
    exact .of_ok (noteErr_wf (noteFlags_wf (modTask_of ((loadRows_wf h).ok _ he) (.ite (Task.setBank_wf
        (Task.setBank_wf (((loadRows_wf h).ok _ he).task _))) (Task.setBank_wf (((loadRows_wf h).ok _ he).task _))))))

theorem sparseRead_wf {s : State} {t q : Nat} {e : Entry} {a n : Nat} (h : MemWf s) :
    EngWf Prod.fst (sparseRead s t q e a n) := by
  unfold sparseRead
  split
  · exact engTrap_wf h
  · split
    · next he => exact .of_error ((engRead_wf h).error _ he)
    · next he => exact .of_ok ((engRead_wf h).ok _ he)

theorem sparseReads_wf {t q : Nat} {e : Entry} {w n : Nat} {s : State} {a : Nat} (h : MemWf s) :
    EngWf Prod.fst (sparseReads t q e w n s a) := by
  induction n generalizing s a with
  | zero => exact .of_ok h
  | succ n ih =>
    unfold sparseReads
    split
    · rename_i he
      exact .of_error ((sparseRead_wf h).error _ he)
    · rename_i he
      have hr := (sparseRead_wf h).ok _ he
      split
      · rename_i he
        exact .of_error ((ih hr).error _ he)
      · rename_i he
        have hs := (ih hr).ok _ he
        exact .of_ok hs

theorem sparseGather_wf {s : State} {t q : Nat} {e : Entry} {mf : Nat} (h : MemWf s) :
    EngWf Prod.fst (sparseGather s t q e mf) := by
  unfold sparseGather
  dsimp only
  split
  · exact engTrap_wf h
  · split
    · exact engTrap_wf h
    · split
      · next he => exact .of_error ((sparseRead_wf h).error _ he)
      · rename_i he
        split
        · exact engTrap_wf ((sparseRead_wf h).ok _ he)
        · split
          · next he2 => exact .of_error ((sparseReads_wf ((sparseRead_wf h).ok _ he)).error _ he2)
          · rename_i he2
            split
            · exact engTrap_wf ((sparseReads_wf ((sparseRead_wf h).ok _ he)).ok _ he2)
            · split
              · rename_i he4
                exact .of_error ((sparseReads_wf ((sparseReads_wf ((sparseRead_wf h).ok _ he)).ok _ he2)).error _ he4)
              · rename_i he4
                split
                · exact engTrap_wf ((sparseReads_wf ((sparseReads_wf ((sparseRead_wf h).ok _ he)).ok _ he2)).ok _ he4)
                · split
                  · rename_i he6
                    exact .of_error ((sparseReads_wf ((sparseReads_wf ((sparseReads_wf
                        ((sparseRead_wf h).ok _ he)).ok _ he2)).ok _ he4)).error _ he6)
                  · rename_i he6
                    exact .of_ok ((sparseReads_wf ((sparseReads_wf ((sparseReads_wf
                        ((sparseRead_wf h).ok _ he)).ok _ he2)).ok _ he4)).ok _ he6)

theorem noteMestat_wf {s : State} {t : Nat} {e : Entry} (h : MemWf s) : MemWf (noteMestat s t e) := by
  unfold noteMestat
  refine .ite ?_ h
  split
  · exact modTask_of h (raiseFlags_wf (h.task _))
  · exact h

theorem startedDone_wf {s : State} {t q : Nat} {uses : List (Nat × Bool)} (h : MemWf s) :
    MemWf (startedDone s t q uses) :=
  onHead_wf h

theorem startUses_wf {s : State} {t : Nat} {uses : List (Nat × Bool)} (h : MemWf s) : MemWf (startUses s t uses) :=
  modTask_of h (foldl_taskWf (h.task _) fun _ _ hy => useSlot_wf hy)

theorem endUses_wf {s : State} {t : Nat} {uses : List (Nat × Bool)} (h : MemWf s) : MemWf (endUses s t uses) :=
  modTask_of h (foldl_taskWf (h.task _) fun _ _ hy => endUse_wf hy)

theorem startMtile_wf {s : State} {t q : Nat} {e : Entry} {fn : BitVec 6} {f : EC} (h : MemWf s) :
    MemWf (startMtile s t q e fn f) := by
  unfold startMtile
  dsimp only
  split
  · exact headWait_wf h
  · split
    · exact faultHead_wf h
    · split
      · next he2 => exact engStopped_wf h ((tileScales_wf h).error _ he2)
      · next he2 => exact startedDone_wf (runTiles_wf (startUses_wf ((tileScales_wf h).ok _ he2)))

theorem startMdrain_wf {s : State} {t q : Nat} {e : Entry} {fn : BitVec 6} {f : EC} (h : MemWf s) :
    MemWf (startMdrain s t q e fn f) := by
  unfold startMdrain
  dsimp only
  split
  · exact faultHead_wf h
  · split
    · next he1 => exact engStopped_wf h ((runDrain_wf h).error _ he1)
    · next he1 => exact startedDone_wf ((runDrain_wf h).ok _ he1)

theorem startMldacc_wf {s : State} {t q : Nat} {e : Entry} {fn : BitVec 6} {f : EC} (h : MemWf s) :
    MemWf (startMldacc s t q e fn f) := by
  unfold startMldacc
  dsimp only
  split
  · exact faultHead_wf h
  · split
    · next he1 => exact engStopped_wf h ((runLoad_wf h).error _ he1)
    · next he1 => exact startedDone_wf ((runLoad_wf h).ok _ he1)

theorem startMstat_wf {s : State} {t q : Nat} {e : Entry} (h : MemWf s) : MemWf (startMstat s t q e) := by
  unfold startMstat
  refine .ite (faultHead_wf h) (.ite (faultHead_wf h) ?_)
  split
  · next he => exact engStopped_wf h ((engWrite_wf h).error _ he)
  · next he => exact startedDone_wf ((engWrite_wf h).ok _ he)

theorem mspgoTile_wf {s : State} {t q : Nat} {e : Entry} {fn : BitVec 6} {f : EC} (h : MemWf s) :
    MemWf (mspgoTile s t q e fn f) := by
  unfold mspgoTile
  dsimp only
  split
  · exact headWait_wf h
  · exact startedDone_wf (runTile_wf (startUses_wf h))

theorem startMspgo_wf {s : State} {t q : Nat} {e : Entry} {fn : BitVec 6} {f : EC} (h : MemWf s) :
    MemWf (startMspgo s t q e fn f) :=
  .ite (mspgoTile_wf h) (.ite (headWait_wf h) (onHead_wf (modTask_wf h)))

theorem mspgoGather_wf {s : State} {t q : Nat} {e : Entry} {fn : BitVec 6} {f : EC} (h : MemWf s) :
    MemWf (mspgoGather s t q e fn f) := by
  unfold mspgoGather
  refine .ite h ?_
  dsimp only
  split
  · next he => exact engStopped_wf h (onHead_wf (modTask_wf ((sparseGather_wf h).error _ he)))
  · rename_i he
    exact .ite (mspgoTile_wf (.ite (absorbError_wf (onHead_wf (modTask_wf ((sparseGather_wf h).ok _ he))))
        (onHead_wf (modTask_wf ((sparseGather_wf h).ok _ he))))) (.ite (absorbError_wf (onHead_wf (modTask_wf
        ((sparseGather_wf h).ok _ he)))) (onHead_wf (modTask_wf ((sparseGather_wf h).ok _ he))))

theorem mspgoGoOn_wf {s : State} {t q : Nat} {e : Entry} {fn : BitVec 6} {f : EC} (h : MemWf s) :
    MemWf (mspgoGoOn s t q e fn f) :=
  .ite (.ite (mspgoGather_wf h) h) (.ite (mspgoTile_wf h) h)

theorem startMgo_wf {s : State} {t q : Nat} {e : Entry} {fn : BitVec 6} (h : MemWf s) :
    MemWf (startMgo s t q e fn) := by
  unfold startMgo
  dsimp only
  split
  · exact faultHead_wf h
  · exact onHead_wf h

theorem runMatrix_wf {s : State} {t q : Nat} {e : Entry} (h : MemWf s) : MemWf (runMatrix s t q e) := by
  unfold runMatrix
  dsimp only
  split
  · exact .ite (headWait_wf h) (finishHead_wf (noteMestat_wf (noteErr_wf (modTask_wf h))))
  · split
    · exact faultHead_wf h
    · exact finishHead_wf (noteMestat_wf (modTask_wf h))
  · exact startMstat_wf h
  · exact startedDone_wf (modTask_wf h)
  · exact startMtile_wf h
  · exact startMdrain_wf h
  · exact startMldacc_wf h
  · exact startMspgo_wf h
  · exact startMgo_wf h
  · exact h

theorem execMatrixCommandStart_wf {s : State} (h : MemWf s) : NextWf (execMatrixCommandStart s) := by
  unfold execMatrixCommandStart
  dsimp only
  split
  · exact .of_next h
  · refine nextIte_wf ?_ ?_
    · split
      · exact nextIte_wf (.of_next (mspgoGoOn_wf h)) (.of_next h)
      · exact .of_next h
    · refine nextIte_wf (.of_next (finishHead_wf h)) ?_
      split
      · exact .of_next (headWait_wf h)
      · split
        · next he2 => exact .of_next (of_fst (takeWt_wf h) he2)
        · next he2 => exact .of_next (finishHead_wf (of_fst (takeWt_wf h) he2))
        · rename_i he2
          split
          · exact .of_next (headWait_wf (of_fst (takeWt_wf h) he2))
          · exact nextIte_wf (.of_next (runMatrix_wf (of_fst (takeWt_wf h) he2))) (.of_next (of_fst
                (takeWt_wf h) he2))

theorem countAction_wf {s : State} {t q : Nat} {tab : SMap (BitVec 32)} (h : MemWf s) :
    MemWf (countAction s t q tab) :=
  onHead_wf h

theorem mgoTile_wf {s : State} {t q : Nat} {e : Entry} {fn : BitVec 6} {f : EC} {i : Nat} (h : MemWf s) :
    MemWf (mgoTile s t q e fn f i) := by
  unfold mgoTile
  dsimp only
  split
  · exact headWait_wf h
  · split
    · next he1 => exact engStopped_wf h ((tileScales_wf h).error _ he1)
    · next he1 => exact countAction_wf (endUses_wf (runTiles_wf (startUses_wf ((tileScales_wf h).ok _ he1))))

theorem mgoDrain_wf {s : State} {t q : Nat} {e : Entry} {fn : BitVec 6} {f : EC} {i level : Nat} (h : MemWf s) :
    MemWf (mgoDrain s t q e fn f i level) := by
  unfold mgoDrain
  refine .ite (faultHead_wf h) ?_
  split
  · next he => exact engStopped_wf h ((runDrain_wf h).error _ he)
  · next he => exact countAction_wf ((runDrain_wf h).ok _ he)

theorem execMgoAction_wf {s : State} (h : MemWf s) : NextWf (execMgoAction s) := by
  unfold execMgoAction
  dsimp only
  split
  · exact .of_next h
  · refine nextIte_wf (.of_next h) ?_
    split
    · split
      · exact .of_next (mgoTile_wf h)
      · exact .of_next (mgoDrain_wf h)
    · exact .of_next h

theorem endWork_wf {s : State} {t q : Nat} {e : Entry} (h : MemWf s) : MemWf (endWork s t q e) :=
  endUses_wf (noteMestat_wf (noteErr_wf (.ite (modTask_of h (foldl_taskWf (h.task _) fun _ _ hy =>
      Task.setBank_wf hy)) h)))

theorem execMatrixCommandComplete_wf {s : State} (h : MemWf s) : NextWf (execMatrixCommandComplete s) := by
  unfold execMatrixCommandComplete
  dsimp only
  split
  · exact .of_next h
  · refine nextIte_wf (.of_next h) ?_
    split
    · exact .of_next (faultHead_wf (onHead_wf (endWork_wf h)))
    · exact .of_next (finishHead_wf (onHead_wf (endWork_wf h)))

end Sys2Proof.Machine
end

section
/-!
PROOFS. Memories in canonical form: the copy, the gather and the collective engines keep it.
-/
namespace Sys2Proof.Machine
set_option Elab.async false

/-! ### Copy and gather pushes -/

theorem readDescriptor_keeps {va : Word} : Keeps (readDescriptor va) :=
  .getS_bind fun _ _ => .bind curStrand_keeps fun _ => .ite stop_bind_keeps (.ite stop_bind_keeps
      (.bind classGate_keeps fun _ => .bind readWords_keeps fun _ => .pure))

theorem copyDet_keeps {i : Instr} : Keeps (copyDet i) := by
  unfold copyDet
  refine .bind curLaunch_keeps fun _ => .ite .pure ?_
  dsimp only
  split
  · exact .bind ownSlot_keeps fun _ => .ite recordWaiter_keeps .pure
  · exact .bind ownSlot_keeps fun _ => .ite recordWaiter_keeps .pure
  · exact .bind ownSlot_keeps fun _ => .bind claimSlot_keeps fun _ => .ite recordWaiter_keeps .pure
  · exact .ite recordWaiter_keeps .pure

theorem pushCopy_keeps {i : Instr} : Keeps (pushCopy i) := by
  unfold pushCopy
  refine .bind (.mapM fun _ => optReg_keeps) fun _ => .bind curStrand_keeps fun _ => ?_
  dsimp only
  split
  · refine .ite illegal_bind_keeps (.bind ?_ fun desc => ?_)
    · split
      · exact readDescriptor_keeps
      · exact readDescriptor_keeps
      · exact readDescriptor_keeps
      · exact .pure
    · split
      · exact .bind csrImplicit_keeps fun _ => .bind copyDet_keeps fun _ => .getS_bind fun s hs =>
            .bind pushEntry_keeps fun _ => .pure
      · exact .bind csrImplicit_keeps fun _ => .bind copyDet_keeps fun _ => .getS_bind fun s hs =>
            .bind pushEntry_keeps fun _ => .pure
      · exact .bind copyDet_keeps fun _ => .getS_bind fun s hs => .bind pushEntry_keeps fun _ => .pure
  · refine .bind ?_ fun _ => ?_
    · split
      · exact readDescriptor_keeps
      · exact readDescriptor_keeps
      · exact readDescriptor_keeps
      · exact .pure
    · split
      · exact .bind csrImplicit_keeps fun _ => .bind copyDet_keeps fun _ => .getS_bind fun s hs =>
            .bind pushEntry_keeps fun _ => .pure
      · exact .bind csrImplicit_keeps fun _ => .bind copyDet_keeps fun _ => .getS_bind fun s hs =>
            .bind pushEntry_keeps fun _ => .pure
      · exact .bind copyDet_keeps fun _ => .getS_bind fun _ _ => .bind pushEntry_keeps fun _ => .pure

/-! ### The copy and gather engines -/

theorem noteGecc_wf {s : State} {t strand kind idx : Nat} (h : MemWf s) : MemWf (noteGecc s t strand kind idx) :=
  modTask_wf h

theorem copyError_wf {s : State} {t q strand kind idx : Nat} (h : MemWf s) :
    MemWf (copyError s t q strand kind idx) :=
  absorbError_wf (onHead_wf (noteGecc_wf h))

theorem loseAt_wf {s : State} {t : Nat} {va : Word} (h : MemWf s) : MemWf (loseAt s t va) := by
  unfold loseAt
  split
  · exact loseLink_wf h
  · exact h

theorem noteLost_wf {t q strand base : Nat} {src : Word} {l : List Nat} {s : State} (h : MemWf s) :
    MemWf (noteLost t q strand base src l s) := by
  induction l generalizing s with
  | nil => exact h
  | cons a r ih => exact ih (.ite h (copyError_wf (onHead_wf h)))

theorem calmRead_wf {s : State} {t q gran : Nat} {e : Entry} {va : Word} {n : Nat} (h : MemWf s) :
    EngWf Prod.fst (calmRead s t q gran e va n) := by
  unfold calmRead
  dsimp only
  split
  · next he => exact .of_error (((engRead_wf h.outside).error _ he).outside)
  · next he => exact .of_ok (((engRead_wf h.outside).ok _ he).outside)

theorem linkWrite_wf {s : State} {t q : Nat} {e : Entry} {va : Word} {bs : List Byte} {idx : Nat} (h : MemWf s) :
    EngWf id (linkWrite s t q e va bs idx) := by
  unfold linkWrite
  split
  · next he => exact .of_error ((engWrite_wf h).error _ he)
  · rename_i u he
    refine .of_ok ?_
    split
    · exact copyError_wf (loseAt_wf h)
    · exact (engWrite_wf h).ok _ he

theorem sourceRead_wf {s : State} {t q : Nat} {e : Entry} {va : Word} {n : Nat} {fresh : Nat → Bool} (h : MemWf s) :
    EngWf Prod.fst (sourceRead s t q e va n fresh) := by
  unfold sourceRead
  dsimp only
  split
  · next he => exact .of_error ((calmRead_wf h).error _ he)
  · next he => exact .of_ok (.ite (loseAt_wf ((calmRead_wf h).ok _ he)) ((calmRead_wf h).ok _ he))

theorem zeroSectors_wf {t q : Nat} {e : Entry} {dst src : Word} {n : Nat} {down : Bool} {o k : Nat} {l : List Nat}
    {s : State}
    (h : MemWf s) : EngWf id (zeroSectors t q e dst src n down o k l s) := by
  induction l generalizing s with
  | nil => exact .of_ok h
  | cons a r ih =>
    unfold zeroSectors
    dsimp only
    split
    · rename_i he
      exact .of_error ((engWrite_wf h).error _ he)
    · rename_i he
      exact ih ((engWrite_wf h).ok _ he)

theorem copyWrite_wf {s : State} {t q : Nat} {e : Entry} {dst src : Word} {n base : Nat} {down : Bool} {o : Nat} {bs
    : List Byte} (h : MemWf s) :
    EngWf id (copyWrite s t q e dst src n base down o bs) := by
  unfold copyWrite
  dsimp only
  split
  · split
    · next he1 => exact .of_error ((zeroSectors_wf (loseAt_wf h)).error _ he1)
    · next he1 => exact .of_ok (noteLost_wf ((zeroSectors_wf (loseAt_wf h)).ok _ he1))
  · exact engWrite_wf h

theorem moveBytes_wf {s : State} {t q : Nat} {e : Entry} {dst src : Word} {n base : Nat} {down : Bool} {o k : Nat}
    (h : MemWf s) :
    EngWf id (moveBytes s t q e dst src n base down o k) := by
  unfold moveBytes
  dsimp only
  split
  · next he => exact .of_error ((sourceRead_wf h).error _ he)
  · rename_i he
    split
    · next he1 => exact .of_error ((copyWrite_wf ((sourceRead_wf h).ok _ he)).error _ he1)
    · next he1 => exact .of_ok (noteLost_wf ((copyWrite_wf ((sourceRead_wf h).ok _ he)).ok _ he1))

theorem longest_wf {f : Nat → Except EngHalt State} {first : EngHalt} {n : Nat} (hf : ∀ k, EngWf id (f k))
    (hx : MemWf first.state) :
    EngWf Prod.fst (longest f first n) := by
  induction n with
  | zero => exact .of_error hx
  | succ n ih =>
    unfold longest
    split
    · rename_i he
      exact .of_ok ((hf _).ok _ he)
    · exact ih

theorem mostOf_wf {f : Nat → Except EngHalt State} {n : Nat} (hf : ∀ k, EngWf id (f k)) : EngWf Prod.fst
    (mostOf f n) := by
  unfold mostOf
  split
  · rename_i he
    exact .of_ok ((hf _).ok _ he)
  · rename_i he
    have hx := (hf _).error _ he
    split
    · exact longest_wf hf hx
    · exact longest_wf hf hx
    · exact .of_error hx
    · exact .of_error hx

theorem moveChunk_wf {s : State} {t q : Nat} {e : Entry} {dst src : Word} {n base p : Nat} (h : MemWf s) :
    EngWf Prod.fst (moveChunk s t q e dst src n base p) := by
  unfold moveChunk
  exact mostOf_wf fun _ => moveBytes_wf h

theorem fillBytes_wf {s : State} {t q : Nat} {e : Entry} {slot p k : Nat} (h : MemWf s) :
    EngWf id (fillBytes s t q e slot p k) := by
  unfold fillBytes
  dsimp only
  split
  · next he => exact .of_error ((sourceRead_wf h).error _ he)
  · rename_i he
    refine .of_ok ?_
    split
    · exact copyError_wf (onHead_wf (modTask_wf ((sourceRead_wf h).ok _ he)))
    · exact onHead_wf (modTask_wf ((sourceRead_wf h).ok _ he))

theorem fillSector_wf {s : State} {t q : Nat} {e : Entry} {slot p : Nat} (h : MemWf s) :
    EngWf Prod.fst (fillSector s t q e slot p) := mostOf_wf fun _ => fillBytes_wf h

theorem outSector_wf {s : State} {t q : Nat} {e : Entry} {slot p : Nat} (h : MemWf s) :
    EngWf Prod.fst (outSector s t q e slot p) := mostOf_wf fun _ => engWrite_wf h

theorem fillChunk_wf {s : State} {t q : Nat} {e : Entry} {p : Nat} (h : MemWf s) :
    EngWf Prod.fst (fillChunk s t q e p) := by
  unfold fillChunk
  dsimp only
  split
  · next he => exact .of_error ((linkWrite_wf h).error _ he)
  · next he => exact .of_ok ((linkWrite_wf h).ok _ he)

theorem copyStep_wf {s : State} {t q : Nat} {e : Entry} (h : MemWf s) : EngWf Prod.fst (copyStep s t q e) := by
  unfold copyStep
  dsimp only
  split
  · exact moveChunk_wf h
  · exact moveChunk_wf h
  · exact fillSector_wf h
  · exact fillSector_wf h
  · exact outSector_wf h
  · exact fillChunk_wf h
  · exact .of_ok h

theorem fillDone_wf {s : State} {t : Nat} {i : Instr} (h : MemWf s) : MemWf (fillDone s t i) := by
  unfold fillDone
  dsimp only
  split
  · exact modTask_wf h
  · exact modTask_wf h
  · exact h

theorem copyUnits_wf {t q n : Nat} {s : State} (h : MemWf s) : MemWf (copyUnits t q n s) := by
  induction n generalizing s with
  | zero => exact h
  | succ n ih =>
    unfold copyUnits
    dsimp only
    split
    · exact h
    · split
      · exact h
      · split
        · exact fillDone_wf (onHead_wf h)
        · split
          · rename_i he
            exact engStopped_wf (onHead_wf h) ((copyStep_wf (onHead_wf h)).error _ he)
          · rename_i he
            exact ih (onHead_wf ((copyStep_wf (onHead_wf h)).ok _ he))

theorem sendNotify_wf {s : State} {t q : Nat} {e : Entry} {a : Word} (h : MemWf s) :
    MemWf (sendNotify s t q e a) := by
  unfold sendNotify
  dsimp only
  split
  · exact onHead_wf h
  · exact compareSend_wf h (fun _ hu => .ite (onHead_wf (signalSem_wf hu)) (onHead_wf (sendReq_wf hu)))

theorem startCopy_wf {s : State} {t q : Nat} {e : Entry} (h : MemWf s) : MemWf (startCopy s t q e) := by
  unfold startCopy
  refine .ite (onHead_wf h) ?_
  dsimp only
  split
  · exact faultHead_wf h
  · split
    · exact faultHead_wf h
    · exact headWait_wf h
    · split
      · exact onHead_wf (.ite (drainHost_wf h) h)
      · exact onHead_wf h
    · exact onHead_wf (onHead_wf (modTask_wf h))

theorem execCopyGatherCommandStart_wf {s : State} (h : MemWf s) : NextWf (execCopyGatherCommandStart s) := by
  unfold execCopyGatherCommandStart
  dsimp only
  split
  · exact .of_next h
  · refine nextIte_wf (.of_next h) ?_
    refine nextIte_wf (.of_next (onHead_wf h)) ?_
    split
    · exact .of_next (faultHead_wf h)
    · split
      · exact .of_next (headWait_wf h)
      · split
        · next he3 => exact .of_next (of_fst (takeWt_wf h) he3)
        · next he3 => exact .of_next (onHead_wf (of_fst (takeWt_wf h) he3))
        · rename_i he3
          exact nextIte_wf (.of_next (of_fst (takeWt_wf h) he3)) (.of_next (.ite (copyUnits_wf (startCopy_wf (of_fst
              (takeWt_wf h) he3))) (startCopy_wf (of_fst (takeWt_wf h) he3))))

theorem readIndex_wf {s : State} {t q : Nat} {e : Entry} {off : Nat} (h : MemWf s) :
    EngWf Prod.fst (readIndex s t q e off) := by
  unfold readIndex
  split
  · next he => exact .of_error ((engRead_wf h).error _ he)
  · next he => exact .of_ok ((engRead_wf h).ok _ he)

theorem readRow_wf {s : State} {t q : Nat} {e : Entry} {a : Word} {n : Nat} (h : MemWf s) :
    EngWf Prod.fst (readRow s t q e a n) := by
  unfold readRow
  split
  · next he => exact .of_error ((engRead_wf h).error _ he)
  · next he => exact .of_ok ((engRead_wf h).ok _ he)

theorem rowIndex_wf {s : State} {t q : Nat} {e : Entry} {g : Gather} {n : Nat} (h : MemWf s) :
    EngWf Prod.fst (rowIndex s t q e g n) := by
  unfold rowIndex
  split
  · next he => exact .of_error ((readIndex_wf h).error _ he)
  · rename_i he
    split
    · exact engTrap_wf ((readIndex_wf h).ok _ he)
    · exact .of_ok ((readIndex_wf h).ok _ he)

theorem tableBytes_wf {s : State} {t q : Nat} {e : Entry} {g : Gather} {v size : Nat} (h : MemWf s) :
    EngWf Prod.fst (tableBytes s t q e g v size) := by
  unfold tableBytes
  split
  · exact readRow_wf h
  · exact .of_ok h

theorem growUnit_wf {s : State} {t q : Nat} {e : Entry} {g : Gather} {et n : Nat} (h : MemWf s) :
    EngWf id (growUnit s t q e g et n) := by
  unfold growUnit
  dsimp only
  split
  · next he => exact .of_error ((rowIndex_wf h).error _ he)
  · rename_i he
    have hr := (rowIndex_wf h).ok _ he
    split
    · split
      · next he => exact .of_error ((engWrite_wf hr).error _ he)
      · next he => exact .of_ok (copyError_wf ((engWrite_wf hr).ok _ he))
    · split
      · next he => exact .of_error ((tableBytes_wf hr).error _ he)
      · rename_i he
        have ht := (tableBytes_wf hr).ok _ he
        split
        · next he => exact .of_error ((engWrite_wf ht).error _ he)
        · rename_i he
          have hw := (engWrite_wf ht).ok _ he
          refine .of_ok ?_
          split
          · exact copyError_wf hw
          · exact hw

theorem bagRows_wf {t q : Nat} {e : Entry} {g : Gather} {et k n : Nat} {s : State} {acc : Option
    (List Nat)} {fl : Nat} (h : MemWf s) :
    EngWf Prod.fst (bagRows t q e g et k n s acc fl) := by
  induction k generalizing n s acc fl with
  | zero => exact .of_ok h
  | succ k ih =>
    unfold bagRows
    dsimp only
    split
    · rename_i he
      exact .of_error ((rowIndex_wf h).error _ he)
    · rename_i he
      have hr := (rowIndex_wf h).ok _ he
      split
      · exact ih (copyError_wf hr)
      · split
        · rename_i he
          exact .of_error ((tableBytes_wf hr).error _ he)
        · rename_i he
          have ht := (tableBytes_wf hr).ok _ he
          exact ih (.ite (copyError_wf ht) ht)

theorem unitFlags_wf {s : State} {t q : Nat} {e : Entry} {n fl : Nat} (h : MemWf s) :
    MemWf (unitFlags s t q e n fl) :=
  .ite h (onHead_wf (modTask_wf h))

theorem bagUnit_wf {s : State} {t q : Nat} {e : Entry} {g : Gather} {et rm b : Nat} (h : MemWf s) :
    EngWf id (bagUnit s t q e g et rm b) := by
  unfold bagUnit
  dsimp only
  split
  · next he => exact .of_error ((readIndex_wf h).error _ he)
  · rename_i he
    split
    · next he1 => exact .of_error ((readIndex_wf ((readIndex_wf h).ok _ he)).error _ he1)
    · rename_i he1
      split
      · split
        · next he3 => exact .of_error ((engWrite_wf ((readIndex_wf ((readIndex_wf h).ok _ he)).ok _ he1)).error _ he3)
        · rename_i he3
          exact .of_ok (copyError_wf ((engWrite_wf ((readIndex_wf ((readIndex_wf h).ok _ he)).ok _ he1)).ok _ he3))
      · split
        · exact engTrap_wf ((readIndex_wf ((readIndex_wf h).ok _ he)).ok _ he1)
        · split
          · rename_i he2
            exact .of_error ((bagRows_wf ((readIndex_wf ((readIndex_wf h).ok _ he)).ok _ he1)).error _ he2)
          · rename_i he2
            split
            · rename_i he3
              exact .of_error ((engWrite_wf ((bagRows_wf ((readIndex_wf
                  ((readIndex_wf h).ok _ he)).ok _ he1)).ok _ he2)).error _ he3)
            · rename_i he3
              exact .of_ok (unitFlags_wf ((engWrite_wf ((bagRows_wf ((readIndex_wf
                  ((readIndex_wf h).ok _ he)).ok _ he1)).ok _ he2)).ok _ he3))

theorem noteAdds_wf {s : State} {t q m fl : Nat} (h : MemWf s) : MemWf (noteAdds s t q m fl) := onHead_wf h

theorem scatterRow_wf {t q : Nat} {e : Entry} {et index : Nat} {l : List Nat} {s : State} {va : Word} {m fl : Nat}
    (h : MemWf s) :
    EngWf Prod.fst (scatterRow t q e et index l s va m fl) := by
  induction l generalizing s va m fl with
  | nil => exact .of_ok h
  | cons v vs ih =>
    unfold scatterRow
    dsimp only
    split
    · exact .of_error (noteAdds_wf h)
    · split
      · exact ih (copyError_wf (.ite (loseLink_wf h) h))
      · split
        · exact .of_error (noteAdds_wf h)
        · rename_i he
          exact ih ((engPerform_wf h).ok _ he)

theorem scatterUnit_wf {s : State} {t q : Nat} {e : Entry} {g : Gather} {et n : Nat} (h : MemWf s) :
    EngWf id (scatterUnit s t q e g et n) := by
  unfold scatterUnit
  dsimp only
  split
  · next he => exact .of_error ((rowIndex_wf h).error _ he)
  · rename_i he
    split
    · exact .of_ok (copyError_wf ((rowIndex_wf h).ok _ he))
    · split
      · next he1 => exact .of_error ((readRow_wf ((rowIndex_wf h).ok _ he)).error _ he1)
      · rename_i he1
        split
        · exact .of_ok (copyError_wf ((readRow_wf ((rowIndex_wf h).ok _ he)).ok _ he1))
        · split
          · rename_i he2
            exact .of_error ((scatterRow_wf ((readRow_wf ((rowIndex_wf h).ok _ he)).ok _ he1)).error _ he2)
          · rename_i he2
            exact .of_ok (noteAdds_wf (unitFlags_wf ((scatterRow_wf ((readRow_wf
                ((rowIndex_wf h).ok _ he)).ok _ he1)).ok _ he2)))

theorem gatherUnit_wf {s : State} {t q : Nat} {e : Entry} (h : MemWf s) : EngWf id (gatherUnit s t q e) := by
  unfold gatherUnit
  dsimp only
  split
  · exact growUnit_wf h
  · exact bagUnit_wf h
  · exact scatterUnit_wf h
  · exact .of_ok h

theorem countStall_wf {s : State} {t n : Nat} (h : MemWf s) : MemWf (countStall s t n) := modTask_wf h

theorem readTableRows_wf {t q : Nat} {e : Entry} {g : Gather} {size : Nat} {l : List Nat} {s : State} (h : MemWf s) :
    EngWf id (readTableRows t q e g size l s) := by
  induction l generalizing s with
  | nil => exact .of_ok h
  | cons v r ih =>
    unfold readTableRows
    split
    · rename_i he
      exact .of_error ((readRow_wf h).error _ he)
    · rename_i he
      exact ih (onHead_wf ((readRow_wf h).ok _ he))

theorem orderTable_wf {s : State} {t q : Nat} {e : Entry} (h : MemWf s) : EngWf id (orderTable s t q e) := by
  unfold orderTable
  dsimp only
  split
  · exact readTableRows_wf h
  · exact readTableRows_wf h
  · exact .of_ok (onHead_wf h)

theorem noteWrites_wf {s : State} {t : Nat} {l : List (Nat × Nat)} (h : MemWf s) : MemWf (noteWrites s t l) :=
  modTask_wf h

theorem execGatherUnit_wf {s : State} (h : MemWf s) : NextWf (execGatherUnit s) := by
  unfold execGatherUnit
  dsimp only
  split
  · exact .of_next h
  · refine nextIte_wf (.of_next h) ?_
    refine nextIte_wf (.of_next (onHead_wf h)) ?_
    refine nextIte_wf ?_ ?_
    · exact nextIte_wf (.of_next (popHead_wf h)) (.of_next (headWait_wf h))
    · refine nextIte_wf (.of_next (onHead_wf (countStall_wf h))) ?_
      refine nextIte_wf ?_ ?_
      · split
        · next he1 => exact .of_next (engStopped_wf h ((orderTable_wf h).error _ he1))
        · next he1 => exact .of_next (onHead_wf ((orderTable_wf h).ok _ he1))
      · split
        · next he1 => exact .of_next (engStopped_wf h ((gatherUnit_wf (onHead_wf h)).error _ he1))
        · rename_i he1
          exact .of_next (onHead_wf (.ite (modTask_wf (noteWrites_wf ((gatherUnit_wf (onHead_wf h)).ok _ he1)))
              (noteWrites_wf ((gatherUnit_wf (onHead_wf h)).ok _ he1))))

theorem noteCopyErr_wf {s : State} {t : Nat} {e : Entry} (h : MemWf s) : MemWf (noteCopyErr s t e) :=
  .ite (modTask_wf h) h

theorem finishCopy_wf {s : State} {t q : Nat} {e : Entry} (h : MemWf s) : MemWf (finishCopy s t q e) := by
  unfold finishCopy
  dsimp only
  split
  · exact .ite h (.ite (finishHead_wf (noteCopyErr_wf (sendNotify_wf h))) (sendNotify_wf h))
  · split
    · exact faultHead_wf (onHead_wf h)
    · exact finishHead_wf (noteCopyErr_wf h)

theorem execCopyGatherCommandComplete_wf {s : State} (h : MemWf s) : NextWf (execCopyGatherCommandComplete s) := by
  unfold execCopyGatherCommandComplete
  dsimp only
  split
  · exact .of_next h
  · refine nextIte_wf (.of_next h) ?_
    split
    · exact .of_next (.ite (.ite (onHead_wf (fillDone_wf h)) h) (.ite (.ite (onHead_wf h) h) (copyUnits_wf h)))
    · exact nextIte_wf (.of_next (finishCopy_wf (.ite (.ite (onHead_wf (fillDone_wf h)) h) (.ite (.ite
          (onHead_wf h) h) (copyUnits_wf h))))) (.of_next (.ite (.ite (onHead_wf (fillDone_wf h)) h) (.ite (.ite
          (onHead_wf h) h) (copyUnits_wf h))))

/-! ### The collective engine -/

theorem pushCollective_keeps {i : Instr} : Keeps (pushCollective i) := by
  unfold pushCollective
  refine .bind ?_ fun _ => ?_
  · split
    · next a _ => exact .bind rdOut_keeps fun a => .pure
    · next a _ => exact .bind rdOut_keeps fun a => .bind rdOut_keeps fun b => .bind rdOut_keeps fun c => .pure
    · next a _ => exact .bind rdOut_keeps fun a => .bind rdOut_keeps fun b => .bind rdOut_keeps fun c => .pure
    · exact .bind rdOut_keeps fun _ => .bind curStrand_keeps fun st => .bind (.ite .pure rdOut_keeps) fun _ =>
          .bind rdOut_keeps fun _ => .bind rdOut_keeps fun _ => .pure
    · exact .pure
  · dsimp only
    split
    · exact .bind csrImplicit_keeps fun _ => .iteFirst recordWaiter_keeps (.bind curStrand_keeps fun st =>
          .bind pushEntry_keeps fun _ => .pure)
    · exact .iteFirst recordWaiter_keeps (.bind curStrand_keeps fun _ => .bind pushEntry_keeps fun _ => .pure)

theorem makeLate_wf {s : State} {t : Nat} {e : Entry} (h : MemWf s) : MemWf (makeLate s t e) :=
  .ite (onHead_wf h) (modTask_of (onHead_wf h) (.ite (((onHead_wf h).task _).outside) ((onHead_wf h).task _)))

theorem awaitSlot_wf {s : State} {t : Nat} {e : Entry} (h : MemWf s) : MemWf (awaitSlot s t e) :=
  .ite (onHead_wf h) (makeLate_wf h)

theorem beginCollective_wf {s : State} {t : Nat} (h : MemWf s) : MemWf (beginCollective s t) := onHead_wf h

theorem execXeCommandStart_wf {s : State} (h : MemWf s) : NextWf (execXeCommandStart s) := by
  unfold execXeCommandStart
  dsimp only
  split
  · exact .of_next h
  · refine nextIte_wf (.of_next h) ?_
    refine nextIte_wf (.of_next (onHead_wf h)) ?_
    split
    · next he1 => exact .of_next (of_fst (takeWt_wf h) he1)
    · rename_i he1
      split
      · exact .of_next (finishHead_wf (of_fst (takeWt_wf h) he1))
      · split
        · exact .of_next (faultHead_wf (of_fst (takeWt_wf h) he1))
        · exact .of_next (onHead_wf (of_fst (takeWt_wf h) he1))
    · rename_i he1
      refine nextIte_wf (.of_next (of_fst (takeWt_wf h) he1)) ?_
      split
      · exact .of_next (finishHead_wf (modTask_wf (of_fst (takeWt_wf h) he1)))
      · split
        · exact .of_next (faultHead_wf (of_fst (takeWt_wf h) he1))
        · exact nextIte_wf (.of_next (awaitSlot_wf (of_fst (takeWt_wf h) he1))) (.of_next (beginCollective_wf
              (of_fst (takeWt_wf h) he1)))

theorem sendCollective_wf {s : State} {t : Nat} {e : Entry} {va : Word} {bs : List (Option Byte)} (h : MemWf s) :
    MemWf (sendCollective s t e va bs) := by
  unfold sendCollective
  dsimp only
  split
  · exact h
  · exact onHead_wf (sendResponse_wf h)

theorem sendBytes_wf {t : Nat} {e : Entry} {n : Nat} {s : State} {va : Word} {l : List Byte} (h : MemWf s) :
    MemWf (sendBytes t e n s va l) := by
  induction n generalizing s va l with
  | zero => exact h
  | succ n ih =>
    cases l with
    | nil => exact h
    | cons b bs => exact ih (sendCollective_wf h)

theorem noteXeLost_wf {s : State} {t : Nat} {lost : Bool} (h : MemWf s) : MemWf (noteXeLost s t lost) := noteErr_wf h

theorem collectiveBytes_wf {s : State} {t : Nat} {e : Entry} {p k : Nat} (h : MemWf s) :
    EngWf id (collectiveBytes s t e p k) := by
  unfold collectiveBytes
  dsimp only
  split
  · next he => exact .of_error ((sourceRead_wf h).error _ he)
  · rename_i he
    split
    · exact .of_ok (noteXeLost_wf (sendBytes_wf (onHead_wf ((sourceRead_wf h).ok _ he))))
    · split
      · next he1 => exact .of_error ((engWrite_wf (onHead_wf ((sourceRead_wf h).ok _ he))).error _ he1)
      · next he1 => exact .of_ok (noteXeLost_wf ((engWrite_wf (onHead_wf ((sourceRead_wf h).ok _ he))).ok _ he1))

theorem moveCollective_wf {s : State} {t : Nat} {e : Entry} {p : Nat} (h : MemWf s) :
    EngWf Prod.fst (moveCollective s t e p) := mostOf_wf fun _ => collectiveBytes_wf h

theorem redFlags_wf {s : State} {t : Nat} {e : Entry} {every : List Nat} (h : MemWf s) :
    MemWf (redFlags s t e every) :=
  .ite h (onHead_wf (modTask_wf h))

theorem runXred_wf {s : State} {t : Nat} {e : Entry} (h : MemWf s) : EngWf Prod.fst (runXred s t e) := by
  unfold runXred
  dsimp only
  split
  · next he => exact .of_error ((engRead_wf h).error _ he)
  · rename_i u a he
    have hu := (engRead_wf h).ok _ he
    have hb : EngWf Prod.fst (if (redCtl e.cap.c).norx then .ok (u, []) else
        engRead u t 8 64 e e.cap.b (redReceived (redCtl e.cap.c) (ctlLen e.cap.c)).1 .collRead) := by
      split
      · exact .of_ok hu
      · exact engRead_wf hu
    split
    · next he => exact .of_error (hb.error _ he)
    · rename_i he
      have hs := hb.ok _ he
      split
      · exact .of_ok (noteXeLost_wf (redFlags_wf hs))
      · split
        · split
          · next he => exact .of_error ((mostOf_wf fun _ => engWrite_wf (noteXeLost_wf (redFlags_wf hs))).error _ he)
          · next he =>
            have hm := (mostOf_wf fun _ => engWrite_wf (noteXeLost_wf (redFlags_wf hs))).ok _ he
            exact .of_ok hm
        · exact .of_ok (sendBytes_wf (noteXeLost_wf (redFlags_wf hs)))

theorem collectiveUnits_wf {t n : Nat} {s : State} (h : MemWf s) : MemWf (collectiveUnits t n s) := by
  induction n generalizing s with
  | zero => exact h
  | succ n ih =>
    unfold collectiveUnits
    split
    · exact h
    · split
      · exact h
      · split
        · split
          · rename_i he
            exact engStopped_wf h ((runXred_wf h).error _ he)
          · rename_i he
            exact ih (onHead_wf ((runXred_wf h).ok _ he))
        · split
          · exact onHead_wf h
          · split
            · rename_i he
              exact engStopped_wf h ((moveCollective_wf h).error _ he)
            · rename_i he
              exact ih (onHead_wf ((moveCollective_wf h).ok _ he))

theorem execXeTransmissionStart_wf {s : State} (h : MemWf s) : NextWf (execXeTransmissionStart s) := by
  unfold execXeTransmissionStart
  dsimp only
  split
  · exact .of_next h
  · split
    · exact .of_next h
    · exact nextIte_wf (.of_next h) (.of_next (.ite (collectiveUnits_wf (beginCollective_wf (.ite h
          (makeLate_wf h)))) (.ite h (makeLate_wf h))))

theorem sendRemote_wf {s : State} {t : Nat} {e : Entry} {p n : Nat} (h : MemWf s) : MemWf (sendRemote s t e p n) :=
  compareSend_wf h (fun _ hu => .ite (onHead_wf (signalSem_wf hu)) (onHead_wf (sendReq_wf hu)))

theorem noteXeErr_wf {s : State} {t : Nat} {e : Entry} (h : MemWf s) : MemWf (noteXeErr s t e) :=
  .ite (modTask_wf h) h

theorem endCollective_wf {s : State} {t : Nat} {e : Entry} (h : MemWf s) : MemWf (endCollective s t e) :=
  .ite (.ite (popHead_wf h) (headWait_wf h)) (finishHead_wf (noteXeErr_wf (.ite (modTask_wf (modTask_wf h))
      (modTask_wf h))))

theorem finishCollective_wf {s : State} {t : Nat} {e : Entry} (h : MemWf s) : MemWf (finishCollective s t e) := by
  unfold finishCollective
  dsimp only
  split
  · exact faultHead_wf (onHead_wf h)
  · split
    · exact faultHead_wf (onHead_wf h)
    · split
      · exact .ite h (.ite (endCollective_wf (sendRemote_wf h)) (sendRemote_wf h))
      · exact endCollective_wf h

theorem execXeCommandComplete_wf {s : State} (h : MemWf s) : NextWf (execXeCommandComplete s) := by
  unfold execXeCommandComplete
  dsimp only
  split
  · exact .of_next h
  · refine nextIte_wf (.of_next h) ?_
    split
    · exact .of_next (.ite h (collectiveUnits_wf h))
    · exact nextIte_wf (.of_next (finishCollective_wf (.ite h (collectiveUnits_wf h)))) (.of_next (.ite h
          (collectiveUnits_wf h)))

end Sys2Proof.Machine
end

section
/-!
PROOFS. Memories in canonical form: monitors, the signal box, branches and loops keep it.
-/
namespace Sys2Proof.Machine
set_option Elab.async false

/-! ### Monitor instructions -/

theorem modMon_keeps {n : Nat} {f : Monitor → Monitor} : Keeps (modMon n f) := modS_keeps fun _ h => modLaunch_wf h

theorem monHold_keeps {n : Nat} : Keeps (monHold n) := by
  unfold monHold
  refine .bind curLaunch_keeps fun _ => .getS_bind fun _ _ => .ite ?_ .pure
  split
  · exact .ite trapRes_keeps .pure
  · exact modMon_keeps

theorem monGate_keeps {n : Nat} : Keeps (monGate n) := .bind monHold_keeps fun _ => classGate_keeps

theorem execMonset_wf {mon : BitVec 3} {a : Reg} {s : State} (h : MemWf s) : NextWf (execMonset mon a s) := by
  unfold execMonset
  refine strandStep_wf (.bind rdOut_keeps fun _ => .bind monGate_keeps fun _ => .bind needAligned_keeps fun _ =>
      .bind readWords_keeps fun _ => .getS_bind fun _ _ => .bind curLaunch_keeps fun _ => .ite illegal_bind_keeps
      (.ite illegal_bind_keeps (.bind (.mapM fun _ => ?_) fun _ => .ite stop_bind_keeps (.bind modMon_keeps fun _ =>
      .pure)))) h
  split
  · exact stop_keeps
  · split
    · exact .pure
    · exact trapM_keeps
    · exact trapM_keeps

theorem execMonref_wf {mon : BitVec 3} {a : Reg} {s : State} (h : MemWf s) : NextWf (execMonref mon a s) :=
  strandStep_wf (.bind rdOut_keeps fun _ => .bind monGate_keeps fun _ => .bind needAligned_keeps fun _ =>
      .bind readWords_keeps fun _ => .bind curLaunch_keeps fun _ => .ite illegal_bind_keeps (.ite illegal_bind_keeps
      (.bind modMon_keeps fun _ => .pure))) h

theorem execMonrd_wf {mon : BitVec 3} {a : Reg} {s : State} (h : MemWf s) : NextWf (execMonrd mon a s) :=
  strandStep_wf (.bind rdOut_keeps fun _ => .bind monGate_keeps fun _ => .bind needAligned_keeps fun _ =>
      .bind curLaunch_keeps fun _ => .bind writeWords_keeps fun _ => .pure) h

theorem execMonclr_wf {mon : BitVec 3} {s : State} (h : MemWf s) : NextWf (execMonclr mon s) :=
  strandStep_wf (.bind monGate_keeps fun _ => .bind curLaunch_keeps fun _ => .ite (.bind modMon_keeps fun _ =>
      .pure) .pure) h

/-! ### The signal box -/

theorem serveQueue_wf {before s : State} {die launch : Nat} (h : MemWf s) :
    MemWf (serveQueue before s die launch) := by
  unfold serveQueue
  exact modDie_wf h

theorem seatTask_wf {s : State} {t core kind : Nat} (h : MemWf s) : MemWf (seatTask s t core kind) :=
  serveQueue_wf (slogAt_wf (modTask_wf h))

theorem execPlacement_wf {s : State} (h : MemWf s) : NextWf (execPlacement s) := by
  unfold execPlacement
  split
  · split
    · exact .of_next (raiseEvent_wf h)
    · exact .of_next h
  · split
    · exact .of_next h
    · exact nextIte_wf (.of_next h) (.of_next (seatTask_wf h))

theorem execAgeing_wf {s : State} (h : MemWf s) : NextWf (execAgeing s) := by
  unfold execAgeing
  dsimp only
  split
  · exact .of_next h
  · rename_i a _ _
    refine nextIte_wf ?_ (.of_next h)
    split
    · exact .of_next (foldl_wf (modDie_wf h) fun u a hu => slog_wf hu)
    · exact .of_next (logged_wf h (fun u hu => foldl_wf (modDie_wf hu) fun _ _ hu => slog_wf hu))

theorem execQuantumExpiry_wf {s : State} (h : MemWf s) : NextWf (execQuantumExpiry s) := by
  unfold execQuantumExpiry
  dsimp only
  exact nextIte_wf (.of_next (logged_wf h (fun _ hu => modTask_wf hu))) (.of_next h)

theorem execBlockedTimeout_wf {s : State} (h : MemWf s) : NextWf (execBlockedTimeout s) := by
  unfold execBlockedTimeout
  dsimp only
  exact nextIte_wf (.of_next (logged_wf h (fun _ hu => modTask_wf hu))) (.of_next h)

theorem writeContext_wf {s : State} {t : Nat} (h : MemWf s) : MemWf (writeContext s t) := modTask_wf h

theorem matchStrands_wf {s : State} {t : Nat} (h : MemWf s) : MemWf (matchStrands s t) :=
  foldl_wf h fun _ _ hu => .ite hu (.ite (guardMismatch_wf hu) (guardAgree_wf hu))

theorem saveTask_wf {s : State} {t : Nat} (h : MemWf s) : MemWf (saveTask s t) :=
  .ite (raiseEvent_wf (serveTask_wf (slogAt_wf (writeContext_wf (modTask_wf h))))) (beginWait_wf (serveTask_wf
      (slogAt_wf (writeContext_wf (modTask_wf h)))))

theorem execPreEmption_wf {s : State} (h : MemWf s) : NextWf (execPreEmption s) := by
  unfold execPreEmption
  dsimp only
  refine nextIte_wf ?_ ?_
  · exact nextIte_wf (.of_next (logged_wf h (fun u hu => .ite (matchStrands_wf hu) (saveTask_wf
        (matchStrands_wf hu))))) (.of_next h)
  · split
    · exact .of_next h
    · exact nextIte_wf (.of_next (logged_wf h (fun _ hu => modTask_wf hu))) (.of_next h)

theorem addTask_wf {s : State} {key : Nat} {l : Launch} {die x y : Nat} (h : MemWf s) : MemWf
    (addTask s key l die x y) := by
  unfold addTask
  exact beginWait_wf (modDie_wf (h.put ⟨rfl, rfl⟩))

theorem writeTags_wf {s : State} {fn tag : Nat} (h : MemWf s) : MemWf (writeTags s fn tag) :=
  foldl_wf h fun _ _ hu => writePa_wf hu

theorem acceptLaunch_wf {s : State} {key : Nat} {l : Launch} {module : Nat} (h : MemWf s) :
    MemWf (acceptLaunch s key l module) := by
  have hs : MemWf (if l.det then writeTags s l.fn (l.serial % 65535 + 1) else s) := .ite (writeTags_wf h) h
  unfold acceptLaunch
  refine foldl_wf (MemWf.outside hs) fun _ _ hu => ?_
  dsimp only
  split
  · exact slog_wf (addTask_wf hu)
  · exact hu

theorem putWord_wf {s : State} {fn : Nat} {va : Word} {f : Nat → Nat} (h : MemWf s) :
    MemWf (putWord s fn va f).1 := by
  unfold putWord
  split
  · dsimp only
    exact homeWrite_wf h
  · dsimp only
    exact h

theorem signalDone_wf {s : State} {l : Launch} {status : Nat} (h : MemWf s) : MemWf (signalDone s l status) := by
  unfold signalDone
  split
  · rename_i he
    split
    · rename_i he1
      split
      · refine of_fst ?_ he1
        split
        · exact putWord_wf (of_fst (putWord_wf h) he)
        · dsimp only
          exact of_fst (putWord_wf h) he
      · refine raiseEvent_wf (of_fst ?_ he1)
        split
        · exact putWord_wf (of_fst (putWord_wf h) he)
        · dsimp only
          exact of_fst (putWord_wf h) he

theorem finishLaunch_wf {s : State} {key status : Nat} (h : MemWf s) : MemWf (finishLaunch s key status) :=
  .ite ((signalDone_wf h).outside) h.outside

theorem judgeLaunch_wf {s : State} {key module : Nat} {noContext : Bool} (h : MemWf s) :
    MemWf (judgeLaunch s key module noContext) := by
  unfold judgeLaunch
  refine .ite h ?_
  dsimp only
  split
  · exact logged_wf h (fun _ hu => finishLaunch_wf (slog_wf hu))
  · exact finishLaunch_wf h
  · exact .ite (acceptLaunch_wf h) (.ite (raiseEvent_wf h) h)

theorem checkMonitors_wf {s : State} {key : Nat} (h : MemWf s) : MemWf (checkMonitors s key) := modLaunch_wf h

theorem closeLost_wf {s : State} {key t cause : Nat} (h : MemWf s) : MemWf (closeLost s key t cause) :=
  modLaunch_wf (slog_wf h)

theorem execLaunchCompletion_wf {s : State} (h : MemWf s) : NextWf (execLaunchCompletion s) := by
  unfold execLaunchCompletion
  dsimp only
  split
  · exact .of_next h
  · split
    · exact .of_next (raiseEvent_wf h)
    · refine .of_next (MemWf.filter (finishLaunch_wf (slog_wf (foldl_wf (checkMonitors_wf h) fun _ _ hu =>
          closeLost_wf hu))))

theorem execTaskEnd_wf {s : State} (h : MemWf s) : NextWf (execTaskEnd s) := by
  unfold execTaskEnd
  dsimp only
  exact nextIte_wf (.of_next (logged_wf h (fun _ hu => modDie_wf (modTask_wf (slog_wf hu))))) (.of_next h)

theorem execTeamBarrierCompletion_wf {s : State} (h : MemWf s) : NextWf (execTeamBarrierCompletion s) := by
  unfold execTeamBarrierCompletion
  dsimp only
  exact nextIte_wf (.of_next (modLaunch_wf h)) (.of_next h)

theorem closingTrap_wf {s : State} {t k : Nat} {tr : Trap} {pc : Word} {ilen : Nat} (h : MemWf s) :
    MemWf (closingTrap s t k tr pc ilen) :=
  takeTrap_wf (modStrand_wf h)

theorem closeReports_wf {s : State} {key : Nat} (h : MemWf s) : MemWf (closeReports s key).1 := by
  unfold closeReports
  refine foldl_fst_wf h fun _ _ hq => ?_
  dsimp only
  split
  · dsimp only
    exact hq
  · split
    · dsimp only
      exact hq
    · split
      · dsimp only
        exact closingTrap_wf (modStrand_wf hq)
      · dsimp only
        exact closeLost_wf (modStrand_wf hq)

theorem closeUnread_wf {s : State} {key : Nat} (h : MemWf s) : MemWf (closeUnread s key).1 := by
  unfold closeUnread
  refine foldl_fst_wf h fun _ _ hq => ?_
  split
  · split
    · dsimp only
      exact hq
    · split
      · dsimp only
        exact closingTrap_wf hq
      · dsimp only
        exact closeLost_wf hq

theorem closeMonitors_wf {s : State} {key : Nat} (h : MemWf s) : MemWf (closeMonitors s key).1 := by
  unfold closeMonitors
  dsimp only
  refine foldl_fst_wf (checkMonitors_wf h) fun _ _ hq => ?_
  split
  · split
    · dsimp only
      exact hq
    · dsimp only
      exact closingTrap_wf (modLaunch_wf hq)
  · dsimp only
    exact closeLost_wf (modLaunch_wf hq)

theorem phaseTask_wf {t : Task} (h : TaskWf t) : TaskWf (phaseTask t) := (joinFlags_wf h.outside).outside

/-- Rounds that are forgotten. -/
theorem filterRounds_wf {s : State} {p : Nat × Nat → Bool} (h : MemWf s) :
    MemWf { s with roundsDone := s.roundsDone.filter p } := h.outside

theorem execPhaseClose_wf {s : State} (h : MemWf s) : NextWf (execPhaseClose s) := by
  have h1 := closeReports_wf (key := s.sel.item) h
  have h2 := closeUnread_wf (key := s.sel.item) h1
  have h3 := closeMonitors_wf (key := s.sel.item) h2
  unfold execPhaseClose
  refine nextIte_wf (.of_next h) (nextIte_wf (.of_next (raiseEvent_wf h)) ?_)
  refine nextIte_wf (.of_next h1) (nextIte_wf (.of_next h2) (nextIte_wf (.of_next h3) (.of_next ?_)))
  exact filterRounds_wf (slog_wf (modLaunch_wf (foldl_wf h3 fun _ e hu => modTask_of hu (phaseTask_wf
      (hu.task e.1)))))

theorem execWaitUntilMet_wf {s : State} (h : MemWf s) : NextWf (execWaitUntilMet s) := by
  unfold execWaitUntilMet
  dsimp only
  split
  · exact .of_next h
  · exact nextIte_wf (.of_next (modStrand_wf h)) (.of_next h)

theorem execIdleTimeout_wf {s : State} (h : MemWf s) : NextWf (execIdleTimeout s) := by
  unfold execIdleTimeout
  dsimp only
  split
  · exact .of_next h
  · exact nextIte_wf (.of_next (modStrand_wf h)) (.of_next h)

theorem execHang_wf {s : State} (h : MemWf s) : NextWf (execHang s) := by
  unfold execHang
  dsimp only
  refine nextIte_wf (.of_next h) ?_
  split
  · exact .of_next h
  · exact .of_next (takeTrap_wf h)
  · split
    · exact .of_next (takeTrap_wf h)
    · exact .of_next h

theorem execParkResume_wf {s : State} (h : MemWf s) : NextWf (execParkResume s) := by
  unfold execParkResume
  dsimp only
  exact nextIte_wf (.of_next (beginWait_wf (modTask_wf h))) (.of_next h)

theorem execParkKill_wf {s : State} (h : MemWf s) : NextWf (execParkKill s) := by
  unfold execParkKill
  dsimp only
  exact nextIte_wf (.of_next (killTask_wf h)) (.of_next h)

theorem execForcedSyncPoint_wf {s : State} (h : MemWf s) : NextWf (execForcedSyncPoint s) := by
  unfold execForcedSyncPoint
  dsimp only
  refine nextIte_wf ?_ (.of_next h)
  split
  · exact .of_next (guardAgree_wf h)
  · exact .of_next (guardMismatch_wf h)

theorem execDebugPathWrite_wf {s : State} (h : MemWf s) : NextWf (execDebugPathWrite s) :=
  nextIte_wf (.of_next (modTask_wf h)) (.of_next h)

/-! ### Branches and loops -/

theorem execB_wf {p : BitVec 4} {neg : Bool} {disp : BitVec 19} {s : State} (h : MemWf s) :
    NextWf (execB p neg disp s) :=
  strandStep_wf (.bind curStrand_keeps fun _ => .pure) h

theorem execBl_wf {d : Reg} {disp : BitVec 18} {s : State} (h : MemWf s) : NextWf (execBl d disp s) :=
  strandStep_wf (.bind curPc_keeps fun _ => .bind wr_keeps fun _ => .pure) h

theorem execJalr_wf {d a : Reg} {imm : BitVec 12} {s : State} (h : MemWf s) : NextWf (execJalr d a imm s) :=
  strandStep_wf (.bind rdOut_keeps fun _ => .bind curPc_keeps fun _ => .bind needAligned_keeps fun _ =>
      .bind wr_keeps fun _ => .pure) h

theorem loopSkip_keeps {fin : Word} : Keeps (loopSkip fin) := by
  unfold loopSkip
  refine .getS_bind fun _ _ => ?_
  split
  · exact .pure
  · exact .pure
  · exact stop_keeps

theorem execLoops_wf {n : BitVec 2} {a : Reg} {imm : BitVec 12} {s : State} (h : MemWf s) :
    NextWf (execLoops n a imm s) :=
  strandStep_wf (.bind rdOut_keeps fun _ => .bind curPc_keeps fun _ => .getS_bind fun _ _ =>
      .bind curTask_keeps fun _ => .bind curLaunch_keeps fun _ => .ite (.ite stop_bind_keeps stop_bind_keeps)
      (.bind modCurTask_keeps fun _ => .ite loopSkip_keeps (.bind modCurTask_keeps fun _ => .pure))) h

end Sys2Proof.Machine
end

section
/-!
PROOFS. Memories in canonical form: messages keep it.
-/
namespace Sys2Proof.Machine
set_option Elab.async false

/-! ### Messages -/

theorem dropMsg_wf {s : State} {id : Nat} (h : MemWf s) : MemWf (dropMsg s id) := h.outside

theorem modMsg_wf {s : State} {id : Nat} {f : Msg → Msg} (h : MemWf s) : MemWf (modMsg s id f) := h.outside

theorem sendAll_wf {s : State} {l : List Answer} (h : MemWf s) : MemWf (sendAll s l) := sendAnswers_wf h

theorem answer_wf {s : State} {m : Msg} {station : Nat} {r : Reply} (h : MemWf s) : MemWf (answer s m station r) :=
  sendAll_wf h

theorem markAccepted_wf {s : State} {req : Requester} (h : MemWf s) : MemWf (markAccepted s req) :=
  foldl_wf h fun _ _ hu => .ite hu (modStrand_wf hu)

theorem refuseMsg_wf {s : State} {id : Nat} {m : Msg} {station : Nat} (h : MemWf s) : MemWf
    (refuseMsg s id m station) := by
  unfold refuseMsg
  dsimp only
  split
  · exact .ite (markAccepted_wf h.outside) h.outside
  · exact h.outside

theorem linkFailure_wf {s : State} {id : Nat} {m : Msg} (h : MemWf s) : MemWf (linkFailure s id m) :=
  answer_wf (retireLane_wf (dropMsg_wf h))

theorem leaveCrossbar_wf {s : State} {id : Nat} {m : Msg} (h : MemWf s) : MemWf (leaveCrossbar s id m) := by
  unfold leaveCrossbar
  dsimp only
  split
  · exact h
  · exact h.outside

theorem takeHop_wf {s : State} {id : Nat} {m : Msg} {h : Hop} {slot : Nat} (hs : MemWf s) :
    MemWf (takeHop s id m h slot) :=
  .ite (modMsg_wf hs) (modMsg_wf hs)

theorem goodHop_wf {s : State} {id : Nat} {m : Msg} (h : MemWf s) : MemWf (goodHop s id m) :=
  .ite h (.ite h (.ite (.ite (refuseMsg_wf (modMsg_wf h)) h) (takeHop_wf h)))

theorem execFlitHop_wf {s : State} (h : MemWf s) : NextWf (execFlitHop s) := by
  unfold execFlitHop
  dsimp only
  split
  · exact .of_next h
  · refine nextIte_wf (.of_next h) ?_
    refine nextIte_wf (.of_next (leaveCrossbar_wf h)) ?_
    refine nextIte_wf (.of_next (modMsg_wf h)) ?_
    refine nextIte_wf (.of_next h) ?_
    split
    · exact .of_next (goodHop_wf h)
    · exact nextIte_wf (.of_next (modMsg_wf h)) (.of_next (linkFailure_wf h))
    · exact nextIte_wf (.of_next (refuseMsg_wf (modMsg_wf h))) (.of_next h)

theorem serveFe_wf {s : State} {id : Nat} {m : Msg} (h : MemWf s) : MemWf (serveFe s id m) :=
  sendAll_wf (.ite (markAccepted_wf (serveWord_wf (modTask_wf (dropMsg_wf h)))) (serveWord_wf (modTask_wf
      (dropMsg_wf h))))

theorem serveAmor_wf {s : State} {id : Nat} {m : Msg} (h : MemWf s) : MemWf (serveAmor s id m) := by
  unfold serveAmor
  refine .ite (modMsg_wf h) (sendAll_wf (dropMsg_wf (.ite (markAccepted_wf ?_) ?_)))
  · dsimp only
    split
    · split
      · dsimp only
        exact h
      · split
        · dsimp only
          exact h
        · split
          · dsimp only
            exact h.outside
          · split
            · dsimp only
              exact h
            · exact performRound_wf h
    · dsimp only
      exact h
  · dsimp only
    split
    · split
      · dsimp only
        exact h
      · split
        · dsimp only
          exact h
        · split
          · dsimp only
            exact h.outside
          · split
            · dsimp only
              exact h
            · exact performRound_wf h
    · dsimp only
      exact h

theorem keepImage_wf {s : State} {h : Home} (hs : MemWf s) : MemWf (keepImage s h) := by
  unfold keepImage
  split
  · exact .ite (writeContext_wf hs) hs
  · exact hs
  · exact hs
  · exact hs

theorem performMsg_wf {s : State} {id : Nat} {m : Msg} (h : MemWf s) : MemWf (performMsg s id m) := by
  unfold performMsg
  refine .ite (answer_wf (dropMsg_wf h)) ?_
  split
  · exact serveFe_wf h
  · exact serveAmor_wf h
  · split
    · exact modMsg_wf h
    · next he => exact answer_wf (dropMsg_wf ((performAt_wf h).trap he))
    · next he => exact answer_wf (dropMsg_wf ((performAt_wf h).ok he))

theorem serveMsg_wf {s : State} {id : Nat} {m : Msg} (h : MemWf s) : MemWf (serveMsg s id m) :=
  keepImage_wf (performMsg_wf h)

theorem arriveRequest_wf {s : State} {id : Nat} {m : Msg} (h : MemWf s) : MemWf (arriveRequest s id m) :=
  .ite (.ite h (modMsg_wf h)) (serveMsg_wf h)

theorem takeRequest_wf {s : State} {want : AccOp → Bool} (h : MemWf s) : MemWf (takeRequest s want) := by
  unfold takeRequest
  dsimp only
  split
  · exact h
  · exact .ite (arriveRequest_wf h) h

theorem execRequestRead_wf {s : State} (h : MemWf s) : NextWf (execRequestRead s) := by
  unfold execRequestRead
  dsimp only
  split
  · exact .of_next h
  · split
    · exact .of_next (.ite (modMsg_wf h) h)
    · exact .of_next (takeRequest_wf h)

theorem execHostLinkCompletion_wf {s : State} (h : MemWf s) : NextWf (execHostLinkCompletion s) := by
  unfold execHostLinkCompletion
  dsimp only
  split
  · exact .of_next h
  · exact .of_next (.ite (serveMsg_wf h) h)

theorem execRequestWrite_wf {s : State} (h : MemWf s) : NextWf (execRequestWrite s) := .of_next (takeRequest_wf h)

theorem execSemaphoreSignal_wf {s : State} (h : MemWf s) : NextWf (execSemaphoreSignal s) :=
  .of_next (takeRequest_wf h)

theorem execFullEmptyRequest_wf {s : State} (h : MemWf s) : NextWf (execFullEmptyRequest s) :=
  .of_next (takeRequest_wf h)

theorem execForwardedRequest_wf {s : State} (h : MemWf s) : NextWf (execForwardedRequest s) := by
  unfold execForwardedRequest
  dsimp only
  split
  · exact .of_next h
  · refine nextIte_wf (.of_next h) ?_
    exact nextIte_wf (.of_next (answer_wf (dropMsg_wf h))) (.of_next (serveMsg_wf h))

theorem mergePair_wf {s : State} {keep drop : Nat} {a b : Msg} (h : MemWf s) : MemWf (mergePair s keep drop a b) := by
  unfold mergePair
  dsimp only
  split
  · exact h
  · split
    · split
      · exact modMsg_wf (dropMsg_wf h)
      · exact h
    · split
      · exact h
      · exact h.outside

theorem tryMerge_wf {s : State} {i j : Nat} (h : MemWf s) : MemWf (tryMerge s i j) := by
  unfold tryMerge
  split
  · exact .ite h (.ite (mergePair_wf h) (mergePair_wf h))
  · exact h

theorem takeAtomic_wf {s : State} {want : AccOp → Bool} (h : MemWf s) : MemWf (takeAtomic s want) := by
  unfold takeAtomic
  split
  · exact takeRequest_wf h
  · split
    · exact .ite (tryMerge_wf h) h
    · exact h

theorem execRequestAtomic_wf {s : State} (h : MemWf s) : NextWf (execRequestAtomic s) := .of_next (takeAtomic_wf h)

theorem execAmorContribution_wf {s : State} (h : MemWf s) : NextWf (execAmorContribution s) :=
  .of_next (takeAtomic_wf h)

theorem splitTo_wf {m : Msg} {s : State} {req : Requester} {station : Nat} {r : Reply} (h : MemWf s) :
    MemWf (splitTo m s req station r) :=
  foldl_wf h fun _ _ hu => sendResponse_wf hu

theorem splitEntry_wf {s : State} {k : Nat} {m : Msg} {r : Reply} (h : MemWf s) : MemWf (splitEntry s k m r) := by
  unfold splitEntry
  dsimp only
  split
  · exact h
  · exact splitTo_wf (splitTo_wf h.outside)

theorem Task.feedDest_wf {t : Task} {k : Nat} {d : Option Dest} {r : StrandRegs} (h : TaskWf t) :
    TaskWf (Task.feedDest t k d r) := by
  unfold Task.feedDest
  split
  · exact h
  · next a _ => exact foldl_taskWf h fun _ _ hy => .ite hy (Task.feed_wf hy)

theorem giveReply_wf {s : State} {t k : Nat} {o : Outstanding} {f : StrandRegs → StrandRegs} (h : MemWf s) :
    MemWf (giveReply s t k o f) := by
  unfold giveReply
  refine .ite (modTask_of (modStrand_wf h) (Task.feedDest_wf (Task.modStrand_wf ((modStrand_wf h).task _)))) ?_
  split
  · exact modTask_wf (modStrand_wf h)
  · exact modTask_of (modStrand_wf h) (Task.feedDest_wf (Task.modStrand_wf ((modStrand_wf h).task _)))

theorem settle_wf {s : State} {t k : Nat} {o : Outstanding} {f : StrandRegs → StrandRegs} (h : MemWf s) :
    MemWf (settle s t k o f) := by
  unfold settle
  refine .ite (giveReply_wf h) (.ite (modStrand_wf (modTask_of (giveReply_wf h) ?_)) (retireAs_wf (giveReply_wf h)))
  dsimp only
  split
  · dsimp only
    exact (giveReply_wf h).task _
  · split
    · dsimp only
      exact Task.setLoop_wf ((giveReply_wf h).task _)
    · exact loopBack_wf (Task.setLoop_wf ((giveReply_wf h).task _))

theorem reportFault_wf {s : State} {t k : Nat} {r : FaultReport} (h : MemWf s) : MemWf (reportFault s t k r) :=
  modStrand_wf h

theorem trapParked_wf {s : State} {t k : Nat} {o : Outstanding} {f : StrandRegs → StrandRegs} {tr : Trap}
    (h : MemWf s) :
    MemWf (trapParked s t k o f tr) :=
  .ite (takeStruck_wf (giveReply_wf h)) (giveReply_wf h)

theorem strandFault_wf {s : State} {t k : Nat} {o : Outstanding} {tr : Trap} (h : MemWf s) :
    MemWf (strandFault s t k o tr) := by
  unfold strandFault
  split
  · exact modStrand_wf (settle_wf h)
  · exact .ite (trapParked_wf h) (reportFault_wf (giveReply_wf h))

theorem amoxOverflow_wf {s : State} {t k : Nat} {o : Outstanding} {v : Option Nat} (h : MemWf s) :
    MemWf (amoxOverflow s t k o v) := by
  unfold amoxOverflow
  dsimp only
  split
  · exact modTask_wf (settle_wf h)
  · exact .ite (trapParked_wf (guardAgree_wf h)) (reportFault_wf (settle_wf h))

theorem strandReply_wf {s : State} {t k id : Nat} {r : Reply} (h : MemWf s) : MemWf (strandReply s t k id r) := by
  unfold strandReply
  dsimp only
  split
  · exact h
  · split
    · exact settle_wf h
    · exact settle_wf h
    · exact amoxOverflow_wf h
    · exact amoxOverflow_wf h
    · exact strandFault_wf h
    · exact sendReq_wf (modStrand_wf h)

theorem vectorReply_wf {s : State} {t id : Nat} {a : Acc} {r : Reply} (h : MemWf s) :
    MemWf (vectorReply s t id a r) := by
  unfold vectorReply
  dsimp only
  split
  · exact h
  · split
    · exact modEntry_wf h
    · exact modEntry_wf h
    · exact modEntry_wf h
    · exact .ite (modEntry_wf h) (reportFault_wf (modEntry_wf h))
    · exact sendReq_wf (modEntry_wf h)

theorem engineReply_wf {s : State} {t q id : Nat} {a : Acc} {r : Reply} (h : MemWf s) :
    MemWf (engineReply s t q id a r) := by
  unfold engineReply
  dsimp only
  split
  · exact h
  · refine .ite ?_ (.ite ?_ h)
    · split
      · exact absorbError_wf (onHead_wf (onHead_wf h))
      · exact sendReq_wf h
      · exact onHead_wf h
      · exact onHead_wf h
      · exact onHead_wf h
    · split
      · exact .ite (absorbError_wf (onHead_wf (onHead_wf h))) (onHead_wf (onHead_wf h))
      · exact onHead_wf h
      · exact onHead_wf h
      · exact onHead_wf h
      · exact onHead_wf h

theorem applyReply_wf {s : State} {m : Msg} {r : Reply} (h : MemWf s) : MemWf (applyReply s m r) := by
  unfold applyReply
  split
  · exact splitEntry_wf h
  · exact h
  · refine .ite h ?_
    split
    · exact strandReply_wf h
    · exact vectorReply_wf h
    · exact engineReply_wf h

theorem takeResponse_wf {s : State} {want : Msg → Reply → Bool} (h : MemWf s) : MemWf (takeResponse s want) := by
  unfold takeResponse
  dsimp only
  split
  · exact h
  · split
    · exact h
    · exact .ite (applyReply_wf (dropMsg_wf h)) h

theorem execDataResponse_wf {s : State} (h : MemWf s) : NextWf (execDataResponse s) := .of_next (takeResponse_wf h)

theorem execAcknowledgement_wf {s : State} (h : MemWf s) : NextWf (execAcknowledgement s) :=
  .of_next (takeResponse_wf h)

theorem execRedirect_wf {s : State} (h : MemWf s) : NextWf (execRedirect s) := .of_next (takeResponse_wf h)

theorem execFaultStatus_wf {s : State} (h : MemWf s) : NextWf (execFaultStatus s) := .of_next (takeResponse_wf h)

theorem execCollectiveData_wf {s : State} (h : MemWf s) : NextWf (execCollectiveData s) := by
  unfold execCollectiveData
  dsimp only
  split
  · exact .of_next h
  · split
    · exact .of_next (.ite (serveMsg_wf h) h)
    · exact .of_next h

theorem wakeWalker_wf {s : State} {page : Nat} {f : Option Trap} {w : Walker} (h : MemWf s) :
    MemWf (wakeWalker s page f w) := by
  unfold wakeWalker
  dsimp only
  split
  · exact .ite h (modStrand_wf h)
  · exact modTask_wf h
  · exact onHead_wf h

theorem execTranslationWalk_wf {s : State} (h : MemWf s) : NextWf (execTranslationWalk s) := by
  unfold execTranslationWalk
  dsimp only
  split
  · exact .of_next h
  · rename_i a _ _
    split
    · exact .of_next (foldl_wf (modDie_wf h) fun u a hu => wakeWalker_wf hu)
    · exact .of_next (foldl_wf (modDie_wf (modDie_wf h)) fun _ _ hu => wakeWalker_wf hu)

theorem execSwitchIn_wf {s : State} (h : MemWf s) : NextWf (execSwitchIn s) := by
  unfold execSwitchIn
  refine nextIte_wf (.of_next h) ?_
  dsimp only
  split
  · exact .of_next (raiseEvent_wf (slogAt_wf (modTask_wf h)))
  · split
    · exact .of_next h
    · split
      · exact .of_next h
      · exact nextIte_wf (.of_next h) (.of_next (.ite (liftFreeze_wf (modTask_wf (seatTask_wf h))) (modTask_wf
            (seatTask_wf h))))

end Sys2Proof.Machine
end

section
/-!
PROOFS. Memories in canonical form: the host and the service life keep it.
-/
namespace Sys2Proof.Machine
set_option Elab.async false

/-! ### The host -/

theorem modQueue_wf {s : State} {k : Nat} {f : HostQueue → HostQueue} (h : MemWf s) : MemWf (State.modQueue s k f) :=
  h.outside

theorem queueEvent_wf {s : State} {k code idx : Nat} (h : MemWf s) : MemWf (queueEvent s k code idx) := modQueue_wf h

theorem stopQueue_wf {s : State} {k code idx : Nat} (h : MemWf s) : MemWf (stopQueue s k code idx) :=
  raiseEvent_wf (modQueue_wf (queueEvent_wf h))

theorem letGo_wf {s : State} {k : Nat} (h : MemWf s) : MemWf (letGo s k) := by
  unfold letGo
  dsimp only
  split
  · exact h
  · exact modQueue_wf (.ite h.outside h)

theorem resumeQueue_wf {s : State} {k : Nat} {skip : Bool} (h : MemWf s) : MemWf (resumeQueue s k skip) := by
  unfold resumeQueue
  exact modQueue_wf (.ite (modQueue_wf (letGo_wf h)) h)

theorem queueInterrupt_wf {s : State} {k : Nat} (h : MemWf s) : MemWf (queueInterrupt s k) := .ite (sendMsix_wf h) h

theorem setLevel_wf {s : State} {fn level : Nat} (h : MemWf s) : MemWf (setLevel s fn level) := h.outside

theorem writeQmap_wf {s : State} {k n : Nat} (h : MemWf s) : MemWf (writeQmap s k n) := .ite h.outside h

theorem boxWrite_wf {s : State} {die off : Nat} {v : Word} (h : MemWf s) : MemWf (boxWrite s die off v) := by
  unfold boxWrite
  refine .ite (.ite h (modDie_wf h)) (.ite (setLevel_wf h) ?_)
  split
  · exact .ite (modDie_wf h) h
  · exact .ite h (modDie_wf h)
  · exact .ite (modDie_wf h) h
  · exact resumeActions_wf (modDie_wf h)
  · exact resumeActions_wf (modDie_wf h)
  · exact h

theorem serviceWrite_wf {s : State} {off : Nat} {v : Word} (h : MemWf s) : MemWf (serviceWrite s off v) := by
  unfold serviceWrite
  refine .ite (.ite (modDie_wf h) h) (.ite (modFunction_wf h) ?_)
  dsimp only
  split
  · exact .ite h.outside h
  · exact .ite h.outside h
  · exact h.outside
  · exact h.outside
  · exact h.outside
  · exact .ite h.outside h
  · exact h

theorem queueWrite_wf {s : State} {k off : Nat} {w : RegWrite} (h : MemWf s) : MemWf (queueWrite s k off w) := by
  unfold queueWrite
  dsimp only
  split
  · exact .ite h (modQueue_wf h)
  · exact .ite h (modQueue_wf h)
  · exact modQueue_wf h
  · exact modQueue_wf h
  · exact h

theorem functionWrite_wf {s : State} {fn off : Nat} {w : RegWrite} (h : MemWf s) :
    MemWf (functionWrite s fn off w) := by
  unfold functionWrite
  dsimp only
  split
  · exact modFunction_wf h
  · exact modFunction_wf h
  · exact .ite (modFunction_wf h) h
  · exact .ite (modFunction_wf h) h
  · exact modFunction_wf h
  · exact h

theorem barWrite_wf {s : State} {fn off : Nat} {w : RegWrite} (h : MemWf s) : MemWf (barWrite s fn off w) :=
  .ite (queueWrite_wf h) (.ite (functionWrite_wf h) (.ite h (.ite (boxWrite_wf h) (.ite (.ite (setLevel_wf
      (modFunction_wf h)) (.ite (modFunction_wf h) h)) (.ite (writeQmap_wf h) (.ite h.outside (.ite
      (serviceWrite_wf h) h)))))))

theorem selWrite_wf {s : State} (h : MemWf s) : MemWf (selWrite s).2.1 := by
  unfold selWrite
  dsimp only
  split
  · exact barWrite_wf h
  · exact h

theorem execHostRegisterWrite_wf {s : State} (h : MemWf s) : NextWf (execHostRegisterWrite s) :=
  .of_next (.ite (selWrite_wf h) h)

theorem execNotify_wf {s : State} (h : MemWf s) : NextWf (execNotify s) := by
  unfold execNotify
  dsimp only
  refine nextIte_wf (.of_next h) ?_
  refine nextIte_wf (.of_next h) ?_
  exact nextIte_wf (.of_next (modQueue_wf h)) (.of_next (stopQueue_wf h))

theorem execQueueEnable_wf {s : State} (h : MemWf s) : NextWf (execQueueEnable s) :=
  .of_next (.ite (modQueue_wf (letGo_wf (selWrite_wf h))) h)

theorem execQueueDisable_wf {s : State} (h : MemWf s) : NextWf (execQueueDisable s) :=
  .of_next (.ite (.ite (resumeQueue_wf (selWrite_wf h)) (selWrite_wf h)) h)

theorem execQueueResume_wf {s : State} (h : MemWf s) : NextWf (execQueueResume s) :=
  .of_next (.ite (resumeQueue_wf (selWrite_wf h)) h)

theorem execQueueResumeSkip_wf {s : State} (h : MemWf s) : NextWf (execQueueResumeSkip s) :=
  .of_next (.ite (resumeQueue_wf (selWrite_wf h)) h)

theorem execHostWindowAccess_wf {s : State} (h : MemWf s) : NextWf (execHostWindowAccess s) := by
  unfold execHostWindowAccess
  dsimp only
  split
  · exact .of_next h
  · refine .of_next (h.newWin (List.foldlRecOn (motive := fun m => Memory.wf m = true) _ _ h.win fun _ hm _ _ => ?_))
    split
    · exact writeByte_wf hm _ _
    · exact hm

theorem execHostApertureAccess_wf {s : State} (h : MemWf s) : NextWf (execHostApertureAccess s) := by
  unfold execHostApertureAccess
  refine nextIte_wf (.of_next h) ?_
  split
  · exact .of_next (modFunction_wf h)
  · next a _ _ => exact nextIte_wf (.of_next h) (.of_next (foldl_wf h fun _ _ hu => writePa_wf hu))

theorem tookTurn_wf {s : State} {k : Nat} (h : MemWf s) : MemWf (tookTurn s k) := h.outside

theorem takePacket_wf {s : State} {k type : Nat} (h : MemWf s) : MemWf (takePacket s k type).1 := by
  unfold takePacket
  dsimp only
  split
  · dsimp only
    exact h
  · split
    · dsimp only
      exact stopQueue_wf (tookTurn_wf h)
    · split
      · dsimp only
        exact stopQueue_wf (tookTurn_wf h)
      · split
        · dsimp only
          exact tookTurn_wf h
        · dsimp only
          exact h

theorem finishPacket_wf {s : State} {k p : Nat} (h : MemWf s) : MemWf (finishPacket s k p) := by
  unfold finishPacket
  dsimp only
  split
  · exact stopQueue_wf h
  · next he => exact modQueue_wf (drainHost_wf ((directWrite_wf h).ok _ he))

theorem judgePacket_wf {s : State} {k key p : Nat} (h : MemWf s) : MemWf (judgePacket s k key p) :=
  .ite (judgeLaunch_wf h) (finishPacket_wf (modQueue_wf (judgeLaunch_wf h)))

theorem takeLaunch_wf {s : State} {k p : Nat} (h : MemWf s) : MemWf (takeLaunch s k p) :=
  .ite (finishPacket_wf (queueEvent_wf h)) (judgePacket_wf (modQueue_wf (enqueueLaunch_wf h)))

theorem execPacketLaunch_wf {s : State} (h : MemWf s) : NextWf (execPacketLaunch s) := by
  unfold execPacketLaunch
  refine nextIte_wf (.of_next (.ite (judgeLaunch_wf h) h)) ?_
  dsimp only
  split
  · next he => exact .of_next (of_fst (takePacket_wf h) he)
  · rename_i he
    split
    · exact .of_next (judgePacket_wf (of_fst (takePacket_wf h) he))
    · exact .of_next (takeLaunch_wf (of_fst (takePacket_wf h) he))

theorem execPacketWaitsig_wf {s : State} (h : MemWf s) : NextWf (execPacketWaitsig s) := by
  unfold execPacketWaitsig
  dsimp only
  split
  · next he => exact .of_next (of_fst (takePacket_wf h) he)
  · rename_i he
    refine nextIte_wf (.of_next (stopQueue_wf (of_fst (takePacket_wf h) he))) ?_
    split
    · exact .of_next (stopQueue_wf (of_fst (takePacket_wf h) he))
    · refine nextIte_wf (.of_next (stopQueue_wf (of_fst (takePacket_wf h) he))) ?_
      exact nextIte_wf (.of_next (finishPacket_wf (of_fst (takePacket_wf h) he))) (.of_next (of_fst
          (takePacket_wf h) he))

theorem execPacketSignal_wf {s : State} (h : MemWf s) : NextWf (execPacketSignal s) := by
  unfold execPacketSignal
  dsimp only
  split
  · next he => exact .of_next (of_fst (takePacket_wf h) he)
  · rename_i he
    refine nextIte_wf (.of_next (of_fst (takePacket_wf h) he)) ?_
    split
    · exact .of_next (stopQueue_wf (of_fst (takePacket_wf h) he))
    · exact .of_next (finishPacket_wf (drainHost_wf (homeWrite_wf (drainHost_wf (of_fst (takePacket_wf h) he)))))

theorem hostStore_wf {s : State} {fn : Nat} {va : Word} {bs : List Byte} (h : MemWf s) : SomeWf id
    (hostStore s fn va bs) := by
  unfold hostStore
  generalize bs.zipIdx = l
  induction l generalizing s with
  | nil => exact .of_some h
  | cons b l ih =>
    rw [List.foldlM_cons]
    refine .bind fun _ hu => ih ?_
    obtain ⟨p, -, rfl⟩ := Option.map_eq_some_iff.mp hu
    exact homeWrite_wf h

theorem hostMove_wf {s : State} {fn : Nat} {c : HostCopy} {o m : Nat} (h : MemWf s) : SomeWf Prod.fst
    (hostMove s fn c o m) :=
  .bind fun _ _ => .bind fun _ hu => .of_some ((hostStore_wf h).found _ hu)

theorem hostMost_wf {f : Nat → Option (State × Bool)} {n : Nat} (hf : ∀ k, SomeWf Prod.fst (f k)) :
    SomeWf Prod.fst (hostMost f n) := by
  induction n with
  | zero => exact .of_none
  | succ n ih =>
    unfold hostMost
    split
    · rename_i he
      have hs := (hf _).found _ he
      exact .of_some hs
    · exact ih

theorem hostChunk_wf {s : State} {k n : Nat} {c : HostCopy} (h : MemWf s) : MemWf (hostChunk s k n c) := by
  unfold hostChunk
  dsimp only
  split
  · exact modQueue_wf h
  · rename_i he
    exact modQueue_wf ((hostMost_wf fun _ => hostMove_wf h).found _ he)

theorem hostChunks_wf {k n m : Nat} {s : State} (h : MemWf s) : MemWf (hostChunks k n m s) := by
  induction m generalizing s with
  | zero => exact h
  | succ m ih =>
    unfold hostChunks
    split
    · exact h
    · split
      · exact h
      · exact ih (hostChunk_wf h)

theorem takeCopy_wf {s : State} {k p : Nat} (h : MemWf s) : MemWf (takeCopy s k p) :=
  .ite (finishPacket_wf (queueEvent_wf h)) (finishPacket_wf (modQueue_wf h))

theorem execPacketCopy_wf {s : State} (h : MemWf s) : NextWf (execPacketCopy s) := by
  unfold execPacketCopy
  refine nextIte_wf (.of_next (hostChunks_wf h)) ?_
  split
  · next he => exact .of_next (of_fst (takePacket_wf h) he)
  · next he => exact .of_next (takeCopy_wf (of_fst (takePacket_wf h) he))

theorem completeWork_wf {s : State} {k n : Nat} {done : Word} {status : Nat} (h : MemWf s) :
    MemWf (completeWork s k n done status) := by
  have hw : MemWf (if done = 0 then (drainHost s (k / 16), true) else
      putWord (drainHost s (k / 16)) (k / 16) done (doneStep status)).1 := by
    split
    · exact drainHost_wf h
    · exact putWord_wf (drainHost_wf h)
  unfold completeWork
  exact queueInterrupt_wf (queueEvent_wf (.ite (drainHost_wf hw) (raiseEvent_wf hw)))

theorem execPacketCompletion_wf {s : State} (h : MemWf s) : NextWf (execPacketCompletion s) := by
  unfold execPacketCompletion
  dsimp only
  split
  · split
    · exact .of_next (completeWork_wf (modQueue_wf h.outside))
    · exact .of_next h
    · exact .of_next h
  · split
    · exact .of_next h
    · split
      · exact .of_next (hostChunks_wf h)
      · exact .of_next (completeWork_wf (modQueue_wf (hostChunks_wf h)))

theorem endLaunch_wf {s : State} {key : Nat} (h : MemWf s) : MemWf (endLaunch s key) := h.filter

theorem slogNow_wf {s : State} {die launch kind lcore pcore arg : Nat} (h : MemWf s) :
    MemWf (slogNow s die launch kind lcore pcore arg) :=
  .ite (slog_wf h) (raiseEvent_wf h)

theorem logReset_wf {s : State} {key status : Nat} (h : MemWf s) : MemWf (logReset s key status) :=
  slogNow_wf (foldl_wf h fun _ _ hu => slogNow_wf hu)

theorem completeLaunch_wf {s : State} {key status : Nat} (h : MemWf s) : MemWf (completeLaunch s key status) := by
  unfold completeLaunch
  dsimp only
  split
  · exact completeWork_wf h.outside
  · exact signalDone_wf h.outside

theorem killLaunch_wf {s : State} {key : Nat} (h : MemWf s) : MemWf (killLaunch s key) := by
  unfold killLaunch
  split
  · exact completeLaunch_wf h
  · exact completeLaunch_wf (endLaunch_wf (logReset_wf h))
  · exact completeLaunch_wf (endLaunch_wf (logReset_wf h))

theorem resetQueues_wf {s : State} {fn : Nat} (h : MemWf s) : MemWf (resetQueues s fn) := h.outside

theorem resetPrivileged_wf {s : State} (h : MemWf s) : MemWf (resetPrivileged s) := h.outside

theorem execFunctionReset_wf {s : State} (h : MemWf s) : NextWf (execFunctionReset s) := by
  unfold execFunctionReset
  dsimp only
  exact .of_next (raiseEvent_wf (.ite (resetPrivileged_wf (modFunction_wf (resetQueues_wf (foldl_wf h fun _ _ hu =>
      killLaunch_wf hu)))) (modFunction_wf (resetQueues_wf (foldl_wf h fun _ _ hu => killLaunch_wf hu)))))

theorem execPtmDialog_wf {s : State} (h : MemWf s) : NextWf (execPtmDialog s) := by
  unfold execPtmDialog
  dsimp only
  exact nextIte_wf (.of_next (modFunction_wf h)) (.of_next h)

/-! ### The service life -/

theorem suspectPage_wf {s : State} {fn pa : Nat} (h : MemWf s) : MemWf (suspectPage s fn pa) := by
  unfold suspectPage
  extract_lets v n s1
  have hs : MemWf s1 := .ite (writePa_wf h) h
  exact hs.outside

theorem loseWindow_wf {s : State} {cause mask : Nat} (h : MemWf s) : MemWf (loseWindow s cause mask) :=
  .ite (h.newWin (filter_wf h.win _)) h

theorem beginReset_wf {s : State} {cause mask : Nat} (h : MemWf s) : MemWf (beginReset s cause mask) := by
  unfold beginReset
  refine loseWindow_wf (h.map fun _ he => ?_)
  dsimp only
  split
  · exact he.outside
  · exact he

theorem extendReset_wf {s : State} {cause mask : Nat} (h : MemWf s) : MemWf (extendReset s cause mask) :=
  loseWindow_wf h.outside

theorem endTouched_wf {s : State} {key : Nat} (h : MemWf s) : MemWf (endTouched s key) :=
  finishLaunch_wf (endLaunch_wf (logReset_wf (foldl_wf h fun _ _ hu => suspectPage_wf hu)))

theorem activateBank_wf {s : State} (h : MemWf s) : MemWf (activateBank s) := .ite h.outside h

theorem finishReset_wf {s : State} (h : MemWf s) : MemWf (finishReset s) := by
  unfold finishReset
  refine activateBank_wf (MemWf.map (drainHost_wf (foldl_wf h fun _ _ hu => endTouched_wf hu)) fun _ he => ?_)
  split
  · exact he.outside
  · exact he

theorem execResetcmd_wf {s : State} (h : MemWf s) : NextWf (execResetcmd s) := by
  unfold execResetcmd
  split
  · exact .of_next (.ite (beginReset_wf h) h)

theorem execWarmReset_wf {s : State} (h : MemWf s) : NextWf (execWarmReset s) := by
  unfold execWarmReset
  dsimp only
  refine nextIte_wf (.of_next (.ite (extendReset_wf h) (beginReset_wf h))) ?_
  exact nextIte_wf (.of_next (finishReset_wf h)) (.of_next h)

theorem powerCycle_wf {s : State} (h : MemWf s) : MemWf (powerCycle s) := by
  refine ⟨filter_wf (List.foldlRecOn (motive := fun m => Memory.wf m = true) _ _ h.mem fun _ hm e _ => ?_) _, rfl, ?_⟩
  · exact writeByte_wf hm _ _
  · exact fun _ he => absurd he List.not_mem_nil

theorem execPowerOn_wf {s : State} (h : MemWf s) : NextWf (execPowerOn s) := by
  unfold execPowerOn
  dsimp only
  refine nextIte_wf (.of_next (powerCycle_wf (activateBank_wf h))) ?_
  exact nextIte_wf (.of_next ((powerCycle_wf (activateBank_wf h)).outside)) (.of_next ((powerCycle_wf
      (activateBank_wf h)).outside))

theorem execFwStage_wf {s : State} (h : MemWf s) : NextWf (execFwStage s) := by
  unfold execFwStage
  dsimp only
  exact .of_next (.ite h.outside h)

theorem execFwStageComplete_wf {s : State} (h : MemWf s) : NextWf (execFwStageComplete s) := by
  unfold execFwStageComplete
  dsimp only
  split
  · exact .of_next h
  · refine nextIte_wf (.of_next h.outside) ?_
    refine nextIte_wf (.of_next h.outside) ?_
    exact nextIte_wf (.of_next h.outside) (.of_next h.outside)

theorem execFwActivate_wf {s : State} (h : MemWf s) : NextWf (execFwActivate s) := by
  unfold execFwActivate
  dsimp only
  exact .of_next (.ite h.outside h)

theorem execSpdmRequest_wf {s : State} (h : MemWf s) : NextWf (execSpdmRequest s) :=
  nextIte_wf (.of_next h) (.of_next h.outside)

theorem newForecasts_wf {s : State} {offs : List Nat} (h : MemWf s) : MemWf (newForecasts s offs) := h.outside

theorem execMarginTest_wf {s : State} (h : MemWf s) : NextWf (execMarginTest s) := by
  unfold execMarginTest
  dsimp only
  split
  · exact .of_next h
  · split
    · refine .of_next (h.map fun _ he => ?_)
      split
      · exact he.outside
      · exact he
    · exact .of_next (.ite (modDie_wf (modDie_wf (newForecasts_wf h))) (modDie_wf (newForecasts_wf h)))

theorem putEntry_wf {s : State} {pa e : Nat} (h : MemWf s) : MemWf (putEntry s pa e) :=
  h.newMem (writeBytes_wf h.mem _ _)

theorem dropAllTlb_wf {s : State} (h : MemWf s) : MemWf (dropAllTlb s) := h.outside

theorem movePage_wf {s : State} {src dst n : Nat} (h : MemWf s) : MemWf (movePage s src dst n) :=
  h.newMem (writeBytes_wf h.mem _ _)

theorem migratePage_wf {s : State} {src dst : Nat} (h : MemWf s) : MemWf (migratePage s src dst) :=
  .ite h (dropAllTlb_wf (foldl_wf (movePage_wf h) fun _ _ hu => putEntry_wf hu))

theorem abandonPage_wf {s : State} {src : Nat} (h : MemWf s) : MemWf (abandonPage s src) :=
  .ite h (dropAllTlb_wf (foldl_wf (foldl_wf h fun _ _ hu => putEntry_wf hu) fun _ _ hu => foldl_wf hu fun _ _ hu =>
      suspectPage_wf hu))

theorem execChannelSubstitution_wf {s : State} (h : MemWf s) : NextWf (execChannelSubstitution s) := by
  unfold execChannelSubstitution
  dsimp only
  split
  · exact .of_next h
  · split
    · refine .of_next ?_
      split
      · exact h
      · split
        · exact abandonPage_wf h
        · exact migratePage_wf h
    · split
      · exact .of_next h.outside
      · split
        · exact .of_next h.outside
        · exact .of_next h.outside

theorem execPatrolScrub_wf {s : State} (h : MemWf s) : NextWf (execPatrolScrub s) := by
  unfold execPatrolScrub
  dsimp only
  split
  · exact .of_next h.outside
  · exact .of_next h.outside
  · exact .of_next ((strikePa_wf h).outside)

theorem execClockThrottle_wf {s : State} (h : MemWf s) : NextWf (execClockThrottle s) := .of_next h.outside

theorem execArithmeticClockRaise_wf {s : State} (h : MemWf s) : NextWf (execArithmeticClockRaise s) :=
  .of_next h.outside

end Sys2Proof.Machine
end

section
/-!
PROOFS. Memories in canonical form: the heritage routine, every instruction and every step keep it.
-/
namespace Sys2Proof.Machine
set_option Elab.async false

/-! ### The heritage routine -/

theorem stageTile_wf {s : State} {t q : Nat} {f : EC} (h : MemWf s) : MemWf (stageTile s t q f) := by
  have hx := h.task t
  unfold stageTile
  extract_lets a b c x
  split
  · exact headWait_wf h
  · refine onHead_wf (modTask_of h ⟨hx.spad, ?_⟩)
    dsimp only
    exact writeBytes_wf (writeBytes_wf (writeBytes_wf hx.heritage _ _) _ _) _ _

theorem setSlots_wf {s : State} {t a b : Nat} {f g : Slot → Slot} (h : MemWf s) : MemWf (setSlots s t a b f g) :=
  modTask_wf h

theorem stepColumn_wf {s : State} {t q : Nat} {e : Entry} {a b c k sub : Nat} (h : MemWf s) :
    MemWf (stepColumn s t q e a b c k sub) := by
  unfold stepColumn
  extract_lets x s1
  have hs : MemWf s1 := onHead_wf h
  have hx := hs.task t
  split
  · exact setSlots_wf (modTask_wf hs)
  · exact setSlots_wf hs
  · exact setSlots_wf hs
  · exact onHead_wf (runTile_wf hs)
  · refine onHead_wf (modTask_of hs ⟨hx.spad, ?_⟩)
    dsimp only
    exact writeBytes_wf hx.heritage _ _
  · refine onHead_wf (modTask_of hs ⟨hx.spad, ?_⟩)
    dsimp only
    exact writeBytes_wf hx.heritage _ _

theorem stepTile_wf {s : State} {t q : Nat} {e : Entry} {f : EC} (h : MemWf s) : MemWf (stepTile s t q e f) :=
  .ite (stepColumn_wf h) (noteErr_wf (onHead_wf (setSlots_wf (modTask_of h (raiseFlags_wf (Task.setBank_wf
      (h.task _)))))))

theorem routineWork_wf {s : State} {t q : Nat} {e : Entry} (h : MemWf s) : MemWf (routineWork s t q e) := by
  unfold routineWork
  split
  · exact .ite (stageTile_wf h) (startMtile_wf h)
  · exact startMspgo_wf h
  · exact startMgo_wf h
  · exact h

theorem routineGoOn_wf {s : State} {t q : Nat} {e : Entry} (h : MemWf s) : MemWf (routineGoOn s t q e) := by
  unfold routineGoOn
  split
  · exact .ite (stepTile_wf h) h
  · exact mspgoGoOn_wf h
  · split
    · exact mgoTile_wf h
    · exact mgoDrain_wf h
  · exact h

theorem routineReturn_wf {s : State} {t k : Nat} {e : Entry} (h : MemWf s) : MemWf (routineReturn s t k e) := by
  unfold routineReturn
  refine stepStop_wf (guardAgree_wf (leaveWords_wf (modStrand_wf (modTask_of (modStrand_wf h) ?_))))
  dsimp only
  split
  · dsimp only
    exact (modStrand_wf h).task _
  · split
    · dsimp only
      exact Task.setLoop_wf ((modStrand_wf h).task _)
    · exact loopBack_wf (Task.setLoop_wf ((modStrand_wf h).task _))

theorem queueHeld_wf {s : State} {t : Nat} {e : Entry} (h : MemWf s) : MemWf (queueHeld s t e) := modTask_wf h

theorem routineEnd_wf {s : State} {t k : Nat} {e : Entry} {err : Bool} (h : MemWf s) :
    MemWf (routineEnd s t k e err) := by
  unfold routineEnd
  dsimp only
  split
  · exact routineReturn_wf (queueHeld_wf (endUses_wf h))
  · exact routineReturn_wf (signalLocal_wf (endWork_wf h))

theorem routineRun_wf {s : State} {t k : Nat} {e : Entry} (h : MemWf s) : MemWf (routineRun s t k e) := by
  unfold routineRun
  refine .ite (routineEnd_wf h) (.ite (routineGoOn_wf h) ?_)
  split
  · exact headWait_wf h
  · split
    · next he1 => exact of_fst (takeWt_wf h) he1
    · next he1 => exact routineEnd_wf (of_fst (takeWt_wf h) he1)
    · rename_i he1
      split
      · exact headWait_wf (of_fst (takeWt_wf h) he1)
      · exact .ite (routineWork_wf (of_fst (takeWt_wf h) he1)) (onHead_wf (of_fst (takeWt_wf h) he1))

theorem routineStep_wf {s : State} (h : MemWf s) : MemWf (routineStep s) := by
  unfold routineStep
  refine .ite h ?_
  dsimp only
  split
  · exact h
  · split
    · exact setWait_wf (routineRun_wf (onHead_wf (guardAgree_wf (takeTurn_wf h))))
    · exact routineRun_wf (onHead_wf (guardAgree_wf (takeTurn_wf h)))

/-! ### Every instruction, every step -/

theorem exec_wf {i : Instr} {s : State} (h : MemWf s) : NextWf (exec i s) := by
  cases i with
  | add | sub | and | or | xor | andn | sll | srl | sra | ror | min | max | minu | maxu | addsc1 | addsc2
  | addsc3 | addsc4 | mul | mulh | mulhu | div | divu | rem | remu => exact strandStep_wf aluBody_keeps h
  | clz | ctz | popc | sextB | sextH | sextW | zextB | zextH | zextW | addi | andi | ori | xori | slli | srli
  | srai | addil => exact strandStep_wf unaryBody_keeps h
  | cmpEq | cmpNe | cmpLt | cmpGe | cmpLtu | cmpGeu => exact strandStep_wf cmpBody_keeps h
  | cmpiEq | cmpiNe | cmpiLt | cmpiLtu => exact strandStep_wf cmpiBody_keeps h
  | pand | por | pxor | pandn => exact strandStep_wf plogBody_keeps h
  | ldb | ldh | ldw | ldd | ldbu | ldhu | ldwu => exact strandStep_wf loadSM_keeps h
  | lds => exact strandStep_wf ldsBody_keeps h
  | stb | sth | stw | std => exact strandStep_wf storeSM_keeps h
  | amoAdd | amoAnd | amoOr | amoXor | amoMin | amoMax | amoMinu | amoMaxu | amoSwap | amoFadd32 | amoFmin32
  | amoFmax32 => exact strandStep_wf amoBody_keeps h
  | redAdd | redAnd | redOr | redXor | redMin | redMax | redMinu | redMaxu | redSwap | redFadd32 | redFmin32
  | redFmax32 => exact strandStep_wf redBody_keeps h
  | csrr | csrw | csrs | csrc => exact strandStep_wf csrBody_keeps h
  | trap | brk => exact strandStep_wf trapM_keeps h
  | vadd | vsub | vmul | vfma | vfms | vmin | vmax | vabs | vneg | vscale | vdot4 | vtacc | vand | vor | vxor
  | vsll | vsrl | vsra | vcmpEq | vcmpNe | vcmpLt | vcmpLe | vcmpGt | vcmpGe | vcmpUnord | vsel | vcvt | vrcp
  | vrsq | vsqrt | vexp2 | vlog2 | vredSum | vredMax | vredMin | vredSumx | vperm | vrot | vxl | vbcast | vscan
  | vpack | vexpand | vsparse | vunpk3 | vqb | vdqb | vmov | vmvs | vmvg | mlogAnd | mlogOr | mlogXor
  | mlogAndn | mpopc | mfirst | vnset | vbcastl | vsweep => exact strandStep_wf pushV3_keeps h
  | vld | vst | vlds | vsts | vgath | vscat => exact strandStep_wf pushVM_keeps h
  | mclaim | mrel | mstat | mgo | mtile | mzero | mdrain | mldacc | mspgo => exact strandStep_wf pushMatrix_keeps h
  | cpy | cpy2d | cpyslot | cpyslotClaim | cpyslotOut | fill | flush | grow | gbag | gscat
    => exact strandStep_wf pushCopy_keeps h
  | xstep | xsend | xrecv | xred => exact strandStep_wf pushCollective_keeps h
  | amorAdd | amorAnd | amorOr | amorXor | amorMin | amorMax | amorMinu | amorMaxu | amorSwap | amorFadd32
  | amorFmin32 | amorFmax32 => exact strandStep_wf amorBody_keeps h
  | tinvAll => exact strandStep_wf tinvBody_keeps h
  | tret => exact execTret_wf h
  | sel => exact execSel_wf h
  | b => exact execB_wf h
  | bl => exact execBl_wf h
  | jalr => exact execJalr_wf h
  | loops => exact execLoops_wf h
  | chk => exact execChk_wf h
  | sfork => exact execSfork_wf h
  | cas => exact execCas_wf h
  | ldfe => exact execLdfe_wf h
  | ldff => exact execLdff_wf h
  | stef => exact execStef_wf h
  | stfl => exact execStfl_wf h
  | sete => exact execSete_wf h
  | setf => exact execSetf_wf h
  | feq => exact execFeq_wf h
  | fence => exact execFence_wf h
  | bar => exact execBar_wf h
  | bara => exact execBara_wf h
  | barw => exact execBarw_wf h
  | swait => exact execSwait_wf h
  | ssig => exact execSsig_wf h
  | ssigRemote => exact execSsigRemote_wf h
  | srd => exact execSrd_wf h
  | srdc => exact execSrdc_wf h
  | sset => exact execSset_wf h
  | pop => exact execPop_wf h
  | launch => exact execLaunch_wf h
  | tinvPage => exact execTinvPage_wf h
  | tinvFunction => exact execTinvFunction_wf h
  | logm => exact execLogm_wf h
  | monset => exact execMonset_wf h
  | monref => exact execMonref_wf h
  | monrd => exact execMonrd_wf h
  | monclr => exact execMonclr_wf h
  | vshape => exact execVshape_wf h
  | ftld => exact execFtld_wf h
  | popv => exact execPopv_wf h
  | vnx => exact execVnx_wf h
  | amox => exact execAmox_wf h
  | li => exact execLi_wf h
  | lih => exact execLih_wf h
  | lddl => exact execLddl_wf h
  | stdl => exact execStdl_wf h
  | mcfg => exact execMcfg_wf h
  | encodingNotInstruction => exact execEncodingNotInstruction_wf h
  | nop => exact execNop_wf h
  | yield => exact execYield_wf h
  | sexit => exact execSexit_wf h
  | idle => exact execIdle_wf h
  | drain => exact execDrain_wf h
  | waitUntilMet => exact execWaitUntilMet_wf h
  | idleTimeout => exact execIdleTimeout_wf h
  | veExecute => exact execVeExecute_wf h
  | vectorMemoryComplete => exact execVectorMemoryComplete_wf h
  | matrixCommandStart => exact execMatrixCommandStart_wf h
  | mgoAction => exact execMgoAction_wf h
  | matrixCommandComplete => exact execMatrixCommandComplete_wf h
  | copyGatherCommandStart => exact execCopyGatherCommandStart_wf h
  | gatherUnit => exact execGatherUnit_wf h
  | copyGatherCommandComplete => exact execCopyGatherCommandComplete_wf h
  | xeCommandStart => exact execXeCommandStart_wf h
  | xeTransmissionStart => exact execXeTransmissionStart_wf h
  | xeCommandComplete => exact execXeCommandComplete_wf h
  | requestRead => exact execRequestRead_wf h
  | requestWrite => exact execRequestWrite_wf h
  | requestAtomic => exact execRequestAtomic_wf h
  | amorContribution => exact execAmorContribution_wf h
  | semaphoreSignal => exact execSemaphoreSignal_wf h
  | fullEmptyRequest => exact execFullEmptyRequest_wf h
  | forwardedRequest => exact execForwardedRequest_wf h
  | dataResponse => exact execDataResponse_wf h
  | acknowledgement => exact execAcknowledgement_wf h
  | redirect => exact execRedirect_wf h
  | faultStatus => exact execFaultStatus_wf h
  | collectiveData => exact execCollectiveData_wf h
  | flitHop => exact execFlitHop_wf h
  | translationWalk => exact execTranslationWalk_wf h
  | packetLaunch => exact execPacketLaunch_wf h
  | placement => exact execPlacement_wf h
  | ageing => exact execAgeing_wf h
  | quantumExpiry => exact execQuantumExpiry_wf h
  | blockedTimeout => exact execBlockedTimeout_wf h
  | preEmption => exact execPreEmption_wf h
  | switchIn => exact execSwitchIn_wf h
  | taskEnd => exact execTaskEnd_wf h
  | teamBarrierCompletion => exact execTeamBarrierCompletion_wf h
  | phaseClose => exact execPhaseClose_wf h
  | launchCompletion => exact execLaunchCompletion_wf h
  | hang => exact execHang_wf h
  | parkResume => exact execParkResume_wf h
  | parkKill => exact execParkKill_wf h
  | forcedSyncPoint => exact execForcedSyncPoint_wf h
  | notify => exact execNotify_wf h
  | packetWaitsig => exact execPacketWaitsig_wf h
  | packetSignal => exact execPacketSignal_wf h
  | packetCopy => exact execPacketCopy_wf h
  | packetCompletion => exact execPacketCompletion_wf h
  | queueEnable => exact execQueueEnable_wf h
  | queueDisable => exact execQueueDisable_wf h
  | queueResume => exact execQueueResume_wf h
  | queueResumeSkip => exact execQueueResumeSkip_wf h
  | hostWindowAccess => exact execHostWindowAccess_wf h
  | hostApertureAccess => exact execHostApertureAccess_wf h
  | hostRegisterWrite => exact execHostRegisterWrite_wf h
  | functionReset => exact execFunctionReset_wf h
  | resetcmd => exact execResetcmd_wf h
  | warmReset => exact execWarmReset_wf h
  | powerOn => exact execPowerOn_wf h
  | fwStage => exact execFwStage_wf h
  | fwStageComplete => exact execFwStageComplete_wf h
  | fwActivate => exact execFwActivate_wf h
  | ptmDialog => exact execPtmDialog_wf h
  | spdmRequest => exact execSpdmRequest_wf h
  | marginTest => exact execMarginTest_wf h
  | channelSubstitution => exact execChannelSubstitution_wf h
  | clockThrottle => exact execClockThrottle_wf h
  | hostLinkCompletion => exact execHostLinkCompletion_wf h
  | debugPathWrite => exact execDebugPathWrite_wf h
  | patrolScrub => exact execPatrolScrub_wf h
  | arithmeticClockRaise => exact execArithmeticClockRaise_wf h

theorem issue_wf {s : State} (h : MemWf s) : NextWf (issue s) := by
  unfold issue
  split
  · exact .of_next h
  · split
    · exact .of_next (takeStruck_wf h)
    · split
      · exact .of_next (routineStep_wf h)
      · split
        · exact exec_wf h
        · exact exec_wf h
        · exact .of_next (fetchStopped_wf h)

theorem act_wf {p : Pick} {s : State} (h : MemWf s) : NextWf (act p s) := by
  cases p with
  | issue sel => exact issue_wf (s := { s with sel := sel }) h.outside
  | event i sel =>
    unfold act
    dsimp only
    split
    · exact .of_next h
    · split
      · exact .of_next h
      · exact exec_wf (s := { s with sel := sel }) h.outside
  | tick ns =>
    unfold act
    dsimp only
    split
    · rename_i t _
      exact execXeTransmissionStart_wf (s := { s with sel := { task := t, queue := 8 } }) h.outside
    · exact .of_next h.outside
  | evict die core place => exact .of_next (evictTlb_wf h)
  | hostStore addr b => exact .of_next (hostStoreByte_wf h)
  | bitError addr => exact .of_next (strikePa_wf h)
  | spadError t addr => exact .of_next (strikeSpad_wf h)
  | regError t reg => exact .of_next (strikeReg_wf h)
  | guardError t reg => exact .of_next (strikeGuard_wf h)
  | lvqError t place => exact .of_next (strikeLvq_wf h)
  | guardRun t k => exact .of_next (runGuard_wf h)
  | parityError t q => exact .of_next (parityFault_wf h)
  | watchpoint t k addr => exact .of_next (meetWatch_wf h)

theorem step_wf {s : State} (h : MemWf s) : NextWf (step s) := by
  unfold step
  split
  · rename_i p rest _
    exact act_wf (s := { s with agenda := rest }) h.outside
  · exact act_wf (s := { s with draw := s.draw + 1 }) h.outside

/-- Settles O60: every byte is stored through `writeByte`, and every other update of a memory keeps some of its entries;
so each part of a step keeps the form, and the step with them. -/
theorem stepKeepsMemories : Obligations.StepKeepsMemories := by
  unfold Obligations.StepKeepsMemories
  intro s t hm hs hstep
  exact memWf_iff.mp ((step_wf (memWf_iff.mpr ⟨hm, hs⟩)).next t hstep)

end Sys2Proof.Machine
end

section
/-!
PROOFS. Hops of messages: what moving, refusing and dropping a message leaves in the network (R107, R364 to R371).
-/
namespace Sys2Proof.Machine

/-! ### A message changed in the network -/

theorem Changed.modMsg {s : State} {id : Nat} {m : Msg} (h : SMap.find id s.net = some m) (f : Msg → Msg) :
    Changed s (modMsg s id f) id (some (f m)) where
  named := (SMap.find_upd_same _ _ _).trans (congrArg _ h)
  rest _ hj := SMap.find_upd_other hj _ _
  outside := rfl

/-- The place in the order of R124 is not part of what `Changed` keeps. -/
theorem Changed.entered {s t : State} {id : Nat} {m : Option Msg} (h : Changed s t id m) (n : Nat) :
    Changed s { t with entered := n } id m where
  named := h.named
  rest := h.rest
  outside := by rw [h.outside]

theorem Changed.trans {s t u : State} {id : Nat} {m n : Option Msg} (h : Changed s t id m) (h' : Changed t u id n) :
    Changed s u id n where
  named := h'.named
  rest j hj := (h'.rest j hj).trans (h.rest j hj)
  outside := by rw [h'.outside, h.outside]

/-! ### What a hop does -/

theorem leaveCrossbar_first {s : State} {id : Nat} {m : Msg}
    (hold : ∀ e ∈ s.net, e.2.xbar = true → sameStream e.2 m = true →
      ∀ i j, e.2.req.id? = some i → m.req.id? = some j → j ≤ i) :
    leaveCrossbar s id m =
      { modMsg s id (fun m => { m with xbar := false, entered := s.entered }) with entered := s.entered + 1 } := by
  simp only [leaveCrossbar]
  refine if_neg fun hany => ?_
  obtain ⟨e, he, hb⟩ := List.any_eq_true.mp hany
  simp only [Bool.and_eq_true] at hb
  obtain ⟨⟨hx, hs⟩, hlt⟩ := hb
  split at hlt
  · next i j hi hj => exact absurd (of_decide_eq_true hlt) (Nat.not_lt.mpr (hold e he hx hs i j hi hj))
  · cases hlt

/-- Nothing keeps the message back, so it makes its hop. -/
theorem goodHop_free {s : State} {id : Nat} {m : Msg} (hf : HopFree s id m (m.slot.getD (laneSlot s (hopOf s m)))) :
    goodHop s id m = takeHop s id m (hopOf s m) (m.slot.getD (laneSlot s (hopOf s m))) := by
  obtain ⟨hslot, hend⟩ := hf
  have hfree : ¬ ((m.slot.isNone && slotTaken s id m (hopOf s m) (m.slot.getD (laneSlot s (hopOf s m)))) = true) := by
    cases hs : m.slot with
    | none => simpa [hs] using hslot hs
    | some k => simp
  simp only [goodHop]
  rw [if_neg hfree]
  by_cases he : endsRing (podModules s) (hopOf s m) m.dstStation = true
  · obtain ⟨hp, hc⟩ := hend he
    rw [if_neg (by simp [hp])]
    by_cases h1 : m.chan ≤ 1
    · obtain ⟨hr, hn⟩ := hc h1
      rw [if_neg (by simp [hr, hn])]
    · rw [if_neg (by simp [h1])]
  · rw [if_neg (by simp [he]), if_neg (by simp [he])]

/-- The answer to an access that no merged request stands for is one response. -/
theorem sendAll_one {s : State} {a : Answer} (h : ∀ ids, a.req ≠ .list ids) : sendAll s [a] = sendAnswer s a := by
  have hone : expandAnswer s a = [a] := by
    cases hr : a.req with
    | list ids => exact absurd hr (h ids)
    | acc p i => simp [expandAnswer, hr]
    | entry k => simp [expandAnswer, hr]
  simp [sendAll, hone, sendAnswers]

/-- A response with the link's fault goes to the requester of a dropped request, and a lane of its hop is retired. -/
theorem linkFailure_answers {s : State} {id : Nat} {m : Msg} (hc : m.chan = 0) (hl : ∀ ids, m.req ≠ .list ids) :
    ∃ n, SMap.find s.nextMsg (linkFailure s id m).net = some n ∧ n.req = m.req ∧ n.dstStation = m.srcStation
      ∧ n.reply = some (.fault { cause := 39, tval := m.acc.va })
      ∧ (linkFailure s id m).service = (retireLane s (podModules s) m.at_ m.dstStation).service := by
  simp only [linkFailure, answer, sendAll_one (a := { req := m.req, station := _, acc := m.acc, reply := _ }) hl, hc]
  exact ⟨_, SMap.find_put_same _ _ _, rfl, by simp, rfl, rfl⟩

theorem refuseMsg_request {s : State} {id : Nat} {m : Msg} {station : Nat} (h : ∀ inc e, m.acc.op ≠ .signal inc e) :
    refuseMsg s id m station =
      { modMsg s id (fun m => { m with refusedAt := m.refusedAt ++ [(station, s.entered)] }) with
        entered := s.entered + 1 } := by
  unfold refuseMsg
  split
  · next inc e ho => exact absurd ho (h inc e)
  · rfl

/-- The message named is on a ring, with a hop before it. -/
structure HopsNext (s : State) (m : Msg) : Prop where
  found : SMap.find s.sel.msg s.net = some m
  chan : m.chan ≤ 2
  out : m.xbar = false
  moving : m.pendingFwd = false
  away : m.at_ ≠ m.dstStation

theorem execFlitHop_good {s : State} {m : Msg} (h : HopsNext s m) (hg : s.sel.hop = .good) :
    execFlitHop s = .next (goodHop s s.sel.msg m) := by
  simp [execFlitHop, h.found, Nat.not_lt.mpr h.chan, h.out, h.moving, h.away, hg]

theorem execFlitHop_bad {s : State} {m : Msg} (h : HopsNext s m) (hb : s.sel.hop = .crcBad) :
    execFlitHop s = .next (if m.fails < 15 then modMsg s s.sel.msg (fun m => { m with fails := m.fails + 1 })
      else linkFailure s s.sel.msg m) := by
  by_cases hf : m.fails < 15 <;>
    simp [execFlitHop, h.found, Nat.not_lt.mpr h.chan, h.out, h.moving, h.away, hb, hf]

/-- The station at the end of the ring refuses the message for the first time. -/
theorem execFlitHop_refused {s : State} {m : Msg} (h : HopsNext s m) (hr : s.sel.hop = .refuse) (hc : m.chan ≤ 1)
    (he : endsRing (podModules s) (hopOf s m) m.dstStation = true) (hn : refusal m (hopOf s m).next = none)
    (hp : pairAhead s m = false)
    (hs : m.slot = none → slotTaken s s.sel.msg m (hopOf s m) (m.slot.getD (laneSlot s (hopOf s m))) = false) :
    execFlitHop s = .next (refuseMsg
      (modMsg s s.sel.msg (fun x => { x with slot := some (m.slot.getD (laneSlot s (hopOf s m))) })) s.sel.msg m
      (hopOf s m).next) := by
  have hfree : (m.slot.isNone
      && slotTaken s s.sel.msg m (hopOf s m) (m.slot.getD (laneSlot s (hopOf s m)))) = false := by
    cases hm : m.slot with
    | none => simpa [hm] using hs hm
    | some k => simp
  simp [execFlitHop, h.found, Nat.not_lt.mpr h.chan, h.out, h.moving, h.away, hr, hfree, hc, he, hn, hp]

/-- Settles O41: each clause is one branch of `execFlitHop`, and `Changed.modMsg` says what it leaves in the network. -/
theorem flitsHop : Obligations.FlitsHop := by
  unfold Obligations.FlitsHop
  intro m s id hm hc
  refine ⟨fun hx hold => ?_, fun hx hf => ?_, fun hx hf ha => ?_⟩
  · have he : execFlitHop s = .next (leaveCrossbar s id m) := by
      simp [execFlitHop, id, hm, Nat.not_lt.mpr hc, hx]
    rw [leaveCrossbar_first hold] at he
    exact ⟨_, he, (Changed.modMsg hm _).entered _, rfl⟩
  · have he : execFlitHop s = .next (modMsg s id (fun m => { m with pendingFwd := false })) := by
      simp [execFlitHop, id, hm, Nat.not_lt.mpr hc, hx, hf]
    exact ⟨_, he, Changed.modMsg hm _⟩
  · have hn : HopsNext s m := ⟨hm, hc, hx, hf, ha⟩
    refine ⟨fun hg hfree => ?_, fun hb hlt => ?_, fun hb hge h0 hl => ?_, fun hr h1 he href hp hs hsig => ?_⟩
    · have he := (execFlitHop_good hn hg).trans (congrArg _ (goodHop_free hfree))
      refine ⟨fun hlt => ?_, fun hge => ?_⟩
      · rw [takeHop, if_pos hlt] at he
        exact ⟨_, he, Changed.modMsg hm _⟩
      · rw [takeHop, if_neg (Nat.not_lt.mpr hge)] at he
        exact ⟨_, he, Changed.modMsg hm _⟩
    · exact ⟨_, (execFlitHop_bad hn hb).trans (congrArg _ (if_pos hlt)), Changed.modMsg hm _⟩
    · obtain ⟨n, ha⟩ := linkFailure_answers (s := s) (id := id) h0 hl
      exact ⟨_, n, (execFlitHop_bad hn hb).trans (congrArg _ (if_neg (Nat.not_lt.mpr hge))), ha⟩
    · have he := execFlitHop_refused hn hr h1 he href hp hs
      rw [refuseMsg_request hsig] at he
      have hslot := Changed.modMsg hm (fun x => { x with slot := some (m.slot.getD (laneSlot s (hopOf s m))) })
      exact ⟨_, he, (hslot.trans (Changed.modMsg hslot.named _)).entered _, rfl⟩

end Sys2Proof.Machine
end

section
/-!
PROOFS. Full/empty operations in the instruction's own step (R113, R225, R226; log entry 10).
-/
namespace Sys2Proof.Machine

/-! ### One operation as one event, in a free launch -/

/-- The data a full/empty operation moves to its home. -/
def feMoved (s : State) (a : Acc) (op : FeOp) (v : Nat) : State :=
  match op with
  | .stef => homeWrite s 0 a.home a.addr (enabledBytes v 8)
  | .stfl => homeWrite s 0 a.home a.addr (enabledBytes v 8)
  | .ldfe => s
  | .ldff => s
  | .sete => s
  | .setf => s
  | .feq => s

/-- What a full/empty operation answers. -/
def feReply (s : State) (a : Acc) (op : FeOp) : Reply :=
  match op with
  | .ldfe => .data (homeRead s a.home a.addr 8)
  | .ldff => .data (homeRead s a.home a.addr 8)
  | .feq => .data (b2n (isFull (s.task a.spadTask) (a.addr / 8)))
  | .stef => .ack false
  | .stfl => .ack false
  | .sete => .ack false
  | .setf => .ack false

/-- The bit of a word set to `b`; a change ends every IDLE of the task (R113, R243). -/
def setBit (w : Nat) (b : Bool) (x : Task) : Task := if isFull x w = b then x else (setFull x w b).wake

theorem feWord_eq (s : State) (va : Word) (b : Bool) :
    feWord s va b = s.modTask s.sel.task (setBit (va.toNat / 8) b) := rfl

/-- The bit counts as changed by what it was before the data moved. -/
theorem feStep_free {s : State} {a : Acc} {op : FeOp} {v : Nat} (hd : (s.launchOf a.who.task).det = false)
    (hl : (s.launchOf a.who.task).log = false) (hb : op = .ldfe ∨ op = .ldff → homeBad s a.home a.addr 8 = false) :
    let w := a.addr / 8
    let full := isFull (s.task a.spadTask) w
    feStep s a op v = .ok ((feMoved s a op v).modTask a.spadTask
      (fun x => if op.after full = full then x else (setFull x w (op.after full)).wake)) (feReply s a op) := by
  intro w full
  have hbad : ((op == .ldfe || op == .ldff) && homeBad s a.home a.addr 8) = false := by
    rw [Bool.and_eq_false_imp]
    intro ho
    exact hb (by simpa using ho)
  have hs : stampCheck s a = .ok s := stampSectors_free _ hd
  have hg : logAccess s a = .go s := by simp [logAccess, needsRecord, hl]
  have hbit : (fun x : Task => if (op.after full != full) = true then (setFull x w (op.after full)).wake else x)
      = fun x => if op.after full = full then x else (setFull x w (op.after full)).wake := by
    funext x
    by_cases hc : op.after full = full <;> simp [hc]
  unfold feStep
  simp only [hbad, Bool.false_eq_true, if_false, hs, hg]
  rw [show isFull (s.task a.spadTask) (a.addr / 8) = full from rfl, hbit]
  cases op <;> rfl

/-! ### At the own scratchpad -/

/-- What a full/empty operation leaves of a word of the own scratchpad, in the state it needs. -/
def feOwn (s : State) (va : Word) (op : FeOp) (v : Word) : State :=
  match op with
  | .ldfe => feWord s va false
  | .ldff => s
  | .stef => feWord (feStore s va v) va true
  | .stfl => feWord (feStore s va v) va true
  | .sete => feWord s va false
  | .setf => feWord s va true
  | .feq => s

/-- A change of the task that leaves what a full/empty operation goes by. -/
structure FeKeeps (s u : State) : Prop where
  sel : u.sel = s.sel
  hasTask : u.hasTask s.sel.task = true
  waiters : (myTask u).feWaiters = (myTask s).feWaiters
  mode : (myTask u).dbgctl = (myTask s).dbgctl
  notReady : (me u).notReady = (me s).notReady
  replaying : (me u).replaying = (me s).replaying

theorem FeKeeps.trans {s t u : State} (h : FeKeeps s t) (h' : FeKeeps t u) : FeKeeps s u where
  sel := h'.sel.trans h.sel
  hasTask := by rw [← h.sel]; exact h'.hasTask
  waiters := h'.waiters.trans h.waiters
  mode := h'.mode.trans h.mode
  notReady := h'.notReady.trans h.notReady
  replaying := h'.replaying.trans h.replaying

theorem FeKeeps.withTask {s : State} (hT : s.hasTask s.sel.task = true) {f : Task → Task}
    (hw : (f (myTask s)).feWaiters = (myTask s).feWaiters) (hm : (f (myTask s)).dbgctl = (myTask s).dbgctl)
    (hn : ((f (myTask s)).strand s.sel.strand).notReady = (me s).notReady)
    (hr : ((f (myTask s)).strand s.sel.strand).replaying = (me s).replaying) :
    FeKeeps s (withTask s f) := by
  have ht : myTask (Machine.withTask s f) = f (myTask s) := State.task_modTask_same hT f
  have hme : me (Machine.withTask s f) = (f (myTask s)).strand s.sel.strand := congrArg (·.strand s.sel.strand) ht
  exact ⟨rfl, by rwa [Machine.withTask, State.hasTask_modTask], by rw [ht, hw], by rw [ht, hm], by rw [hme, hn],
    by rw [hme, hr]⟩

section
variable {s : State} (hT : s.hasTask s.sel.task = true)
include hT

theorem FeKeeps.classed : FeKeeps s (classed s) :=
  .withTask hT rfl rfl (by rw [Task.strand_modStrand_same]; rfl) (by rw [Task.strand_modStrand_same]; rfl)

theorem FeKeeps.setReg (d : Reg) (v : Word) : FeKeeps s (setReg s d v) :=
  .withTask hT rfl rfl (by rw [Task.strand_modStrand_same]; rfl) (by rw [Task.strand_modStrand_same]; rfl)

theorem FeKeeps.feStore (va v : Word) : FeKeeps s (feStore s va v) := by
  have hst : (myTask s).wake.strand s.sel.strand = woken (me s) := Task.wake_strand _ _
  exact .withTask hT rfl rfl ((congrArg Strand.notReady hst).trans rfl) ((congrArg Strand.replaying hst).trans rfl)

theorem FeKeeps.feWord (va : Word) (b : Bool) : FeKeeps s (feWord s va b) := by
  by_cases h : isFull (myTask s) (va.toNat / 8) = b
  · have hf : setBit (va.toNat / 8) b (myTask s) = myTask s := if_pos h
    exact .withTask hT (by rw [← setBit, hf]) (by rw [← setBit, hf]) (by rw [← setBit, hf]; rfl)
      (by rw [← setBit, hf]; rfl)
  · have hf : setBit (va.toNat / 8) b (myTask s) = (setFull (myTask s) (va.toNat / 8) b).wake := if_neg h
    have hst : (setFull (myTask s) (va.toNat / 8) b).wake.strand s.sel.strand = woken (me s) := Task.wake_strand _ _
    exact .withTask hT (by rw [← setBit, hf]; rfl) (by rw [← setBit, hf]; rfl) (by rw [← setBit, hf, hst]; rfl)
      (by rw [← setBit, hf, hst]; rfl)

theorem FeKeeps.feOwn (va : Word) (op : FeOp) (v : Word) : FeKeeps s (feOwn s va op v) := by
  have hrefl : FeKeeps s s := ⟨rfl, hT, rfl, rfl, rfl, rfl⟩
  have hst := FeKeeps.feStore hT va v
  have hstored := hst.trans (FeKeeps.feWord (by rw [hst.sel]; exact hst.hasTask) va true)
  cases op with
  | ldfe => exact .feWord hT va false
  | ldff => exact hrefl
  | stef => exact hstored
  | stfl => exact hstored
  | sete => exact .feWord hT va false
  | setf => exact .feWord hT va true
  | feq => exact hrefl

end

/-! ### Beginning an instruction commutes with it -/

theorem wake_beginTask (k : Nat) (x : Task) : (beginTask k x).wake = beginTask k x.wake := by
  unfold beginTask
  rw [Task.wake_modStrand _ k (f := fun y => { y with undoUsed := 0 }) (fun _ => rfl), Task.wake_turnTask]

theorem classed_begin (s : State) : classed (begin_ s) = begin_ (classed s) :=
  begin_modTask fun x => beginTask_modStrand _ x (fun _ => rfl) (fun _ => rfl)

theorem feStore_begin (s : State) (va v : Word) : feStore (begin_ s) va v = begin_ (feStore s va v) :=
  begin_modTask fun x => by rw [wake_beginTask]; rfl

theorem feWord_begin (s : State) (va : Word) (b : Bool) : feWord (begin_ s) va b = begin_ (feWord s va b) := by
  refine begin_modTask fun x => ?_
  have hfull : isFull (beginTask s.sel.strand x) (va.toNat / 8) = isFull x (va.toNat / 8) := rfl
  rw [hfull]
  split
  · rfl
  · rw [← wake_beginTask]; rfl

theorem feOwn_begin (s : State) (va : Word) (op : FeOp) (v : Word) :
    feOwn (begin_ s) va op v = begin_ (feOwn s va op v) := by
  cases op <;> simp [feOwn, feWord_begin, feStore_begin]

/-- A change that the task where an instruction begins has already is none. -/
theorem begin_modTask_fixed {u : State} (hT : u.hasTask u.sel.task = true) {f : Task → Task}
    (hf : f (myTask (begin_ u)) = myTask (begin_ u)) : (begin_ u).modTask u.sel.task f = begin_ u := by
  unfold begin_
  rw [State.modTask_modTask]
  refine modTask_congr ?_
  rwa [myTask_begin hT] at hf

/-! ### Its place among the waiters (R114) -/

/-- The access a full/empty operation makes at a word of the own scratchpad. -/
def feAcc (s : State) (va : Word) (op : FeOp) (v : Word) : Acc :=
  { who := { task := s.sel.task, strand := s.sel.strand, pc := pcOf s }, home := .spad s.sel.task, addr := va.toNat,
    va, size := 8, cls := 15, op := .fe op v.toNat }

theorem waitersOf_none {x : Task} {w : Nat} (h : ∀ y ∈ x.feWaiters, y.acc.addr / 8 ≠ w) : waitersOf x w = [] := by
  rw [waitersOf, List.filter_eq_nil_iff]
  intro y hy
  simp [h y hy]

theorem firstReady_none {x : Task} {w : Nat} (h : ∀ y ∈ x.feWaiters, y.acc.addr / 8 ≠ w) : firstReady x w = none := by
  rw [firstReady, waitersOf_none h]
  rfl

theorem serveWord_none {s : State} {t w n : Nat}
    (h : ∀ y ∈ (s.task t).feWaiters, y.acc.addr / 8 ≠ w) (out : List Answer) :
    serveWord t w n s out = (s, out) := by
  cases n with
  | zero => rfl
  | succ n => simp [serveWord, firstReady_none h]

/-- No operation waits at the word, so none is this strand's. -/
theorem find_waiter_none {x : Task} {a : Acc} (h : ∀ y ∈ x.feWaiters, y.acc.addr / 8 ≠ a.addr / 8) :
    x.feWaiters.find? (fun y => y.req.isNone && y.acc == a) = none := by
  rw [List.find?_eq_none]
  intro y hy hm
  simp only [Bool.and_eq_true, beq_iff_eq] at hm
  exact h y hy (by rw [hm.2])

theorem filter_waiters {x : Task} {a : Acc} (h : ∀ y ∈ x.feWaiters, y.acc.addr / 8 ≠ a.addr / 8) :
    x.feWaiters.filter (fun y => !(y.req.isNone && y.acc == a)) = x.feWaiters := by
  rw [List.filter_eq_self]
  intro y hy
  have hne : y.acc ≠ a := fun he => h y hy (by rw [he])
  simp [hne]

section
variable {u : State} (hT : u.hasTask u.sel.task = true)
include hT

theorem isFull_begin (w : Nat) : isFull ((begin_ u).task u.sel.task) w = isFull (myTask u) w :=
  Eq.trans (b := isFull (beginTask u.sel.strand (myTask u)) w) (congrArg (isFull · w) (myTask_begin hT)) rfl

/-- In a state it needs, the operation does at a word of the own scratchpad what its definition says. -/
theorem feStep_own {va : Word} {op : FeOp} {v : Word} (hf : FreeLaunch (begin_ u)) (ho : va.toNat < 0x600000)
    (hb : op = .ldfe ∨ op = .ldff → OwnSound (begin_ u) va 8)
    (hgo : op.ready (isFull (myTask u) (va.toNat / 8)) = true) :
    feStep (begin_ u) (feAcc (begin_ u) va op v) op v.toNat
      = .ok (begin_ (feOwn u va op v)) (feReply (begin_ u) (feAcc (begin_ u) va op v) op) := by
  have hstep := feStep_free (v := v.toNat) (a := feAcc (begin_ u) va op v) (op := op) hf.free hf.unlogged
    fun h => homeBad_own (hb h)
  have hfull : isFull ((begin_ u).task (feAcc (begin_ u) va op v).spadTask) ((feAcc (begin_ u) va op v).addr / 8)
      = isFull (myTask u) (va.toNat / 8) := isFull_begin hT _
  simp only [hfull] at hstep
  rw [hstep, ← feOwn_begin]
  congr 1
  generalize isFull (myTask u) (va.toNat / 8) = full at *
  have hbit : ∀ (s : State) (b : Bool), s.sel = u.sel → isFull (myTask s) (va.toNat / 8) = full →
      s.modTask u.sel.task (fun x => if b = full then x else (setFull x (va.toNat / 8) b).wake) = feWord s va b := by
    intro s b hs hfs
    rw [feWord_eq, hs]
    refine modTask_congr ?_
    rw [myTask, hs] at hfs
    rw [setBit, hfs]
    by_cases h : b = full
    · rw [if_pos h, if_pos h.symm]
    · rw [if_neg h, if_neg (Ne.symm h)]
  have hstored : ∀ b, (feMoved (begin_ u) (feAcc (begin_ u) va .stef v) .stef v.toNat).modTask u.sel.task
      (fun x => if b = full then x else (setFull x (va.toNat / 8) b).wake) = feWord (feStore (begin_ u) va v) va b := by
    intro b
    have hw : feMoved (begin_ u) (feAcc (begin_ u) va .stef v) .stef v.toNat = feStore (begin_ u) va v :=
      homeWrite_own (fn := 0) ho _ _
    rw [hw]
    refine hbit _ _ rfl ?_
    exact (congrArg (isFull · (va.toNat / 8)) (State.task_modTask_same (by simpa using hT) _)).trans hfull
  cases op with
  | ldfe => exact hbit _ _ rfl hfull
  | ldff =>
    cases hgo
    exact begin_modTask_fixed hT rfl
  | stef => exact hstored _
  | stfl => exact hstored _
  | sete => exact hbit _ _ rfl hfull
  | setf => exact hbit _ _ rfl hfull
  | feq => exact begin_modTask_fixed hT (if_pos rfl)

end

/-! ### The instruction -/

theorem classGate_run {s : State} (hf : FreeLaunch s) (hq : Quiet s)
    (hp : shortOfFault (myTask s) s.sel.strand = false) :
    classGate s = .ok ((), classed s) := by
  have hd : (s.launchOf s.sel.task).det = false := hf.free
  unfold classGate
  simp only [M.getS_bind, M.curStrand_bind, M.curTask_bind, hd, Bool.false_and, Bool.false_eq_true, if_false]
  rw [M.bind_ok (M.takeReports_run hq.reports)]
  simp only [hq.outs, hq.vecs, hp, hq.forked, List.isEmpty_nil, Bool.not_true, Bool.or_self, Bool.false_eq_true,
    if_false]
  rfl

theorem footGate_free {s : State} (hf : FreeLaunch s) (va : Word) (n : Nat) (w : Bool) :
    footGate va n w s = .ok ((), s) := by
  unfold footGate
  simp only [M.curLaunch_bind, M.curTask_bind, M.getS_bind, hf.free, Bool.false_eq_true, if_false, M.pure_run]

/-- Where no operation waits at the word and its state lets the operation go on, it performs, and nobody is served
after it. -/
theorem feLocal_performs {s u t : State} {a : Acc} {op : FeOp} {v : Nat} {d : Option Reg} {r : Reply}
    (hgate : classGate s = .ok ((), u)) (hfree : FreeLaunch u)
    (hw : ∀ y ∈ (myTask u).feWaiters, y.acc.addr / 8 ≠ a.addr / 8)
    (hgo : op.ready (isFull (myTask u) (a.addr / 8)) = true) (hstep : feStep u a op v = .ok t r)
    (hsel : t.sel.task = u.sel.task) (hkept : ∀ f : Task → Task, f (myTask t) = myTask t → t.modTask t.sel.task f = t)
    (hw' : ∀ y ∈ (myTask t).feWaiters, y.acc.addr / 8 ≠ a.addr / 8) : feLocal a op v d s = feFinish d r t := by
  have hleave : t.modTask t.sel.task (fun x => { x with
      feWaiters := x.feWaiters.filter (fun y => !(y.req.isNone && y.acc == a)) }) = t :=
    hkept _ (by rw [filter_waiters hw'])
  have hserve : serve t u.sel.task (a.addr / 8) = (t, []) := by
    rw [← hsel]
    exact serveWord_none hw' []
  unfold myTask at hw hgo
  unfold feLocal
  rw [M.bind_ok hgate, M.bind_ok (footGate_free hfree _ _ _), M.getS_bind]
  simp only [find_waiter_none hw, firstReady_none hw, hgo, hstep, Bool.not_true, Bool.false_eq_true, if_false,
    M.setS_bind, M.modCurTask_bind, hleave, M.modS_bind, hserve]
  rfl

/-- The state with what a full/empty operation answers in its destination. -/
def feTaken (s : State) (d : Option Reg) (v : Word) : State :=
  match d with
  | some g => setReg s g v
  | none => s

/-- What a strand needs for a full/empty operation at a word of the own scratchpad. -/
structure FeReady (s : State) (va : Word) (op : FeOp) : Prop where
  runs : Runs s
  free : FreeLaunch s
  quiet : Quiet s
  aligned : va.toNat % 8 = 0
  own : OwnBytes s va 8
  alone : NoWaiter s va
  sound : op = .ldfe ∨ op = .ldff → OwnSound s va 8
  ready : op.ready (isFull (myTask s) (va.toNat / 8)) = true

section
variable {s : State} {va : Word} {op : FeOp} {v : Word} (h : FeReady s va op)
include h

theorem FeReady.kept : FeKeeps s (feOwn (classed s) va op v) :=
  have hc := FeKeeps.classed h.runs.hasTask
  hc.trans (.feOwn hc.hasTask va op v)

theorem FeReady.freeClassed : FreeLaunch (begin_ (classed s)) := by
  have hc : myLaunch (begin_ (classed s)) = myLaunch s := by
    refine Eq.trans (launchOf_begin (FeKeeps.classed h.runs.hasTask).hasTask) ?_
    exact myLaunch_modStrand h.runs.hasTask _
  exact ⟨by rw [hc]; exact h.free.free, by rw [hc]; exact h.free.unlogged⟩

theorem FeReady.task : myTask (begin_ (classed s)) = beginTask s.sel.strand ((myTask s).modStrand s.sel.strand
    (fun x => { x with alias_ := [] })) := by
  rw [myTask_begin (FeKeeps.classed h.runs.hasTask).hasTask]
  exact congrArg _ (myTask_modStrand h.runs.hasTask _)

/-- The value a load of the word or of its bit answers. -/
theorem FeReady.reply : (feReply (begin_ (classed s)) (feAcc (begin_ (classed s)) va op v) op).value =
    match op with
    | .ldfe => readNat (myTask s).spad va.toNat 8
    | .ldff => readNat (myTask s).spad va.toNat 8
    | .feq => b2n (isFull (myTask s) (va.toNat / 8))
    | .stef => 0
    | .stfl => 0
    | .sete => 0
    | .setf => 0 := by
  have hread : homeRead (begin_ (classed s)) (.spad (begin_ (classed s)).sel.task) va.toNat 8
      = readNat (myTask s).spad va.toNat 8 := by
    rw [homeRead_own (by unfold OwnBytes; rw [h.task]; exact h.own) (by decide), h.task]
    rfl
  have hfull : isFull (myTask (begin_ (classed s))) (va.toNat / 8) = isFull (myTask s) (va.toNat / 8) := by
    rw [h.task]; rfl
  cases op with
  | ldfe => exact hread
  | ldff => exact hread
  | feq => exact congrArg b2n hfull
  | stef => rfl
  | stfl => rfl
  | sete => rfl
  | setf => rfl

theorem FeReady.acc : feAcc (begin_ s) va op v = feAcc (begin_ (classed s)) va op v := by
  have hpc : pcOf (begin_ (classed s)) = pcOf (begin_ s) := by
    rw [pcOf, pcOf, regs_begin (FeKeeps.classed h.runs.hasTask).hasTask, regs_begin h.runs.hasTask]
    exact congrArg (·.r.pc) (me_modStrand h.runs.hasTask _)
  rw [feAcc, feAcc, hpc]
  rfl

theorem feLocal_own (d : Option Reg) : feLocal (feAcc (begin_ s) va op v) op v.toNat d (begin_ s)
    = feFinish d (feReply (begin_ (classed s)) (feAcc (begin_ (classed s)) va op v) op)
      (begin_ (feOwn (classed s) va op v)) := by
  have hc := FeKeeps.classed h.runs.hasTask
  have hk := h.kept (v := v)
  have hkT : (feOwn (classed s) va op v).hasTask (feOwn (classed s) va op v).sel.task = true := by
    rw [hk.sel]; exact hk.hasTask
  have hown := h.own.2
  have hgate := classGate_run (h.free.begin h.runs) (h.quiet.begin h.runs) h.runs.passed_begin
  have hgo : op.ready (isFull (myTask (classed s)) (va.toNat / 8)) = true := by
    rw [show myTask (classed s) = _ from myTask_modStrand h.runs.hasTask _]
    exact h.ready
  have hsound : op = .ldfe ∨ op = .ldff → OwnSound (begin_ (classed s)) va 8 := fun ho => by
    unfold OwnSound
    rw [h.task]
    exact h.sound ho
  rw [classed_begin] at hgate
  rw [h.acc]
  refine feLocal_performs hgate h.freeClassed ?_ ?_ (feStep_own hc.hasTask h.freeClassed (by omega) hsound hgo) ?_
    (fun f => begin_modTask_fixed hkT) ?_
  · rw [h.task]; exact h.alone
  · rw [h.task]; exact h.ready
  · exact congrArg (·.task) hk.sel
  · rw [myTask_begin hkT]
    show ∀ y ∈ (myTask (feOwn (classed s) va op v)).feWaiters, _
    rw [hk.waiters]
    exact h.alone

omit h in
theorem feFinish_run {u : State} {d : Option Reg}
    (hd : ∀ g, d = some g → g.toNat ∉ (me (begin_ u)).notReady) (r : Reply) :
    feFinish d r (begin_ u) = .ok (.fall, begin_ (feTaken u d (w64 r.value))) := by
  unfold feFinish
  cases d with
  | none => rfl
  | some g =>
    simp only
    rw [M.bind_ok (M.wr_run (hd g rfl)), feTaken, ← setReg_begin]
    rfl

/-- The body from the effective address on. -/
theorem feBody_own (d : Option Reg) (hd : Ready s d.toList) : feBody va op v d (begin_ s)
    = .ok (.fall, begin_ (feTaken (feOwn (classed s) va op v) d
        (w64 (feReply (begin_ (classed s)) (feAcc (begin_ (classed s)) va op v) op).value))) := by
  have hk := h.kept (v := v)
  obtain ⟨h1, h2⟩ := h.own.begin h.runs
  have hlow : va.toNat < 0x800000 := by omega
  have htarget : spadTarget (begin_ s) (begin_ s).sel.task va = some ((begin_ s).sel.task, va.toNat) := by
    simp [spadTarget, hlow]
  have hready : ∀ g, d = some g → g.toNat ∉ (me (begin_ s)).notReady := fun g hg => Ready.begin h.runs hd (by simp [hg])
  have hready' : ∀ g, d = some g → g.toNat ∉ (me (begin_ (feOwn (classed s) va op v))).notReady := fun g hg => by
    rw [me_begin (by rw [hk.sel]; exact hk.hasTask)]
    show g.toNat ∉ (me (feOwn (classed s) va op v)).notReady
    rw [hk.notReady]
    exact hd g (by simp [hg])
  have hneed : ∀ b : Unit → M Next, (match d with
      | some g => needReady g >>= b
      | none => b ()) (begin_ s) = b () (begin_ s) := by
    intro b
    cases d with
    | none => rfl
    | some g => exact M.bind_ok (M.needReady_run (hready g rfl))
  have hlocal := (feLocal_own h d (v := v)).trans (feFinish_run hready' _)
  unfold feBody
  rw [M.bind_ok (M.needAligned_run h.aligned)]
  refine (hneed _).trans ?_
  simp only [M.getS_bind, htarget]
  rw [if_neg (show ¬ ((begin_ s).task (begin_ s).sel.task).spsize < va.toNat + 8 from Nat.not_lt.mpr h1),
    if_pos trivial, M.curStrand_bind, foldVa_own hlow]
  exact hlocal

/-- A full/empty operation at a word of the own scratchpad retires with its effect. -/
theorem feStrand_own {i : Instr} {body : M Next} (d : Option Reg) (hd : Ready s d.toList)
    (hbody : body (begin_ s) = feBody va op v d (begin_ s)) :
    ∃ t, strandStep i body s = .next t ∧ Retired (feTaken (feOwn (classed s) va op v) d
        (w64 (feReply (begin_ (classed s)) (feAcc (begin_ (classed s)) va op v) op).value)) t (parcels i) := by
  have hk := h.kept (v := v)
  have hk' : FeKeeps s (feTaken (feOwn (classed s) va op v) d
      (w64 (feReply (begin_ (classed s)) (feAcc (begin_ (classed s)) va op v) op).value)) := by
    cases d with
    | none => exact hk
    | some g => exact hk.trans (.setReg (by rw [hk.sel]; exact hk.hasTask) g _)
  exact strandStep_retired h.runs hk'.sel hk'.hasTask (by rw [hk'.mode]; exact h.runs.noMode)
    (by rw [hk'.replaying]; exact h.runs.settled) (hbody.trans (feBody_own h d hd))

end

/-- An operand that a full/empty operation reads. -/
theorem rdOut_begin {s : State} (h : Runs s) {r : Reg} (hr : Ready s [r]) (hc : Clean s [r]) :
    rdOut r (begin_ s) = .ok ((regs s).gr r.toNat, begin_ s) := by
  have hcb := hc.begin h
  rw [M.rdOut_run (hr.begin h (by simp)) (hcb.2 r (by simp)) (hcb.1 r (by simp)), regs_begin h.hasTask]

/-- An operation that never waits can proceed in either state of its word. -/
theorem FeOp.ready_of_waits {op : FeOp} (h : op.waits = false) (full : Bool) : op.ready full = true := by
  cases op with
  | ldfe => cases h
  | ldff => cases h
  | stef => cases h
  | stfl => rfl
  | sete => rfl
  | setf => rfl
  | feq => rfl

/-- Settles O17: nothing waits at the word, so the operation performs in its own step; `feOwn` is what it leaves
there. -/
theorem fullEmptyResult : Obligations.FullEmptyResult := by
  unfold Obligations.FullEmptyResult
  intro d a disp s hruns hready hclean hfree hquiet va va0 v u
  have hrd : Ready s [d] := fun r hr => hready r (by simp at hr; simp [hr])
  have hra : Ready s [a] := fun r hr => hready r (by simp at hr; simp [hr])
  have ha : rdOut a (begin_ s) = .ok (va0, begin_ s) := rdOut_begin hruns hra hclean
  refine ⟨fun hal ho hb hw => ⟨fun hf => ?_, fun hf hd => ?_, fun hd => ?_⟩, fun hal ho hw => ?_⟩
  · have hfe : ∀ op : FeOp, op.ready true = true → FeReady s va op :=
      fun op hop => ⟨hruns, hfree, hquiet, hal, ho, hw, fun _ => hb, by rw [hf]; exact hop⟩
    have hl := feStrand_own (hfe .ldfe rfl) (v := 0) (some d) hrd (i := .ldfe d a disp)
      (M.bind_ok (f := fun x => feBody (eaSM x disp 8) .ldfe 0 (some d)) ha)
    have hr := feStrand_own (hfe .ldff rfl) (v := 0) (some d) hrd (i := .ldff d a disp)
      (M.bind_ok (f := fun x => feBody (eaSM x disp 8) .ldff 0 (some d)) ha)
    rw [FeReady.reply (hfe .ldfe rfl)] at hl
    rw [FeReady.reply (hfe .ldff rfl)] at hr
    exact ⟨hl, hr⟩
  · have hfe : FeReady s va .stef := ⟨hruns, hfree, hquiet, hal, ho, hw, fun _ => hb, by rw [hf]; rfl⟩
    exact feStrand_own hfe (v := v) none (by simp [Ready]) (i := .stef d a disp)
      ((M.bind_ok ha).trans (M.bind_ok (rdOut_begin hruns hrd hd)))
  · have hfe : FeReady s va .stfl := ⟨hruns, hfree, hquiet, hal, ho, hw, fun _ => hb, rfl⟩
    exact feStrand_own hfe (v := v) none (by simp [Ready]) (i := .stfl d a disp)
      ((M.bind_ok ha).trans (M.bind_ok (rdOut_begin hruns hrd hd)))
  · have hfe : ∀ op : FeOp, op.waits = false → FeReady s va0 op := fun op hop =>
      
      ⟨hruns, hfree, hquiet, hal, ho, hw, fun hl => absurd hop (by rcases hl with rfl | rfl <;> decide),
        FeOp.ready_of_waits hop _⟩
    have hq := feStrand_own (hfe .feq rfl) (v := 0) (some d) hrd (i := .feq d a)
      (M.bind_ok (f := fun x => feBody x .feq 0 (some d)) ha)
    rw [FeReady.reply (hfe .feq rfl)] at hq
    exact ⟨feStrand_own (hfe .sete rfl) (v := 0) none (by simp [Ready]) (i := .sete a) (M.bind_ok ha),
      feStrand_own (hfe .setf rfl) (v := 0) none (by simp [Ready]) (i := .setf a) (M.bind_ok ha), hq⟩

end Sys2Proof.Machine
end

section
/-!
PROOFS. Requests at their home: the saved image, full/empty operations of other tasks, and rounds of contributions
(R113, R114, R135, R164, R232).
-/
namespace Sys2Proof.Machine

/-! ### Tasks but for a part of them -/

/-- What does not depend on the part that changes is as before, in every task. -/
theorem task_modTask_kept {α : Type} {f : Task → α} {g : Task → Task} (h : ∀ x, f (g x) = f x) (s : State) (p k : Nat) :
    f ((s.modTask p g).task k) = f (s.task k) := by
  by_cases hk : k = p
  · subst hk
    unfold State.task State.modTask
    rw [SMap.find_upd_same]
    cases SMap.find k s.tasks with
    | none => rfl
    | some x => exact h x
  · rw [State.task_modTask_other _ hk]

theorem keepImage_outside (s : State) (h : Home) : keepImage s h = { s with tasks := (keepImage s h).tasks } := by
  cases h with
  | spad p =>
    unfold keepImage writeContext
    simp only
    split <;> rfl
  | hbm d => rfl
  | host j => rfl
  | window j => rfl

/-- The image is a part of its task only. -/
theorem keepImage_task {α : Type} {f : Task → α} (hf : ∀ x c, f { x with context := c } = f x) (s : State) (h : Home)
    (k : Nat) : f ((keepImage s h).task k) = f (s.task k) := by
  cases h with
  | spad p =>
    unfold keepImage writeContext
    simp only
    split
    · exact task_modTask_kept (fun x => hf x _) _ _ _
    · rfl
  | hbm d => rfl
  | host j => rfl
  | window j => rfl

/-- The image does not depend on the network. -/
theorem keepImage_net (s : State) (h : Home) (net : SMap Msg) (n e : Nat) :
    keepImage { s with net := net, nextMsg := n, entered := e } h =
      { keepImage s h with net := net, nextMsg := n, entered := e } := by
  cases h with
  | spad p =>
    unfold keepImage
    simp only
    split
    · next hc => rw [if_pos (by exact hc)]; rfl
    · next hc => rw [if_neg (by exact hc)]
  | hbm d => rfl
  | host j => rfl
  | window j => rfl

/-- One access of a strand is marked as accepted by its home. -/
def acceptOne (s : State) (e : Party × Nat) : State :=
  if e.1.queue.isSome then s
  else s.modStrand e.1.task e.1.strand (fun x => { x with
    outs := x.outs.map (fun o => if o.id = e.2 then { o with accepted := true } else o) })

theorem markAccepted_eq (s : State) (req : Requester) :
    markAccepted s req = (requesters s s.couplings.length req).foldl acceptOne s := rfl

theorem acceptOne_outside (s : State) (e : Party × Nat) : acceptOne s e = { s with tasks := (acceptOne s e).tasks } := by
  unfold acceptOne
  split <;> rfl

theorem markAccepted_outside (s : State) (req : Requester) :
    markAccepted s req = { s with tasks := (markAccepted s req).tasks } := by
  rw [markAccepted_eq]
  generalize requesters s s.couplings.length req = l
  induction l generalizing s with
  | nil => rfl
  | cons e l ih =>
    rw [List.foldl_cons, ih, acceptOne_outside]

/-- Being accepted is a part of the strands only. -/
theorem markAccepted_task {α : Type} {f : Task → α} (hf : ∀ x c, f { x with strands := c } = f x) (s : State)
    (req : Requester) (k : Nat) : f ((markAccepted s req).task k) = f (s.task k) := by
  rw [markAccepted_eq]
  generalize requesters s s.couplings.length req = l
  induction l generalizing s with
  | nil => rfl
  | cons e l ih =>
    rw [List.foldl_cons, ih]
    unfold acceptOne
    split
    · rfl
    · exact task_modTask_kept (fun x => hf x _) _ _ _

/-! ### A request that is served -/

/-- A request that has arrived where its home is performs there, and the image of a task that is out follows. -/
theorem takeRequest_serves {s : State} {m : Msg} (h : Arrived s m 0) (ha : AtHome s m) {want : AccOp → Bool}
    (hw : want m.acc.op = true) : takeRequest s want = keepImage (performMsg s s.sel.msg m) m.acc.home := by
  simp [takeRequest, h.found, h.chan, hw, h.order, arriveRequest, ha.there, serveMsg]

theorem performMsg_fe {s : State} {m : Msg} (ha : AtHome s m) {op : FeOp} {v : Nat} (ho : m.acc.op = .fe op v)
    (id : Nat) : performMsg s id m = serveFe s id m := by
  simp [performMsg, ha.exists_, ho]

theorem performMsg_amor {s : State} {m : Msg} (ha : AtHome s m) {fn : AtomFn} {n lo hi v : Nat}
    (ho : m.acc.op = .amor fn n lo hi v) (id : Nat) : performMsg s id m = serveAmor s id m := by
  simp [performMsg, ha.exists_, ho]

theorem execFullEmptyRequest_serves {s : State} {m : Msg} (h : Arrived s m 0) (ha : AtHome s m) {op : FeOp} {v : Nat}
    (ho : m.acc.op = .fe op v) : execFullEmptyRequest s = .next (keepImage (serveFe s s.sel.msg m) m.acc.home) := by
  rw [execFullEmptyRequest, takeRequest_serves h ha (by rw [ho]), performMsg_fe ha ho]

theorem execAmorContribution_serves {s : State} {m : Msg} (h : Arrived s m 0) (ha : AtHome s m) {fn : AtomFn}
    {n lo hi v : Nat} (ho : m.acc.op = .amor fn n lo hi v) :
    execAmorContribution s = .next (keepImage (serveAmor s s.sel.msg m) m.acc.home) := by
  rw [execAmorContribution, takeAtomic, h.alone]
  simp only
  rw [takeRequest_serves h ha (by rw [ho]), performMsg_amor ha ho]

/-! ### Full/empty operations of other tasks -/

/-- The request among the waiters of its word. -/
def remoteWaiter (m : Msg) : FeWaiter := { acc := m.acc, req := some (m.req, m.srcStation) }

/-- The task once the data of the operation have moved. -/
def feMovedTask (a : Acc) (op : FeOp) (v : Nat) (x : Task) : Task :=
  match op with
  | .stef => { x.wake with spad := writeBytes x.spad a.addr (bytesOf v 8) }
  | .stfl => { x.wake with spad := writeBytes x.spad a.addr (bytesOf v 8) }
  | .ldfe => x
  | .ldff => x
  | .sete => x
  | .setf => x
  | .feq => x

theorem feMoved_stored {s : State} {a : Acc} {k : Nat} (hk : a.home = .spad k) (hh : isHeritage a.addr = false)
    (v : Nat) : homeWrite s 0 a.home a.addr (enabledBytes v 8) =
      s.modTask k (fun x => { x.wake with spad := writeBytes x.spad a.addr (bytesOf v 8) }) := by
  unfold homeWrite
  simp only [hk, hh, Bool.false_eq_true, if_false, enabledBytes, writeEnabled_all]
  rfl

/-- The task once the operation has performed, the bit having been `full`. -/
def feDone (a : Acc) (op : FeOp) (v : Nat) (full : Bool) (x : Task) : Task :=
  if op.after full = full then feMovedTask a op v x
  else (setFull (feMovedTask a op v x) (a.addr / 8) (op.after full)).wake

theorem feMoved_modTask {s : State} {a : Acc} {k : Nat} (hk : a.home = .spad k) (hh : isHeritage a.addr = false)
    (op : FeOp) (v : Nat) (full : Bool) :
    (feMoved s a op v).modTask k (fun x =>
        if op.after full = full then x else (setFull x (a.addr / 8) (op.after full)).wake)
      = s.modTask k (feDone a op v full) := by
  have hst := feMoved_stored (s := s) hk hh v
  cases op with
  | stef => rw [feMoved, hst, State.modTask_modTask]; rfl
  | stfl => rw [feMoved, hst, State.modTask_modTask]; rfl
  | ldfe => rfl
  | ldff => rfl
  | sete => rfl
  | setf => rfl
  | feq => rfl

theorem feDone_feWaiters (a : Acc) (op : FeOp) (v : Nat) (full : Bool) (x : Task) :
    (feDone a op v full x).feWaiters = x.feWaiters := by
  have hm : (feMovedTask a op v x).feWaiters = x.feWaiters := by cases op <;> rfl
  unfold feDone
  split
  · exact hm
  · exact hm

theorem isFull_setFull (x : Task) (w : Nat) (b : Bool) : isFull (setFull x w b) w = b := by
  unfold isFull setFull
  cases b with
  | true => simp
  | false => simp

theorem flatMap_drop_other {α : Type} [DecidableEq α] {y : α} {l : List α} (h : ∀ z ∈ l, z ≠ y) :
    l.flatMap (fun z => if z = y then [] else [z]) = l := by
  induction l with
  | nil => rfl
  | cons z l ih =>
    rw [List.flatMap_cons, if_neg (h z List.mem_cons_self), ih fun x hx => h x (List.mem_cons_of_mem _ hx)]
    rfl

theorem feDone_spad (a : Acc) (op : FeOp) (v : Nat) (full : Bool) (x : Task) :
    (feDone a op v full x).spad = (feMovedTask a op v x).spad := by
  unfold feDone
  split <;> rfl

theorem feDone_full (a : Acc) (op : FeOp) (v : Nat) {full : Bool} {x : Task} (h : isFull x (a.addr / 8) = full) :
    isFull (feDone a op v full x) (a.addr / 8) = op.after full := by
  have hm : isFull (feMovedTask a op v x) (a.addr / 8) = full := by rw [← h]; cases op <;> rfl
  unfold feDone
  split
  · next hsame => rw [hm, hsame]
  · exact isFull_setFull _ _ _

/-- The request comes last, and no one waits before it at its word: it is the first that can proceed. -/
theorem firstReady_last {x : Task} {l : List FeWaiter} {w : Nat} {y : FeWaiter} (hx : x.feWaiters = l ++ [y])
    (hl : ∀ z ∈ l, z.acc.addr / 8 ≠ w) (hy : y.acc.addr / 8 = w) (hg : y.granted = none) (hr : y.req.isSome = true) :
    firstReady x w = if y.acc.feOp.1.ready (isFull x w) then some y else none := by
  have hfilter : l.filter (fun z => z.acc.addr / 8 == w && z.granted.isNone) = [] := by
    rw [List.filter_eq_nil_iff]
    intro z hz
    simp [hl z hz]
  have hserv : servable x y = true := by simp [servable, hr]
  unfold firstReady waitersOf
  rw [hx, List.filter_append, hfilter]
  cases hready : y.acc.feOp.1.ready (isFull x w) <;> simp [hy, hg, hserv, hready]

section
variable {s : State} {k w : Nat} {l : List FeWaiter} {y : FeWaiter} (hx : (s.task k).feWaiters = l ++ [y])
  (hl : ∀ z ∈ l, z.acc.addr / 8 ≠ w) (hy : y.acc.addr / 8 = w) (hg : y.granted = none)
include hx hl hy hg

/-- The request that comes last is served, and no other. -/
theorem serve_last {rq : Requester} {st : Nat} (hr : y.req = some (rq, st)) (hT : s.hasTask k = true)
    (hready : y.acc.feOp.1.ready (isFull (s.task k) w) = true) {g : Task → Task} {rep : Reply}
    (hstep : feStep s y.acc y.acc.feOp.1 y.acc.feOp.2 = .ok (s.modTask k g) rep)
    (hw : ∀ x, (g x).feWaiters = x.feWaiters) :
    serve s k w = (s.modTask k (fun x => { g x with feWaiters := l }),
      [{ req := rq, station := st, acc := y.acc, reply := rep }]) := by
  have hput : (s.modTask k g).modTask k (fun x => { x with
      feWaiters := x.feWaiters.flatMap (fun z => if z = y then [] else [z]) }) =
      s.modTask k (fun x => { g x with feWaiters := l }) := by
    rw [State.modTask_modTask]
    refine modTask_congr ?_
    have hkeep := flatMap_drop_other (y := y) (l := l) fun z hz he => hl z hz (by rw [he, hy])
    simp only [hw, hx, List.flatMap_append, hkeep]
    simp
  have htask : ((s.modTask k (fun x => { g x with feWaiters := l })).task k).feWaiters = l := by
    rw [State.task_modTask_same hT]
  unfold serve
  rw [hx, List.length_append, List.length_singleton]
  unfold serveWord
  rw [firstReady_last hx hl hy hg (by rw [hr]; rfl), if_pos hready]
  simp only [hr, hstep, hput]
  exact serveWord_none (by rw [htask]; exact hl) _

/-- The request that comes last cannot proceed: it waits. -/
theorem serve_last_waits (hr : y.req.isSome = true) (hready : y.acc.feOp.1.ready (isFull (s.task k) w) = false) :
    serve s k w = (s, []) := by
  unfold serve
  rw [hx, List.length_append, List.length_singleton]
  unfold serveWord
  rw [firstReady_last hx hl hy hg hr, hready]
  rfl

end

theorem launchOf_modTask {g : Task → Task} (hg : ∀ x, (g x).launch = x.launch) (s : State) (k t : Nat) :
    (s.modTask k g).launchOf t = s.launchOf t :=
  congrArg s.launch (task_modTask_kept (f := Task.launch) hg s k t)

/-- The request has joined the waiters of its word. -/
def joined (s : State) (id k : Nat) (m : Msg) : State :=
  (dropMsg s id).modTask k (fun x => { x with feWaiters := x.feWaiters ++ [remoteWaiter m] })

theorem joined_task {α : Type} {f : Task → α} (hf : ∀ x c, f { x with feWaiters := c } = f x) (s : State)
    (id k : Nat) (m : Msg) (j : Nat) : f ((joined s id k m).task j) = f (s.task j) :=
  (task_modTask_kept (fun x => hf x _) (dropMsg s id) k j).trans rfl

theorem joined_full (s : State) (id k : Nat) (m : Msg) (w : Nat) :
    isFull ((joined s id k m).task k) w = isFull (s.task k) w :=
  joined_task (f := fun x => isFull x _) (by exact fun _ _ => rfl) s id k m k

/-- What the service of its word comes to is all that is left to do for a request. -/
theorem serveFe_of_serve {s u : State} {id k : Nat} {m : Msg} {l : List Answer} (hk : m.acc.spadTask = k)
    (hs : serve (joined s id k m) k (m.acc.addr / 8) = (u, l)) :
    serveFe s id m =
      sendAll (if (u.task k).feWaiters.contains (remoteWaiter m) then markAccepted u m.req else u) l := by
  have h1 : (serve (joined s id m.acc.spadTask m) m.acc.spadTask (m.acc.addr / 8)).1 = u := by rw [hk, hs]
  have h2 : (serve (joined s id m.acc.spadTask m) m.acc.spadTask (m.acc.addr / 8)).2 = l := by rw [hk, hs]
  rw [← hk, ← h1, ← h2]
  rfl

/-- The request has performed and has left the waiters of its word. -/
def feServed (s : State) (id k : Nat) (m : Msg) (op : FeOp) (v : Nat) : State :=
  (joined s id k m).modTask k (fun x => { feDone m.acc op v (isFull (s.task k) (m.acc.addr / 8)) x with
    feWaiters := (s.task k).feWaiters })

/-- `u` is `s` once a full/empty request to a word of task `k` has been taken and has performed, but for its answer. -/
structure FePerformed (s u : State) (id k : Nat) (m : Msg) (op : FeOp) (v : Nat) : Prop where
  net : u.net = SMap.del id s.net
  nextMsg : u.nextMsg = s.nextMsg
  waiters : (u.task k).feWaiters = (s.task k).feWaiters
  spad : (u.task k).spad = (feMovedTask m.acc op v (s.task k)).spad
  full : isFull (u.task k) (m.acc.addr / 8) = op.after (isFull (s.task k) (m.acc.addr / 8))

/-- A full/empty request to a word of a scratchpad at which none waits. -/
structure FeAlone (s : State) (k : Nat) (m : Msg) : Prop where
  home : m.acc.home = .spad k
  task : s.hasTask k = true
  free : (s.launchOf m.acc.who.task).det = false
  unlogged : (s.launchOf m.acc.who.task).log = false
  low : isHeritage m.acc.addr = false
  sound : homeBad s m.acc.home m.acc.addr 8 = false
  alone : ∀ y ∈ (s.task k).feWaiters, y.acc.addr / 8 ≠ m.acc.addr / 8

section
variable {s : State} {k : Nat} {m : Msg} (h : FeAlone s k m) (id : Nat)
include h

theorem FeAlone.joined_hasTask : (joined s id k m).hasTask k = true := by
  unfold joined
  rw [State.hasTask_modTask]
  exact h.task

theorem FeAlone.joined_waiters : ((joined s id k m).task k).feWaiters = (s.task k).feWaiters ++ [remoteWaiter m] := by
  unfold joined
  rw [State.task_modTask_same (show (dropMsg s id).hasTask k = true from h.task)]
  rfl

theorem FeAlone.not_waiting : (s.task k).feWaiters.contains (remoteWaiter m) = false := by
  rw [List.contains_eq_mem, decide_eq_false_iff_not]
  exact fun hm => h.alone _ hm rfl

theorem FeAlone.steps (op : FeOp) (v : Nat) : feStep (joined s id k m) m.acc op v =
    .ok ((joined s id k m).modTask k (feDone m.acc op v (isFull (s.task k) (m.acc.addr / 8))))
      (feReply s m.acc op) := by
  have hspad : m.acc.spadTask = k := by rw [Acc.spadTask, h.home]
  have hlaunch : (joined s id k m).launchOf m.acc.who.task = s.launchOf m.acc.who.task :=
    launchOf_modTask (by exact fun _ => rfl) _ _ _
  have hbad : homeBad (joined s id k m) m.acc.home m.acc.addr 8 = false := by
    have hs := h.sound
    rw [h.home] at hs ⊢
    unfold homeBad at hs ⊢
    simp only at hs ⊢
    rw [joined_task (f := Task.badWords) (by exact fun _ _ => rfl)]
    exact hs
  have hstep := feStep_free (op := op) (v := v) (by rw [hlaunch]; exact h.free)
    (by rw [hlaunch]; exact h.unlogged) fun _ => hbad
  have hfull : isFull ((joined s id k m).task k) (m.acc.addr / 8) = isFull (s.task k) (m.acc.addr / 8) :=
    joined_task (f := fun x => isFull x _) (by exact fun _ _ => rfl) s id k m k
  have hread : homeRead (joined s id k m) m.acc.home m.acc.addr 8 = homeRead s m.acc.home m.acc.addr 8 := by
    rw [h.home]
    unfold homeRead
    simp only [h.low, Bool.false_eq_true, if_false]
    rw [joined_task (f := Task.spad) (by exact fun _ _ => rfl)]
  have hreply : feReply (joined s id k m) m.acc op = feReply s m.acc op := by
    cases op with
    | ldfe => exact congrArg Reply.data hread
    | ldff => exact congrArg Reply.data hread
    | feq => simp only [feReply, hspad, hfull]
    | stef => rfl
    | stfl => rfl
    | sete => rfl
    | setf => rfl
  simp only [hspad, hfull] at hstep
  rw [hstep, feMoved_modTask h.home h.low, hreply]

theorem FeAlone.performed (op : FeOp) (v : Nat) : FePerformed s (feServed s id k m op v) id k m op v := by
  have htask : (feServed s id k m op v).task k = _ := State.task_modTask_same (h.joined_hasTask id) _
  refine ⟨rfl, rfl, ?_, ?_, ?_⟩ <;> rw [htask]
  · refine (feDone_spad _ _ _ _ _).trans ?_
    exact joined_task (f := fun x => (feMovedTask m.acc op v x).spad) (by intro x c; cases op <;> rfl) s id k m k
  · exact feDone_full _ _ _ (joined_full s id k m _)

theorem serveFe_performs {op : FeOp} {v : Nat} (ho : m.acc.op = .fe op v) (hr : ∀ ids, m.req ≠ .list ids)
    (hready : op.ready (isFull (s.task k) (m.acc.addr / 8)) = true) :
    serveFe s id m = sendAnswer (feServed s id k m op v)
      { req := m.req, station := m.srcStation, acc := m.acc, reply := feReply s m.acc op } := by
  have hspad : m.acc.spadTask = k := by rw [Acc.spadTask, h.home]
  have hop : (remoteWaiter m).acc.feOp = (op, v) := by rw [remoteWaiter, Acc.feOp, ho]
  have hserve := serve_last (y := remoteWaiter m) (h.joined_waiters id) h.alone rfl rfl rfl (h.joined_hasTask id)
    (by rw [joined_full s id k m _, hop]; exact hready) (by rw [hop]; exact h.steps id op v) (feDone_feWaiters _ _ _ _)
  refine (serveFe_of_serve hspad hserve).trans ?_
  rw [if_neg (by rw [← feServed, (h.performed id op v).waiters, h.not_waiting]; decide)]
  exact sendAll_one hr

theorem serveFe_waits {op : FeOp} {v : Nat} (ho : m.acc.op = .fe op v)
    (hready : op.ready (isFull (s.task k) (m.acc.addr / 8)) = false) :
    serveFe s id m = markAccepted (joined s id k m) m.req := by
  have hspad : m.acc.spadTask = k := by rw [Acc.spadTask, h.home]
  have hop : (remoteWaiter m).acc.feOp = (op, v) := by rw [remoteWaiter, Acc.feOp, ho]
  have hserve := serve_last_waits (y := remoteWaiter m) (h.joined_waiters id) h.alone rfl rfl rfl
    (by rw [joined_full s id k m _, hop]; exact hready)
  refine (serveFe_of_serve hspad hserve).trans ?_
  rw [if_pos (by rw [h.joined_waiters id]; simp)]
  rfl

end

/-! ### Rounds -/

/-- The part of a round that a contribution is. -/
def partOf (m : Msg) (lo hi v : Nat) : RoundPart := { lo, hi, v, req := m.req, station := m.srcStation, acc := m.acc }

theorem homeWrite_rounds (s : State) (fn : Nat) (h : Home) (addr : Nat) (bs : List (Option Byte)) :
    (homeWrite s fn h addr bs).rounds = s.rounds := by
  cases h with
  | spad t => rfl
  | hbm d => unfold homeWrite writePa; simp only; split <;> rfl
  | host j => unfold homeWrite writePa; simp only; split <;> rfl
  | window j => rfl

theorem countWrite_rounds (old new : State) (a : Acc) (l : List Nat) (net : Bool) :
    (countWrite old new a l net).rounds = new.rounds := by
  unfold countWrite
  split
  · split <;> rfl
  · rfl
  · rfl
  · rfl

theorem updated_rounds (s : State) (a : Acc) (v : Nat) : (updated s a v).rounds = s.rounds := by
  have hd : (doAtomic s a a.size v).rounds = s.rounds :=
    (countWrite_rounds _ _ _ _ _).trans (homeWrite_rounds _ _ _ _ _)
  unfold updated noteCode
  split <;> exact hd

section
variable {s : State} {m : Msg} {fn : AtomFn} {n lo hi v : Nat} (ha : AtHome s m) (ho : m.acc.op = .amor fn n lo hi v)
  (hnew : SMap.find (locKey m.acc.home m.acc.addr) s.rounds = none) (hlt : hi < n)
include ha ho hnew hlt

/-- A contribution that does not complete its round opens it. -/
theorem contribute_opens (hmore : hi - lo + 1 < n) : contribute s m.acc m.req m.srcStation =
    ({ s with
        rounds := SMap.put (locKey m.acc.home m.acc.addr) { acc := m.acc, fn, n, parts := [partOf m lo hi v] } s.rounds },
      []) := by
  simp [contribute, ho, hnew, ha.free, rangeFree, Nat.not_le.mpr hlt, insertPart, ranksIn, hmore, partOf]

/-- One that completes it at once has it applied. -/
theorem contribute_completes (hall : hi - lo + 1 = n) : contribute s m.acc m.req m.srcStation =
    ({ updated s m.acc (atomOp fn (8 * m.acc.size) (homeRead s m.acc.home m.acc.addr m.acc.size) v) with
        rounds := SMap.del (locKey m.acc.home m.acc.addr) s.rounds },
      [{ req := m.req, station := m.srcStation, acc := m.acc, reply := if m.acc.nr then .ack false
          else .data (homeRead s m.acc.home m.acc.addr m.acc.size) }]) := by
  have hs : stampCheck s m.acc = .ok s := stampSectors_free _ ha.free
  have hg : logAccess s m.acc = .go s := by simp [logAccess, needsRecord, ha.unlogged]
  have hrounds := updated_rounds s m.acc (atomOp fn (8 * m.acc.size) (homeRead s m.acc.home m.acc.addr m.acc.size) v)
  unfold updated at hrounds ⊢
  simp [contribute, ho, hnew, ha.free, rangeFree, Nat.not_le.mpr hlt, insertPart, ranksIn, hall, ha.sound, performRound,
    stampParts, hs, hg, applyParts, RoundPart.answer, hrounds]

end

/-- The response that carries an answer. -/
theorem sendAnswer_message (s : State) (a : Answer) :
    ∃ n, SMap.find s.nextMsg (sendAnswer s a).net = some n ∧ n.chan = 2
    ∧ n.reply = some a.reply ∧ n.req = a.req ∧ n.acc = a.acc ∧ n.dstStation = a.station
    ∧ n.srcStation = homeStation s a.acc.home :=
  ⟨_, SMap.find_put_same _ _ _, rfl, rfl, rfl, rfl, rfl, rfl⟩

/-- A request taken from the network and answered at once. -/
theorem answered_keepImage (u : State) (id : Nat) (m : Msg) (r : Reply) :
    Answered (keepImage u m.acc.home) (keepImage (sendAnswer (dropMsg u id)
      { req := m.req, station := m.srcStation, acc := m.acc, reply := r }) m.acc.home) id m r := by
  have hnet : (keepImage u m.acc.home).net = u.net := by rw [keepImage_outside]
  have hnext : (keepImage u m.acc.home).nextMsg = u.nextMsg := by rw [keepImage_outside]
  have hstation : homeStation (keepImage u m.acc.home) m.acc.home = homeStation u m.acc.home := by
    unfold homeStation
    cases m.acc.home with
    | spad p => exact congrArg dieStation (keepImage_task (f := Task.die) (by exact fun _ _ => rfl) u _ p)
    | hbm d => rfl
    | host j => rfl
    | window j => rfl
  have hsent : keepImage (sendAnswer (dropMsg u id) { req := m.req, station := m.srcStation, acc := m.acc, reply := r })
      m.acc.home = { keepImage u m.acc.home with
        net := (sendAnswer (dropMsg u id) { req := m.req, station := m.srcStation, acc := m.acc, reply := r }).net,
        nextMsg := u.nextMsg + 1, entered := u.entered + 1 } :=
    keepImage_net u m.acc.home _ _ _
  rw [hsent]
  refine ⟨?_, fun j hj => ?_, by rw [hnext], rfl⟩
  · rw [hnext, hstation]
    exact sendAnswer_message (dropMsg u id) _
  rw [hnext] at hj
  rw [hnet]
  refine (SMap.find_put_other hj _ _).trans ?_
  by_cases hid : j = id
  · rw [if_pos hid, hid]
    exact SMap.find_del_same _ _
  · rw [if_neg hid]
    exact SMap.find_del_other hid _

section
variable {s : State} {k v : Nat} {m : Msg} (h : FeAlone s k m) (harr : Arrived s m 0) (hat : AtHome s m)
include h harr hat

/-- The request performs, and its answer goes back. -/
theorem execFullEmptyRequest_performs {op : FeOp} (ho : m.acc.op = .fe op v)
    (hready : op.ready (isFull (s.task k) (m.acc.addr / 8)) = true) :
    ∃ t, exec .fullEmptyRequest s = .next t ∧ (t.task k).feWaiters = (s.task k).feWaiters
      ∧ (t.task k).spad = (feMovedTask m.acc op v (s.task k)).spad
      ∧ isFull (t.task k) (m.acc.addr / 8) = op.after (isFull (s.task k) (m.acc.addr / 8))
      ∧ (∃ n, SMap.find s.nextMsg t.net = some n ∧ n.chan = 2 ∧ n.reply = some (feReply s m.acc op) ∧ n.req = m.req
        ∧ n.dstStation = m.srcStation)
      ∧ ∀ j, j ≠ s.nextMsg → SMap.find j t.net = SMap.find j (SMap.del s.sel.msg s.net) := by
  have hp := h.performed s.sel.msg op v
  have hex := execFullEmptyRequest_serves harr hat ho
  rw [serveFe_performs h _ ho harr.single hready] at hex
  refine ⟨_, hex, ?_, ?_, ?_, ?_, fun j hj => ?_⟩
  · exact (keepImage_task (f := Task.feWaiters) (by exact fun _ _ => rfl) _ _ k).trans hp.waiters
  · exact (keepImage_task (f := Task.spad) (by exact fun _ _ => rfl) _ _ k).trans hp.spad
  · exact (keepImage_task (f := fun x => isFull x _) (by exact fun _ _ => rfl) _ _ k).trans hp.full
  · rw [keepImage_outside]
    obtain ⟨n, hn, hc, hr, hq, -, hd, -⟩ := sendAnswer_message (feServed s s.sel.msg k m op v)
      { req := m.req, station := m.srcStation, acc := m.acc, reply := feReply s m.acc op }
    exact ⟨n, hn, hc, hr, hq, hd⟩
  · rw [keepImage_outside]
    exact SMap.find_put_other hj _ _

/-- The request waits at its word. -/
theorem execFullEmptyRequest_waits {op : FeOp} (ho : m.acc.op = .fe op v)
    (hready : op.ready (isFull (s.task k) (m.acc.addr / 8)) = false) :
    ∃ t, exec .fullEmptyRequest s = .next t ∧ (t.task k).feWaiters = (s.task k).feWaiters ++ [remoteWaiter m]
      ∧ isFull (t.task k) (m.acc.addr / 8) = isFull (s.task k) (m.acc.addr / 8) ∧ t.nextMsg = s.nextMsg
      ∧ t.net = SMap.del s.sel.msg s.net := by
  have hex := execFullEmptyRequest_serves harr hat ho
  rw [serveFe_waits h _ ho hready] at hex
  refine ⟨_, hex, ?_, ?_, ?_, ?_⟩
  · refine (keepImage_task (f := Task.feWaiters) (by exact fun _ _ => rfl) _ _ k).trans ?_
    exact (markAccepted_task (f := Task.feWaiters) (by exact fun _ _ => rfl) _ _ k).trans (h.joined_waiters _)
  · refine (keepImage_task (f := fun x => isFull x _) (by exact fun _ _ => rfl) _ _ k).trans ?_
    exact (markAccepted_task (f := fun x => isFull x _) (by exact fun _ _ => rfl) _ _ k).trans (joined_full s _ k m _)
  · rw [keepImage_outside, markAccepted_outside]
    rfl
  · rw [keepImage_outside, markAccepted_outside]
    rfl

end

section
variable {s : State} {m : Msg} {fn : AtomFn} {n lo hi v : Nat} (harr : Arrived s m 0) (ha : AtHome s m)
  (ho : m.acc.op = .amor fn n lo hi v) (hnew : SMap.find (locKey m.acc.home m.acc.addr) s.rounds = none) (hlt : hi < n)
include harr ha ho hnew hlt

omit harr ha ho hnew hlt in
/-- A contribution that leaves no round is answered, and its request is gone. -/
theorem serveAmor_answers {u : State} {a : Answer} {id : Nat} (hc : contribute s m.acc m.req m.srcStation = (u, [a]))
    (hgone : SMap.find (locKey m.acc.home m.acc.addr) u.rounds = none) (hr : ∀ ids, a.req ≠ .list ids) :
    serveAmor s id m = sendAnswer (dropMsg u id) a := by
  simp [serveAmor, hc, hgone, sendAll_one hr]

/-- The contribution stands in its new round, and its request is gone. -/
theorem execAmorContribution_opens (hmore : hi - lo + 1 < n) :
    ∃ t, exec .amorContribution s = .next t ∧ SMap.find s.sel.msg t.net = none ∧ t.nextMsg = s.nextMsg ∧ t.mem = s.mem
      ∧ SMap.find (locKey m.acc.home m.acc.addr) t.rounds =
        some { acc := m.acc, fn, n, parts := [partOf m lo hi v] } := by
  have hex := execAmorContribution_serves harr ha ho
  have hserve : serveAmor s s.sel.msg m = dropMsg (markAccepted { s with
      rounds := SMap.put (locKey m.acc.home m.acc.addr) { acc := m.acc, fn, n, parts := [partOf m lo hi v] } s.rounds } m.req)
      s.sel.msg := by
    simp [serveAmor, contribute_opens ha ho hnew hlt hmore, sendAll, sendAnswers, partOf]
  rw [hserve] at hex
  refine ⟨_, hex, ?_, ?_, ?_, ?_⟩ <;> rw [keepImage_outside]
  · exact SMap.find_del_same _ _
  · rw [dropMsg, markAccepted_outside]
  · rw [dropMsg, markAccepted_outside]
  · rw [dropMsg, markAccepted_outside]
    exact SMap.find_put_same _ _ _

/-- The round is full at once: it is applied, and the contribution answered. -/
theorem execAmorContribution_completes (hall : hi - lo + 1 = n) :
    ∃ t, exec .amorContribution s = .next t
      ∧ Answered (keepImage { updated s m.acc
          (atomOp fn (8 * m.acc.size) (homeRead s m.acc.home m.acc.addr m.acc.size) v) with
          rounds := SMap.del (locKey m.acc.home m.acc.addr) s.rounds } m.acc.home) t s.sel.msg m
        (if m.acc.nr then .ack false else .data (homeRead s m.acc.home m.acc.addr m.acc.size)) := by
  have hex := execAmorContribution_serves harr ha ho
  rw [serveAmor_answers (contribute_completes ha ho hnew hlt hall) (SMap.find_del_same _ _) harr.single] at hex
  exact ⟨_, hex, answered_keepImage _ _ _ _⟩

end

/-- Settles O39: a full/empty request that performs and one that waits, a contribution that opens a round and one that
completes it. -/
theorem waitersAndRounds : Obligations.WaitersAndRounds := by
  unfold Obligations.WaitersAndRounds
  constructor
  · intro m k v s harr hat hh hlow hw hbad
    have hT : s.hasTask k = true := by simpa [hh, homeGone] using hat.exists_
    have h : FeAlone s k m := ⟨hh, hT, hat.free, hat.unlogged, hlow, hbad, hw⟩
    refine ⟨fun ho => ?_, fun ho hfull => ?_, fun ho hfull => ?_⟩
    · obtain ⟨t, ht, hwait, hspad, hbit, ⟨n, hn, hc, -⟩, hrest⟩ := execFullEmptyRequest_performs h harr hat ho rfl
      refine ⟨t, ht, fun hm => ?_, hspad, hbit, hwait⟩
      by_cases hid : s.sel.msg = s.nextMsg
      · rw [hid, hn] at hm
        cases hm
        exact absurd (hc.symm.trans harr.chan) (by decide)
      · rw [hrest _ hid, SMap.find_del_same] at hm
        cases hm
    · obtain ⟨t, ht, -, hspad, hbit, ⟨n, hn, -, hr, hq, hd⟩, -⟩ := execFullEmptyRequest_performs h harr hat ho hfull
      refine ⟨t, ht, hbit, hspad, n, hn, ?_, hq, hd⟩
      rw [hr, feReply, hh, homeRead, hlow]
      rfl
    · obtain ⟨t, ht, hwait, hbit, hnext, hnet⟩ := execFullEmptyRequest_waits h harr hat ho hfull
      exact ⟨t, ht, by rw [hnet]; exact SMap.find_del_same _ _, hnext, hwait, hbit.trans hfull⟩
  · intro fn n lo hi v m s harr hat ho key hnew hle hlt
    exact ⟨execAmorContribution_opens harr hat ho hnew hlt, execAmorContribution_completes harr hat ho hnew hlt⟩

end Sys2Proof.Machine
end

section
/-!
PROOFS. Loads of a peer window where two tasks of a launch stand at one position (R102, R107, R219).
-/
namespace Sys2Proof.Machine
open Sys2Proof.Tests

/-- The load of semaphore 255 of the peer window of (0, 0), whose address `twins` holds in g3. -/
def twinLoad : Instr := .ldw 4 3 15 0

theorem twins_ready : Ready twins [4, 3] ∧ Clean twins [3] := ⟨by unfold Ready; decide, by unfold Clean Sound; decide⟩

/-- As the instruction begins, the window of (0, 0) is task 3's. -/
theorem twins_read : placeOf twins twins.sel.task (regs twins).her true (me twins).walkFault
    ((regs twins).gr (3 : Reg).toNat + (0 : BitVec 8).signExtend 64 * 4) 4 .read =
      .ok { home := .spad 3, addr := 0x7003FC } := by
  decide +kernel

/-- In its turn task 1 is put in its place in the order of keys, so the window becomes its own: no message leaves. -/
theorem twins_loadsOwn : after twinLoad twins (fun t => (SMap.find twins.nextMsg t.net).isNone) = true := by
  decide +kernel

/-- Refutes O16, in its clause on a load of another home: with two tasks of the launch at one position, kept in a list
out of the order of its keys, the address names the peer before the step and the own task within it, so the load
performs at once and no request leaves. -/
theorem not_accessLeavesOrTraps : ¬ Obligations.AccessLeavesOrTraps := by
  unfold Obligations.AccessLeavesOrTraps
  rintro ⟨⟨hload, -⟩, -⟩
  obtain ⟨hruns, -, -, -, hfree, hquiet, hbuf⟩ := twins_runs
  obtain ⟨hready, hclean⟩ := twins_ready
  obtain ⟨t, ht, hleaves, -⟩ := hload twinLoad 4 3 15 4 true _ { home := .spad 3, addr := 0x7003FC } twins rfl nofun
    hruns hready hclean hfree hquiet (by decide) twins_read (by decide) hbuf
  obtain ⟨m, hm, -⟩ := hleaves.message
  have hnone := twins_loadsOwn
  unfold after at hnone
  rw [ht] at hnone
  simp only [hm, Option.isNone_some, Bool.false_eq_true] at hnone

/-! ### A load that waits there -/

/-- `twins` with an access of class 15 of the strand on its way. -/
def busyTwins : State :=
  let s := withStrand ws (fun x => { x with
    r := { x.r with g := SMap.set 0 x.r.g 3 (w64 (0x10000000000 + 0x7003FC)) }, outs := [outOf 15] })
  { s with tasks := s.tasks.reverse }

theorem busyTwins_runs : Runs busyTwins ∧ FreeLaunch busyTwins ∧ (me busyTwins).reports = [] ∧ Ready busyTwins [4, 3]
    ∧ Clean busyTwins [3] :=
  ⟨by constructor <;> decide +kernel, by constructor <;> decide +kernel, by decide +kernel,
    by unfold Ready; decide +kernel, by unfold Clean Sound; decide +kernel⟩

theorem busyTwins_read : placeOf busyTwins busyTwins.sel.task (regs busyTwins).her true (me busyTwins).walkFault
    ((regs busyTwins).gr (3 : Reg).toNat + (0 : BitVec 8).signExtend 64 * 4) 4 .read =
      .ok { home := .spad 3, addr := 0x7003FC } := by
  decide +kernel

theorem busyTwins_heldBack : HeldBack busyTwins (15 : BitVec 4).toNat { home := .spad 3, addr := 0x7003FC } false :=
  .inl ⟨outOf 15, by decide +kernel, .inl rfl⟩

/-- The wait names the address in the own window, which task 1 has once it is in its place. -/
theorem busyTwins_waits : after twinLoad busyTwins (fun t => ((me t).wait.map (·.object)) == some 0x7003FC) = true := by
  decide +kernel

/-- Refutes O19, in its clause on a held load: with two tasks of the launch at one position, kept in a list out of the
order of its keys, the address is the peer's before the step and the own task's within it, so the wait names the other
form of the address. -/
theorem not_orderingPoints : ¬ Obligations.OrderingPoints := by
  unfold Obligations.OrderingPoints
  rintro ⟨-, h⟩
  obtain ⟨hruns, hfree, hrep, hready, hclean⟩ := busyTwins_runs
  obtain ⟨hload, -⟩ := h twinLoad { home := .spad 3, addr := 0x7003FC } busyTwins hruns hfree hrep
  obtain ⟨t, ht, hwaits, -⟩ := hload 4 3 15 4 true _ rfl nofun hready hclean (by decide +kernel) busyTwins_read
    busyTwins_heldBack
  obtain ⟨x, hx, -, hobj⟩ := hwaits.wait
  have hown := busyTwins_waits
  unfold after at hown
  rw [ht] at hown
  simp only [hx, Option.map_some, hobj, beq_iff_eq, Option.some.injEq] at hown
  exact absurd hown (by decide +kernel)

end Sys2Proof.Machine
end

section
/-!
PROOFS. Answers at a strand: data retire a parked access, an acknowledgement and a fault end one that parks no strand, and a
redirect sends the access again (R123, R125, R219, R366, R368).
-/
namespace Sys2Proof.Machine

/-! ### Taking the response -/

/-- A response that the step is for reaches the access it answers. -/
theorem takeResponse_answers {s : State} {m : Msg} {r : Reply} {p : Party} {o : Outstanding} (h : Answers s m r p o)
    {want : Msg → Reply → Bool} (hw : want m r = true) :
    takeResponse s want = strandReply (dropMsg s s.sel.msg) p.task p.strand o.id r := by
  have hT : (dropMsg s s.sel.msg).hasTask p.task = true := h.task
  simp [takeResponse, h.found, h.reply, h.chan, hw, h.order, applyReply, h.req, h.strand, hT]

/-- The access is found where the message is gone from the network. -/
theorem Answers.found_dropped {s : State} {m : Msg} {r : Reply} {p : Party} {o : Outstanding} (h : Answers s m r p o) :
    ((dropMsg s s.sel.msg).strand p.task p.strand).outs.find? (fun x => x.id == o.id) = some o := h.first

/-! ### What an answer changes of the task -/

/-- The access is over, and the registers are as the answer leaves them. -/
def answeredStrand (o : Outstanding) (f : StrandRegs → StrandRegs) (x : Strand) : Strand :=
  { x with outs := x.outs.filter (fun q => q.id != o.id), r := f x.r }

/-- The task once strand `k` has its answer; what came in a register is on its way to the guard (R392). -/
def answeredTask (k : Nat) (o : Outstanding) (f : StrandRegs → StrandRegs) (y : Task) : Task :=
  (y.modStrand k (answeredStrand o f)).feedDest k o.dest (f (y.strand k).r)

/-- Values on their way to the guard are all that feeding it changes. -/
theorem feedDest_eq (y : Task) (k : Nat) (d : Option Dest) (r : StrandRegs) :
    y.feedDest k d r = { y with lvq := (y.feedDest k d r).lvq } := by
  cases d with
  | none => rfl
  | some d =>
    refine List.foldlRecOn (motive := fun z : Task => z = { y with lvq := z.lvq }) _ _ rfl ?_
    intro z hz g _
    split
    · exact hz
    · rw [Task.feed, hz]

theorem answeredTask_eq (k : Nat) (o : Outstanding) (f : StrandRegs → StrandRegs) (y : Task) :
    answeredTask k o f y = { y.modStrand k (answeredStrand o f) with lvq := (answeredTask k o f y).lvq } :=
  feedDest_eq _ _ _ _

theorem answeredTask_strand (k : Nat) (o : Outstanding) (f : StrandRegs → StrandRegs) (y : Task) :
    (answeredTask k o f y).strand k = answeredStrand o f (y.strand k) := by
  rw [answeredTask_eq]
  exact Task.strand_modStrand_same _ _ _

/-- An answer of the strand's own registers that the strand waits for, or that brings no value. -/
theorem giveReply_eq {o : Outstanding} (hs : o.forSaved = false) (hp : o.parks = true ∨ o.dest = none) (s : State) (t k : Nat)
    (f : StrandRegs → StrandRegs) : giveReply s t k o f = s.modTask t (answeredTask k o f) := by
  have hlate : (if o.parks then none else o.dest.map (·.reg)) = none := by
    rcases hp with h | h
    · rw [h]; rfl
    · rw [h]; split <;> rfl
  unfold giveReply
  simp only [hs, hlate, Bool.false_eq_true, if_false, State.modStrand, State.modTask_modTask, Task.modStrand_modStrand,
    Task.strand_modStrand_same]
  rfl

/-! ### Retiring the parked instruction -/

/-- A side effect of a strand, in replay or not: the pair agrees at it. -/
theorem retireAs_agrees {s : State} {t k : Nat} (h : s.hasTask t = true) (hm : (s.task t).dbgctl.getLsbD 0 = false)
    (len : Nat) (pushes logged : Bool) (next : Next) :
    retireAs s t k len pushes logged true next = guardAgree (retireAs s t k len pushes logged false next) t k := by
  obtain ⟨-, -, hT, htask, -⟩ := retireAs_frame (k := k) h hm len pushes logged next
  have hoff := retireAs_off (k := k) h hm len pushes logged next
  have hq : shortOfFault ((afterNext s t k len next).1.task t) k = shortOfFault (s.task t) k := by
    rw [afterNext_task h]; rfl
  rw [retireAs_eq]
  simp only [hq, if_true, ← hoff]
  generalize retireAs s t k len pushes logged false next = q at hT htask ⊢
  refine stepStop_off ?_
  rw [guardAgree_task hT, agreeTask_eq, htask]
  exact hm

/-- `t` is `s` where an instruction of the strand has retired: the network stands, the strand's accesses too, and of its
registers only the pc is another. -/
structure RetiredIn (s t : State) (T K : Nat) (pc : Word) : Prop where
  net : t.net = s.net
  outs : (t.strand T K).outs = (s.strand T K).outs
  regs : (t.strand T K).r = { (s.strand T K).r with pc := pc }

/-- Where no loop ends, the strand falls through. -/
theorem retireAs_falls {s : State} {t k : Nat} (h : s.hasTask t = true) (hm : (s.task t).dbgctl.getLsbD 0 = false)
    (hl : ((s.strand t k).r.hnd || (s.strand t k).r.her) = true ∨ loopAt (s.task t) k (s.strand t k).r.pc = none)
    (len : Nat) (pushes logged side : Bool) :
    RetiredIn s (retireAs s t k len pushes logged side .fall) t k ((s.strand t k).r.pc + w64 (4 * len)) := by
  obtain ⟨hout, -, hT, -, -, -, hself⟩ := retireAs_frame (k := k) h hm len pushes logged .fall
  have hfalls : RetiredIn s (retireAs s t k len pushes logged false .fall) t k ((s.strand t k).r.pc + w64 (4 * len)) :=
    ⟨by rw [hout], by rw [hself]; rfl, by rw [hself, (afterNext_fall h len hl).2]; rfl⟩
  cases side with
  | false => exact hfalls
  | true =>
    rw [retireAs_agrees h hm]
    generalize retireAs s t k len pushes logged false .fall = q at hT hfalls
    have hst : (guardAgree q t k).strand t k = _ :=
      (congrArg (·.strand k) (guardAgree_task hT k)).trans (agreeTask_strand_same k (q.task t))
    refine ⟨?_, by rw [hst]; exact hfalls.outs, by rw [hst]; exact hfalls.regs⟩
    rw [guardAgree_eq, ← hfalls.net]
    split <;> rfl

/-! ### The answers -/

/-- A reply's value comes to g registers only. -/
theorem keepsControl_writeDest (d : Dest) (v : Nat) : keepsControl (fun r => writeDest r d v) := by
  intro r
  unfold writeDest
  cases d.hi <;> simp

section
variable {s : State} {m : Msg} {p : Party} {o : Outstanding}

/-- Data retire a parked instruction, its registers as the reply's value leaves them. -/
theorem execDataResponse_retires {v : Nat} {d : Dest} (h : Answers s m (.data v) p o) (hd : o.dest = some d)
    (hp : o.parks = true) (hs : o.forSaved = false) (hlive : (s.strand p.task p.strand).live = true)
    (hm : (s.task p.task).dbgctl.getLsbD 0 = false)
    (hl : ((s.strand p.task p.strand).r.hnd || (s.strand p.task p.strand).r.her) = true
      ∨ loopAt (s.task p.task) p.strand (s.strand p.task p.strand).r.pc = none) :
    ∃ t, exec .dataResponse s = .next t ∧ SMap.find s.sel.msg t.net = none
      ∧ (t.strand p.task p.strand).outs = outsWithout s p o
      ∧ (t.strand p.task p.strand).r = { writeDest (s.strand p.task p.strand).r d v with
          pc := (s.strand p.task p.strand).r.pc + w64 (4 * o.ilen) } := by
  let f : StrandRegs → StrandRegs := fun r => writeDest r d v
  let u := (dropMsg s s.sel.msg).modTask p.task (answeredTask p.strand o f)
  have htask : u.task p.task = answeredTask p.strand o f (s.task p.task) :=
    State.task_modTask_same (show (dropMsg s s.sel.msg).hasTask p.task = true from h.task) _
  have hst : u.strand p.task p.strand = answeredStrand o f (s.strand p.task p.strand) :=
    (congrArg (·.strand p.strand) htask).trans (answeredTask_strand _ _ _ _)
  have hloops : ∀ a, loopAt (u.task p.task) p.strand a = loopAt (s.task p.task) p.strand a := fun a => by
    rw [htask, answeredTask_eq]; rfl
  obtain ⟨hpc, hhnd, hher⟩ := keepsControl_writeDest d v (s.strand p.task p.strand).r
  have hr := retireAs_falls (s := u) (t := p.task) (k := p.strand) ((State.hasTask_modTask _ _ _ _).trans h.task)
    (by rw [htask, answeredTask_eq]; exact hm)
    (by rw [hst, hloops]; simpa [answeredStrand, f, hpc, hhnd, hher] using hl) o.ilen false true (sideAccess o.acc)
  have hex : exec .dataResponse s =
      .next (retireAs u p.task p.strand o.ilen false true (sideAccess o.acc) .fall) := by
    show execDataResponse s = _
    rw [execDataResponse, takeResponse_answers h rfl]
    unfold strandReply
    simp only [h.found_dropped, hd]
    unfold settle
    rw [giveReply_eq hs (.inl hp)]
    have hul : (u.strand p.task p.strand).live = true := by rw [hst]; exact hlive
    simp only [u, f] at hul
    simp only [hul, hp, hs, Bool.not_true, Bool.or_self, Bool.false_eq_true, if_false]
    rfl
  refine ⟨_, hex, ?_, ?_, ?_⟩
  · rw [hr.net]; exact SMap.find_del_same _ _
  · rw [hr.outs, hst]; rfl
  · rw [hr.regs, hst]
    show ({ writeDest _ d v with pc := (writeDest _ d v).pc + _ } : StrandRegs) = _
    rw [hpc]

/-- The state once an access for which no strand parks is over without a value. -/
def endedAccess (s : State) (p : Party) (o : Outstanding) : State :=
  (dropMsg s s.sel.msg).modTask p.task (answeredTask p.strand o id)

theorem endedAccess_hasTask {r : Reply} (h : Answers s m r p o) : (endedAccess s p o).hasTask p.task = true :=
  (State.hasTask_modTask _ _ _ _).trans h.task

theorem endedAccess_strand {r : Reply} (h : Answers s m r p o) : (endedAccess s p o).strand p.task p.strand =
    { s.strand p.task p.strand with outs := outsWithout s p o } :=
  (congrArg (·.strand p.strand)
    (State.task_modTask_same (show (dropMsg s s.sel.msg).hasTask p.task = true from h.task) _)).trans
    (answeredTask_strand _ _ _ _)

theorem execAcknowledgement_ends (h : Answers s m (.ack false) p o) (hp : o.parks = false) (hd : o.dest = none)
    (hs : o.forSaved = false) : exec .acknowledgement s = .next (endedAccess s p o) := by
  show execAcknowledgement s = _
  rw [execAcknowledgement, takeResponse_answers h rfl]
  unfold strandReply
  simp only [h.found_dropped]
  unfold settle
  rw [giveReply_eq hs (.inr hd)]
  simp only [hp, Bool.not_false, Bool.true_or, if_true]
  rfl

/-- The fault of an access for which no strand parks is kept for the next ordering point, whichever event it comes by. -/
theorem takeResponse_reports {tr : Trap} (h : Answers s m (.fault tr) p o) (hp : o.parks = false) (hd : o.dest = none)
    (hs : o.forSaved = false) {want : Msg → Reply → Bool} (hw : want m (.fault tr) = true) :
    (takeResponse s want).strand p.task p.strand = { s.strand p.task p.strand with
      outs := outsWithout s p o,
      reports := (s.strand p.task p.strand).reports ++ [{ pc := o.pc, ilen := o.ilen, trap := tr }] } := by
  have hreport : takeResponse s want =
      reportFault (endedAccess s p o) p.task p.strand { pc := o.pc, ilen := o.ilen, trap := tr } := by
    rw [takeResponse_answers h hw]
    unfold strandReply
    simp only [h.found_dropped]
    unfold strandFault
    rw [giveReply_eq hs (.inr hd)]
    simp only [hd, hp, Option.filter_none, Bool.false_eq_true, if_false]
    rfl
  rw [hreport, reportFault, State.strand_modStrand_same (endedAccess_hasTask h), endedAccess_strand h]

/-- A redirected access is marked and goes out again to its new home. -/
theorem execRedirect_sendsAgain {home : Home} (h : Answers s m (.redirect home) p o) :
    ∃ t, exec .redirect s = .next t
      ∧ (t.strand p.task p.strand).outs =
        (s.strand p.task p.strand).outs.map (fun y => if y.id = o.id then { y with reissued := true } else y)
      ∧ (∃ n, SMap.find s.nextMsg t.net = some n ∧ n.chan = 0 ∧ n.acc = { o.acc with home := home }
        ∧ n.reply = none) := by
  have hex : exec .redirect s = .next (strandReply (dropMsg s s.sel.msg) p.task p.strand o.id (.redirect home)) :=
    congrArg _ (takeResponse_answers h rfl)
  unfold strandReply at hex
  simp only [h.found_dropped] at hex
  refine ⟨_, hex, ?_, _, SMap.find_put_same _ _ _, rfl, rfl, rfl⟩
  have hT : (dropMsg s s.sel.msg).hasTask p.task = true := h.task
  exact congrArg Strand.outs (State.strand_modStrand_same hT p.strand _)

end

/-- Settles O40, an event at a time: each clause is the event's own lemma. -/
theorem answersArrive : Obligations.AnswersArrive := by
  unfold Obligations.AnswersArrive
  intro m p o s k x
  refine ⟨fun v d h hd hhi hp hs hlive hm hl => ?data, fun h hp hd hs => ?ack, fun tr h hnr hc hp hd hs => ?fault,
    fun tr h hc hp hd hs => ?link, fun home h => execRedirect_sendsAgain h⟩
  case data =>
    obtain ⟨t, ht, hnet, houts, hregs⟩ := execDataResponse_retires h hd hp hs hlive hm hl
    refine ⟨t, ht, hnet, houts, by rw [hregs], fun n => ?_⟩
    rw [hregs]
    simp only [writeDest, hhi]
    exact StrandRegs.gr_setG _ _ _ _
  case ack =>
    exact ⟨_, execAcknowledgement_ends h hp hd hs, SMap.find_del_same _ _, endedAccess_strand h⟩
  case fault => exact ⟨_, rfl, takeResponse_reports h hp hd hs (by simp [hnr, hc])⟩
  case link => exact ⟨_, rfl, takeResponse_reports h hp hd hs (by simp [hc])⟩

end Sys2Proof.Machine
end

section
/-!
PROOFS. What a strand that traps keeps: its scratchpad and its registers, which FORWARD saves (R174, R178, R179, R247).
-/
namespace Sys2Proof.Machine

/-! ### What a trap leaves -/

/-- `y` is `x` once strand `k` has trapped: the scratchpad is as before, and so are the strand's g registers, where a handler
has taken its slot in what is saved of them. -/
structure TrapSpares (k : Nat) (x y : Task) : Prop where
  spad : y.spad = x.spad
  regs : ∀ n, ((y.strand k).saved.getD (y.strand k).r).gr n = (x.strand k).r.gr n

theorem trapped_spares {s : State} {t : Nat} (h : s.hasTask t = true) (k : Nat) (tr : Trap) (tpc : Word) (ilen : Nat)
    (bs : List Byte) :
    ((trapped s t k tr tpc ilen bs).task t).spad = (s.task t).spad
      ∧ ((trapped s t k tr tpc ilen bs).strand t k).saved = (s.strand t k).saved
      ∧ ∀ n, ((trapped s t k tr tpc ilen bs).strand t k).r.gr n = (s.strand t k).r.gr n := by
  unfold State.strand trapped State.modStrand
  simp only [State.modTask_modTask]
  rw [State.task_modTask_same h, guardCatch_strand, Task.strand_modStrand_same, Task.strand_modStrand_same]
  exact ⟨rfl, rfl, fun _ => rfl⟩

/-- The strand's registers stand where they were, and nothing is saved of them. -/
theorem TrapSpares.of_strand {k : Nat} {x y : Task} {z : Strand} (hspad : y.spad = x.spad) (hst : y.strand k = z)
    (hs : z.saved = none) (hr : z.r = (x.strand k).r) : TrapSpares k x y :=
  ⟨hspad, fun n => by rw [hst, hs, hr]; rfl⟩

/-- A sync point is taken of the strand's registers and changes none. -/
theorem TrapSpares.syncStrand {k : Nat} {x y : Task} (h : TrapSpares k x y) : TrapSpares k x (y.syncStrand k) := by
  have hst : (y.syncStrand k).strand k = (({ y.strand k with guard := (y.strand k).r } : Strand).syncNow y.loops) := by
    unfold Task.syncStrand
    rw [Task.strand_modStrand_same, guardCatch_strand, Task.strand_modStrand_same]
  refine ⟨h.spad, fun n => ?_⟩
  rw [hst]
  exact h.regs n

/-- Every action leaves them, KILL the registers of a strand that is not live any more, FORWARD in what is saved (R178,
R179). -/
theorem applyAction_spares {s : State} {t : Nat} (h : s.hasTask t = true) {k : Nat} (hs : (s.strand t k).saved = none)
    (tr : Trap) (tpc : Word) (a : Nat) : TrapSpares k (s.task t) ((applyAction s t k none tr tpc a).task t) := by
  unfold applyAction
  simp only
  split
  · exact .of_strand (by rw [killTask_task h]) (killTask_strand h k) rfl rfl
  · unfold noteReplay
    simp only [State.modStrand, State.modTask_modTask]
    rw [State.task_modTask_same h]
    exact .of_strand rfl
      (Task.strand_modStrand_same (s.task t) k (fun x => { x with lastReplay := some (tr.cause, tpc) })) hs rfl
  · split
    · rw [State.task_modTask_same h]
      exact .of_strand rfl rfl hs rfl
    · rw [(raiseEvent_core _ _ _).task, State.task_modTask_same h]
      exact .of_strand rfl rfl hs rfl
  · rw [startHandler_task h]
    refine TrapSpares.syncStrand ⟨rfl, fun n => ?_⟩
    rw [Task.strand_modStrand_same]
    rfl

/-- An action that waits for room in the scheduler log leaves them too (R169). -/
theorem decideAction_spares {s : State} {t : Nat} (h : s.hasTask t = true) {a : HeldAction} (hq : a.queue = none)
    (hs : (s.strand t a.strand).saved = none) :
    TrapSpares a.strand (s.task t) ((decideAction s t a).task t) := by
  unfold decideAction
  simp only [hq]
  split
  · have hc := slog_core s (s.task t).die (s.task t).launch 6 (s.task t).lcore ((s.task t).core?.getD 0)
      (a.trap.cause + 2 ^ 8 * a.action)
    have happly := applyAction_spares (k := a.strand) (by rw [hc.hasTask]; exact h)
      (by rw [State.strand, hc.task]; exact hs) a.trap a.tpc a.action
    rwa [hc.task] at happly
  · rw [(raiseEvent_core _ _ _).task, State.task_modTask_same h]
    exact .of_strand rfl rfl hs rfl

theorem takeTrap_spares {s : State} {t k : Nat} (h : s.hasTask t = true) (hs : (s.strand t k).saved = none) (tr : Trap)
    (tpc : Word) (ilen : Nat) : TrapSpares k (s.task t) ((takeTrap s t k none tr tpc ilen).task t) := by
  obtain ⟨u, bs, hu, he⟩ := takeTrap_strand s t k tr tpc ilen []
  have huT : u.hasTask t = true := by rw [hu.hasTask]; simp [trapped, h]
  obtain ⟨hspad, hsaved, hregs⟩ := trapped_spares h k tr tpc ilen bs
  have hsaved' : (u.strand t k).saved = none := by rw [State.strand, hu.task]; exact hsaved.trans hs
  rw [he]
  have hd := decideAction_spares (a := HeldAction.mk k none tr tpc (actionOf s t ((s.strand t k).r.hnd
    || (s.strand t k).r.her) (isRepeated s t k none tr tpc) tr)) huT rfl hsaved'
  rw [hu.task] at hd
  exact ⟨hd.spad.trans hspad, fun n => (hd.regs n).trans (hregs n)⟩

/-- What the trap CSRs hold is the same of two states with the same launch, place, handler's address and strand. -/
theorem TrapHeld.of_same {s u t : State} {cause ilen : Nat} {tval : Word} {chk : Bool} (h : TrapHeld u t cause tval chk ilen)
    (hpc : pcOf u = pcOf s) (hst : statusWord (regs u) (myLaunch u) = statusWord (regs s) (myLaunch s))
    (hslot : recordSlot u u.sel.task = recordSlot s s.sel.task) (htvec : (myTask u).trap.tvec = (myTask s).trap.tvec) :
    TrapHeld s t cause tval chk ilen :=
  ⟨h.tcause, h.tpc.trans hpc, h.tval, h.tstatus.trans hst, h.trec.trans hslot, h.tvec.trans htvec⟩

/-- What stays when the pair agrees on an instruction's effect (R247). -/
theorem agreed_spares {u : State} (hT : u.hasTask u.sel.task = true) {w : State}
    (hw : w = guardAgree (begin_ u) u.sel.task u.sel.strand) :
    (w.task u.sel.task).spad = (myTask u).spad ∧ (w.task u.sel.task).vec = (myTask u).vec
      ∧ (w.strand u.sel.task u.sel.strand).saved = (me u).saved ∧ (w.strand u.sel.task u.sel.strand).r = regs u := by
  have hagree : w.task u.sel.task = agreeTask u.sel.strand (beginTask u.sel.strand (myTask u)) := by
    rw [hw, guardAgree_task (by simpa using hT)]
    exact congrArg _ (myTask_begin hT)
  unfold State.strand
  rw [hagree, agreeTask_strand_same, beginTask_strand, if_pos rfl]
  refine ⟨?_, ?_, ?_, ?_⟩
  · rw [agreeTask_eq]
    rfl
  · rw [agreeTask_eq]
    rfl
  · rfl
  · rfl

/-- A strand that traps behind the effect its pair has agreed on: what the trap CSRs hold, and what stays (R247). -/
theorem trapsBehind {u : State} (hT : u.hasTask u.sel.task = true) (hrep : (me u).replaying = false)
    (hh : (regs u).hnd = false) (hr : (regs u).her = false) (hsaved : (me u).saved = none) {tr : Trap}
    (hstage : tr.stage = false) (hres : tr.res = false) (ilen : Nat) {t : State}
    (ht : t = takeTrap (guardAgree (begin_ u) u.sel.task u.sel.strand) u.sel.task u.sel.strand none tr (pcOf u) ilen) :
    TrapHeld u t tr.cause tr.tval tr.chk ilen ∧ (myTask t).spad = (myTask u).spad ∧ (myTask t).vec = (myTask u).vec
      ∧ ∀ n, ((me t).saved.getD (regs t)).gr n = (regs u).gr n := by
  have hsees : TrapSees u (guardAgree (begin_ u) u.sel.task u.sel.strand) :=
    (TrapSees.begin_ hT).trans (.agree (by simpa using hT) (by rw [me_begin hT]; exact hrep))
  obtain ⟨hspad, hvec, hnone, hregs⟩ := agreed_spares hT rfl
  generalize guardAgree (begin_ u) u.sel.task u.sel.strand = w at *
  subst ht
  have hspares := takeTrap_spares hsees.hasTask (hnone.trans hsaved) tr (pcOf u) ilen
  obtain ⟨hsel, -, htvec, -⟩ := takeTrap_leaves hsees.hasTask u.sel.strand tr (pcOf u) ilen []
  refine ⟨hsees.held hh hr hstage hres ilen, ?_⟩
  unfold regs me myTask
  rw [hsel, hsees.sel]
  refine ⟨hspares.spad.trans hspad, htvec.trans hvec, fun n => (hspares.regs n).trans ?_⟩
  exact congrArg (StrandRegs.gr · n) hregs

end Sys2Proof.Machine
end

section
/-!
PROOFS. AMOX: the exact sum or a bound in the own window, the old word, and what a saturation comes to (R32, R233; log
entry 10).
-/
namespace Sys2Proof.Machine

/-! ### The sum -/

theorem amoxStep_exact {x : Nat} {j : Int} (h : -2 ^ 127 ≤ sintOf 128 x + j ∧ sintOf 128 x + j < 2 ^ 127) :
    amoxStep x j = (wrapNat 128 (sintOf 128 x + j), false) := by
  have hsat : xwSat (sintOf 128 x + j) = (sintOf 128 x + j, 0) := by
    unfold xwSat xwMin xwMax
    rw [if_neg (by omega), if_neg (by omega)]
  unfold amoxStep
  rw [hsat]
  rfl

theorem amoxStep_saturates {x : Nat} {j : Int} (h : sintOf 128 x + j < -2 ^ 127 ∨ 2 ^ 127 ≤ sintOf 128 x + j) :
    amoxStep x j = (if 2 ^ 127 ≤ sintOf 128 x + j then 2 ^ 127 - 1 else 2 ^ 127, true) := by
  unfold amoxStep
  by_cases hhigh : 2 ^ 127 ≤ sintOf 128 x + j
  · have hsat : xwSat (sintOf 128 x + j) = (xwMax, fXwOvf) := by
      unfold xwSat xwMin
      rw [if_neg (by omega), if_pos (by unfold xwMax; omega)]
    rw [hsat, if_pos hhigh]
    decide
  · have hsat : xwSat (sintOf 128 x + j) = (xwMin, fXwOvf) := by
      unfold xwSat
      rw [if_pos (by unfold xwMin; omega)]
    rw [hsat, if_neg hhigh]
    decide

/-! ### The instruction -/

/-- What a strand needs for an AMOX at a word of the own window. -/
structure AmoxReady (f : SR64) (s : State) : Prop where
  runs : Runs s
  ready : Ready s [f.d, f.k, f.a, f.b]
  clean : Clean s [f.a, f.b]
  free : FreeLaunch s
  quiet : Quiet s
  prompt : s.sel.lazy = false
  aligned : ((regs s).gr f.a.toNat).toNat % 16 = 0
  own : OwnBytes s ((regs s).gr f.a.toNat) 16
  sound : OwnSound s ((regs s).gr f.a.toNat) 16

/-- The word before. -/
def amoxOld (f : SR64) (s : State) : Nat := readNat (myTask s).spad ((regs s).gr f.a.toNat).toNat 16

/-- The word after, and whether the sum saturated. -/
def amoxNew (f : SR64) (s : State) : Nat × Bool := amoxStep (amoxOld f s) ((regs s).gr f.b.toNat).toInt

/-- What AMOX is answered. -/
def amoxReply (f : SR64) (s : State) : Reply :=
  if f.nr then .ack (amoxNew f s).2 else if (amoxNew f s).2 then .dataOvf (amoxOld f s) else .data (amoxOld f s)

/-- The old word in g[D] and g[K], unless nothing returns. -/
def amoxReturned (f : SR64) (v : Nat) (u : State) : State :=
  if f.nr then u else setReg (setReg u f.d (w64 v)) f.k (w64 (v / 2 ^ 64))

/-- The word stored. -/
def amoxStored (f : SR64) (s : State) : State := storeOwn s ((regs s).gr f.a.toNat) 16 (amoxNew f s).1

/-- The word and the registers once the AMOX has performed. -/
def amoxDone (f : SR64) (s : State) : State :=
  amoxReturned f (amoxOld f s) (amoxStored f s)

/-- What a saturation comes to, by the trap it would raise: the flag, a report or the trap (R233). -/
def amoxSaturated (f : SR64) (enabled : Option Trap) (u : State) : Next × State :=
  match enabled with
  | none => (.fall, withTask u (fun x => raiseFlags x u.sel.strand .vstat fXwOvf))
  | some tr =>
    if f.nr then
      (.fall, withStrand u (fun x => { x with reports := x.reports ++ [{ pc := pcOf u, ilen := 2, trap := tr }] }))
    else (.trapAfter tr, u)

theorem raiseFlags_beginTask (k : Nat) (x : Task) (flags : Nat) :
    raiseFlags (beginTask k x) k .vstat flags = beginTask k (raiseFlags x k .vstat flags) := by
  unfold raiseFlags
  dsimp only [FlagReg.write, FlagReg.join, FlagReg.read]
  refine Eq.trans ?_ (beginTask_modStrand k _ (fun _ => rfl) (fun _ => rfl))
  rfl

theorem amoxSaturated_begin (f : SR64) (enabled : Option Trap) {u : State} (hT : u.hasTask u.sel.task = true) :
    amoxSaturated f enabled (begin_ u) =
      ((amoxSaturated f enabled u).1, begin_ (amoxSaturated f enabled u).2) := by
  cases enabled with
  | none =>
    exact Prod.ext rfl (begin_modTask fun x => raiseFlags_beginTask _ x _)
  | some tr =>
    have hpc : pcOf (begin_ u) = pcOf u := by rw [pcOf, regs_begin hT]; rfl
    unfold amoxSaturated
    simp only
    rw [hpc]
    split
    · exact Prod.ext rfl (begin_modTask fun x => beginTask_modStrand _ x (fun _ => rfl) (fun _ => rfl))
    · rfl

theorem wr_begin {u : State} (hT : u.hasTask u.sel.task = true) {d : Reg} (hd : Ready u [d]) (v : Word) :
    wr d v (begin_ u) = .ok ((), begin_ (setReg u d v)) := by
  rw [M.wr_run (by rw [me_begin hT]; exact hd d (by simp)), ← setReg_begin]
  rfl

theorem FeKeeps.storeOwn {s : State} (hT : s.hasTask s.sel.task = true) (va : Word) (n v : Nat) :
    FeKeeps s (storeOwn s va n v) := by
  have hst : (myTask s).wake.strand s.sel.strand = woken (me s) := Task.wake_strand _ _
  exact .withTask hT rfl rfl ((congrArg Strand.notReady hst).trans rfl) ((congrArg Strand.replaying hst).trans rfl)

theorem FeKeeps.amoxReturned {u : State} (hT : u.hasTask u.sel.task = true) (f : SR64) (v : Nat) :
    FeKeeps u (amoxReturned f v u) := by
  unfold Machine.amoxReturned
  split
  · exact ⟨rfl, hT, rfl, rfl, rfl, rfl⟩
  · have h1 := FeKeeps.setReg hT f.d (w64 v)
    exact h1.trans (.setReg (by rw [h1.sel]; exact h1.hasTask) _ _)

section
variable {f : SR64} {s : State} (h : AmoxReady f s)
include h

theorem AmoxReady.stored : FeKeeps s (amoxStored f s) :=
  .storeOwn h.runs.hasTask _ _ _

theorem AmoxReady.me_stored : me (amoxStored f s) = woken (me s) := me_storeOwn h.runs.hasTask

theorem AmoxReady.stored_hasTask : (amoxStored f s).hasTask (amoxStored f s).sel.task = true := by
  rw [h.stored.sel]
  exact h.stored.hasTask

theorem AmoxReady.done : FeKeeps s (amoxDone f s) :=
  h.stored.trans (.amoxReturned h.stored_hasTask f _)

theorem AmoxReady.done_hasTask : (amoxDone f s).hasTask (amoxDone f s).sel.task = true := by
  rw [h.done.sel]
  exact h.done.hasTask

/-- The access performs as it issues. -/
theorem AmoxReady.performs {q : Ask} (hva : q.va = (regs s).gr f.a.toNat) (hsize : q.size = 16)
    (hop : q.op = .amox f.anch ((regs s).gr f.b.toNat).toInt) (hnr : q.nr = f.nr) (hr : q.remote = false) :
    issueAcc q (begin_ s) = .ok (.done (amoxReply f s), begin_ (amoxStored f s)) := by
  have hown : OwnBytes (begin_ s) q.va q.size := by rw [hva, hsize]; exact h.own.begin h.runs
  have hsound : OwnSound (begin_ s) q.va q.size := by rw [hva, hsize]; exact h.sound.begin h.runs
  have hread : homeRead (begin_ s) (.spad (begin_ s).sel.task) q.va.toNat 16 = amoxOld f s := by
    rw [hva, homeRead_own (h.own.begin h.runs) (by decide), myTask_begin h.runs.hasTask]
    rfl
  rw [issueAcc_own (h.free.begin h.runs) (h.quiet.begin h.runs) h.runs.passed_begin hown (by omega) h.prompt hr,
    performNow_own (h.free.begin h.runs) hsound]
  have heffect : accEffect (begin_ s) (ownAcc (begin_ s) q) =
      (doAtomic (begin_ s) (ownAcc (begin_ s) q) 16 (amoxNew f s).1, amoxReply f s) := by
    unfold accEffect
    simp only [ownAcc, hop, hnr, hread]
    rfl
  rw [heffect, doAtomic_own (va := (regs s).gr f.a.toNat) rfl (congrArg BitVec.toNat hva) (h.own.begin h.runs) (by decide)
    (h.sound.begin h.runs), storeOwn_begin]
  rfl

theorem AmoxReady.reads {r : Reg} (hr : r ∈ [f.a, f.b]) : rdOut r (begin_ s) = .ok ((regs s).gr r.toNat, begin_ s) := by
  refine rdOut_begin h.runs (fun x hx => h.ready x ?_) ⟨fun x hx => h.clean.1 x ?_, fun x hx => h.clean.2 x ?_⟩ <;>
  · obtain rfl := List.mem_singleton.mp hx
    simp only [List.mem_cons, List.not_mem_nil, or_false] at hr ⊢
    tauto

/-- No CSR that an instruction reads is held back in a free launch. -/
theorem AmoxReady.readsCsr : csrImplicit 0x41 (begin_ s) = .ok ((), begin_ s) := by
  unfold csrImplicit
  simp only [M.curLaunch_bind, M.getS_bind, M.curTask_bind, (h.free.begin h.runs).free, Bool.false_eq_true, if_false]
  rfl

/-- What decides over a saturation is as before, and so is where it is reported. -/
theorem AmoxReady.stored_begin : amoxTrap (myTask (begin_ (amoxStored f s))) = amoxTrap (myTask s)
    ∧ (me (begin_ s)).r.pc = pcOf (begin_ (amoxStored f s)) := by
  have hT := h.stored_hasTask
  constructor
  · unfold amoxTrap
    rw [myTask_begin hT, amoxStored, myTask_storeOwn h.runs.hasTask]
    rfl
  · rw [pcOf, regs_begin hT, regs, h.me_stored, me_begin h.runs.hasTask]
    rfl

/-- The old word comes to g[D] and g[K]. -/
theorem AmoxReady.returns (hnr : f.nr = false) {β : Type} (k : Unit → M β) :
    (wr f.d (w64 (amoxOld f s)) >>= fun _ => wr f.k (w64 (amoxOld f s / 2 ^ 64)) >>= k) (begin_ (amoxStored f s)) =
      k () (begin_ (amoxDone f s)) := by
  have hT := h.stored_hasTask
  have hready : ∀ r ∈ [f.d, f.k], Ready (amoxStored f s) [r] := by
    intro r hr x hx
    rw [h.stored.notReady]
    obtain rfl := List.mem_singleton.mp hx
    exact h.ready x (by simp at hr ⊢; tauto)
  have hdT := FeKeeps.setReg hT f.d (w64 (amoxOld f s))
  rw [M.bind_ok (wr_begin hT (hready _ (by simp)) _), M.bind_ok (wr_begin hdT.hasTask (fun r hr => by
    rw [hdT.notReady]; exact hready f.k (by simp) r hr) _)]
  unfold amoxDone amoxReturned
  rw [if_neg (by simp [hnr])]

/-- The instruction comes to its effect, or to what a saturation comes to. -/
theorem AmoxReady.ends : ∃ body, exec (.amox f) s = strandStep (.amox f) body s
    ∧ body (begin_ s) = (if (amoxNew f s).2
        then .ok (amoxSaturated f (amoxTrap (myTask s)) (begin_ (amoxDone f s)))
        else .ok (.fall, begin_ (amoxDone f s))) := by
  refine ⟨_, rfl, ?_⟩
  obtain ⟨htrap, hpc⟩ := h.stored_begin
  rw [M.bind_ok (h.reads (by simp)), M.bind_ok (h.reads (by simp)), M.bind_ok (M.needAligned_run h.aligned)]
  cases hnr : f.nr with
  | false =>
    have hvalue : (amoxReply f s).value = amoxOld f s := by
      unfold amoxReply
      rw [if_neg (by simp [hnr])]
      cases (amoxNew f s).2 <;> rfl
    have hdone : (amoxDone f s).sel = s.sel := h.done.sel
    have hstored : (amoxStored f s).sel = s.sel := h.stored.sel
    simp only [Bool.not_false, if_true, Bool.false_eq_true, if_false]
    rw [M.bind_ok (M.needReady_run (h.ready.begin h.runs (by simp))),
      M.bind_ok (M.needReady_run (h.ready.begin h.runs (by simp))), M.bind_ok h.readsCsr, M.curStrand_bind,
      M.bind_ok (h.performs rfl rfl rfl hnr.symm rfl)]
    simp only [M.curTask_bind, M.getS_bind, hvalue, htrap]
    rw [h.returns hnr]
    unfold amoxReply amoxSaturated
    cases hov : (amoxNew f s).2 with
    | false => simp [hnr]
    | true =>
      cases amoxTrap (myTask s) with
      | none => simp [hnr, hdone, hstored, withTask]
      | some tr => simp [hnr]
  | true =>
    simp only [Bool.not_true, Bool.false_eq_true, if_false]
    rw [M.bind_ok h.readsCsr, M.curStrand_bind, M.bind_ok (h.performs rfl rfl rfl hnr.symm rfl)]
    simp only [M.curTask_bind, M.getS_bind, htrap]
    rw [hpc, show amoxDone f s = amoxStored f s from if_pos hnr]
    unfold amoxReply amoxSaturated
    cases hov : (amoxNew f s).2 with
    | false => simp [hnr]
    | true =>
      cases amoxTrap (myTask s) with
      | none => simp [hnr]; rfl
      | some tr => simp [hnr]; rfl

theorem AmoxReady.saturated (tr : Option Trap) : FeKeeps s (amoxSaturated f tr (amoxDone f s)).2 := by
  have hT := h.done_hasTask
  refine h.done.trans ?_
  generalize amoxDone f s = u at hT ⊢
  cases tr with
  | none =>
    exact .withTask hT rfl rfl (by unfold raiseFlags; rw [Task.strand_modStrand_same]; rfl)
      (by unfold raiseFlags; rw [Task.strand_modStrand_same]; rfl)
  | some tr =>
    unfold amoxSaturated
    simp only
    split
    · exact .withTask hT rfl rfl (by rw [Task.strand_modStrand_same]; rfl) (by rw [Task.strand_modStrand_same]; rfl)
    · exact ⟨rfl, hT, rfl, rfl, rfl, rfl⟩

omit h in
/-- An instruction that goes on with what `FeKeeps` keeps of its strand and task. -/
theorem FeKeeps.retires {u : State} (hk : FeKeeps s u) (hr : Runs s) {i : Instr} {body : M Next}
    (hb : body (begin_ s) = .ok (.fall, begin_ u)) : ∃ t, strandStep i body s = .next t ∧ Retired u t (parcels i) :=
  strandStep_retired hr hk.sel hk.hasTask (by rw [hk.mode]; exact hr.noMode) (by rw [hk.replaying]; exact hr.settled) hb

/-- The sum is exact. -/
theorem AmoxReady.retires (hov : (amoxNew f s).2 = false) :
    ∃ t, exec (.amox f) s = .next t ∧ Retired (amoxDone f s) t 2 := by
  obtain ⟨body, hex, hb⟩ := h.ends
  rw [hex]
  exact h.done.retires h.runs (by rw [hb, hov]; rfl)

/-- The sum saturates, and the strand goes on. -/
theorem AmoxReady.saturates (hov : (amoxNew f s).2 = true) {tr : Option Trap} (htr : amoxTrap (myTask s) = tr)
    (hgo : tr = none ∨ f.nr = true) :
    ∃ t, exec (.amox f) s = .next t ∧ Retired (amoxSaturated f tr (amoxDone f s)).2 t 2 := by
  obtain ⟨body, hex, hb⟩ := h.ends
  have hT := h.done_hasTask
  have hfall : (amoxSaturated f tr (amoxDone f s)).1 = .fall := by
    cases tr with
    | none => rfl
    | some e => simp [amoxSaturated, hgo.resolve_left nofun]
  rw [hex]
  exact (h.saturated tr).retires h.runs (by rw [hb, if_pos hov, htr, amoxSaturated_begin f tr hT, hfall])

/-- The sum saturates, and the strand traps behind the effect, which the pair has agreed on (R247). -/
theorem AmoxReady.traps (hov : (amoxNew f s).2 = true) {tr : Trap} (htr : amoxTrap (myTask s) = some tr)
    (hnr : f.nr = false) : exec (.amox f) s = .next (takeTrap (guardAgree (begin_ (amoxDone f s)) s.sel.task s.sel.strand)
      s.sel.task s.sel.strand none tr ((begin_ (amoxDone f s)).strand s.sel.task s.sel.strand).r.pc 2) := by
  obtain ⟨body, hex, hb⟩ := h.ends
  rw [hex, strandStep_runs h.runs, hb, if_pos hov, htr]
  unfold amoxSaturated
  simp only [hnr, Bool.false_eq_true, if_false]
  rfl

end

/-! ### The state the AMOX traps in -/

/-- What does not depend on the strands, the scratchpad and its bad words is as before, in every task. -/
theorem amoxDone_task {α : Type} {p : Task → α}
    (hp : ∀ x a b c, p { x with strands := a, spad := b, badWords := c } = p x) (f : SR64) (s : State) (k : Nat) :
    p ((amoxDone f s).task k) = p (s.task k) := by
  have hst : ∀ v, p ((storeOwn s ((regs s).gr f.a.toNat) 16 v).task k) = p (s.task k) :=
    fun v => task_modTask_kept (fun x => hp x _ _ _) s _ k
  have hreg : ∀ (u : State) (d : Reg) (v : Word), p ((setReg u d v).task k) = p (u.task k) :=
    fun u d v => task_modTask_kept (fun x => hp x _ x.spad x.badWords) u _ k
  unfold amoxDone amoxReturned
  split
  · exact hst _
  · rw [hreg, hreg]
    exact hst _

theorem amoxDone_outside (f : SR64) (s : State) : amoxDone f s = { s with tasks := (amoxDone f s).tasks } := by
  unfold amoxDone amoxReturned
  split <;> rfl

theorem amoxDone_spad (f : SR64) (s : State) (k : Nat) : ((amoxDone f s).task k).spad =
    ((amoxStored f s).task k).spad := by
  have hreg : ∀ (u : State) (d : Reg) (v : Word), ((setReg u d v).task k).spad = (u.task k).spad :=
    fun u d v => task_modTask_kept (f := Task.spad) (by exact fun _ => rfl) u _ k
  unfold amoxDone amoxReturned
  split
  · rfl
  · rw [hreg, hreg]

theorem amoxDone_launch (f : SR64) (s : State) : myLaunch (amoxDone f s) = myLaunch s := by
  unfold myLaunch State.launchOf
  rw [amoxDone_task (p := Task.launch) (by exact fun _ _ _ _ => rfl), amoxDone_outside]
  rfl

/-- The old word comes to g registers only. -/
theorem me_amoxReturned {u : State} (hT : u.hasTask u.sel.task = true) (f : SR64) (v : Nat) :
    (me (amoxReturned f v u)).saved = (me u).saved ∧ (regs (amoxReturned f v u)).pc = (regs u).pc
      ∧ (regs (amoxReturned f v u)).hnd = (regs u).hnd ∧ (regs (amoxReturned f v u)).her = (regs u).her := by
  have hreg : ∀ (w : State) (d : Reg) (x : Word), w.hasTask w.sel.task = true →
      me (setReg w d x) = { me w with r := (regs w).setG d.toNat x } := fun w d x hw => me_modStrand hw _
  unfold amoxReturned
  split
  · exact ⟨rfl, rfl, rfl, rfl⟩
  · have h1 := FeKeeps.setReg hT f.d (w64 v)
    unfold regs
    rw [hreg _ _ _ (by rw [h1.sel]; exact h1.hasTask), regs, hreg _ _ _ hT]
    simp [regs]

section
variable {f : SR64} {s : State} (h : AmoxReady f s)
include h

theorem AmoxReady.me_done : (me (amoxDone f s)).saved = (me s).saved ∧ pcOf (amoxDone f s) = pcOf s
    ∧ (regs (amoxDone f s)).hnd = (regs s).hnd ∧ (regs (amoxDone f s)).her = (regs s).her := by
  have hreturned := me_amoxReturned h.stored_hasTask f (amoxOld f s)
  unfold regs at hreturned
  rw [h.me_stored] at hreturned
  exact hreturned

theorem AmoxReady.done_slot : recordSlot (amoxDone f s) (amoxDone f s).sel.task = recordSlot s s.sel.task := by
  have hlaunch := amoxDone_launch f s
  unfold myLaunch at hlaunch
  rw [h.done.sel] at hlaunch ⊢
  unfold recordSlot
  simp only
  rw [hlaunch, amoxDone_task (p := Task.die) (by exact fun _ _ _ _ => rfl),
    amoxDone_task (p := Task.entry) (by exact fun _ _ _ _ => rfl), amoxDone_outside]
  rfl

/-- Behind its effect the strand traps XW_OVERFLOW; the word is stored and g[D] and g[K] hold the old one, the flag is not
set. -/
theorem AmoxReady.trapped (hov : (amoxNew f s).2 = true) (hon : (myTask s).vec.vctl.getLsbD 2 = true) (hnr : f.nr = false)
    (hh : (regs s).hnd = false) (hr : (regs s).her = false) (hsaved : (me s).saved = none) :
    ∃ t, exec (.amox f) s = .next t ∧ TrapHeld s t 35 0 false 2
      ∧ (myTask t).spad = (myTask (amoxStored f s)).spad
      ∧ (myTask t).vec.vstat = (myTask s).vec.vstat
      ∧ ∀ n, ((me t).saved.getD (regs t)).gr n = (regs (amoxDone f s)).gr n := by
  have hk := h.done
  have hT := h.done_hasTask
  have hex := h.traps hov (if_pos hon) hnr
  obtain ⟨hsv, hpc, hhnd, hher⟩ := h.me_done
  rw [← hk.sel, show ((begin_ (amoxDone f s)).strand (amoxDone f s).sel.task (amoxDone f s).sel.strand).r.pc =
    pcOf (amoxDone f s) from congrArg StrandRegs.pc (regs_begin hT)] at hex
  obtain ⟨hheld, hspad, hvec, hregs⟩ := trapsBehind hT (hk.replaying.trans h.runs.settled) (hhnd.trans hh) (hher.trans hr)
    (hsv.trans hsaved) (tr := { cause := 35, tval := 0 }) rfl rfl 2 rfl
  have hstatus : statusWord (regs (amoxDone f s)) (myLaunch (amoxDone f s)) = statusWord (regs s) (myLaunch s) := by
    unfold statusWord
    rw [amoxDone_launch f s, hhnd, hher]
  have htask : ∀ {α : Type} {p : Task → α}, (∀ x a b c, p { x with strands := a, spad := b, badWords := c } = p x) →
      p (myTask (amoxDone f s)) = p (myTask s) := by
    intro α p hp
    unfold myTask
    rw [hk.sel, amoxDone_task hp]
  refine ⟨_, hex, hheld.of_same hpc hstatus h.done_slot (htask (p := fun x => x.trap.tvec) (by exact fun _ _ _ _ => rfl)),
    ?_, ?_, hregs⟩
  · rw [hspad, myTask, hk.sel, amoxDone_spad]
    rfl
  · rw [hvec]
    exact htask (p := fun x => x.vec.vstat) (by exact fun _ _ _ _ => rfl)

end

/-! ### The results -/

/-- The word and the saturation where the sum lies outside the 128-bit range. -/
theorem amoxNew_saturates {f : SR64} {s : State} (h : sintOf 128 (amoxOld f s) + ((regs s).gr f.b.toNat).toInt < -2 ^ 127
      ∨ 2 ^ 127 ≤ sintOf 128 (amoxOld f s) + ((regs s).gr f.b.toNat).toInt) :
    (amoxNew f s).1 = (if 2 ^ 127 ≤ sintOf 128 (amoxOld f s) + ((regs s).gr f.b.toNat).toInt then 2 ^ 127 - 1
      else 2 ^ 127) ∧ (amoxNew f s).2 = true := by
  unfold amoxNew
  rw [amoxStep_saturates h]
  simp only [and_self]

section
variable {f : SR64} {s : State} (h : AmoxReady f s)
include h

/-- What the strand holds behind an exact sum. -/
theorem AmoxReady.exact (hsum : -2 ^ 127 ≤ sintOf 128 (amoxOld f s) + ((regs s).gr f.b.toNat).toInt
      ∧ sintOf 128 (amoxOld f s) + ((regs s).gr f.b.toNat).toInt < 2 ^ 127) :
    ∃ t, exec (.amox f) s = .next t ∧ Retired (amoxReturned f (amoxOld f s) (storeOwn s ((regs s).gr f.a.toNat) 16
      (wrapNat 128 (sintOf 128 (amoxOld f s) + ((regs s).gr f.b.toNat).toInt)))) t 2 := by
  have hnew : amoxNew f s = (wrapNat 128 (sintOf 128 (amoxOld f s) + ((regs s).gr f.b.toNat).toInt), false) :=
    amoxStep_exact hsum
  have hret := h.retires (by rw [hnew])
  unfold amoxDone amoxStored at hret
  simp only [hnew] at hret
  exact hret

/-- A saturation without the trap enable sets the flag. -/
theorem AmoxReady.flags (hov : (amoxNew f s).2 = true) (hon : (myTask s).vec.vctl.getLsbD 2 = false) :
    ∃ t, exec (.amox f) s = .next t
      ∧ Retired (withTask (amoxDone f s) (fun x => raiseFlags x s.sel.strand .vstat fXwOvf)) t 2 := by
  rw [← h.done.sel]
  exact h.saturates hov (if_neg (by rw [hon]; exact Bool.false_ne_true)) (.inl rfl)

/-- With it and with NR the saturation is reported at the strand's next ordering point. -/
theorem AmoxReady.reports (hov : (amoxNew f s).2 = true) (hon : (myTask s).vec.vctl.getLsbD 2 = true) (hnr : f.nr = true) :
    ∃ t, exec (.amox f) s = .next t
      ∧ Retired (withStrand (amoxStored f s) (fun x => { x with
          reports := [{ pc := pcOf s, ilen := 2, trap := { cause := 35, tval := 0 } }] })) t 2 := by
  obtain ⟨t, hex, hret⟩ := h.saturates hov (if_pos hon) (.inr hnr)
  refine ⟨t, hex, ?_⟩
  have hpc := h.me_done.2.1
  unfold amoxSaturated amoxDone amoxReturned at hret
  unfold amoxDone amoxReturned at hpc
  simp only [hnr, if_true] at hret hpc
  rw [hpc] at hret
  refine (congrArg (Retired · t 2) (State.modStrand_congr ?_)).mp hret
  have hme := h.me_stored
  unfold me at hme
  have hnone : (s.strand s.sel.task s.sel.strand).reports = [] := h.quiet.reports
  rw [hme]
  simp [woken, hnone]

end

end Sys2Proof.Machine
end

section
/-!
PROOFS. AMOR: the contribution leaves as a request, and the strand goes on behind it or parks (R231, R232).
-/
namespace Sys2Proof.Machine

/-! ### The contribution -/

/-- What the strand keeps of an access of its own window that leaves as a request. -/
def sentOut (s : State) (q : Ask) : Outstanding :=
  { id := s.nextMsg, acc := ownAcc s q, dest := q.dest, parks := q.parks, pc := pcOf s, ilen := q.ilen, buffer := false,
    since := s.clock }

/-- The state in which it is on its way. -/
def sentOwn (s : State) (q : Ask) : State :=
  withStrand (sendReq s (ownAcc s q) (.acc (ownAcc s q).who s.nextMsg) (dieStation (myTask s).die)
    (taskSource s s.sel.task)) (fun x => { x with outs := x.outs ++ [sentOut s q] })

/-- An access of class 15 that is always a request leaves for the own scratchpad too (R231). -/
theorem issueAcc_sent {s : State} {q : Ask} (hf : FreeLaunch s) (hq : Quiet s)
    (hp : shortOfFault (myTask s) s.sel.strand = false) (ho : OwnBytes s q.va q.size) (hz : 0 < q.size)
    (hc : q.cls = 15) (hr : q.remote = true) : issueAcc q s = .ok (.sent s.nextMsg, sentOwn s q) := by
  have hd : (s.launchOf s.sel.task).det = false := hf.free
  have hh : isHeritage q.va.toNat = false := by
    have := ho.2
    unfold isHeritage
    simp
    omega
  have hacc : mkAcc s s.sel.task s.sel.strand q { home := .spad s.sel.task, addr := q.va.toNat } = ownAcc s q := by
    unfold mkAcc ownAcc
    simp [foldVa_own (show q.va.toNat < 0x800000 by have := ho.2; omega), hh, pcOf, regs, me, hd]
  have hfoot : footGate q.va q.size (ownAcc s q).stores s = .ok ((), s) := by
    unfold footGate
    simp only [M.curLaunch_bind, M.curTask_bind, M.getS_bind, hf.free, Bool.false_eq_true, if_false, M.pure_run]
  have hown : ((ownAcc s q).home == Home.spad s.sel.task) = true := by simp [ownAcc]
  have hrecord : recordParks s (ownAcc s q) = false := by
    have hlog : (s.launchOf (ownAcc s q).who.task).log = false := hf.unlogged
    simp [recordParks, needsRecord, hlog]
  unfold issueAcc
  simp only [M.getS_bind]
  rw [checkPlace_own hf ho hz]
  simp only [hacc]
  rw [M.bind_ok hfoot]
  simp only [hd, hc, Bool.false_and, Bool.false_eq_true, if_false, if_true, orderBlocks_quiet hq hp, hr, hown,
    Bool.not_true, Bool.and_false]
  rw [M.bind_ok (M.takeReports_run hq.reports)]
  simp only [M.getS_bind, M.setS_bind, M.modCur_bind, hrecord, Bool.or_false]
  rfl

/-- A request is the same where the strand has its turn. -/
theorem sendReq_begin {s : State} (h : s.hasTask s.sel.task = true) {a : Acc} (hw : a.who.task = s.sel.task)
    (req : Requester) (station source : Nat) :
    sendReq (begin_ s) a req station source = begin_ (sendReq s a req station source) := by
  have hdie : ∀ k, ((begin_ s).task k).die = (s.task k).die :=
    task_modTask_kept (f := Task.die) (by exact fun _ => rfl) s s.sel.task
  have hcore : ∀ k, ((begin_ s).task k).core? = (s.task k).core? :=
    task_modTask_kept (f := Task.core?) (by exact fun _ => rfl) s s.sel.task
  have hstation : homeStation (begin_ s) a.home = homeStation s a.home := by
    unfold homeStation
    cases a.home <;> simp only [hdie]
  unfold sendReq
  simp only [hcore, hstation]
  rw [hw, launchOf_begin h]
  rfl

theorem sentOwn_begin {s : State} (h : s.hasTask s.sel.task = true) (q : Ask) :
    sentOwn (begin_ s) q = begin_ (sentOwn s q) := by
  have hpc : pcOf (begin_ s) = pcOf s := congrArg StrandRegs.pc (regs_begin h)
  have hacc : ownAcc (begin_ s) q = ownAcc s q := by
    unfold ownAcc
    rw [hpc]
    rfl
  have hout : sentOut (begin_ s) q = sentOut s q := by
    unfold sentOut
    rw [hacc, hpc]
    rfl
  have hdie : (myTask (begin_ s)).die = (myTask s).die := by rw [myTask_begin h]; rfl
  have hcore : ((begin_ s).task s.sel.task).core? = (s.task s.sel.task).core? :=
    task_modTask_kept (f := Task.core?) (by exact fun _ => rfl) s s.sel.task s.sel.task
  have hsource : taskSource (begin_ s) s.sel.task = taskSource s s.sel.task := by
    unfold taskSource
    rw [hcore, show ((begin_ s).task s.sel.task).die = (s.task s.sel.task).die from hdie]
  unfold sentOwn
  rw [hacc, hout, hdie, begin_sel, hsource, sendReq_begin h (by rfl)]
  exact begin_modTask fun x => beginTask_modStrand _ x (fun _ => rfl) (fun _ => rfl)

/-! ### The instruction -/

/-- What a strand needs for an AMOR at a word of the own window. -/
structure AmorReady (f : SR64) (s : State) : Prop where
  runs : Runs s
  ready : Ready s [f.a, f.b, f.k, f.n, f.d]
  clean : Clean s [f.a, f.b, f.k, f.n]
  free : FreeLaunch s
  quiet : Quiet s
  count : 0 < ((regs s).gr f.n.toNat).toNat
  bound : ((regs s).gr f.n.toNat).toNat ≤ 32768
  rank : ((regs s).gr f.k.toNat).toNat < ((regs s).gr f.n.toNat).toNat
  aligned : ((regs s).gr f.a.toNat).toNat % atomBytes f.sz = 0
  own : OwnBytes s ((regs s).gr f.a.toNat) (atomBytes f.sz)

/-- The twelve forms are one body. -/
theorem exec_amor {i : Instr} {fn : AtomFn} {f : SR64} (h : amorTable i = some (fn, f)) (s : State) :
    exec i s = strandStep i (amorBody fn f) s ∧ parcels i = 2 := by
  unfold amorTable at h
  split at h <;> cases h <;> exact ⟨rfl, rfl⟩

/-- What an AMOR asks for. -/
def amorAsk (fn : AtomFn) (f : SR64) (s : State) : Ask :=
  { va := (regs s).gr f.a.toNat, size := atomBytes f.sz, cls := 15, need := .readWrite, atomic := true, nr := f.nr,
    remote := true,
    op := .amor fn ((regs s).gr f.n.toNat).toNat ((regs s).gr f.k.toNat).toNat ((regs s).gr f.k.toNat).toNat
      (((regs s).gr f.b.toNat).toNat % 2 ^ (8 * atomBytes f.sz)),
    dest := if f.nr then none else some { reg := f.d.toNat, width := 8 * atomBytes f.sz, signed := true },
    parks := !f.nr, ilen := 2 }

section
variable {fn : AtomFn} {f : SR64} {s : State} (h : AmorReady f s)
include h

theorem AmorReady.reads {r : Reg} (hr : r ∈ [f.a, f.b, f.k, f.n]) :
    rdOut r (begin_ s) = .ok ((regs s).gr r.toNat, begin_ s) := by
  refine rdOut_begin h.runs (fun x hx => h.ready x ?_) ⟨fun x hx => h.clean.1 x ?_, fun x hx => h.clean.2 x ?_⟩ <;>
  · obtain rfl := List.mem_singleton.mp hx
    simp only [List.mem_cons, List.not_mem_nil, or_false] at hr ⊢
    tauto

/-- The contribution leaves, and the strand goes on or parks. -/
theorem AmorReady.ends : amorBody fn f (begin_ s) =
    .ok (if f.nr then .fall else .hold, begin_ (sentOwn s (amorAsk fn f s))) := by
  have hvalid := h.rank
  have hbound := h.bound
  have hpositive := h.count
  have hd : needReady f.d (begin_ s) = .ok ((), begin_ s) := M.needReady_run (h.ready.begin h.runs (by simp))
  have hsize : 0 < atomBytes f.sz := by unfold atomBytes; split <;> decide
  have hsent : issueAcc (amorAsk fn f s) (begin_ s) = .ok (.sent s.nextMsg, begin_ (sentOwn s (amorAsk fn f s))) := by
    rw [issueAcc_sent (h.free.begin h.runs) (h.quiet.begin h.runs) h.runs.passed_begin (h.own.begin h.runs) hsize rfl rfl,
      sentOwn_begin h.runs.hasTask]
    rfl
  unfold amorBody
  rw [M.bind_ok (h.reads (by simp)), M.bind_ok (h.reads (by simp)), M.bind_ok (h.reads (by simp)),
    M.bind_ok (h.reads (by simp)), if_neg (by omega)]
  simp only
  rw [M.bind_ok (M.needAligned_run h.aligned)]
  split
  · rw [M.bind_ok hd]
    exact (M.bind_ok hsent).trans rfl
  · exact (M.bind_ok hsent).trans rfl

end

/-! ### What it leaves -/

/-- The strand goes on or parks in `t` with nothing of `u` changed but a pc, loops and the books of issuing. -/
structure Onward (u t : State) : Prop where
  outside : OutsideKept u t
  others : OthersKept u t
  task : myTask t = { myTask u with
    strands := (myTask t).strands, loops := (myTask t).loops, lvq := (myTask t).lvq, lastIssued := u.sel.strand }
  outs : (me t).outs = (me u).outs
  registers : regs t = { regs u with pc := pcOf t }

theorem Onward.of_retired {u t : State} {len : Nat} (h : Retired u t len) : Onward u t :=
  ⟨h.outside, h.others, h.task, by rw [h.self]; rfl, h.registers⟩

/-- A strand that parks. -/
theorem Onward.parked {u : State} (hT : u.hasTask u.sel.task = true) :
    Onward u ((begin_ u).modStrand u.sel.task u.sel.strand (fun x => { x with wait := none })) := by
  have hbT : (begin_ u).hasTask u.sel.task = true := by simpa using hT
  have hme : me ((begin_ u).modStrand u.sel.task u.sel.strand (fun x => { x with wait := none })) =
      { me (begin_ u) with wait := none } := me_modStrand hbT _
  have htask : myTask ((begin_ u).modStrand u.sel.task u.sel.strand (fun x => { x with wait := none })) =
      (beginTask u.sel.strand (myTask u)).modStrand u.sel.strand (fun x => { x with wait := none }) := by
    rw [← myTask_begin hT]
    exact State.task_modTask_same hbT _
  refine ⟨rfl, fun j hj => ?_, ?_, ?_, ?_⟩
  · exact (SMap.find_upd_other hj _ _).trans (SMap.find_upd_other hj _ _)
  · rw [htask]
    rfl
  · rw [hme, me_begin hT]
    rfl
  · unfold pcOf regs
    rw [hme, me_begin hT]
    rfl

section
variable {s t : State} {q : Ask} (hT : s.hasTask s.sel.task = true) (h : Onward (sentOwn s q) t)
include hT h

omit h in
theorem me_sentOwn : me (sentOwn s q) = { me s with outs := (me s).outs ++ [sentOut s q] } :=
  me_modStrand (s := sendReq s (ownAcc s q) _ _ _) hT _

omit hT in
theorem Onward.sel_sent : t.sel = s.sel := by
  rw [h.outside]
  rfl

theorem Onward.leaves : Leaves s t (ownAcc s q) q.dest q.parks where
  message := ⟨_, (congrArg (fun u : State => SMap.find s.nextMsg u.net) h.outside).trans (SMap.find_put_same _ _ _),
    rfl, rfl, rfl, rfl, rfl, rfl, rfl⟩
  rest := by
    intro j hj
    rw [h.outside]
    exact SMap.find_put_other hj _ _
  number := by rw [h.outside]; rfl
  out := ⟨sentOut s q, by rw [h.outs, me_sentOwn hT], rfl, rfl, rfl, rfl, rfl⟩
  outside := by
    rw [h.outside]
    rfl
  others := by
    intro j hj
    rw [h.others j hj]
    exact SMap.find_upd_other hj _ _

theorem Onward.registers_sent : regs t = { regs s with pc := pcOf t } := by
  rw [h.registers, regs, me_sentOwn hT]
  rfl

theorem Onward.memoryKept : MemoryKept s t := by
  have htask : ∀ {α : Type} {p : Task → α},
      (∀ x a b c d, p { x with strands := a, loops := b, lvq := c, lastIssued := d } = p x) →
      ∀ k, p (t.task k) = p (s.task k) := by
    intro α p hp k
    by_cases hk : k = s.sel.task
    · subst hk
      have hmine := h.task
      unfold myTask at hmine
      rw [h.sel_sent] at hmine
      rw [hmine, hp]
      exact task_modTask_kept (fun x => hp x _ x.loops x.lvq x.lastIssued) _ _ _
    · unfold State.task
      rw [(h.leaves hT).others k hk]
  refine ⟨fun a => ?_, fun a => ?_, fun k a => ?_, fun k a => ?_⟩
  · rw [h.outside]
    rfl
  · rw [h.outside]
    rfl
  · rw [htask (p := Task.spad) (by exact fun _ _ _ _ _ => rfl)]
  · rw [htask (p := Task.heritage) (by exact fun _ _ _ _ _ => rfl)]

end

section
variable {fn : AtomFn} {f : SR64} {s : State} (h : AmorReady f s)
include h

theorem AmorReady.accAt_eq : ownAcc s (amorAsk fn f s) =
    accAt s { home := .spad s.sel.task, addr := ((regs s).gr f.a.toNat).toNat } ((regs s).gr f.a.toNat)
      (atomBytes f.sz) 15 f.nr (.amor fn ((regs s).gr f.n.toNat).toNat ((regs s).gr f.k.toNat).toNat
        ((regs s).gr f.k.toNat).toNat (((regs s).gr f.b.toNat).toNat % 2 ^ (8 * atomBytes f.sz))) := by
  have hown := h.own.2
  unfold accAt
  rw [foldVa_own (by omega)]
  rfl

/-- The strand goes on behind a contribution it asked no answer for, and parks at one it did. -/
theorem AmorReady.onward {i : Instr} (hexec : exec i s = strandStep i (amorBody fn f) s) (hlen : parcels i = 2) :
    ∃ t, exec i s = .next t ∧ Onward (sentOwn s (amorAsk fn f s)) t
      ∧ (if f.nr then FallsThrough s t 2 else pcOf t = pcOf s) := by
  have hT := h.runs.hasTask
  have hme := me_sentOwn (q := amorAsk fn f s) hT
  have hsentT : (sentOwn s (amorAsk fn f s)).hasTask s.sel.task = true := by
    unfold sentOwn withStrand
    rw [State.hasTask_modStrand]
    exact hT
  have hb := h.ends (fn := fn)
  have htask : ∀ {α : Type} {p : Task → α}, (∀ x a, p { x with strands := a } = p x) →
      p (myTask (sentOwn s (amorAsk fn f s))) = p (myTask s) :=
    fun hp => task_modTask_kept (fun x => hp x _) _ _ _
  rw [hexec]
  by_cases hnr : f.nr = true
  · rw [if_pos hnr] at hb
    obtain ⟨t, hex, hret⟩ := strandStep_retired (u := sentOwn s (amorAsk fn f s)) h.runs (i := i) rfl hsentT
      ((htask (p := fun x => x.dbgctl.getLsbD 0) (by exact fun _ _ => rfl)).trans h.runs.noMode)
      (by rw [hme]; exact h.runs.settled) hb
    refine ⟨t, hex, .of_retired hret, ?_⟩
    rw [if_pos hnr]
    intro hloop
    have hregs : regs (sentOwn s (amorAsk fn f s)) = regs s := by
      rw [regs, hme]
      rfl
    have hloopSent : NoLoopEnd (sentOwn s (amorAsk fn f s)) := by
      unfold NoLoopEnd pcOf
      rw [hregs, htask (p := fun x => loopAt x _ _) (by exact fun _ _ => rfl)]
      exact hloop
    rw [hret.falls hloopSent, hlen, pcOf, hregs]
    rfl
  · rw [if_neg hnr] at hb
    have hparks := Onward.parked (u := sentOwn s (amorAsk fn f s)) hsentT
    refine ⟨_, strandStep_runs h.runs i _, ?_⟩
    rw [hb, if_neg hnr]
    refine ⟨hparks, ?_⟩
    have hbeginT : (begin_ (sentOwn s (amorAsk fn f s))).hasTask s.sel.task = true := by simpa using hsentT
    have hpc := me_modStrand (s := begin_ (sentOwn s (amorAsk fn f s))) hbeginT
      (fun x => { x with wait := none })
    rw [me_begin hsentT, hme] at hpc
    exact congrArg (fun x => x.r.pc) hpc

/-- The contribution is on its way, and nothing else has changed but where the strand goes on. -/
theorem AmorReady.sends {i : Instr} (hexec : exec i s = strandStep i (amorBody fn f) s) (hlen : parcels i = 2) :
    ∃ t, exec i s = .next t ∧ Leaves s t (ownAcc s (amorAsk fn f s)) (amorAsk fn f s).dest (!f.nr)
      ∧ KeepsG s t ∧ KeepsPreds s t ∧ MemoryKept s t
      ∧ (if f.nr then FallsThrough s t 2 else pcOf t = pcOf s) := by
  have hT := h.runs.hasTask
  obtain ⟨t, hex, hon, hpc⟩ := h.onward hexec hlen
  have hregs := hon.registers_sent hT
  refine ⟨t, hex, hon.leaves hT, ⟨fun n => ?_, fun n => ?_⟩, ⟨?_, ?_, ?_⟩, hon.memoryKept hT, hpc⟩ <;> rw [hregs]
  all_goals rfl

end

/-! ### The answer -/

/-- What an answer of 4 or 8 bytes writes to the g register that waits for it. -/
theorem writeDest_gr (x : StrandRegs) (d v : Nat) (sz : Bool) (k : Nat) :
    (writeDest x { reg := d, width := 8 * atomBytes sz, signed := true } v).gr k =
      if k = d ∧ k ≠ 0 then loadedWord v (atomBytes sz) true else x.gr k := by
  have hlow : (if 8 * atomBytes sz = 0 ∨ 64 ≤ 8 * atomBytes sz then w64 v else sextW (w64 v) (8 * atomBytes sz)) =
      loadedWord v (atomBytes sz) true := by
    rw [← extendTo_loaded (by cases sz <;> simp [atomBytes])]
    cases sz with
    | false => rfl
    | true => exact (BitVec.signExtend_eq _).symm
  unfold writeDest
  simp only [if_true, hlow]
  exact StrandRegs.gr_setG _ _ _ _

end Sys2Proof.Machine
end

section
/-!
PROOFS. AMOR rounds: contributions stand by rank, and a full round is applied in rank order (R135, R232).
-/
namespace Sys2Proof.Machine

/-! ### The parts of a round -/

theorem insertPart_perm (p : RoundPart) (l : List RoundPart) : (insertPart p l).Perm (p :: l) := by
  induction l with
  | nil => exact .refl _
  | cons q l ih =>
    unfold insertPart
    split
    · exact .refl _
    · exact (ih.cons q).trans (.swap p q l)

/-- A range that is disjoint from every recorded one takes its place in their order. -/
theorem Ascending.insertPart {p : RoundPart} (hp : p.lo ≤ p.hi) {l : List RoundPart} (h : Ascending l)
    (hl : ∀ q ∈ l, q.lo ≤ q.hi) (hfree : ∀ q ∈ l, p.hi < q.lo ∨ q.hi < p.lo) : Ascending (insertPart p l) := by
  induction l with
  | nil => exact List.pairwise_singleton _ _
  | cons q l ih =>
    obtain ⟨hq, htail⟩ := List.pairwise_cons.mp h
    have hqwf := hl q List.mem_cons_self
    have hqfree := hfree q List.mem_cons_self
    unfold Machine.insertPart
    split
    · next hlt =>
      refine List.pairwise_cons.mpr ⟨fun x hx => ?_, h⟩
      rcases List.mem_cons.mp hx with rfl | hx
      · omega
      · have := hq x hx
        omega
    · next hge =>
      refine List.pairwise_cons.mpr ⟨fun x hx => ?_, ih htail (fun x hx => hl x (List.mem_cons_of_mem _ hx))
        (fun x hx => hfree x (List.mem_cons_of_mem _ hx))⟩
      rcases List.mem_cons.mp ((insertPart_perm p l).mem_iff.mp hx) with rfl | hx
      · omega
      · exact hq x hx

/-- A contribution adds its ranks. -/
theorem ranksIn_insertPart (r : Round) (p : RoundPart) :
    ranksIn { r with parts := insertPart p r.parts } = ranksIn r + (p.hi - p.lo + 1) := by
  have hperm : (insertPart p r.parts).Perm (r.parts ++ [p]) :=
    (insertPart_perm p r.parts).trans (List.perm_append_singleton p r.parts).symm
  unfold ranksIn
  rw [hperm.foldl_eq' fun _ _ _ _ _ => by omega, List.foldl_append]
  rfl

/-- In free launches every part of a round performs. -/
theorem stampParts_free (s : State) {l : List RoundPart} (h : ∀ p ∈ l, (s.launchOf p.acc.who.task).det = false) :
    stampParts s l = (s, l, []) := by
  induction l with
  | nil => rfl
  | cons p l ih =>
    have hs : stampCheck s p.acc = .ok s := stampSectors_free _ (h p List.mem_cons_self)
    simp [stampParts, hs, ih fun q hq => h q (List.mem_cons_of_mem _ hq)]

/-- The value that the parts of lower rank leave is what a part is answered. -/
def appliedParts (fn : AtomFn) (w old : Nat) (l : List RoundPart) : Nat := l.foldl (fun x p => atomOp fn w x p.v) old

theorem applyParts_value (fn : AtomFn) (w old : Nat) (l : List RoundPart) :
    (applyParts fn w old l).1 = appliedParts fn w old l := by
  induction l generalizing old with
  | nil => rfl
  | cons p l ih => exact ih _

theorem applyParts_answers (fn : AtomFn) (w old : Nat) (l : List RoundPart) {i : Nat} {p : RoundPart} (h : l[i]? = some p) :
    p.answer (if p.acc.nr then .ack false else .data (appliedParts fn w old (l.take i))) ∈ (applyParts fn w old l).2 := by
  induction l generalizing old i with
  | nil => cases h
  | cons q l ih =>
    cases i with
    | zero =>
      obtain rfl := Option.some.inj h
      exact List.mem_cons_self
    | succ i => exact List.mem_cons_of_mem _ (ih _ h)

/-! ### The answers -/

theorem sendAnswers_outside (s : State) (l : List Answer) : sendAnswers s l =
    { s with net := (sendAnswers s l).net, nextMsg := (sendAnswers s l).nextMsg, entered := (sendAnswers s l).entered } := by
  induction l generalizing s with
  | nil => rfl
  | cons a l ih => exact ih (sendAnswer s a)

/-- Answers leave what is on its way. -/
theorem sendAnswers_find {k : Nat} {s : State} (hk : k < s.nextMsg) (l : List Answer) :
    SMap.find k (sendAnswers s l).net = SMap.find k s.net := by
  induction l generalizing s with
  | nil => rfl
  | cons a l ih =>
    refine (ih (s := sendAnswer s a) (Nat.lt_succ_of_lt hk)).trans ?_
    exact SMap.find_put_other (Nat.ne_of_lt hk) _ _

/-- Each answer goes out. -/
theorem sendAnswers_message {a : Answer} {l : List Answer} (h : a ∈ l) (s : State) :
    ∃ e ∈ (sendAnswers s l).net, e.2.req = a.req ∧ e.2.chan = 2 ∧ e.2.reply = some a.reply := by
  induction l generalizing s with
  | nil => cases h
  | cons b l ih =>
    rcases List.mem_cons.mp h with rfl | h
    · obtain ⟨n, hn, hc, hr, hq, -⟩ := sendAnswer_message s a
      have hfind : SMap.find s.nextMsg (sendAnswers (sendAnswer s a) l).net = some n :=
        (sendAnswers_find (s := sendAnswer s a) (Nat.lt_succ_self _) l).trans hn
      exact ⟨(s.nextMsg, n), SMap.mem_of_find hfind, hq, hc, hr⟩
    · exact ih h (sendAnswer s b)

/-- An answer to one requester goes out as it is. -/
theorem sendAll_message {a : Answer} {l : List Answer} (h : a ∈ l) {p : Party} {j : Nat} (hr : a.req = .acc p j)
    (s : State) :
    ∃ e ∈ (sendAll s l).net, e.2.req = a.req ∧ e.2.chan = 2 ∧ e.2.reply = some a.reply := by
  have hone : a ∈ expandAnswer s a := by simp [expandAnswer, hr]
  exact sendAnswers_message (List.mem_flatMap.mpr ⟨a, h, hone⟩) s

/-- Answering leaves what the answered event did. -/
theorem answeredAll_kept (u : State) (id : Nat) (l : List Answer) (h : Home) :
    (keepImage (sendAll (dropMsg u id) l) h).rounds = u.rounds ∧ (keepImage (sendAll (dropMsg u id) l) h).mem = u.mem
      ∧ (∀ k, ((keepImage (sendAll (dropMsg u id) l) h).task k).spad = (u.task k).spad)
      ∧ (keepImage (sendAll (dropMsg u id) l) h).net = (sendAll (dropMsg u id) l).net := by
  refine ⟨?_, ?_, fun k => ?_, ?_⟩
  · rw [keepImage_outside, sendAll, sendAnswers_outside]
    rfl
  · rw [keepImage_outside, sendAll, sendAnswers_outside]
    rfl
  · rw [keepImage_task (f := Task.spad) (by exact fun _ _ => rfl), sendAll, sendAnswers_outside]
    rfl
  · rw [keepImage_outside]

/-! ### A contribution to a round that stands -/

section
variable {s : State} {m : Msg} {r : Round} {fn : AtomFn} {n lo hi v : Nat} (ha : AtHome s m)
  (ho : m.acc.op = .amor fn n lo hi v) (hr : SMap.find (locKey m.acc.home m.acc.addr) s.rounds = some r)
  (hfn : r.fn = fn) (hn : r.n = n) (hsize : r.acc.size = m.acc.size) (hlt : hi < n) (hfree : rangeFree r lo hi = true)
include ha ho hr hfn hn hsize hlt hfree

/-- It is recorded by its rank while ranks are missing. -/
theorem contribute_joins (hmore : ranksIn r + (hi - lo + 1) < n) : contribute s m.acc m.req m.srcStation =
    ({ s with
        rounds := SMap.put (locKey m.acc.home m.acc.addr) { r with parts := insertPart (partOf m lo hi v) r.parts } s.rounds },
      []) := by
  subst hfn hn
  have hranks := ranksIn_insertPart r (partOf m lo hi v)
  unfold partOf at hranks
  simp [contribute, ho, hr, ha.free, hsize, hfree, Nat.not_le.mpr hlt, hranks, hmore, partOf]

/-- The last one has the round applied in rank order. -/
theorem contribute_fills (hall : ranksIn r + (hi - lo + 1) = n)
    (hparts : ∀ p ∈ r.parts, (s.launchOf p.acc.who.task).det = false) : contribute s m.acc m.req m.srcStation =
    ({ updated s m.acc (appliedParts fn (8 * m.acc.size) (homeRead s m.acc.home m.acc.addr m.acc.size)
          (insertPart (partOf m lo hi v) r.parts)) with rounds := SMap.del (locKey m.acc.home m.acc.addr) s.rounds },
      (applyParts fn (8 * m.acc.size) (homeRead s m.acc.home m.acc.addr m.acc.size)
        (insertPart (partOf m lo hi v) r.parts)).2) := by
  subst hfn hn
  have hranks := ranksIn_insertPart r (partOf m lo hi v)
  have hstamps : stampParts s (insertPart (partOf m lo hi v) r.parts) = (s, insertPart (partOf m lo hi v) r.parts, []) := by
    refine stampParts_free s fun p hp => ?_
    rcases List.mem_cons.mp ((insertPart_perm _ _).mem_iff.mp hp) with rfl | hp
    · exact ha.free
    · exact hparts p hp
  have hgo : logAccess s m.acc = .go s := by simp [logAccess, needsRecord, ha.unlogged]
  have hrounds := updated_rounds s m.acc (appliedParts r.fn (8 * m.acc.size)
    (homeRead s m.acc.home m.acc.addr m.acc.size) (insertPart (partOf m lo hi v) r.parts))
  rw [← applyParts_value] at hrounds ⊢
  unfold updated at hrounds ⊢
  unfold partOf at hranks hstamps hrounds ⊢
  simp [contribute, ho, hr, ha.free, hsize, hfree, Nat.not_le.mpr hlt, hranks, hall, ha.sound, performRound, hstamps,
    hgo, hrounds]

/-- The contribution stands in its round, whose other parts are as before. -/
theorem execAmorContribution_joins (harr : Arrived s m 0) (hmore : ranksIn r + (hi - lo + 1) < n) :
    ∃ t, exec .amorContribution s = .next t
      ∧ SMap.find (locKey m.acc.home m.acc.addr) t.rounds = some { r with parts := insertPart (partOf m lo hi v) r.parts }
      ∧ t.mem = s.mem := by
  have hex := execAmorContribution_serves harr ha ho
  have hstands : (insertPart (partOf m lo hi v) r.parts).any (fun p => p.req == m.req) = true :=
    List.any_eq_true.mpr ⟨_, (insertPart_perm _ _).mem_iff.mpr List.mem_cons_self, beq_self_eq_true m.req⟩
  have hserve : serveAmor s s.sel.msg m = dropMsg (markAccepted
      (contribute s m.acc m.req m.srcStation).1 m.req) s.sel.msg := by
    simp [serveAmor, contribute_joins ha ho hr hfn hn hsize hlt hfree hmore, sendAll, sendAnswers, hstands]
  rw [hserve, contribute_joins ha ho hr hfn hn hsize hlt hfree hmore] at hex
  refine ⟨_, hex, ?_, ?_⟩ <;> rw [keepImage_outside, dropMsg, markAccepted_outside]
  exact SMap.find_put_same _ _ _

/-- The round is over, applied in rank order, and each of its parts is answered. -/
theorem execAmorContribution_fills (harr : Arrived s m 0) (hall : ranksIn r + (hi - lo + 1) = n)
    (hparts : ∀ p ∈ r.parts, (s.launchOf p.acc.who.task).det = false) :
    exec .amorContribution s = .next (keepImage (sendAll (dropMsg (contribute s m.acc m.req m.srcStation).1 s.sel.msg)
        (contribute s m.acc m.req m.srcStation).2) m.acc.home) := by
  have hfill := contribute_fills ha ho hr hfn hn hsize hlt hfree hall hparts
  have hgone : SMap.find (locKey m.acc.home m.acc.addr) (contribute s m.acc m.req m.srcStation).1.rounds = none := by
    rw [hfill]
    exact SMap.find_del_same _ _
  have hanswers : (contribute s m.acc m.req m.srcStation).2.isEmpty = false := by
    have hin : partOf m lo hi v ∈ insertPart (partOf m lo hi v) r.parts :=
      (insertPart_perm _ _).mem_iff.mpr List.mem_cons_self
    obtain ⟨i, hi⟩ := List.mem_iff_getElem?.mp hin
    rw [hfill]
    exact List.isEmpty_eq_false_iff.mpr (List.ne_nil_of_mem (applyParts_answers _ _ _ _ hi))
  refine (execAmorContribution_serves harr ha ho).trans ?_
  simp [serveAmor, hgone, hanswers]

/-- What the full round leaves. -/
theorem execAmorContribution_applies (harr : Arrived s m 0) (hall : ranksIn r + (hi - lo + 1) = n)
    (hparts : ∀ p ∈ r.parts, (s.launchOf p.acc.who.task).det = false) {ps : List RoundPart}
    (hps : ps = insertPart (partOf m lo hi v) r.parts) :
    let apply := appliedParts fn (8 * m.acc.size) (homeRead s m.acc.home m.acc.addr m.acc.size)
    ∃ t, exec .amorContribution s = .next t ∧ t.rounds = SMap.del (locKey m.acc.home m.acc.addr) s.rounds
      ∧ t.mem = (updated s m.acc (apply ps)).mem
      ∧ (∀ k, (t.task k).spad = ((updated s m.acc (apply ps)).task k).spad)
      ∧ (∀ i p a j, ps[i]? = some p → p.req = .acc a j →
          ∃ e ∈ t.net, e.2.req = p.req ∧ e.2.chan = 2
            ∧ e.2.reply = some (if p.acc.nr then .ack false else .data (apply (ps.take i)))) := by
  intro apply
  have hex := execAmorContribution_fills ha ho hr hfn hn hsize hlt hfree harr hall hparts
  rw [contribute_fills ha ho hr hfn hn hsize hlt hfree hall hparts, ← hps] at hex
  obtain ⟨hrounds, hmem, hspad, hnet⟩ := answeredAll_kept { updated s m.acc (apply ps) with
    rounds := SMap.del (locKey m.acc.home m.acc.addr) s.rounds } s.sel.msg
    (applyParts fn (8 * m.acc.size) (homeRead s m.acc.home m.acc.addr m.acc.size) ps).2 m.acc.home
  refine ⟨_, hex, hrounds, hmem, hspad, fun i p a j hi hreq => ?_⟩
  rw [hnet]
  exact sendAll_message (applyParts_answers _ _ _ _ hi) hreq _

end

end Sys2Proof.Machine
end

section
/-!
PROOFS. O18, from the lemmas on AMOX, AMOR and rounds.
-/
namespace Sys2Proof.Machine

/-- Settles O18: AMOX by whether the sum saturates and what VCTL makes of it, AMOR by its body, the answer and the rounds by
their events. -/
theorem exactAndRankedAtomics : Obligations.ExactAndRankedAtomics := by
  unfold Obligations.ExactAndRankedAtomics
  refine ⟨?amox, ?sends, ?answer, ?round⟩
  case amox =>
    intro f s hruns hready hclean hfree hquiet hprompt va old sum kept halign hown hsound
    have h : AmoxReady f s := ⟨hruns, hready, hclean, hfree, hquiet, hprompt, halign, hown, hsound⟩
    refine ⟨h.exact, fun hsat => ?_⟩
    obtain ⟨hword, hov⟩ := amoxNew_saturates hsat
    refine ⟨fun hon => ?flag, fun hon hnr => ?report, fun hon hnr hh hr hsaved => ?trap⟩
    case flag =>
      have hflags := h.flags hov hon
      rw [amoxDone, amoxStored, hword] at hflags
      exact hflags
    case report =>
      have hreports := h.reports hov hon hnr
      rw [amoxStored, hword] at hreports
      exact hreports
    case trap =>
      have htrapped := h.trapped hov hon hnr hh hr hsaved
      rw [amoxDone, amoxStored, hword] at htrapped
      exact htrapped
  case sends =>
    intro i fn f s htable hruns hready hclean hfree hquiet n va k cnt hpos hbound hrank halign hown
    have h : AmorReady f s := ⟨hruns, hready, hclean, hfree, hquiet, hpos, hbound, hrank, halign, hown⟩
    obtain ⟨hexec, hparcels⟩ := exec_amor htable s
    have hsends := h.sends hexec hparcels
    rw [h.accAt_eq] at hsends
    exact hsends
  case answer =>
    intro i fn f v m p o s htable hnr hans n x hdest hparks hsaved hlen hlive hmode hloop
    obtain ⟨t, ht, hnet, houts, hregs⟩ := execDataResponse_retires hans hdest hparks hsaved hlive hmode hloop
    refine ⟨t, ht, hnet, houts, by rw [hregs, hlen]; rfl, fun k => ?_⟩
    rw [hregs]
    exact writeDest_gr _ _ _ f.sz _
  case round =>
    intro fn n lo hi v r m s harr hat hop key new old apply hr hfn hn hsize hle hlt hfree hasc hparts
    have hranks : Ascending (insertPart (partOf m lo hi v) r.parts) :=
      hasc.insertPart hle (fun p hp => (hparts p hp).1) fun p hp => by
        simpa [partOf] using List.all_eq_true.mp hfree p hp
    have hperm := insertPart_perm (partOf m lo hi v) r.parts
    refine ⟨fun hmore => ?_, fun hall => ?_⟩
    · obtain ⟨t, ht, hfind, hmem⟩ := execAmorContribution_joins hat hop hr hfn hn hsize hlt hfree harr hmore
      exact ⟨t, _, ht, hfind, hranks, hperm, hmem⟩
    · obtain ⟨t, ht, hrounds, hmem, hspad, hanswers⟩ := execAmorContribution_applies hat hop hr hfn hn hsize hlt hfree harr
        hall (fun p hp => (hparts p hp).2) rfl
      exact ⟨t, _, ht, hrounds, hranks, hperm, hmem, hspad, hanswers⟩

end Sys2Proof.Machine
end

section
/-!
PROOFS. Laws of the scheduler log of a launch without LOG, of events to the host and of maps of strands (R169, R416).
-/
namespace Sys2Proof.Machine

/-! ### Maps of a sparse map that keep a part of each value -/

/-- A map over the values that keeps a part of each keeps that part of what is found. -/
theorem SMap.proj_find_map {α β : Type} {p : α → β} {g : α → α} (h : ∀ y, p (g y) = p y) (k : Nat) (m : SMap α) (d : α) :
    p ((SMap.find k (m.map (fun (j, y) => (j, g y)))).getD d) = p ((SMap.find k m).getD d) := by
  rw [SMap.find_map k (fun _ => g) m]
  cases SMap.find k m with
  | none => rfl
  | some y => exact h y

theorem SMap.find_of_mem {α : Type} {k : Nat} {v : α} {m : SMap α} (h : (k, v) ∈ m) : (SMap.find k m).isSome = true := by
  induction m with
  | nil => cases h
  | cons e r ih =>
    obtain ⟨j, w⟩ := e
    by_cases hj : j = k
    · simp [SMap.find, hj]
    · rcases List.mem_cons.mp h with heq | hr
      · exact absurd (Prod.mk.inj heq).1.symm hj
      · simpa [SMap.find, hj] using ih hr

/-! ### The scheduler log -/

section
variable {s : State} {launch : Nat} (h : (s.launch launch).log = false)
include h

theorem slogRoomFor_free (die n : Nat) : slogRoomFor s die launch n = true := by simp [slogRoomFor, h]

theorem slogAt_free (die level kind lcore pcore arg : Nat) : slogAt s die launch level kind lcore pcore arg = s := by
  simp [slogAt, h]

theorem slog_free (die kind lcore pcore arg : Nat) : slog s die launch kind lcore pcore arg = s :=
  slogAt_free h die _ kind lcore pcore arg

theorem logged_free (die n : Nat) (f : State → State) : logged s die launch n f = f s := by
  simp [logged, slogRoomFor_free h]

end

/-! ### Events to the host -/

/-- Delivering a link's writes to the host changes the books of those writes only. -/
theorem drainLink_outside (s : State) (link : Nat) :
    drainLink s link = { s with toHost := (drainLink s link).toHost, hostView := (drainLink s link).hostView } := by
  unfold drainLink
  generalize (s.toHost.map (·.1)).dedup.filter (fun f => linkOfFn f == link) = l
  refine List.foldlRecOn (motive := fun t : State => t = { s with toHost := t.toHost, hostView := t.hostView }) l drainHost
    rfl ?_
  intro u hu f _
  rw [hu]
  rfl

theorem sendMsix_outside (s : State) (fn vec : Nat) :
    sendMsix s fn vec = { s with toHost := (sendMsix s fn vec).toHost, hostView := (sendMsix s fn vec).hostView,
                                 msix := (sendMsix s fn vec).msix } := by
  unfold sendMsix
  rw [drainLink_outside s]

theorem sendMsix_function (s : State) (fn vec n : Nat) : (sendMsix s fn vec).function n = s.function n := by
  unfold State.function
  rw [sendMsix_outside]

/-- An event changes the function's registers and what the host is told only. -/
theorem raiseEvent_outside (s : State) (fn bit : Nat) :
    raiseEvent s fn bit = { s with functions := (raiseEvent s fn bit).functions, toHost := (raiseEvent s fn bit).toHost,
                                   hostView := (raiseEvent s fn bit).hostView, msix := (raiseEvent s fn bit).msix } := by
  unfold raiseEvent
  dsimp only
  split
  · rfl
  · split
    · rw [sendMsix_outside]
      rfl
    · rfl

/-- The event stands in FEVENT. -/
theorem raiseEvent_event (s : State) (fn : Nat) {bit : Nat} (hbit : bit < 64) :
    ((raiseEvent s fn bit).function fn).fevent.getLsbD bit = true := by
  have hset (f : Function) : (f.fevent ||| (1#64 <<< bit)).getLsbD bit = true := by
    simp [hbit]
  unfold raiseEvent
  dsimp only
  split
  next h => exact h
  · split
    · rw [sendMsix_function, State.function_modFunction_same]
      exact hset _
    · rw [State.function_modFunction_same]
      exact hset _

end Sys2Proof.Machine
end

section
/-!
PROOFS. What the die places next and on which core, and the seat a task takes (R148, R157 to R160).
-/
namespace Sys2Proof.Machine

theorem coreTakes_iff {s : State} {die : Nat} {x : Task} {c : Nat} : coreTakes s die x c = true ↔ CoreFor s die x c := by
  simp [coreTakes, CoreFor, and_assoc]

/-- The free core that the die finds is the lowest that may hold the task. -/
theorem freeCore_eq_some {s : State} {die : Nat} {x : Task} {c : Nat} : freeCore s die x = some c ↔ TakesCore s die x c := by
  have hfree (n : Nat) : (coreTakes s die x n && !coreBusy s die n) = true ↔ CoreFor s die x n ∧ coreBusy s die n = false := by
    simp [coreTakes_iff]
  rw [freeCore, List.find?_range_eq_some, TakesCore]
  constructor
  · rintro ⟨hc, hlt, hlow⟩
    refine ⟨List.mem_range.mp hlt, fun n hn => ⟨fun hp => ?_, fun heq => heq ▸ (hfree c).mp hc⟩⟩
    rcases Nat.lt_or_eq_of_le hn with h | h
    · have := hlow n h
      rw [(hfree n).mpr hp] at this
      cases this
    · exact h
  · rintro ⟨hlt, hall⟩
    refine ⟨(hfree c).mpr ((hall c le_rfl).mpr rfl), List.mem_range.mpr hlt, fun n hn => ?_⟩
    by_contra hp
    have := (hall n hn.le).mp ((hfree n).mp (by simpa using hp))
    omega

/-- The maximum over a list is at least each of its members. -/
theorem le_foldl_max {α : Type} (f : α → Nat) (l : List α) (a : Nat) :
    a ≤ l.foldl (fun n e => max n (f e)) a ∧ ∀ e ∈ l, f e ≤ l.foldl (fun n e => max n (f e)) a := by
  induction l generalizing a with
  | nil => simp
  | cons e r ih =>
    obtain ⟨hle, hmem⟩ := ih (max a (f e))
    simp only [List.foldl_cons, List.mem_cons, forall_eq_or_imp]
    exact ⟨by omega, by omega, hmem⟩

/-- A choice made along a list, of a member or of what was chosen before, is of a member. -/
theorem mem_of_foldl_choice {α : Type} {l : List α} {f : Option α → α → Option α}
    (hf : ∀ b e, f b e = some e ∨ f b e = b) {r : α} (h : l.foldl f none = some r) : r ∈ l := by
  refine List.foldlRecOn l f (motive := fun b => ∀ r, b = some r → r ∈ l) (fun _ h => by cases h) ?_ r h
  intro b hb e he r hr
  rcases hf b e with h | h
  · rw [h] at hr
    exact Option.some.inj hr ▸ he
  · exact hb r (h ▸ hr)

/-- What the die places next waits there, may have a core now, and is of the highest level of those that may. -/
theorem pickTask_some {s : State} {die k : Nat} (h : pickTask s die = some k) :
    ∃ y, (k, y) ∈ s.tasks ∧ y.die = die ∧ ∀ j x, Candidate s die j x → levelOf s x ≤ levelOf s y := by
  unfold pickTask at h
  dsimp only at h
  set c := s.tasks.filter (fun e =>
    e.2.die == die && waitsForCore e.2 && slogRoom s die e.2.launch && (freeCore s die e.2).isSome) with hc
  set top := c.foldl (fun n e => max n (effLevel s die (s.launch e.2.launch))) 0 with htop
  obtain ⟨⟨j, y⟩, hbest, rfl⟩ := Option.map_eq_some_iff.mp h
  have hmem := mem_of_foldl_choice (fun b e => by
    cases b with
    | none => exact .inl rfl
    | some x => dsimp only; split <;> simp) hbest
  obtain ⟨hy, hlevel⟩ := List.mem_filter.mp hmem
  obtain ⟨hin, hcand⟩ := List.mem_filter.mp hy
  simp only [Bool.and_eq_true, beq_iff_eq] at hcand hlevel
  obtain ⟨⟨⟨hdie, -⟩, -⟩, -⟩ := hcand
  refine ⟨y, hin, hdie, fun i x hx => ?_⟩
  obtain ⟨hix, hxd, hwait, hroom, core, htake⟩ := hx
  have hxc : (i, x) ∈ c := by
    simp [hc, hix, hxd, hwait, hroom, freeCore_eq_some.mpr htake]
  have := (le_foldl_max (fun e : Nat × Task => effLevel s die (s.launch e.2.launch)) c 0).2 (i, x) hxc
  rw [levelOf, levelOf, hxd, hdie, hlevel]
  exact this

theorem hasTask_of_mem {s : State} {k : Nat} {x : Task} (h : (k, x) ∈ s.tasks) : s.hasTask k = true :=
  SMap.find_of_mem h

theorem hasTask_of_pickTask {s : State} {die k : Nat} (h : pickTask s die = some k) : s.hasTask k = true :=
  have ⟨_, hmem, _⟩ := pickTask_some h
  hasTask_of_mem hmem

/-! ### A task takes its core -/

/-- A strand on its task's new core: it issues again. -/
def seatedStrand (y : Strand) : Strand := { y with lastWait := y.wait.orElse (fun _ => y.lastWait), wait := none }

/-- A task on its new core, with the scratchpad it has there. -/
def seatedTask (s : State) (core bytes : Nat) (x : Task) : Task :=
  { x with
    place := .running core, quantum := s.clock, spsize := bytes, placed := true,
    strands := x.strands.map (fun (k, y) => (k, seatedStrand y)),
    queues := x.queues.map (fun (q, l) => (q, l.map (fun e => { e with walkFault := none }))) }

/-- The scratchpad a task has on a core (R148). -/
def seatBytes (s : State) (x : Task) (core : Nat) : Nat :=
  if x.placed then x.spsize else if needBytes s x = 0 then usableBytes ((s.die x.die).core core) else needBytes s x

/-- Seating a task of a launch without LOG changes that task and its die's queues only. -/
theorem seatTask_free {s : State} {k : Nat} (core kind : Nat) (hlog : (s.launchOf k).log = false) :
    ∃ ds, seatTask s k core kind
      = { s.modTask k (seatedTask s core (seatBytes s (s.task k) core)) with dies := ds } := by
  have hseat : seatTask s k core kind = serveQueue s
      (s.modTask k (seatedTask s core (seatBytes s (s.task k) core))) (s.task k).die (s.task k).launch := by
    show serveQueue s (slogAt (s.modTask k _) _ _ _ _ _ _ _) _ _ = _
    rw [slogAt_free (s := s.modTask k _) hlog]
    exact congrArg (serveQueue s · _ _) (modTask_congr rfl)
  exact ⟨_, hseat⟩

@[simp] theorem seatedTask_strand_r (s : State) (core bytes : Nat) (x : Task) (n : Nat) :
    ((seatedTask s core bytes x).strand n).r = (x.strand n).r :=
  SMap.proj_find_map (p := Strand.r) (g := seatedStrand) (fun _ => rfl) n x.strands {}

/-- The next task of the die, never placed before, takes the free core. -/
theorem execPlacement_seats {s : State} {k c : Nat} (hpick : pickTask s s.sel.die = some k)
    (hcore : TakesCore s s.sel.die (s.task k) c) (hnew : (s.task k).placed = false) (hreset : s.service.resetting = false) :
    exec .placement s = .next (seatTask s k c 3) := by
  show execPlacement s = _
  simp [execPlacement, hpick, freeCore_eq_some.mpr hcore, hnew, hreset]

/-- A queue whose level has waited AGE rises, where no launch of it with a task that waits keeps a log; one that has not
stays. -/
theorem execAgeing_eq {s : State} {l : Launch} (hhead : headLaunch s s.sel.die s.sel.queue = some l)
    (hfree : ∀ w ∈ waitingLaunches s s.sel.die s.sel.queue, (s.launch w.1).log = false) :
    exec .ageing s = .next (if effLevel s s.sel.die l < 7 ∧ ((SMap.find s.sel.queue (s.die s.sel.die).levels).getD {}).since.toNat
        + 1000 * SMap.get 1000 (s.die s.sel.die).age (effLevel s s.sel.die l) ≤ s.clock.toNat then
      s.modDie s.sel.die (fun d =>
        { d with levels := SMap.put s.sel.queue { level := effLevel s s.sel.die l + 1, since := s.clock } d.levels })
      else s) := by
  have hnone : (waitingLaunches s s.sel.die s.sel.queue).filter (fun w => (s.launch w.1).log) = [] := by
    simpa [List.filter_eq_nil_iff] using hfree
  show execAgeing s = _
  unfold execAgeing
  simp only [hhead, hnone, List.foldl_nil]
  split <;> rfl

end Sys2Proof.Machine
end

section
/-!
PROOFS. O46, from the lemmas on the choice of a task, its core and its seat, and on ageing.
-/
namespace Sys2Proof.Machine

/-- Settles O46: the task picked has the top level of the candidates and takes the core found; a head queue ages by its
test. -/
theorem placementByLevel : Obligations.PlacementByLevel := by
  unfold Obligations.PlacementByLevel
  refine ⟨?place, ?age⟩
  case place =>
    intro k c s die hpick hcore hnew hreset hlog hdie
    obtain ⟨y, hy, -, htop⟩ := pickTask_some hpick
    have hk := hasTask_of_mem hy
    refine ⟨fun j x hx => ⟨y, hy, htop j x hx⟩, _, execPlacement_seats hpick hcore hnew hreset, ?_⟩
    obtain ⟨ds, hseat⟩ := seatTask_free c 3 hlog
    have htask : (seatTask s k c 3).task k = seatedTask s c (seatBytes s (s.task k) c) (s.task k) := by
      rw [hseat]
      exact State.task_modTask_same hk _
    rw [htask]
    refine ⟨by rw [hseat]; rfl, rfl, rfl, rfl, ?size, rfl, fun n => seatedTask_strand_r _ _ _ _ n, fun j hj => ?other⟩
    case size =>
      have hneed : needBytes s (s.task k) = (s.launchOf k).spadkb * 1024 := by simp [needBytes, hnew, State.launchOf]
      show seatBytes s (s.task k) c = _
      rw [seatBytes, hnew, if_neg Bool.false_ne_true, hneed, hdie]
      by_cases hzero : (s.launchOf k).spadkb = 0 <;> simp [hzero]
    case other =>
      rw [hseat]
      exact SMap.find_upd_other hj _ _
  case age =>
    intro l s die d q level hhead hfree hlt
    have hex := execAgeing_eq hhead hfree
    exact ⟨fun hold => by rw [hex, if_pos ⟨hlt, hold⟩], fun hyoung => by rw [hex, if_neg (fun h => Nat.not_le.mpr hyoung h.2)]⟩

end Sys2Proof.Machine
end

section
/-!
PROOFS. Laws of translation and of writes by direct walks: what they depend on and what they change (R137, R187, R188).
-/
namespace Sys2Proof.Machine

/-! ### Walks -/

/-- The translation tables of both states are the same. -/
structure SameTables (s u : State) : Prop where
  mem : u.mem = s.mem
  vfroot : ∀ fn, (u.function fn).vfroot = (s.function fn).vfroot
  hostroot : ∀ fn, (u.function fn).hostroot = (s.function fn).hostroot

section
variable {s u : State} (h : SameTables s u)
include h

theorem SameTables.walkHost (fn ia : Nat) : walkHost u fn ia = Machine.walkHost s fn ia := by
  rw [Machine.walkHost, Machine.walkHost, h.mem, h.hostroot]

theorem SameTables.walk (fn page : Nat) : walk u fn page = Machine.walk s fn page := by
  simp only [Machine.walk, hostPa, h.walkHost, h.mem, h.vfroot]

theorem SameTables.directPa (fn : Nat) (va : Word) (n : Need) (sup : Bool) :
    directPa u fn va n sup = Machine.directPa s fn va n sup := by
  simp only [Machine.directPa, h.walk]

theorem SameTables.directRead (fn : Nat) (va : Word) (sup : Bool) (n : Nat) :
    directRead u fn va sup n = Machine.directRead s fn va sup n := by
  induction n generalizing va with
  | zero => rfl
  | succ n ih => simp only [Machine.directRead, h.directPa, ih, h.mem]

end

/-! ### Writes -/

/-- What a write by direct walks depends on: the tables, the regions of the physical map and the books of host writes. -/
structure SameStore (s u : State) : Prop extends SameTables s u where
  physMap : u.physMap = s.physMap
  toHost : u.toHost = s.toHost
  hostView : u.hostView = s.hostView

theorem SameStore.refl (s : State) : SameStore s s := ⟨⟨rfl, fun _ => rfl, fun _ => rfl⟩, rfl, rfl, rfl⟩

/-- A state with the stores of another: memory, and the writes of functions on their way to the host. -/
def withStores (s w : State) : State := { s with mem := w.mem, toHost := w.toHost, hostView := w.hostView }

theorem writePa_outside (s : State) (fn pa : Nat) (bs : List (Option Byte)) :
    writePa s fn pa bs = withStores s (writePa s fn pa bs) := by
  unfold writePa
  dsimp only
  split <;> rfl

theorem SameStore.writePa {s u : State} (h : SameStore s u) (fn pa : Nat) (bs : List (Option Byte)) :
    writePa u fn pa bs = withStores u (Machine.writePa s fn pa bs) := by
  have hhost : isHostPa u pa = isHostPa s pa := by
    unfold isHostPa homeOfPa regionOf
    rw [h.physMap]
  have hview : keepView u pa bs = keepView s pa bs := by
    unfold keepView
    rw [h.mem, h.hostView]
  unfold Machine.writePa
  dsimp only
  rw [hhost, hview, h.mem, h.toHost]
  split
  · rfl
  · simp only [withStores, h.hostView]

/-- A write leaves both states with the same stores. -/
theorem SameStore.written {s u : State} (h : SameStore s u) (fn pa : Nat) (bs : List (Option Byte)) :
    SameStore (Machine.writePa s fn pa bs) (Machine.writePa u fn pa bs) := by
  rw [h.writePa, writePa_outside s]
  exact ⟨⟨rfl, h.vfroot, h.hostroot⟩, h.physMap, rfl, rfl⟩

/-- A write by direct walks does the same in states with the same tables and stores. -/
theorem SameStore.directWrite {s u : State} (h : SameStore s u) (fn : Nat) (va : Word) (sup : Bool) (bs : List Byte) :
    directWrite u fn va sup bs = (Machine.directWrite s fn va sup bs).map (withStores u) := by
  induction bs generalizing s u va with
  | nil =>
    show Except.ok u = Except.ok (withStores u s)
    rw [withStores, ← h.mem, ← h.toHost, ← h.hostView]
  | cons b bs ih =>
    simp only [Machine.directWrite, h.directPa]
    cases Machine.directPa s fn va .write sup with
    | error f => rfl
    | ok pa =>
      show Machine.directWrite (Machine.writePa u fn pa [some b]) fn (va + 1) sup bs
        = (Machine.directWrite (Machine.writePa s fn pa [some b]) fn (va + 1) sup bs).map (withStores u)
      rw [ih (h.written fn pa [some b]), h.writePa]
      rfl

/-- A write by direct walks changes memory and the books of host writes only. -/
theorem directWrite_outside {s w : State} {fn : Nat} {va : Word} {sup : Bool} {bs : List Byte}
    (h : directWrite s fn va sup bs = .ok w) : w = withStores s w := by
  have := (SameStore.refl s).directWrite fn va sup bs
  rw [h] at this
  exact Except.ok.inj this

end Sys2Proof.Machine
end

section
/-!
PROOFS. The switch-in: which task is parked for want of a core, and what a task's queues and freeze are on its new core
(R163, R181, R310).
-/
namespace Sys2Proof.Machine

/-! ### Queues on the new core -/

theorem mem_insertEntry {e y : Entry} {l : List Entry} (h : y ∈ insertEntry e l) : y = e ∨ y ∈ l := by
  induction l with
  | nil => exact .inl (List.mem_singleton.mp h)
  | cons x r ih =>
    unfold insertEntry at h
    split at h
    · exact List.mem_cons.mp h
    · rcases List.mem_cons.mp h with heq | hr
      · exact .inr (heq ▸ List.mem_cons_self)
      · exact (ih hr).imp_right (List.mem_cons_of_mem _)

theorem restoreQueues_queue_other (c : Core) (x : Task) {q : Nat} (h1 : q ≠ 1) (h2 : q ≠ 2) :
    (restoreQueues c x).queue q = x.queue q := by
  unfold restoreQueues
  rw [Task.queue_setQueue_other _ h2, Task.queue_setQueue_other _ h1]

/-- Where no entry of the matrix queues holds a fault, none of the restored queues does. -/
theorem restoreQueues_fault (c : Core) {x : Task} (h1 : ∀ e ∈ x.queue 1, e.fault = none) (h2 : ∀ e ∈ x.queue 2, e.fault = none)
    {q : Nat} (hq : q = 1 ∨ q = 2) : ∀ e ∈ (restoreQueues c x).queue q, e.fault = none := by
  set all := (x.queue 1).map (fun e => (e, redispatch c e 1)) ++ (x.queue 2).map (fun e => (e, redispatch c e 2)) with hall
  have hsound : ∀ p ∈ all, p.1.fault = none := by
    intro p hp
    rcases List.mem_append.mp hp with hp | hp <;> obtain ⟨e, he, rfl⟩ := List.mem_map.mp hp
    · exact h1 e he
    · exact h2 e he
  have hpick (n : Nat) : ∀ e ∈ all.foldl (fun l (e, d) =>
      match d with
      | some (m, steered) => if m = n then insertEntry { e with cap := { e.cap with steered := steered } } l else l
      | none => l) [], e.fault = none := by
    refine List.foldlRecOn all _ (motive := fun l : List Entry => ∀ e ∈ l, e.fault = none) (fun _ h => by cases h) ?_
    rintro l hl ⟨e, d⟩ hp y hy
    dsimp only at hy
    split at hy
    · split at hy
      · rcases mem_insertEntry hy with rfl | hy
        · exact hsound _ hp
        · exact hl y hy
      · exact hl y hy
    · exact hl y hy
  have hrest : restoreQueues c x = (x.setQueue 1 (all.foldl (fun l (e, d) =>
      match d with
      | some (m, steered) => if m = 1 then insertEntry { e with cap := { e.cap with steered := steered } } l else l
      | none => l) [])).setQueue 2 (all.foldl (fun l (e, d) =>
      match d with
      | some (m, steered) => if m = 2 then insertEntry { e with cap := { e.cap with steered := steered } } l else l
      | none => l) []) := rfl
  rw [hrest]
  rcases hq with rfl | rfl
  · rw [Task.queue_setQueue_other _ (by decide), Task.queue_setQueue_same]
    exact hpick 1
  · rw [Task.queue_setQueue_same]
    exact hpick 2

/-! ### No fault of an engine is pending -/

theorem pendingFault_none {x : Task} (h : ∀ q, q < 9 → ∀ e ∈ x.queue q, e.fault = none) : pendingFault x = none := by
  simp only [pendingFault, List.findSome?_eq_none_iff, List.mem_range]
  intro q hq e he
  simp [h q hq e he]

/-- An entry that keeps no result of an earlier walk (R178, R189). -/
def Entry.withoutWalk (e : Entry) : Entry := { e with walkFault := none }

/-- A change of every entry of a task's queues, seen in one of them. -/
theorem Task.queue_mapped (x : Task) (f : Entry → Entry) (q : Nat) :
    ({ x with queues := x.queues.map (fun (q, l) => (q, l.map f)) } : Task).queue q = (x.queue q).map f :=
  SMap.getD_find_map (List.map f) q x.queues []

@[simp] theorem dropWalks_queue (x : Task) (q : Nat) : x.dropWalks.queue q = (x.queue q).map Entry.withoutWalk :=
  x.queue_mapped Entry.withoutWalk q

@[simp] theorem dropWalks_strand_r (x : Task) (n : Nat) : (x.dropWalks.strand n).r = (x.strand n).r :=
  SMap.proj_find_map (p := Strand.r)
    (g := fun y => { y with walkFault := none, routine := y.routine.map (fun e => { e with walkFault := none }) })
    (fun _ => rfl) n x.strands {}

/-- A freeze lifts where no engine's fault waits: the task, without its freeze and walks, is all that changes. -/
theorem liftFreeze_plain {s : State} {k : Nat} (hk : s.hasTask k = true)
    (h : ∀ q, q < 9 → ∀ e ∈ (s.task k).queue q, e.fault = none) :
    liftFreeze s k = s.modTask k (fun x => Task.dropWalks { x with freeze := none, pendingResume := none }) := by
  have hnone : pendingFault ((s.modTask k (fun x => Task.dropWalks { x with freeze := none, pendingResume := none })).task k)
      = none := by
    rw [State.task_modTask_same hk]
    refine pendingFault_none fun q hq e he => ?_
    rw [dropWalks_queue] at he
    obtain ⟨e', he', rfl⟩ := List.mem_map.mp he
    exact h q hq e' he'
  unfold liftFreeze
  simp only [hnone]

/-! ### The steps -/

theorem coreless_iff {s : State} {die : Nat} {x : Task} :
    coreless s die x = true ↔ x.placed = true ∧ ∀ n, n < 36 → ¬CoreFor s die x n := by
  simp [coreless, ← coreTakes_iff]

/-- No task is parked for want of a core where every waiting task has one on the die that may hold it. -/
theorem corelessTask_none {s : State} {die : Nat}
    (h : ∀ e ∈ s.tasks, e.2.die = die → waitsForCore e.2 = true → e.2.placed = true → ∃ n, n < 36 ∧ CoreFor s die e.2 n) :
    corelessTask s die = none := by
  simp only [corelessTask, Option.map_eq_none_iff, List.find?_eq_none, Bool.and_eq_true, beq_iff_eq, not_and]
  intro e he hp hless
  obtain ⟨n, hn, hcore⟩ := h e he hp.1.1 hp.1.2 (coreless_iff.mp hless).1
  exact (coreless_iff.mp hless).2 n hn hcore

/-- A task without a core of the die is parked, where every other has one. -/
theorem corelessTask_some {s : State} {die k : Nat} {x : Task} (hin : (k, x) ∈ s.tasks) (hdie : x.die = die)
    (hwait : waitsForCore x = true) (hroom : slogRoom s die x.launch = true) (hless : coreless s die x = true)
    (hothers : ∀ e ∈ s.tasks, e.1 ≠ k → e.2.die = die → waitsForCore e.2 = true → e.2.placed = true →
      ∃ n, n < 36 ∧ CoreFor s die e.2 n) : corelessTask s die = some k := by
  have hany : ∃ e ∈ s.tasks, (e.2.die == die && waitsForCore e.2 && slogRoom s die e.2.launch && coreless s die e.2) = true :=
    ⟨(k, x), hin, by simp [hdie, hwait, hroom, hless]⟩
  obtain ⟨e, he⟩ := Option.isSome_iff_exists.mp (List.find?_isSome.mpr hany)
  have hp := List.find?_some he
  simp only [Bool.and_eq_true, beq_iff_eq] at hp
  obtain ⟨⟨⟨hd, hw⟩, -⟩, hl⟩ := hp
  rw [corelessTask, he]
  by_contra hne
  obtain ⟨n, hn, hcore⟩ := hothers e (List.mem_of_find?_eq_some he) (fun h => hne (congrArg some h)) hd hw (coreless_iff.mp hl).1
  exact (coreless_iff.mp hl).2 n hn hcore

/-- The switched-out task picked takes its core, and a freeze that awaits a resume lifts. -/
theorem execSwitchIn_seats {s : State} {k c : Nat} (hcore : corelessTask s s.sel.die = none)
    (hpick : pickTask s s.sel.die = some k) (htake : TakesCore s s.sel.die (s.task k) c) (hplaced : (s.task k).placed = true)
    (hreset : s.service.resetting = false) :
    let seated := (seatTask s k c 5).modTask k (restoreQueues ((s.die s.sel.die).core c))
    exec .switchIn s = .next (if (seated.task k).pendingResume.isSome then liftFreeze seated k else seated) := by
  show execSwitchIn s = _
  simp [execSwitchIn, hreset, hcore, hpick, freeCore_eq_some.mpr htake, hplaced]

/-- A task that no core could serve is parked, and the host told. -/
theorem execSwitchIn_parks {s : State} {k : Nat} (hcore : corelessTask s s.sel.die = some k)
    (hreset : s.service.resetting = false) (hlog : (s.launchOf k).log = false) :
    exec .switchIn s = .next (raiseEvent (s.modTask k (fun x => { x with place := .parked, parkedSince := some s.clock }))
      (s.launchOf k).fn 2) := by
  show execSwitchIn s = _
  unfold execSwitchIn
  simp only [hreset, hcore, Bool.false_eq_true, if_false]
  rw [slogAt_free (by simpa [State.launchOf] using hlog)]
  rfl

/-- A switched-out task on its new core, its matrix queues restored. -/
def restoredTask (s : State) (c : Nat) (x : Task) : Task := restoreQueues ((s.die x.die).core c) (seatedTask s c x.spsize x)

/-- Seating a switched-out task and restoring its queues changes that task and its die's queues only. -/
theorem seatTask_restored {s : State} {k : Nat} (c : Nat) (hlog : (s.launchOf k).log = false)
    (hplaced : (s.task k).placed = true) (hdie : (s.task k).die = s.sel.die) :
    ∃ ds, (seatTask s k c 5).modTask k (restoreQueues ((s.die s.sel.die).core c))
      = { s.modTask k (restoredTask s c) with dies := ds } := by
  obtain ⟨ds, hseat⟩ := seatTask_free c 5 hlog
  have hbytes : seatBytes s (s.task k) c = (s.task k).spsize := if_pos hplaced
  have htwice : (s.modTask k (seatedTask s c (seatBytes s (s.task k) c))).modTask k (restoreQueues ((s.die s.sel.die).core c))
      = s.modTask k (restoredTask s c) := by
    rw [State.modTask_modTask]
    exact modTask_congr (by rw [restoredTask, hbytes, hdie])
  rw [hseat, ← htwice]
  exact ⟨ds, rfl⟩

theorem restoredTask_queue (s : State) (c : Nat) (x : Task) {q : Nat} (h1 : q ≠ 1) (h2 : q ≠ 2) :
    (restoredTask s c x).queue q = (x.queue q).map Entry.withoutWalk := by
  rw [restoredTask, restoreQueues_queue_other _ _ h1 h2]
  exact x.queue_mapped Entry.withoutWalk q

theorem restoredTask_strand_r (s : State) (c : Nat) (x : Task) (n : Nat) :
    ((restoredTask s c x).strand n).r = (x.strand n).r := seatedTask_strand_r s c x.spsize x n

theorem restoredTask_fault (s : State) (c : Nat) {x : Task} (h : ∀ q, q < 9 → ∀ e ∈ x.queue q, e.fault = none) :
    ∀ q, q < 9 → ∀ e ∈ (restoredTask s c x).queue q, e.fault = none := by
  have hseated (q : Nat) (hq : q < 9) : ∀ e ∈ (seatedTask s c x.spsize x).queue q, e.fault = none := by
    have hqueue : (seatedTask s c x.spsize x).queue q = (x.queue q).map Entry.withoutWalk :=
      x.queue_mapped Entry.withoutWalk q
    intro e he
    rw [hqueue] at he
    obtain ⟨e', he', rfl⟩ := List.mem_map.mp he
    exact h q hq e' he'
  intro q hq
  by_cases h12 : q = 1 ∨ q = 2
  · exact restoreQueues_fault _ (hseated 1 (by decide)) (hseated 2 (by decide)) h12
  · rw [not_or] at h12
    rw [restoredTask, restoreQueues_queue_other _ _ h12.1 h12.2]
    exact hseated q hq

end Sys2Proof.Machine
end

section
/-!
PROOFS. O48, from the lemmas on the switch-in.
-/
namespace Sys2Proof.Machine

/-- Settles O48: the task restored on its core, with its freeze lifted where a resume is due; the task parked where no core
of the die serves it. -/
theorem switchInRestores : Obligations.SwitchInRestores := by
  unfold Obligations.SwitchInRestores
  intro k s die x hplaced hreset hlog hdie
  refine ⟨?restores, ?parks⟩
  case restores =>
    intro c hpick hserved htake hfault
    have hk := hasTask_of_pickTask hpick
    have hex := execSwitchIn_seats (corelessTask_none hserved) hpick htake hplaced hreset
    obtain ⟨ds, hseat⟩ := seatTask_restored c hlog hplaced hdie
    simp only [hseat] at hex
    set seated : State := { s.modTask k (restoredTask s c) with dies := ds }
    have hks : seated.hasTask k = true := (State.hasTask_modTask s k k _).trans hk
    have htask : seated.task k = restoredTask s c x := State.task_modTask_same hk _
    by_cases hdue : x.pendingResume = none
    · rw [if_neg (by rw [htask]; exact Option.not_isSome_iff_eq_none.mpr hdue)] at hex
      refine ⟨seated, hex, ?_⟩
      rw [htask, if_pos hdue]
      exact ⟨rfl, rfl, rfl, rfl, restoredTask_strand_r s c x, fun q h1 h2 => restoredTask_queue s c x h1 h2, rfl, rfl⟩
    · rw [if_pos (by rw [htask]; exact Option.isSome_iff_ne_none.mpr hdue),
        liftFreeze_plain hks (by rw [htask]; exact restoredTask_fault s c hfault)] at hex
      refine ⟨_, hex, ?_⟩
      rw [State.task_modTask_same hks, htask, if_neg hdue]
      refine ⟨rfl, rfl, rfl, rfl, fun n => ?_, fun q h1 h2 => ?_, rfl, rfl⟩
      · exact (dropWalks_strand_r _ n).trans (restoredTask_strand_r s c x n)
      · rw [dropWalks_queue]
        show List.map _ ((restoredTask s c x).queue q) = _
        rw [restoredTask_queue s c x h1 h2, List.map_map]
        rfl
  case parks =>
    intro hin hwait hless hothers
    have hk := hasTask_of_mem hin
    have hcore : corelessTask s die = some k := corelessTask_some hin hdie hwait (slogRoomFor_free hlog die 1)
      (coreless_iff.mpr ⟨hplaced, hless⟩) hothers
    refine ⟨_, execSwitchIn_parks hcore hreset hlog, ?_, ?_, raiseEvent_event _ _ (by decide), ?_⟩ <;> rw [raiseEvent_outside]
    · exact congrArg Task.place (State.task_modTask_same hk _)
    · exact congrArg Task.parkedSince (State.task_modTask_same hk _)
    · rfl

end Sys2Proof.Machine
end

section
/-!
PROOFS. Numbers in memory: what a word reads as after a write of its bytes or of others, and DONE at the end of work (R4,
R145).
-/
namespace Sys2Proof.Machine

theorem readNat_congr {m m' : SMap Byte} {a n : Nat} (h : ∀ i, i < n → readByte m (a + i) = readByte m' (a + i)) :
    readNat m a n = readNat m' a n := by
  induction n generalizing a with
  | zero => rfl
  | succ n ih =>
    have hhead := h 0 (by omega)
    have htail := ih (a := a + 1) fun i hi => by
      rw [Nat.add_assoc, Nat.add_comm 1 i]
      exact h (i + 1) (by omega)
    simp only [readNat, htail]
    rw [show readByte m a = readByte m' a from hhead]

theorem readNat_lt (m : SMap Byte) (a n : Nat) : readNat m a n < 256 ^ n := by
  induction n generalizing a with
  | zero => simp [readNat]
  | succ n ih =>
    have := ih (a + 1)
    have hbyte := (readByte m a).isLt
    rw [readNat, Nat.pow_succ']
    omega

/-- A word reads as the number whose bytes were written there. -/
theorem readNat_writeBytes_same (m : SMap Byte) (a v n : Nat) : readNat (writeBytes m a (bytesOf v n)) a n = v % 256 ^ n := by
  have hbytes : ∀ (m' : SMap Byte) (k b : Nat),
      (∀ i, i < k → readByte m' (b + i) = (bytesOf v n).getD (n - k + i) 0) → k ≤ n →
      readNat m' b k = v / 256 ^ (n - k) % 256 ^ k := by
    intro m' k
    induction k with
    | zero => intro b _ _; simp [readNat, Nat.mod_one]
    | succ k ih =>
      intro b hread hk
      have htail := ih (b + 1) (fun i hi => by
        have := hread (i + 1) (by omega)
        rw [show b + 1 + i = b + (i + 1) by omega, this, show n - (k + 1) + (i + 1) = n - k + i by omega]) (by omega)
      have hhead : readByte m' b = BitVec.ofNat 8 (v / 256 ^ (n - (k + 1))) := by
        have := hread 0 (by omega)
        rwa [Nat.add_zero, Nat.add_zero, bytesOf, wordBytes_getD _ _ _ (by omega)] at this
      rw [readNat, hhead, htail, BitVec.toNat_ofNat, Nat.pow_succ' (m := 256), Nat.mod_mul, Nat.div_div_eq_div_mul,
        ← Nat.pow_succ, show (n - (k + 1)).succ = n - k by omega]
  have := hbytes (writeBytes m a (bytesOf v n)) n a (fun i hi => by
    rw [readByte_writeBytes, bytesOf_length, if_pos (by omega), Nat.add_sub_cancel_left, Nat.sub_self, Nat.zero_add]) le_rfl
  rwa [Nat.sub_self, Nat.pow_zero, Nat.div_one] at this

/-- A write elsewhere leaves a word as it reads. -/
theorem readNat_writeBytes_apart (m : SMap Byte) {a b n : Nat} (bs : List Byte) (h : a + n ≤ b ∨ b + bs.length ≤ a) :
    readNat (writeBytes m b bs) a n = readNat m a n := by
  refine readNat_congr fun i hi => ?_
  rw [readByte_writeBytes, if_neg (by omega)]

theorem doneStep_eq (status v : Nat) : doneStep status v = doneAfter status v := rfl

theorem doneAfter_lt (status v : Nat) : doneAfter status v < 2 ^ 64 := by
  unfold doneAfter
  dsimp only
  have hw : (v + 2 ^ 64 - 1) % 2 ^ 64 < 2 ^ 64 := Nat.mod_lt _ (by decide)
  split
  · exact hw
  · exact Nat.or_lt_two_pow hw (by decide)

end Sys2Proof.Machine
end

section
/-!
PROOFS. Barriers, the end of a phase, of a task and of a launch, where no closing check finds a fault (R145, R152 to R156).
-/
namespace Sys2Proof.Machine

/-! ### Launches -/

theorem State.launch_of_find {s : State} {key : Nat} {l : Launch} (h : SMap.find key s.launches = some l) :
    s.launch key = l := by
  rw [State.launch, h, Option.getD_some]

theorem State.find_modLaunch_same {s : State} {key : Nat} {l : Launch} (h : SMap.find key s.launches = some l)
    (f : Launch → Launch) : SMap.find key (s.modLaunch key f).launches = some (f l) := by
  rw [State.modLaunch, SMap.find_upd_same, h, Option.map_some]

theorem State.launch_modLaunch_same {s : State} {key : Nat} {l : Launch} (h : SMap.find key s.launches = some l)
    (f : Launch → Launch) : (s.modLaunch key f).launch key = f l :=
  State.launch_of_find (State.find_modLaunch_same h f)

theorem mem_tasksOf {s : State} {key : Nat} {e : Nat × Task} : e ∈ tasksOf s key ↔ e ∈ s.tasks ∧ e.2.launch = key := by
  simp [tasksOf]

theorem closeRoom_free {s : State} {key : Nat} (h : (s.launch key).log = false) : closeRoom s key = true :=
  List.all_eq_true.mpr fun _ _ => slogRoomFor_free h _ _

theorem foldl_fixed_of_mem {α β : Type} {f : β → α → β} {b : β} {l : List α} (h : ∀ a ∈ l, f b a = b) : l.foldl f b = b :=
  List.foldlRecOn l f (motive := (· = b)) rfl fun _ hb a ha => hb ▸ h a ha

/-! ### Barriers (R152) -/

/-- A team has arrived where every member that has not ended has, one of them being there. -/
theorem teamArrived_iff {ts : SMap Task} {key n : Nat} (h : ∃ e ∈ ts, e.2.ended = false) :
    teamArrived ts key n = true ↔ ∀ e ∈ ts, e.2.ended = false → n < SMap.get 0 e.2.arrived key := by
  have hany : ts.any (fun e => !e.2.ended) = true := by simpa [List.any_eq_true] using h
  rw [teamArrived, hany, Bool.and_true, List.all_eq_true]
  refine forall₂_congr fun e _ => ?_
  cases e.2.ended <;> simp

theorem mem_myTask {s : State} (h : s.hasTask s.sel.task = true) : (s.sel.task, myTask s) ∈ s.tasks :=
  SMap.mem_of_find (State.find_task h)

/-- A barrier completes when its team has arrived. -/
theorem execTeamBarrierCompletion_eq {s : State} (hk : s.hasTask s.sel.task = true) (hkey : s.sel.item ≠ 0x80) :
    exec .teamBarrierCompletion s = .next
      (if teamArrived ((tasksOf s (myTask s).launch).filter (fun e => teamOf e.2 s.sel.item == teamOf (myTask s) s.sel.item))
          s.sel.item (completed (myLaunch s) (myTask s) s.sel.item) then
        s.modLaunch (myTask s).launch (fun l => { l with
          barriers := (SMap.put (barrierKey (myTask s) s.sel.item) (completed (myLaunch s) (myTask s) s.sel.item + 1)
            l.barriers) })
      else s) := by
  show execTeamBarrierCompletion s = _
  simp only [execTeamBarrierCompletion, hk, bne_iff_ne.mpr hkey, Bool.and_true, Bool.true_and]
  show (if _ then _ else _) = _
  split
  next h => exact congrArg Host.Outcome.next (if_pos h).symm
  next h => exact congrArg Host.Outcome.next (if_neg h).symm

/-! ### The closing steps of a phase (R154) -/

/-- No report, unread error or monitor of a launch is left for the closing steps. -/
structure NothingDue (s : State) (key : Nat) : Prop where
  reports : ∀ e ∈ tasksOf s key, ∀ k, (s.strand e.1 k).reports = []
  read : ∀ e ∈ tasksOf s key, unreadSem (s.task e.1) = none
  monitors : (s.launch key).monitors = []

theorem closeReports_none {s : State} {key : Nat} (h : NothingDue s key) : closeReports s key = (s, false) := by
  refine foldl_fixed_of_mem fun e he => ?_
  have hnone : (List.range 8).find? (fun k => !((s.strand e.1 k).reports.isEmpty)) = none := by
    simp [List.find?_eq_none, h.reports e he]
  simp only [hnone]

theorem closeUnread_none {s : State} {key : Nat} (h : NothingDue s key) : closeUnread s key = (s, false) := by
  refine foldl_fixed_of_mem fun e he => ?_
  simp only [h.read e he]

theorem checkMonitors_find {s : State} {key : Nat} {l : Launch} (h : SMap.find key s.launches = some l)
    (hmon : l.monitors = []) : SMap.find key (checkMonitors s key).launches = some l := by
  rw [checkMonitors, State.find_modLaunch_same h]
  obtain ⟨⟩ := l
  subst hmon
  rfl

theorem dueTraps_nil {s : State} {key : Nat} (h : (s.launch key).monitors = []) : dueTraps s key = [] := by
  simp [dueTraps, h]

theorem closeMonitors_none {s : State} {key : Nat} {l : Launch} (h : SMap.find key s.launches = some l)
    (hmon : l.monitors = []) : closeMonitors s key = (checkMonitors s key, false) := by
  have hlaunch := State.launch_of_find (checkMonitors_find h hmon)
  simp only [closeMonitors]
  rw [dueTraps_nil (by rw [hlaunch, hmon])]
  rfl

/-! ### What the end of a phase leaves of tasks -/

/-- A task once its phase is over: no stamp, role, holder or owner record, SEQ 0, scratchpad and registers as before. -/
structure PhaseOver (x y : Task) : Prop where
  stamps : y.recs.stamps = []
  producers : y.recs.producers = []
  consumers : y.recs.consumers = []
  csrHolder : y.recs.csrHolder = []
  regs : y.recs.regs = []
  seq : ∀ k, (y.strand k).seq = 0
  spad : y.spad = x.spad
  registers : ∀ k, (y.strand k).r = (x.strand k).r

/-- A strand once its phase is over. -/
def phaseStrand (y : Strand) : Strand := { y with ownFlags := [], seq := 0, used := y.live }

theorem phaseTask_strand (x : Task) (k : Nat) :
    ((phaseTask x).strand k).seq = 0 ∧ ((phaseTask x).strand k).r = (x.strand k).r := by
  have hstrands : (phaseTask x).strands = x.strands.map (fun (k, y) => (k, phaseStrand y)) := by
    simp [phaseTask, joinFlags, phaseStrand, Function.comp_def]
  rw [Task.strand, hstrands]
  constructor
  · rw [SMap.find_map k (fun _ => phaseStrand)]
    cases SMap.find k x.strands <;> rfl
  · exact SMap.proj_find_map (p := Strand.r) (g := phaseStrand) (fun _ => rfl) k x.strands {}

theorem phaseTask_over (x : Task) : PhaseOver x (phaseTask x) where
  stamps := rfl
  producers := rfl
  consumers := rfl
  csrHolder := rfl
  regs := rfl
  seq k := (phaseTask_strand x k).1
  spad := rfl
  registers k := (phaseTask_strand x k).2

/-- Phases over one after another: the last one is over for what was there before the first. -/
theorem PhaseOver.after_phaseTask {x y : Task} (h : PhaseOver (phaseTask x) y) : PhaseOver x y :=
  { h with spad := h.spad, registers := fun k => (h.registers k).trans (phaseTask_strand x k).2 }

/-- The end of a phase for the tasks of a list: each of them is over, any other as before. -/
theorem foldl_phaseTask (l : SMap Task) (s : State) (hl : ∀ e ∈ l, s.hasTask e.1 = true) (j : Nat) :
    ((l.foldl (fun s e => s.modTask e.1 phaseTask) s).task j = s.task j ∧ ∀ e ∈ l, e.1 ≠ j)
      ∨ PhaseOver (s.task j) ((l.foldl (fun s e => s.modTask e.1 phaseTask) s).task j) := by
  induction l generalizing s with
  | nil => exact .inl ⟨rfl, by simp⟩
  | cons e r ih =>
    rw [List.foldl_cons]
    have hr := ih (s.modTask e.1 phaseTask) fun e' he' => by
      rw [State.hasTask_modTask]
      exact hl e' (List.mem_cons_of_mem _ he')
    by_cases hj : j = e.1
    · have hsame : (s.modTask e.1 phaseTask).task j = phaseTask (s.task j) := by
        rw [hj]
        exact State.task_modTask_same (hl e List.mem_cons_self) _
      rw [hsame] at hr
      rcases hr with ⟨heq, -⟩ | hover
      · exact .inr (heq ▸ phaseTask_over _)
      · exact .inr hover.after_phaseTask
    · have hother : (s.modTask e.1 phaseTask).task j = s.task j := State.task_modTask_other s hj _
      rw [hother] at hr
      refine hr.imp_left fun ⟨heq, hnone⟩ => ⟨heq, fun e' he' => ?_⟩
      rcases List.mem_cons.mp he' with rfl | hin
      · exact Ne.symm hj
      · exact hnone e' hin

/-- The end of a phase for the tasks of a list changes tasks only. -/
theorem foldl_phaseTask_outside (l : SMap Task) (s : State) :
    OutsideKept s (l.foldl (fun s e => s.modTask e.1 phaseTask) s) := by
  refine List.foldlRecOn l _ (motive := OutsideKept s) rfl fun u hu e _ => ?_
  exact hu.trans rfl

/-- What the end of a phase makes of the launch. -/
def phaseLaunch (n : Nat) (l : Launch) : Launch :=
  { l with phase := l.phase + 1, monitors := l.monitors.map (fun (n, m) => (n, monPhase m)),
           barriers := SMap.put (0x80 * 64 * 64) (n + 1) l.barriers }

/-- The state once a phase of a launch without LOG is over. -/
def phaseClosed (s : State) (key n : Nat) : State :=
  let u := ((tasksOf s key).foldl (fun s e => s.modTask e.1 phaseTask) (checkMonitors s key)).modLaunch key (phaseLaunch n)
  { u with roundsDone := u.roundsDone.filter (fun e => e.1 != key) }

/-- Every task has arrived and nothing is due: the phase closes. -/
theorem execPhaseClose_closes {s : State} {l : Launch} (hfind : SMap.find s.sel.item s.launches = some l)
    (hlog : l.log = false) (harrived : teamArrived (tasksOf s s.sel.item) 0x80 (SMap.get 0 l.barriers (0x80 * 64 * 64)) = true)
    (hfree : ∀ e ∈ tasksOf s s.sel.item, e.2.freeze = none ∧ ∀ k ∈ e.2.strands, k.2.closing = false)
    (hdue : NothingDue s s.sel.item) :
    exec .phaseClose s = .next (phaseClosed s s.sel.item (SMap.get 0 l.barriers (0x80 * 64 * 64))) := by
  have hl := State.launch_of_find hfind
  have hmon : l.monitors = [] := hl ▸ hdue.monitors
  have hopen : (tasksOf s s.sel.item).any (fun e => e.2.freeze.isSome || e.2.strands.any (fun k => k.2.live && k.2.closing))
      = false := by
    simp only [List.any_eq_false, Bool.or_eq_true, not_or]
    intro e he
    obtain ⟨hfreeze, hclosing⟩ := hfree e he
    simp only [hfreeze, Option.isSome_none, Bool.false_eq_true, not_false_eq_true, List.any_eq_true, Bool.and_eq_true,
      not_exists, not_and, true_and]
    intro k hk _ hc
    simp [hclosing k hk] at hc
  have hkept := foldl_phaseTask_outside (tasksOf s s.sel.item) (checkMonitors s s.sel.item)
  have hfind4 : SMap.find s.sel.item ((tasksOf s s.sel.item).foldl (fun s e => s.modTask e.1 phaseTask)
      (checkMonitors s s.sel.item)).launches = some l := by
    rw [hkept]
    exact checkMonitors_find hfind hmon
  show execPhaseClose s = _
  unfold execPhaseClose
  simp only [hl, hfind, Option.isNone_some, harrived, hopen, closeRoom_free (hl ▸ hlog), closeReports_none hdue,
    closeUnread_none hdue, closeMonitors_none hfind hmon, Bool.not_true, Bool.or_self, Bool.false_eq_true, if_false]
  rw [slog_free]
  · rfl
  · rw [State.launch_modLaunch_same]
    · exact hlog
    · exact hfind4

/-! ### The end of a task (R152, R200) -/

theorem execTaskEnd_ends {s : State} (hk : s.hasTask s.sel.task = true) (hended : (myTask s).ended = false)
    (hlog : (myLaunch s).log = false) (hdead : ∀ e ∈ (myTask s).strands, e.2.live = false)
    (hempty : ∀ e ∈ (myTask s).queues, e.2 = []) :
    exec .taskEnd s = .next ((withTask s (fun x => { x with ended := true, place := .parked, leaving := none, freeze := none })).modDie
      (myTask s).die (fun d => { d with remap := SMap.del (myTask s).entry d.remap })) := by
  have hends : (s.hasTask s.sel.task && !(s.task s.sel.task).ended && (s.task s.sel.task).strands.all (fun e => !e.2.live)
      && (s.task s.sel.task).queues.all (fun e => e.2.isEmpty)) = true := by
    simp only [myTask] at hended hdead hempty
    simp [hk, hended]
    exact ⟨fun a b h => hdead (a, b) h, fun a b h => hempty (a, b) h⟩
  show execTaskEnd s = _
  unfold execTaskEnd
  simp only [hends, if_true]
  rw [logged_free hlog, slog_free hlog]
  rfl

/-! ### The end of a launch (R145, R155, R156) -/

/-- What a launch ends with (R144). -/
def endStatus (l : Launch) : Nat := if l.failed then 7 else if l.det && l.dataErr then 9 else 0

theorem endStatus_lt (l : Launch) : endStatus l < 2 ^ 64 := by
  unfold endStatus
  split
  · decide
  · split <;> decide

/-- Every task of the launch has ended and nothing is due: the launch ends. -/
theorem execLaunchCompletion_ends {s : State} {l : Launch} (hfind : SMap.find s.sel.item s.launches = some l)
    (hlog : l.log = false) (hphase : l.phaseOf = .accepted) (hmon : l.monitors = []) (hquiet : launchQuiet s s.sel.item = true)
    (hheld : heldByReset s s.sel.item = false)
    (hends : ∀ e ∈ s.tasks, e.2.launch = s.sel.item → e.2.ended = true ∧ unreadSem e.2 = none ∧ ∀ k ∈ e.2.strands, k.2.reports = []) :
    let u := finishLaunch (checkMonitors s s.sel.item) s.sel.item (endStatus l)
    exec .launchCompletion s = .next { u with tasks := u.tasks.filter (fun e => e.2.launch != s.sel.item),
                                              roundsDone := u.roundsDone.filter (fun e => e.1 != s.sel.item) } := by
  have hl := State.launch_of_find hfind
  have hl1 := State.launch_of_find (checkMonitors_find hfind hmon)
  have hmine (e : Nat × Task) (he : e ∈ tasksOf s s.sel.item) := hends e (mem_tasksOf.mp he).1 (mem_tasksOf.mp he).2
  have hall : (tasksOf s s.sel.item).all (fun e => e.2.ended) = true := List.all_eq_true.mpr fun e he => (hmine e he).1
  have hreports : (tasksOf s s.sel.item).flatMap (fun e => e.2.strands.flatMap (fun k =>
      k.2.reports.map (fun r => (e.1, r.trap.cause)))) = [] := by
    simp only [List.flatMap_eq_nil_iff, List.map_eq_nil_iff]
    exact fun e he => (hmine e he).2.2
  have hunread : (tasksOf s s.sel.item).filterMap (fun e => (unreadSem e.2).map (fun _ => (e.1, 25))) = [] := by
    simp only [List.filterMap_eq_nil_iff, Option.map_eq_none_iff]
    exact fun e he => (hmine e he).2.1
  show execLaunchCompletion s = _
  unfold execLaunchCompletion
  simp only [hl, hfind, hall, hquiet, hheld, hphase, closeRoom_free (hl ▸ hlog), hreports, hunread,
    dueTraps_nil (hl1 ▸ hmon), List.map_nil, List.append_nil, List.foldl_nil, hl1, Option.isNone_some, bne_self_eq_false,
    Bool.not_true, Bool.or_self, Bool.false_eq_true, if_false]
  rw [slog_free (hl1 ▸ hlog)]
  rfl

/-- A word in a granule of the window that a function owns is written there. -/
theorem putWord_window {s : State} {fn off : Nat} {va : Word} (f : Nat → Nat) (hva : va.toNat = 0x20000000000 + off)
    (hoff : off < 0x1000000) (hown : SMap.get 0 s.wown (off / 65536) = 256 + fn) :
    putWord s fn va f = ({ s with win := (writeBytes s.win off (bytesOf (f (readNat s.win off 8)) 8)) }, true) := by
  have hsub : va.toNat - 0x20000000000 = off := by omega
  have hhome : wordHome s fn va = some (.window (off / 0x800000), off) := by
    rw [wordHome, if_pos (by omega)]
    simp only [hsub, hown, if_true]
  simp only [putWord, hhome, homeRead, homeWrite, enabledBytes, writeEnabled_all]

/-- A launch's DONE and status lie in one granule of the window that its function owns. -/
structure DoneInWindow (s : State) (l : Launch) : Prop where
  above : 0x20000000000 ≤ l.done.toNat
  below : l.done.toNat < 0x20001000000
  granule : (l.done.toNat - 0x20000000000) % 65536 ≤ 65520
  owned : SMap.get 0 s.wown ((l.done.toNat - 0x20000000000) / 65536) = 256 + l.fn

/-- DONE in the window is decremented and the status of a LAUNCH stands behind it. -/
theorem signalDone_window {s : State} {l : Launch} {status : Nat} (h : DoneInWindow s l) (hby : l.byLaunch = true)
    (hstatus : status < 2 ^ 64) :
    ∃ w, signalDone s l status = { s with win := w }
      ∧ readNat w (l.done.toNat - 0x20000000000) 8 = doneAfter status (readNat s.win (l.done.toNat - 0x20000000000) 8)
      ∧ readNat w (l.done.toNat - 0x20000000000 + 8) 8 = status := by
  obtain ⟨hlo, hhi, hgran, hown⟩ := h
  generalize hoff : l.done.toNat - 0x20000000000 = off at hgran hown ⊢
  have hva : l.done.toNat = 0x20000000000 + off := by omega
  have hnext : (l.done + 8).toNat = 0x20000000000 + (off + 8) := by
    have h8 : (8 : Word).toNat = 8 := rfl
    rw [BitVec.toNat_add, h8, hva, Nat.mod_eq_of_lt (by omega), Nat.add_assoc]
  have hsame : (off + 8) / 65536 = off / 65536 := by omega
  set w1 := writeBytes s.win off (bytesOf (doneStep status (readNat s.win off 8)) 8) with hw1
  have hfirst : putWord s l.fn l.done (doneStep status) = ({ s with win := w1 }, true) :=
    putWord_window _ hva (by omega) hown
  have hsecond : putWord { s with win := w1 } l.fn (l.done + 8) (fun _ => status)
      = ({ s with win := (writeBytes w1 (off + 8) (bytesOf status 8)) }, true) :=
    putWord_window _ hnext (by omega) (hsame ▸ hown)
  refine ⟨writeBytes w1 (off + 8) (bytesOf status 8), ?_, ?_, ?_⟩
  · simp only [signalDone, hfirst, hby, hsecond, if_true, Bool.and_self]
  · rw [readNat_writeBytes_apart _ _ (.inl le_rfl), hw1, readNat_writeBytes_same, doneStep_eq]
    exact Nat.mod_eq_of_lt (doneAfter_lt _ _)
  · rw [readNat_writeBytes_same]
    exact Nat.mod_eq_of_lt hstatus

end Sys2Proof.Machine
end

section
/-!
PROOFS. O50, from the lemmas on barriers and ends.
-/
namespace Sys2Proof.Machine

/-- Settles O50: a barrier by its team's arrival, the close of a phase and the ends of a task and a launch with nothing left
for the closing checks. -/
theorem barriersAndEnds : Obligations.BarriersAndEnds := by
  unfold Obligations.BarriersAndEnds
  refine ⟨?barrier, ?phase, ?taskEnd, ?launchEnd⟩
  case barrier =>
    intro key s x hitem hkey hk hlaunch hended n
    subst hitem
    obtain ⟨l, hl⟩ := Option.ne_none_iff_exists'.mp hlaunch
    have hteam : ∃ e ∈ (tasksOf s x.launch).filter (fun e => teamOf e.2 s.sel.item == teamOf x s.sel.item), e.2.ended = false :=
      ⟨(s.sel.task, x), by simpa [mem_tasksOf] using mem_myTask hk, hended⟩
    have hex := execTeamBarrierCompletion_eq hk hkey
    refine ⟨fun hall => ?_, fun ⟨e, he, hlaunch', hsame, hlive, hless⟩ => ?_⟩
    · rw [if_pos ((teamArrived_iff hteam).mpr fun e he hlive => ?arrived)] at hex
      case arrived =>
        simp only [List.mem_filter, mem_tasksOf, beq_iff_eq] at he
        exact hall e he.1.1 he.1.2 he.2 hlive
      refine ⟨_, hex, rfl, ?_⟩
      rw [State.launch_modLaunch_same hl]
      simp [completed, SMap.get, n, x]
    · rw [if_neg fun h => ?missing] at hex
      case missing =>
        exact Nat.not_lt.mpr hless ((teamArrived_iff hteam).mp h e (by simp [mem_tasksOf, he, hlaunch', hsame, x]) hlive)
      exact hex
  case phase =>
    intro key l s hitem hfind hlog hmon n mine hown hlive hready
    subst hitem
    have hdue : NothingDue s s.sel.item := by
      refine ⟨fun e he k => ?_, fun e he => ?_, by rw [State.launch_of_find hfind, hmon]⟩
      · rw [State.strand, hown e he]
        exact SMap.getD_find_of_all (p := fun y : Strand => y.reports = []) rfl (fun k hk => ((hready e he).2.2.2 k hk).2) k
      · rw [hown e he]
        exact (hready e he).2.2.1
    have harrived : teamArrived (tasksOf s s.sel.item) 0x80 n = true :=
      (teamArrived_iff hlive).mpr fun e he hl => (hready e he).1.resolve_left (by simp [hl])
    have hex := execPhaseClose_closes hfind hlog harrived
      (fun e he => ⟨(hready e he).2.1, fun k hk => ((hready e he).2.2.2 k hk).1⟩) hdue
    have hkept := foldl_phaseTask_outside (tasksOf s s.sel.item) (checkMonitors s s.sel.item)
    have hlaunch : (phaseClosed s s.sel.item n).launch s.sel.item = phaseLaunch n l := by
      refine State.launch_modLaunch_same ?_ _
      rw [hkept]
      exact checkMonitors_find hfind hmon
    refine ⟨_, hex, by rw [hlaunch]; rfl, ?_, ?_, fun e he => ?_⟩
    · rw [hlaunch]
      simp [phaseLaunch, SMap.get]
    · show ((tasksOf s s.sel.item).foldl (fun s e => s.modTask e.1 phaseTask) (checkMonitors s s.sel.item)).mem = s.mem
      rw [hkept]
      rfl
    · have hin (e : Nat × Task) (he : e ∈ tasksOf s s.sel.item) : (checkMonitors s s.sel.item).hasTask e.1 = true :=
        hasTask_of_mem (mem_tasksOf.mp he).1
      obtain ⟨-, hnone⟩ | hover := foldl_phaseTask (tasksOf s s.sel.item) (checkMonitors s s.sel.item) hin e.1
      · exact absurd rfl (hnone e he)
      · have hwas : (checkMonitors s s.sel.item).task e.1 = e.2 := hown e he
        rw [hwas] at hover
        exact ⟨hover.stamps, hover.producers, hover.consumers, hover.csrHolder, hover.regs, hover.seq, hover.spad,
          hover.registers⟩
  case taskEnd =>
    intro s x hk hended hlog hdead hempty
    refine ⟨_, execTaskEnd_ends hk hended hlog hdead hempty, ⟨?_, fun j hj => SMap.find_upd_other hj _ _, rfl⟩, ?_⟩
    · show SMap.find _ (SMap.upd _ _ _) = _
      rw [SMap.find_upd_same, State.find_task hk]
      rfl
    · rw [State.die_modDie_same]
      exact SMap.find_del_same _ _
  case launchEnd =>
    intro key l s hitem hfind hlog hphase hmon hquiet hheld hends status off
    subst hitem
    have hex := execLaunchCompletion_ends hfind hlog hphase hmon hquiet hheld hends
    have hl1 := State.launch_of_find (checkMonitors_find hfind hmon)
    refine ⟨fun hby => ?_, fun hby hlo hhi hgran hown => ?_⟩
    · have hfinish : finishLaunch (checkMonitors s s.sel.item) s.sel.item (endStatus l)
          = { checkMonitors s s.sel.item with
              launches := (SMap.put s.sel.item { l with phaseOf := .done (endStatus l) }
                (checkMonitors s s.sel.item).launches) } := by
        simp [finishLaunch, hl1, hby]
      rw [hfinish] at hex
      exact ⟨_, hex, SMap.find_put_same _ _ _, rfl⟩
    · obtain ⟨w, hsignal, hdone, hstatus⟩ :=
        signalDone_window (s := checkMonitors s s.sel.item) ⟨hlo, hhi, hgran, hown⟩ hby (endStatus_lt l)
      have hfinish : finishLaunch (checkMonitors s s.sel.item) s.sel.item (endStatus l)
          = { checkMonitors s s.sel.item with win := w, launches := SMap.del s.sel.item (checkMonitors s s.sel.item).launches } := by
        simp [finishLaunch, hl1, hby, hsignal]
      rw [hfinish] at hex
      exact ⟨_, hex, SMap.find_del_same _ _, rfl, hdone, hstatus⟩

end Sys2Proof.Machine
end

section
/-!
PROOFS. What the guard's matching of a task's strands leaves of the task, and the save that follows (R163, R394 to R396).
-/
namespace Sys2Proof.Machine

/-! ### What matching and rolling back leave alone -/

/-- Matching a task's strands changes the task only in its registers and CSRs, its engines' tables, the flags at the start of
the phase and what waits for the guard; outside it, counts of its core and the function's and order log's registers. -/
structure Matching (t : Nat) (s u : State) : Prop where
  outside : u = { s with tasks := u.tasks, dies := u.dies, functions := u.functions }
  others : ∀ j, j ≠ t → SMap.find j u.tasks = SMap.find j s.tasks
  hasTask : u.hasTask t = s.hasTask t
  task : u.task t = { s.task t with
    trap := (u.task t).trap, vec := (u.task t).vec, eng := (u.task t).eng, loops := (u.task t).loops, recs := (u.task t).recs,
    monctl := (u.task t).monctl, dbgctl := (u.task t).dbgctl, strands := (u.task t).strands, lvq := (u.task t).lvq }

theorem Matching.refl (t : Nat) (s : State) : Matching t s s := ⟨rfl, fun _ _ => rfl, rfl, rfl⟩

theorem Matching.trans {t : Nat} {s u v : State} (h1 : Matching t s u) (h2 : Matching t u v) : Matching t s v where
  outside := by rw [h2.outside, h1.outside]
  others j hj := (h2.others j hj).trans (h1.others j hj)
  hasTask := h2.hasTask.trans h1.hasTask
  task := by rw [h2.task, h1.task]

/-- A change of the task in those parts. -/
theorem Matching.modTask {t : Nat} {s : State} (ht : s.hasTask t = true) {f : Task → Task}
    (hf : ∀ x, f x = { x with
      trap := (f x).trap, vec := (f x).vec, eng := (f x).eng, loops := (f x).loops, recs := (f x).recs, monctl := (f x).monctl,
      dbgctl := (f x).dbgctl, strands := (f x).strands, lvq := (f x).lvq }) : Matching t s (s.modTask t f) where
  outside := rfl
  others _ hj := SMap.find_upd_other hj f s.tasks
  hasTask := State.hasTask_modTask s t t f
  task := by
    rw [State.task_modTask_same ht]
    exact hf _

/-- A change outside the tasks. -/
theorem Matching.outsideTasks (t : Nat) (s : State) (ds : SMap Die) (fs : SMap Function) :
    Matching t s { s with dies := ds, functions := fs } := ⟨rfl, fun _ _ => rfl, rfl, rfl⟩

/-- Every strand of the task is as before but for its own flags. -/
def StrandsUndone (t : Nat) (s u : State) : Prop :=
  ∀ j, (u.task t).strand j = { (s.task t).strand j with ownFlags := ((u.task t).strand j).ownFlags }

theorem StrandsUndone.trans {t : Nat} {s u v : State} (h1 : StrandsUndone t s u) (h2 : StrandsUndone t u v) :
    StrandsUndone t s v := fun j => by rw [h2 j, h1 j]

/-- A change of the task outside its strands. -/
theorem StrandsUndone.modTask {t : Nat} {s : State} (ht : s.hasTask t = true) {f : Task → Task}
    (hf : ∀ x, (f x).strands = x.strands) : StrandsUndone t s (s.modTask t f) := fun j => by
  rw [State.task_modTask_same ht, Task.strand, hf]
  rfl

/-- Writing back a CSR of a task changes registers of the task and its engines only. -/
theorem undoTaskCsr_eq (x : Task) (c : Nat) (w : Word) : undoTaskCsr x c w = { x with
    trap := (undoTaskCsr x c w).trap, vec := (undoTaskCsr x c w).vec, eng := (undoTaskCsr x c w).eng,
    loops := (undoTaskCsr x c w).loops, monctl := (undoTaskCsr x c w).monctl, dbgctl := (undoTaskCsr x c w).dbgctl } := by
  unfold undoTaskCsr
  split
  case h_14 => -- the loop counters whose ACT bits are set, one after the other
    refine List.foldlRecOn (motive := fun y : Task => y = { x with
      trap := y.trap, vec := y.vec, eng := y.eng, loops := y.loops, monctl := y.monctl, dbgctl := y.dbgctl }) _ _ rfl ?_
    intro y hy n _
    split
    · rw [hy]
      rfl
    · exact hy
  all_goals rfl

theorem undoCsr_matching {s : State} {t : Nat} (ht : s.hasTask t = true) (c : Nat) (w : Word) :
    Matching t s (undoCsr s t c w) ∧ StrandsUndone t s (undoCsr s t c w) := by
  unfold undoCsr
  simp only
  split
  case h_9 =>
    refine ⟨Matching.modTask ht fun x => ?_, StrandsUndone.modTask ht fun x => by rw [undoTaskCsr_eq]⟩
    rw [undoTaskCsr_eq]
  all_goals exact ⟨Matching.outsideTasks t s _ _, fun _ => rfl⟩

theorem undoOne_matching {s : State} {t : Nat} (ht : s.hasTask t = true) (k : Nat) (u : Nat × Nat × Nat) :
    Matching t s (undoOne t k s u) ∧ StrandsUndone t s (undoOne t k s u) := by
  unfold undoOne
  split
  case h_1 => exact undoCsr_matching ht _ _
  case h_6 n v =>
    refine ⟨Matching.modTask ht fun _ => rfl, fun j => ?_⟩
    rw [State.modStrand, State.task_modTask_same ht]
    by_cases hj : j = k
    · subst hj
      rw [Task.strand_modStrand_same]
    · rw [Task.strand_modStrand_other _ hj]
  case h_7 => exact ⟨Matching.outsideTasks t s _ _, fun _ => rfl⟩
  all_goals exact ⟨Matching.modTask ht fun _ => rfl, StrandsUndone.modTask ht fun _ => rfl⟩

theorem undoAll_matching {s : State} {t : Nat} (ht : s.hasTask t = true) (k : Nat) (l : List (Nat × Nat × Nat)) :
    Matching t s (l.foldl (undoOne t k) s) ∧ StrandsUndone t s (l.foldl (undoOne t k) s) := by
  refine List.foldlRecOn (motive := fun u => Matching t s u ∧ StrandsUndone t s u) l _ ⟨.refl t s, fun _ => rfl⟩ ?_
  rintro u ⟨hmatch, hstrands⟩ e _
  obtain ⟨hm, hs⟩ := undoOne_matching (hmatch.hasTask.trans ht) k e
  exact ⟨hmatch.trans hm, hstrands.trans hs⟩

/-- A rollback leaves the other strands as they are but for their own flags, and its strand live as it was, at its last sync
point. -/
theorem rollback_matching {s : State} {t : Nat} (ht : s.hasTask t = true) (k : Nat) :
    Matching t s (rollback s t k)
      ∧ (∀ j, j ≠ k → ((rollback s t k).task t).strand j
          = { (s.task t).strand j with ownFlags := (((rollback s t k).task t).strand j).ownFlags })
      ∧ (((rollback s t k).task t).strand k).r = ((s.task t).strand k).sync.regs := by
  obtain ⟨hm, hs⟩ := undoAll_matching ht k (s.strand t k).sync.undo
  have hT := hm.hasTask.trans ht
  refine ⟨?_, fun j hj => ?_, (rollback_strand ht k).1⟩
  · rw [rollback_eq]
    exact hm.trans (.modTask hT fun _ => rfl)
  · rw [rollback_eq, State.task_modTask_same hT, backAt, Task.strand_modStrand_other _ hj]
    exact hs j

theorem guardAgree_matching {s : State} {t : Nat} (ht : s.hasTask t = true) (k : Nat) :
    Matching t s (guardAgree s t k) ∧ ∀ j, (((guardAgree s t k).task t).strand j).r = ((s.task t).strand j).r := by
  refine ⟨⟨?_, fun j hj => guardAgree_others s t k hj, ?_, ?_⟩, fun j => ?_⟩
  · rw [guardAgree_eq]
    split <;> rfl
  · rw [guardAgree_eq, State.hasTask_modTask]
    split <;> rfl
  · rw [guardAgree_task ht, agreeTask_eq]
  · rw [guardAgree_task ht]
    by_cases hj : j = k
    · subst hj
      rw [agreeTask_strand_same]
      rfl
    · rw [agreeTask_strand_other hj]

/-! ### Matching one strand after another (R396) -/

/-- The matching of one strand before its task is saved. -/
def matchStrand (t : Nat) (s : State) (k : Nat) : State :=
  if (s.task t).killed || !((s.task t).strand k).live || (s.task t).freeze.any (fun f => f.strand == k) then s
  else if s.sel.guard == .mismatch then guardMismatch s t k ((s.task t).strand k).r.pc (lengthAt s t k)
  else guardAgree s t k

theorem matchStrands_eq (s : State) (t : Nat) : matchStrands s t = (List.range 8).foldl (matchStrand t) s := rfl

theorem Matching.sel {t : Nat} {s u : State} (h : Matching t s u) : u.sel = s.sel := by rw [h.outside]

/-- Where the pair agrees, no strand's registers change. -/
theorem matchStrands_agree {s : State} {t : Nat} (ht : s.hasTask t = true) (hguard : s.sel.guard = .agree) :
    Matching t s (matchStrands s t) ∧ ∀ j, (((matchStrands s t).task t).strand j).r = ((s.task t).strand j).r := by
  rw [matchStrands_eq]
  refine List.foldlRecOn (motive := fun u => Matching t s u ∧ ∀ j, ((u.task t).strand j).r = ((s.task t).strand j).r) _ _
    ⟨.refl t s, fun _ => rfl⟩ ?_
  rintro u ⟨hm, hregs⟩ k _
  have hagree : (u.sel.guard == GuardOutcome.mismatch) = false := by rw [hm.sel, hguard]; rfl
  rw [matchStrand, hagree]
  split
  · exact ⟨hm, hregs⟩
  · obtain ⟨hm', hregs'⟩ := guardAgree_matching (hm.hasTask.trans ht) k
    exact ⟨hm.trans hm', fun j => (hregs' j).trans (hregs j)⟩

/-- Where the pair does not agree, each live strand of a list goes back to its last sync point. -/
theorem matchStrand_mismatch_all {t : Nat} (l : List Nat) (hl : l.Nodup) {s : State} (ht : s.hasTask t = true)
    (hguard : s.sel.guard = .mismatch) (hkilled : (s.task t).killed = false) (hfreeze : (s.task t).freeze = none)
    (hfresh : ∀ k ∈ l, ((s.task t).strand k).live = true → ((s.task t).strand k).replaying = false) :
    Matching t s (l.foldl (matchStrand t) s) ∧ ∀ j, (((l.foldl (matchStrand t) s).task t).strand j).r =
      if j ∈ l ∧ ((s.task t).strand j).live = true then ((s.task t).strand j).sync.regs else ((s.task t).strand j).r := by
  induction l generalizing s with
  | nil => exact ⟨.refl t s, by simp⟩
  | cons k r ih =>
    obtain ⟨hk, hr⟩ := List.nodup_cons.mp hl
    by_cases hlive : ((s.task t).strand k).live = true
    · have hstep : matchStrand t s k = rollback s t k := by
        simp [matchStrand, hkilled, hlive, hfreeze, hguard, guardMismatch, State.strand, hfresh k List.mem_cons_self hlive]
      obtain ⟨hm, hothers, hback⟩ := rollback_matching ht k
      obtain ⟨hm', hregs⟩ := ih hr (hm.hasTask.trans ht) (by rw [hm.sel, hguard]) (by rw [hm.task]; exact hkilled)
        (by rw [hm.task]; exact hfreeze) (fun j hj => by
          rw [hothers j (fun h => hk (h ▸ hj))]
          exact hfresh j (List.mem_cons_of_mem _ hj))
      rw [List.foldl_cons, hstep]
      refine ⟨hm.trans hm', fun j => ?_⟩
      rw [hregs j]
      by_cases hj : j = k
      · subst hj
        rw [if_neg fun h => hk h.1, if_pos ⟨List.mem_cons_self, hlive⟩, hback]
      · rw [hothers j hj]
        simp [hj]
    · have hstep : matchStrand t s k = s := by simp [matchStrand, hlive]
      obtain ⟨hm', hregs⟩ := ih hr ht hguard hkilled hfreeze fun j hj => hfresh j (List.mem_cons_of_mem _ hj)
      rw [List.foldl_cons, hstep]
      refine ⟨hm', fun j => ?_⟩
      rw [hregs j]
      by_cases hj : j = k
      · subst hj
        simp [hlive]
      · simp [hj]

/-! ### The save (R163) -/

/-- A task without waiters at its words answers no one. -/
theorem serveTask_idle {s : State} {t : Nat} (h : (s.task t).feWaiters = []) : serveTask s t = s := by
  simp [serveTask, serveAll, h, sendAnswers]

/-- A strand that is saved keeps no reply buffer for an access its home has taken. -/
def savedStrand (y : Strand) : Strand :=
  { y with outs := y.outs.map (fun o => { o with buffer := o.buffer && !o.accepted }) }

/-- A task that is switched out for a reason, with a context area. -/
def savedTask (why : Nat) (now : Word) (area : SMap Byte) (x : Task) : Task :=
  { x with
    place := if why = 3 then .parked else .saved, leaving := none, parkedSince := if why = 3 then some now else none,
    strands := x.strands.map (fun (k, y) => (k, savedStrand y)), context := area }

theorem savedTask_strand_r (why : Nat) (now : Word) (area : SMap Byte) (x : Task) (k : Nat) :
    ((savedTask why now area x).strand k).r = (x.strand k).r :=
  SMap.proj_find_map (p := Strand.r) (g := savedStrand) (fun _ => rfl) k x.strands {}

theorem writeContext_eq (s : State) (t : Nat) :
    ∃ area, writeContext s t = s.modTask t (fun x => { x with context := area }) := ⟨_, modTask_congr rfl⟩

/-- A save is the saved task, its context area, its record and the service of the words it waited at, and then what the host
or the queue is told. -/
theorem saveTask_eq (s : State) (t : Nat) :
    let x := s.task t
    let why := x.leaving.getD 0
    let u := serveTask (slogAt (writeContext (s.modTask t (fun x => savedTask why s.clock x.context x)) t) x.die x.launch
      (effLevel s x.die (s.launch x.launch)) 4 x.lcore (x.core?.getD 0) (switchReason why)) t
    saveTask s t = if why = 3 then raiseEvent u (s.launch x.launch).fn 2
      else beginWait s u x.die (s.launch x.launch).queue := rfl

/-- Saving a task of a launch without LOG changes that task, its die's queues, and what the host is told. -/
theorem saveTask_free {s : State} {t why : Nat} (ht : s.hasTask t = true) (hlog : (s.launchOf t).log = false)
    (hwhy : (s.task t).leaving = some why) (hidle : (s.task t).feWaiters = []) :
    ∃ area, (saveTask s t).tasks = (s.modTask t (savedTask why s.clock area)).tasks ∧ (saveTask s t).mem = s.mem
      ∧ (saveTask s t).sel = s.sel := by
  have hwhy' : (s.task t).leaving.getD 0 = why := by rw [hwhy, Option.getD_some]
  obtain ⟨area, harea⟩ := writeContext_eq (s.modTask t (fun x => savedTask why s.clock x.context x)) t
  have hsaved : writeContext (s.modTask t (fun x => savedTask why s.clock x.context x)) t
      = s.modTask t (savedTask why s.clock area) := by
    rw [harea, State.modTask_modTask]
    rfl
  have hwaits : ((s.modTask t (savedTask why s.clock area)).task t).feWaiters = [] := by
    rw [State.task_modTask_same ht]
    exact hidle
  have hsave : saveTask s t = if why = 3 then raiseEvent (s.modTask t (savedTask why s.clock area)) (s.launchOf t).fn 2
      else beginWait s (s.modTask t (savedTask why s.clock area)) (s.task t).die (s.launchOf t).queue := by
    have heq := saveTask_eq s t
    dsimp only at heq
    rw [hwhy', hsaved, slogAt_free (s := s.modTask t _) hlog, serveTask_idle hwaits] at heq
    exact heq
  refine ⟨area, ?_, ?_, ?_⟩ <;> rw [hsave] <;> split <;> (first | rw [raiseEvent_outside] | rw [beginWait_eq]) <;> rfl

/-- A task on its way out that has drained is saved once its strands have been matched, unless that killed it. -/
theorem execPreEmption_drained {s : State} {c why : Nat} (ht : s.hasTask s.sel.task = true) (hlog : (myLaunch s).log = false)
    (hplace : (myTask s).place = .running c) (hleaving : (myTask s).leaving = some why) (hdrained : drained (myTask s) = true) :
    exec .preEmption s = .next (if ((matchStrands s s.sel.task).task s.sel.task).killed then matchStrands s s.sel.task
      else saveTask (matchStrands s s.sel.task) s.sel.task) := by
  have hout : (s.hasTask s.sel.task && (s.task s.sel.task).leaving.isSome && (s.task s.sel.task).core?.isSome) = true := by
    unfold myTask at hplace hleaving
    simp [ht, hleaving, Task.core?, hplace]
  have hdrained' : drained (s.task s.sel.task) = true := hdrained
  show execPreEmption s = _
  unfold execPreEmption
  simp only [hout, hdrained', if_true]
  rw [logged_free hlog]

/-- What a switch-out leaves, and how a strand's registers stand then. -/
theorem execPreEmption_saves {s : State} {c why : Nat} (ht : s.hasTask s.sel.task = true) (hlog : (myLaunch s).log = false)
    (hplace : (myTask s).place = .running c) (hleaving : (myTask s).leaving = some why) (hdrained : drained (myTask s) = true)
    (hidle : (myTask s).feWaiters = []) (hlives : (myTask s).killed = false) (hm : Matching s.sel.task s (matchStrands s s.sel.task)) :
    ∃ t, exec .preEmption s = .next t ∧ (myTask t).place = (if why = 3 then .parked else .saved)
      ∧ (myTask t).leaving = none ∧ (myTask t).parkedSince = (if why = 3 then some s.clock else none)
      ∧ (myTask t).spad = (myTask s).spad ∧ (myTask t).queues = (myTask s).queues ∧ OthersKept s t ∧ t.mem = s.mem
      ∧ ∀ k, ((myTask t).strand k).r = (((matchStrands s s.sel.task).task s.sel.task).strand k).r := by
  have hex := execPreEmption_drained ht hlog hplace hleaving hdrained
  generalize matchStrands s s.sel.task = u at hm hex ⊢
  have hu := hm.hasTask.trans ht
  have hkept := hm.task
  rw [if_neg (by rw [hkept]; exact Bool.not_eq_true _ ▸ hlives)] at hex
  have hlaunch : u.launchOf s.sel.task = myLaunch s := by
    have hlaunches : u.launches = s.launches := by rw [hm.outside]
    unfold myLaunch State.launchOf State.launch
    rw [hkept, hlaunches]
  obtain ⟨area, htasks, hmem, hsel⟩ := saveTask_free hu (why := why) (by rw [hlaunch]; exact hlog) (by rw [hkept]; exact hleaving)
    (by rw [hkept]; exact hidle)
  have hclock : u.clock = s.clock := by rw [hm.outside]
  have htask : myTask (saveTask u s.sel.task) = savedTask why s.clock area (u.task s.sel.task) := by
    unfold myTask State.task
    rw [hsel, hm.sel, htasks, ← hclock]
    exact State.task_modTask_same hu _
  refine ⟨_, hex, ?_⟩
  rw [htask]
  refine ⟨rfl, rfl, rfl, by rw [hkept]; rfl, by rw [hkept]; rfl, fun j hj => ?_, ?_, savedTask_strand_r _ _ _ _⟩
  · rw [htasks]
    exact (SMap.find_upd_other hj _ _).trans (hm.others j hj)
  · rw [hmem, hm.outside]

/-! ### What sets out to be saved (R162) -/

theorem core?_running {x : Task} {c : Nat} (h : x.place = .running c) : x.core? = some c := by rw [Task.core?, h]

theorem execQuantumExpiry_sets {s : State} {c : Nat} (ht : s.hasTask s.sel.task = true) (hlog : (myLaunch s).log = false)
    (hplace : (myTask s).place = .running c) (hstays : (myTask s).leaving = none)
    (hover : (myTask s).quantum.toNat + 1000 * (s.die (myTask s).die).sliceq ≤ s.clock.toNat)
    (hwaiter : waiterAt s (myTask s).die (levelOf s (myTask s)) = true) :
    exec .quantumExpiry s = .next (withTask s (fun x => { x with leaving := some 0 })) := by
  have hsets : (s.hasTask s.sel.task && (s.task s.sel.task).core?.isSome && (s.task s.sel.task).leaving.isNone
      && decide ((s.task s.sel.task).quantum.toNat + 1000 * (s.die (s.task s.sel.task).die).sliceq ≤ s.clock.toNat)
      && waiterAt s (s.task s.sel.task).die (effLevel s (s.task s.sel.task).die (s.launch (s.task s.sel.task).launch))) = true := by
    unfold levelOf at hwaiter
    unfold myTask at *
    simp [ht, core?_running hplace, hstays, hover, hwaiter]
  show execQuantumExpiry s = _
  unfold execQuantumExpiry
  simp only [hsets, if_true]
  rw [logged_free hlog]
  rfl

theorem execBlockedTimeout_sets {s : State} {c : Nat} (ht : s.hasTask s.sel.task = true) (hlog : (myLaunch s).log = false)
    (hplace : (myTask s).place = .running c) (hstays : (myTask s).leaving = none)
    (hlive : ∃ k, k < 8 ∧ ((myTask s).strand k).live = true)
    (hold : 1000 * (s.die (myTask s).die).blockt ≤ s.clock.toNat)
    (hblocked : ∀ e ∈ (myTask s).strands, e.2.live = true →
      blockedSince e.2 (s.clock.toNat - 1000 * (s.die (myTask s).die).blockt) = true)
    (hwaiter : waiterAt s (myTask s).die 0 = true) :
    exec .blockedTimeout s = .next (withTask s (fun x => { x with leaving := some 1 })) := by
  unfold myTask at *
  have hany : (s.task s.sel.task).strands.any (fun e => e.2.live) = true := by
    obtain ⟨k, -, hk⟩ := hlive
    by_contra hnone
    have hdead : ∀ e ∈ (s.task s.sel.task).strands, e.2.live = false := by simpa [List.any_eq_true] using hnone
    have := SMap.getD_find_of_all (p := fun y : Strand => y.live = false) (d := {}) rfl hdead k
    rw [Task.strand, this] at hk
    cases hk
  have hall : (s.task s.sel.task).strands.all (fun e => !e.2.live
      || blockedSince e.2 (s.clock.toNat - 1000 * (s.die (s.task s.sel.task).die).blockt)) = true := by
    refine List.all_eq_true.mpr fun e he => ?_
    cases hl : e.2.live with
    | false => rfl
    | true => exact hblocked e he hl
  show execBlockedTimeout s = _
  unfold execBlockedTimeout
  simp only [ht, core?_running hplace, hstays, hold, hany, hall, hwaiter, Option.isSome_some, Option.isNone_none, decide_true,
    Bool.and_self, if_true]
  rw [logged_free hlog]
  rfl

/-- A task on its way out that has not drained stays. -/
theorem execPreEmption_waits {s : State} {c why : Nat} (ht : s.hasTask s.sel.task = true)
    (hplace : (myTask s).place = .running c) (hleaving : (myTask s).leaving = some why) (hbusy : drained (myTask s) = false) :
    exec .preEmption s = .next s := by
  unfold myTask at *
  show execPreEmption s = _
  simp [execPreEmption, ht, hleaving, core?_running hplace, hbusy]

/-- The victim of a waiting higher level sets out, where no core is free for what waits. -/
theorem execPreEmption_victim {s : State} {v : Nat} (hstays : (myTask s).leaving = none) (hvictim : victim s s.sel.die = some v)
    (hpick : pickTask s s.sel.die = none) (hwaiter : waiterAt s s.sel.die (effLevel s s.sel.die (s.launchOf v) + 1) = true)
    (hlog : (s.launchOf v).log = false) :
    exec .preEmption s = .next (s.modTask v (fun y => { y with leaving := some 2 })) := by
  have hstays' : (s.task s.sel.task).leaving = none := hstays
  unfold State.launchOf at hwaiter
  show execPreEmption s = _
  unfold execPreEmption
  simp only [hstays', hvictim, hpick, hwaiter, Option.isSome_none, Option.isNone_none, Bool.and_false, Bool.false_and,
    Bool.and_self, Bool.false_eq_true, if_false, if_true]
  rw [logged_free hlog]

end Sys2Proof.Machine
end

section
/-!
PROOFS. O47, from the lemmas on the switch-out.
-/
namespace Sys2Proof.Machine

/-- Settles O47: a task sets out by its test, and once drained it is saved with its strands matched or rolled back. -/
theorem switchOut : Obligations.SwitchOut := by
  unfold Obligations.SwitchOut
  intro s x ht hlog
  refine ⟨fun c hplace hstays hover hwaiter => execQuantumExpiry_sets ht hlog hplace hstays hover hwaiter,
    fun c hplace hstays hlive hold hblocked hwaiter => execBlockedTimeout_sets ht hlog hplace hstays hlive hold hblocked hwaiter,
    ?saves,
    fun c why hplace hleaving hbusy => execPreEmption_waits ht hplace hleaving hbusy,
    fun v die hdie hstays hvictim hpick hwaiter hfree => ?victim⟩
  case saves =>
    intro c why hplace hleaving hdrained hidle hlives out
    constructor
    · intro hguard
      obtain ⟨hm, hregs⟩ := matchStrands_agree ht hguard
      obtain ⟨t, hex, hplace', hleaving', hsince, hspad, hqueues, hothers, hmem, hr⟩ :=
        execPreEmption_saves ht hlog hplace hleaving hdrained hidle hlives hm
      exact ⟨t, hex, ⟨hplace', hleaving', hsince, hspad, hqueues, hothers, hmem⟩, fun k => (hr k).trans (hregs k)⟩
    · intro hguard hfreeze hfresh
      obtain ⟨hm, hregs⟩ := matchStrand_mismatch_all (t := s.sel.task) (List.range 8) List.nodup_range ht hguard hlives hfreeze
        fun k hk => hfresh k (List.mem_range.mp hk)
      obtain ⟨t, hex, hplace', hleaving', hsince, hspad, hqueues, hothers, hmem, hr⟩ :=
        execPreEmption_saves ht hlog hplace hleaving hdrained hidle hlives hm
      refine ⟨t, hex, ⟨hplace', hleaving', hsince, hspad, hqueues, hothers, hmem⟩, fun k hk => ?_⟩
      rw [hr k, matchStrands_eq, hregs k]
      simp [hk, x, myTask]
  case victim =>
    subst hdie
    exact execPreEmption_victim hstays hvictim hpick hwaiter hfree

end Sys2Proof.Machine
end

section
/-!
PROOFS. The action of a TRAP: the state in which it is decided, and what each action makes of the strand and its task (R169,
R178, R179).
-/
namespace Sys2Proof.Machine

/-! ### The state in which a TRAP is taken -/

/-- A task whose strand `k` has begun an instruction with which the pair agrees. -/
def agreedTask (k : Nat) (x : Task) : Task := agreeTask k (beginTask k x)

theorem agreedTask_strand (k : Nat) (x : Task) :
    ((agreedTask k x).strand k).r = (x.strand k).r ∧ ((agreedTask k x).strand k).lastReplay = (x.strand k).lastReplay := by
  rw [agreedTask, agreeTask_strand_same, beginTask_strand, if_pos rfl]
  exact ⟨rfl, rfl⟩

theorem agreedTask_eq (k : Nat) (x : Task) :
    ∃ issued strands lvq, agreedTask k x = { x with lastIssued := issued, strands, lvq } := by
  have hbegin : ∃ issued strands, beginTask k x = { x with lastIssued := issued, strands } := ⟨_, _, rfl⟩
  obtain ⟨issued, strands, hb⟩ := hbegin
  rw [agreedTask, hb, agreeTask_eq]
  exact ⟨_, _, _, rfl⟩

theorem agreed_task {s : State} (h : Runs s) :
    (s.modTask s.sel.task (agreedTask s.sel.strand)).task s.sel.task = agreedTask s.sel.strand (myTask s) :=
  State.task_modTask_same h.hasTask _

theorem guardAgree_begin {s : State} (h : Runs s) :
    guardAgree (begin_ s) s.sel.task s.sel.strand = s.modTask s.sel.task (agreedTask s.sel.strand) := by
  have hsettled : ((begin_ s).strand s.sel.task s.sel.strand).replaying = false := by
    show (me (begin_ s)).replaying = false
    rw [me_begin h.hasTask]
    exact h.settled
  rw [guardAgree_first hsettled, begin_, State.modTask_modTask]
  rfl

theorem TrapSees.agreed {s : State} (h : Runs s) : TrapSees s (s.modTask s.sel.task (agreedTask s.sel.strand)) := by
  have hbegin := TrapSees.begin_ h.hasTask
  have hme : me (Machine.begin_ s) = { turned s (me s) with undoUsed := 0 } := me_begin h.hasTask
  rw [← guardAgree_begin h]
  exact hbegin.trans (.agree hbegin.hasTask (by rw [hme]; exact h.settled))

/-- An instruction that is its trap: the pair compares it, then the strand takes the trap. -/
theorem execTrap_takes {s : State} (h : Runs s) (code : BitVec 16) :
    exec (.trap code) s = .next (takeTrap (s.modTask s.sel.task (agreedTask s.sel.strand)) s.sel.task s.sel.strand none
      { cause := 32, tval := code.setWidth 64 } (pcOf s) 1) := by
  have hsees := TrapSees.agreed h
  have hp : shortOfFault ((s.modTask s.sel.task (agreedTask s.sel.strand)).task s.sel.task) s.sel.strand = false :=
    hsees.passed.trans h.passed
  have hpc : ((s.modTask s.sel.task (agreedTask s.sel.strand)).strand s.sel.task s.sel.strand).r.pc = pcOf s :=
    congrArg StrandRegs.pc hsees.regs
  have hbody : (trapM 32 (code.setWidth 64) : M Next) (begin_ s) = .error (.trap { cause := 32, tval := code.setWidth 64 }) := rfl
  have halways : trapsAlways (.trap code) = true := rfl
  show strandStep (.trap code) (trapM 32 (code.setWidth 64)) s = _
  rw [strandStep_runs h, hbody]
  unfold conclude bodyNext applyStop
  simp only [halways, if_true]
  rw [guardAgree_begin h]
  simp only [hp, hpc, Bool.false_eq_true, if_false]
  rfl

/-! ### The state in which its action is decided -/

theorem writeSlot_dies (s : State) (t off : Nat) (bs : List Byte) : (writeSlot s t off bs).dies = s.dies := by
  unfold writeSlot
  dsimp only
  split
  · rfl
  · split
    · next h => rw [directWrite_outside h]; rfl
    · rfl

/-- The state in which the action of a trap of the strand is decided: the schedule is frozen, TVEC and TREC stand for the
handler, and the strand is at its instruction, as it was. -/
structure TrapReached (s u : State) : Prop where
  sel : u.sel = s.sel
  hasTask : u.hasTask s.sel.task = true
  launches : u.launches = s.launches
  dies : u.dies = s.dies
  clock : u.clock = s.clock
  die : (myTask u).die = (myTask s).die
  launch : (myTask u).launch = (myTask s).launch
  place : (myTask u).place = (myTask s).place
  leaving : (myTask u).leaving = (myTask s).leaving
  freeze : (myTask u).freeze = some { strand := s.sel.strand, queue := none, stamp := s.clock }
  tvec : (myTask u).trap.tvec = (myTask s).trap.tvec
  trec : (myTask u).trap.trec = recordSlot s s.sel.task
  registers : regs u = regs s
  lastReplay : (me u).lastReplay = (me s).lastReplay

/-- A strand that has trapped at `tpc`; a trap of a handler or heritage routine leaves the pc. -/
def trappedStrand (nested : Bool) (tpc : Word) (y : Strand) : Strand :=
  { y with r := { y.r with pc := if nested then y.r.pc else tpc }, wait := none, lastWait := none, walkFault := none,
           stepDue := false }

theorem trappedStrand_r (nested : Bool) (y : Strand) : (trappedStrand nested y.r.pc y).r = y.r := by
  cases nested <;> rfl

theorem Task.strand_congr {x y : Task} (h : y.strands = x.strands) (k : Nat) : y.strand k = x.strand k := by
  rw [Task.strand, Task.strand, h]

theorem guardCatch_modStrand (x : Task) (k : Nat) (f : Strand → Strand) :
    ((x.modStrand k f).guardCatch k).strand k = { f (x.strand k) with guard := (f (x.strand k)).r } := by
  rw [guardCatch_strand, Task.strand_modStrand_same, Task.strand_modStrand_same]

/-- A task whose strand `k` has trapped at `tpc`, with its trap CSRs and its context area. -/
def trappedTask (k : Nat) (now : Word) (nested : Bool) (tpc : Word) (csrs : TrapRegs) (area : SMap Byte) (x : Task) : Task :=
  ({ x with freeze := some { strand := k, queue := none, stamp := now }, trap := csrs, context := area }.modStrand k
    (trappedStrand nested tpc)).guardCatch k

theorem trappedTask_eq (k : Nat) (now : Word) (nested : Bool) (tpc : Word) (csrs : TrapRegs) (area : SMap Byte) (x : Task) :
    trappedTask k now nested tpc csrs area x = { x with
      freeze := some { strand := k, queue := none, stamp := now }, trap := csrs, context := area,
      strands := (trappedTask k now nested tpc csrs area x).strands, lvq := (trappedTask k now nested tpc csrs area x).lvq } := rfl

theorem trappedTask_strand (k : Nat) (now : Word) (nested : Bool) {tpc : Word} (csrs : TrapRegs) (area : SMap Byte) {x : Task}
    (hpc : (x.strand k).r.pc = tpc) :
    ((trappedTask k now nested tpc csrs area x).strand k).r = (x.strand k).r
      ∧ ((trappedTask k now nested tpc csrs area x).strand k).lastReplay = (x.strand k).lastReplay := by
  rw [trappedTask, guardCatch_modStrand, Task.strand_congr (x := x) rfl, ← hpc]
  exact ⟨trappedStrand_r _ _, rfl⟩

theorem trapped_eq {s : State} {t : Nat} (h : s.hasTask t = true) (k : Nat) (tr : Trap) (tpc : Word) (ilen : Nat)
    (bs : List Byte) : ∃ nested csrs area, (trapped s t k tr tpc ilen bs).task t
        = trappedTask k s.clock nested tpc csrs area (s.task t)
      ∧ csrs.tvec = (s.task t).trap.tvec ∧ csrs.trec = recordSlot s t := by
  unfold trapped State.modStrand
  rw [State.modTask_modTask, State.modTask_modTask, State.modTask_modTask, State.task_modTask_same h]
  exact ⟨_, _, _, rfl, rfl, rfl⟩

theorem trapped_hasTask (s : State) (t k : Nat) (tr : Trap) (tpc : Word) (ilen : Nat) (bs : List Byte) :
    (trapped s t k tr tpc ilen bs).hasTask t = s.hasTask t := by
  simp only [trapped, State.hasTask_modTask, State.hasTask_modStrand]

/-- A trap of the strand but GUARD_MISMATCH leaves the dies as they are until its action is decided. -/
theorem takeTrap_dies (s : State) (t k : Nat) (tr : Trap) (tpc : Word) (ilen : Nat) (hc : tr.cause ≠ 20) :
    ∃ u bs, SameCore (trapped s t k tr tpc ilen bs) u ∧ u.dies = s.dies ∧ takeTrap s t k none tr tpc ilen =
      decideAction u t {
        strand := k, queue := none, trap := tr, tpc,
        action := actionOf s t ((s.strand t k).r.hnd || (s.strand t k).r.her) (isRepeated s t k none tr tpc) tr } := by
  refine ⟨_, _, (((writeSlot_core _ _ _ _).modStrand _ _ _).modTask t (fun x => x.guardCatch k)).trans
    (core_if (tr.cause = 20) (modDie_core _ _ _)), ?_, rfl⟩
  rw [if_neg hc]
  exact writeSlot_dies _ _ _ _

/-- The action of a trap is that of the state in which its instruction began. -/
theorem actionOf_congr {s u : State} {t : Nat} (htables : SameTables s u) (hlaunch : u.launchOf t = s.launchOf t)
    (htvec : (u.task t).trap.tvec = (s.task t).trap.tvec) (hfunctions : u.functions = s.functions) (nested repeated : Bool)
    (tr : Trap) : actionOf u t nested repeated tr = actionOf s t nested repeated tr := by
  have hfn (n : Nat) : u.function n = s.function n := by
    unfold State.function
    rw [hfunctions]
  have htable (l : Launch) : tableAction u l tr.cause = tableAction s l tr.cause := by
    unfold tableAction
    rw [htables.directRead]
  unfold actionOf
  simp only [htable, hlaunch, htvec, hfn]

/-- A TRAP comes to the decision of its action. -/
theorem execTrap_decides {s : State} (h : Runs s) (code : BitVec 16) :
    let tr : Trap := { cause := 32, tval := code.setWidth 64 }
    ∃ u, TrapReached s u ∧ exec (.trap code) s = .next (decideAction u s.sel.task {
      strand := s.sel.strand, queue := none, trap := tr, tpc := pcOf s,
      action := actionOf s s.sel.task ((regs s).hnd || (regs s).her) ((me s).lastReplay == some (32, pcOf s)) tr }) := by
  intro tr
  have hsees := TrapSees.agreed h
  have hex := execTrap_takes h code
  have hv := agreed_task h
  have hfns : (s.modTask s.sel.task (agreedTask s.sel.strand)).functions = s.functions := rfl
  have htables : SameTables s (s.modTask s.sel.task (agreedTask s.sel.strand)) := ⟨rfl, fun _ => rfl, fun _ => rfl⟩
  have hkept : (s.modTask s.sel.task (agreedTask s.sel.strand)).dies = s.dies ∧
      (s.modTask s.sel.task (agreedTask s.sel.strand)).launches = s.launches ∧
      (s.modTask s.sel.task (agreedTask s.sel.strand)).clock = s.clock := ⟨rfl, rfl, rfl⟩
  generalize s.modTask s.sel.task (agreedTask s.sel.strand) = v at hsees hex hv hfns htables hkept
  obtain ⟨hvdies, hvlaunches, hvclock⟩ := hkept
  have hregs : ((v.task s.sel.task).strand s.sel.strand).r = regs s := by
    rw [hv]
    exact (agreedTask_strand _ _).1
  have hreplay : ((v.task s.sel.task).strand s.sel.strand).lastReplay = (me s).lastReplay := by
    rw [hv]
    exact (agreedTask_strand _ _).2
  have hlaunch : v.launchOf s.sel.task = s.launchOf s.sel.task := by
    have := hsees.launch
    rwa [myLaunch, hsees.sel] at this
  obtain ⟨u, bs, hcore, hdies, htake⟩ := takeTrap_dies v s.sel.task s.sel.strand tr (pcOf s) 1 (show 32 ≠ 20 by decide)
  obtain ⟨hsel, htasks, hlaunches, hclock⟩ := hcore
  replace hsel : u.sel = s.sel := hsel.trans hsees.sel
  have hT : v.hasTask s.sel.task = true := hsees.hasTask
  obtain ⟨nested, csrs, area, htrapped, htvec, htrec⟩ := trapped_eq hT s.sel.strand tr (pcOf s) 1 bs
  have hu : u.task s.sel.task = trappedTask s.sel.strand v.clock nested (pcOf s) csrs area (v.task s.sel.task) := by
    rw [← htrapped]
    unfold State.task
    rw [htasks]
  obtain ⟨hr, hlr⟩ := trappedTask_strand s.sel.strand v.clock nested csrs area (congrArg StrandRegs.pc hregs)
  refine ⟨u, ?reached, ?decides⟩
  case decides =>
    rw [hex, htake]
    have hrep : isRepeated v s.sel.task s.sel.strand none tr (pcOf s) = ((me s).lastReplay == some (32, pcOf s)) := by
      rw [← hreplay]
      rfl
    rw [hrep, actionOf_congr htables hlaunch (by rw [hv]; rfl) hfns, State.strand, hregs]
  case reached =>
    have hme : me u = (u.task s.sel.task).strand s.sel.strand := by rw [me, hsel]; rfl
    obtain ⟨issued, strands, lvq, hagreed⟩ := agreedTask_eq s.sel.strand (myTask s)
    have hx : u.task s.sel.task = { myTask s with
        freeze := some { strand := s.sel.strand, queue := none, stamp := s.clock }, trap := csrs, context := area,
        lastIssued := issued, strands := (u.task s.sel.task).strands, lvq := (u.task s.sel.task).lvq } := by
      rw [hu, trappedTask_eq, hv, hagreed, hvclock]
    rw [hv, hagreed] at htvec
    have hreached : regs u = regs s ∧ (me u).lastReplay = (me s).lastReplay := by
      rw [regs, hme, hu]
      exact ⟨hr.trans hregs, hlr.trans hreplay⟩
    have hmine : myTask u = u.task s.sel.task := by rw [myTask, hsel]
    rw [← hmine] at hx
    exact
      { sel := hsel
        hasTask := by rw [State.hasTask, htasks]; exact (trapped_hasTask _ _ _ _ _ _ _).trans hT
        launches := hlaunches.trans hvlaunches
        dies := hdies.trans hvdies
        clock := hclock.trans hvclock
        die := by rw [hx]
        launch := by rw [hx]
        place := by rw [hx]
        leaving := by rw [hx]
        freeze := by rw [hx]
        tvec := by rw [hx]; exact htvec
        trec := by rw [hx]; exact htrec.trans hsees.slot
        registers := hreached.1
        lastReplay := hreached.2 }

/-! ### What is decided (R169, R178) -/

section
variable {s u : State} (h : TrapReached s u)
include h

theorem TrapReached.task : u.task s.sel.task = myTask u := by rw [myTask, h.sel]

theorem TrapReached.launchOf : u.launchOf s.sel.task = myLaunch s := by
  have hlaunch := h.launch
  unfold myTask at hlaunch
  rw [h.sel] at hlaunch
  unfold myLaunch State.launchOf State.launch
  rw [hlaunch, h.launches]

theorem TrapReached.slogRoom : slogRoom u (myTask u).die (myTask u).launch = Machine.slogRoom s (myTask s).die (myTask s).launch := by
  unfold Machine.slogRoom slogRoomFor State.die State.launch
  rw [h.die, h.launch, h.dies, h.launches]

/-- With room for its record the action is carried out in a state that differs by that record only. -/
theorem TrapReached.applies (hroom : Machine.slogRoom s (myTask s).die (myTask s).launch = true) (a : HeldAction) :
    ∃ w, SameCore u w ∧ decideAction u s.sel.task a = applyAction w s.sel.task a.strand a.queue a.trap a.tpc a.action := by
  have hdecide : decideAction u s.sel.task a = applyAction (slog u (myTask u).die (myTask u).launch 6 (myTask u).lcore
      ((myTask u).core?.getD 0) (a.trap.cause + 2 ^ 8 * a.action)) s.sel.task a.strand a.queue a.trap a.tpc a.action := by
    unfold decideAction
    dsimp only
    rw [h.task, h.slogRoom, hroom]
    rfl
  rw [hdecide]
  exact ⟨_, slog_core u _ _ _ _ _ _, rfl⟩

/-- Without room the decision waits, and the host is told. -/
theorem TrapReached.holds (hfull : Machine.slogRoom s (myTask s).die (myTask s).launch = false) (a : HeldAction) :
    decideAction u s.sel.task a = raiseEvent (u.modTask s.sel.task (fun x => { x with heldAction := some a })) (myLaunch s).fn 0 := by
  unfold decideAction
  dsimp only
  rw [h.task, h.slogRoom, hfull, h.launchOf]
  rfl

end

end Sys2Proof.Machine
end

section
/-!
PROOFS. O12, from the lemmas on the decision of a trap's action.
-/
namespace Sys2Proof.Machine

theorem Runs.placed {s : State} (h : Runs s) : ∃ c, (myTask s).core? = some c := by
  have hissues := h.issues
  simp only [canIssue, issuable, Bool.and_eq_true, Option.isNone_iff_eq_none] at hissues
  obtain ⟨⟨⟨⟨⟨⟨⟨⟨⟨⟨⟨⟨⟨-, hcore⟩, -⟩, -⟩, -⟩, -⟩, -⟩, -⟩, -⟩, -⟩, -⟩, -⟩, -⟩, -⟩ := hissues
  exact Option.isSome_iff_exists.mp hcore

/-- A strand that remembers that the action at a fault was REPLAY (R179). -/
def replayNoted (fault : Nat × Word) (y : Strand) : Strand := { y with lastReplay := some fault }

/-- The state in which an action is carried out, as its strand and task are known there. -/
theorem TrapReached.sameCore {s u w : State} (h : TrapReached s u) (hw : SameCore u w) :
    w.sel = s.sel ∧ w.hasTask s.sel.task = true ∧ w.task s.sel.task = myTask u ∧ w.clock = s.clock :=
  ⟨hw.sel.trans h.sel, (hw.hasTask _).trans h.hasTask, (hw.task _).trans h.task, hw.clock.trans h.clock⟩

theorem TrapReached.strand {s u : State} (h : TrapReached s u) : (myTask u).strand s.sel.strand = me u := by
  rw [← h.sel]
  rfl

section
variable {s u w : State} (h : TrapReached s u) (hw : SameCore u w) (tr : Trap) (tpc : Word)
include h hw

theorem TrapReached.kills : KilledTask (applyAction w s.sel.task s.sel.strand none tr tpc 0) := by
  obtain ⟨hsel, hT, -⟩ := h.sameCore hw
  rw [← hsel] at hT ⊢
  exact killedTask_killTask hT

theorem TrapReached.core {c : Nat} (hcore : (myTask s).core? = some c) : (w.task s.sel.task).core? = some c := by
  obtain ⟨-, -, htask, -⟩ := h.sameCore hw
  rw [← hcore, htask, Task.core?, h.place]
  rfl

/-- A change of the task where an action is carried out. -/
theorem TrapReached.modTask (f : Task → Task) :
    myTask (w.modTask s.sel.task f) = f (myTask u)
      ∧ me (w.modTask s.sel.task f) = (f (myTask u)).strand s.sel.strand := by
  obtain ⟨hsel, hT, htask, -⟩ := h.sameCore hw
  have hmine : myTask (w.modTask s.sel.task f) = f (myTask u) := by
    rw [← htask, ← State.task_modTask_same hT f, myTask, State.modTask_sel, hsel]
  refine ⟨hmine, ?_⟩
  rw [← hmine, ← hsel]
  rfl

/-- PARK of a task on a core: it sets out, and resumes where it is. -/
theorem TrapReached.parks {c : Nat} (hcore : (myTask s).core? = some c) :
    let t := applyAction w s.sel.task s.sel.strand none tr tpc 2
    (myTask t).leaving = some 3 ∧ regs t = regs s
      ∧ (myTask t).pendingResume = some { strand := s.sel.strand, queue := none, stamp := s.clock } := by
  have happly : applyAction w s.sel.task s.sel.strand none tr tpc 2 = w.modTask s.sel.task (fun x => { x with
      leaving := some 3, pendingResume := some { strand := s.sel.strand, queue := none, stamp := w.clock } }) := by
    simp only [applyAction, h.core hw hcore, Option.isSome_some, if_true]
  obtain ⟨-, -, -, hclock⟩ := h.sameCore hw
  obtain ⟨hmine, hme⟩ := h.modTask hw (fun x => { x with
    leaving := some 3, pendingResume := some { strand := s.sel.strand, queue := none, stamp := w.clock } })
  dsimp only
  rw [happly, regs, hme, hmine, hclock]
  exact ⟨rfl, (congrArg Strand.r h.strand).trans h.registers, rfl⟩

/-- REPLAY of a task on a core: it sets out, and the strand remembers the fault. -/
theorem TrapReached.replays {c : Nat} (hcore : (myTask s).core? = some c) :
    let t := applyAction w s.sel.task s.sel.strand none tr tpc 1
    (myTask t).leaving = some 4 ∧ regs t = regs s ∧ (me t).lastReplay = some (tr.cause, tpc) := by
  have hcore' := h.core hw hcore
  obtain ⟨-, -, htask, -⟩ := h.sameCore hw
  have happly : applyAction w s.sel.task s.sel.strand none tr tpc 1 = w.modTask s.sel.task (fun x =>
      { x.modStrand s.sel.strand (replayNoted (tr.cause, tpc)) with
        leaving := if x.core?.isSome then some 4 else none,
        pendingResume := some { strand := s.sel.strand, queue := none, stamp := w.clock } }) := by
    simp only [applyAction, noteReplay, State.modStrand, State.modTask_modTask]
    rfl
  obtain ⟨hmine, hme⟩ := h.modTask hw (fun x =>
      { x.modStrand s.sel.strand (replayNoted (tr.cause, tpc)) with
        leaving := if x.core?.isSome then some 4 else none,
        pendingResume := some { strand := s.sel.strand, queue := none, stamp := w.clock } })
  have hstrand : me (applyAction w s.sel.task s.sel.strand none tr tpc 1) = { me u with lastReplay := some (tr.cause, tpc) } := by
    rw [happly, hme, ← h.strand]
    exact (Task.strand_congr (x := (myTask u).modStrand s.sel.strand (replayNoted (tr.cause, tpc))) rfl _).trans
      (Task.strand_modStrand_same _ _ _)
  dsimp only
  rw [regs, hstrand, happly, hmine, ← htask, hcore']
  exact ⟨rfl, h.registers, rfl⟩

omit h hw in
theorem handlerRegs_gr (tvec trec : Word) (n : Nat) : (handlerRegs tvec trec).gr n = if n = 1 then trec else 0 := by
  by_cases hn : n = 1
  · subst hn
    exact SMap.get_set_same 0 [] 1 trec
  · have hother : SMap.get 0 (SMap.set 0 [] 1 trec) n = 0 := SMap.get_set_other 0 [] hn trec
    unfold StrandRegs.gr handlerRegs
    rw [if_neg hn]
    split
    · rfl
    · exact hother

omit h hw in
theorem handlerRegs_poisonOf (tvec trec : Word) (n : Nat) : (handlerRegs tvec trec).poisonOf n = 0 := by
  by_cases hn : n = 0
  · simp [StrandRegs.poisonOf, hn]
  · simp [StrandRegs.poisonOf, handlerRegs, hn, SMap.get]

/-- FORWARD: the handler starts in the strand's slot. -/
theorem TrapReached.forwards : InHandler s (applyAction w s.sel.task s.sel.strand none tr tpc 3) := by
  obtain ⟨hsel, hT, htask, -⟩ := h.sameCore hw
  have hstart : (applyAction w s.sel.task s.sel.strand none tr tpc 3).task s.sel.task = _ := startHandler_task hT s.sel.strand
  have hkeeps : (applyAction w s.sel.task s.sel.strand none tr tpc 3).sel = s.sel := hsel
  generalize applyAction w s.sel.task s.sel.strand none tr tpc 3 = t at hstart hkeeps
  rw [htask] at hstart
  have hmine : myTask t = t.task s.sel.task := by rw [myTask, hkeeps]
  have hme : me t = (t.task s.sel.task).strand s.sel.strand := by rw [me, hkeeps]; rfl
  have hregs : regs t = handlerRegs (myTask s).trap.tvec (recordSlot s s.sel.task) := by
    rw [regs, hme, hstart, h.tvec, h.trec, Task.syncStrand, Task.strand_modStrand_same, guardCatch_modStrand]
    rfl
  exact
    { frozen := by rw [hmine, hstart]; exact h.freeze
      pc := by rw [pcOf, hregs]; rfl
      g1 := by rw [hregs, handlerRegs_gr, if_pos rfl]
      g := fun n hn => by rw [hregs, handlerRegs_gr, if_neg hn]
      poison := fun n => by rw [hregs, handlerRegs_poisonOf]
      preds := fun n hn => by rw [hregs]; simp [StrandRegs.pred, handlerRegs, hn]
      status := by rw [hregs]; exact ⟨rfl, rfl⟩
      saved := by
        rw [hme, hstart, Task.syncStrand, Task.strand_modStrand_same, guardCatch_modStrand]
        exact congrArg some ((congrArg Strand.r h.strand).trans h.registers) }

end

/-- Settles O12: a TRAP's action is that of its nibble, but for TVEC, RECBASE and a repeated REPLAY, and each action leaves
what the rules say; without room it is kept. -/
theorem trapActions : Obligations.TrapActions := by
  unfold Obligations.TrapActions
  refine ⟨fun code s h hh hr hroom => ?acts, fun code s h hfull => ?waits⟩
  case acts =>
    obtain ⟨c, hcore⟩ := h.placed
    obtain ⟨u, hreached, hex⟩ := execTrap_decides h code
    rw [hh, hr] at hex
    generalize hact : actionOf s s.sel.task (false || false) ((me s).lastReplay == some (32, pcOf s))
      { cause := 32, tval := code.setWidth 64 } = n at hex
    obtain ⟨w, hw, happly⟩ := hreached.applies hroom
      { strand := s.sel.strand, queue := none, trap := { cause := 32, tval := code.setWidth 64 }, tpc := pcOf s, action := n }
    rw [happly] at hex
    unfold myLaunch myTask
    refine ⟨fun h0 => ⟨_, hex, ?_⟩, fun h3 hv => ⟨_, hex, ?_⟩, fun h3 hv hb => ⟨_, hex, ?_⟩, fun h1 hl => ⟨_, hex, ?_⟩,
      fun h3 hv hb => ⟨_, hex, ?_⟩, fun h2 => ⟨_, hex, ?_⟩, fun h1 hl => ⟨_, hex, ?_⟩⟩
    · rw [← hact, show actionOf _ _ _ _ _ = 0 by simp [actionOf, h0]]
      exact hreached.kills hw _ _
    · rw [← hact, show actionOf _ _ _ _ _ = 0 by simp [actionOf, h3, hv]]
      exact hreached.kills hw _ _
    · rw [← hact, show actionOf _ _ _ _ _ = 2 by simp only [actionOf, h3, if_neg hv, if_pos hb]; simp]
      exact hreached.parks hw _ _ hcore
    · rw [← hact, show actionOf _ _ _ _ _ = 0 by simp [actionOf, h1, hl]]
      exact hreached.kills hw _ _
    · rw [← hact, show actionOf _ _ _ _ _ = 3 by simp only [actionOf, h3, if_neg hv, if_neg hb]; simp]
      exact hreached.forwards hw _ _
    · rw [← hact, show actionOf _ _ _ _ _ = 2 by simp [actionOf, h2]]
      exact hreached.parks hw _ _ hcore
    · rw [← hact, show actionOf _ _ _ _ _ = 1 by simp [actionOf, h1, hl]]
      exact hreached.replays hw _ _ hcore
  case waits =>
    obtain ⟨u, hreached, hex⟩ := execTrap_decides h code
    rw [hreached.holds hfull] at hex
    obtain ⟨hmine, -⟩ := hreached.modTask (SameCore.refl u) (fun x => { x with heldAction := some {
      strand := s.sel.strand, queue := none, trap := { cause := 32, tval := code.setWidth 64 }, tpc := pcOf s,
      action := actionOf s s.sel.task ((regs s).hnd || (regs s).her) ((me s).lastReplay == some (32, pcOf s))
        { cause := 32, tval := code.setWidth 64 } } })
    have hraised (v : State) (fn : Nat) : myTask (raiseEvent v fn 0) = myTask v := by
      rw [raiseEvent_outside]
      rfl
    refine ⟨_, hex, ?_, ?_, ?_, ?_, raiseEvent_event _ _ (by decide)⟩ <;> rw [hraised, hmine]
    · exact hreached.freeze
    · rfl
    · exact hreached.leaving
    · exact hreached.place

end Sys2Proof.Machine
end

section
/-!
PROOFS. An instruction that waits (R6), and the arrivals of a strand at barriers (R151, R152, R236, R237).
-/
namespace Sys2Proof.Machine

/-! ### An instruction that ends in a wait -/

/-- A body that ends in a wait: the strand waits where it is, and the other strands are as before but that one waits for it no
longer. -/
theorem strandStep_waits {s u : State} (h : Runs s) {i : Instr} {body : M Next} (hsel : u.sel = s.sel)
    (hT : u.hasTask s.sel.task = true) (hrep : (me u).replaying = false) {w : Wait}
    (hb : body (begin_ s) = .ok (.waitNow w, begin_ u)) :
    ∃ t, strandStep i body s = .next t ∧ Waits u t w.kind w.object := by
  refine ⟨_, strandStep_runs h i body, ?_⟩
  rw [hb]
  rw [← hsel] at hT
  show Waits u (setWait (guardAgree (begin_ u) (begin_ s).sel.task (begin_ s).sel.strand) _ _ w) _ _
  rw [begin_sel, ← hsel]
  have hbegan : ((begin_ u).strand u.sel.task u.sel.strand).replaying = false := by
    rw [show (begin_ u).strand u.sel.task u.sel.strand = { turned u (me u) with undoUsed := 0 } from me_begin hT]
    exact hrep
  have hagreed : (guardAgree (begin_ u) u.sel.task u.sel.strand) = u.modTask u.sel.task (agreedTask u.sel.strand) := by
    rw [guardAgree_first hbegan, begin_, State.modTask_modTask]
    rfl
  rw [hagreed]
  have htask : (u.modTask u.sel.task (agreedTask u.sel.strand)).task u.sel.task = agreedTask u.sel.strand (myTask u) :=
    State.task_modTask_same hT _
  have hT' : (u.modTask u.sel.task (agreedTask u.sel.strand)).hasTask u.sel.task = true := (State.hasTask_modTask _ _ _ _).trans hT
  refine ⟨rfl, fun j hj => ?_, ?_, ?_, fun j hj => ?_⟩
  · exact (SMap.find_upd_other hj _ _).trans (SMap.find_upd_other hj _ _)
  · exact ⟨_, congrArg Strand.wait (State.strand_modStrand_same hT' _ _), rfl, rfl⟩
  · refine (congrArg Strand.r (State.strand_modStrand_same hT' _ _)).trans ?_
    rw [State.strand, htask]
    exact (agreedTask_strand _ _).1
  · refine (State.strand_modStrand_other hT' hj _).trans ?_
    rw [State.strand, htask, agreedTask, agreeTask_strand_other hj, beginTask_strand, if_neg hj]
    rfl

/-! ### Who has arrived -/

/-- What barriers see of strands: whether each is live, and its arrivals. -/
def arrivalViews (m : SMap Strand) : SMap (Bool × List Arrival) := m.map (fun (j, y) => (j, (y.live, y.arrivals)))

/-- Some strand is live, and every live one has an arrival at a barrier of a shape. -/
def liveArrived (m : SMap (Bool × List Arrival)) (key n : Nat) : Bool :=
  !(m.filter (·.2.1)).isEmpty && (m.filter (·.2.1)).all (fun e => e.2.2.any (fun a => a.shape == key && a.index == n))

theorem advanceArrivals_eq (x : Task) (key : Nat) :
    advanceArrivals x key = if liveArrived (arrivalViews x.strands) key (SMap.get 0 x.arrived key) then
      { x with arrived := SMap.set 0 x.arrived key (SMap.get 0 x.arrived key + 1) } else x := by
  unfold advanceArrivals liveArrived arrivalViews
  simp only [List.filter_map, List.isEmpty_map, List.all_map]
  rfl

/-- The turn of a strand that has just changed leaves what barriers see of the strands. -/
theorem arrivalViews_begin (k : Nat) (x : Task) (f : Strand → Strand) :
    arrivalViews (beginTask k (x.modStrand k f)).strands = arrivalViews (x.modStrand k f).strands := by
  have hturned (z : Task) : arrivalViews (turnTask k z).strands = arrivalViews z.strands := by
    simp [arrivalViews, turnTask, passFor]
  have hbegin : arrivalViews (beginTask k (x.modStrand k f)).strands
      = SMap.put k ((f (x.strand k)).live, (f (x.strand k)).arrivals) (arrivalViews (turnTask k (x.modStrand k f)).strands) := by
    unfold arrivalViews beginTask Task.modStrand
    rw [SMap.map_put (fun y : Strand => (y.live, y.arrivals))]
    have hme : (turnTask k (x.modStrand k f)).strand k = passFor k (f (x.strand k)) := by
      rw [turnTask_strand, Task.strand_modStrand_same]
    unfold Task.modStrand at hme
    rw [hme]
    rfl
  have hput : arrivalViews (x.modStrand k f).strands
      = SMap.put k ((f (x.strand k)).live, (f (x.strand k)).arrivals) (arrivalViews x.strands) :=
    SMap.map_put (fun y : Strand => (y.live, y.arrivals)) k (f (x.strand k)) x.strands
  rw [hbegin, hturned, hput, SMap.put_put]

/-- An arrival advances the same before and after the turn of the strand that arrives. -/
theorem beginTask_advanceArrivals (k key : Nat) (x : Task) (f : Strand → Strand) :
    beginTask k (advanceArrivals (x.modStrand k f) key) = advanceArrivals (beginTask k (x.modStrand k f)) key := by
  rw [advanceArrivals_eq, advanceArrivals_eq, arrivalViews_begin]
  show _ = if liveArrived _ key (SMap.get 0 (x.modStrand k f).arrived key) then _ else _
  split <;> rfl

theorem Task.modStrand_congr {x : Task} {k : Nat} {f g : Strand → Strand} (h : f (x.strand k) = g (x.strand k)) :
    x.modStrand k f = x.modStrand k g := by
  unfold Task.modStrand
  rw [h]

/-! ### Arriving (R236, R237) -/

/-- A strand that has arrived at the next barrier of a shape, with nothing of it under way. -/
def arrivedStrand (arrival : Arrival) (y : Strand) : Strand :=
  { y with fences := [], sysFences := y.sysFences + 1, alias_ := [], arrivals := [arrival] }

/-- The state in which the strand has arrived at a barrier of a shape. -/
def arrivedAt (s : State) (key : Nat) (isOpen : Bool) : State :=
  withTask (withStrand s (arrivedStrand
    { shape := key, index := SMap.get 0 (myTask s).arrived key, open_ := isOpen, pc := pcOf s })) (fun x => advanceArrivals x key)

theorem Idle.quiet {s : State} (h : Idle s) : quiet (myTask s) s.sel.strand = true := by
  have houts : ((myTask s).strand s.sel.strand).outs = [] := h.outs
  have hvec : (((myTask s).queue 0).any (fun e => e.strand == s.sel.strand && !e.orphaned)) = false := by
    simp only [List.any_eq_false, Bool.and_eq_true, beq_iff_eq, Bool.not_eq_true', not_and, Bool.not_eq_false]
    exact fun e he hk => h.vectors e he hk
  simp [Machine.quiet, houts, h.commands, hvec]

/-- Nothing of the strand is under way when its instruction begins, if nothing was before. -/
theorem Idle.begin {s : State} (h : Runs s) (hi : Idle s) : Idle (begin_ s) where
  toQuiet := hi.toQuiet.begin h
  commands := by rw [myTask_begin h.hasTask]; exact hi.commands
  vectors := by rw [myTask_begin h.hasTask]; exact hi.vectors

/-- A strand that has drained: its fences and its alias window are gone. -/
def drainedStrand (y : Strand) : Strand := { y with fences := [], sysFences := y.sysFences + 1, alias_ := [] }

/-- A strand with nothing under way drains at once. -/
theorem M.drainAll_run {s : State} (h : Idle s) :
    drainAll s = .ok ((), s.modStrand s.sel.task s.sel.strand drainedStrand) := by
  unfold drainAll
  rw [M.bind_ok (M.takeReports_run h.reports), M.getS_bind, M.curTask_bind, h.quiet]
  rfl

theorem M.arrive_run {s : State} (h : Runs s) (hi : Idle s) (key : Nat) (isOpen : Bool) :
    arrive key isOpen (begin_ s) = .ok (SMap.get 0 (myTask s).arrived key, begin_ (arrivedAt s key isOpen)) := by
  have hme : me ((begin_ s).modStrand s.sel.task s.sel.strand drainedStrand) = drainedStrand { turned s (me s) with undoUsed := 0 } := by
    rw [← me_begin h.hasTask]
    exact State.strand_modStrand_same (by simpa using h.hasTask) _ _
  have hnext : nextBarrier (myTask ((begin_ s).modStrand s.sel.task s.sel.strand drainedStrand))
      (me ((begin_ s).modStrand s.sel.task s.sel.strand drainedStrand)) key = SMap.get 0 (myTask s).arrived key := by
    have harrived : (myTask ((begin_ s).modStrand s.sel.task s.sel.strand drainedStrand)).arrived = (myTask s).arrived := by
      have : myTask ((begin_ s).modStrand s.sel.task s.sel.strand drainedStrand)
          = (beginTask s.sel.strand (myTask s)).modStrand s.sel.strand drainedStrand := by
        rw [← myTask_begin h.hasTask]
        exact State.task_modTask_same (by simpa using h.hasTask) _
      rw [this]
      rfl
    have hnone : (me ((begin_ s).modStrand s.sel.task s.sel.strand drainedStrand)).arrivals = [] := by
      rw [hme]
      exact hi.arrivals
    rw [nextBarrier, hnone, harrived]
    rfl
  have hpc : (me ((begin_ s).modStrand s.sel.task s.sel.strand drainedStrand)).r.pc = pcOf s := by
    rw [hme]
    rfl
  unfold arrive
  rw [M.bind_ok (M.drainAll_run (hi.begin h)), M.curStrand_bind, M.curTask_bind]
  dsimp only [begin_sel]
  rw [M.modCur_bind, M.modCurTask_bind, hnext, hpc]
  show Except.ok (_, _) = Except.ok (_, _)
  congr 2
  show (((s.modTask s.sel.task _).modTask s.sel.task _).modTask s.sel.task _).modTask s.sel.task _
    = ((s.modTask s.sel.task _).modTask s.sel.task _).modTask s.sel.task _
  simp only [State.modTask_modTask]
  refine modTask_congr ?_
  show advanceArrivals (((beginTask s.sel.strand (s.task s.sel.task)).modStrand s.sel.strand drainedStrand).modStrand
    s.sel.strand _) key = beginTask s.sel.strand (advanceArrivals ((s.task s.sel.task).modStrand s.sel.strand _) key)
  rw [beginTask_advanceArrivals, ← beginTask_modStrand (f := arrivedStrand _) _ _ (fun _ => rfl) (fun _ => rfl),
    Task.modStrand_modStrand]
  refine congrArg (advanceArrivals · key) (Task.modStrand_congr ?_)
  have hnone : ((beginTask s.sel.strand (s.task s.sel.task)).strand s.sel.strand).arrivals = [] := by
    rw [beginTask_strand, if_pos rfl]
    exact hi.arrivals
  simp [drainedStrand, arrivedStrand, hnone]

/-! ### The shape of a barrier (R151) -/

/-- A shape that an instruction of a barrier takes. -/
structure ShapeValid (v : Word) : Prop where
  small : v.toNat < 256
  clear : bitOf v.toNat 6 = false
  sides : bitOf v.toNat 7 = true ∨ (bitsOf v.toNat 0 3 ≠ 7 ∧ bitsOf v.toNat 3 3 ≠ 7)

theorem M.checkShape_run {v : Word} (h : ShapeValid v) (s : State) : checkShape v s = .ok ((), s) := by
  have hsides : (!bitOf v.toNat 7 && (bitsOf v.toNat 0 3 == 7 || bitsOf v.toNat 3 3 == 7)) = false := by
    rcases h.sides with h7 | ⟨h0, h3⟩
    · simp [h7]
    · simp [h0, h3]
  have hhigh : (bitOf v.toNat 6 || v.toNat / 256 != 0) = false := by simp [h.clear, h.small]
  unfold checkShape
  simp only [hsides, hhigh, Bool.false_eq_true, if_false]
  rfl

theorem completed_begin {s : State} (hT : s.hasTask s.sel.task = true) (key : Nat) :
    completed (myLaunch (begin_ s)) (myTask (begin_ s)) key = completed (myLaunch s) (myTask s) key := by
  rw [show myLaunch (begin_ s) = myLaunch s from launchOf_begin hT, myTask_begin hT]
  rfl

/-- Waiting for a barrier that has completed: the strand goes on. -/
theorem M.awaitBarrier_completed {u : State} {key index : Nat} (hdone : index < completed (myLaunch u) (myTask u) key) :
    awaitBarrier key index u = (do dropArrivals key index; pure .fall : M Next) u := by
  unfold awaitBarrier
  rw [M.curTask_bind, M.curLaunch_bind, if_pos hdone]

/-- Waiting for a barrier that has not. -/
theorem M.awaitBarrier_open {u : State} {key index : Nat} (hopen : completed (myLaunch u) (myTask u) key ≤ index) :
    awaitBarrier key index u = .ok (.waitNow { kind := 6, object := key }, u) := by
  unfold awaitBarrier
  rw [M.curTask_bind, M.curLaunch_bind, if_neg (Nat.not_lt.mpr hopen)]
  rfl

section
variable {a : Reg} {s : State} (h : Runs s) (hready : Ready s [a]) (hclean : Clean s [a]) (hh : (regs s).hnd = false)
  (hr : (regs s).her = false) (hshape : ShapeValid ((regs s).gr a.toNat))
include h

theorem me_begin_arrivals : (me (begin_ s)).arrivals = (me s).arrivals := by
  rw [me_begin h.hasTask]
  rfl

theorem me_begin_pc : (me (begin_ s)).r.pc = pcOf s := by
  rw [me_begin h.hasTask]
  rfl

/-- The strand's arrivals at a shape are dropped. -/
theorem M.dropArrivals_run {key : Nat} {x : Arrival} (hone : (me s).arrivals = [x]) (hkey : x.shape = key) :
    dropArrivals key x.index (begin_ s) = .ok ((), begin_ (withStrand s (fun y => { y with arrivals := [] }))) := by
  have hgone : (begin_ s).modStrand s.sel.task s.sel.strand (fun y => { y with
      arrivals := y.arrivals.filter (fun a => !(a.shape == key && decide (a.index ≤ x.index))) })
      = (begin_ s).modStrand s.sel.task s.sel.strand (fun y => { y with arrivals := [] }) := by
    refine State.modStrand_congr ?_
    have hmine : ((begin_ s).strand s.sel.task s.sel.strand).arrivals = [x] := (me_begin_arrivals h).trans hone
    simp [hmine, hkey]
  have hbegin : (begin_ s).modStrand s.sel.task s.sel.strand (fun y => { y with arrivals := [] })
      = begin_ (withStrand s (fun y => { y with arrivals := [] })) :=
    begin_modTask fun x => beginTask_modStrand _ x (fun _ => rfl) (fun _ => rfl)
  rw [← hbegin, ← hgone]
  rfl

/-- A body that awaits a completed barrier of the strand's only arrival: the strand goes on without it. -/
theorem strandStep_passes {key : Nat} {x : Arrival} (hone : (me s).arrivals = [x]) (hkey : x.shape = key)
    (hdone : x.index < completed (myLaunch s) (myTask s) key) {i : Instr} {body : M Next}
    (hbody : body (begin_ s) = awaitBarrier key x.index (begin_ s)) :
    ∃ t, strandStep i body s = .next t ∧ Retired (withStrand s (fun y => { y with arrivals := [] })) t (parcels i) := by
  have hme : me (withStrand s (fun y => { y with arrivals := [] })) = { me s with arrivals := [] } :=
    State.strand_modStrand_same h.hasTask _ _
  refine strandStep_retired h rfl (by simp [withStrand, h.hasTask]) ?_ (by rw [hme]; exact h.settled) ?_
  · have hmine : myTask (withStrand s (fun y => { y with arrivals := [] }))
        = (myTask s).modStrand s.sel.strand (fun y => { y with arrivals := [] }) := State.task_modTask_same h.hasTask _
    rw [hmine]
    exact h.noMode
  · rw [hbody, M.awaitBarrier_completed (by rw [completed_begin h.hasTask]; exact hdone),
      M.bind_ok (M.dropArrivals_run h hone hkey)]
    rfl

theorem arrivedAt_task (key : Nat) (isOpen : Bool) : ∃ arrived strands,
    myTask (arrivedAt s key isOpen) = { myTask s with arrived, strands }
      ∧ me (arrivedAt s key isOpen) = arrivedStrand
          { shape := key, index := SMap.get 0 (myTask s).arrived key, open_ := isOpen, pc := pcOf s } (me s) := by
  set f := arrivedStrand { shape := key, index := SMap.get 0 (myTask s).arrived key, open_ := isOpen, pc := pcOf s }
  have htask : myTask (arrivedAt s key isOpen) = advanceArrivals ((myTask s).modStrand s.sel.strand f) key := by
    show State.task ((s.modTask s.sel.task _).modTask s.sel.task _) s.sel.task = _
    rw [State.modTask_modTask, State.task_modTask_same h.hasTask]
    rfl
  have hkept : ∃ arrived, advanceArrivals ((myTask s).modStrand s.sel.strand f) key
      = { (myTask s).modStrand s.sel.strand f with arrived } := by
    unfold advanceArrivals
    dsimp only
    split <;> exact ⟨_, rfl⟩
  obtain ⟨arrived, hkept⟩ := hkept
  refine ⟨arrived, _, htask.trans hkept, ?_⟩
  show (myTask (arrivedAt s key isOpen)).strand s.sel.strand = _
  rw [htask, hkept]
  exact (Task.strand_congr (x := (myTask s).modStrand s.sel.strand f) rfl _).trans (Task.strand_modStrand_same _ _ _)

theorem completed_arrivedAt (key : Nat) (isOpen : Bool) : completed (myLaunch (arrivedAt s key isOpen))
    (myTask (arrivedAt s key isOpen)) key = completed (myLaunch s) (myTask s) key := by
  obtain ⟨arrived, strands, htask, -⟩ := arrivedAt_task h key isOpen
  have hlaunch : myLaunch (arrivedAt s key isOpen) = s.launch (myTask (arrivedAt s key isOpen)).launch := rfl
  rw [hlaunch, htask]
  rfl

/-- Arriving leaves who acts, the task's mode and the strand's replay as they were. -/
theorem arrivedAt_frame (key : Nat) (isOpen : Bool) :
    (arrivedAt s key isOpen).sel = s.sel ∧ (arrivedAt s key isOpen).hasTask s.sel.task = true
      ∧ (myTask (arrivedAt s key isOpen)).dbgctl.getLsbD 0 = false ∧ (me (arrivedAt s key isOpen)).replaying = false := by
  obtain ⟨arrived, strands, htask, hme⟩ := arrivedAt_task h key isOpen
  refine ⟨rfl, ?_, by rw [htask]; exact h.noMode, by rw [hme]; exact h.settled⟩
  simp [arrivedAt, withTask, withStrand, h.hasTask]

include hready hclean hh hr hshape

/-- What BAR, BARA and BARW have in common: the shape is read and checked. -/
theorem M.shape_run (i : Instr) (f : Word → M Next) :
    (do let shape ← rdOut a; notInHandler i; checkShape shape; f shape) (begin_ s) = f ((regs s).gr a.toNat) (begin_ s) := by
  have hhandler : notInHandler i (begin_ s) = .ok ((), begin_ s) := by
    unfold notInHandler
    rw [M.curStrand_bind, show (me (begin_ s)).r = regs s from regs_begin h.hasTask, hh, hr]
    rfl
  rw [M.bind_ok (rdOut_begin h hready hclean), M.bind_ok hhandler, M.bind_ok (M.checkShape_run hshape _)]

/-! ### The instructions of barriers (R236) -/

/-- BARA arrives and goes on. -/
theorem execBara_arrives (hi : Idle s) :
    let key := shapeKey (myLaunch s) ((regs s).gr a.toNat).toNat
    ∃ t, exec (.bara a) s = .next t ∧ Retired (arrivedAt s key true) t 1 := by
  intro key
  obtain ⟨hsel, hT, hmode, hrep⟩ := arrivedAt_frame h key true
  refine strandStep_retired h hsel hT hmode hrep ?_
  rw [M.shape_run h hready hclean hh hr hshape, M.curLaunch_bind, M.curStrand_bind,
    show myLaunch (begin_ s) = myLaunch s from launchOf_begin h.hasTask, (me_begin_arrivals h).trans hi.arrivals]
  show (arrive key true >>= fun _ => pure Next.fall) (begin_ s) = _
  rw [M.bind_ok (M.arrive_run h hi key true)]
  rfl

/-- BAR arrives and waits. -/
theorem execBar_arrives (hi : Idle s) :
    let key := shapeKey (myLaunch s) ((regs s).gr a.toNat).toNat
    completed (myLaunch s) (myTask s) key ≤ SMap.get 0 (myTask s).arrived key →
    ∃ t, exec (.bar a) s = .next t ∧ Waits (arrivedAt s key false) t 6 key := by
  intro key hopen
  obtain ⟨hsel, hT, -, hrep⟩ := arrivedAt_frame h key false
  refine strandStep_waits h hsel hT hrep (w := { kind := 6, object := key }) ?_
  rw [M.shape_run h hready hclean hh hr hshape, M.curLaunch_bind, M.curStrand_bind,
    show myLaunch (begin_ s) = myLaunch s from launchOf_begin h.hasTask, (me_begin_arrivals h).trans hi.arrivals]
  show (arrive key false >>= fun n => awaitBarrier key n) (begin_ s) = _
  rw [M.bind_ok (M.arrive_run h hi key false), M.awaitBarrier_open]
  rw [completed_begin hT, completed_arrivedAt h]
  exact hopen

/-- BAR executed again at its arrival goes on once the barrier has completed. -/
theorem execBar_passes {x : Arrival} (hone : (me s).arrivals = [x]) :
    let key := shapeKey (myLaunch s) ((regs s).gr a.toNat).toNat
    x.shape = key → x.index < completed (myLaunch s) (myTask s) key → x.open_ = false → x.pc = pcOf s → x.left = false →
    ∃ t, exec (.bar a) s = .next t ∧ Retired (withStrand s (fun y => { y with arrivals := [] })) t 1 := by
  intro key hkey hdone hclosed hpc hleft
  refine strandStep_passes h hone hkey hdone ?_
  have hfind : [x].find? (fun y => y.shape == key && y.pc == pcOf s && !y.left) = some x := by simp [hkey, hpc, hleft]
  have hnone : [x].any (fun y => y.shape == key && y.open_) = false := by simp [hclosed]
  rw [M.shape_run h hready hclean hh hr hshape, M.curLaunch_bind, M.curStrand_bind,
    show myLaunch (begin_ s) = myLaunch s from launchOf_begin h.hasTask, (me_begin_arrivals h).trans hone, me_begin_pc h]
  dsimp only
  rw [hnone, hfind]
  rfl

/-- BARW goes on once the barrier of the open arrival has completed. -/
theorem execBarw_passes {x : Arrival} (hone : (me s).arrivals = [x]) :
    let key := shapeKey (myLaunch s) ((regs s).gr a.toNat).toNat
    x.shape = key → x.index < completed (myLaunch s) (myTask s) key → x.open_ = true →
    ∃ t, exec (.barw a) s = .next t ∧ Retired (withStrand s (fun y => { y with arrivals := [] })) t 1 := by
  intro key hkey hdone hopen
  refine strandStep_passes h hone hkey hdone ?_
  have hfind : [x].find? (fun y => y.shape == key && y.open_) = some x := by simp [hkey, hopen]
  rw [M.shape_run h hready hclean hh hr hshape, M.curLaunch_bind, M.curStrand_bind,
    show myLaunch (begin_ s) = myLaunch s from launchOf_begin h.hasTask, (me_begin_arrivals h).trans hone, hfind]

/-- BARW waits while it has not. -/
theorem execBarw_waits {x : Arrival} (hone : (me s).arrivals = [x]) :
    let key := shapeKey (myLaunch s) ((regs s).gr a.toNat).toNat
    x.shape = key → completed (myLaunch s) (myTask s) key ≤ x.index → x.open_ = true →
    ∃ t, exec (.barw a) s = .next t ∧ Waits s t 6 key := by
  intro key hkey hwaits hopen
  refine strandStep_waits h rfl h.hasTask h.settled (w := { kind := 6, object := key }) ?_
  have hfind : [x].find? (fun y => y.shape == key && y.open_) = some x := by simp [hkey, hopen]
  rw [M.shape_run h hready hclean hh hr hshape, M.curLaunch_bind, M.curStrand_bind,
    show myLaunch (begin_ s) = myLaunch s from launchOf_begin h.hasTask, (me_begin_arrivals h).trans hone, hfind]
  exact M.awaitBarrier_open (by rw [completed_begin h.hasTask]; exact hwaits)

end

end Sys2Proof.Machine
end

section
/-!
PROOFS. O20, from the lemmas on the instructions of barriers.
-/
namespace Sys2Proof.Machine

/-- Settles O20: BARA and BAR by their arrival, BAR and BARW by whether the barrier of the arrival has completed. -/
theorem barrierResult : Obligations.BarrierResult := by
  unfold Obligations.BarrierResult
  intro a s h hready hclean hh hr shape key n hsmall hclear hsides
  have hshape : ShapeValid ((regs s).gr a.toNat) := ⟨hsmall, hclear, hsides⟩
  refine ⟨fun hi => ⟨execBara_arrives h hready hclean hh hr hshape hi, ?_⟩,
    fun x hone hkey hdone => ⟨execBar_passes h hready hclean hh hr hshape hone hkey hdone,
      execBarw_passes h hready hclean hh hr hshape hone hkey hdone⟩,
    fun x hone hkey hwaits hopen => execBarw_waits h hready hclean hh hr hshape hone hkey hwaits hopen⟩
  exact (Nat.lt_or_ge n (completed (myLaunch s) (myTask s) key)).imp_right (execBar_arrives h hready hclean hh hr hshape hi)

end Sys2Proof.Machine
end

section
/-!
PROOFS. A LAUNCH where the parent's task is listed twice, and the second record waits for a core (R13, R158, R244).
-/
namespace Sys2Proof.Machine
open Sys2Proof.Tests

/-- `wm` with a block whose EXTENT is one position wide and high, and with a second record of the running task behind the
first, which waits for a core. A read of the task finds the first record; the queue counts both. -/
def wparent : State :=
  let s := withTask wm (fun t => { t with spad := put8 t.spad 0x158 129 })
  { s with tasks := [(1, myTask s), (1, { launch := 1 })] }

/-- The second record lets the parent's queue wait on die 0. -/
theorem wparent_queueWaits : queueWaits wparent 0 (myLaunch wparent).queue = true := by decide +kernel

/-- The step leaves one record of the task, so the queue waits from now on die 0, where no queue had a level. -/
theorem wparent_launches :
    after (.launch 1) wparent (fun t => !((t.die 0).levels).isEmpty) = true := by decide +kernel

/-- Refutes O22, in its clause on the dies: the parent's queue is tested in the state before the step, where a second record
of the running task waits for a core. Taking its turn, the strand's task is written anew and the second record is gone, so
the queue begins to wait on a die that the clause leaves as it was. -/
theorem not_launchChild : ¬ Obligations.LaunchChild := by
  unfold Obligations.LaunchChild
  intro h
  obtain ⟨t, ht, -, hdies⟩ := h 1 wparent (by constructor <;> decide +kernel) (by unfold Ready; decide +kernel)
    (by unfold Clean Sound; decide +kernel) (by constructor <;> decide +kernel) (by constructor <;> decide +kernel)
    (by decide +kernel) (by unfold OwnBytes; decide +kernel) (by unfold OwnSound; decide +kernel) (by decide +kernel)
  have hlevels := wparent_launches
  unfold after at hlevels
  rw [ht] at hlevels
  change (!((t.die 0).levels).isEmpty) = true at hlevels
  have hkept : t.die 0 = wparent.die 0 := by
    rw [hdies 0, wparent_queueWaits]
    simp
  have hnone : ((wparent.die 0).levels).isEmpty = true := by decide +kernel
  rw [hkept, hnone] at hlevels
  exact absurd hlevels (by decide)

end Sys2Proof.Machine
end

section
/-!
PROOFS. Laws of a function's accesses outside the cores: what is written at a home reads back and changes nothing else, where
a word lies, and events of a queue (R102, R137, R416, R417).
-/
namespace Sys2Proof.Machine

/-! ### Homes -/

theorem writePa_mem (s : State) (fn pa : Nat) (bs : List (Option Byte)) :
    (writePa s fn pa bs).mem = writeEnabled s.mem pa bs := by
  unfold writePa
  dsimp only
  split <;> rfl

theorem withStores_kept {s w : State} (h : w = withStores s w) :
    w = { withStores s w with win := w.win, tasks := w.tasks } := by
  rw [h]
  rfl

/-- A write at a home changes memory, the window, the tasks and the books of host writes only. -/
theorem homeWrite_outside (s : State) (fn : Nat) (h : Home) (a : Nat) (bs : List (Option Byte)) :
    homeWrite s fn h a bs =
      { withStores s (homeWrite s fn h a bs) with
        win := (homeWrite s fn h a bs).win, tasks := (homeWrite s fn h a bs).tasks } := by
  cases h with
  | spad t => rfl
  | window w => rfl
  | hbm c => exact withStores_kept (writePa_outside s fn a bs)
  | host c => exact withStores_kept (writePa_outside s fn a bs)

/-- A home outside the scratchpads is read in memory and in the window. -/
theorem homeRead_congr {s u : State} {h : Home} (hspad : ∀ j, h ≠ .spad j) (hmem : u.mem = s.mem) (hwin : u.win = s.win)
    (a n : Nat) : homeRead u h a n = homeRead s h a n := by
  cases h with
  | spad j => exact absurd rfl (hspad j)
  | hbm c => exact congrArg (readNat · a n) hmem
  | host c => exact congrArg (readNat · a n) hmem
  | window w => exact congrArg (readNat · a n) hwin

/-- What is written at a home outside the scratchpads is read there. -/
theorem homeRead_homeWrite {h : Home} (hspad : ∀ j, h ≠ .spad j) (s : State) (fn a v n : Nat) :
    homeRead (homeWrite s fn h a (enabledBytes v n)) h a n = v % 256 ^ n := by
  have hmem : readNat (writePa s fn a (enabledBytes v n)).mem a n = v % 256 ^ n := by
    rw [writePa_mem, enabledBytes, writeEnabled_all, readNat_writeBytes_same]
  cases h with
  | spad j => exact absurd rfl (hspad j)
  | hbm c => exact hmem
  | host c => exact hmem
  | window w =>
    show readNat (writeEnabled s.win a (enabledBytes v n)) a n = _
    rw [enabledBytes, writeEnabled_all, readNat_writeBytes_same]

/-! ### Where a word lies -/

/-- What the place of a word depends on: the tables, the regions of the physical map and the owners of the window. -/
structure SamePlaces (s u : State) : Prop extends SameTables s u where
  physMap : u.physMap = s.physMap
  wown : u.wown = s.wown

section
variable {s u : State} (h : SamePlaces s u)
include h

theorem SamePlaces.homeFor (fn pa : Nat) : homeFor u fn pa = Machine.homeFor s fn pa := by
  rw [Machine.homeFor, Machine.homeFor, homeOfPa, homeOfPa, regionOf, regionOf, h.physMap]

theorem SamePlaces.wordHome (fn : Nat) (va : Word) : wordHome u fn va = Machine.wordHome s fn va := by
  simp only [Machine.wordHome, h.wown, h.directPa, h.homeFor]

theorem SamePlaces.hostPlace (fn : Nat) (va : Word) (need : Need) : hostPlace u fn va need = Machine.hostPlace s fn va need := by
  simp only [Machine.hostPlace, h.wown, h.directPa, h.homeFor]

end

/-! ### Events of a queue -/

@[simp] theorem State.hostQueue_modQueue_same (s : State) (k : Nat) (f : HostQueue → HostQueue) :
    (s.modQueue k f).hostQueue k = f (s.hostQueue k) := by
  simp [State.modQueue, State.hostQueue]

theorem State.find_modQueue_other {j k : Nat} (h : j ≠ k) (s : State) (f : HostQueue → HostQueue) :
    SMap.find j (s.modQueue k f).queues = SMap.find j s.queues :=
  SMap.find_put_other h _ _

/-- QSTAT tells of an event of the queue. -/
theorem queueEvent_hostQueue (s : State) (k : Nat) {code : Nat} (hcode : code < 256) (idx : Nat) :
    (queueEvent s k code idx).hostQueue k =
      { s.hostQueue k with qstat := eventWord (s.hostQueue k).qstat code idx } := by
  rw [queueEvent, State.hostQueue_modQueue_same, Nat.mod_eq_of_lt hcode]
  rfl

/-- The completion interrupt changes what the host is told only. -/
theorem queueInterrupt_outside (s : State) (k : Nat) :
    queueInterrupt s k = { s with toHost := (queueInterrupt s k).toHost, hostView := (queueInterrupt s k).hostView,
                                  msix := (queueInterrupt s k).msix } := by
  unfold queueInterrupt
  dsimp only
  split
  · exact sendMsix_outside _ _ _
  · rfl

end Sys2Proof.Machine
end

section
/-!
PROOFS. Completed work of a queue (R145, R430).
-/
namespace Sys2Proof.Machine

/-- The state once DONE of completed work has been written, and whether it could be. -/
def doneWritten (s : State) (fn : Nat) (done : Word) (status : Nat) : State × Bool :=
  if done = 0 then (drainHost s fn, true) else putWord (drainHost s fn) fn done (doneStep status)

theorem putWord_outside (s : State) (fn : Nat) (va : Word) (f : Nat → Nat) :
    (putWord s fn va f).1 =
      { withStores s (putWord s fn va f).1 with win := (putWord s fn va f).1.win, tasks := (putWord s fn va f).1.tasks } := by
  unfold putWord
  cases wordHome s fn va with
  | none => rfl
  | some p => exact homeWrite_outside _ _ _ _ _

/-- Writing DONE leaves the queues and the launches as they are. -/
theorem doneWritten_kept (s : State) (fn : Nat) (done : Word) (status : Nat) :
    (doneWritten s fn done status).1.queues = s.queues ∧ (doneWritten s fn done status).1.launches = s.launches := by
  unfold doneWritten
  split
  · exact ⟨rfl, rfl⟩
  · rw [putWord_outside]
    exact ⟨rfl, rfl⟩

/-- DONE, where it lies outside the scratchpads, is one less and shows a failure. -/
theorem doneWritten_done {s : State} {fn : Nat} {done : Word} {status : Nat} {h : Home} {a : Nat} (hdone : done ≠ 0)
    (hspad : ∀ j, h ≠ .spad j) (hplace : wordHome (drainHost s fn) fn done = some (h, a)) :
    homeRead (doneWritten s fn done status).1 h a 8 = doneAfter status (homeRead s h a 8) := by
  have hput : (doneWritten s fn done status).1
      = homeWrite (drainHost s fn) fn h a (enabledBytes (doneStep status (homeRead (drainHost s fn) h a 8)) 8) := by
    rw [doneWritten, if_neg hdone, putWord, hplace]
  rw [hput, homeRead_homeWrite hspad, doneStep_eq, homeRead_congr (s := s) (u := drainHost s fn) hspad rfl rfl]
  exact Nat.mod_eq_of_lt (doneAfter_lt _ _)

/-- After DONE, completed work changes QSTAT of its queue, events and what the host is told only. -/
theorem completeWork_outside (s : State) (k n : Nat) (done : Word) (status : Nat) :
    ∃ functions toHost hostView msix, completeWork s k n done status =
      { queueEvent (doneWritten s (k / 16) done status).1 k status n with
        functions := functions, toHost := toHost, hostView := hostView, msix := msix } := by
  show ∃ functions toHost hostView msix, queueInterrupt (queueEvent (if (doneWritten s (k / 16) done status).2
      then drainHost (doneWritten s (k / 16) done status).1 (k / 16)
      else raiseEvent (doneWritten s (k / 16) done status).1 (k / 16) 5) k status n) k = _
  generalize doneWritten s (k / 16) done status = r
  rw [queueInterrupt_outside]
  split
  · exact ⟨_, _, _, _, rfl⟩
  · rw [raiseEvent_outside]
    exact ⟨_, _, _, _, rfl⟩

/-- What completed work leaves: QSTAT of the queue tells it, DONE is decremented. -/
theorem completeWork_tells (s : State) (k n : Nat) (done : Word) {status : Nat} (hstatus : status < 256) :
    (completeWork s k n done status).launches = s.launches
      ∧ (completeWork s k n done status).hostQueue k =
          { s.hostQueue k with qstat := eventWord (s.hostQueue k).qstat status n }
      ∧ ∀ h a, done ≠ 0 → (∀ j, h ≠ .spad j) → wordHome (drainHost s (k / 16)) (k / 16) done = some (h, a) →
          homeRead (completeWork s k n done status) h a 8 = doneAfter status (homeRead s h a 8) := by
  obtain ⟨functions, toHost, hostView, msix, hwork⟩ := completeWork_outside s k n done status
  obtain ⟨hqueues, hlaunches⟩ := doneWritten_kept s (k / 16) done status
  rw [hwork]
  refine ⟨hlaunches, ?queue, fun h a hdone hspad hplace => ?done⟩
  case queue =>
    have hq : (doneWritten s (k / 16) done status).1.hostQueue k = s.hostQueue k := by rw [State.hostQueue, hqueues]; rfl
    exact hq ▸ queueEvent_hostQueue (doneWritten s (k / 16) done status).1 k hstatus n
  case done =>
    rw [← doneWritten_done hdone hspad hplace]
    exact homeRead_congr hspad rfl rfl a 8

/-- The state once the launch of the packet named has left its queue. -/
def launchOff (s : State) (k n key : Nat) : State :=
  ({ s with launches := SMap.del key s.launches } : State).modQueue k (fun q => { q with launches := SMap.del n q.launches })

/-- The state once the copy of the packet named has left its queue. -/
def copyOff (s : State) (k n : Nat) : State := s.modQueue k (fun q => { q with copies := SMap.del n q.copies })

theorem execPacketCompletion_launch {s : State} {key status : Nat} {l : Launch}
    (hwork : SMap.find s.sel.item (s.hostQueue (namedQueue s)).launches = some key)
    (hfind : SMap.find key s.launches = some l) (hphase : l.phaseOf = .done status) :
    exec .packetCompletion s = .next (completeWork (launchOff s (namedQueue s) s.sel.item key) (namedQueue s) s.sel.item
      l.done status) := by
  have hl := State.launch_of_find hfind
  show execPacketCompletion s = _
  unfold execPacketCompletion
  simp only [namedQueue] at hwork
  simp only [hwork, hl, hphase]
  rfl

theorem hostChunks_ended {s : State} {k n : Nat} {c : HostCopy} (hfind : SMap.find n (s.hostQueue k).copies = some c)
    (hended : c.ended = true) (m : Nat) : hostChunks k n m s = s := by
  cases m with
  | zero => rfl
  | succ m => simp [hostChunks, hfind, hended]

theorem execPacketCompletion_copy {s : State} {c : HostCopy}
    (hnone : SMap.find s.sel.item (s.hostQueue (namedQueue s)).launches = none)
    (hfind : SMap.find s.sel.item (s.hostQueue (namedQueue s)).copies = some c) (hended : c.ended = true) :
    exec .packetCompletion s = .next (completeWork (copyOff s (namedQueue s) s.sel.item) (namedQueue s) s.sel.item c.done
      (if c.failed then 7 else 0)) := by
  have hchunks := hostChunks_ended hfind hended (c.len + 1)
  show execPacketCompletion s = _
  unfold execPacketCompletion
  simp only [namedQueue] at hnone hfind hchunks
  simp only [hnone, hfind, hchunks]
  rfl

/-- Settles O44: what completed work leaves, for a launch and for a copy that has ended. -/
theorem packetWorkCompletes : Obligations.PacketWorkCompletes := by
  unfold Obligations.PacketWorkCompletes
  intro s k n q
  refine ⟨fun key l status hwork hfind hphase hstatus => ?launch, fun c hnone hfind hended => ?copy⟩
  case launch =>
    obtain ⟨hlaunches, hqueue, hdone⟩ := completeWork_tells (launchOff s k n key) k n l.done hstatus
    refine ⟨_, execPacketCompletion_launch hwork hfind hphase, ?_, ?_, fun h a hne hspad hplace => ?_⟩
    · rw [hlaunches]
      exact SMap.find_del_same _ _
    · rw [hqueue, launchOff, State.hostQueue_modQueue_same]
      rfl
    · rw [hdone h a hne hspad]
      · rw [homeRead_congr (s := s) (u := launchOff s k n key) hspad rfl rfl]
      · rw [← hplace]
        exact SamePlaces.wordHome ⟨⟨rfl, fun _ => rfl, fun _ => rfl⟩, rfl, rfl⟩ _ _
  case copy =>
    obtain ⟨-, hqueue, hdone⟩ := completeWork_tells (copyOff s k n) k n c.done
      (status := if c.failed then 7 else 0) (by split <;> decide)
    refine ⟨_, execPacketCompletion_copy hnone hfind hended, ?_, fun h a hne hspad hplace => ?_⟩
    · rw [hqueue, copyOff, State.hostQueue_modQueue_same]
    · rw [hdone h a hne hspad]
      · rw [homeRead_congr (s := s) (u := copyOff s k n) hspad rfl rfl]
      · rw [← hplace]
        exact SamePlaces.wordHome ⟨⟨rfl, fun _ => rfl, fun _ => rfl⟩, rfl, rfl⟩ _ _

end Sys2Proof.Machine
end

section
/-!
PROOFS. Laws of the packets of a queue: the turn it takes, the packet finished with and the stop (R418, R425).
-/
namespace Sys2Proof.Machine

/-! ### The turn of a queue -/

theorem tookTurn_places (s : State) (k : Nat) : SamePlaces s (tookTurn s k) := ⟨⟨rfl, fun _ => rfl, fun _ => rfl⟩, rfl, rfl⟩

section
variable {s u : State} (h : SamePlaces s u)
include h

theorem SamePlaces.doneOk (fn : Nat) (done : Word) (byLaunch : Bool) :
    doneOk u fn done byLaunch = Machine.doneOk s fn done byLaunch := by
  simp only [Machine.doneOk, wordWritable, h.wown, h.directPa]

theorem SamePlaces.walk_eq : Machine.walk u = Machine.walk s := funext₂ h.walk

theorem SamePlaces.hostOrder (fn : Nat) (c : HostCopy) : hostOrder u fn c = Machine.hostOrder s fn c := by
  have htso : hostTso u fn = hostTso s fn := by
    unfold hostTso
    rw [h.walk_eq]
  have hsame : hostSame u fn = hostSame s fn := by
    unfold hostSame
    rw [h.walk_eq]
  rw [Machine.hostOrder, Machine.hostOrder, htso, hsame]

/-- The packet at QRDIX reads the same where the places and the queue's ring are the same. -/
theorem SamePlaces.readPacket {k : Nat} (haddr : packetAddr (u.hostQueue k) (u.hostQueue k).rdix
    = packetAddr (s.hostQueue k) (s.hostQueue k).rdix) : readPacket u k = Machine.readPacket s k := by
  have hring : ringPage u = ringPage s := by
    unfold ringPage
    rw [h.walk_eq]
  rw [Machine.readPacket, Machine.readPacket]
  rw [haddr, h.directRead, hring]

end

/-- The packet at QRDIX of the type asked for is taken. -/
theorem PacketAt.takePacket {s : State} {k type p : Nat} (h : PacketAt s k type p) :
    takePacket s k type = (tookTurn s k, some p) := by
  obtain ⟨hfetch, hturn, hread, hwell, htype⟩ := h
  rw [Machine.takePacket, if_neg (by simp [hfetch, hturn])]
  simp [hread, hwell, htype]

theorem PacketAt.resetting {s : State} {k type p : Nat} (h : PacketAt s k type p) : s.service.resetting = false := by
  have hfetch := h.fetches
  simp only [mayFetch, Bool.and_eq_true, Bool.not_eq_true'] at hfetch
  exact hfetch.1.2

/-! ### The packet's end -/

/-- A packet whose first word can be written is finished with. -/
theorem finishPacket_done {u : State} {k p : Nat} (h : PacketWritable u k p) : PacketDone u (finishPacket u k p) k p := by
  obtain ⟨v, hv⟩ := h
  have hkept := directWrite_outside hv
  have hfinish : finishPacket u k p
      = (drainHost v (k / 16)).modQueue k (fun q => { q with rdix := (q.rdix + 1) % 2 ^ 32, busy := none }) := by
    simp only [finishPacket, hv]
  have hqueue : (drainHost v (k / 16)).hostQueue k = u.hostQueue k := by rw [hkept]; rfl
  rw [hfinish]
  refine ⟨⟨v, hv, rfl⟩, fun e he => ?_, ?_, fun j hj => ?_, ?_⟩
  · simpa using (List.mem_filter.mp he).2
  · rw [State.hostQueue_modQueue_same, hqueue]
  · rw [State.find_modQueue_other hj, hkept]
    rfl
  · rw [hkept]
    rfl

/-- A queue stops at its packet with a code other than OK. -/
theorem stopQueue_stops (s : State) (k : Nat) {code : Nat} (hcode : code < 256) (hne : code ≠ 0) (idx : Nat) :
    QueueStops s (stopQueue s k code idx) k code idx := by
  have hfail : (256 * b2n ((s.hostQueue k).qstat.getLsbD 8 || code != 0)) = 256 := by simp [hne, b2n]
  have hqueues : (stopQueue s k code idx).queues
      = ((queueEvent s k code idx).modQueue k (fun q => { q with stopped := true })).queues := by
    rw [stopQueue, raiseEvent_outside]
  refine ⟨?_, fun j hj => ?_, raiseEvent_event _ _ (by decide), ?_⟩
  · rw [State.hostQueue, hqueues]
    show ((queueEvent s k code idx).modQueue k (fun q => { q with stopped := true })).hostQueue k = _
    rw [State.hostQueue_modQueue_same, queueEvent_hostQueue s k hcode, eventWord, hfail]
  · rw [hqueues, State.find_modQueue_other hj, queueEvent, State.find_modQueue_other hj]
  · rw [stopQueue, raiseEvent_outside]
    rfl

end Sys2Proof.Machine
end

section
/-!
PROOFS. WAITSIG, SIGNAL and COPY packets (R427 to R429).
-/
namespace Sys2Proof.Machine

/-- A WAITSIG packet in its turn: it stops its queue at an error, passes, or waits. -/
theorem execPacketWaitsig_eq {s : State} {p : Nat} {h : Home} {a : Nat} (hat : PacketAt s (namedQueue s) 2 p)
    (halign : bitsOf p 64 64 % 8 = 0) (hplace : hostPlace s (namedQueue s / 16) (w64 (bitsOf p 64 64)) .read = some (h, a)) :
    exec .packetWaitsig s = .next (
      if bitOf (homeRead s h a 8) 63 then
        stopQueue (tookTurn s (namedQueue s)) (namedQueue s) 7 (s.hostQueue (namedQueue s)).rdix
      else if homeRead s h a 8 ≤ bitsOf p 128 63 then finishPacket (tookTurn s (namedQueue s)) (namedQueue s) p
      else tookTurn s (namedQueue s)) := by
  have htake := hat.takePacket
  have hplace' := (tookTurn_places s (namedQueue s)).hostPlace (namedQueue s / 16) (w64 (bitsOf p 64 64)) .read
  rw [hplace] at hplace'
  have hread : homeRead (tookTurn s (namedQueue s)) h a 8 = homeRead s h a 8 := by cases h <;> rfl
  show execPacketWaitsig s = _
  unfold execPacketWaitsig
  simp only [namedQueue] at htake hplace' hread ⊢
  simp only [htake, halign, hplace', hread, ne_eq, not_true_eq_false, if_false]
  split
  · rfl
  · split <;> rfl

/-- What a SIGNAL packet makes of the word it names. -/
def signalWord (s : State) (p : Nat) (h : Home) (a : Nat) : Nat :=
  if bitOf p 192 then (homeRead s h a 8 + bitsOf p 128 64) % 2 ^ 64 else bitsOf p 128 64

/-- A SIGNAL packet whose queue has no work left stores or adds; the writes before it and its own are flushed. -/
theorem execPacketSignal_goes {s : State} {p : Nat} {h : Home} {a : Nat} (hat : PacketAt s (namedQueue s) 3 p)
    (halign : bitsOf p 64 64 % 8 = 0)
    (hplace : hostPlace s (namedQueue s / 16) (w64 (bitsOf p 64 64)) (if bitOf p 192 then .readWrite else .write) = some (h, a))
    (hlaunches : (s.hostQueue (namedQueue s)).launches = []) (hcopies : (s.hostQueue (namedQueue s)).copies = []) :
    exec .packetSignal s = .next (finishPacket
      (drainHost (homeWrite (drainHost (tookTurn s (namedQueue s)) (namedQueue s / 16)) (namedQueue s / 16) h a
        (enabledBytes (signalWord s p h a) 8)) (namedQueue s / 16)) (namedQueue s) p) := by
  have htake := hat.takePacket
  have hplace' := (tookTurn_places s (namedQueue s)).hostPlace (namedQueue s / 16) (w64 (bitsOf p 64 64))
    (if bitOf p 192 then .readWrite else .write)
  rw [hplace] at hplace'
  have hread : homeRead (tookTurn s (namedQueue s)) h a 8 = homeRead s h a 8 := by cases h <;> rfl
  have hlaunches' : ((tookTurn s (namedQueue s)).hostQueue (namedQueue s)).launches = [] := hlaunches
  have hcopies' : ((tookTurn s (namedQueue s)).hostQueue (namedQueue s)).copies = [] := hcopies
  show execPacketSignal s = _
  unfold execPacketSignal
  simp only [namedQueue] at htake hplace' hread hlaunches' hcopies' ⊢
  simp only [htake, halign, hplace', hread, hlaunches', hcopies', List.isEmpty_nil, Bool.not_true, Bool.or_self,
    Bool.false_eq_true, if_false, if_true, signalWord]

/-- A SIGNAL packet waits while its queue has work. -/
theorem execPacketSignal_waits {s : State} {p : Nat} (hat : PacketAt s (namedQueue s) 3 p)
    (hwork : (s.hostQueue (namedQueue s)).launches ≠ [] ∨ (s.hostQueue (namedQueue s)).copies ≠ []) :
    exec .packetSignal s = .next (tookTurn s (namedQueue s)) := by
  have htake := hat.takePacket
  have hwork' : (!((tookTurn s (namedQueue s)).hostQueue (namedQueue s)).launches.isEmpty
      || !((tookTurn s (namedQueue s)).hostQueue (namedQueue s)).copies.isEmpty) = true := by
    show (!(s.hostQueue (namedQueue s)).launches.isEmpty || !(s.hostQueue (namedQueue s)).copies.isEmpty) = true
    simpa [List.isEmpty_iff] using hwork
  show execPacketSignal s = _
  unfold execPacketSignal
  simp only [namedQueue] at htake hwork' ⊢
  simp only [htake, hwork', if_true]

/-- The copy that a COPY packet describes, in the order it takes at its start. -/
def copyOf (s : State) (k p : Nat) : HostCopy :=
  let c : HostCopy := { dst := w64 (bitsOf p 64 64), src := w64 (bitsOf p 128 64), done := w64 (bitsOf p 256 64),
                        len := bitsOf p 192 64 }
  { c with order := (hostOrder s (k / 16) c).code }

/-- A COPY packet becomes work of its queue. -/
theorem execPacketCopy_starts {s : State} {p : Nat} (hcount : s.sel.count = 0) (hat : PacketAt s (namedQueue s) 4 p)
    (hlen : bitsOf p 192 64 < 2 ^ 40) (hdone : bitsOf p 256 64 % 8 = 0) :
    exec .packetCopy s = .next (finishPacket ((tookTurn s (namedQueue s)).modQueue (namedQueue s) (fun q =>
      { q with copies := SMap.put (workKey q q.rdix) (copyOf s (namedQueue s) p) q.copies })) (namedQueue s) p) := by
  have htake := hat.takePacket
  have hgood : ¬(2 ^ 40 ≤ bitsOf p 192 64 ∨ bitsOf p 256 64 % 8 ≠ 0) := by omega
  have hcopy : takeCopy (tookTurn s (namedQueue s)) (namedQueue s) p = finishPacket ((tookTurn s (namedQueue s)).modQueue
      (namedQueue s) (fun q => { q with copies := SMap.put (workKey q q.rdix) (copyOf s (namedQueue s) p) q.copies }))
      (namedQueue s) p := by
    rw [takeCopy]
    simp only [if_neg hgood, (tookTurn_places s (namedQueue s)).hostOrder]
    rfl
  show execPacketCopy s = _
  unfold execPacketCopy
  simp only [namedQueue] at htake hcopy ⊢
  simp only [hcount, htake, hcopy, ne_eq, not_true_eq_false, if_false]

end Sys2Proof.Machine
end

section
/-!
PROOFS. A LAUNCH packet enqueued, and its launch accepted (R143, R147, R160, R426).
-/
namespace Sys2Proof.Machine

/-! ### The launch is enqueued -/

/-- Enqueueing a launch changes the launches and the dies' levels only. -/
theorem enqueueLaunch_outside (s : State) (l : Launch) :
    enqueueLaunch s l = { s with
      launches := SMap.put s.nextLaunch { l with serial := s.nextLaunch } s.launches, nextLaunch := s.nextLaunch + 1,
      dies := (enqueueLaunch s l).dies } := by
  unfold enqueueLaunch
  dsimp only
  refine List.foldlRecOn _ _ (motive := fun t : State => t = { s with
      launches := SMap.put s.nextLaunch { l with serial := s.nextLaunch } s.launches, nextLaunch := s.nextLaunch + 1,
      dies := t.dies }) rfl ?_
  intro u hu e _
  split
  · exact hu
  · unfold beginWait
    split
    · exact hu
    · rw [hu]
      rfl

/-- The state with other queues served last. -/
def withServed (v : SMap Nat) (s : State) : State := { s with served := v }

theorem beginWait_withServed (v : SMap Nat) (s u : State) (die queue : Nat) :
    beginWait (withServed v s) (withServed v u) die queue = withServed v (beginWait s u die queue) := by
  have hwaits : queueWaits (withServed v s) die queue = queueWaits s die queue := rfl
  unfold beginWait
  rw [hwaits]
  split <;> rfl

theorem enqueueLaunch_withServed (v : SMap Nat) (s : State) (l : Launch) :
    enqueueLaunch (withServed v s) l = withServed v (enqueueLaunch s l) := by
  refine List.foldl_hom (withServed v) (init := ({ s with
    launches := SMap.put s.nextLaunch { l with serial := s.nextLaunch } s.launches, nextLaunch := s.nextLaunch + 1 } : State)) ?_
  intro u d
  have hwaits : queueWaits (withServed v s) d.1 l.queue = queueWaits s d.1 l.queue := rfl
  rw [hwaits]
  split
  · rfl
  · exact beginWait_withServed v s u d.1 l.queue

/-- A queue's turn and a launch enqueued commute. -/
theorem enqueueLaunch_tookTurn (s : State) (k : Nat) (l : Launch) :
    enqueueLaunch (tookTurn s k) l = tookTurn (enqueueLaunch s l) k := by
  have hturn : tookTurn (enqueueLaunch s l) k
      = withServed (SMap.put (linkOfFn (k / 16)) (queueNumber s k) s.served) (enqueueLaunch s l) := by
    rw [enqueueLaunch_outside]
    rfl
  exact hturn ▸ enqueueLaunch_withServed _ s l

/-- The state with the launch of the packet at QRDIX on its queue. -/
def launchTaken (s : State) (k : Nat) (l : Launch) : State :=
  (enqueueLaunch s l).modQueue k (fun q => { q with busy := some s.nextLaunch })

/-- The packet of an enqueued launch stands at QRDIX as before, and it is its queue's turn. -/
theorem PacketAt.launchTaken {s : State} {k type p : Nat} (hat : PacketAt s k type p) (l : Launch) :
    PacketAt (launchTaken s k l) k type p := by
  obtain ⟨hfetch, hturn, hread, hwell, htype⟩ := hat
  have hqueue : (Machine.launchTaken s k l).hostQueue k = { s.hostQueue k with busy := some s.nextLaunch } := by
    rw [Machine.launchTaken, State.hostQueue_modQueue_same, enqueueLaunch_outside]
    rfl
  have hother (j : Nat) (hj : j ≠ k) : (Machine.launchTaken s k l).hostQueue j = s.hostQueue j := by
    rw [State.hostQueue, Machine.launchTaken, State.find_modQueue_other hj, enqueueLaunch_outside]
    rfl
  have hmay (j : Nat) : mayFetch (Machine.launchTaken s k l) j = mayFetch s j := by
    have hservice : (Machine.launchTaken s k l).service = s.service := by
      rw [Machine.launchTaken, enqueueLaunch_outside]
      rfl
    by_cases hj : j = k
    · simp only [mayFetch, hj, hqueue, hservice]
    · simp only [mayFetch, hother j hj, hservice]
  have hplaces : SamePlaces s (Machine.launchTaken s k l) := by
    rw [Machine.launchTaken, enqueueLaunch_outside]
    exact ⟨⟨rfl, fun _ => rfl, fun _ => rfl⟩, rfl, rfl⟩
  refine ⟨hmay k ▸ hfetch, ?_, ?_, hwell, htype⟩
  · have hserved : (Machine.launchTaken s k l).served = s.served := by
      rw [Machine.launchTaken, enqueueLaunch_outside]
      rfl
    have hnumber : queueNumber (Machine.launchTaken s k l) = queueNumber s := by
      rw [Machine.launchTaken, enqueueLaunch_outside]
      rfl
    have hqueues : (Machine.launchTaken s k l).queues = SMap.put k { s.hostQueue k with busy := some s.nextLaunch } s.queues := by
      rw [Machine.launchTaken, enqueueLaunch_outside]
      rfl
    simp only [queueTurn, List.all_eq_true, hmay, hnumber, hserved, hqueues] at hturn ⊢
    intro e he
    rcases SMap.mem_put he with heq | hin
    · simp [heq]
    · exact hturn e hin
  · rw [hplaces.readPacket (by rw [hqueue]; rfl)]
    exact hread

/-- The launch that a LAUNCH packet describes (R426). -/
def packetLaunch (s : State) (k p : Nat) : Launch :=
  launchOfBlock (k / 16) (queueNumber s k) (bitOf p 20) (bitOf p 21) (bitsOf p 16 3) false (s.hostQueue k).rdix
    ((List.range 7).map (fun i => bitsOf p (64 + 64 * i) 64))

/-- A LAUNCH packet in its turn whose launch waits already: the launch is judged. -/
theorem execPacketLaunch_busy {s : State} {p key : Nat} (hitem : s.sel.item = 0) (hat : PacketAt s (namedQueue s) 1 p)
    (hbusy : (s.hostQueue (namedQueue s)).busy = some key) :
    exec .packetLaunch s = .next (judgePacket (tookTurn s (namedQueue s)) (namedQueue s) key p) := by
  have htake := hat.takePacket
  have hbusy' : ((tookTurn s (namedQueue s)).hostQueue (namedQueue s)).busy = some key := hbusy
  show execPacketLaunch s = _
  unfold execPacketLaunch
  simp only [namedQueue] at htake hbusy' ⊢
  simp only [hitem, htake, hbusy', ne_eq, not_true_eq_false, if_false]

/-- A LAUNCH packet taken anew: its launch is enqueued and judged. -/
theorem execPacketLaunch_new {s : State} {p : Nat} (hitem : s.sel.item = 0) (hat : PacketAt s (namedQueue s) 1 p)
    (hbusy : (s.hostQueue (namedQueue s)).busy = none)
    (hdone : doneOk s (namedQueue s / 16) (packetLaunch s (namedQueue s) p).done false = true) :
    exec .packetLaunch s = .next (judgePacket (launchTaken (tookTurn s (namedQueue s)) (namedQueue s)
      (packetLaunch s (namedQueue s) p)) (namedQueue s) s.nextLaunch p) := by
  have htake := hat.takePacket
  have hbusy' : ((tookTurn s (namedQueue s)).hostQueue (namedQueue s)).busy = none := hbusy
  have hnew : takeLaunch (tookTurn s (namedQueue s)) (namedQueue s) p = judgePacket (launchTaken (tookTurn s (namedQueue s))
      (namedQueue s) (packetLaunch s (namedQueue s) p)) (namedQueue s) s.nextLaunch p := by
    have hdone' := (tookTurn_places s (namedQueue s)).doneOk (namedQueue s / 16) (packetLaunch s (namedQueue s) p).done false
    rw [hdone] at hdone'
    exact if_neg fun hbad => absurd (hdone'.symm.trans ((Bool.not_eq_true' _).mp hbad)) (by decide)
  show execPacketLaunch s = _
  unfold execPacketLaunch
  simp only [namedQueue] at htake hbusy' hnew ⊢
  simp only [hitem, htake, hbusy', hnew, ne_eq, not_true_eq_false, if_false]

/-- The step that takes a LAUNCH packet is the step of the state with its launch on the queue. -/
theorem execPacketLaunch_enqueues {s : State} {p : Nat} (hitem : s.sel.item = 0) (hat : PacketAt s (namedQueue s) 1 p)
    (hbusy : (s.hostQueue (namedQueue s)).busy = none)
    (hdone : doneOk s (namedQueue s / 16) (packetLaunch s (namedQueue s) p).done false = true) :
    exec .packetLaunch s = exec .packetLaunch (launchTaken s (namedQueue s) (packetLaunch s (namedQueue s) p)) := by
  generalize hl : packetLaunch s (namedQueue s) p = l at *
  have hsel : (launchTaken s (namedQueue s) l).sel = s.sel := by
    rw [launchTaken, enqueueLaunch_outside]
    rfl
  have hnamed : namedQueue (launchTaken s (namedQueue s) l) = namedQueue s :=
    congrArg (fun c : Sel => 16 * c.fn + c.queue) hsel
  have hturn : launchTaken (tookTurn s (namedQueue s)) (namedQueue s) l
      = tookTurn (launchTaken s (namedQueue s) l) (namedQueue s) := by
    rw [launchTaken, enqueueLaunch_tookTurn]
    rfl
  rw [execPacketLaunch_new hitem hat hbusy (hl ▸ hdone), hl, hturn,
    execPacketLaunch_busy (key := s.nextLaunch) (by rw [hsel]; exact hitem) (by rw [hnamed]; exact hat.launchTaken l)
      (by rw [hnamed, launchTaken, State.hostQueue_modQueue_same]), hnamed]

/-! ### The launch is accepted -/

/-- A remap table with fewer entries than it has places has a free one. -/
theorem freeEntry_of_length {d : Die} (h : d.remap.length < 1024) : ∃ e, freeEntry d = some e := by
  rw [← Option.isSome_iff_exists, freeEntry, List.find?_isSome]
  by_contra hfull
  have hsub : List.range 1024 ⊆ d.remap.map (·.1) := fun e he => by
    have hfound : SMap.find e d.remap ≠ none := fun hnone => hfull ⟨e, he, by rw [hnone]; rfl⟩
    obtain ⟨v, hv⟩ := Option.ne_none_iff_exists'.mp hfound
    exact List.mem_map.mpr ⟨(e, v), SMap.mem_of_find hv, rfl⟩
  have hle := (List.nodup_range.subperm hsub).length_le
  rw [List.length_range, List.length_map] at hle
  omega

theorem beginWait_outside (before s : State) (die queue : Nat) :
    beginWait before s die queue = { s with dies := (beginWait before s die queue).dies } := by
  unfold beginWait
  split <;> rfl

/-- A queue that begins to wait leaves the remap table. -/
theorem beginWait_remap (before s : State) (die queue : Nat) :
    ((beginWait before s die queue).die die).remap = (s.die die).remap := by
  unfold beginWait
  split
  · rfl
  · rw [State.die_modDie_same]

/-- What the launch becomes when it is accepted. -/
def acceptedLaunch (s : State) (l : Launch) : Launch :=
  { l with phaseOf := .accepted, launchId := (s.function l.fn).launchCount, ownerTag := l.serial % 65535 + 1, phase := 0,
           pages := [] }

/-- The state with the launch accepted, before its task is added. -/
def acceptedIn (s : State) (key : Nat) (l : Launch) : State :=
  let u := s.modFunction l.fn (fun f => { f with launchCount := f.launchCount + 1 })
  { u with launches := SMap.put key (acceptedLaunch s l) u.launches }

theorem acceptedIn_function (s : State) (key : Nat) (l : Launch) (fn : Nat) :
    ∃ n, (acceptedIn s key l).function fn = { s.function fn with launchCount := n } := by
  have hkept : (acceptedIn s key l).function fn
      = (s.modFunction l.fn (fun f => { f with launchCount := f.launchCount + 1 })).function fn := rfl
  rw [hkept]
  by_cases h : fn = l.fn
  · rw [h, State.function_modFunction_same]
    exact ⟨_, rfl⟩
  · rw [State.function_modFunction_other _ h]
    exact ⟨_, rfl⟩

/-- The task that an accepted launch gets at an entry of the remap table (R147, R160). -/
def addedTask (s : State) (key : Nat) (l : Launch) (die e x y : Nat) : Task :=
  { launch := key, die := die, entry := e, lx := x, ly := y,
    spsize := if l.spadkb = 0 then 6291456 else l.spadkb * 1024, strands := [(0, newStrand l.code l.args)],
    ctxBase := (areaOn s die (contextBytes (areaSpsize l)) []).getD 0 }

theorem addTask_outside {s : State} {key : Nat} {l : Launch} {die e : Nat} (x y : Nat)
    (hentry : freeEntry (s.die die) = some e) :
    addTask s key l die x y = { s with
      tasks := SMap.put s.nextTask (addedTask s key l die e x y) s.tasks, nextTask := s.nextTask + 1,
      dies := (addTask s key l die x y).dies } := by
  unfold addTask
  dsimp only
  rw [beginWait_outside, hentry]
  rfl

theorem addTask_remap {s : State} {key : Nat} {l : Launch} {die e : Nat} (x y : Nat)
    (hentry : freeEntry (s.die die) = some e) :
    ((addTask s key l die x y).die die).remap = SMap.put e s.nextTask (s.die die).remap := by
  unfold addTask
  dsimp only
  rw [beginWait_remap, State.die_modDie_same, hentry]
  rfl

/-- A new strand starts with its argument in g1 and 0 in the others. -/
theorem newStrand_gr (pc arg : Word) (n : Nat) : (newStrand pc arg).r.gr n = if n = 1 then arg else 0 := by
  show (if n = 0 then 0 else SMap.get 0 (SMap.set 0 [] 1 arg) n) = _
  by_cases h : n = 1
  · simp [h]
  · rw [SMap.get_set_other 0 [] h, if_neg h]
    split <;> rfl

/-- The one task of an accepted launch waits at CODE with one strand. -/
theorem acceptedOne_addTask {s : State} {key die : Nat} {l : Launch} (hroom : (s.die die).remap.length < 1024) :
    AcceptedOne s (addTask (acceptedIn s key l) key (acceptedLaunch s l) die 0 0) key die l := by
  obtain ⟨e, he⟩ := freeEntry_of_length hroom
  have hremap := addTask_remap (s := acceptedIn s key l) (key := key) (l := acceptedLaunch s l) 0 0 he
  have hadd := addTask_outside (s := acceptedIn s key l) (key := key) (l := acceptedLaunch s l) 0 0 he
  refine ⟨?launch, ?count, ?task, ?number, ?others⟩
  case launch =>
    rw [hadd]
    exact SMap.find_put_same _ _ _
  case count =>
    have hfn : (addTask (acceptedIn s key l) key (acceptedLaunch s l) die 0 0).function l.fn
        = (s.modFunction l.fn (fun f => { f with launchCount := f.launchCount + 1 })).function l.fn := by
      rw [hadd]
      rfl
    rw [hfn, State.function_modFunction_same]
  case task =>
    refine ⟨e, addedTask (acceptedIn s key l) key (acceptedLaunch s l) die e 0 0, ?_, he, ?_, rfl, rfl, rfl, rfl, rfl, rfl,
      rfl, rfl, rfl, fun _ => rfl, fun k => ?_, rfl, newStrand_gr l.code l.args⟩
    · rw [hadd]
      exact SMap.find_put_same _ _ _
    · rw [hremap]
      exact SMap.find_put_same _ _ _
    · by_cases hk : k = 0
      · subst hk
        rfl
      · simp [addedTask, Task.strand, SMap.find, hk, Ne.symm hk]
  case number =>
    rw [hadd]
    rfl
  case others =>
    intro j hj
    rw [hadd]
    exact SMap.find_put_other hj _ _

/-- A launch of one position, free and without LOG, is accepted: its one task is added. -/
theorem acceptLaunch_one {s : State} {key die : Nat} {l : Launch} (hwidth : l.width = 1) (hheight : l.height = 1)
    (hdet : l.det = false) (hlog : l.log = false) (hdie : gridDie s l.fn l.ox l.oy 0 = some die)
    (hroom : (s.die die).remap.length < 1024) :
    acceptLaunch s key l 0 = addTask (acceptedIn s key l) key (acceptedLaunch s l) die 0 0 := by
  have hpos : positions l = [(0, 0)] := by simp [positions, hwidth, hheight]
  have hgrid : gridDie (acceptedIn s key l) l.fn (l.ox + 0) (l.oy + 0) 0 = some die := by
    obtain ⟨n, hfn⟩ := acceptedIn_function s key l l.fn
    rw [← hdie]
    simp only [gridDie, hfn]
    rfl
  have hfree : ¬l.det = true := by simp [hdet]
  unfold acceptLaunch
  dsimp only
  rw [if_neg hfree, if_neg hfree, hpos]
  show List.foldl _ (acceptedIn s key l) _ = _
  rw [List.foldl_cons, List.foldl_nil]
  dsimp only
  rw [hgrid]
  refine slog_free (s := addTask (acceptedIn s key l) key (acceptedLaunch s l) die 0 0) ?_ _ _ _ _ _
  have hlaunch : (addTask (acceptedIn s key l) key (acceptedLaunch s l) die 0 0).launch key = acceptedLaunch s l := by
    obtain ⟨e, he⟩ := freeEntry_of_length hroom
    rw [addTask_outside (s := acceptedIn s key l) 0 0 he]
    exact State.launch_of_find (SMap.find_put_same _ _ _)
  rw [hlaunch]
  exact hlog

/-! ### The launch is judged -/

/-- The judgement of a launch that is not deterministic is the same after a queue's turn. -/
theorem judge_tookTurn (s : State) (k : Nat) {l : Launch} (hdet : l.det = false) (module : Nat) (noContext : Bool) :
    judge (tookTurn s k) l module noContext = judge s l module noContext := by
  have hareas (size : Nat) (dies : List Nat) (more : List (Nat × Nat × Nat)) :
      areasFit (tookTurn s k) size dies more = areasFit s size dies more := by
    induction dies generalizing more with
    | nil => rfl
    | cons d r ih =>
      have harea : areaOn (tookTurn s k) d size = areaOn s d size := rfl
      simp only [areasFit, harea, ih]
  have hgrid : gridDie (tookTurn s k) = gridDie s := rfl
  have hdies (d : Nat) : (tookTurn s k).die d = s.die d := rfl
  unfold judge
  simp only [hareas, hgrid, hdies, hdet, (tookTurn_places s k).directRead, Bool.false_and]

/-- The earliest launch of its queue, of one position, free and without LOG, is accepted where its judgement allows. -/
theorem judgeLaunch_accepts {s : State} {key die : Nat} {l : Launch} {noContext : Bool}
    (hfind : SMap.find key s.launches = some l) (hphase : l.phaseOf = .waiting)
    (hfirst : ∀ e ∈ s.launches, e.2.queue = l.queue → e.2.phaseOf = .waiting → l.serial ≤ e.2.serial)
    (hreset : s.service.resetting = false) (hwidth : l.width = 1) (hheight : l.height = 1) (hlog : l.log = false)
    (hjudge : judge s l 0 noContext = .accept) (hdie : gridDie s l.fn l.ox l.oy 0 = some die)
    (hroom : (s.die die).remap.length < 1024) : judgeLaunch s key 0 noContext = acceptLaunch s key l 0 := by
  have hl := State.launch_of_find hfind
  have hearliest : s.launches.all (fun e => !(e.2.queue == l.queue && e.2.phaseOf == .waiting && e.2.serial < l.serial))
      = true := by
    simp only [List.all_eq_true, Bool.not_eq_true', Bool.and_eq_false_imp, Bool.and_eq_true, beq_iff_eq,
      decide_eq_false_iff_not, Nat.not_lt]
    exact fun e he ⟨hqueue, hwaits⟩ => hfirst e he hqueue hwaits
  have hpos : positions l = [(0, 0)] := by simp [positions, hwidth, hheight]
  have hfits : entriesFit s [die] = true := by
    simp [entriesFit]
    omega
  unfold judgeLaunch
  simp only [hl, hfind, hphase, hearliest, hreset, hjudge, hpos, List.filterMap_cons, List.filterMap_nil, Nat.add_zero, hdie,
    hfits, List.all_cons, List.all_nil, slogRoomFor_free (hl ▸ hlog), Option.isNone_some, bne_self_eq_false, Bool.not_true,
    Bool.or_self, Bool.and_self, Bool.false_eq_true, if_false, if_true]

/-- The packet of an accepted launch leaves its queue. -/
theorem judgePacket_accepted {s u : State} {k key p : Nat} (hjudge : judgeLaunch s key 0 s.sel.flag = u)
    (hphase : (u.launch key).phaseOf = .accepted) :
    judgePacket s k key p
      = finishPacket (u.modQueue k (fun q => { q with launches := SMap.put (workKey q q.rdix) key q.launches })) k p := by
  unfold judgePacket
  rw [hjudge]
  dsimp only
  rw [if_neg (by rw [hphase]; decide)]
  rfl

/-- The packet's first word can be written in a state that translates and stores alike, whose queue stands at it. -/
theorem SameStore.packetWritable {s u : State} {k p : Nat} (h : SameStore s u)
    (haddr : packetAddr (u.hostQueue k) (u.hostQueue k).rdix = packetAddr (s.hostQueue k) (s.hostQueue k).rdix)
    (hs : PacketWritable s k p) : PacketWritable u k p := by
  obtain ⟨v, hv⟩ := hs
  refine ⟨withStores u v, ?_⟩
  rw [haddr, h.directWrite, hv]
  rfl

/-- An accepted launch leaves what translation and stores depend on. -/
theorem addTask_store {s : State} {key die : Nat} {l : Launch} (hroom : (s.die die).remap.length < 1024) :
    SameStore s (addTask (acceptedIn s key l) key (acceptedLaunch s l) die 0 0)
      ∧ (addTask (acceptedIn s key l) key (acceptedLaunch s l) die 0 0).queues = s.queues := by
  obtain ⟨e, he⟩ := freeEntry_of_length hroom
  rw [addTask_outside (s := acceptedIn s key l) 0 0 he]
  refine ⟨⟨⟨rfl, fun fn => ?_, fun fn => ?_⟩, rfl, rfl, rfl⟩, rfl⟩
  · obtain ⟨n, hfn⟩ := acceptedIn_function s key l fn
    show ((acceptedIn s key l).function fn).vfroot = _
    rw [hfn]
  · obtain ⟨n, hfn⟩ := acceptedIn_function s key l fn
    show ((acceptedIn s key l).function fn).hostroot = _
    rw [hfn]

end Sys2Proof.Machine
end

section
/-!
PROOFS. O43, from the lemmas on each packet.
-/
namespace Sys2Proof.Machine

/-- Settles O43: each packet in its turn by its step, its end by `finishPacket_done`. -/
theorem packetsTaken : Obligations.PacketsTaken := by
  unfold Obligations.PacketsTaken
  intro p s hitem hcount k q fn addr w
  refine ⟨fun h a hat halign hplace => ?waitsig, fun h a hat halign hplace => ?signal, fun hat => ?copy,
    fun hat hbusy => ?enqueued, fun key die l hat hbusy hfind hphase hfirst hwidth hheight hdet hlog hjudge hdie hroom hwrite =>
      ?accepted⟩
  case waitsig =>
    have hex := execPacketWaitsig_eq hat halign hplace
    refine ⟨fun herr => ?_, fun hok hle hwrite => ?_, fun hok hlt => ?_⟩
    · rw [if_pos herr] at hex
      exact ⟨_, hex, stopQueue_stops w k (by decide) (by decide) q.rdix⟩
    · rw [if_neg (by simp [hok]), if_pos hle] at hex
      exact ⟨_, hex, finishPacket_done hwrite⟩
    · rw [if_neg (by simp [hok]), if_neg (Nat.not_le.mpr hlt)] at hex
      exact hex
  case signal =>
    exact ⟨fun hlaunches hcopies hwrite =>
      ⟨_, execPacketSignal_goes hat halign hplace hlaunches hcopies, finishPacket_done hwrite⟩, execPacketSignal_waits hat⟩
  case copy =>
    exact fun hlen hdone hwrite => ⟨_, execPacketCopy_starts hcount hat hlen hdone, finishPacket_done hwrite⟩
  case enqueued =>
    intro l hdone waiting
    refine ⟨execPacketLaunch_enqueues hitem hat hbusy hdone, ?_, ?_⟩
    · rw [enqueueLaunch_outside]
    · rw [enqueueLaunch_outside]
  case accepted =>
    obtain ⟨hlaunch, hcount', htask, hnumber, hothers⟩ := acceptedOne_addTask (s := w) (key := key) (l := l) hroom
    obtain ⟨hstore, hqueues⟩ := addTask_store (s := w) (key := key) (l := l) hroom
    have haccepts : judgeLaunch w key 0 w.sel.flag = addTask (acceptedIn w key l) key (acceptedLaunch w l) die 0 0 :=
      (judgeLaunch_accepts (s := w) hfind hphase hfirst hat.resetting hwidth hheight hlog
        ((judge_tookTurn s k hdet 0 s.sel.flag).trans hjudge) hdie hroom).trans
        (acceptLaunch_one hwidth hheight hdet hlog hdie hroom)
    generalize addTask (acceptedIn w key l) key (acceptedLaunch w l) die 0 0 = u at *
    have hphase' : (u.launch key).phaseOf = .accepted := by rw [State.launch_of_find hlaunch]
    refine ⟨_, u, execPacketLaunch_busy hitem hat hbusy, ⟨hlaunch, hcount', htask, hnumber, hothers⟩, ?_⟩
    rw [judgePacket_accepted haccepts hphase']
    refine finishPacket_done (SameStore.packetWritable (s := s) ?_ ?_ hwrite)
    · obtain ⟨⟨hmem, hvfroot, hhostroot⟩, hphysMap, htoHost, hhostView⟩ := hstore
      exact ⟨⟨hmem, hvfroot, hhostroot⟩, hphysMap, htoHost, hhostView⟩
    · have hqueue : u.hostQueue k = s.hostQueue k := by
        rw [State.hostQueue, hqueues]
        rfl
      rw [State.hostQueue_modQueue_same, hqueue]
      rfl

end Sys2Proof.Machine
end
